-- ==== Sys2Proof/Word.lean ====
section
/-! DEFINITION. The word types of the hub and their plainest arithmetic: bytes, 32-bit register words,
byte sequences in the two byte orders the spec uses (R28, R43, R69, R109). -/

namespace Sys2Proof

/-- One byte. -/
abbrev Byte := BitVec 8

/-- One register word: registers are 32 bits wide (R69). -/
abbrev Word := BitVec 32

/-- `width` bits of `n` from bit `lo` up. -/
def bitsAt (n lo width : Nat) : Nat := (n >>> lo) % 2 ^ width

/-- Bit `i` of `n`. -/
def bitAt (n i : Nat) : Bool := n.testBit i

/-- 1 or 0. -/
def bit01 (b : Bool) : Nat := if b then 1 else 0

/-- `n` bytes of `v`, least significant first. -/
def leBytes : Nat → Nat → List Byte
  | 0, _ => []
  | n + 1, v => BitVec.ofNat 8 v :: leBytes n (v / 256)

/-- `n` bytes of `v`, most significant first. -/
def beBytes (n v : Nat) : List Byte := (leBytes n v).reverse

/-- The number whose bytes, least significant first, are the list. -/
def ofLe : List Byte → Nat
  | [] => 0
  | b :: bs => b.toNat + 256 * ofLe bs

/-- The number whose bytes, most significant first, are the list. -/
def ofBe (bs : List Byte) : Nat := ofLe bs.reverse

/-- `n` read as a two's complement number of `width` bits. -/
def signed (width n : Nat) : Int :=
  let m := n % 2 ^ width
  if 2 ^ (width - 1) ≤ m then (m : Int) - (2 ^ width : Nat) else m

/-- An integer as an unsigned number of `width` bits, two's complement. -/
def unsignedOf (width : Nat) (z : Int) : Nat := (z % ((2 ^ width : Nat) : Int)).toNat

/-- `l` padded with zero bytes, or cut, to exactly `n` bytes. -/
def padTo (n : Nat) (l : List Byte) : List Byte := (l ++ List.replicate n 0).take n

/-- `n` bytes of `l` from byte `i`, zero past its end. -/
def sliceAt (l : List Byte) (i n : Nat) : List Byte := padTo n (l.drop i)

/-- The little-endian words of a byte list (the last one padded with zero bytes); `fuel` bounds the number of words. -/
def wordsOf : Nat → List Byte → List Word
  | 0, _ => []
  | _ + 1, [] => []
  | fuel + 1, l => BitVec.ofNat 32 (ofLe (l.take 4)) :: wordsOf fuel (l.drop 4)

/-- The bytes of a list of words, each little-endian. -/
def bytesOfWords (ws : List Word) : List Byte := ws.flatMap (fun w => leBytes 4 w.toNat)

end Sys2Proof
end

