-- ==== Sys2Proof/Syntax.lean ====
section
/-! DEFINITION. The commands of the hub: one constructor of `Instr` per row of spec/opcode_table.json, with the
operands the outside world brings (a frame as it arrives, a measured value, the register word software writes). -/

namespace Sys2Proof

/-- A Luaven frame: the 24-byte header of R109 field by field, and its payload in clear. The GCM tag and the CRC-32 stand in
the words on the line only. -/
structure RingFrame where
  type : BitVec 4
  cls : BitVec 3
  cm : Bool
  epoch : Bool
  enc : Bool
  copyDone : Bool
  side : Bool
  wrapped : Bool
  clr : Bool
  destNode : BitVec 8
  srcNode : BitVec 8
  seq : BitVec 16
  hopLimit : BitVec 8
  destUnit : BitVec 8
  typeSpecific : BitVec 48
  tsOrTxn : BitVec 64
  payload : List Byte
deriving DecidableEq, Repr

/-- A CAN or CAN FD frame (R225, R232). -/
structure CanFrame where
  id : BitVec 29
  ide : Bool
  rtr : Bool
  fdf : Bool
  brs : Bool
  esi : Bool
  len : Nat
  data : List Byte
deriving DecidableEq, Repr

/-- A frame that a bus channel has received, and how many ticks after its identifier field it ended (R227, R230). -/
structure CanRx where
  frame : CanFrame
  idAge : Nat
deriving DecidableEq, Repr

/-- Who issues a transaction or writes a queue window: the four local initiators of R46, or a station of the ring
named by node, side and initiator ID. -/
inductive Origin where
  | mgt
  | svc
  | jct
  | pol
  | ring (node : Nat) (side : Bool) (initiator : Nat)
deriving DecidableEq, Repr

/-- The opcodes of R41; codes 7 to 15 are reserved. -/
inductive TxnOp where
  | rd | wrPosted | wrAck | rmwSet | rmwClr | rmwSwap | fence
  | reserved (code : Nat)
deriving DecidableEq, Repr

/-- A request as an initiator issues it (R41, R45). -/
structure TxnSpec where
  op : TxnOp
  addr : BitVec 48
  x : Bool
  ts : Bool
  wide : Bool
  prefetch : Bool
  count : Nat
  data : List Byte
deriving DecidableEq, Repr

/-- How an I2C transfer ends (R39). -/
inductive I2cOutcome where
  | done | addrNack | dataNack | arbLost3
deriving DecidableEq, Repr

/-- The end of an I2C transfer: how, and after how many lost arbitrations before it ran (R68). -/
structure I2cEnd where
  how : I2cOutcome
  lost : Nat
deriving DecidableEq, Repr

/-- An I2C bus whose clock has been held low, and for how many µs (R39, R68). -/
structure I2cHold where
  bus : Nat
  heldUs : Nat
deriving DecidableEq, Repr

/-- The causes of a loss of receive lock (R95). -/
inductive LockCause where
  | cdr | los | markers | countMismatch
deriving DecidableEq, Repr

/-- What an access link loses when it goes down (R108): the receive clock, synchronisation, the negotiated result, or nothing of
the lane (a remote or local fault, or one port of several). -/
inductive LinkLoss where
  | cdr | sync | autoneg | fault
deriving DecidableEq, Repr

/-- An access link going down: its port, what it loses, and the invalid code groups or block errors of its lane since the
command before (R108). -/
structure LinkDown where
  port : Nat
  how : LinkLoss
  codeErrs : Nat
deriving DecidableEq, Repr

/-- How a lane delivered a frame: whether it cut it short, and its invalid code groups or block errors since the command
before (R108, R157). -/
structure LineEnd where
  truncated : Bool
  codeErrs : Nat
deriving DecidableEq, Repr

/-- The tap a GK5108 asks to move, and what it asks (R105). -/
inductive FrTap where
  | pre1 | main | post1
deriving DecidableEq, Repr

inductive FrReq where
  | increment | decrement | hold | preset | initialise
deriving DecidableEq, Repr

/-- How a transmission attempt ends (R233, R237). -/
inductive TxEnd where
  | sent | arbLost | error
deriving DecidableEq, Repr

/-- A CAN protocol error, numbered as STAT.LEC codes it (R240). -/
inductive CanErr where
  | stuff | form | ack | bit1 | bit0 | crc | protocolException
deriving DecidableEq, Repr

/-- Where a channel meets an error, as far as ISO 11898-1 counts it by that (R237): in a frame; at a stuff bit before the RTR
bit, sent recessive and seen dominant; at a bit of its own active error or overload flag; in a frame, with a dominant bit right
after its error flag or, at a missing acknowledgement, during its passive error flag; eight more dominant bits after a flag. -/
inductive CanPlace where
  | frame | arbitration | flag | afterFlag | run
deriving DecidableEq, Repr

/-- One departure record (R326): the queue, and the frame last dequeued from it. -/
structure DepartRec where
  queue : Nat
  ring : Bool
  src : Nat
  side : Bool
  seq : Nat
deriving DecidableEq, Repr

/-- A committed message of a message queue: priority, producer, number and bytes (R202). -/
structure MqMsg where
  prio : Nat
  producer : Nat
  serial : Nat
  bytes : List Byte
deriving DecidableEq, Repr

/-- One record of a state delta or snapshot. The spec fixes what a delta carries and how long its records are (R328) and
leaves the encoding to the firmware's schema (R327): records are held by their meaning (log entry 136). -/
inductive DeltaRec where
  | regWrite (unit off : Nat) (w : Word)
  | memWrite (unit off : Nat) (bytes : List Byte)
  | reqSeq (node : Nat) (side bcast : Bool) (seq : BitVec 16)
  | mqPop (queue : Nat)
  | mqRelease (queue : Nat)
  | mqPush (queue prio : Nat) (bytes : List Byte)
  | txPush (engine : Nat) (words : List Word)
  | rxPop (engine : Nat)
  | busBuffer (ch buf state attempts age : Nat) (ram : List Byte)
  | busChannel (ch tec recv state : Nat)
  | slot (s state reason retries waitMs energy : Nat)
  | signal (index : Nat) (bytes : List Byte)
  | alive (index value : Nat)
  | macEntry (index : Nat) (bytes : List Byte)
  | store
  /-- which bank of each epoch table is active, in a snapshot -/
  | banks (active : Nat)
  /-- the messages of a message queue, in a snapshot -/
  | mqState (queue : Nat) (msgs : List MqMsg) (held : Option MqMsg)
deriving DecidableEq, Repr

/-- A segment of a state delta (R327). -/
structure DeltaSeg where
  final : Bool
  overBudget : Bool
  last : Bool
  cycle : BitVec 16
  index : Nat
  crcOk : Bool
  recs : List DeltaRec
deriving DecidableEq, Repr

/-- Where a Sundem request arrives (R378, R388). -/
inductive SunSrc where
  | uart
  | spi
  | ring (node : Nat) (side : Bool) (uid : BitVec 64) (clr : Bool) (bcast : Bool) (x ts : Bool) (port : Nat)
  | udp (accessPort : Nat) (ip : BitVec 32) (port : BitVec 16)
  | bus (ch : Nat)
deriving DecidableEq, Repr

/-- A Sundem request: the header fields of R381 that a requester chooses, and its data. -/
structure SunReq where
  src : SunSrc
  tid : BitVec 16
  more : Bool
  abort : Bool
  index : Nat
  sub : Nat
  addr : BitVec 48
  offset : Nat
  len : Nat
  data : List Byte
deriving DecidableEq, Repr

/-- Why a Sundem message is not served as a request (R378, R381, R382, R388). -/
inductive SunBad where
  | unknownOpcode (code : Nat)
  | badFrame
  | version
  | portNotEnabled
deriving DecidableEq, Repr

/-- The commands: one constructor per row of the table, in the table's order. -/
inductive Instr where
  -- resets, start-up and device states
  | powerOnReset
  | porstRelease (selfCheckOk side testmode : Bool) (bankPresent bankV33 : BitVec 6)
  | sysrstAssert
  | sysrstRelease (selfCheckOk : Bool) (bankPresent bankV33 : BitVec 6)
  | romBootComplete (selfCheckOk : Bool)
  | ringJoinEnable
  | ringReady
  | fullService
  | deviceRestart
  | dormantRequest
  | dormantEntryComplete
  | dormantWake (changed : BitVec 8) (wakeLow4 : Bool)
  | drainWindowEnd (unit island : Nat)
  | unitResetComplete (unit : Nat)
  | nodeCycleBoundary
  | heartbeatMissed
  | boundaryWatchdog
  | fbCommit (unit inst : Nat)
  -- registers and transactions
  | registerWrite (unit off : Nat) (w : Word)
  | rd (k : Nat)
  | wrPosted (k : Nat)
  | wrAck (k : Nat)
  | rmwSet (k : Nat)
  | rmwClr (k : Nat)
  | rmwSwap (k : Nat)
  | fence (k : Nat)
  | fenceRelease (k : Nat)
  | txnIssue (who : Origin) (t : TxnSpec)
  | tagGrant
  | txnReqReceive
  | heldRequestAdmit
  | txnRspReceive
  | postFaultReceive
  | txnTimeout (tag : Nat)
  | tagHoldoutEnd (tag : Nat)
  | i2cTransferComplete (bus : Nat) (how : I2cEnd) (data : List Byte)
  | i2cStretchTimeout (held : I2cHold)
  | mdioTransferComplete (bus : Nat) (driven : Bool) (data : BitVec 16)
  | unitReset (unit : Nat)
  | unitFenceSet (unit : Nat)
  | unitFenceLift (unit : Nat)
  | lockUnit (unit : Nat)
  | commitHold (hold : Bool)
  | commitDiscard
  | epochFlipRequest (flips : BitVec 6)
  | epochDrainComplete (table : Nat)
  -- lanes and bring-up
  | ringPortEnable (port : Nat)
  | ringPortDisable (port : Nat)
  | retrain (port : Nat)
  /-- `line`: the bits at the lane's pins from where the receiver stands to the last bit of the marker, or of the word that
  stands where one was expected (R89, R93) -/
  | markerReceive (port lane : Nat) (line : List Bool) (atSlot : Bool) (skew : Nat)
  | capabilityWordReceive (port : Nat) (w : BitVec 64)
  | capTimeout (port : Nat)
  | stepVerifyDone (port : Nat)
  | stepFallback (port : Nat)
  | frCoeffRequest (port lane : Nat) (tap : FrTap) (req : FrReq)
  | frTrainComplete (port : Nat)
  | frTrainTimeout (port : Nat)
  | lossOfLock (port : Nat) (cause : LockCause)
  | relockTimeout (port : Nat)
  | relockDone (port : Nat)
  | laneModeChange (lane : Nat) (mode : BitVec 3)
  | accessLinkUp (port speed : Nat) (fullDuplex : Bool) (peerPause : BitVec 2)
  | accessLinkDown (down : LinkDown)
  | flushDone (port : Nat)
  | holdExpiry (port : Nat)
  -- the Crossing
  /-- `words`: the stream words of the frame from its SOF word on, fewer than LENGTH asks for where it is cut short; `sofAt`: how
  many stream words after the last marker the SOF word came, none if it came before that marker (R92, R96) -/
  | ringFrameReceive (port : Nat) (words : List (BitVec 64)) (sofAt : Option Nat)
  | ringFrameAdd (f : RingFrame)
  | announcementSend
  | announcementReceive
  | reachTimeout (node : Nat) (side west : Bool)
  | dupIdTimeout
  | keepaliveSend (port : Nat)
  /-- `words`, `sofAt`: as in ringFrameReceive; `phase`: the quarters of a nanosecond since the hub's clock tick at which the
  SOF word was stamped (R277) -/
  | keepaliveReceive (port : Nat) (words : List (BitVec 64)) (sofAt : Option Nat) (phase : Nat)
  | keepaliveTick (port : Nat) (wordSeen : Bool)
  | maintenanceWrap (port : Nat)
  | wrapNoticeReceive
  | wrapHolddownExpiry (node : Nat) (side west : Bool)
  | healReady (port : Nat)
  | heal
  -- Plaza
  | frameAdmit (queue inPort : Nat) (bytes : List Byte)
  | egressSchedule (port : Nat)
  | residencyCheck (queue : Nat)
  | accessFrameReceive (port : Nat) (bytes : List Byte) (fcsOk : Bool) (line : LineEnd)
  | ageingSweep
  | learnFlush (sel : Word)
  | pauseFrameReceive (port : Nat) (bytes : List Byte)
  | pauseExpiry (port cls : Nat)
  | pauseRefresh (port : Nat)
  | captureResume
  -- the Junction
  | junctionMessageReceive
  | listRun (pipeline : Nat)
  | emissionHandover (i : Nat)
  | emitLateDiscard (i : Nat)
  | runLateDiscard (pipeline : Nat)
  | timedRunSkip (pipeline : Nat)
  -- message queues
  | pushHdr (queue : Nat) (who : Origin) (w : Word)
  | pushData (queue : Nat) (who : Origin) (ofs : Nat) (bytes : List Byte)
  | pushTimeout (queue : Nat)
  | pop (queue len : Nat)
  | release (queue : Nat)
  | abort (queue : Nat)
  | queueFlush (queue : Nat)
  | queueEnable (queue : Nat) (w : Word)
  | queueDisable (queue : Nat)
  | messageProduce (queue producer prio : Nat) (bytes : List Byte)
  | mqArcadeDeliver (queue : Nat)
  | pollSampleComplete (entry : Nat)
  -- bus channels
  | busChannelEnable (ch : Nat) (w : Word)
  | busChannelDisable (ch : Nat)
  | busFrameReceive (ch : Nat) (rx : CanRx)
  | txRequest (ch : Nat) (bufs : Word)
  | txCancel (ch : Nat) (bufs : Word)
  | busArbitration (ch : Nat)
  | txAttemptEnd (ch : Nat) (how : TxEnd)
  | busError (ch : Nat) (kind : CanErr) (transmitting : Bool) (place : CanPlace)
  | recover (ch : Nat)
  | busRecoveryComplete (ch : Nat)
  | bufferStarved (ch buf : Nat)
  -- Arcades and pins
  | engineRowExecute (e : Nat) (ext : BitVec 192)
  | engineEnable (e : Nat)
  | engineDisable (e : Nat)
  | halt (e : Nat)
  | resume (e : Nat)
  | restart (e : Nat)
  | arcadeGroupRestart (n : Nat) (engines : BitVec 8)
  | flushTx (e : Nat)
  | flushRx (e : Nat)
  | txPush (e ofs : Nat) (bytes : List Byte)
  | rxPop (e len : Nat)
  | programRowWrite (e row : Nat) (w : BitVec 64)
  | engineConfigWrite (e off : Nat) (w : Word)
  | loopBoundsWrite (e : Nat) (first last : BitVec 6)
  | pinSet (group : Nat) (w : Word)
  | pinClear (group : Nat) (w : Word)
  | pinToggle (group : Nat) (w : Word)
  -- time
  | step (base : Nat)
  | arm (base : Nat)
  | linkReportSend (port : Nat)
  | linkReportReceive
  | servoUpdate (base : Nat)
  | upstreamReportTimeout
  | tb1ReportSend
  | tb1ReportReceive
  | triggerArm (k : Nat)
  | triggerFire (k : Nat) (codes : List (BitVec 16))
  | captureEvent (k : Nat) (risingPad : Bool)
  -- the cipher engine
  | gcmEncrypt (d : Nat) (ctl : Word)
  | gcmDecrypt (d : Nat) (ctl : Word)
  | cbcEncrypt (d : Nat) (ctl : Word)
  | cbcDecrypt (d : Nat) (ctl : Word)
  | cfbEncrypt (d : Nat) (ctl : Word)
  | cfbDecrypt (d : Nat) (ctl : Word)
  | ctr (d : Nat) (ctl : Word)
  | cmacGenerate (d : Nat) (ctl : Word)
  | cmacVerify (d : Nat) (ctl : Word)
  | unwrapRing (d : Nat) (ctl : Word)
  | descriptorStart
  | pass1Complete (d : Nat)
  | descriptorComplete (d : Nat)
  | cacheFlush
  | lgenNext
  | keyRegisterWrite (k w : Nat) (v : Word)
  | nonceReservationComplete (slot : Nat)
  | entropyFail
  -- the twin
  | twnPeerRise
  | twnPeerFall
  | peerLowQualified
  | twinKeepaliveSend
  | twinKeepaliveReceive (role schema : BitVec 8) (resyncRequest : Bool)
  | twinLinkDown (lockLost : Bool)
  | deltaSegmentReceive (seg : DeltaSeg)
  | deltaAckReceive (cycle : BitVec 16) (crc : Word)
  | snapshotSegmentReceive (offset : Nat) (last : Bool) (recs : List DeltaRec)
  | departureSend
  | departureReceive (recs : List DepartRec)
  | handover
  | handoverRelease
  | resync
  | hb
  | soloWaitExpiry
  -- slot power
  | slotEnable (slot : Nat)
  | slotDisable (slot : Nat)
  | seatDebounceDone (slot : Nat)
  | seatLost (slot : Nat)
  | powerUpStart (slot : Nat)
  | prechargeComplete (slot vsns vin : Nat)
  | prechargeTimeout (slot : Nat)
  | rampEnd (slot vsns vin current : Nat)
  | monitorTick (slot current : Nat)
  | breaker (slot : Nat)
  | fast (slot current : Nat)
  | tripResolve (slot : Nat)
  | retryWaitExpiry (slot : Nat)
  | pgQualify (slot : Nat)
  | retryCountReset (slot : Nat)
  | vinStateChange (vin : Nat)
  | vinRestore
  | warnedTurnOff (slot : Nat)
  | budgetRestore (slot : Nat)
  | on (slot : Nat)
  | off (slot : Nat)
  | pfailAssert
  | pfailRelease
  | vauxLow
  | nvmInhibitLift
  | meterSample (codes : List (BitVec 16))
  -- faults
  | faultDetect (code unit : Nat) (info0 info1 : Word)
  | errPulseEnd
  | faultInject (code unit : Nat)
  | eccInject (code unit : Nat)
  -- the object dictionary
  | read (r : SunReq)
  | write (r : SunReq)
  | describe (r : SunReq)
  | store (r : SunReq)
  | restore (r : SunReq)
  | discover (r : SunReq)
  | discoverResponseDelay (i : Nat)
  | addrRead (r : SunReq)
  | addrWrite (r : SunReq)
  | sessionTimeout (i : Nat)
  | keptResponseExpiry
  | arpRequest (port : Nat) (senderMac : BitVec 48) (senderIp targetIp : BitVec 32)
  | nodeIdWrite (r : SunReq)
  | ringKeyLoad (r : SunReq)
  | serviceUartRate (r : SunReq)
  | recoveryRelay (r : SunReq)
  | recoveryRelayTimeout
  -- firmware update
  | begin
  | close
  | activate
  | confirm
  | abandon
  | packageWrite (ofs : Nat) (bytes : List Byte)
  | verifyComplete
  | activationHashDone
  | managementRestartEnd
  -- events
  | badSof (port word : Nat)
  | bankSupplyLoss (bank : Nat)
  | selfSeatChange (seated : Bool)
  | syncFiringLate
  | tb1ReportTimeout
  | storeComplete
  | busIntegrationComplete (ch : Nat)
  | sundemUnservedRequest (r : SunReq) (why : SunBad)
deriving DecidableEq, Repr

end Sys2Proof
end

