-- ==== Sys2Proof/Machine/Crc.lean ====
section
/-! DEFINITION. The cyclic redundancy checks of the spec: CRC-8 and CRC-16/CCITT (R92), CRC-32 (R111). -/

namespace Sys2Proof.Machine

/-- `n` shifts of a reflected CRC register with polynomial `poly`. -/
def crcShiftDown (poly : Nat) : Nat → Nat → Nat
  | 0, c => c
  | n + 1, c => crcShiftDown poly n (if c % 2 = 1 then (c / 2) ^^^ poly else c / 2)

/-- `n` shifts of a CRC register of `width` bits that shifts up. -/
def crcShiftUp (width poly : Nat) : Nat → Nat → Nat
  | 0, c => c
  | n + 1, c =>
    crcShiftUp width poly n (if 2 ^ (width - 1) ≤ c then (c * 2 % 2 ^ width) ^^^ poly else c * 2 % 2 ^ width)

/-- CRC-32 with the conventions of R111: the IEEE 802.3 polynomial, initial value all ones, reflected, inverted at
the end. -/
def crc32 (bs : List Byte) : Nat :=
  bs.foldl (fun c b => crcShiftDown 0xEDB88320 8 (c ^^^ b.toNat)) 0xFFFFFFFF ^^^ 0xFFFFFFFF

/-- CRC-16/CCITT of R92: polynomial 0x1021, initial value 0xFFFF, not reflected. -/
def crc16 (bs : List Byte) : Nat :=
  bs.foldl (fun c b => crcShiftUp 16 0x1021 8 (c ^^^ (b.toNat * 256))) 0xFFFF

/-- CRC-8 of R92: polynomial x^8 + x^2 + x + 1, initial value 0. -/
def crc8 (bs : List Byte) : Nat :=
  bs.foldl (fun c b => crcShiftUp 8 0x07 8 (c ^^^ b.toNat)) 0

end Sys2Proof.Machine
end

