-- ==== Sys2Proof/Config.lean ====
section
/-! DEFINITION. What an implementation fixes and the spec leaves open: the free values. Each is opaque, so no proof
can see a value of it; it is applied to a counter of `State` that the step advances, or to the operands it depends on. -/

namespace Sys2Proof.Config

/-- A fresh value the spec does not state (log entry 3). -/
opaque freeValue : Nat → BitVec 64

/-- Which of the free transaction tags a request takes: the spec says only that it takes one (R47; log entry 4). -/
opaque freeTag : Nat → Nat

/-- Where the search for a free Plaza cell begins: the spec gives no order of allocation (R140; log entry 5). -/
opaque freeCell : Nat → Nat

/-- Random IV bytes drawn from the entropy source (R296, R312; log entry 6). -/
opaque randomIv : Nat → BitVec 128

/-- The ECC syndrome and internal memory number of an ECC fault, which the spec calls opaque (R361; log entry 7). -/
opaque eccSyndrome : Nat → BitVec 32

/-- The delay a measurement of the transmitter delay yields (R223; log entry 8). -/
opaque tdcMeasured : Nat → BitVec 8

/-- How much a 1 ms update of the hardware servo moves RATE, as a function of RATE and the offset: the spec gives what
the servo holds, not its gain (R279, R281; log entry 9). -/
opaque servoStep : (rate offset : Int) → Int

/-- How many blocks of a ring frame find no slot in the cipher pipelines at DUMMY 3: the dummy slots fall at random (R294;
log entry 184). -/
opaque ringWaits : Nat → Nat

/-- The encoding of a record of a delta or snapshot under a state-copy schema, which the firmware fixes (R327; log entry
136). -/
opaque deltaEncoding : (schema : Byte) → DeltaRec → List Byte

/-- The encoding of a departure record in its 8 bytes, whose layout the spec does not give (R326, R327; log entry 136). -/
opaque departEncoding : DepartRec → BitVec 64

end Sys2Proof.Config
end

