-- ==== Sys2Proof/Machine/State.lean ====
section
/-! DEFINITION. The state of the hub as plain data, and the state after reset. Registers live in one sparse register
file (`regs`) under their unit and offset; window memories in one sparse memory (`mem`) under theirs; what the spec
gives the hub beside its registers and windows (queues, state machines, keys, timers) in the structures below. -/

namespace Sys2Proof.Machine

/-- The three parts of R1. -/
inductive Variant where
  | gk7216 | gk7212 | gk7208
deriving DecidableEq, Repr

/-- The device states of R8 and R23. -/
inductive DeviceState where
  | off | dormant | starting | service | degraded | recovery | dead
deriving DecidableEq, Repr

/-- The twin roles of R8 and R323. -/
inductive Role where
  | active | standby | single | notReady
deriving DecidableEq, Repr

/-- How far a start has come (R402): the ROM runs, the image runs, the ring ports are enabled, ring-ready. -/
inductive BootStage where
  | none | rom | image | joined | ringReady
deriving DecidableEq, Repr

/-- Die data: the variant, the fuses and the OTP counter (R1, R83, R297, R398, R413). No restart changes any of it
except the OTP counter, which only rises. -/
structure Ident where
  variant : Variant
  stepping : Byte
  uid : BitVec 64
  deviceRoot : BitVec 256
  familyRoot : BitVec 256
  pubX : BitVec 256
  pubY : BitVec 256
  otp : Nat
deriving DecidableEq, Repr

/-- Device state, straps and boot progress. -/
structure Dev where
  state : DeviceState
  stage : BootStage
  sysrstLow : Bool
  side : Bool
  testmode : Bool
  nodeId : Nat
  newNodeId : Option Nat
  unitsOut : Bool
  powerDown : BitVec 17
  bank : Nat
  imageVersion : Word
  schema : Byte
  settingsSchema : BitVec 16
  mgtRestart : Bool
  dormantPending : Bool
deriving DecidableEq, Repr

/-- Levels at the hub's input pins as last sampled. -/
structure Pins where
  twnPeer : Bool
  pfailN : Bool
  vauxLow : Bool
  gioExt : BitVec 192
  los : BitVec 2
  modAbs : BitVec 2
deriving DecidableEq, Repr

/-- The AON island: what it holds through Dormant and SYSRST_N (R291, R397, R405): when it began to count for the time
bases, their values then, the comparators that may wake the hub, and those that did. -/
structure Aon where
  entryAt : Nat
  counting : Bool
  saved0 : Nat
  saved1 : Nat
  saved2 : Nat
  saved3 : Nat
  mask : BitVec 8
  cause : BitVec 8
deriving DecidableEq, Repr

/-- The four time bases (R270), each as a count of 2^-32 ns. -/
structure Bases where
  tb0 : Nat
  tb1 : Nat
  tb2 : Nat
  tb3 : Nat
deriving DecidableEq, Repr

/-- Time keeping beside the bases: the node cycle (R18, R282) with its number and the one before, the tick at which
TB0 last locked, the servo and the comparators' next firing times. -/
structure TimeSt where
  bases : Bases
  cycleLen : Nat
  cycleNo : Nat
  lastBoundary : Nat
  prevNo : Nat
  heldRate : Option Word
  lastO : Option Int
  tb1Offset : Option Int
  tb1RefOk : Bool
  trgNext : List (Nat × Nat)
  capOwed : List (Nat × Nat)
  tb1Following : Bool
  lockedAt : Nat
deriving DecidableEq, Repr

/-- The keys of one encrypted segment (R301): transmit and receive key with their nonce contexts. -/
structure SegKeys where
  txKey : BitVec 256
  txCtx : BitVec 32
  rxKey : BitVec 256
  rxCtx : BitVec 32
  gen : BitVec 32
deriving DecidableEq, Repr

/-- Receive state of one lane of a ring port (R89, R93, R95): good markers and bad ones in a row, the COUNT of the last
marker, the marker slot it stood in (numbered as COUNT was when the lane was found), and the run of identical line bits. -/
structure LaneRx where
  good : Nat
  bad : Nat
  lastCount : Option Nat
  slot : Nat
  run : Bool × Nat
deriving DecidableEq, Repr

/-- The transmitter of a ring port (R90): the tick of its first marker at the present rate, the stream word slot after the
last one used, and how many slots of that slot's marker period carry SOF or frame words. -/
structure LineTx where
  start : Nat
  next : Nat
  used : Nat
deriving DecidableEq, Repr

/-- Hidden state of ring port East (0), West (1) or the twin link (2). -/
structure PortSt where
  peerCap : Option (BitVec 64)
  ownState : Nat
  prevRate : Nat
  verified : Bool
  falling : Bool
  lane0 : LaneRx
  lane1 : LaneRx
  discarding : Bool
  resumeAt : Option (Nat × Nat)
  tx : LineTx
  ended : Bool
  capMax : Nat
  capRoot : Option (BitVec 256)
  capOwn : Nat
  portState : Nat
  peerState : Nat
  kaSeen : Bool
  kaMissed : Nat
  ctxRefused : Bool
  healReady : Bool
  unwrapReq : Bool
  kaSeq : BitVec 16
  rxExpect : Nat
  keys : Option SegKeys
  capGen : BitVec 32
  encAgreed : Bool
  suspects : List Nat
  sumA : Int
  numA : Nat
  lastA : Option Int
  lastNumA : Nat
deriving DecidableEq, Repr

/-- One entry of the ring map (R115, R138), with what the Crossing keeps per source hub: the
sequence numbers for gap counting (R121), the hold-downs of R129 and the announced time fields (R275). -/
structure RingEntry where
  node : Nat
  side : Bool
  reachE : Bool
  reachW : Bool
  hopsE : Nat
  hopsW : Nat
  role : BitVec 3
  flags : BitVec 8
  uid : BitVec 64
  lastUs : Word
  copied : Word
  c7Acc : Word
  c7Dup : Word
  gaps : Word
  lastSeqE : Option (BitVec 16)
  lastSeqW : Option (BitVec 16)
  lastAllE : Option (BitVec 16)
  lastAllW : Option (BitVec 16)
  prio : Byte
  tbFlags : Byte
  masterNode : Byte
  masterSide : Bool
  tb1Prio : Byte
  masterHops : Byte
deriving DecidableEq, Repr

/-- A copied frame on its way to a local unit, with the ring port it arrived on. -/
structure LocalFrame where
  port : Nat
  at_ : Nat
  frame : RingFrame
deriving DecidableEq, Repr

/-- The Crossing beside its registers. `c7Recs` holds per source hub the class-7 record of R122: H and the 64 bits below it;
`waitReq` the requests that wait in Plaza for the receive buffer `heldReq` (R63, R64). -/
structure Ring where
  port0 : PortSt
  port1 : PortSt
  port2 : PortSt
  map : List RingEntry
  seqTx : List ((Nat × Bool) × BitVec 16)
  c7Seq : BitVec 16
  wrapGen : BitVec 16
  held : List LocalFrame
  heldReq : List LocalFrame
  waitReq : List LocalFrame
  c7Recs : List ((Nat × Bool) × (BitVec 16 × BitVec 64))
  relayPort : Option Nat
  heldDown : List ((Nat × Bool × Bool) × (Nat × Bool × Bool))
deriving DecidableEq, Repr

/-- A frame as Plaza holds it: an access frame by its stored bytes, a ring frame by its header and payload (R140). -/
inductive Body where
  | eth (bytes : List Byte)
  | ring (f : RingFrame)
deriving DecidableEq, Repr

/-- A frame held in Plaza with its internal header (R141) and its cells. `ingressSeq` is the MAC's 24-bit number of a frame from an access
port, or src_node, side and seq (8, 1 and 16 bits) of a frame bridged from the ring (R326). -/
structure PlzFrame where
  fid : Nat
  cells : List Nat
  body : Body
  inPort : Nat
  cls : Nat
  cm : Bool
  epochMac : Bool
  epochRmap : Bool
  ptp : Bool
  ct : Bool
  bad : Bool
  vid : Nat
  destNode : Nat
  outPort : Nat
  arrival : Nat
  stamp : Nat
  ptpStamp : Nat
  ingressSeq : Nat
  seen : Bool
deriving DecidableEq, Repr

/-- A queue's reference to a frame. A shadow reference is one that a hub in Standby or NotReady never sends (R325); `wrapped`
is that of a frame turned round at a break (R127); `hdr` is the header under which a frame stored as an access frame leaves
on the ring (R142, R159). -/
structure QRef where
  fid : Nat
  cells : Nat
  shadow : Bool
  wrapped : Bool
  hdr : Option RingFrame
deriving DecidableEq, Repr

/-- Plaza beside its registers and windows. -/
structure Plaza where
  frames : List PlzFrame
  queues : List (Nat × List QRef)
  nextFid : Nat
  deficits : List (Nat × Int)
  rrNext : List (Nat × Nat)
  turns : List (Nat × Nat)
  tokens : List (Nat × (Int × Nat))
  addTokens : List (Nat × (Int × Nat))
  poolDrops : BitVec 8
  capCount : List (Nat × Nat)
  capLast : Option Nat
  ingressSeq : List (Nat × Nat)
  departed : List (DepartRec × Nat)
deriving DecidableEq, Repr

/-- A message on its way into the Junction (R176). -/
structure JctMsg where
  kind : Nat
  inst : Nat
  key : Nat
  fmtFd : Bool
  bytes : List Byte
  rxEnd : Nat
deriving DecidableEq, Repr

/-- A queued list run with the banks of its epoch (R190, R197). -/
structure JctRun where
  key : Nat
  first : Nat
  kind : Nat
  msg : JctMsg
  routeBank : Bool
  tplBank : Bool
  queuedAt : Nat
  cycle : Nat
deriving DecidableEq, Repr

/-- An assembled emission waiting for its sink (R193, R194). -/
structure Emission where
  sink : Nat
  dest : Nat
  arg : Word
  cls : Nat
  bytes : List Byte
  received : Bool
  rxEnd : Nat
  routeBank : Bool
  tplBank : Bool
deriving DecidableEq, Repr

/-- One Junction pipeline: its two queues and whose turn it is (R190). -/
structure Pipeline where
  timed : List JctRun
  received : List JctRun
  timedNext : Bool
deriving DecidableEq, Repr

/-- The Junction beside its registers and windows. -/
structure Junction where
  inbox : List JctMsg
  pipe0 : Pipeline
  pipe1 : Pipeline
  pipe2 : Pipeline
  pipe3 : Pipeline
  emissions : List Emission
deriving DecidableEq, Repr

/-- An open push (R208). -/
structure MqPush where
  who : Origin
  len : Nat
  prio : Nat
  bytes : List Byte
deriving DecidableEq, Repr

/-- One message queue beside its registers; committed messages oldest first. -/
structure MQueue where
  msgs : List MqMsg
  held : Option MqMsg
  push : Option MqPush
  serial : Nat
deriving DecidableEq, Repr

/-- Transmit content waiting for buffer 31 (R236). -/
structure JtxWait where
  arg : Word
  bytes : List Byte
deriving DecidableEq, Repr

/-- One bus channel beside its registers and message RAM: `flipAt` is the tick of the last flip of its filter list (R230),
`changed` the buffers that have changed since the last delta (R328). -/
structure BusCh where
  rxSeq : Nat
  lostA : Bool
  lostB : Bool
  recovering : Bool
  active : Option Nat
  ageStart : List (Nat × Nat)
  jtxWait : Option JtxWait
  flipAt : Nat
  changed : List Nat
deriving DecidableEq, Repr

/-- The states of an Arcade engine (R255). -/
inductive EngState where
  | off | armed | running | stalled | halted
deriving DecidableEq, Repr

/-- One Arcade engine beside its configuration registers and program rows (R242 to R261). -/
structure Engine where
  state : EngState
  haltedFrom : EngState
  row : Nat
  dirty : Bool
  loopPend : Option (Nat × Nat)
  txf : List Word
  rxf : List Word
  dsr : Word
  dsrLeft : Nat
  gtr : Word
  gtrHave : Nat
  sbit : Bool
  x : Word
  y : Word
  out : BitVec 8
  driven : BitVec 8
  acc : Nat
  accAt : Nat
  force : Bool
  oldDiv : Option Nat
deriving DecidableEq, Repr

/-- The transactions an initiator has outstanding (R47, R50). `serial`, the model's own, tells a request from a later one with
the same tag. -/
structure TagEntry where
  tag : Nat
  who : Origin
  op : TxnOp
  addr : BitVec 48
  count : Nat
  wide : Bool
  pollEntry : Option Nat
  serial : Nat
deriving DecidableEq, Repr

/-- The tag number of a posted write, taken until its frame has left the hub (R47): the Plaza frames numbered from `first`
to before `next`. -/
structure PostedTag where
  tag : Nat
  who : Origin
  first : Nat
  next : Nat
deriving DecidableEq, Repr

/-- A request in the transaction engine's buffer (R63): of a ring request its sequence number and whether it came to node
255 (R54), of a local one the serial of its tag entry. -/
structure Request where
  local_ : Bool
  who : Origin
  node : Nat
  side : Bool
  tag : Nat
  initiator : Nat
  op : TxnOp
  addr : BitVec 48
  x : Bool
  ts : Bool
  wide : Bool
  prefetch : Bool
  count : Nat
  data : List Byte
  port : Nat
  clr : Bool
  inside : Bool
  waiting : Bool
  serial : Nat
  seq : BitVec 16
  bcast : Bool
deriving DecidableEq, Repr

/-- What one hub knows of the sequence numbers of another (R54, R55). -/
structure SeqRx where
  node : Nat
  side : Bool
  own : Option (BitVec 16)
  bcast : Option (BitVec 16)
  loss : Bool
  rsp : Option (BitVec 16)
  rspLoss : Bool
deriving DecidableEq, Repr

/-- A poll sample that is complete and not yet compared (R215): entry, completion code, value, TB2 time in µs. -/
structure PollSample where
  entry : Nat
  code : Nat
  value : Nat
  at_ : Nat
deriving DecidableEq, Repr

/-- The transaction engine beside its registers. By source, side and kind of request, `executed` holds the last number that
this hub has executed and `copied` the last that the deltas of the Active have told of (R32); `faultDir` holds the port
towards which POST_FAULTs to a hub have gone since its last fence (R58). -/
structure Txn where
  tags : List TagEntry
  posted : List PostedTag
  holdout : List Nat
  waiting : List (Origin × TxnSpec)
  reqs : List Request
  refusals : List Nat
  seqReq : List (Nat × BitVec 16)
  seqRsp : List ((Nat × Bool) × BitVec 16)
  seqRx : List SeqRx
  recorded : List LocalFrame
  executed : List ((Nat × Bool × Bool) × BitVec 16)
  copied : List ((Nat × Bool × Bool) × BitVec 16)
  faultDir : List ((Nat × Bool) × Nat)
  polled : List PollSample
deriving DecidableEq, Repr

/-- A boundary of a unit that drains (R15): once its window has ended, with how many requests. -/
structure Drain where
  unit : Nat
  island : Nat
  reset : Bool
  ended : Option Nat
deriving DecidableEq, Repr

/-- A cached derived key (R300). -/
structure CacheEnt where
  ksrc : Nat
  kreg : Nat
  ksize : Nat
  label : BitVec 32
  context : BitVec 128
  key : BitVec 256
  lastUse : Nat
deriving DecidableEq, Repr

/-- A write lock of a running two-pass decryption (R315). -/
structure CipLock where
  slot : Nat
  kind : Nat
  base : Nat
  len : Nat
deriving DecidableEq, Repr

/-- The cipher engine beside its registers. `ctrGens` holds the generation under which each ring slot counts. -/
structure Cipher where
  ringRoot : Option (BitVec 256)
  cache : List CacheEnt
  useCount : Nat
  order : List Nat
  hold : List Nat
  locks : List CipLock
  writer : List (Nat × Bool)
  frames : List (Nat × List Byte)
  entropyFailed : Bool
  reserving : List Nat
  exhausted : List Nat
  lgenBusy : Bool
  nonceSeq : Word
  ctrGens : List (Nat × Nat)
  keyRegs : List (Nat × Word)
deriving DecidableEq, Repr

/-- Twin control beside its registers (R318 to R336): role, claim and output enable; what the link shows of the peer;
the delta of the running cycle and what the last deltas told; the delta segments received, the cycle of a FINAL delta
applied on arrival, whether the snapshot is complete; the planned handover; the heartbeat; the last cycle this hub served
as Active before a handover; the rotation of the scrub; whether a fault of the claim pin stands (R321); whether the planned
path runs to release the claim (R331); the CRC-32 of the last delta sent. -/
structure Twin where
  role : Role
  claim : Bool
  oe : Bool
  peerRole : Nat
  linkUp : Bool
  peerSchema : Byte
  peerResync : Bool
  finalIn : Option (BitVec 16)
  delta : List DeltaRec
  executedNew : List (Nat × Bool × Bool)
  told : List (Nat × DeltaRec)
  rxDelta : List DeltaSeg
  snapDone : Bool
  finalOut : Bool
  finalAcked : Bool
  handoverReq : Bool
  unacked : Bool
  hbCount : Nat
  hbSuspended : Bool
  served : Option Nat
  scrubSig : Nat
  scrubMac : Nat
  pinFault : Bool
  releasing : Bool
  sentCrc : Word
deriving DecidableEq, Repr

/-- One slot channel beside its registers (R341 to R354): its fault timer and the ticks below the breaker threshold,
when its attempt began and how long it ran, whether it waits for a start, its warning and planned turn-off, the power
(mW) it drew before its shed, whether software keeps it off, and the parts of its energy beside E_LO. -/
structure Slot where
  faultTimer : Nat
  underCount : Nat
  since : Nat
  onTime : Nat
  waiting : Bool
  warned : Bool
  planned : Option Nat
  shedPower : Int
  manual : Bool
  eHi : Nat
  eFrac : Nat
deriving DecidableEq, Repr

/-- Slot power beside its registers: when the last slot started, the last ADC firing (TB2, ns), whether samples run free
since it came late, and each slot's power samples of the last millisecond. -/
structure Power where
  slots : List (Nat × Slot)
  lastStart : Option Nat
  lastFiring : Option Nat
  syncFree : Bool
  powers : List (Nat × List (Nat × Int))
deriving DecidableEq, Repr

/-- Fault collection beside its registers and log. -/
structure FaultSt where
  corrLast : List ((Nat × Nat × Word) × Nat)
  resets : List (Nat × Nat)
  eccArm : List (Nat × Nat)
  eccWords : List (Nat × Nat)
  eccFound : List (Nat × Nat)
  errPulse : Bool
  nvmSeq : Word
deriving DecidableEq, Repr

/-- A Sundem transfer session (R383, R385), with the tick of its last segment. -/
structure Session where
  src : SunSrc
  tid : BitVec 16
  index : Nat
  sub : Nat
  bytes : List Byte
  at_ : Nat
deriving DecidableEq, Repr

/-- A Sundem response (R381, R382). -/
structure SunRsp where
  src : SunSrc
  opcode : Nat
  tid : BitVec 16
  index : Nat
  sub : Nat
  code : Nat
  more : Bool
  offset : Nat
  data : List Byte
deriving DecidableEq, Repr

/-- The object dictionary beside the registers that its objects mirror (R374 to R395): held values and persistent
copies; sessions, kept responses with their expiry, snapshots; delayed responses with their due tick; ADDR requests that
the service-port bridge performs; the STORE under way; counters. -/
structure Odw where
  objs : List ((Nat × Nat) × List Byte)
  persist : List ((Nat × Nat) × List Byte)
  sessions : List Session
  kept : List (SunRsp × Nat)
  snaps : List ((SunSrc × BitVec 16 × Nat × Nat) × List Byte)
  delayed : List (SunRsp × Nat)
  addr : List SunReq
  storing : Bool
  badFrames : Word
  busDropped : Word
  notServed : Word
  storesDone : Word
  sizeNeeded : Word
  lastLoad : Nat
  storedSchema : BitVec 16
  uartRate : Nat
  pendingCmd : Nat
deriving DecidableEq, Repr

/-- Firmware update (R407 to R416): the update state code, the last result, the bytes received, and the activation: its
pieces done, the descriptor that decrypts, whether the hash check runs; TRIAL_STARTS of the boot record. -/
structure Update where
  state : Nat
  result : Nat
  received : Nat
  done64 : Nat
  actSlot : Option Nat
  hashing : Bool
  trialStarts : Nat
deriving DecidableEq, Repr

/-- A write of CB fields that waits for its boundary, with the tick at which it was made (R20): the register, the bits
written, the value. -/
structure CbWrite where
  at_ : Nat
  key : Nat
  mask : Word
  value : Word
deriving DecidableEq, Repr

/-- What a timer stands for; its deadline is a count of 2 ns ticks. -/
inductive TimerId where
  | txn (tag : Nat) | holdout (tag : Nat) | drain (unit island : Nat) | cap (port : Nat) | verify (port : Nat)
  | stepLimit (port : Nat) | frTrain (port : Nat) | relock (port : Nat) | hold (port : Nat)
  | announce | reach (node : Nat) (side west : Bool) | dupId | ka (port : Nat) | kaTick (port : Nat)
  | holddown (node : Nat) (side west : Bool) | healHold (port : Nat) | pause (port cls : Nat) | pauseTx (port cls : Nat)
  | age | push (queue : Nat) | linkReport (port : Nat) | servo (base : Nat) | upstream | tb1Send
  | tb1Report | peerLow | twinKa | twinKaSend | depart | solo | precharge (slot : Nat) | ramp (slot : Nat)
  | retry (slot : Nat) | pg (slot : Nat) | retryReset (slot : Nat) | planned (slot : Nat) | vinOk | budget (slot : Nat)
  | nvmLift | errPulse | relay | ringJoin | mgtHb
deriving DecidableEq, Repr

/-- What a frame of the twin link says (R327): the kinds of its table. -/
inductive TwinMsg where
  | keepalive (role schema : Byte) (resync : Bool)
  | delta (seg : DeltaSeg)
  | ack (cycle : BitVec 16) (crc : Word)
  | depart (recs : List DepartRec)
  | snapshot (offset : Nat) (recs : List DeltaRec)
deriving DecidableEq, Repr

/-- What the hub hands to the outside: frames at its ports, completions to its initiators, responses. The log is the
model's own; nothing in the hub reads it. -/
inductive OutEvent where
  /-- a frame sent on a ring port: in clear, whether it ends in a stomp, the stream word slot of its SOF word, and its words
  on the line, tag and CRC-32 among them (R90, R92, R109) -/
  | ring (port : Nat) (f : RingFrame) (stomped : Bool) (slot : Nat) (words : List (BitVec 64))
  /-- an alignment marker that a frame runs through (R90, R92) -/
  | marker (port lane : Nat) (w : BitVec 64)
  | access (port : Nat) (bytes : List Byte) (vid : Option (Nat × Nat)) (badFcs : Bool)
  | pauseFrame (port : Nat) (pfc : Bool) (classes : BitVec 8) (quanta : Nat)
  | capability (port : Nat) (w : BitVec 64)
  | frAnswer (port lane : Nat) (status : Nat)
  | frPreset (port : Nat)
  | frReady (port : Nat)
  | done (who : Origin) (tag code : Nat) (data : List Byte)
  | i2c (bus : Nat) (addr : Nat) (regBytes data : List Byte) (count : Nat) (isRead : Bool)
  | i2cStop (bus clocks : Nat)
  | mdio (bus : Nat) (c45 : Bool) (phy mmd reg : Nat) (data : Option (BitVec 16))
  | can (ch : Nat) (f : CanFrame)
  | canError (ch : Nat)
  | adcStart
  /-- a Sundem response on the service port or as a UDP datagram, with its bytes (R388) -/
  | sundem (r : SunRsp) (bytes : List Byte)
  | arpReply (port : Nat) (mac : BitVec 48) (ip : BitVec 32) (toMac : BitVec 48) (toIp : BitVec 32)
  /-- a twin frame: what it says, the stream word slot of its SOF word, its words on the line (R327) -/
  | twin (m : TwinMsg) (slot : Nat) (words : List (BitVec 64))
  | mgtFrame (bytes : List Byte)
  | cipherFrame (cls : Nat) (bytes : List Byte)
  /-- the completion code of a command that stands for one register or window write -/
  | code (n : Nat)
  /-- the completion code and data of a command that stands for one window read -/
  | read (n : Nat) (data : List Byte)
deriving DecidableEq, Repr

/-- The hub. -/
structure State where
  /-- commands waiting, first in first out -/
  pending : List Instr
  /-- ticks of 2 ns since the model began; the model's own clock, which nothing stops -/
  mono : Nat
  /-- counter that free values are drawn with; the model's own -/
  fresh : Nat
  ident : Ident
  dev : Dev
  pins : Pins
  aon : Aon
  /-- registers that differ from their reset word, keyed unit × 2^32 + offset, ascending -/
  regs : List (Nat × Word)
  /-- writes of CB fields that wait for a boundary, oldest first -/
  pendCb : List CbWrite
  /-- pending copies of FB fields -/
  pendFb : List (Nat × (Word × Word))
  /-- window bytes that wait for a boundary (R162, R174), oldest first, each with the tick at which it was written -/
  pendMem : List (Nat × Host.Cell)
  /-- window memory: bytes other than zero, keyed unit × 2^32 + offset, ascending -/
  mem : List Host.Cell
  timers : List (TimerId × Nat)
  outs : List OutEvent
  time : TimeSt
  ring : Ring
  plaza : Plaza
  jct : Junction
  queues : List (Nat × MQueue)
  bus : List (Nat × BusCh)
  engines : List (Nat × Engine)
  txn : Txn
  drains : List Drain
  cip : Cipher
  twin : Twin
  power : Power
  flt : FaultSt
  odw : Odw
  upd : Update
deriving DecidableEq, Repr

/-- Faults of the model: stops that report something the spec says cannot be. -/
inductive Fault where
  /-- raised by FAULT_DETECT for a fault code that R361 calls reserved: the table gives it neither a
  class nor a reaction. Safe: the model stops where the spec gives no effect. -/
  | reservedFaultCode
deriving DecidableEq, Repr

/-- Reasons to refuse a command. -/
inductive Refusal where
  /-- raised by a dispatch arm whose command has no meaning yet. Safe: the model says nothing about it. -/
  | notModelled (mnemonic : String)
deriving DecidableEq, Repr

def LaneRx.reset : LaneRx := ⟨0, 0, none, 0, (false, 0)⟩
def LineTx.reset : LineTx := ⟨0, 0, 0⟩

def PortSt.reset : PortSt where
  peerCap := none
  ownState := 0
  prevRate := 0
  verified := false
  falling := false
  lane0 := LaneRx.reset
  lane1 := LaneRx.reset
  discarding := false
  resumeAt := none
  tx := LineTx.reset
  ended := false
  capMax := 0
  capRoot := none
  capOwn := 0
  portState := 0
  peerState := 0
  kaSeen := false
  kaMissed := 0
  ctxRefused := false
  healReady := false
  unwrapReq := false
  kaSeq := 0
  rxExpect := 0
  keys := none
  capGen := 0
  encAgreed := false
  suspects := []
  sumA := 0
  numA := 0
  lastA := none
  lastNumA := 0

def Ring.reset : Ring where
  port0 := PortSt.reset
  port1 := PortSt.reset
  port2 := PortSt.reset
  map := []
  seqTx := []
  c7Seq := 0
  wrapGen := 0
  held := []
  heldReq := []
  waitReq := []
  c7Recs := []
  relayPort := none
  heldDown := []

def Plaza.reset : Plaza where
  frames := []
  queues := []
  nextFid := 1
  deficits := []
  rrNext := []
  turns := []
  tokens := []
  addTokens := []
  poolDrops := 0
  capCount := []
  capLast := none
  ingressSeq := []
  departed := []

def Pipeline.reset : Pipeline := ⟨[], [], true⟩

def Junction.reset : Junction := ⟨[], Pipeline.reset, Pipeline.reset, Pipeline.reset, Pipeline.reset, []⟩

def MQueue.reset : MQueue := ⟨[], none, none, 0⟩

def BusCh.reset : BusCh where
  rxSeq := 0
  lostA := false
  lostB := false
  recovering := false
  active := none
  ageStart := []
  jtxWait := none
  flipAt := 0
  changed := []

def Engine.reset : Engine where
  state := .off
  haltedFrom := .running
  row := 0
  dirty := false
  loopPend := none
  txf := []
  rxf := []
  dsr := 0
  dsrLeft := 0
  gtr := 0
  gtrHave := 0
  sbit := false
  x := 0
  y := 0
  out := 0
  driven := 0
  acc := 0
  accAt := 0
  force := false
  oldDiv := none

def Txn.reset : Txn where
  tags := []
  posted := []
  holdout := []
  waiting := []
  reqs := []
  refusals := []
  seqReq := []
  seqRsp := []
  seqRx := []
  recorded := []
  executed := []
  copied := []
  faultDir := []
  polled := []

def Cipher.reset : Cipher where
  ringRoot := none
  cache := []
  useCount := 0
  order := []
  hold := []
  locks := []
  writer := []
  frames := []
  entropyFailed := false
  reserving := []
  exhausted := []
  lgenBusy := false
  nonceSeq := 0
  ctrGens := []
  keyRegs := []

def Twin.reset : Twin where
  role := .notReady
  claim := false
  oe := false
  peerRole := 3
  linkUp := false
  peerSchema := 0
  peerResync := false
  finalIn := none
  delta := []
  executedNew := []
  told := []
  rxDelta := []
  snapDone := false
  finalOut := false
  finalAcked := false
  handoverReq := false
  unacked := false
  hbCount := 0
  hbSuspended := false
  served := none
  scrubSig := 0
  scrubMac := 0
  pinFault := false
  releasing := false
  sentCrc := 0

def Slot.reset : Slot := ⟨0, 0, 0, 0, false, false, none, 0, false, 0, 0⟩

def Power.reset : Power := ⟨[], none, none, false, []⟩

def FaultSt.reset : FaultSt := ⟨[], [], [], [], [], false, 0⟩

def Odw.reset : Odw where
  objs := []
  persist := []
  sessions := []
  kept := []
  snaps := []
  delayed := []
  addr := []
  storing := false
  badFrames := 0
  busDropped := 0
  notServed := 0
  storesDone := 0
  sizeNeeded := 0
  lastLoad := 0
  storedSchema := 0
  uartRate := 115200
  pendingCmd := 0

def Update.reset : Update := ⟨0, 0, 0, 0, none, false, 0⟩

def TimeSt.reset : TimeSt where
  bases := ⟨0, 0, 0, 0⟩
  cycleLen := 10000
  cycleNo := 0
  lastBoundary := 0
  prevNo := 0
  heldRate := none
  lastO := none
  tb1Offset := none
  tb1RefOk := false
  trgNext := []
  capOwed := []
  tb1Following := false
  lockedAt := 0

/-- The die of the reset state: a GK7216, stepping A0, with every fuse zero (log entry 1). -/
def Ident.reset : Ident := ⟨.gk7216, 0, 0, 0, 0, 0, 0, 0⟩

def Dev.reset : Dev where
  state := .off
  stage := .none
  sysrstLow := false
  side := false
  testmode := false
  nodeId := 0
  newNodeId := none
  unitsOut := false
  powerDown := 0
  bank := 0
  imageVersion := 0
  schema := 0
  settingsSchema := 0
  mgtRestart := false
  dormantPending := false

/-- The hub right after power-on reset: in Off (R23), every base at 0 (R291), every register at its reset word,
every queue empty. -/
def State.reset : State where
  pending := []
  mono := 0
  fresh := 0
  ident := Ident.reset
  dev := Dev.reset
  pins := ⟨false, true, false, 0, 0, 0⟩
  aon := ⟨0, false, 0, 0, 0, 0, 0, 0⟩
  regs := []
  pendCb := []
  pendFb := []
  pendMem := []
  mem := []
  timers := []
  outs := []
  time := TimeSt.reset
  ring := Ring.reset
  plaza := Plaza.reset
  jct := Junction.reset
  queues := []
  bus := []
  engines := []
  txn := Txn.reset
  drains := []
  cip := Cipher.reset
  twin := Twin.reset
  power := Power.reset
  flt := FaultSt.reset
  odw := Odw.reset
  upd := Update.reset

end Sys2Proof.Machine
end

