-- ==== Sys2Proof/Machine/RegTypes.lean ====
section
/-! DEFINITION. The types of the register map: access types (R5), commit points (R6), fields, registers, and the
place of a field in the register file. -/

namespace Sys2Proof.Machine

/-- The access types of R5. No register of the map uses RC. -/
inductive FTy where
  | rw | ro | w1c | w1s | sc | cnt | lk | wo
deriving DecidableEq, Repr

/-- The commit points of R6. -/
inductive Commit where
  | im | fb | cb
deriving DecidableEq, Repr

/-- Which instances of a register a variant has (R1, R2). -/
inductive Pres where
  | always | ringPort | ringLane | accLane | accPort | busCh | busPriv | engine | arcade | slot
deriving DecidableEq, Repr

/-- One field of a register. Bits that no field names are reserved: they read zero and ignore writes (R71). -/
structure FieldDef where
  name : String
  lo : Nat
  width : Nat
  ty : FTy
  reset : Nat
  commit : Commit
deriving DecidableEq, Repr

/-- A register, or a family of registers at `base` plus index times stride for each dimension (stride, count). -/
structure RegDef where
  name : String
  base : Nat
  dims : List (Nat × Nat)
  pres : Pres
  fields : List FieldDef
deriving DecidableEq, Repr

/-- Where a field lies: the key of its register (unit × 2^32 + offset), its lowest bit and its width. -/
structure Fld where
  key : Nat
  lo : Nat
  width : Nat
deriving DecidableEq, Repr

end Sys2Proof.Machine
end

