-- ==== Sys2Proof/Machine/RegFields.lean ====
section
/-! DEFINITION. Named accessors for the fields of the register map: `F.<register>_<field>` is where that field of the
spec's tables lies, with the register's indices as arguments. -/

namespace Sys2Proof.Machine.F

def SYS_TXN_CFG_TIMEOUT_US : Fld := ⟨0x400, 0, 17⟩
def SYS_TXN_LIMIT_LIM_MGT : Fld := ⟨0x404, 0, 8⟩
def SYS_TXN_LIMIT_LIM_SVC : Fld := ⟨0x404, 8, 8⟩
def SYS_TXN_LIMIT_LIM_JCT : Fld := ⟨0x404, 16, 8⟩
def SYS_TXN_LIMIT_LIM_POL : Fld := ⟨0x404, 24, 8⟩
def SYS_TXN_STAT_OUTSTANDING : Fld := ⟨0x408, 0, 9⟩
def SYS_TXN_STAT_REQ_BUF : Fld := ⟨0x408, 16, 8⟩
def SYS_TXN_STAT_REFUSE_FREE : Fld := ⟨0x408, 24, 6⟩
def SYS_TXN_LATE_COUNT : Fld := ⟨0x40C, 0, 32⟩
def SYS_TXN_REFUSED_COUNT : Fld := ⟨0x410, 0, 32⟩
def SYS_TXN_LOSS_COUNT : Fld := ⟨0x414, 0, 32⟩
def SYS_PFL_STAT_WR_IDX : Fld := ⟨0x420, 0, 6⟩
def SYS_PFL_TOTAL_TOTAL : Fld := ⟨0x424, 0, 32⟩
def SYS_PFL_CFG_MQ : Fld := ⟨0x428, 0, 8⟩
def SYS_PFL_CFG_MQ_EN : Fld := ⟨0x428, 8, 1⟩
def SYS_PFL_CFG_PRIO : Fld := ⟨0x428, 9, 3⟩
def SYS_PFL_CNT_COUNT (i : Nat) : Fld := ⟨0x430 + 0x4 * i, 0, 32⟩
def I2B_BUS_CFG_SPEED (n : Nat) : Fld := ⟨0xF00000000 + 0x4 * n, 0, 2⟩
def I2B_BUS_CFG_STRETCH_MAX (n : Nat) : Fld := ⟨0xF00000000 + 0x4 * n, 8, 8⟩
def I2B_BUS_CFG_EN (n : Nat) : Fld := ⟨0xF00000000 + 0x4 * n, 16, 1⟩
def I2B_MDIO_CFG_DIV0 : Fld := ⟨0xF00000040, 0, 8⟩
def I2B_MDIO_CFG_DIV1 : Fld := ⟨0xF00000040, 8, 8⟩
def I2B_STAT_I2C_BUSY : Fld := ⟨0xF00000044, 0, 16⟩
def I2B_STAT_MDIO_BUSY : Fld := ⟨0xF00000044, 16, 2⟩
def I2B_NACK_CNT_COUNT : Fld := ⟨0xF00000048, 0, 32⟩
def I2B_STRETCH_CNT_COUNT : Fld := ⟨0xF0000004C, 0, 32⟩
def I2B_ARB_CNT_COUNT : Fld := ⟨0xF00000050, 0, 32⟩
def SYS_ID_FAMILY : Fld := ⟨0x0, 0, 16⟩
def SYS_ID_VARIANT : Fld := ⟨0x0, 16, 8⟩
def SYS_ID_STEPPING : Fld := ⟨0x0, 24, 8⟩
def SYS_CAP_CIP : Fld := ⟨0x4, 0, 1⟩
def SYS_CAP_TWN : Fld := ⟨0x4, 1, 1⟩
def SYS_CAP_ACC_LANES : Fld := ⟨0x4, 2, 5⟩
def SYS_CAP_BUS_CH : Fld := ⟨0x4, 7, 5⟩
def SYS_CAP_BUS_PRIV : Fld := ⟨0x4, 12, 2⟩
def SYS_CAP_ARCADES : Fld := ⟨0x4, 14, 4⟩
def SYS_CAP_SLOTS : Fld := ⟨0x4, 18, 4⟩
def SYS_CAP_PLZ_HALF : Fld := ⟨0x4, 22, 1⟩
def SYS_UID_LO_UID : Fld := ⟨0x8, 0, 32⟩
def SYS_UID_HI_UID : Fld := ⟨0xC, 0, 32⟩
def SYS_NODE_NODE_ID : Fld := ⟨0x10, 0, 8⟩
def SYS_NODE_SIDE : Fld := ⟨0x10, 8, 1⟩
def SYS_UNIT_RST_RST : Fld := ⟨0x100, 1, 11⟩
def SYS_UNIT_RST_RSTH : Fld := ⟨0x100, 13, 4⟩
def SYS_UNIT_FENCE_FENCE : Fld := ⟨0x104, 1, 11⟩
def SYS_UNIT_FENCE_FENCEH : Fld := ⟨0x104, 13, 4⟩
def SYS_UNIT_FENCED_UNITS : Fld := ⟨0x108, 0, 17⟩
def SYS_UNIT_FLTFENCE_UNITS : Fld := ⟨0x10C, 0, 17⟩
def SYS_UNIT_INRST_UNITS : Fld := ⟨0x110, 0, 17⟩
def SYS_UNIT_ABSENT_UNITS : Fld := ⟨0x114, 0, 17⟩
def SYS_LOCK_LOCK : Fld := ⟨0x118, 0, 17⟩
def SYS_COMMIT_CTL_HOLD : Fld := ⟨0x200, 0, 1⟩
def SYS_COMMIT_CTL_DISCARD : Fld := ⟨0x200, 1, 1⟩
def SYS_COMMIT_STAT_PENDING : Fld := ⟨0x204, 0, 1⟩
def SYS_COMMIT_STAT_HELD_CYCLES : Fld := ⟨0x204, 8, 8⟩
def SYS_EPOCH_CMD_FLIP : Fld := ⟨0x208, 0, 6⟩
def SYS_EPOCH_STAT_ACTIVE : Fld := ⟨0x20C, 0, 6⟩
def SYS_EPOCH_STAT_PENDING : Fld := ⟨0x20C, 8, 6⟩
def SYS_EPOCH_STAT_DRAINING : Fld := ⟨0x20C, 16, 6⟩
def RNG_PORT_CFG_MAX_RATE (n : Nat) : Fld := ⟨0x200000000 + 0x40 * n, 0, 2⟩
def RNG_PORT_CFG_FR_ALLOW (n : Nat) : Fld := ⟨0x200000000 + 0x40 * n, 2, 1⟩
def RNG_PORT_CFG_ENC_OFFER (n : Nat) : Fld := ⟨0x200000000 + 0x40 * n, 3, 1⟩
def RNG_PORT_CFG_TX_POL (n : Nat) : Fld := ⟨0x200000000 + 0x40 * n, 4, 2⟩
def RNG_PORT_CFG_RX_POL (n : Nat) : Fld := ⟨0x200000000 + 0x40 * n, 6, 2⟩
def RNG_PORT_CFG_EN (n : Nat) : Fld := ⟨0x200000000 + 0x40 * n, 8, 1⟩
def RNG_PORT_CTL_RETRAIN (n : Nat) : Fld := ⟨0x200000004 + 0x40 * n, 0, 1⟩
def RNG_PORT_STAT_STATE (n : Nat) : Fld := ⟨0x200000008 + 0x40 * n, 0, 4⟩
def RNG_PORT_STAT_RATE (n : Nat) : Fld := ⟨0x200000008 + 0x40 * n, 4, 2⟩
def RNG_PORT_STAT_ENC (n : Nat) : Fld := ⟨0x200000008 + 0x40 * n, 6, 1⟩
def RNG_PORT_STAT_FR (n : Nat) : Fld := ⟨0x200000008 + 0x40 * n, 7, 1⟩
def RNG_PORT_STAT_SWAPPED (n : Nat) : Fld := ⟨0x200000008 + 0x40 * n, 8, 1⟩
def RNG_PORT_STAT_PEER_NODE (n : Nat) : Fld := ⟨0x200000008 + 0x40 * n, 16, 8⟩
def RNG_PORT_STAT_PEER_SIDE (n : Nat) : Fld := ⟨0x200000008 + 0x40 * n, 24, 1⟩
def RNG_PORT_STAT_PEER_VERSION (n : Nat) : Fld := ⟨0x200000008 + 0x40 * n, 28, 4⟩
def RNG_PORT_BRINGUP_REASON (n : Nat) : Fld := ⟨0x20000000C + 0x40 * n, 0, 4⟩
def RNG_PORT_BRINGUP_REASON_RATE (n : Nat) : Fld := ⟨0x20000000C + 0x40 * n, 4, 2⟩
def RNG_PORT_BRINGUP_SKEW (n : Nat) : Fld := ⟨0x20000000C + 0x40 * n, 16, 6⟩
def RNG_PORT_MKR_ERR_COUNT (n : Nat) : Fld := ⟨0x200000010 + 0x40 * n, 0, 32⟩
def RNG_PORT_STUFF_ERR_COUNT (n : Nat) : Fld := ⟨0x200000014 + 0x40 * n, 0, 32⟩
def RNG_PORT_SOF_ERR_COUNT (n : Nat) : Fld := ⟨0x200000018 + 0x40 * n, 0, 32⟩
def RNG_PORT_CRC_ERR_COUNT (n : Nat) : Fld := ⟨0x20000001C + 0x40 * n, 0, 32⟩
def RNG_PORT_LOCK_LOSS_COUNT (n : Nat) : Fld := ⟨0x200000020 + 0x40 * n, 0, 32⟩
def RNG_PORT_FALLBACK_COUNT (n : Nat) : Fld := ⟨0x200000024 + 0x40 * n, 0, 32⟩
def RNG_LANE_EQ_TX_TAPS (m : Nat) : Fld := ⟨0x200000100 + 0x8 * m, 0, 30⟩
def RNG_LANE_EQ_TX_RATE_IDX (m : Nat) : Fld := ⟨0x200000100 + 0x8 * m, 30, 2⟩
def RNG_LANE_EQ_RX_CTLE (m : Nat) : Fld := ⟨0x200000104 + 0x8 * m, 0, 4⟩
def RNG_LANE_EQ_RX_DFE (m : Nat) : Fld := ⟨0x200000104 + 0x8 * m, 4, 24⟩
def RNG_LANE_EQ_RX_DEFAULT (m : Nat) : Fld := ⟨0x200000104 + 0x8 * m, 28, 1⟩
def ACC_LANE_CFG_MODE (n : Nat) : Fld := ⟨0x300000000 + 0x10 * n, 0, 3⟩
def ACC_LANE_CFG_AN_EN (n : Nat) : Fld := ⟨0x300000000 + 0x10 * n, 3, 1⟩
def ACC_LANE_CFG_TX_POL (n : Nat) : Fld := ⟨0x300000000 + 0x10 * n, 4, 1⟩
def ACC_LANE_CFG_RX_POL (n : Nat) : Fld := ⟨0x300000000 + 0x10 * n, 5, 1⟩
def ACC_LANE_CFG_PAUSE_ADV (n : Nat) : Fld := ⟨0x300000000 + 0x10 * n, 6, 2⟩
def ACC_LANE_STAT_CDR_LOCK (n : Nat) : Fld := ⟨0x300000004 + 0x10 * n, 0, 1⟩
def ACC_LANE_STAT_SYNC (n : Nat) : Fld := ⟨0x300000004 + 0x10 * n, 1, 1⟩
def ACC_LANE_STAT_AN_DONE (n : Nat) : Fld := ⟨0x300000004 + 0x10 * n, 2, 1⟩
def ACC_LANE_STAT_LINK (n : Nat) : Fld := ⟨0x300000004 + 0x10 * n, 8, 4⟩
def ACC_LANE_STAT_SPEED (n : Nat) : Fld := ⟨0x300000004 + 0x10 * n, 12, 8⟩
def ACC_LANE_STAT_PEER_PAUSE (n : Nat) : Fld := ⟨0x300000004 + 0x10 * n, 20, 2⟩
def ACC_LANE_ERR_COUNT (n : Nat) : Fld := ⟨0x300000008 + 0x10 * n, 0, 32⟩
def ACC_LANE_EQ_TX_TAPS (n : Nat) : Fld := ⟨0x300000180 + 0x8 * n, 0, 30⟩
def ACC_LANE_EQ_TX_RATE_IDX (n : Nat) : Fld := ⟨0x300000180 + 0x8 * n, 30, 2⟩
def ACC_LANE_EQ_RX_CTLE (n : Nat) : Fld := ⟨0x300000184 + 0x8 * n, 0, 4⟩
def ACC_LANE_EQ_RX_DFE (n : Nat) : Fld := ⟨0x300000184 + 0x8 * n, 4, 24⟩
def ACC_LANE_EQ_RX_DEFAULT (n : Nat) : Fld := ⟨0x300000184 + 0x8 * n, 28, 1⟩
def RNG_CFG_HOP_LIMIT : Fld := ⟨0x200000400, 0, 8⟩
def RNG_CFG_KA_MISS : Fld := ⟨0x200000400, 8, 4⟩
def RNG_CFG_TIE_WEST : Fld := ⟨0x200000400, 12, 1⟩
def RNG_CFG_AUTO_HEAL : Fld := ⟨0x200000400, 13, 1⟩
def RNG_CFG_HEAL_HOLD : Fld := ⟨0x200000400, 16, 8⟩
def RNG_ADD_CFG_RATE : Fld := ⟨0x200000404, 0, 8⟩
def RNG_ADD_CFG_BURST : Fld := ⟨0x200000404, 8, 8⟩
def RNG_CTL_WRAP_E : Fld := ⟨0x200000408, 0, 1⟩
def RNG_CTL_WRAP_W : Fld := ⟨0x200000408, 1, 1⟩
def RNG_CTL_HEAL : Fld := ⟨0x200000408, 2, 1⟩
def RNG_STAT_BROKEN : Fld := ⟨0x20000040C, 0, 2⟩
def RNG_STAT_WRAP : Fld := ⟨0x20000040C, 2, 2⟩
def RNG_STAT_CLOSED_OUTER : Fld := ⟨0x20000040C, 4, 1⟩
def RNG_STAT_CLOSED_INNER : Fld := ⟨0x20000040C, 5, 1⟩
def RNG_STAT_DUP_ID : Fld := ⟨0x20000040C, 6, 1⟩
def RNG_STAT_STATIONS : Fld := ⟨0x20000040C, 8, 8⟩
def RNG_STAT_MAP_GEN : Fld := ⟨0x20000040C, 16, 16⟩
def RNG_PORT_KA_MISS_COUNT (n : Nat) : Fld := ⟨0x200000440 + 0x40 * n, 0, 32⟩
def RNG_PORT_BREAK_COUNT (n : Nat) : Fld := ⟨0x200000444 + 0x40 * n, 0, 32⟩
def RNG_PORT_STOMPED_COUNT (n : Nat) : Fld := ⟨0x200000448 + 0x40 * n, 0, 32⟩
def RNG_PORT_TAG_FAIL_COUNT (n : Nat) : Fld := ⟨0x20000044C + 0x40 * n, 0, 32⟩
def RNG_PORT_LEN_ERR_COUNT (n : Nat) : Fld := ⟨0x200000450 + 0x40 * n, 0, 32⟩
def RNG_PORT_TRUNC_COUNT (n : Nat) : Fld := ⟨0x200000454 + 0x40 * n, 0, 32⟩
def RNG_PORT_SUSPECT_COUNT (n : Nat) : Fld := ⟨0x200000458 + 0x40 * n, 0, 32⟩
def RNG_PORT_NONCE_RESYNC_COUNT (n : Nat) : Fld := ⟨0x20000045C + 0x40 * n, 0, 32⟩
def RNG_PORT_KA_REJECT_COUNT (n : Nat) : Fld := ⟨0x200000460 + 0x40 * n, 0, 32⟩
def RNG_RETURNED_COUNT : Fld := ⟨0x200000500, 0, 32⟩
def RNG_HOP_EXPIRED_COUNT : Fld := ⟨0x200000504, 0, 32⟩
def RNG_WRAP_TWICE_COUNT : Fld := ⟨0x200000508, 0, 32⟩
def RNG_C7_DUP_COUNT : Fld := ⟨0x20000050C, 0, 32⟩
def RNG_C7_OLD_COUNT : Fld := ⟨0x200000510, 0, 32⟩
def RNG_UNKNOWN_COUNT : Fld := ⟨0x200000514, 0, 32⟩
def RNG_BLOCKED_COUNT : Fld := ⟨0x200000518, 0, 32⟩
def RNG_ADD_DROP_COUNT : Fld := ⟨0x20000051C, 0, 32⟩
def RNG_DMAP_DIR (b : Nat) (n : Nat) : Fld := ⟨0x200001000 + 0x400 * b + 0x4 * n, 0, 2⟩
def RNG_DMAP_BLOCK (b : Nat) (n : Nat) : Fld := ⟨0x200001000 + 0x400 * b + 0x4 * n, 2, 1⟩
def RNG_DMAP_HOP_LIMIT (b : Nat) (n : Nat) : Fld := ⟨0x200001000 + 0x400 * b + 0x4 * n, 8, 8⟩
def PLZ_POOL_CFG_C7_RES : Fld := ⟨0x100000120, 0, 12⟩
def PLZ_POOL_STAT_FREE : Fld := ⟨0x100000124, 0, 17⟩
def PLZ_POOL_STAT_G_REFUSED : Fld := ⟨0x100000124, 17, 1⟩
def PLZ_POOL_SIZE_CELLS : Fld := ⟨0x100000128, 0, 17⟩
def PLZ_C7_STAT_CELLS : Fld := ⟨0x10000012C, 0, 17⟩
def PLZ_CLASS_CFG_ALPHA (c : Nat) : Fld := ⟨0x100000140 + 0x4 * c, 0, 3⟩
def PLZ_CLASS_CFG_ALPHA_MIN (c : Nat) : Fld := ⟨0x100000140 + 0x4 * c, 3, 3⟩
def PLZ_CLASS_CFG_ALPHA_MAX (c : Nat) : Fld := ⟨0x100000140 + 0x4 * c, 6, 3⟩
def PLZ_CLASS_CFG_ADAPT (c : Nat) : Fld := ⟨0x100000140 + 0x4 * c, 9, 1⟩
def PLZ_CLASS_CFG_QUANTUM (c : Nat) : Fld := ⟨0x100000140 + 0x4 * c, 10, 8⟩
def PLZ_CLASS_STAT_ALPHA_NOW (c : Nat) : Fld := ⟨0x100000160 + 0x4 * c, 0, 3⟩
def PLZ_CLASS_STAT_SHARED (c : Nat) : Fld := ⟨0x100000160 + 0x4 * c, 3, 17⟩
def PLZ_TIME_CFG_RES_LIMIT_US : Fld := ⟨0x100000180, 0, 16⟩
def PLZ_TIME_CFG_HOLD_US : Fld := ⟨0x100000180, 16, 16⟩
def PLZ_LRN_CFG_AGE_S : Fld := ⟨0x100000184, 0, 16⟩
def PLZ_LRN_CFG_LRN_EN : Fld := ⟨0x100000184, 16, 1⟩
def PLZ_LRN_CTL_FLUSH : Fld := ⟨0x100000188, 0, 1⟩
def PLZ_LRN_CTL_PORT : Fld := ⟨0x100000188, 1, 7⟩
def PLZ_LRN_CTL_BY_PORT : Fld := ⟨0x100000188, 8, 1⟩
def PLZ_LRN_CTL_VID : Fld := ⟨0x100000188, 9, 12⟩
def PLZ_LRN_CTL_BY_VID : Fld := ⟨0x100000188, 21, 1⟩
def PLZ_LRN_STAT_ENTRIES : Fld := ⟨0x10000018C, 0, 15⟩
def PLZ_DROP_POOL_COUNT : Fld := ⟨0x100000200, 0, 32⟩
def PLZ_DROP_NOBUF_COUNT : Fld := ⟨0x100000204, 0, 32⟩
def PLZ_DROP_PORT_DOWN_COUNT : Fld := ⟨0x100000208, 0, 32⟩
def PLZ_DROP_FLUSH_LINKDOWN_COUNT : Fld := ⟨0x10000020C, 0, 32⟩
def PLZ_DROP_RESIDENCY_COUNT : Fld := ⟨0x100000210, 0, 32⟩
def PLZ_DROP_INGRESS_ERR_COUNT : Fld := ⟨0x100000214, 0, 32⟩
def PLZ_DROP_VLAN_COUNT : Fld := ⟨0x100000218, 0, 32⟩
def PLZ_DROP_MTU_COUNT : Fld := ⟨0x10000021C, 0, 32⟩
def PLZ_DROP_FILTER_COUNT : Fld := ⟨0x100000220, 0, 32⟩
def PLZ_MARKED_COUNT : Fld := ⟨0x100000224, 0, 32⟩
def PLZ_LRN_MOVE_COUNT : Fld := ⟨0x100000228, 0, 32⟩
def PLZ_LRN_FULL_COUNT : Fld := ⟨0x10000022C, 0, 32⟩
def PLZ_CAP_MISS_COUNT : Fld := ⟨0x100000230, 0, 32⟩
def PLZ_CT_STOMP_COUNT : Fld := ⟨0x100000234, 0, 32⟩
def PLZ_CAP_CFG_EN : Fld := ⟨0x100000300, 0, 1⟩
def PLZ_CAP_CFG_STOP_FULL : Fld := ⟨0x100000300, 1, 1⟩
def PLZ_CAP_CFG_TRIG_COUNT : Fld := ⟨0x100000300, 2, 12⟩
def PLZ_CAP_CFG_DROP_MASK : Fld := ⟨0x100000300, 14, 9⟩
def PLZ_CAP_STAT_WR_IDX : Fld := ⟨0x100000304, 0, 12⟩
def PLZ_CAP_STAT_FULL : Fld := ⟨0x100000304, 12, 1⟩
def PLZ_CAP_STAT_TRIG_LEFT : Fld := ⟨0x100000304, 13, 12⟩
def PLZ_CAP_RD_RD_IDX : Fld := ⟨0x10000030C, 0, 12⟩
def PLZ_CAP_TOTAL_COUNT : Fld := ⟨0x100000308, 0, 32⟩
def PLZ_PORT_STAT_STATE (p : Nat) : Fld := ⟨0x100002000 + 0x4 * p, 0, 2⟩
def PLZ_PORT_STAT_XOFF_RX (p : Nat) : Fld := ⟨0x100002000 + 0x4 * p, 2, 8⟩
def PLZ_PORT_STAT_XOFF_TX (p : Nat) : Fld := ⟨0x100002000 + 0x4 * p, 10, 8⟩
def PLZ_CAP_P_CLASS_MASK (p : Nat) : Fld := ⟨0x100002200 + 0x4 * p, 0, 8⟩
def PLZ_CAP_P_N (p : Nat) : Fld := ⟨0x100002200 + 0x4 * p, 8, 16⟩
def PLZ_SQ_CFG_PORT (m : Nat) : Fld := ⟨0x100003000 + 0x4 * m, 0, 7⟩
def PLZ_SQ_CFG_CLASS (m : Nat) : Fld := ⟨0x100003000 + 0x4 * m, 7, 3⟩
def PLZ_SQ_CFG_EN (m : Nat) : Fld := ⟨0x100003000 + 0x4 * m, 10, 1⟩
def PLZ_SQ_CFG_RATE (m : Nat) : Fld := ⟨0x100003000 + 0x4 * m, 12, 16⟩
def PLZ_SQ_CFG_BURST (m : Nat) : Fld := ⟨0x100003000 + 0x4 * m, 28, 3⟩
def PLZ_Q_CFG_GUAR (q : Nat) : Fld := ⟨0x100004000 + 0x4 * q, 0, 8⟩
def PLZ_Q_CFG_MARK16 (q : Nat) : Fld := ⟨0x100004000 + 0x4 * q, 8, 8⟩
def PLZ_Q_DEPTH_CELLS (q : Nat) : Fld := ⟨0x100005000 + 0x4 * q, 0, 17⟩
def PLZ_Q_DEPTH_LAST_REASON (q : Nat) : Fld := ⟨0x100005000 + 0x4 * q, 17, 4⟩
def PLZ_Q_DROP_COUNT (q : Nat) : Fld := ⟨0x100006000 + 0x4 * q, 0, 32⟩
def PLZ_Q_MARK_COUNT (q : Nat) : Fld := ⟨0x100007000 + 0x4 * q, 0, 32⟩
def ACC_MAC_CFG_EN (p : Nat) : Fld := ⟨0x300010000 + 0x400 * p, 0, 1⟩
def ACC_MAC_CFG_MAX_LEN (p : Nat) : Fld := ⟨0x300010000 + 0x400 * p, 1, 14⟩
def ACC_MAC_CFG_RX_PAUSE_EN (p : Nat) : Fld := ⟨0x300010000 + 0x400 * p, 15, 1⟩
def ACC_MAC_CFG_TX_PAUSE_EN (p : Nat) : Fld := ⟨0x300010000 + 0x400 * p, 16, 1⟩
def ACC_MAC_CFG_PFC_EN (p : Nat) : Fld := ⟨0x300010000 + 0x400 * p, 17, 1⟩
def ACC_MAC_CFG_ECN_EN (p : Nat) : Fld := ⟨0x300010000 + 0x400 * p, 18, 1⟩
def ACC_MAC_CFG_LEARN_EN (p : Nat) : Fld := ⟨0x300010000 + 0x400 * p, 19, 1⟩
def ACC_MAC_VLAN_PVID (p : Nat) : Fld := ⟨0x300010004 + 0x400 * p, 0, 12⟩
def ACC_MAC_VLAN_DEF_PCP (p : Nat) : Fld := ⟨0x300010004 + 0x400 * p, 12, 3⟩
def ACC_MAC_VLAN_ACCEPT_UNTAGGED (p : Nat) : Fld := ⟨0x300010004 + 0x400 * p, 15, 1⟩
def ACC_MAC_VLAN_ACCEPT_TAGGED (p : Nat) : Fld := ⟨0x300010004 + 0x400 * p, 16, 1⟩
def ACC_MAC_VLAN_INGRESS_FILTER (p : Nat) : Fld := ⟨0x300010004 + 0x400 * p, 17, 1⟩
def ACC_MAC_PCPMAP_MAP (p : Nat) : Fld := ⟨0x300010008 + 0x400 * p, 0, 24⟩
def ACC_MAC_FC_XOFF (p : Nat) : Fld := ⟨0x30001000C + 0x400 * p, 0, 16⟩
def ACC_MAC_FC_XON (p : Nat) : Fld := ⟨0x30001000C + 0x400 * p, 16, 16⟩
def ACC_MAC_RX_FRAMES_COUNT (p : Nat) : Fld := ⟨0x300010100 + 0x400 * p, 0, 32⟩
def ACC_MAC_RX_OCTETS_COUNT (p : Nat) : Fld := ⟨0x300010104 + 0x400 * p, 0, 32⟩
def ACC_MAC_RX_FCS_ERR_COUNT (p : Nat) : Fld := ⟨0x300010108 + 0x400 * p, 0, 32⟩
def ACC_MAC_RX_LEN_ERR_COUNT (p : Nat) : Fld := ⟨0x30001010C + 0x400 * p, 0, 32⟩
def ACC_MAC_RX_VLAN_DROP_COUNT (p : Nat) : Fld := ⟨0x300010110 + 0x400 * p, 0, 32⟩
def ACC_MAC_RX_PAUSE_COUNT (p : Nat) : Fld := ⟨0x300010114 + 0x400 * p, 0, 32⟩
def ACC_MAC_TX_FRAMES_COUNT (p : Nat) : Fld := ⟨0x300010118 + 0x400 * p, 0, 32⟩
def ACC_MAC_TX_OCTETS_COUNT (p : Nat) : Fld := ⟨0x30001011C + 0x400 * p, 0, 32⟩
def ACC_MAC_TX_PAUSE_COUNT (p : Nat) : Fld := ⟨0x300010120 + 0x400 * p, 0, 32⟩
def JCT_CFG_EN : Fld := ⟨0x400000000, 0, 1⟩
def JCT_CFG_ETH_EN : Fld := ⟨0x400000000, 1, 1⟩
def JCT_ETH_MAC_LO_MAC : Fld := ⟨0x400000004, 0, 32⟩
def JCT_ETH_MAC_HI_MAC : Fld := ⟨0x400000008, 0, 16⟩
def JCT_ETH_MAC_HI_VID : Fld := ⟨0x400000008, 16, 12⟩
def JCT_STAT_BUSY : Fld := ⟨0x40000000C, 0, 4⟩
def JCT_ERR_INFO_ROUTE : Fld := ⟨0x400000010, 0, 14⟩
def JCT_ERR_INFO_CODE : Fld := ⟨0x400000010, 16, 4⟩
def JCT_RX_COUNT : Fld := ⟨0x400000100, 0, 32⟩
def JCT_RX_NOKEY_COUNT : Fld := ⟨0x400000104, 0, 32⟩
def JCT_RX_BAD_COUNT : Fld := ⟨0x400000108, 0, 32⟩
def JCT_RX_LATE_COUNT : Fld := ⟨0x40000010C, 0, 32⟩
def JCT_STEPS_COUNT : Fld := ⟨0x400000110, 0, 32⟩
def JCT_ROUTE_ERR_COUNT : Fld := ⟨0x400000114, 0, 32⟩
def JCT_INVALID_COUNT : Fld := ⟨0x400000118, 0, 32⟩
def JCT_OVERFLOW_COUNT : Fld := ⟨0x40000011C, 0, 32⟩
def JCT_STALE_COUNT : Fld := ⟨0x400000120, 0, 32⟩
def JCT_LIST_LONG_COUNT : Fld := ⟨0x400000124, 0, 32⟩
def JCT_EMIT_COUNT : Fld := ⟨0x400000128, 0, 32⟩
def JCT_EMIT_LATE_COUNT : Fld := ⟨0x40000012C, 0, 32⟩
def JCT_SINK_FULL_COUNT : Fld := ⟨0x400000130, 0, 32⟩
def JCT_BUS_REPLACED_COUNT : Fld := ⟨0x400000134, 0, 32⟩
def JCT_EMIT_SHADOW_COUNT : Fld := ⟨0x400000138, 0, 32⟩
def JCT_EMIT_FENCED_COUNT : Fld := ⟨0x40000013C, 0, 32⟩
def JCT_OVR_COUNT (k : Nat) : Fld := ⟨0x400001000 + 0x4 * k, 0, 32⟩
def JCT_ALIVE_VALUE (t : Nat) : Fld := ⟨0x400008000 + 0x4 * t, 0, 16⟩
def MQ_CFG_POLL_EN : Fld := ⟨0x500000000, 0, 1⟩
def MQ_POOL_STAT_UNRESERVED : Fld := ⟨0x500000004, 0, 15⟩
def MQ_ATTN_STAT_ATTN : Fld := ⟨0x500000008, 0, 1⟩
def MQ_ABORTED_COUNT : Fld := ⟨0x500000010, 0, 32⟩
def MQ_FLUSHED_COUNT : Fld := ⟨0x500000014, 0, 32⟩
def MQ_Q_CFG_EN (n : Nat) : Fld := ⟨0x500001000 + 0x20 * n, 0, 1⟩
def MQ_Q_CFG_CONSUMER (n : Nat) : Fld := ⟨0x500001000 + 0x20 * n, 1, 2⟩
def MQ_Q_CFG_ENGINE (n : Nat) : Fld := ⟨0x500001000 + 0x20 * n, 3, 6⟩
def MQ_Q_CFG_ATTN_EN (n : Nat) : Fld := ⟨0x500001000 + 0x20 * n, 9, 1⟩
def MQ_Q_CFG_ATTN_PRIO (n : Nat) : Fld := ⟨0x500001000 + 0x20 * n, 10, 3⟩
def MQ_Q_CFG_CAP (n : Nat) : Fld := ⟨0x500001000 + 0x20 * n, 13, 15⟩
def MQ_Q_PROD_PRODUCER (n : Nat) (k : Nat) : Fld := ⟨0x500001004 + 0x20 * n + 0x4 * k, 0, 8⟩
def MQ_Q_PROD_VALID (n : Nat) (k : Nat) : Fld := ⟨0x500001004 + 0x20 * n + 0x4 * k, 8, 1⟩
def MQ_Q_PROD_CREDIT (n : Nat) (k : Nat) : Fld := ⟨0x500001004 + 0x20 * n + 0x4 * k, 9, 15⟩
def MQ_Q_STAT_USED (n : Nat) : Fld := ⟨0x500001014 + 0x20 * n, 0, 15⟩
def MQ_Q_STAT_HELD (n : Nat) : Fld := ⟨0x500001014 + 0x20 * n, 15, 1⟩
def MQ_Q_STAT_MSGS (n : Nat) : Fld := ⟨0x500001014 + 0x20 * n, 16, 15⟩
def MQ_Q_STAT_PUSH_OPEN (n : Nat) : Fld := ⟨0x500001014 + 0x20 * n, 31, 1⟩
def MQ_Q_CTL_RELEASE (n : Nat) : Fld := ⟨0x500001018 + 0x20 * n, 0, 1⟩
def MQ_Q_CTL_ABORT (n : Nat) : Fld := ⟨0x500001018 + 0x20 * n, 1, 1⟩
def MQ_Q_CTL_FLUSH (n : Nat) : Fld := ⟨0x500001018 + 0x20 * n, 2, 1⟩
def MQ_Q_NOCRED_COUNT (n : Nat) : Fld := ⟨0x50000101C + 0x20 * n, 0, 32⟩
def BUS_CH_CFG_EN (c : Nat) : Fld := ⟨0x600000000 + 0x400 * c, 0, 1⟩
def BUS_CH_CFG_FD_EN (c : Nat) : Fld := ⟨0x600000000 + 0x400 * c, 1, 1⟩
def BUS_CH_CFG_LISTEN (c : Nat) : Fld := ⟨0x600000000 + 0x400 * c, 2, 1⟩
def BUS_CH_CFG_JCT_EN (c : Nat) : Fld := ⟨0x600000000 + 0x400 * c, 3, 1⟩
def BUS_CH_CFG_JTX (c : Nat) : Fld := ⟨0x600000000 + 0x400 * c, 4, 1⟩
def BUS_CH_CFG_AUTO_RECOVER (c : Nat) : Fld := ⟨0x600000000 + 0x400 * c, 5, 1⟩
def BUS_CH_CFG_ESIZE (c : Nat) : Fld := ⟨0x600000000 + 0x400 * c, 6, 1⟩
def BUS_CH_CFG_PXE (c : Nat) : Fld := ⟨0x600000000 + 0x400 * c, 7, 1⟩
def BUS_CH_NBT_BRP (c : Nat) : Fld := ⟨0x600000004 + 0x400 * c, 0, 5⟩
def BUS_CH_NBT_TSEG1 (c : Nat) : Fld := ⟨0x600000004 + 0x400 * c, 5, 8⟩
def BUS_CH_NBT_TSEG2 (c : Nat) : Fld := ⟨0x600000004 + 0x400 * c, 13, 7⟩
def BUS_CH_NBT_SJW (c : Nat) : Fld := ⟨0x600000004 + 0x400 * c, 20, 7⟩
def BUS_CH_DBT_DBRP (c : Nat) : Fld := ⟨0x600000008 + 0x400 * c, 0, 5⟩
def BUS_CH_DBT_DTSEG1 (c : Nat) : Fld := ⟨0x600000008 + 0x400 * c, 5, 5⟩
def BUS_CH_DBT_DTSEG2 (c : Nat) : Fld := ⟨0x600000008 + 0x400 * c, 10, 4⟩
def BUS_CH_DBT_DSJW (c : Nat) : Fld := ⟨0x600000008 + 0x400 * c, 14, 4⟩
def BUS_CH_DBT_TDC_EN (c : Nat) : Fld := ⟨0x600000008 + 0x400 * c, 18, 1⟩
def BUS_CH_DBT_TDCO (c : Nat) : Fld := ⟨0x600000008 + 0x400 * c, 19, 7⟩
def BUS_CH_CTL_RECOVER (c : Nat) : Fld := ⟨0x60000000C + 0x400 * c, 0, 1⟩
def BUS_CH_STAT_STATE (c : Nat) : Fld := ⟨0x600000010 + 0x400 * c, 0, 2⟩
def BUS_CH_STAT_RESTRICTED (c : Nat) : Fld := ⟨0x600000010 + 0x400 * c, 2, 1⟩
def BUS_CH_STAT_TIMING_BAD (c : Nat) : Fld := ⟨0x600000010 + 0x400 * c, 3, 1⟩
def BUS_CH_STAT_LEC (c : Nat) : Fld := ⟨0x600000010 + 0x400 * c, 4, 3⟩
def BUS_CH_STAT_TEC (c : Nat) : Fld := ⟨0x600000010 + 0x400 * c, 7, 9⟩
def BUS_CH_STAT_REC (c : Nat) : Fld := ⟨0x600000010 + 0x400 * c, 16, 8⟩
def BUS_CH_STAT_TDC_MEAS (c : Nat) : Fld := ⟨0x600000010 + 0x400 * c, 24, 8⟩
def BUS_CH_RXA_WR (c : Nat) : Fld := ⟨0x600000014 + 0x400 * c, 0, 10⟩
def BUS_CH_RXA_RD (c : Nat) : Fld := ⟨0x600000014 + 0x400 * c, 16, 10⟩
def BUS_CH_RXB_WR (c : Nat) : Fld := ⟨0x600000018 + 0x400 * c, 0, 10⟩
def BUS_CH_RXB_RD (c : Nat) : Fld := ⟨0x600000018 + 0x400 * c, 16, 10⟩
def BUS_CH_RXCFG_NA (c : Nat) : Fld := ⟨0x60000001C + 0x400 * c, 0, 10⟩
def BUS_CH_RXCFG_NB (c : Nat) : Fld := ⟨0x60000001C + 0x400 * c, 16, 10⟩
def BUS_CH_NOTE_QUEUE (c : Nat) : Fld := ⟨0x600000020 + 0x400 * c, 0, 8⟩
def BUS_CH_NOTE_ALL (c : Nat) : Fld := ⟨0x600000020 + 0x400 * c, 8, 1⟩
def BUS_CH_NOTE_STARVE (c : Nat) : Fld := ⟨0x600000020 + 0x400 * c, 9, 1⟩
def BUS_CH_NOTE_PRIO (c : Nat) : Fld := ⟨0x600000020 + 0x400 * c, 10, 3⟩
def BUS_CH_NOTE_PPRIO (c : Nat) : Fld := ⟨0x600000020 + 0x400 * c, 13, 3⟩
def BUS_CH_FLT_NOMATCH_STD (c : Nat) : Fld := ⟨0x600000024 + 0x400 * c, 0, 4⟩
def BUS_CH_FLT_NOMATCH_EXT (c : Nat) : Fld := ⟨0x600000024 + 0x400 * c, 4, 4⟩
def BUS_CH_STARVE_STARVE_US (c : Nat) : Fld := ⟨0x600000028 + 0x400 * c, 0, 32⟩
def BUS_CH_TXREQ_BUFS (c : Nat) : Fld := ⟨0x600000030 + 0x400 * c, 0, 32⟩
def BUS_CH_TXCAN_BUFS (c : Nat) : Fld := ⟨0x600000034 + 0x400 * c, 0, 32⟩
def BUS_CH_STARVE_SEEN_BUFS (c : Nat) : Fld := ⟨0x600000038 + 0x400 * c, 0, 32⟩
def BUS_CH_RX_FRAMES_COUNT (c : Nat) : Fld := ⟨0x600000040 + 0x400 * c, 0, 32⟩
def BUS_CH_RX_OVF_A_COUNT (c : Nat) : Fld := ⟨0x600000044 + 0x400 * c, 0, 32⟩
def BUS_CH_RX_OVF_B_COUNT (c : Nat) : Fld := ⟨0x600000048 + 0x400 * c, 0, 32⟩
def BUS_CH_TX_FRAMES_COUNT (c : Nat) : Fld := ⟨0x60000004C + 0x400 * c, 0, 32⟩
def BUS_CH_TX_FMT_COUNT (c : Nat) : Fld := ⟨0x600000050 + 0x400 * c, 0, 32⟩
def BUS_CH_ARB_LOST_COUNT (c : Nat) : Fld := ⟨0x600000054 + 0x400 * c, 0, 32⟩
def BUS_CH_ERR_RX_COUNT (c : Nat) : Fld := ⟨0x600000058 + 0x400 * c, 0, 32⟩
def BUS_CH_ERR_TX_COUNT (c : Nat) : Fld := ⟨0x60000005C + 0x400 * c, 0, 32⟩
def BUS_CH_BUSOFF_COUNT (c : Nat) : Fld := ⟨0x600000060 + 0x400 * c, 0, 32⟩
def BUS_CH_FLT_REJECT_COUNT (c : Nat) : Fld := ⟨0x600000064 + 0x400 * c, 0, 32⟩
def BUS_CH_JTX_DROP_COUNT (c : Nat) : Fld := ⟨0x600000068 + 0x400 * c, 0, 32⟩
def BUS_CH_STARVE_CNT_COUNT (c : Nat) : Fld := ⟨0x60000006C + 0x400 * c, 0, 32⟩
def BUS_CH_TXSTAT_STATE (c : Nat) (b : Nat) : Fld := ⟨0x600000100 + 0x400 * c + 0x8 * b, 0, 3⟩
def BUS_CH_TXSTAT_STARVED (c : Nat) (b : Nat) : Fld := ⟨0x600000100 + 0x400 * c + 0x8 * b, 3, 1⟩
def BUS_CH_TXSTAT_ATTEMPTS (c : Nat) (b : Nat) : Fld := ⟨0x600000100 + 0x400 * c + 0x8 * b, 16, 16⟩
def BUS_CH_TXAGE_AGE_US (c : Nat) (b : Nat) : Fld := ⟨0x600000104 + 0x400 * c + 0x8 * b, 0, 32⟩
def ARC_ERR_PROG_BUSY : Fld := ⟨0x700000000, 0, 1⟩
def ARC_ERR_RESUME_REFUSED : Fld := ⟨0x700000000, 1, 1⟩
def ARC_ERR_UFLOW : Fld := ⟨0x700000000, 2, 1⟩
def ARC_ERR_OFLOW : Fld := ⟨0x700000000, 3, 1⟩
def ARC_ERR_PUSH_REFUSED : Fld := ⟨0x700000000, 4, 1⟩
def ARC_ERR_ENGINE : Fld := ⟨0x700000000, 16, 6⟩
def ARC_A_RESTART_ENG (n : Nat) : Fld := ⟨0x700000010 + 0x4 * n, 0, 8⟩
def ARC_E_CLK_DIV (e : Nat) : Fld := ⟨0x700001000 + 0x80 * e, 0, 24⟩
def ARC_E_CFG_ENTRY (e : Nat) : Fld := ⟨0x700001004 + 0x80 * e, 0, 6⟩
def ARC_E_CFG_LOOP_START (e : Nat) : Fld := ⟨0x700001004 + 0x80 * e, 6, 6⟩
def ARC_E_CFG_LOOP_END (e : Nat) : Fld := ⟨0x700001004 + 0x80 * e, 12, 6⟩
def ARC_E_CFG_SEND_HIGH (e : Nat) : Fld := ⟨0x700001004 + 0x80 * e, 18, 1⟩
def ARC_E_CFG_TAKE_LOW (e : Nat) : Fld := ⟨0x700001004 + 0x80 * e, 19, 1⟩
def ARC_E_CFG_AUTO_REFILL (e : Nat) : Fld := ⟨0x700001004 + 0x80 * e, 20, 1⟩
def ARC_E_CFG_AUTO_DELIVER (e : Nat) : Fld := ⟨0x700001004 + 0x80 * e, 21, 1⟩
def ARC_E_CFG_QSPLIT (e : Nat) : Fld := ⟨0x700001004 + 0x80 * e, 22, 2⟩
def ARC_E_CFG_RX_JCT (e : Nat) : Fld := ⟨0x700001004 + 0x80 * e, 24, 1⟩
def ARC_E_CFG_RX_WORDS (e : Nat) : Fld := ⟨0x700001004 + 0x80 * e, 25, 3⟩
def ARC_E_CFG_START (e : Nat) : Fld := ⟨0x700001004 + 0x80 * e, 28, 2⟩
def ARC_E_SHIFT_LOAD_BITS (e : Nat) : Fld := ⟨0x700001008 + 0x80 * e, 0, 5⟩
def ARC_E_SHIFT_DELIVER_BITS (e : Nat) : Fld := ⟨0x700001008 + 0x80 * e, 5, 5⟩
def ARC_E_SHIFT_TRIG (e : Nat) : Fld := ⟨0x700001008 + 0x80 * e, 10, 6⟩
def ARC_E_PINMAP_GIO (e : Nat) (w : Nat) : Fld := ⟨0x70000100C + 0x80 * e + 0x4 * w, 0, 32⟩
def ARC_E_IDLE_VAL (e : Nat) : Fld := ⟨0x700001014 + 0x80 * e, 0, 8⟩
def ARC_E_IDLE_DRIVE (e : Nat) : Fld := ⟨0x700001014 + 0x80 * e, 8, 8⟩
def ARC_E_XA_VALUE (e : Nat) : Fld := ⟨0x700001018 + 0x80 * e, 0, 32⟩
def ARC_E_XB_VALUE (e : Nat) : Fld := ⟨0x70000101C + 0x80 * e, 0, 32⟩
def ARC_E_YA_VALUE (e : Nat) : Fld := ⟨0x700001020 + 0x80 * e, 0, 32⟩
def ARC_E_YB_VALUE (e : Nat) : Fld := ⟨0x700001024 + 0x80 * e, 0, 32⟩
def ARC_E_LUT_TABLE (e : Nat) (k : Nat) : Fld := ⟨0x700001028 + 0x80 * e + 0x4 * k, 0, 16⟩
def ARC_E_LUT_IN0 (e : Nat) (k : Nat) : Fld := ⟨0x700001028 + 0x80 * e + 0x4 * k, 16, 4⟩
def ARC_E_LUT_IN1 (e : Nat) (k : Nat) : Fld := ⟨0x700001028 + 0x80 * e + 0x4 * k, 20, 4⟩
def ARC_E_LUT_IN2 (e : Nat) (k : Nat) : Fld := ⟨0x700001028 + 0x80 * e + 0x4 * k, 24, 4⟩
def ARC_E_LUT_IN3 (e : Nat) (k : Nat) : Fld := ⟨0x700001028 + 0x80 * e + 0x4 * k, 28, 4⟩
def ARC_E_CTL_EN (e : Nat) : Fld := ⟨0x700001038 + 0x80 * e, 0, 1⟩
def ARC_E_CTL_HALT (e : Nat) : Fld := ⟨0x700001038 + 0x80 * e, 1, 1⟩
def ARC_E_CTL_RESUME (e : Nat) : Fld := ⟨0x700001038 + 0x80 * e, 2, 1⟩
def ARC_E_CTL_RESTART (e : Nat) : Fld := ⟨0x700001038 + 0x80 * e, 3, 1⟩
def ARC_E_CTL_FLUSH_TX (e : Nat) : Fld := ⟨0x700001038 + 0x80 * e, 4, 1⟩
def ARC_E_CTL_FLUSH_RX (e : Nat) : Fld := ⟨0x700001038 + 0x80 * e, 5, 1⟩
def ARC_E_STAT_STATE (e : Nat) : Fld := ⟨0x70000103C + 0x80 * e, 0, 3⟩
def ARC_E_STAT_ROW (e : Nat) : Fld := ⟨0x70000103C + 0x80 * e, 3, 6⟩
def ARC_E_STAT_DIRTY (e : Nat) : Fld := ⟨0x70000103C + 0x80 * e, 9, 1⟩
def ARC_E_STAT_LOOP_PEND (e : Nat) : Fld := ⟨0x70000103C + 0x80 * e, 10, 1⟩
def ARC_E_STAT_TX_LEVEL (e : Nat) : Fld := ⟨0x70000103C + 0x80 * e, 11, 5⟩
def ARC_E_STAT_RX_LEVEL (e : Nat) : Fld := ⟨0x70000103C + 0x80 * e, 16, 5⟩
def ARC_E_STAT_DSR_LEFT (e : Nat) : Fld := ⟨0x70000103C + 0x80 * e, 21, 6⟩
def ARC_E_SREG_GTR_HAVE (e : Nat) : Fld := ⟨0x700001040 + 0x80 * e, 0, 6⟩
def ARC_E_SREG_SBIT (e : Nat) : Fld := ⟨0x700001040 + 0x80 * e, 6, 1⟩
def ARC_E_SREG_OUT (e : Nat) : Fld := ⟨0x700001040 + 0x80 * e, 8, 8⟩
def ARC_E_SREG_DRIVEN (e : Nat) : Fld := ⟨0x700001040 + 0x80 * e, 16, 8⟩
def ARC_E_X_VALUE (e : Nat) : Fld := ⟨0x700001044 + 0x80 * e, 0, 32⟩
def ARC_E_Y_VALUE (e : Nat) : Fld := ⟨0x700001048 + 0x80 * e, 0, 32⟩
def ARC_E_DSR_VALUE (e : Nat) : Fld := ⟨0x70000104C + 0x80 * e, 0, 32⟩
def ARC_E_GTR_VALUE (e : Nat) : Fld := ⟨0x700001050 + 0x80 * e, 0, 32⟩
def ARC_E_STALL_COUNT (e : Nat) : Fld := ⟨0x700001054 + 0x80 * e, 0, 32⟩
def ARC_E_TX_WORDS_COUNT (e : Nat) : Fld := ⟨0x700001058 + 0x80 * e, 0, 32⟩
def ARC_E_RX_WORDS_COUNT (e : Nat) : Fld := ⟨0x70000105C + 0x80 * e, 0, 32⟩
def ARC_E_SHADOW_DROP_COUNT (e : Nat) : Fld := ⟨0x700001060 + 0x80 * e, 0, 32⟩
def PIN_BANK_STAT_PRESENT (b : Nat) : Fld := ⟨0xE00000000 + 0x4 * b, 0, 1⟩
def PIN_BANK_STAT_V33 (b : Nat) : Fld := ⟨0xE00000000 + 0x4 * b, 1, 1⟩
def PIN_GIO_CFG_MODE (g : Nat) : Fld := ⟨0xE00000100 + 0x4 * g, 0, 2⟩
def PIN_GIO_CFG_INV (g : Nat) : Fld := ⟨0xE00000100 + 0x4 * g, 2, 1⟩
def PIN_GIO_CFG_PULL_EN (g : Nat) : Fld := ⟨0xE00000100 + 0x4 * g, 3, 1⟩
def PIN_GIO_CFG_PULL_UP (g : Nat) : Fld := ⟨0xE00000100 + 0x4 * g, 4, 1⟩
def PIN_GIO_CFG_OWNER (g : Nat) : Fld := ⟨0xE00000100 + 0x4 * g, 5, 1⟩
def PIN_GIO_CFG_ENGINE (g : Nat) : Fld := ⟨0xE00000100 + 0x4 * g, 6, 6⟩
def PIN_OUT_PINS (w : Nat) : Fld := ⟨0xE00000400 + 0x4 * w, 0, 32⟩
def PIN_SET_PINS (w : Nat) : Fld := ⟨0xE00000420 + 0x4 * w, 0, 32⟩
def PIN_CLR_PINS (w : Nat) : Fld := ⟨0xE00000440 + 0x4 * w, 0, 32⟩
def PIN_TGL_PINS (w : Nat) : Fld := ⟨0xE00000460 + 0x4 * w, 0, 32⟩
def PIN_IN_PINS (w : Nat) : Fld := ⟨0xE00000480 + 0x4 * w, 0, 32⟩
def TIM_TB_NS_TIME (n : Nat) : Fld := ⟨0x800000000 + 0x40 * n, 0, 32⟩
def TIM_TB_SEC_LO_TIME (n : Nat) : Fld := ⟨0x800000004 + 0x40 * n, 0, 32⟩
def TIM_TB_SEC_HI_TIME (n : Nat) : Fld := ⟨0x800000008 + 0x40 * n, 0, 32⟩
def TIM_TB_RATE_RATE (n : Nat) : Fld := ⟨0x80000000C + 0x40 * n, 0, 32⟩
def TIM_TB_STEP_NS_OFFSET (n : Nat) : Fld := ⟨0x800000010 + 0x40 * n, 0, 32⟩
def TIM_TB_STEP_SEC_LO_OFFSET (n : Nat) : Fld := ⟨0x800000014 + 0x40 * n, 0, 32⟩
def TIM_TB_STEP_SEC_HI_OFFSET (n : Nat) : Fld := ⟨0x800000018 + 0x40 * n, 0, 32⟩
def TIM_TB_CTL_STEP (n : Nat) : Fld := ⟨0x80000001C + 0x40 * n, 0, 1⟩
def TIM_TB_CTL_ARM (n : Nat) : Fld := ⟨0x80000001C + 0x40 * n, 1, 1⟩
def TIM_TB_STAT_STATE (n : Nat) : Fld := ⟨0x800000020 + 0x40 * n, 0, 3⟩
def TIM_TB_STAT_STEPPED (n : Nat) : Fld := ⟨0x800000020 + 0x40 * n, 3, 1⟩
def TIM_TB_STAT_STEP_REFUSED (n : Nat) : Fld := ⟨0x800000020 + 0x40 * n, 4, 1⟩
def TIM_TB_STAT_VALID (n : Nat) : Fld := ⟨0x800000020 + 0x40 * n, 5, 1⟩
def TIM_TB_STAT_SERVO_OWNED (n : Nat) : Fld := ⟨0x800000020 + 0x40 * n, 6, 1⟩
def TIM_TB0_CFG_PRIO : Fld := ⟨0x800000100, 0, 8⟩
def TIM_TB0_CFG_SERVO : Fld := ⟨0x800000100, 8, 1⟩
def TIM_TB0_CFG_OFFSET_MAX : Fld := ⟨0x800000100, 16, 16⟩
def TIM_TB1_CFG_SRC : Fld := ⟨0x800000104, 0, 1⟩
def TIM_TB1_CFG_PRIO : Fld := ⟨0x800000104, 1, 8⟩
def TIM_TB1_CFG_REF_OK : Fld := ⟨0x800000104, 9, 1⟩
def TIM_CYCLE_CFG_LEN : Fld := ⟨0x800000108, 0, 3⟩
def TIM_TB0_SYNC_MASTER : Fld := ⟨0x80000010C, 0, 8⟩
def TIM_TB0_SYNC_MASTER_SIDE : Fld := ⟨0x80000010C, 8, 1⟩
def TIM_TB0_SYNC_UPSTREAM : Fld := ⟨0x80000010C, 9, 1⟩
def TIM_TB0_SYNC_HOPS : Fld := ⟨0x80000010C, 16, 8⟩
def TIM_TB0_OFFSET_O : Fld := ⟨0x800000110, 0, 32⟩
def TIM_PORT_DELAY_VALUE (n : Nat) : Fld := ⟨0x800000120 + 0x8 * n, 0, 32⟩
def TIM_PORT_ASYM_VALUE (n : Nat) : Fld := ⟨0x800000124 + 0x8 * n, 0, 32⟩
def TIM_PTP_EN_PORTS (w : Nat) : Fld := ⟨0x800000140 + 0x4 * w, 0, 32⟩
def TIM_PTP_TS2_PORTS (w : Nat) : Fld := ⟨0x800000150 + 0x4 * w, 0, 32⟩
def TIM_NOTE_CFG_QUEUE : Fld := ⟨0x800000160, 0, 8⟩
def TIM_NOTE_CFG_PRIO : Fld := ⟨0x800000160, 8, 3⟩
def TIM_TRG_CFG_BASE (k : Nat) : Fld := ⟨0x800001000 + 0x20 * k, 0, 2⟩
def TIM_TRG_CFG_MODE (k : Nat) : Fld := ⟨0x800001000 + 0x20 * k, 2, 2⟩
def TIM_TRG_CFG_OUT (k : Nat) : Fld := ⟨0x800001000 + 0x20 * k, 4, 3⟩
def TIM_TRG_CFG_GIO (k : Nat) : Fld := ⟨0x800001000 + 0x20 * k, 7, 8⟩
def TIM_TRG_CFG_EN (k : Nat) : Fld := ⟨0x800001000 + 0x20 * k, 15, 1⟩
def TIM_TRG_CMP_NS_CMP (k : Nat) : Fld := ⟨0x800001004 + 0x20 * k, 0, 32⟩
def TIM_TRG_CMP_SEC_LO_CMP (k : Nat) : Fld := ⟨0x800001008 + 0x20 * k, 0, 32⟩
def TIM_TRG_CMP_SEC_HI_CMP (k : Nat) : Fld := ⟨0x80000100C + 0x20 * k, 0, 32⟩
def TIM_TRG_PER_NS_PER (k : Nat) : Fld := ⟨0x800001010 + 0x20 * k, 0, 32⟩
def TIM_TRG_PER_SUB_PER (k : Nat) : Fld := ⟨0x800001014 + 0x20 * k, 0, 32⟩
def TIM_TRG_STAT_ARMED (k : Nat) : Fld := ⟨0x800001018 + 0x20 * k, 0, 1⟩
def TIM_TRG_STAT_LATE (k : Nat) : Fld := ⟨0x800001018 + 0x20 * k, 1, 1⟩
def TIM_TRG_STAT_FIRED (k : Nat) : Fld := ⟨0x800001018 + 0x20 * k, 16, 16⟩
def TIM_TRG_MISSED_COUNT (k : Nat) : Fld := ⟨0x80000101C + 0x20 * k, 0, 32⟩
def TIM_CAP_CFG_BASE (k : Nat) : Fld := ⟨0x800002000 + 0x80 * k, 0, 2⟩
def TIM_CAP_CFG_EN (k : Nat) : Fld := ⟨0x800002000 + 0x80 * k, 2, 1⟩
def TIM_CAP_CFG_EDGE (k : Nat) : Fld := ⟨0x800002000 + 0x80 * k, 3, 2⟩
def TIM_CAP_CFG_SRC (k : Nat) : Fld := ⟨0x800002000 + 0x80 * k, 5, 1⟩
def TIM_CAP_CFG_INDEX (k : Nat) : Fld := ⟨0x800002000 + 0x80 * k, 6, 8⟩
def TIM_CAP_CFG_NOTE (k : Nat) : Fld := ⟨0x800002000 + 0x80 * k, 14, 1⟩
def TIM_CAP_CFG_WIN_EN (k : Nat) : Fld := ⟨0x800002000 + 0x80 * k, 15, 1⟩
def TIM_CAP_OPEN_TIME (k : Nat) (w : Nat) : Fld := ⟨0x800002004 + 0x80 * k + 0x4 * w, 0, 32⟩
def TIM_CAP_CLOSE_TIME (k : Nat) (w : Nat) : Fld := ⟨0x800002010 + 0x80 * k + 0x4 * w, 0, 32⟩
def TIM_CAP_STAT_WR (k : Nat) : Fld := ⟨0x80000201C + 0x80 * k, 0, 2⟩
def TIM_CAP_STAT_SEQ (k : Nat) : Fld := ⟨0x80000201C + 0x80 * k, 16, 16⟩
def TIM_CAP_OUTWIN_COUNT (k : Nat) : Fld := ⟨0x800002020 + 0x80 * k, 0, 32⟩
def TIM_CAP_SLOT_TIME (k : Nat) (s : Nat) (w : Nat) : Fld := ⟨0x800002040 + 0x80 * k + 0x10 * s + 0x4 * w, 0, 32⟩
def TIM_CAP_SLOT_TAG_RISE (k : Nat) (s : Nat) : Fld := ⟨0x80000204C + 0x80 * k + 0x10 * s, 0, 1⟩
def TIM_CAP_SLOT_TAG_SEQ (k : Nat) (s : Nat) : Fld := ⟨0x80000204C + 0x80 * k + 0x10 * s, 16, 16⟩
def CIP_CFG_DUMMY : Fld := ⟨0x900000000, 0, 2⟩
def CIP_CFG_SHUFFLE_OFF : Fld := ⟨0x900000000, 2, 1⟩
def CIP_CTL_CACHE_FLUSH : Fld := ⟨0x900000004, 0, 1⟩
def CIP_CTL_LGEN_NEXT : Fld := ⟨0x900000004, 1, 1⟩
def CIP_STAT_RING_OK : Fld := ⟨0x900000008, 0, 1⟩
def CIP_STAT_KEYREG_LIVE : Fld := ⟨0x900000008, 1, 1⟩
def CIP_STAT_HOLD_FREE : Fld := ⟨0x900000008, 2, 3⟩
def CIP_STAT_CACHE : Fld := ⟨0x900000008, 5, 9⟩
def CIP_DONE_DONE : Fld := ⟨0x90000000C, 0, 16⟩
def CIP_RING_GEN_GEN : Fld := ⟨0x900000010, 0, 32⟩
def CIP_LGEN_LGEN : Fld := ⟨0x900000014, 0, 28⟩
def CIP_TAG_FAIL_COUNT : Fld := ⟨0x900000040, 0, 32⟩
def CIP_PAD_ERR_COUNT : Fld := ⟨0x900000044, 0, 32⟩
def CIP_DERIVE_COUNT : Fld := ⟨0x900000048, 0, 32⟩
def CIP_NONCE_STALL_COUNT : Fld := ⟨0x90000004C, 0, 32⟩
def CIP_NONCE_REC_COUNT : Fld := ⟨0x900000050, 0, 32⟩
def CIP_RING_WAIT_COUNT : Fld := ⟨0x900000054, 0, 32⟩
def CIP_NCTR_LO_VALUE (s : Nat) : Fld := ⟨0x900000100 + 0x10 * s, 0, 32⟩
def CIP_NCTR_HI_VALUE (s : Nat) : Fld := ⟨0x900000104 + 0x10 * s, 0, 32⟩
def CIP_NLIM_LO_VALUE (s : Nat) : Fld := ⟨0x900000108 + 0x10 * s, 0, 32⟩
def CIP_NLIM_HI_VALUE (s : Nat) : Fld := ⟨0x90000010C + 0x10 * s, 0, 32⟩
def CIP_KEYREG_KEY (k : Nat) (w : Nat) : Fld := ⟨0x900000400 + 0x20 * k + 0x4 * w, 0, 32⟩
def CIP_D_CTL_OP (d : Nat) : Fld := ⟨0x900001000 + 0x40 * d, 0, 4⟩
def CIP_D_CTL_KSIZE (d : Nat) : Fld := ⟨0x900001000 + 0x40 * d, 4, 2⟩
def CIP_D_CTL_KSRC (d : Nat) : Fld := ⟨0x900001000 + 0x40 * d, 6, 3⟩
def CIP_D_CTL_KREG (d : Nat) : Fld := ⟨0x900001000 + 0x40 * d, 9, 3⟩
def CIP_D_CTL_PAD (d : Nat) : Fld := ⟨0x900001000 + 0x40 * d, 12, 2⟩
def CIP_D_CTL_NCTX (d : Nat) : Fld := ⟨0x900001000 + 0x40 * d, 14, 4⟩
def CIP_D_CTL_TAGLEN (d : Nat) : Fld := ⟨0x900001000 + 0x40 * d, 18, 5⟩
def CIP_D_CTL_SRC_KIND (d : Nat) : Fld := ⟨0x900001000 + 0x40 * d, 23, 2⟩
def CIP_D_CTL_DST_KIND (d : Nat) : Fld := ⟨0x900001000 + 0x40 * d, 25, 2⟩
def CIP_D_CTL_IV_RAND (d : Nat) : Fld := ⟨0x900001000 + 0x40 * d, 27, 1⟩
def CIP_D_CTL_GO (d : Nat) : Fld := ⟨0x900001000 + 0x40 * d, 31, 1⟩
def CIP_D_SRC_SRC (d : Nat) : Fld := ⟨0x900001004 + 0x40 * d, 0, 32⟩
def CIP_D_DST_DST (d : Nat) : Fld := ⟨0x900001008 + 0x40 * d, 0, 32⟩
def CIP_D_LEN_LEN (d : Nat) : Fld := ⟨0x90000100C + 0x40 * d, 0, 22⟩
def CIP_D_LEN_SKIP (d : Nat) : Fld := ⟨0x90000100C + 0x40 * d, 22, 5⟩
def CIP_D_AAD_AAD (d : Nat) : Fld := ⟨0x900001010 + 0x40 * d, 0, 32⟩
def CIP_D_AADLEN_AADLEN (d : Nat) : Fld := ⟨0x900001014 + 0x40 * d, 0, 11⟩
def CIP_D_LABEL_LABEL (d : Nat) : Fld := ⟨0x900001018 + 0x40 * d, 0, 32⟩
def CIP_D_CTX_CTX (d : Nat) (w : Nat) : Fld := ⟨0x90000101C + 0x40 * d + 0x4 * w, 0, 32⟩
def CIP_D_IV_IV (d : Nat) (w : Nat) : Fld := ⟨0x90000102C + 0x40 * d + 0x4 * w, 0, 32⟩
def CIP_D_STAT_STATE (d : Nat) : Fld := ⟨0x90000103C + 0x40 * d, 0, 3⟩
def CIP_D_STAT_RESULT (d : Nat) : Fld := ⟨0x90000103C + 0x40 * d, 4, 4⟩
def CIP_D_STAT_DONE64 (d : Nat) : Fld := ⟨0x90000103C + 0x40 * d, 8, 6⟩
def CIP_D_STAT_PADBYTES (d : Nat) : Fld := ⟨0x90000103C + 0x40 * d, 14, 5⟩
def TWN_CFG_PAIR : Fld := ⟨0xA00000000, 0, 1⟩
def TWN_CFG_COLD_EN : Fld := ⟨0xA00000000, 1, 1⟩
def TWN_CFG_HB_CYCLES : Fld := ⟨0xA00000000, 8, 8⟩
def TWN_CFG_SOLO_WAIT_MS : Fld := ⟨0xA00000000, 16, 16⟩
def TWN_ESSENTIAL_UNITS : Fld := ⟨0xA00000004, 0, 17⟩
def TWN_ESSENTIAL_RING_ISOLATED : Fld := ⟨0xA00000004, 17, 1⟩
def TWN_ESSENTIAL_PFAIL : Fld := ⟨0xA00000004, 18, 1⟩
def TWN_CTL_HANDOVER : Fld := ⟨0xA00000008, 0, 1⟩
def TWN_CTL_RESYNC : Fld := ⟨0xA00000008, 1, 1⟩
def TWN_CTL_HB : Fld := ⟨0xA00000008, 2, 1⟩
def TWN_STAT_ROLE : Fld := ⟨0xA0000000C, 0, 2⟩
def TWN_STAT_PEER_ROLE : Fld := ⟨0xA0000000C, 2, 2⟩
def TWN_STAT_LINK_UP : Fld := ⟨0xA0000000C, 4, 1⟩
def TWN_STAT_CLAIM : Fld := ⟨0xA0000000C, 5, 1⟩
def TWN_STAT_PEER : Fld := ⟨0xA0000000C, 6, 1⟩
def TWN_STAT_OE : Fld := ⟨0xA0000000C, 7, 1⟩
def TWN_STAT_RESYNC_BUSY : Fld := ⟨0xA0000000C, 8, 1⟩
def TWN_STAT_SW_INHIBIT : Fld := ⟨0xA0000000C, 9, 1⟩
def TWN_STAT_REFUSE_REASON : Fld := ⟨0xA0000000C, 10, 3⟩
def TWN_STAT_REFUSED : Fld := ⟨0xA0000000C, 13, 1⟩
def TWN_STAT_SCHEMA : Fld := ⟨0xA0000000C, 16, 8⟩
def TWN_STAT_PEER_SCHEMA : Fld := ⟨0xA0000000C, 24, 8⟩
def TWN_CYCLE_SENT : Fld := ⟨0xA00000010, 0, 16⟩
def TWN_CYCLE_ACKED : Fld := ⟨0xA00000010, 16, 16⟩
def TWN_DELTA_BYTES_BYTES : Fld := ⟨0xA00000014, 0, 18⟩
def TWN_DELTA_PEAK_BYTES : Fld := ⟨0xA00000018, 0, 18⟩
def TWN_LAST_SWITCH_REASON : Fld := ⟨0xA0000001C, 0, 3⟩
def TWN_LAST_SWITCH_CYCLE : Fld := ⟨0xA0000001C, 16, 16⟩
def TWN_SWITCHOVERS_COUNT : Fld := ⟨0xA00000100, 0, 32⟩
def TWN_OVER_BUDGET_COUNT : Fld := ⟨0xA00000104, 0, 32⟩
def TWN_RESYNCS_COUNT : Fld := ⟨0xA00000108, 0, 32⟩
def TWN_DELTA_LOST_COUNT : Fld := ⟨0xA0000010C, 0, 32⟩
def TWN_DEPART_MISS_COUNT : Fld := ⟨0xA00000110, 0, 32⟩
def TWN_CLAIM_YIELD_COUNT : Fld := ⟨0xA00000114, 0, 32⟩
def TWN_HANDOVER_WAIT_COUNT : Fld := ⟨0xA00000118, 0, 32⟩
def TWN_PEER_PIN_FAULT_COUNT : Fld := ⟨0xA0000011C, 0, 32⟩
def PWR_CFG_STAGGER_MS : Fld := ⟨0xB00000000, 0, 10⟩
def PWR_CFG_PFW_LEAD_MS : Fld := ⟨0xB00000000, 10, 8⟩
def PWR_VIN_CFG_UV_WARN : Fld := ⟨0xB00000004, 0, 10⟩
def PWR_VIN_CFG_UV_OFF : Fld := ⟨0xB00000004, 10, 10⟩
def PWR_VIN_CFG_OV : Fld := ⟨0xB00000004, 20, 10⟩
def PWR_VIN_FS_VIN_FS : Fld := ⟨0xB00000008, 0, 16⟩
def PWR_BUDGET_BUDGET_W : Fld := ⟨0xB0000000C, 0, 16⟩
def PWR_BUDGET_HYST_W : Fld := ⟨0xB0000000C, 16, 16⟩
def PWR_SYNC_CFG_SYNC_EN : Fld := ⟨0xB00000010, 0, 1⟩
def PWR_SYNC_CFG_TRIG : Fld := ⟨0xB00000010, 1, 6⟩
def PWR_EVT_CFG_QUEUE : Fld := ⟨0xB00000014, 0, 8⟩
def PWR_EVT_CFG_PRIO : Fld := ⟨0xB00000014, 8, 3⟩
def PWR_EVT_CFG_EN : Fld := ⟨0xB00000014, 11, 1⟩
def PWR_STAT_VIN_STATE : Fld := ⟨0xB00000020, 0, 2⟩
def PWR_STAT_NVM_INHIBIT : Fld := ⟨0xB00000020, 2, 1⟩
def PWR_STAT_PFAIL : Fld := ⟨0xB00000020, 3, 1⟩
def PWR_STAT_SELF_SEATED : Fld := ⟨0xB00000020, 4, 1⟩
def PWR_STAT_SHED_PENDING : Fld := ⟨0xB00000020, 5, 1⟩
def PWR_STAT_SYNC_LATE : Fld := ⟨0xB00000020, 6, 1⟩
def PWR_VIN_VALUE : Fld := ⟨0xB00000024, 0, 32⟩
def PWR_PSUM_VALUE : Fld := ⟨0xB00000028, 0, 32⟩
def PWR_SNAP_TIME_TIME (w : Nat) : Fld := ⟨0xB00000040 + 0x4 * w, 0, 32⟩
def PWR_SNAP_CODE (n : Nat) : Fld := ⟨0xB00000050 + 0x4 * n, 0, 16⟩
def PWR_SLOT_CFG_EN (s : Nat) : Fld := ⟨0xB00000100 + 0x40 * s, 0, 1⟩
def PWR_SLOT_CFG_AUTO_ON (s : Nat) : Fld := ⟨0xB00000100 + 0x40 * s, 1, 1⟩
def PWR_SLOT_CFG_PRIO (s : Nat) : Fld := ⟨0xB00000100 + 0x40 * s, 2, 3⟩
def PWR_SLOT_CFG_I_CB (s : Nat) : Fld := ⟨0xB00000100 + 0x40 * s, 5, 8⟩
def PWR_SLOT_CFG_T_FLT (s : Nat) : Fld := ⟨0xB00000100 + 0x40 * s, 13, 8⟩
def PWR_SLOT_CFG_RETRY_MAX (s : Nat) : Fld := ⟨0xB00000100 + 0x40 * s, 21, 8⟩
def PWR_SLOT_TIME_PRECHARGE_MS (s : Nat) : Fld := ⟨0xB00000104 + 0x40 * s, 0, 11⟩
def PWR_SLOT_TIME_RAMP_MS (s : Nat) : Fld := ⟨0xB00000104 + 0x40 * s, 11, 7⟩
def PWR_SLOT_SCALE_ISNS_FS (s : Nat) : Fld := ⟨0xB00000108 + 0x40 * s, 0, 16⟩
def PWR_SLOT_SCALE_VSNS_FS (s : Nat) : Fld := ⟨0xB00000108 + 0x40 * s, 16, 16⟩
def PWR_SLOT_CTL_ON (s : Nat) : Fld := ⟨0xB0000010C + 0x40 * s, 0, 1⟩
def PWR_SLOT_CTL_OFF (s : Nat) : Fld := ⟨0xB0000010C + 0x40 * s, 1, 1⟩
def PWR_SLOT_STAT_STATE (s : Nat) : Fld := ⟨0xB00000110 + 0x40 * s, 0, 4⟩
def PWR_SLOT_STAT_REASON (s : Nat) : Fld := ⟨0xB00000110 + 0x40 * s, 4, 4⟩
def PWR_SLOT_STAT_RETRIES (s : Nat) : Fld := ⟨0xB00000110 + 0x40 * s, 8, 8⟩
def PWR_SLOT_STAT_PG (s : Nat) : Fld := ⟨0xB00000110 + 0x40 * s, 16, 1⟩
def PWR_SLOT_STAT_PFW (s : Nat) : Fld := ⟨0xB00000110 + 0x40 * s, 17, 1⟩
def PWR_SLOT_STAT_SEATED (s : Nat) : Fld := ⟨0xB00000110 + 0x40 * s, 18, 1⟩
def PWR_SLOT_STAT_GEN (s : Nat) : Fld := ⟨0xB00000110 + 0x40 * s, 19, 1⟩
def PWR_SLOT_STAT_PCH (s : Nat) : Fld := ⟨0xB00000110 + 0x40 * s, 20, 1⟩
def PWR_SLOT_V_VALUE (s : Nat) : Fld := ⟨0xB00000114 + 0x40 * s, 0, 32⟩
def PWR_SLOT_I_VALUE (s : Nat) : Fld := ⟨0xB00000118 + 0x40 * s, 0, 32⟩
def PWR_SLOT_P_VALUE (s : Nat) : Fld := ⟨0xB0000011C + 0x40 * s, 0, 32⟩
def PWR_SLOT_WAIT_VALUE (s : Nat) : Fld := ⟨0xB00000128 + 0x40 * s, 0, 32⟩
def PWR_SLOT_E_LO_COUNT (s : Nat) : Fld := ⟨0xB00000120 + 0x40 * s, 0, 32⟩
def PWR_SLOT_E_HI_COUNT (s : Nat) : Fld := ⟨0xB00000124 + 0x40 * s, 0, 32⟩
def PWR_SLOT_TRIPS_COUNT (s : Nat) : Fld := ⟨0xB0000012C + 0x40 * s, 0, 32⟩
def PWR_SLOT_SHEDS_COUNT (s : Nat) : Fld := ⟨0xB00000130 + 0x40 * s, 0, 32⟩
def FLT_CFG_ERR_CLASS : Fld := ⟨0xC00000000, 0, 2⟩
def FLT_CFG_AUTO_HOLD : Fld := ⟨0xC00000000, 2, 1⟩
def FLT_CFG_QUEUE : Fld := ⟨0xC00000000, 3, 8⟩
def FLT_CFG_Q_EN : Fld := ⟨0xC00000000, 11, 1⟩
def FLT_CFG_PRIO_CORR : Fld := ⟨0xC00000000, 12, 3⟩
def FLT_CFG_PRIO_CONT : Fld := ⟨0xC00000000, 15, 3⟩
def FLT_CFG_CORR_HOLD_MS : Fld := ⟨0xC00000000, 18, 10⟩
def FLT_CFG_NVM_CONT : Fld := ⟨0xC00000000, 28, 1⟩
def FLT_ERR_HOLD_HOLD : Fld := ⟨0xC00000004, 0, 1⟩
def FLT_ERR_HOLD_STICKY : Fld := ⟨0xC00000004, 1, 1⟩
def FLT_ERR_HOLD_LOW : Fld := ⟨0xC00000004, 2, 1⟩
def FLT_LOG_STAT_WR_IDX : Fld := ⟨0xC00000008, 0, 7⟩
def FLT_LOG_STAT_LF_PENDING : Fld := ⟨0xC00000008, 8, 1⟩
def FLT_TOTAL_COUNT : Fld := ⟨0xC0000000C, 0, 32⟩
def FLT_SUPPRESSED_COUNT : Fld := ⟨0xC00000010, 0, 32⟩
def FLT_CLASS_CNT_COUNT (c : Nat) : Fld := ⟨0xC00000014 + 0x4 * c, 0, 32⟩
def FLT_LAST_FATAL_WORD (w : Nat) : Fld := ⟨0xC00000020 + 0x4 * w, 0, 32⟩
def FLT_UNIT_CFG_REACT (n : Nat) : Fld := ⟨0xC00000100 + 0x4 * n, 0, 2⟩
def FLT_UNIT_CNT_COUNT (n : Nat) : Fld := ⟨0xC00000180 + 0x4 * n, 0, 32⟩
def FLT_INJ_CTL_CODE : Fld := ⟨0xC00000F00, 0, 8⟩
def FLT_INJ_CTL_UNIT : Fld := ⟨0xC00000F00, 8, 5⟩
def FLT_INJ_CTL_ECC_MODE : Fld := ⟨0xC00000F00, 13, 1⟩
def FLT_INJ_CTL_GO : Fld := ⟨0xC00000F00, 31, 1⟩
def FLT_INJ_INFO_INFO (i : Nat) : Fld := ⟨0xC00000F04 + 0x4 * i, 0, 32⟩

end Sys2Proof.Machine.F
end

