-- ==== Sys2Proof/Machine/RegMap.lean ====
section
/-! DEFINITION. The register map of every unit: one `RegDef` per register of the spec's register tables, with its
offset, its index strides and its fields by bit position, access type, reset value and commit point. -/

namespace Sys2Proof.Machine

/-- Registers of the SYS unit (R67, R83). -/
def regsSYSa : List RegDef := [
  ⟨"SYS_TXN_CFG", 0x400, [], .always,
   [⟨"TIMEOUT_US", 0, 17, .rw, 0x7D0, .cb⟩]⟩,
  ⟨"SYS_TXN_LIMIT", 0x404, [], .always,
   [⟨"LIM_MGT", 0, 8, .rw, 0x0, .cb⟩, ⟨"LIM_SVC", 8, 8, .rw, 0x40, .cb⟩, ⟨"LIM_JCT", 16, 8, .rw, 0x40, .cb⟩, ⟨"LIM_POL", 24, 8, .rw, 0x40, .cb⟩]⟩,
  ⟨"SYS_TXN_STAT", 0x408, [], .always,
   [⟨"OUTSTANDING", 0, 9, .ro, 0x0, .im⟩, ⟨"REQ_BUF", 16, 8, .ro, 0x0, .im⟩, ⟨"REFUSE_FREE", 24, 6, .ro, 0x20, .im⟩]⟩,
  ⟨"SYS_TXN_LATE", 0x40C, [], .always,
   [⟨"COUNT", 0, 32, .cnt, 0x0, .im⟩]⟩,
  ⟨"SYS_TXN_REFUSED", 0x410, [], .always,
   [⟨"COUNT", 0, 32, .cnt, 0x0, .im⟩]⟩,
  ⟨"SYS_TXN_LOSS", 0x414, [], .always,
   [⟨"COUNT", 0, 32, .cnt, 0x0, .im⟩]⟩,
  ⟨"SYS_PFL_STAT", 0x420, [], .always,
   [⟨"WR_IDX", 0, 6, .ro, 0x0, .im⟩]⟩,
  ⟨"SYS_PFL_TOTAL", 0x424, [], .always,
   [⟨"TOTAL", 0, 32, .cnt, 0x0, .im⟩]⟩,
  ⟨"SYS_PFL_CFG", 0x428, [], .always,
   [⟨"MQ", 0, 8, .rw, 0x0, .im⟩, ⟨"MQ_EN", 8, 1, .rw, 0x0, .im⟩, ⟨"PRIO", 9, 3, .rw, 0x7, .im⟩]⟩,
  ⟨"SYS_PFL_CNT", 0x430, [(0x4, 4)], .always,
   [⟨"COUNT", 0, 32, .cnt, 0x0, .im⟩]⟩,
  ⟨"SYS_ID", 0x0, [], .always,
   [⟨"FAMILY", 0, 16, .ro, 0x7216, .im⟩, ⟨"VARIANT", 16, 8, .ro, 0x0, .im⟩, ⟨"STEPPING", 24, 8, .ro, 0x0, .im⟩]⟩,
  ⟨"SYS_CAP", 0x4, [], .always,
   [⟨"CIP", 0, 1, .ro, 0x0, .im⟩, ⟨"TWN", 1, 1, .ro, 0x0, .im⟩, ⟨"ACC_LANES", 2, 5, .ro, 0x0, .im⟩, ⟨"BUS_CH", 7, 5, .ro, 0x0, .im⟩, ⟨"BUS_PRIV", 12, 2, .ro, 0x0, .im⟩, ⟨"ARCADES", 14, 4, .ro, 0x0, .im⟩, ⟨"SLOTS", 18, 4, .ro, 0x0, .im⟩, ⟨"PLZ_HALF", 22, 1, .ro, 0x0, .im⟩]⟩,
  ⟨"SYS_UID_LO", 0x8, [], .always,
   [⟨"UID", 0, 32, .ro, 0x0, .im⟩]⟩,
  ⟨"SYS_UID_HI", 0xC, [], .always,
   [⟨"UID", 0, 32, .ro, 0x0, .im⟩]⟩,
  ⟨"SYS_NODE", 0x10, [], .always,
   [⟨"NODE_ID", 0, 8, .ro, 0x0, .im⟩, ⟨"SIDE", 8, 1, .ro, 0x0, .im⟩]⟩,
  ⟨"SYS_UNIT_RST", 0x100, [], .always,
   [⟨"RST", 1, 11, .sc, 0x0, .im⟩, ⟨"RSTH", 13, 4, .sc, 0x0, .im⟩]⟩,
  ⟨"SYS_UNIT_FENCE", 0x104, [], .always,
   [⟨"FENCE", 1, 11, .rw, 0x0, .im⟩, ⟨"FENCEH", 13, 4, .rw, 0x0, .im⟩]⟩,
  ⟨"SYS_UNIT_FENCED", 0x108, [], .always,
   [⟨"UNITS", 0, 17, .ro, 0x0, .im⟩]⟩,
  ⟨"SYS_UNIT_FLTFENCE", 0x10C, [], .always,
   [⟨"UNITS", 0, 17, .ro, 0x0, .im⟩]⟩,
  ⟨"SYS_UNIT_INRST", 0x110, [], .always,
   [⟨"UNITS", 0, 17, .ro, 0x0, .im⟩]⟩,
  ⟨"SYS_UNIT_ABSENT", 0x114, [], .always,
   [⟨"UNITS", 0, 17, .ro, 0x0, .im⟩]⟩,
  ⟨"SYS_LOCK", 0x118, [], .always,
   [⟨"LOCK", 0, 17, .w1s, 0x0, .im⟩]⟩,
  ⟨"SYS_COMMIT_CTL", 0x200, [], .always,
   [⟨"HOLD", 0, 1, .rw, 0x0, .im⟩, ⟨"DISCARD", 1, 1, .sc, 0x0, .im⟩]⟩,
  ⟨"SYS_COMMIT_STAT", 0x204, [], .always,
   [⟨"PENDING", 0, 1, .ro, 0x0, .im⟩, ⟨"HELD_CYCLES", 8, 8, .ro, 0x0, .im⟩]⟩]

/-- Registers of the SYS unit (R83). -/
def regsSYSb : List RegDef := [
  ⟨"SYS_EPOCH_CMD", 0x208, [], .always,
   [⟨"FLIP", 0, 6, .sc, 0x0, .cb⟩]⟩,
  ⟨"SYS_EPOCH_STAT", 0x20C, [], .always,
   [⟨"ACTIVE", 0, 6, .ro, 0x0, .im⟩, ⟨"PENDING", 8, 6, .ro, 0x0, .im⟩, ⟨"DRAINING", 16, 6, .ro, 0x0, .im⟩]⟩]

/-- Registers of the PLZ unit (R171). -/
def regsPLZa : List RegDef := [
  ⟨"PLZ_POOL_CFG", 0x120, [], .always,
   [⟨"C7_RES", 0, 12, .rw, 0x400, .cb⟩]⟩,
  ⟨"PLZ_POOL_STAT", 0x124, [], .always,
   [⟨"FREE", 0, 17, .ro, 0x0, .im⟩, ⟨"G_REFUSED", 17, 1, .w1c, 0x0, .im⟩]⟩,
  ⟨"PLZ_POOL_SIZE", 0x128, [], .always,
   [⟨"CELLS", 0, 17, .ro, 0x0, .im⟩]⟩,
  ⟨"PLZ_C7_STAT", 0x12C, [], .always,
   [⟨"CELLS", 0, 17, .ro, 0x0, .im⟩]⟩,
  ⟨"PLZ_CLASS_CFG", 0x140, [(0x4, 8)], .always,
   [⟨"ALPHA", 0, 3, .rw, 0x3, .cb⟩, ⟨"ALPHA_MIN", 3, 3, .rw, 0x0, .cb⟩, ⟨"ALPHA_MAX", 6, 3, .rw, 0x6, .cb⟩, ⟨"ADAPT", 9, 1, .rw, 0x0, .cb⟩, ⟨"QUANTUM", 10, 8, .rw, 0x0, .cb⟩]⟩,
  ⟨"PLZ_CLASS_STAT", 0x160, [(0x4, 8)], .always,
   [⟨"ALPHA_NOW", 0, 3, .ro, 0x3, .im⟩, ⟨"SHARED", 3, 17, .ro, 0x0, .im⟩]⟩,
  ⟨"PLZ_TIME_CFG", 0x180, [], .always,
   [⟨"RES_LIMIT_US", 0, 16, .rw, 0x7D0, .cb⟩, ⟨"HOLD_US", 16, 16, .rw, 0x7D0, .cb⟩]⟩,
  ⟨"PLZ_LRN_CFG", 0x184, [], .always,
   [⟨"AGE_S", 0, 16, .rw, 0x12C, .cb⟩, ⟨"LRN_EN", 16, 1, .rw, 0x1, .cb⟩]⟩,
  ⟨"PLZ_LRN_CTL", 0x188, [], .always,
   [⟨"FLUSH", 0, 1, .sc, 0x0, .im⟩, ⟨"PORT", 1, 7, .rw, 0x0, .im⟩, ⟨"BY_PORT", 8, 1, .rw, 0x0, .im⟩, ⟨"VID", 9, 12, .rw, 0x0, .im⟩, ⟨"BY_VID", 21, 1, .rw, 0x0, .im⟩]⟩,
  ⟨"PLZ_LRN_STAT", 0x18C, [], .always,
   [⟨"ENTRIES", 0, 15, .ro, 0x0, .im⟩]⟩,
  ⟨"PLZ_DROP_POOL", 0x200, [], .always,
   [⟨"COUNT", 0, 32, .cnt, 0x0, .im⟩]⟩,
  ⟨"PLZ_DROP_NOBUF", 0x204, [], .always,
   [⟨"COUNT", 0, 32, .cnt, 0x0, .im⟩]⟩,
  ⟨"PLZ_DROP_PORT_DOWN", 0x208, [], .always,
   [⟨"COUNT", 0, 32, .cnt, 0x0, .im⟩]⟩,
  ⟨"PLZ_DROP_FLUSH_LINKDOWN", 0x20C, [], .always,
   [⟨"COUNT", 0, 32, .cnt, 0x0, .im⟩]⟩,
  ⟨"PLZ_DROP_RESIDENCY", 0x210, [], .always,
   [⟨"COUNT", 0, 32, .cnt, 0x0, .im⟩]⟩,
  ⟨"PLZ_DROP_INGRESS_ERR", 0x214, [], .always,
   [⟨"COUNT", 0, 32, .cnt, 0x0, .im⟩]⟩,
  ⟨"PLZ_DROP_VLAN", 0x218, [], .always,
   [⟨"COUNT", 0, 32, .cnt, 0x0, .im⟩]⟩,
  ⟨"PLZ_DROP_MTU", 0x21C, [], .always,
   [⟨"COUNT", 0, 32, .cnt, 0x0, .im⟩]⟩,
  ⟨"PLZ_DROP_FILTER", 0x220, [], .always,
   [⟨"COUNT", 0, 32, .cnt, 0x0, .im⟩]⟩,
  ⟨"PLZ_MARKED", 0x224, [], .always,
   [⟨"COUNT", 0, 32, .cnt, 0x0, .im⟩]⟩,
  ⟨"PLZ_LRN_MOVE", 0x228, [], .always,
   [⟨"COUNT", 0, 32, .cnt, 0x0, .im⟩]⟩,
  ⟨"PLZ_LRN_FULL", 0x22C, [], .always,
   [⟨"COUNT", 0, 32, .cnt, 0x0, .im⟩]⟩,
  ⟨"PLZ_CAP_MISS", 0x230, [], .always,
   [⟨"COUNT", 0, 32, .cnt, 0x0, .im⟩]⟩,
  ⟨"PLZ_CT_STOMP", 0x234, [], .always,
   [⟨"COUNT", 0, 32, .cnt, 0x0, .im⟩]⟩]

/-- Registers of the PLZ unit (R171). -/
def regsPLZb : List RegDef := [
  ⟨"PLZ_CAP_CFG", 0x300, [], .always,
   [⟨"EN", 0, 1, .rw, 0x0, .cb⟩, ⟨"STOP_FULL", 1, 1, .rw, 0x0, .cb⟩, ⟨"TRIG_COUNT", 2, 12, .rw, 0x0, .cb⟩, ⟨"DROP_MASK", 14, 9, .rw, 0x0, .cb⟩]⟩,
  ⟨"PLZ_CAP_STAT", 0x304, [], .always,
   [⟨"WR_IDX", 0, 12, .ro, 0x0, .im⟩, ⟨"FULL", 12, 1, .w1c, 0x0, .im⟩, ⟨"TRIG_LEFT", 13, 12, .ro, 0x0, .im⟩]⟩,
  ⟨"PLZ_CAP_RD", 0x30C, [], .always,
   [⟨"RD_IDX", 0, 12, .rw, 0x0, .im⟩]⟩,
  ⟨"PLZ_CAP_TOTAL", 0x308, [], .always,
   [⟨"COUNT", 0, 32, .cnt, 0x0, .im⟩]⟩,
  ⟨"PLZ_PORT_STAT", 0x2000, [(0x4, 104)], .always,
   [⟨"STATE", 0, 2, .ro, 0x0, .im⟩, ⟨"XOFF_RX", 2, 8, .ro, 0x0, .im⟩, ⟨"XOFF_TX", 10, 8, .ro, 0x0, .im⟩]⟩,
  ⟨"PLZ_CAP_P", 0x2200, [(0x4, 104)], .always,
   [⟨"CLASS_MASK", 0, 8, .rw, 0x0, .cb⟩, ⟨"N", 8, 16, .rw, 0x0, .cb⟩]⟩,
  ⟨"PLZ_SQ_CFG", 0x3000, [(0x4, 192)], .always,
   [⟨"PORT", 0, 7, .rw, 0x0, .cb⟩, ⟨"CLASS", 7, 3, .rw, 0x0, .cb⟩, ⟨"EN", 10, 1, .rw, 0x0, .cb⟩, ⟨"RATE", 12, 16, .rw, 0x0, .cb⟩, ⟨"BURST", 28, 3, .rw, 0x0, .cb⟩]⟩,
  ⟨"PLZ_Q_CFG", 0x4000, [(0x4, 1024)], .always,
   [⟨"GUAR", 0, 8, .rw, 0x8, .cb⟩, ⟨"MARK16", 8, 8, .rw, 0x10, .cb⟩]⟩,
  ⟨"PLZ_Q_DEPTH", 0x5000, [(0x4, 1024)], .always,
   [⟨"CELLS", 0, 17, .ro, 0x0, .im⟩, ⟨"LAST_REASON", 17, 4, .ro, 0x0, .im⟩]⟩,
  ⟨"PLZ_Q_DROP", 0x6000, [(0x4, 1024)], .always,
   [⟨"COUNT", 0, 32, .cnt, 0x0, .im⟩]⟩,
  ⟨"PLZ_Q_MARK", 0x7000, [(0x4, 1024)], .always,
   [⟨"COUNT", 0, 32, .cnt, 0x0, .im⟩]⟩]

/-- Registers of the RNG unit (R107, R139). -/
def regsRNGa : List RegDef := [
  ⟨"RNG_PORT_CFG", 0x0, [(0x40, 3)], .ringPort,
   [⟨"MAX_RATE", 0, 2, .rw, 0x2, .im⟩, ⟨"FR_ALLOW", 2, 1, .rw, 0x1, .im⟩, ⟨"ENC_OFFER", 3, 1, .rw, 0x1, .im⟩, ⟨"TX_POL", 4, 2, .rw, 0x0, .im⟩, ⟨"RX_POL", 6, 2, .rw, 0x0, .im⟩, ⟨"EN", 8, 1, .rw, 0x1, .im⟩]⟩,
  ⟨"RNG_PORT_CTL", 0x4, [(0x40, 3)], .ringPort,
   [⟨"RETRAIN", 0, 1, .sc, 0x0, .im⟩]⟩,
  ⟨"RNG_PORT_STAT", 0x8, [(0x40, 3)], .ringPort,
   [⟨"STATE", 0, 4, .ro, 0x0, .im⟩, ⟨"RATE", 4, 2, .ro, 0x0, .im⟩, ⟨"ENC", 6, 1, .ro, 0x0, .im⟩, ⟨"FR", 7, 1, .ro, 0x0, .im⟩, ⟨"SWAPPED", 8, 1, .ro, 0x0, .im⟩, ⟨"PEER_NODE", 16, 8, .ro, 0x0, .im⟩, ⟨"PEER_SIDE", 24, 1, .ro, 0x0, .im⟩, ⟨"PEER_VERSION", 28, 4, .ro, 0x0, .im⟩]⟩,
  ⟨"RNG_PORT_BRINGUP", 0xC, [(0x40, 3)], .ringPort,
   [⟨"REASON", 0, 4, .ro, 0x0, .im⟩, ⟨"REASON_RATE", 4, 2, .ro, 0x0, .im⟩, ⟨"SKEW", 16, 6, .ro, 0x0, .im⟩]⟩,
  ⟨"RNG_PORT_MKR_ERR", 0x10, [(0x40, 3)], .ringPort,
   [⟨"COUNT", 0, 32, .cnt, 0x0, .im⟩]⟩,
  ⟨"RNG_PORT_STUFF_ERR", 0x14, [(0x40, 3)], .ringPort,
   [⟨"COUNT", 0, 32, .cnt, 0x0, .im⟩]⟩,
  ⟨"RNG_PORT_SOF_ERR", 0x18, [(0x40, 3)], .ringPort,
   [⟨"COUNT", 0, 32, .cnt, 0x0, .im⟩]⟩,
  ⟨"RNG_PORT_CRC_ERR", 0x1C, [(0x40, 3)], .ringPort,
   [⟨"COUNT", 0, 32, .cnt, 0x0, .im⟩]⟩,
  ⟨"RNG_PORT_LOCK_LOSS", 0x20, [(0x40, 3)], .ringPort,
   [⟨"COUNT", 0, 32, .cnt, 0x0, .im⟩]⟩,
  ⟨"RNG_PORT_FALLBACK", 0x24, [(0x40, 3)], .ringPort,
   [⟨"COUNT", 0, 32, .cnt, 0x0, .im⟩]⟩,
  ⟨"RNG_LANE_EQ_TX", 0x100, [(0x8, 6)], .ringLane,
   [⟨"TAPS", 0, 30, .ro, 0x0, .im⟩, ⟨"RATE_IDX", 30, 2, .ro, 0x0, .im⟩]⟩,
  ⟨"RNG_LANE_EQ_RX", 0x104, [(0x8, 6)], .ringLane,
   [⟨"CTLE", 0, 4, .ro, 0x0, .im⟩, ⟨"DFE", 4, 24, .ro, 0x0, .im⟩, ⟨"DEFAULT", 28, 1, .ro, 0x0, .im⟩]⟩,
  ⟨"RNG_CFG", 0x400, [], .always,
   [⟨"HOP_LIMIT", 0, 8, .rw, 0xFF, .cb⟩, ⟨"KA_MISS", 8, 4, .rw, 0x8, .cb⟩, ⟨"TIE_WEST", 12, 1, .rw, 0x0, .cb⟩, ⟨"AUTO_HEAL", 13, 1, .rw, 0x1, .cb⟩, ⟨"HEAL_HOLD", 16, 8, .rw, 0x32, .cb⟩]⟩,
  ⟨"RNG_ADD_CFG", 0x404, [], .always,
   [⟨"RATE", 0, 8, .rw, 0x10, .cb⟩, ⟨"BURST", 8, 8, .rw, 0x10, .cb⟩]⟩,
  ⟨"RNG_CTL", 0x408, [], .always,
   [⟨"WRAP_E", 0, 1, .rw, 0x0, .im⟩, ⟨"WRAP_W", 1, 1, .rw, 0x0, .im⟩, ⟨"HEAL", 2, 1, .sc, 0x0, .im⟩]⟩,
  ⟨"RNG_STAT", 0x40C, [], .always,
   [⟨"BROKEN", 0, 2, .ro, 0x0, .im⟩, ⟨"WRAP", 2, 2, .ro, 0x0, .im⟩, ⟨"CLOSED_OUTER", 4, 1, .ro, 0x0, .im⟩, ⟨"CLOSED_INNER", 5, 1, .ro, 0x0, .im⟩, ⟨"DUP_ID", 6, 1, .ro, 0x0, .im⟩, ⟨"STATIONS", 8, 8, .ro, 0x0, .im⟩, ⟨"MAP_GEN", 16, 16, .ro, 0x0, .im⟩]⟩,
  ⟨"RNG_PORT_KA_MISS", 0x440, [(0x40, 2)], .always,
   [⟨"COUNT", 0, 32, .cnt, 0x0, .im⟩]⟩,
  ⟨"RNG_PORT_BREAK", 0x444, [(0x40, 2)], .always,
   [⟨"COUNT", 0, 32, .cnt, 0x0, .im⟩]⟩,
  ⟨"RNG_PORT_STOMPED", 0x448, [(0x40, 2)], .always,
   [⟨"COUNT", 0, 32, .cnt, 0x0, .im⟩]⟩,
  ⟨"RNG_PORT_TAG_FAIL", 0x44C, [(0x40, 2)], .always,
   [⟨"COUNT", 0, 32, .cnt, 0x0, .im⟩]⟩,
  ⟨"RNG_PORT_LEN_ERR", 0x450, [(0x40, 2)], .always,
   [⟨"COUNT", 0, 32, .cnt, 0x0, .im⟩]⟩,
  ⟨"RNG_PORT_TRUNC", 0x454, [(0x40, 2)], .always,
   [⟨"COUNT", 0, 32, .cnt, 0x0, .im⟩]⟩,
  ⟨"RNG_PORT_SUSPECT", 0x458, [(0x40, 2)], .always,
   [⟨"COUNT", 0, 32, .cnt, 0x0, .im⟩]⟩,
  ⟨"RNG_PORT_NONCE_RESYNC", 0x45C, [(0x40, 2)], .always,
   [⟨"COUNT", 0, 32, .cnt, 0x0, .im⟩]⟩]

/-- Registers of the RNG unit (R139). -/
def regsRNGb : List RegDef := [
  ⟨"RNG_PORT_KA_REJECT", 0x460, [(0x40, 2)], .always,
   [⟨"COUNT", 0, 32, .cnt, 0x0, .im⟩]⟩,
  ⟨"RNG_RETURNED", 0x500, [], .always,
   [⟨"COUNT", 0, 32, .cnt, 0x0, .im⟩]⟩,
  ⟨"RNG_HOP_EXPIRED", 0x504, [], .always,
   [⟨"COUNT", 0, 32, .cnt, 0x0, .im⟩]⟩,
  ⟨"RNG_WRAP_TWICE", 0x508, [], .always,
   [⟨"COUNT", 0, 32, .cnt, 0x0, .im⟩]⟩,
  ⟨"RNG_C7_DUP", 0x50C, [], .always,
   [⟨"COUNT", 0, 32, .cnt, 0x0, .im⟩]⟩,
  ⟨"RNG_C7_OLD", 0x510, [], .always,
   [⟨"COUNT", 0, 32, .cnt, 0x0, .im⟩]⟩,
  ⟨"RNG_UNKNOWN", 0x514, [], .always,
   [⟨"COUNT", 0, 32, .cnt, 0x0, .im⟩]⟩,
  ⟨"RNG_BLOCKED", 0x518, [], .always,
   [⟨"COUNT", 0, 32, .cnt, 0x0, .im⟩]⟩,
  ⟨"RNG_ADD_DROP", 0x51C, [], .always,
   [⟨"COUNT", 0, 32, .cnt, 0x0, .im⟩]⟩,
  ⟨"RNG_DMAP", 0x1000, [(0x400, 2), (0x4, 256)], .always,
   [⟨"DIR", 0, 2, .rw, 0x0, .im⟩, ⟨"BLOCK", 2, 1, .rw, 0x0, .im⟩, ⟨"HOP_LIMIT", 8, 8, .rw, 0x0, .im⟩]⟩]

/-- Registers of the ACC unit (R108, R172). -/
def regsACC : List RegDef := [
  ⟨"ACC_LANE_CFG", 0x0, [(0x10, 24)], .accLane,
   [⟨"MODE", 0, 3, .rw, 0x0, .im⟩, ⟨"AN_EN", 3, 1, .rw, 0x1, .im⟩, ⟨"TX_POL", 4, 1, .rw, 0x0, .im⟩, ⟨"RX_POL", 5, 1, .rw, 0x0, .im⟩, ⟨"PAUSE_ADV", 6, 2, .rw, 0x0, .im⟩]⟩,
  ⟨"ACC_LANE_STAT", 0x4, [(0x10, 24)], .accLane,
   [⟨"CDR_LOCK", 0, 1, .ro, 0x0, .im⟩, ⟨"SYNC", 1, 1, .ro, 0x0, .im⟩, ⟨"AN_DONE", 2, 1, .ro, 0x0, .im⟩, ⟨"LINK", 8, 4, .ro, 0x0, .im⟩, ⟨"SPEED", 12, 8, .ro, 0x0, .im⟩, ⟨"PEER_PAUSE", 20, 2, .ro, 0x0, .im⟩]⟩,
  ⟨"ACC_LANE_ERR", 0x8, [(0x10, 24)], .accLane,
   [⟨"COUNT", 0, 32, .cnt, 0x0, .im⟩]⟩,
  ⟨"ACC_LANE_EQ_TX", 0x180, [(0x8, 24)], .accLane,
   [⟨"TAPS", 0, 30, .ro, 0x0, .im⟩, ⟨"RATE_IDX", 30, 2, .ro, 0x0, .im⟩]⟩,
  ⟨"ACC_LANE_EQ_RX", 0x184, [(0x8, 24)], .accLane,
   [⟨"CTLE", 0, 4, .ro, 0x0, .im⟩, ⟨"DFE", 4, 24, .ro, 0x0, .im⟩, ⟨"DEFAULT", 28, 1, .ro, 0x0, .im⟩]⟩,
  ⟨"ACC_MAC_CFG", 0x10000, [(0x400, 96)], .accPort,
   [⟨"EN", 0, 1, .rw, 0x1, .fb⟩, ⟨"MAX_LEN", 1, 14, .rw, 0x5EE, .fb⟩, ⟨"RX_PAUSE_EN", 15, 1, .rw, 0x0, .fb⟩, ⟨"TX_PAUSE_EN", 16, 1, .rw, 0x0, .fb⟩, ⟨"PFC_EN", 17, 1, .rw, 0x0, .fb⟩, ⟨"ECN_EN", 18, 1, .rw, 0x0, .fb⟩, ⟨"LEARN_EN", 19, 1, .rw, 0x1, .fb⟩]⟩,
  ⟨"ACC_MAC_VLAN", 0x10004, [(0x400, 96)], .accPort,
   [⟨"PVID", 0, 12, .rw, 0x1, .cb⟩, ⟨"DEF_PCP", 12, 3, .rw, 0x0, .cb⟩, ⟨"ACCEPT_UNTAGGED", 15, 1, .rw, 0x1, .cb⟩, ⟨"ACCEPT_TAGGED", 16, 1, .rw, 0x1, .cb⟩, ⟨"INGRESS_FILTER", 17, 1, .rw, 0x1, .cb⟩]⟩,
  ⟨"ACC_MAC_PCPMAP", 0x10008, [(0x400, 96)], .accPort,
   [⟨"MAP", 0, 24, .rw, 0xB6C688, .cb⟩]⟩,
  ⟨"ACC_MAC_FC", 0x1000C, [(0x400, 96)], .accPort,
   [⟨"XOFF", 0, 16, .rw, 0x200, .cb⟩, ⟨"XON", 16, 16, .rw, 0x180, .cb⟩]⟩,
  ⟨"ACC_MAC_RX_FRAMES", 0x10100, [(0x400, 96)], .accPort,
   [⟨"COUNT", 0, 32, .cnt, 0x0, .im⟩]⟩,
  ⟨"ACC_MAC_RX_OCTETS", 0x10104, [(0x400, 96)], .accPort,
   [⟨"COUNT", 0, 32, .cnt, 0x0, .im⟩]⟩,
  ⟨"ACC_MAC_RX_FCS_ERR", 0x10108, [(0x400, 96)], .accPort,
   [⟨"COUNT", 0, 32, .cnt, 0x0, .im⟩]⟩,
  ⟨"ACC_MAC_RX_LEN_ERR", 0x1010C, [(0x400, 96)], .accPort,
   [⟨"COUNT", 0, 32, .cnt, 0x0, .im⟩]⟩,
  ⟨"ACC_MAC_RX_VLAN_DROP", 0x10110, [(0x400, 96)], .accPort,
   [⟨"COUNT", 0, 32, .cnt, 0x0, .im⟩]⟩,
  ⟨"ACC_MAC_RX_PAUSE", 0x10114, [(0x400, 96)], .accPort,
   [⟨"COUNT", 0, 32, .cnt, 0x0, .im⟩]⟩,
  ⟨"ACC_MAC_TX_FRAMES", 0x10118, [(0x400, 96)], .accPort,
   [⟨"COUNT", 0, 32, .cnt, 0x0, .im⟩]⟩,
  ⟨"ACC_MAC_TX_OCTETS", 0x1011C, [(0x400, 96)], .accPort,
   [⟨"COUNT", 0, 32, .cnt, 0x0, .im⟩]⟩,
  ⟨"ACC_MAC_TX_PAUSE", 0x10120, [(0x400, 96)], .accPort,
   [⟨"COUNT", 0, 32, .cnt, 0x0, .im⟩]⟩]

/-- Registers of the JCT unit (R200). -/
def regsJCT : List RegDef := [
  ⟨"JCT_CFG", 0x0, [], .always,
   [⟨"EN", 0, 1, .rw, 0x0, .cb⟩, ⟨"ETH_EN", 1, 1, .rw, 0x0, .cb⟩]⟩,
  ⟨"JCT_ETH_MAC_LO", 0x4, [], .always,
   [⟨"MAC", 0, 32, .rw, 0x0, .cb⟩]⟩,
  ⟨"JCT_ETH_MAC_HI", 0x8, [], .always,
   [⟨"MAC", 0, 16, .rw, 0x0, .cb⟩, ⟨"VID", 16, 12, .rw, 0x1, .cb⟩]⟩,
  ⟨"JCT_STAT", 0xC, [], .always,
   [⟨"BUSY", 0, 4, .ro, 0x0, .im⟩]⟩,
  ⟨"JCT_ERR_INFO", 0x10, [], .always,
   [⟨"ROUTE", 0, 14, .ro, 0x0, .im⟩, ⟨"CODE", 16, 4, .ro, 0x0, .im⟩]⟩,
  ⟨"JCT_RX", 0x100, [], .always,
   [⟨"COUNT", 0, 32, .cnt, 0x0, .im⟩]⟩,
  ⟨"JCT_RX_NOKEY", 0x104, [], .always,
   [⟨"COUNT", 0, 32, .cnt, 0x0, .im⟩]⟩,
  ⟨"JCT_RX_BAD", 0x108, [], .always,
   [⟨"COUNT", 0, 32, .cnt, 0x0, .im⟩]⟩,
  ⟨"JCT_RX_LATE", 0x10C, [], .always,
   [⟨"COUNT", 0, 32, .cnt, 0x0, .im⟩]⟩,
  ⟨"JCT_STEPS", 0x110, [], .always,
   [⟨"COUNT", 0, 32, .cnt, 0x0, .im⟩]⟩,
  ⟨"JCT_ROUTE_ERR", 0x114, [], .always,
   [⟨"COUNT", 0, 32, .cnt, 0x0, .im⟩]⟩,
  ⟨"JCT_INVALID", 0x118, [], .always,
   [⟨"COUNT", 0, 32, .cnt, 0x0, .im⟩]⟩,
  ⟨"JCT_OVERFLOW", 0x11C, [], .always,
   [⟨"COUNT", 0, 32, .cnt, 0x0, .im⟩]⟩,
  ⟨"JCT_STALE", 0x120, [], .always,
   [⟨"COUNT", 0, 32, .cnt, 0x0, .im⟩]⟩,
  ⟨"JCT_LIST_LONG", 0x124, [], .always,
   [⟨"COUNT", 0, 32, .cnt, 0x0, .im⟩]⟩,
  ⟨"JCT_EMIT", 0x128, [], .always,
   [⟨"COUNT", 0, 32, .cnt, 0x0, .im⟩]⟩,
  ⟨"JCT_EMIT_LATE", 0x12C, [], .always,
   [⟨"COUNT", 0, 32, .cnt, 0x0, .im⟩]⟩,
  ⟨"JCT_SINK_FULL", 0x130, [], .always,
   [⟨"COUNT", 0, 32, .cnt, 0x0, .im⟩]⟩,
  ⟨"JCT_BUS_REPLACED", 0x134, [], .always,
   [⟨"COUNT", 0, 32, .cnt, 0x0, .im⟩]⟩,
  ⟨"JCT_EMIT_SHADOW", 0x138, [], .always,
   [⟨"COUNT", 0, 32, .cnt, 0x0, .im⟩]⟩,
  ⟨"JCT_EMIT_FENCED", 0x13C, [], .always,
   [⟨"COUNT", 0, 32, .cnt, 0x0, .im⟩]⟩,
  ⟨"JCT_OVR", 0x1000, [(0x4, 256)], .always,
   [⟨"COUNT", 0, 32, .cnt, 0x0, .im⟩]⟩,
  ⟨"JCT_ALIVE", 0x8000, [(0x4, 4096)], .always,
   [⟨"VALUE", 0, 16, .cnt, 0x0, .im⟩]⟩]

/-- Registers of the MQ unit (R218). -/
def regsMQ : List RegDef := [
  ⟨"MQ_CFG", 0x0, [], .always,
   [⟨"POLL_EN", 0, 1, .rw, 0x0, .cb⟩]⟩,
  ⟨"MQ_POOL_STAT", 0x4, [], .always,
   [⟨"UNRESERVED", 0, 15, .ro, 0x4000, .im⟩]⟩,
  ⟨"MQ_ATTN_STAT", 0x8, [], .always,
   [⟨"ATTN", 0, 1, .ro, 0x0, .im⟩]⟩,
  ⟨"MQ_ABORTED", 0x10, [], .always,
   [⟨"COUNT", 0, 32, .cnt, 0x0, .im⟩]⟩,
  ⟨"MQ_FLUSHED", 0x14, [], .always,
   [⟨"COUNT", 0, 32, .cnt, 0x0, .im⟩]⟩,
  ⟨"MQ_Q_CFG", 0x1000, [(0x20, 256)], .always,
   [⟨"EN", 0, 1, .rw, 0x0, .im⟩, ⟨"CONSUMER", 1, 2, .rw, 0x0, .im⟩, ⟨"ENGINE", 3, 6, .rw, 0x0, .im⟩, ⟨"ATTN_EN", 9, 1, .rw, 0x0, .im⟩, ⟨"ATTN_PRIO", 10, 3, .rw, 0x0, .im⟩, ⟨"CAP", 13, 15, .rw, 0x0, .im⟩]⟩,
  ⟨"MQ_Q_PROD", 0x1004, [(0x20, 256), (0x4, 4)], .always,
   [⟨"PRODUCER", 0, 8, .rw, 0x0, .im⟩, ⟨"VALID", 8, 1, .rw, 0x0, .im⟩, ⟨"CREDIT", 9, 15, .rw, 0x0, .im⟩]⟩,
  ⟨"MQ_Q_STAT", 0x1014, [(0x20, 256)], .always,
   [⟨"USED", 0, 15, .ro, 0x0, .im⟩, ⟨"HELD", 15, 1, .ro, 0x0, .im⟩, ⟨"MSGS", 16, 15, .ro, 0x0, .im⟩, ⟨"PUSH_OPEN", 31, 1, .ro, 0x0, .im⟩]⟩,
  ⟨"MQ_Q_CTL", 0x1018, [(0x20, 256)], .always,
   [⟨"RELEASE", 0, 1, .sc, 0x0, .im⟩, ⟨"ABORT", 1, 1, .sc, 0x0, .im⟩, ⟨"FLUSH", 2, 1, .sc, 0x0, .im⟩]⟩,
  ⟨"MQ_Q_NOCRED", 0x101C, [(0x20, 256)], .always,
   [⟨"COUNT", 0, 32, .cnt, 0x0, .im⟩]⟩]

/-- Registers of the BUS unit (R240). -/
def regsBUSa : List RegDef := [
  ⟨"BUS_CH_CFG", 0x0, [(0x400, 16)], .busCh,
   [⟨"EN", 0, 1, .rw, 0x0, .fb⟩, ⟨"FD_EN", 1, 1, .rw, 0x1, .fb⟩, ⟨"LISTEN", 2, 1, .rw, 0x0, .fb⟩, ⟨"JCT_EN", 3, 1, .rw, 0x0, .fb⟩, ⟨"JTX", 4, 1, .rw, 0x0, .fb⟩, ⟨"AUTO_RECOVER", 5, 1, .rw, 0x1, .im⟩, ⟨"ESIZE", 6, 1, .rw, 0x0, .fb⟩, ⟨"PXE", 7, 1, .rw, 0x1, .fb⟩]⟩,
  ⟨"BUS_CH_NBT", 0x4, [(0x400, 16)], .busCh,
   [⟨"BRP", 0, 5, .rw, 0x0, .im⟩, ⟨"TSEG1", 5, 8, .rw, 0x7E, .im⟩, ⟨"TSEG2", 13, 7, .rw, 0x1F, .im⟩, ⟨"SJW", 20, 7, .rw, 0x1F, .im⟩]⟩,
  ⟨"BUS_CH_DBT", 0x8, [(0x400, 16)], .busCh,
   [⟨"DBRP", 0, 5, .rw, 0x0, .im⟩, ⟨"DTSEG1", 5, 5, .rw, 0x1E, .im⟩, ⟨"DTSEG2", 10, 4, .rw, 0x7, .im⟩, ⟨"DSJW", 14, 4, .rw, 0x7, .im⟩, ⟨"TDC_EN", 18, 1, .rw, 0x0, .im⟩, ⟨"TDCO", 19, 7, .rw, 0x0, .im⟩]⟩,
  ⟨"BUS_CH_CTL", 0xC, [(0x400, 16)], .busCh,
   [⟨"RECOVER", 0, 1, .sc, 0x0, .im⟩]⟩,
  ⟨"BUS_CH_STAT", 0x10, [(0x400, 16)], .busCh,
   [⟨"STATE", 0, 2, .ro, 0x0, .im⟩, ⟨"RESTRICTED", 2, 1, .ro, 0x0, .im⟩, ⟨"TIMING_BAD", 3, 1, .w1c, 0x0, .im⟩, ⟨"LEC", 4, 3, .ro, 0x0, .im⟩, ⟨"TEC", 7, 9, .ro, 0x0, .im⟩, ⟨"REC", 16, 8, .ro, 0x0, .im⟩, ⟨"TDC_MEAS", 24, 8, .ro, 0x0, .im⟩]⟩,
  ⟨"BUS_CH_RXA", 0x14, [(0x400, 16)], .busCh,
   [⟨"WR", 0, 10, .ro, 0x0, .im⟩, ⟨"RD", 16, 10, .rw, 0x0, .im⟩]⟩,
  ⟨"BUS_CH_RXB", 0x18, [(0x400, 16)], .busCh,
   [⟨"WR", 0, 10, .ro, 0x0, .im⟩, ⟨"RD", 16, 10, .rw, 0x0, .im⟩]⟩,
  ⟨"BUS_CH_RXCFG", 0x1C, [(0x400, 16)], .busCh,
   [⟨"NA", 0, 10, .rw, 0x370, .im⟩, ⟨"NB", 16, 10, .rw, 0x0, .im⟩]⟩,
  ⟨"BUS_CH_NOTE", 0x20, [(0x400, 16)], .busCh,
   [⟨"QUEUE", 0, 8, .rw, 0x0, .im⟩, ⟨"ALL", 8, 1, .rw, 0x0, .im⟩, ⟨"STARVE", 9, 1, .rw, 0x1, .im⟩, ⟨"PRIO", 10, 3, .rw, 0x0, .im⟩, ⟨"PPRIO", 13, 3, .rw, 0x7, .im⟩]⟩,
  ⟨"BUS_CH_FLT", 0x24, [(0x400, 16)], .busPriv,
   [⟨"NOMATCH_STD", 0, 4, .rw, 0x5, .cb⟩, ⟨"NOMATCH_EXT", 4, 4, .rw, 0x5, .cb⟩]⟩,
  ⟨"BUS_CH_STARVE", 0x28, [(0x400, 16)], .busCh,
   [⟨"STARVE_US", 0, 32, .rw, 0x2710, .im⟩]⟩,
  ⟨"BUS_CH_TXREQ", 0x30, [(0x400, 16)], .busCh,
   [⟨"BUFS", 0, 32, .w1s, 0x0, .im⟩]⟩,
  ⟨"BUS_CH_TXCAN", 0x34, [(0x400, 16)], .busCh,
   [⟨"BUFS", 0, 32, .w1s, 0x0, .im⟩]⟩,
  ⟨"BUS_CH_STARVE_SEEN", 0x38, [(0x400, 16)], .busCh,
   [⟨"BUFS", 0, 32, .w1c, 0x0, .im⟩]⟩,
  ⟨"BUS_CH_RX_FRAMES", 0x40, [(0x400, 16)], .busCh,
   [⟨"COUNT", 0, 32, .cnt, 0x0, .im⟩]⟩,
  ⟨"BUS_CH_RX_OVF_A", 0x44, [(0x400, 16)], .busCh,
   [⟨"COUNT", 0, 32, .cnt, 0x0, .im⟩]⟩,
  ⟨"BUS_CH_RX_OVF_B", 0x48, [(0x400, 16)], .busCh,
   [⟨"COUNT", 0, 32, .cnt, 0x0, .im⟩]⟩,
  ⟨"BUS_CH_TX_FRAMES", 0x4C, [(0x400, 16)], .busCh,
   [⟨"COUNT", 0, 32, .cnt, 0x0, .im⟩]⟩,
  ⟨"BUS_CH_TX_FMT", 0x50, [(0x400, 16)], .busCh,
   [⟨"COUNT", 0, 32, .cnt, 0x0, .im⟩]⟩,
  ⟨"BUS_CH_ARB_LOST", 0x54, [(0x400, 16)], .busCh,
   [⟨"COUNT", 0, 32, .cnt, 0x0, .im⟩]⟩,
  ⟨"BUS_CH_ERR_RX", 0x58, [(0x400, 16)], .busCh,
   [⟨"COUNT", 0, 32, .cnt, 0x0, .im⟩]⟩,
  ⟨"BUS_CH_ERR_TX", 0x5C, [(0x400, 16)], .busCh,
   [⟨"COUNT", 0, 32, .cnt, 0x0, .im⟩]⟩,
  ⟨"BUS_CH_BUSOFF", 0x60, [(0x400, 16)], .busCh,
   [⟨"COUNT", 0, 32, .cnt, 0x0, .im⟩]⟩,
  ⟨"BUS_CH_FLT_REJECT", 0x64, [(0x400, 16)], .busCh,
   [⟨"COUNT", 0, 32, .cnt, 0x0, .im⟩]⟩]

/-- Registers of the BUS unit (R240). -/
def regsBUSb : List RegDef := [
  ⟨"BUS_CH_JTX_DROP", 0x68, [(0x400, 16)], .busCh,
   [⟨"COUNT", 0, 32, .cnt, 0x0, .im⟩]⟩,
  ⟨"BUS_CH_STARVE_CNT", 0x6C, [(0x400, 16)], .busCh,
   [⟨"COUNT", 0, 32, .cnt, 0x0, .im⟩]⟩,
  ⟨"BUS_CH_TXSTAT", 0x100, [(0x400, 16), (0x8, 32)], .busCh,
   [⟨"STATE", 0, 3, .ro, 0x0, .im⟩, ⟨"STARVED", 3, 1, .ro, 0x0, .im⟩, ⟨"ATTEMPTS", 16, 16, .ro, 0x0, .im⟩]⟩,
  ⟨"BUS_CH_TXAGE", 0x104, [(0x400, 16), (0x8, 32)], .busCh,
   [⟨"AGE_US", 0, 32, .ro, 0x0, .im⟩]⟩]

/-- Registers of the ARC unit (R268). -/
def regsARC : List RegDef := [
  ⟨"ARC_ERR", 0x0, [], .always,
   [⟨"PROG_BUSY", 0, 1, .w1c, 0x0, .im⟩, ⟨"RESUME_REFUSED", 1, 1, .w1c, 0x0, .im⟩, ⟨"UFLOW", 2, 1, .w1c, 0x0, .im⟩, ⟨"OFLOW", 3, 1, .w1c, 0x0, .im⟩, ⟨"PUSH_REFUSED", 4, 1, .w1c, 0x0, .im⟩, ⟨"ENGINE", 16, 6, .ro, 0x0, .im⟩]⟩,
  ⟨"ARC_A_RESTART", 0x10, [(0x4, 8)], .arcade,
   [⟨"ENG", 0, 8, .sc, 0x0, .im⟩]⟩,
  ⟨"ARC_E_CLK", 0x1000, [(0x80, 64)], .engine,
   [⟨"DIV", 0, 24, .rw, 0x100, .im⟩]⟩,
  ⟨"ARC_E_CFG", 0x1004, [(0x80, 64)], .engine,
   [⟨"ENTRY", 0, 6, .rw, 0x0, .im⟩, ⟨"LOOP_START", 6, 6, .rw, 0x0, .im⟩, ⟨"LOOP_END", 12, 6, .rw, 0x3F, .im⟩, ⟨"SEND_HIGH", 18, 1, .rw, 0x0, .im⟩, ⟨"TAKE_LOW", 19, 1, .rw, 0x0, .im⟩, ⟨"AUTO_REFILL", 20, 1, .rw, 0x0, .im⟩, ⟨"AUTO_DELIVER", 21, 1, .rw, 0x0, .im⟩, ⟨"QSPLIT", 22, 2, .rw, 0x0, .im⟩, ⟨"RX_JCT", 24, 1, .rw, 0x0, .im⟩, ⟨"RX_WORDS", 25, 3, .rw, 0x0, .im⟩, ⟨"START", 28, 2, .rw, 0x0, .im⟩]⟩,
  ⟨"ARC_E_SHIFT", 0x1008, [(0x80, 64)], .engine,
   [⟨"LOAD_BITS", 0, 5, .rw, 0x0, .im⟩, ⟨"DELIVER_BITS", 5, 5, .rw, 0x0, .im⟩, ⟨"TRIG", 10, 6, .rw, 0x0, .im⟩]⟩,
  ⟨"ARC_E_PINMAP", 0x100C, [(0x80, 64), (0x4, 2)], .engine,
   [⟨"GIO", 0, 32, .rw, 0xFFFFFFFF, .im⟩]⟩,
  ⟨"ARC_E_IDLE", 0x1014, [(0x80, 64)], .engine,
   [⟨"VAL", 0, 8, .rw, 0x0, .im⟩, ⟨"DRIVE", 8, 8, .rw, 0x0, .im⟩]⟩,
  ⟨"ARC_E_XA", 0x1018, [(0x80, 64)], .engine,
   [⟨"VALUE", 0, 32, .rw, 0x0, .im⟩]⟩,
  ⟨"ARC_E_XB", 0x101C, [(0x80, 64)], .engine,
   [⟨"VALUE", 0, 32, .rw, 0x0, .im⟩]⟩,
  ⟨"ARC_E_YA", 0x1020, [(0x80, 64)], .engine,
   [⟨"VALUE", 0, 32, .rw, 0x0, .im⟩]⟩,
  ⟨"ARC_E_YB", 0x1024, [(0x80, 64)], .engine,
   [⟨"VALUE", 0, 32, .rw, 0x0, .im⟩]⟩,
  ⟨"ARC_E_LUT", 0x1028, [(0x80, 64), (0x4, 4)], .engine,
   [⟨"TABLE", 0, 16, .rw, 0x0, .im⟩, ⟨"IN0", 16, 4, .rw, 0x0, .im⟩, ⟨"IN1", 20, 4, .rw, 0x0, .im⟩, ⟨"IN2", 24, 4, .rw, 0x0, .im⟩, ⟨"IN3", 28, 4, .rw, 0x0, .im⟩]⟩,
  ⟨"ARC_E_CTL", 0x1038, [(0x80, 64)], .engine,
   [⟨"EN", 0, 1, .rw, 0x0, .im⟩, ⟨"HALT", 1, 1, .sc, 0x0, .im⟩, ⟨"RESUME", 2, 1, .sc, 0x0, .im⟩, ⟨"RESTART", 3, 1, .sc, 0x0, .im⟩, ⟨"FLUSH_TX", 4, 1, .sc, 0x0, .im⟩, ⟨"FLUSH_RX", 5, 1, .sc, 0x0, .im⟩]⟩,
  ⟨"ARC_E_STAT", 0x103C, [(0x80, 64)], .engine,
   [⟨"STATE", 0, 3, .ro, 0x0, .im⟩, ⟨"ROW", 3, 6, .ro, 0x0, .im⟩, ⟨"DIRTY", 9, 1, .ro, 0x0, .im⟩, ⟨"LOOP_PEND", 10, 1, .ro, 0x0, .im⟩, ⟨"TX_LEVEL", 11, 5, .ro, 0x0, .im⟩, ⟨"RX_LEVEL", 16, 5, .ro, 0x0, .im⟩, ⟨"DSR_LEFT", 21, 6, .ro, 0x0, .im⟩]⟩,
  ⟨"ARC_E_SREG", 0x1040, [(0x80, 64)], .engine,
   [⟨"GTR_HAVE", 0, 6, .ro, 0x0, .im⟩, ⟨"SBIT", 6, 1, .ro, 0x0, .im⟩, ⟨"OUT", 8, 8, .ro, 0x0, .im⟩, ⟨"DRIVEN", 16, 8, .ro, 0x0, .im⟩]⟩,
  ⟨"ARC_E_X", 0x1044, [(0x80, 64)], .engine,
   [⟨"VALUE", 0, 32, .ro, 0x0, .im⟩]⟩,
  ⟨"ARC_E_Y", 0x1048, [(0x80, 64)], .engine,
   [⟨"VALUE", 0, 32, .ro, 0x0, .im⟩]⟩,
  ⟨"ARC_E_DSR", 0x104C, [(0x80, 64)], .engine,
   [⟨"VALUE", 0, 32, .ro, 0x0, .im⟩]⟩,
  ⟨"ARC_E_GTR", 0x1050, [(0x80, 64)], .engine,
   [⟨"VALUE", 0, 32, .ro, 0x0, .im⟩]⟩,
  ⟨"ARC_E_STALL", 0x1054, [(0x80, 64)], .engine,
   [⟨"COUNT", 0, 32, .cnt, 0x0, .im⟩]⟩,
  ⟨"ARC_E_TX_WORDS", 0x1058, [(0x80, 64)], .engine,
   [⟨"COUNT", 0, 32, .cnt, 0x0, .im⟩]⟩,
  ⟨"ARC_E_RX_WORDS", 0x105C, [(0x80, 64)], .engine,
   [⟨"COUNT", 0, 32, .cnt, 0x0, .im⟩]⟩,
  ⟨"ARC_E_SHADOW_DROP", 0x1060, [(0x80, 64)], .engine,
   [⟨"COUNT", 0, 32, .cnt, 0x0, .im⟩]⟩]

/-- Registers of the TIM unit (R292). -/
def regsTIMa : List RegDef := [
  ⟨"TIM_TB_NS", 0x0, [(0x40, 4)], .always,
   [⟨"TIME", 0, 32, .ro, 0x0, .im⟩]⟩,
  ⟨"TIM_TB_SEC_LO", 0x4, [(0x40, 4)], .always,
   [⟨"TIME", 0, 32, .ro, 0x0, .im⟩]⟩,
  ⟨"TIM_TB_SEC_HI", 0x8, [(0x40, 4)], .always,
   [⟨"TIME", 0, 32, .ro, 0x0, .im⟩]⟩,
  ⟨"TIM_TB_RATE", 0xC, [(0x40, 4)], .always,
   [⟨"RATE", 0, 32, .rw, 0x0, .im⟩]⟩,
  ⟨"TIM_TB_STEP_NS", 0x10, [(0x40, 4)], .always,
   [⟨"OFFSET", 0, 32, .rw, 0x0, .im⟩]⟩,
  ⟨"TIM_TB_STEP_SEC_LO", 0x14, [(0x40, 4)], .always,
   [⟨"OFFSET", 0, 32, .rw, 0x0, .im⟩]⟩,
  ⟨"TIM_TB_STEP_SEC_HI", 0x18, [(0x40, 4)], .always,
   [⟨"OFFSET", 0, 32, .rw, 0x0, .im⟩]⟩,
  ⟨"TIM_TB_CTL", 0x1C, [(0x40, 4)], .always,
   [⟨"STEP", 0, 1, .sc, 0x0, .im⟩, ⟨"ARM", 1, 1, .sc, 0x0, .im⟩]⟩,
  ⟨"TIM_TB_STAT", 0x20, [(0x40, 4)], .always,
   [⟨"STATE", 0, 3, .ro, 0x0, .im⟩, ⟨"STEPPED", 3, 1, .ro, 0x0, .im⟩, ⟨"STEP_REFUSED", 4, 1, .w1c, 0x0, .im⟩, ⟨"VALID", 5, 1, .ro, 0x0, .im⟩, ⟨"SERVO_OWNED", 6, 1, .ro, 0x0, .im⟩]⟩,
  ⟨"TIM_TB0_CFG", 0x100, [], .always,
   [⟨"PRIO", 0, 8, .rw, 0x80, .cb⟩, ⟨"SERVO", 8, 1, .rw, 0x1, .cb⟩, ⟨"OFFSET_MAX", 16, 16, .rw, 0x3E8, .cb⟩]⟩,
  ⟨"TIM_TB1_CFG", 0x104, [], .always,
   [⟨"SRC", 0, 1, .rw, 0x0, .cb⟩, ⟨"PRIO", 1, 8, .rw, 0x80, .cb⟩, ⟨"REF_OK", 9, 1, .rw, 0x0, .im⟩]⟩,
  ⟨"TIM_CYCLE_CFG", 0x108, [], .always,
   [⟨"LEN", 0, 3, .rw, 0x1, .cb⟩]⟩,
  ⟨"TIM_TB0_SYNC", 0x10C, [], .always,
   [⟨"MASTER", 0, 8, .ro, 0x0, .im⟩, ⟨"MASTER_SIDE", 8, 1, .ro, 0x0, .im⟩, ⟨"UPSTREAM", 9, 1, .ro, 0x0, .im⟩, ⟨"HOPS", 16, 8, .ro, 0x0, .im⟩]⟩,
  ⟨"TIM_TB0_OFFSET", 0x110, [], .always,
   [⟨"O", 0, 32, .ro, 0x0, .im⟩]⟩,
  ⟨"TIM_PORT_DELAY", 0x120, [(0x8, 2)], .always,
   [⟨"VALUE", 0, 32, .ro, 0x0, .im⟩]⟩,
  ⟨"TIM_PORT_ASYM", 0x124, [(0x8, 2)], .always,
   [⟨"VALUE", 0, 32, .rw, 0x0, .im⟩]⟩,
  ⟨"TIM_PTP_EN", 0x140, [(0x4, 3)], .always,
   [⟨"PORTS", 0, 32, .rw, 0x0, .fb⟩]⟩,
  ⟨"TIM_PTP_TS2", 0x150, [(0x4, 3)], .always,
   [⟨"PORTS", 0, 32, .rw, 0x0, .fb⟩]⟩,
  ⟨"TIM_NOTE_CFG", 0x160, [], .always,
   [⟨"QUEUE", 0, 8, .rw, 0x0, .im⟩, ⟨"PRIO", 8, 3, .rw, 0x0, .im⟩]⟩,
  ⟨"TIM_TRG_CFG", 0x1000, [(0x20, 64)], .always,
   [⟨"BASE", 0, 2, .rw, 0x0, .im⟩, ⟨"MODE", 2, 2, .rw, 0x0, .im⟩, ⟨"OUT", 4, 3, .rw, 0x0, .im⟩, ⟨"GIO", 7, 8, .rw, 0x0, .im⟩, ⟨"EN", 15, 1, .rw, 0x0, .im⟩]⟩,
  ⟨"TIM_TRG_CMP_NS", 0x1004, [(0x20, 64)], .always,
   [⟨"CMP", 0, 32, .rw, 0x0, .im⟩]⟩,
  ⟨"TIM_TRG_CMP_SEC_LO", 0x1008, [(0x20, 64)], .always,
   [⟨"CMP", 0, 32, .rw, 0x0, .im⟩]⟩,
  ⟨"TIM_TRG_CMP_SEC_HI", 0x100C, [(0x20, 64)], .always,
   [⟨"CMP", 0, 32, .rw, 0x0, .im⟩]⟩,
  ⟨"TIM_TRG_PER_NS", 0x1010, [(0x20, 64)], .always,
   [⟨"PER", 0, 32, .rw, 0x0, .im⟩]⟩]

/-- Registers of the TIM unit (R292). -/
def regsTIMb : List RegDef := [
  ⟨"TIM_TRG_PER_SUB", 0x1014, [(0x20, 64)], .always,
   [⟨"PER", 0, 32, .rw, 0x0, .im⟩]⟩,
  ⟨"TIM_TRG_STAT", 0x1018, [(0x20, 64)], .always,
   [⟨"ARMED", 0, 1, .ro, 0x0, .im⟩, ⟨"LATE", 1, 1, .w1c, 0x0, .im⟩, ⟨"FIRED", 16, 16, .ro, 0x0, .im⟩]⟩,
  ⟨"TIM_TRG_MISSED", 0x101C, [(0x20, 64)], .always,
   [⟨"COUNT", 0, 32, .cnt, 0x0, .im⟩]⟩,
  ⟨"TIM_CAP_CFG", 0x2000, [(0x80, 64)], .always,
   [⟨"BASE", 0, 2, .rw, 0x0, .im⟩, ⟨"EN", 2, 1, .rw, 0x0, .im⟩, ⟨"EDGE", 3, 2, .rw, 0x0, .im⟩, ⟨"SRC", 5, 1, .rw, 0x0, .im⟩, ⟨"INDEX", 6, 8, .rw, 0x0, .im⟩, ⟨"NOTE", 14, 1, .rw, 0x0, .im⟩, ⟨"WIN_EN", 15, 1, .rw, 0x0, .im⟩]⟩,
  ⟨"TIM_CAP_OPEN", 0x2004, [(0x80, 64), (0x4, 3)], .always,
   [⟨"TIME", 0, 32, .rw, 0x0, .im⟩]⟩,
  ⟨"TIM_CAP_CLOSE", 0x2010, [(0x80, 64), (0x4, 3)], .always,
   [⟨"TIME", 0, 32, .rw, 0x0, .im⟩]⟩,
  ⟨"TIM_CAP_STAT", 0x201C, [(0x80, 64)], .always,
   [⟨"WR", 0, 2, .ro, 0x0, .im⟩, ⟨"SEQ", 16, 16, .ro, 0x0, .im⟩]⟩,
  ⟨"TIM_CAP_OUTWIN", 0x2020, [(0x80, 64)], .always,
   [⟨"COUNT", 0, 32, .cnt, 0x0, .im⟩]⟩,
  ⟨"TIM_CAP_SLOT", 0x2040, [(0x80, 64), (0x10, 4), (0x4, 3)], .always,
   [⟨"TIME", 0, 32, .ro, 0x0, .im⟩]⟩,
  ⟨"TIM_CAP_SLOT_TAG", 0x204C, [(0x80, 64), (0x10, 4)], .always,
   [⟨"RISE", 0, 1, .ro, 0x0, .im⟩, ⟨"SEQ", 16, 16, .ro, 0x0, .im⟩]⟩]

/-- Registers of the CIP unit (R317). -/
def regsCIPa : List RegDef := [
  ⟨"CIP_CFG", 0x0, [], .always,
   [⟨"DUMMY", 0, 2, .rw, 0x1, .cb⟩, ⟨"SHUFFLE_OFF", 2, 1, .rw, 0x0, .cb⟩]⟩,
  ⟨"CIP_CTL", 0x4, [], .always,
   [⟨"CACHE_FLUSH", 0, 1, .sc, 0x0, .im⟩, ⟨"LGEN_NEXT", 1, 1, .sc, 0x0, .im⟩]⟩,
  ⟨"CIP_STAT", 0x8, [], .always,
   [⟨"RING_OK", 0, 1, .ro, 0x0, .im⟩, ⟨"KEYREG_LIVE", 1, 1, .ro, 0x0, .im⟩, ⟨"HOLD_FREE", 2, 3, .ro, 0x4, .im⟩, ⟨"CACHE", 5, 9, .ro, 0x0, .im⟩]⟩,
  ⟨"CIP_DONE", 0xC, [], .always,
   [⟨"DONE", 0, 16, .w1c, 0x0, .im⟩]⟩,
  ⟨"CIP_RING_GEN", 0x10, [], .always,
   [⟨"GEN", 0, 32, .rw, 0x0, .cb⟩]⟩,
  ⟨"CIP_LGEN", 0x14, [], .always,
   [⟨"LGEN", 0, 28, .ro, 0x0, .im⟩]⟩,
  ⟨"CIP_TAG_FAIL", 0x40, [], .always,
   [⟨"COUNT", 0, 32, .cnt, 0x0, .im⟩]⟩,
  ⟨"CIP_PAD_ERR", 0x44, [], .always,
   [⟨"COUNT", 0, 32, .cnt, 0x0, .im⟩]⟩,
  ⟨"CIP_DERIVE", 0x48, [], .always,
   [⟨"COUNT", 0, 32, .cnt, 0x0, .im⟩]⟩,
  ⟨"CIP_NONCE_STALL", 0x4C, [], .always,
   [⟨"COUNT", 0, 32, .cnt, 0x0, .im⟩]⟩,
  ⟨"CIP_NONCE_REC", 0x50, [], .always,
   [⟨"COUNT", 0, 32, .cnt, 0x0, .im⟩]⟩,
  ⟨"CIP_RING_WAIT", 0x54, [], .always,
   [⟨"COUNT", 0, 32, .cnt, 0x0, .im⟩]⟩,
  ⟨"CIP_NCTR_LO", 0x100, [(0x10, 18)], .always,
   [⟨"VALUE", 0, 32, .ro, 0x0, .im⟩]⟩,
  ⟨"CIP_NCTR_HI", 0x104, [(0x10, 18)], .always,
   [⟨"VALUE", 0, 32, .ro, 0x0, .im⟩]⟩,
  ⟨"CIP_NLIM_LO", 0x108, [(0x10, 18)], .always,
   [⟨"VALUE", 0, 32, .ro, 0x0, .im⟩]⟩,
  ⟨"CIP_NLIM_HI", 0x10C, [(0x10, 18)], .always,
   [⟨"VALUE", 0, 32, .ro, 0x0, .im⟩]⟩,
  ⟨"CIP_KEYREG", 0x400, [(0x20, 8), (0x4, 8)], .always,
   [⟨"KEY", 0, 32, .wo, 0x0, .im⟩]⟩,
  ⟨"CIP_D_CTL", 0x1000, [(0x40, 16)], .always,
   [⟨"OP", 0, 4, .rw, 0x0, .im⟩, ⟨"KSIZE", 4, 2, .rw, 0x0, .im⟩, ⟨"KSRC", 6, 3, .rw, 0x0, .im⟩, ⟨"KREG", 9, 3, .rw, 0x0, .im⟩, ⟨"PAD", 12, 2, .rw, 0x0, .im⟩, ⟨"NCTX", 14, 4, .rw, 0x0, .im⟩, ⟨"TAGLEN", 18, 5, .rw, 0x0, .im⟩, ⟨"SRC_KIND", 23, 2, .rw, 0x0, .im⟩, ⟨"DST_KIND", 25, 2, .rw, 0x0, .im⟩, ⟨"IV_RAND", 27, 1, .rw, 0x0, .im⟩, ⟨"GO", 31, 1, .sc, 0x0, .im⟩]⟩,
  ⟨"CIP_D_SRC", 0x1004, [(0x40, 16)], .always,
   [⟨"SRC", 0, 32, .rw, 0x0, .im⟩]⟩,
  ⟨"CIP_D_DST", 0x1008, [(0x40, 16)], .always,
   [⟨"DST", 0, 32, .rw, 0x0, .im⟩]⟩,
  ⟨"CIP_D_LEN", 0x100C, [(0x40, 16)], .always,
   [⟨"LEN", 0, 22, .rw, 0x0, .im⟩, ⟨"SKIP", 22, 5, .rw, 0x0, .im⟩]⟩,
  ⟨"CIP_D_AAD", 0x1010, [(0x40, 16)], .always,
   [⟨"AAD", 0, 32, .rw, 0x0, .im⟩]⟩,
  ⟨"CIP_D_AADLEN", 0x1014, [(0x40, 16)], .always,
   [⟨"AADLEN", 0, 11, .rw, 0x0, .im⟩]⟩,
  ⟨"CIP_D_LABEL", 0x1018, [(0x40, 16)], .always,
   [⟨"LABEL", 0, 32, .rw, 0x0, .im⟩]⟩]

/-- Registers of the CIP unit (R317). -/
def regsCIPb : List RegDef := [
  ⟨"CIP_D_CTX", 0x101C, [(0x40, 16), (0x4, 4)], .always,
   [⟨"CTX", 0, 32, .rw, 0x0, .im⟩]⟩,
  ⟨"CIP_D_IV", 0x102C, [(0x40, 16), (0x4, 4)], .always,
   [⟨"IV", 0, 32, .rw, 0x0, .im⟩]⟩,
  ⟨"CIP_D_STAT", 0x103C, [(0x40, 16)], .always,
   [⟨"STATE", 0, 3, .ro, 0x0, .im⟩, ⟨"RESULT", 4, 4, .ro, 0x0, .im⟩, ⟨"DONE64", 8, 6, .ro, 0x0, .im⟩, ⟨"PADBYTES", 14, 5, .ro, 0x0, .im⟩]⟩]

/-- Registers of the TWN unit (R337). -/
def regsTWN : List RegDef := [
  ⟨"TWN_CFG", 0x0, [], .always,
   [⟨"PAIR", 0, 1, .rw, 0x0, .im⟩, ⟨"COLD_EN", 1, 1, .rw, 0x1, .im⟩, ⟨"HB_CYCLES", 8, 8, .rw, 0x64, .cb⟩, ⟨"SOLO_WAIT_MS", 16, 16, .rw, 0x1F4, .im⟩]⟩,
  ⟨"TWN_ESSENTIAL", 0x4, [], .always,
   [⟨"UNITS", 0, 17, .lk, 0x49FE, .im⟩, ⟨"RING_ISOLATED", 17, 1, .lk, 0x1, .im⟩, ⟨"PFAIL", 18, 1, .lk, 0x1, .im⟩]⟩,
  ⟨"TWN_CTL", 0x8, [], .always,
   [⟨"HANDOVER", 0, 1, .sc, 0x0, .im⟩, ⟨"RESYNC", 1, 1, .sc, 0x0, .im⟩, ⟨"HB", 2, 1, .sc, 0x0, .im⟩]⟩,
  ⟨"TWN_STAT", 0xC, [], .always,
   [⟨"ROLE", 0, 2, .ro, 0x3, .im⟩, ⟨"PEER_ROLE", 2, 2, .ro, 0x3, .im⟩, ⟨"LINK_UP", 4, 1, .ro, 0x0, .im⟩, ⟨"CLAIM", 5, 1, .ro, 0x0, .im⟩, ⟨"PEER", 6, 1, .ro, 0x0, .im⟩, ⟨"OE", 7, 1, .ro, 0x0, .im⟩, ⟨"RESYNC_BUSY", 8, 1, .ro, 0x0, .im⟩, ⟨"SW_INHIBIT", 9, 1, .ro, 0x0, .im⟩, ⟨"REFUSE_REASON", 10, 3, .ro, 0x0, .im⟩, ⟨"REFUSED", 13, 1, .w1c, 0x0, .im⟩, ⟨"SCHEMA", 16, 8, .ro, 0x0, .im⟩, ⟨"PEER_SCHEMA", 24, 8, .ro, 0x0, .im⟩]⟩,
  ⟨"TWN_CYCLE", 0x10, [], .always,
   [⟨"SENT", 0, 16, .ro, 0x0, .im⟩, ⟨"ACKED", 16, 16, .ro, 0x0, .im⟩]⟩,
  ⟨"TWN_DELTA_BYTES", 0x14, [], .always,
   [⟨"BYTES", 0, 18, .ro, 0x0, .im⟩]⟩,
  ⟨"TWN_DELTA_PEAK", 0x18, [], .always,
   [⟨"BYTES", 0, 18, .cnt, 0x0, .im⟩]⟩,
  ⟨"TWN_LAST_SWITCH", 0x1C, [], .always,
   [⟨"REASON", 0, 3, .ro, 0x0, .im⟩, ⟨"CYCLE", 16, 16, .ro, 0x0, .im⟩]⟩,
  ⟨"TWN_SWITCHOVERS", 0x100, [], .always,
   [⟨"COUNT", 0, 32, .cnt, 0x0, .im⟩]⟩,
  ⟨"TWN_OVER_BUDGET", 0x104, [], .always,
   [⟨"COUNT", 0, 32, .cnt, 0x0, .im⟩]⟩,
  ⟨"TWN_RESYNCS", 0x108, [], .always,
   [⟨"COUNT", 0, 32, .cnt, 0x0, .im⟩]⟩,
  ⟨"TWN_DELTA_LOST", 0x10C, [], .always,
   [⟨"COUNT", 0, 32, .cnt, 0x0, .im⟩]⟩,
  ⟨"TWN_DEPART_MISS", 0x110, [], .always,
   [⟨"COUNT", 0, 32, .cnt, 0x0, .im⟩]⟩,
  ⟨"TWN_CLAIM_YIELD", 0x114, [], .always,
   [⟨"COUNT", 0, 32, .cnt, 0x0, .im⟩]⟩,
  ⟨"TWN_HANDOVER_WAIT", 0x118, [], .always,
   [⟨"COUNT", 0, 32, .cnt, 0x0, .im⟩]⟩,
  ⟨"TWN_PEER_PIN_FAULT", 0x11C, [], .always,
   [⟨"COUNT", 0, 32, .cnt, 0x0, .im⟩]⟩]

/-- Registers of the PWR unit (R360). -/
def regsPWR : List RegDef := [
  ⟨"PWR_CFG", 0x0, [], .always,
   [⟨"STAGGER_MS", 0, 10, .rw, 0xC8, .cb⟩, ⟨"PFW_LEAD_MS", 10, 8, .rw, 0xA, .cb⟩]⟩,
  ⟨"PWR_VIN_CFG", 0x4, [], .always,
   [⟨"UV_WARN", 0, 10, .rw, 0x186, .cb⟩, ⟨"UV_OFF", 10, 10, .rw, 0x168, .cb⟩, ⟨"OV", 20, 10, .rw, 0x26C, .cb⟩]⟩,
  ⟨"PWR_VIN_FS", 0x8, [], .always,
   [⟨"VIN_FS", 0, 16, .rw, 0x1998, .cb⟩]⟩,
  ⟨"PWR_BUDGET", 0xC, [], .always,
   [⟨"BUDGET_W", 0, 16, .rw, 0x0, .cb⟩, ⟨"HYST_W", 16, 16, .rw, 0x32, .cb⟩]⟩,
  ⟨"PWR_SYNC_CFG", 0x10, [], .always,
   [⟨"SYNC_EN", 0, 1, .rw, 0x0, .cb⟩, ⟨"TRIG", 1, 6, .rw, 0x0, .cb⟩]⟩,
  ⟨"PWR_EVT_CFG", 0x14, [], .always,
   [⟨"QUEUE", 0, 8, .rw, 0x0, .im⟩, ⟨"PRIO", 8, 3, .rw, 0x0, .im⟩, ⟨"EN", 11, 1, .rw, 0x0, .im⟩]⟩,
  ⟨"PWR_STAT", 0x20, [], .always,
   [⟨"VIN_STATE", 0, 2, .ro, 0x0, .im⟩, ⟨"NVM_INHIBIT", 2, 1, .ro, 0x0, .im⟩, ⟨"PFAIL", 3, 1, .ro, 0x0, .im⟩, ⟨"SELF_SEATED", 4, 1, .ro, 0x0, .im⟩, ⟨"SHED_PENDING", 5, 1, .ro, 0x0, .im⟩, ⟨"SYNC_LATE", 6, 1, .w1c, 0x0, .im⟩]⟩,
  ⟨"PWR_VIN", 0x24, [], .always,
   [⟨"VALUE", 0, 32, .ro, 0x0, .im⟩]⟩,
  ⟨"PWR_PSUM", 0x28, [], .always,
   [⟨"VALUE", 0, 32, .ro, 0x0, .im⟩]⟩,
  ⟨"PWR_SNAP_TIME", 0x40, [(0x4, 3)], .always,
   [⟨"TIME", 0, 32, .ro, 0x0, .im⟩]⟩,
  ⟨"PWR_SNAP", 0x50, [(0x4, 25)], .always,
   [⟨"CODE", 0, 16, .ro, 0x0, .im⟩]⟩,
  ⟨"PWR_SLOT_CFG", 0x100, [(0x40, 12)], .slot,
   [⟨"EN", 0, 1, .rw, 0x0, .cb⟩, ⟨"AUTO_ON", 1, 1, .rw, 0x1, .cb⟩, ⟨"PRIO", 2, 3, .rw, 0x4, .cb⟩, ⟨"I_CB", 5, 8, .rw, 0x28, .cb⟩, ⟨"T_FLT", 13, 8, .rw, 0x32, .cb⟩, ⟨"RETRY_MAX", 21, 8, .rw, 0x8, .cb⟩]⟩,
  ⟨"PWR_SLOT_TIME", 0x104, [(0x40, 12)], .slot,
   [⟨"PRECHARGE_MS", 0, 11, .rw, 0xC8, .cb⟩, ⟨"RAMP_MS", 11, 7, .rw, 0x5, .cb⟩]⟩,
  ⟨"PWR_SLOT_SCALE", 0x108, [(0x40, 12)], .slot,
   [⟨"ISNS_FS", 0, 16, .rw, 0x1770, .cb⟩, ⟨"VSNS_FS", 16, 16, .rw, 0x1998, .cb⟩]⟩,
  ⟨"PWR_SLOT_CTL", 0x10C, [(0x40, 12)], .slot,
   [⟨"ON", 0, 1, .sc, 0x0, .im⟩, ⟨"OFF", 1, 1, .sc, 0x0, .im⟩]⟩,
  ⟨"PWR_SLOT_STAT", 0x110, [(0x40, 12)], .slot,
   [⟨"STATE", 0, 4, .ro, 0x0, .im⟩, ⟨"REASON", 4, 4, .ro, 0x0, .im⟩, ⟨"RETRIES", 8, 8, .ro, 0x0, .im⟩, ⟨"PG", 16, 1, .ro, 0x0, .im⟩, ⟨"PFW", 17, 1, .ro, 0x0, .im⟩, ⟨"SEATED", 18, 1, .ro, 0x0, .im⟩, ⟨"GEN", 19, 1, .ro, 0x0, .im⟩, ⟨"PCH", 20, 1, .ro, 0x0, .im⟩]⟩,
  ⟨"PWR_SLOT_V", 0x114, [(0x40, 12)], .slot,
   [⟨"VALUE", 0, 32, .ro, 0x0, .im⟩]⟩,
  ⟨"PWR_SLOT_I", 0x118, [(0x40, 12)], .slot,
   [⟨"VALUE", 0, 32, .ro, 0x0, .im⟩]⟩,
  ⟨"PWR_SLOT_P", 0x11C, [(0x40, 12)], .slot,
   [⟨"VALUE", 0, 32, .ro, 0x0, .im⟩]⟩,
  ⟨"PWR_SLOT_WAIT", 0x128, [(0x40, 12)], .slot,
   [⟨"VALUE", 0, 32, .ro, 0x0, .im⟩]⟩,
  ⟨"PWR_SLOT_E_LO", 0x120, [(0x40, 12)], .slot,
   [⟨"COUNT", 0, 32, .cnt, 0x0, .im⟩]⟩,
  ⟨"PWR_SLOT_E_HI", 0x124, [(0x40, 12)], .slot,
   [⟨"COUNT", 0, 32, .cnt, 0x0, .im⟩]⟩,
  ⟨"PWR_SLOT_TRIPS", 0x12C, [(0x40, 12)], .slot,
   [⟨"COUNT", 0, 32, .cnt, 0x0, .im⟩]⟩,
  ⟨"PWR_SLOT_SHEDS", 0x130, [(0x40, 12)], .slot,
   [⟨"COUNT", 0, 32, .cnt, 0x0, .im⟩]⟩]

/-- Registers of the FLT unit (R373). -/
def regsFLT : List RegDef := [
  ⟨"FLT_CFG", 0x0, [], .always,
   [⟨"ERR_CLASS", 0, 2, .rw, 0x1, .im⟩, ⟨"AUTO_HOLD", 2, 1, .rw, 0x0, .im⟩, ⟨"QUEUE", 3, 8, .rw, 0x0, .im⟩, ⟨"Q_EN", 11, 1, .rw, 0x0, .im⟩, ⟨"PRIO_CORR", 12, 3, .rw, 0x0, .im⟩, ⟨"PRIO_CONT", 15, 3, .rw, 0x7, .im⟩, ⟨"CORR_HOLD_MS", 18, 10, .rw, 0x64, .im⟩, ⟨"NVM_CONT", 28, 1, .rw, 0x0, .im⟩]⟩,
  ⟨"FLT_ERR_HOLD", 0x4, [], .always,
   [⟨"HOLD", 0, 1, .rw, 0x0, .im⟩, ⟨"STICKY", 1, 1, .w1c, 0x0, .im⟩, ⟨"LOW", 2, 1, .ro, 0x0, .im⟩]⟩,
  ⟨"FLT_LOG_STAT", 0x8, [], .always,
   [⟨"WR_IDX", 0, 7, .ro, 0x0, .im⟩, ⟨"LF_PENDING", 8, 1, .ro, 0x0, .im⟩]⟩,
  ⟨"FLT_TOTAL", 0xC, [], .always,
   [⟨"COUNT", 0, 32, .cnt, 0x0, .im⟩]⟩,
  ⟨"FLT_SUPPRESSED", 0x10, [], .always,
   [⟨"COUNT", 0, 32, .cnt, 0x0, .im⟩]⟩,
  ⟨"FLT_CLASS_CNT", 0x14, [(0x4, 3)], .always,
   [⟨"COUNT", 0, 32, .cnt, 0x0, .im⟩]⟩,
  ⟨"FLT_LAST_FATAL", 0x20, [(0x4, 8)], .always,
   [⟨"WORD", 0, 32, .ro, 0x0, .im⟩]⟩,
  ⟨"FLT_UNIT_CFG", 0x100, [(0x4, 17)], .always,
   [⟨"REACT", 0, 2, .lk, 0x2, .im⟩]⟩,
  ⟨"FLT_UNIT_CNT", 0x180, [(0x4, 17)], .always,
   [⟨"COUNT", 0, 32, .cnt, 0x0, .im⟩]⟩,
  ⟨"FLT_INJ_CTL", 0xF00, [], .always,
   [⟨"CODE", 0, 8, .rw, 0x0, .im⟩, ⟨"UNIT", 8, 5, .rw, 0x0, .im⟩, ⟨"ECC_MODE", 13, 1, .rw, 0x0, .im⟩, ⟨"GO", 31, 1, .sc, 0x0, .im⟩]⟩,
  ⟨"FLT_INJ_INFO", 0xF04, [(0x4, 2)], .always,
   [⟨"INFO", 0, 32, .rw, 0x0, .im⟩]⟩]

/-- Registers of the PIN unit (R269). -/
def regsPIN : List RegDef := [
  ⟨"PIN_BANK_STAT", 0x0, [(0x4, 6)], .always,
   [⟨"PRESENT", 0, 1, .ro, 0x0, .im⟩, ⟨"V33", 1, 1, .ro, 0x0, .im⟩]⟩,
  ⟨"PIN_GIO_CFG", 0x100, [(0x4, 192)], .always,
   [⟨"MODE", 0, 2, .rw, 0x0, .cb⟩, ⟨"INV", 2, 1, .rw, 0x0, .cb⟩, ⟨"PULL_EN", 3, 1, .rw, 0x0, .cb⟩, ⟨"PULL_UP", 4, 1, .rw, 0x0, .cb⟩, ⟨"OWNER", 5, 1, .rw, 0x0, .cb⟩, ⟨"ENGINE", 6, 6, .rw, 0x0, .cb⟩]⟩,
  ⟨"PIN_OUT", 0x400, [(0x4, 6)], .always,
   [⟨"PINS", 0, 32, .rw, 0x0, .im⟩]⟩,
  ⟨"PIN_SET", 0x420, [(0x4, 6)], .always,
   [⟨"PINS", 0, 32, .wo, 0x0, .im⟩]⟩,
  ⟨"PIN_CLR", 0x440, [(0x4, 6)], .always,
   [⟨"PINS", 0, 32, .wo, 0x0, .im⟩]⟩,
  ⟨"PIN_TGL", 0x460, [(0x4, 6)], .always,
   [⟨"PINS", 0, 32, .wo, 0x0, .im⟩]⟩,
  ⟨"PIN_IN", 0x480, [(0x4, 6)], .always,
   [⟨"PINS", 0, 32, .ro, 0x0, .im⟩]⟩]

/-- Registers of the I2B unit (R68). -/
def regsI2B : List RegDef := [
  ⟨"I2B_BUS_CFG", 0x0, [(0x4, 16)], .always,
   [⟨"SPEED", 0, 2, .rw, 0x0, .cb⟩, ⟨"STRETCH_MAX", 8, 8, .rw, 0x64, .cb⟩, ⟨"EN", 16, 1, .rw, 0x1, .cb⟩]⟩,
  ⟨"I2B_MDIO_CFG", 0x40, [], .always,
   [⟨"DIV0", 0, 8, .rw, 0x59, .cb⟩, ⟨"DIV1", 8, 8, .rw, 0x59, .cb⟩]⟩,
  ⟨"I2B_STAT", 0x44, [], .always,
   [⟨"I2C_BUSY", 0, 16, .ro, 0x0, .im⟩, ⟨"MDIO_BUSY", 16, 2, .ro, 0x0, .im⟩]⟩,
  ⟨"I2B_NACK_CNT", 0x48, [], .always,
   [⟨"COUNT", 0, 32, .cnt, 0x0, .im⟩]⟩,
  ⟨"I2B_STRETCH_CNT", 0x4C, [], .always,
   [⟨"COUNT", 0, 32, .cnt, 0x0, .im⟩]⟩,
  ⟨"I2B_ARB_CNT", 0x50, [], .always,
   [⟨"COUNT", 0, 32, .cnt, 0x0, .im⟩]⟩]

/-- The registers of unit `u`. -/
def regsOf (u : Nat) : List RegDef :=
  match u with
  | 0 => regsSYSa ++ regsSYSb
  | 1 => regsPLZa ++ regsPLZb
  | 2 => regsRNGa ++ regsRNGb
  | 3 => regsACC
  | 4 => regsJCT
  | 5 => regsMQ
  | 6 => regsBUSa ++ regsBUSb
  | 7 => regsARC
  | 8 => regsTIMa ++ regsTIMb
  | 9 => regsCIPa ++ regsCIPb
  | 10 => regsTWN
  | 11 => regsPWR
  | 12 => regsFLT
  | 14 => regsPIN
  | 15 => regsI2B
  | _ => []

end Sys2Proof.Machine
end

