-- ==== Sys2Proof/Machine/Update.lean ====
section
/-! DEFINITION. Updates of one part of the state each: every other operation changes the state through these. -/

namespace Sys2Proof.Machine

def State.withPending (s : State) (x : List Instr) : State := { s with pending := x }

def State.withMono (s : State) (x : Nat) : State := { s with mono := x }

def State.withFresh (s : State) (x : Nat) : State := { s with fresh := x }

def State.withIdent (s : State) (x : Ident) : State := { s with ident := x }

def State.withDev (s : State) (x : Dev) : State := { s with dev := x }

def State.withPins (s : State) (x : Pins) : State := { s with pins := x }

def State.withAon (s : State) (x : Aon) : State := { s with aon := x }

def State.withRegs (s : State) (x : List (Nat × Word)) : State := { s with regs := x }

def State.withPendCb (s : State) (x : List CbWrite) : State := { s with pendCb := x }

def State.withPendFb (s : State) (x : List (Nat × (Word × Word))) : State := { s with pendFb := x }

def State.withPendMem (s : State) (x : List (Nat × Host.Cell)) : State := { s with pendMem := x }

def State.withMem (s : State) (x : List Host.Cell) : State := { s with mem := x }

def State.withTimers (s : State) (x : List (TimerId × Nat)) : State := { s with timers := x }

def State.withOuts (s : State) (x : List OutEvent) : State := { s with outs := x }

def State.withTime (s : State) (x : TimeSt) : State := { s with time := x }

def State.withRing (s : State) (x : Ring) : State := { s with ring := x }

def State.withPlaza (s : State) (x : Plaza) : State := { s with plaza := x }

def State.withJct (s : State) (x : Junction) : State := { s with jct := x }

def State.withQueues (s : State) (x : List (Nat × MQueue)) : State := { s with queues := x }

def State.withBus (s : State) (x : List (Nat × BusCh)) : State := { s with bus := x }

def State.withEngines (s : State) (x : List (Nat × Engine)) : State := { s with engines := x }

def State.withTxn (s : State) (x : Txn) : State := { s with txn := x }

def State.withDrains (s : State) (x : List Drain) : State := { s with drains := x }

def State.withCip (s : State) (x : Cipher) : State := { s with cip := x }

def State.withTwin (s : State) (x : Twin) : State := { s with twin := x }

def State.withPower (s : State) (x : Power) : State := { s with power := x }

def State.withFlt (s : State) (x : FaultSt) : State := { s with flt := x }

def State.withOdw (s : State) (x : Odw) : State := { s with odw := x }

def State.withUpd (s : State) (x : Update) : State := { s with upd := x }

end Sys2Proof.Machine
end

