-- ==== Sys2Proof/Machine/Ops.lean ====
section
/-! DEFINITION. The named operations over registers, window memory, timers, time and outputs that every command uses. -/

namespace Sys2Proof.Machine

/-! ### Keyed lists -/

/-- The value listed first under key `k`. -/
def assoc {α : Type} (k : Nat) : List (Nat × α) → Option α
  | [] => none
  | (j, v) :: t => if j = k then some v else assoc k t

/-- `l` with `v` under key `k`; an ascending list stays ascending. -/
def put {α : Type} (k : Nat) (v : α) : List (Nat × α) → List (Nat × α)
  | [] => [(k, v)]
  | (j, w) :: t =>
    if j = k then (k, v) :: t else if k < j then (k, v) :: (j, w) :: t else (j, w) :: put k v t

/-- `l` with nothing under key `k`. -/
def erase {α : Type} (k : Nat) (l : List (Nat × α)) : List (Nat × α) := l.filter (fun p => p.1 != k)

/-- The value first listed under a key of any type. -/
def lookupKey {κ α : Type} [DecidableEq κ] (k : κ) (l : List (κ × α)) : Option α :=
  (l.find? (fun p => decide (p.1 = k))).map Prod.snd

/-- `l` without what is listed under `k`. -/
def removeKey {κ α : Type} [DecidableEq κ] (k : κ) (l : List (κ × α)) : List (κ × α) :=
  l.filter (fun p => !decide (p.1 = k))

/-- `l` with `v` under `k` alone. -/
def replaceKey {κ α : Type} [DecidableEq κ] (k : κ) (v : α) (l : List (κ × α)) : List (κ × α) :=
  (k, v) :: removeKey k l

/-- A list with entry `i` replaced (no change past its end). -/
def setAt {α : Type} (l : List α) (i : Nat) (v : α) : List α := l.set i v

/-! ### Register words -/

/-- Units by their IDs (R33). -/
def unitSYS : Nat := 0x00
def unitPLZ : Nat := 0x01
def unitRNG : Nat := 0x02
def unitACC : Nat := 0x03
def unitJCT : Nat := 0x04
def unitMQ : Nat := 0x05
def unitBUS : Nat := 0x06
def unitARC : Nat := 0x07
def unitTIM : Nat := 0x08
def unitCIP : Nat := 0x09
def unitTWN : Nat := 0x0A
def unitPWR : Nat := 0x0B
def unitFLT : Nat := 0x0C
def unitNVM : Nat := 0x0D
def unitPIN : Nat := 0x0E
def unitI2B : Nat := 0x0F
def unitODW : Nat := 0x10

/-- The key of offset `off` of unit `u` in the register file and in window memory. -/
def keyOf (u off : Nat) : Nat := u * 0x100000000 + off

/-- The unit a key belongs to. -/
def unitOfKey (k : Nat) : Nat := k / 0x100000000

/-- The offset of a key within its unit. -/
def offOfKey (k : Nat) : Nat := k % 0x100000000

/-- The part's instance counts (R1). -/
def Variant.accLanes : Variant → Nat
  | .gk7216 => 24 | .gk7212 => 16 | .gk7208 => 8
def Variant.accPorts (v : Variant) : Nat := 4 * v.accLanes
def Variant.busChannels : Variant → Nat
  | .gk7216 => 16 | .gk7212 => 8 | .gk7208 => 4
def Variant.busPriv : Variant → Nat
  | .gk7216 => 2 | .gk7212 => 1 | .gk7208 => 1
def Variant.arcades : Variant → Nat
  | .gk7216 => 8 | .gk7212 => 4 | .gk7208 => 2
def Variant.engines (v : Variant) : Nat := 8 * v.arcades
def Variant.slots : Variant → Nat
  | .gk7216 => 12 | .gk7212 => 12 | .gk7208 => 4
def Variant.cells : Variant → Nat
  | .gk7216 => 65536 | .gk7212 => 65536 | .gk7208 => 32768
def Variant.hasCip : Variant → Bool
  | .gk7216 => true | .gk7212 => false | .gk7208 => false
def Variant.hasTwn : Variant → Bool
  | .gk7216 => true | .gk7212 => true | .gk7208 => false
/-- SYS_ID.VARIANT (R83). -/
def Variant.code : Variant → Nat
  | .gk7216 => 0x16 | .gk7212 => 0x12 | .gk7208 => 0x08

/-- Whether unit `u` is absent from the part (R1, R2). -/
def unitAbsent (v : Variant) (u : Nat) : Bool :=
  (u = unitCIP && !v.hasCip) || (u = unitTWN && !v.hasTwn) || decide (0x10 < u)

/-- Whether the part has the instance of a register that its first index names (R1, R2). -/
def presentInst (v : Variant) (p : Pres) (idx : List Nat) : Bool :=
  let i := idx.headD 0
  match p with
  | .always => true
  | .ringPort => decide (i < 2) || v.hasTwn
  | .ringLane => decide (i < 4) || v.hasTwn
  | .accLane => decide (i < v.accLanes)
  | .accPort => decide (i < v.accPorts)
  | .busCh => decide (i < v.busChannels)
  | .busPriv => decide (i < v.busPriv)
  | .engine => decide (i < v.engines)
  | .arcade => decide (i < v.arcades)
  | .slot => decide (i < v.slots)

/-- The indices by which strides and counts reach distance `rest`, if they do. -/
def matchDims : List (Nat × Nat) → Nat → Option (List Nat)
  | [], rest => if rest = 0 then some [] else none
  | (stride, count) :: ds, rest =>
    let i := rest / stride
    if i < count then (matchDims ds (rest - i * stride)).map (i :: ·) else none

/-- The indices by which offset `off` names register `d`, if it does. -/
def RegDef.indexOf (d : RegDef) (off : Nat) : Option (List Nat) :=
  if d.base ≤ off then matchDims d.dims (off - d.base) else none

/-- The first register of a map that an offset names. -/
def findReg : List RegDef → Nat → Option (RegDef × List Nat)
  | [], _ => none
  | d :: ds, off =>
    match d.indexOf off with
    | some idx => some (d, idx)
    | none => findReg ds off

/-- The register a key names. -/
def regAt (key : Nat) : Option (RegDef × List Nat) := findReg (regsOf (unitOfKey key)) (offOfKey key)

/-- A word with `width` bits from `lo` replaced by the low bits of `n`. -/
def insertBits (w lo width n : Nat) : Nat :=
  w % 2 ^ lo + (n % 2 ^ width) * 2 ^ lo + w / 2 ^ (lo + width) * 2 ^ (lo + width)

/-- The reset word that the table of a register gives. -/
def RegDef.resetWord (d : RegDef) : Nat :=
  d.fields.foldl (fun w f => insertBits w f.lo f.width f.reset) 0

/-- PORT, CLASS and EN of the fixed sub-queues 832–845 (`m` counts from 832): the two response sub-queues carry class 5
(R63), six East and six West those of added frames (R123, R145). -/
def fixedSubQueue (m : Nat) : Nat :=
  let port := if m < 2 then 96 + m else if m < 8 then 96 else 97
  let cls := if m < 2 then 5 else if m < 8 then m - 2 else m - 8
  port + 128 * cls + 1024

/-- Where an instance's reset word is not the one of its table: RNG_PORT2_CFG and ENC_OFFER without a cipher engine
(R107), the fixed sub-queues (R145) and the quanta of the classes (R172). -/
def resetOverride (v : Variant) (key w : Nat) : Nat :=
  if key = (F.RNG_PORT_CFG_MAX_RATE 2).key then insertBits (insertBits w 0 2 1) 3 1 0
  else if !v.hasCip && (key = (F.RNG_PORT_CFG_MAX_RATE 0).key || key = (F.RNG_PORT_CFG_MAX_RATE 1).key) then
    insertBits w 3 1 0
  else if (F.PLZ_SQ_CFG_PORT 0).key ≤ key ∧ key < (F.PLZ_SQ_CFG_PORT 14).key then
    fixedSubQueue ((key - (F.PLZ_SQ_CFG_PORT 0).key) / 4)
  else if (F.PLZ_CLASS_CFG_QUANTUM 0).key ≤ key ∧ key < (F.PLZ_CLASS_CFG_QUANTUM 6).key then
    let c := (key - (F.PLZ_CLASS_CFG_QUANTUM 0).key) / 4
    insertBits w 10 8 (if 4 ≤ c then 0x20 else if c = 3 then 0x10 else if c = 2 then 0x08 else 0x04)
  else w

/-- The word of a register before anything has written it. -/
def resetWord (v : Variant) (key : Nat) : Word :=
  match regAt key with
  | some (d, _) => BitVec.ofNat 32 (resetOverride v key d.resetWord)
  | none => 0

/-- The word held at a key of the register file. -/
def regWord (s : State) (key : Nat) : Word := (assoc key s.regs).getD (resetWord s.ident.variant key)

/-- The state with a word at a key of the register file. -/
def setWord (s : State) (key : Nat) (w : Word) : State := s.withRegs (put key w s.regs)

/-- The value of a field. -/
def getF (s : State) (f : Fld) : Nat := bitsAt (regWord s f.key).toNat f.lo f.width

/-- The state with a field at a value (taken modulo its width). -/
def setF (s : State) (f : Fld) (n : Nat) : State :=
  setWord s f.key (BitVec.ofNat 32 (insertBits (regWord s f.key).toNat f.lo f.width n))

/-- Whether a one-bit field is set. -/
def flag (s : State) (f : Fld) : Bool := getF s f = 1

/-- A one-bit field set or cleared. -/
def setFlag (s : State) (f : Fld) (b : Bool) : State := setF s f (bit01 b)

/-- A counter raised by `k`, modulo its width (R5). -/
def addF (s : State) (f : Fld) (k : Nat) : State := setF s f (getF s f + k)

/-- A counter raised by one. -/
def incF (s : State) (f : Fld) : State := addF s f 1

/-- A counter raised by one unless it is at its maximum. -/
def incSat (s : State) (f : Fld) : State :=
  if getF s f + 1 < 2 ^ f.width then setF s f (getF s f + 1) else s

/-- Bit `i` of a field. -/
def bitF (s : State) (f : Fld) (i : Nat) : Bool := bitAt (getF s f) i

/-- A number with bit `i` set or cleared. -/
def withBit (n i : Nat) (b : Bool) : Nat := insertBits n i 1 (bit01 b)

/-- The state with bit `i` of a field set or cleared. -/
def setBitF (s : State) (f : Fld) (i : Nat) (b : Bool) : State := setF s f (withBit (getF s f) i b)

/-- The words of `n` consecutive registers from a key as one number, the lowest first. -/
def getWords (s : State) (key : Nat) : Nat → Nat
  | 0 => 0
  | n + 1 => (regWord s key).toNat + 2 ^ 32 * getWords s (key + 4) n

/-- `n` consecutive registers from a key set from one number, the lowest first. -/
def setWords (s : State) (key : Nat) : Nat → Nat → State
  | 0, _ => s
  | n + 1, v => setWords (setWord s key (BitVec.ofNat 32 v)) (key + 4) n (v / 2 ^ 32)

/-! ### Window memory -/

/-- The canonical form of window memory: addresses strictly rising, no byte zero. -/
def Memory.wf : List Host.Cell → Bool
  | [] => true
  | (a, b) :: t => b != 0 && (match t with | [] => true | (a', _) :: _ => decide (a < a')) && Memory.wf t

/-- Memory with one byte written: a zero byte is not listed, as that is what an unlisted address reads (log entry 2). -/
def Memory.set (m : List Host.Cell) (a : Nat) (b : Byte) : List Host.Cell :=
  if b = 0 then erase a m else put a b m

/-- One byte of window memory. -/
def memByte (s : State) (a : Nat) : Byte := (assoc a s.mem).getD 0

/-- Memory with bytes written from `a`. -/
def Memory.write (m : List Host.Cell) (a : Nat) : List Byte → List Host.Cell
  | [] => m
  | b :: bs => Memory.write (Memory.set m a b) (a + 1) bs

/-- The key of word `i` of a unit's memory that has no window: unit numbers from 0x40 on stand for such memories (R361). -/
def hiddenKey (u i : Nat) : Nat := keyOf (0x40 + u) (4 * i)

/-- The unit to whose memories an address belongs; the management memories are those of SYS (R372). -/
def eccUnit (a : Nat) : Nat :=
  if unitOfKey a = 0x20 then 0 else if 0x40 ≤ unitOfKey a then unitOfKey a - 0x40 else unitOfKey a

/-- What a write of `n` bytes from `a` does to injected errors (R372): the words it covers carry none any more, and an
armed injection of their unit flips its bits in the first of them. Words are taken as 4 bytes (log entry 32). -/
def eccMark (f : FaultSt) (a n : Nat) : FaultSt :=
  if f.eccArm = [] ∧ f.eccWords = [] ∨ n = 0 then f
  else
    let kept := f.eccWords.filter (fun w => decide (w.1 < a / 4) || decide ((a + n - 1) / 4 < w.1))
    match assoc (eccUnit a) f.eccArm with
    | some flips => { f with eccArm := erase (eccUnit a) f.eccArm, eccWords := put (a / 4) flips kept }
    | none => { f with eccWords := kept }

/-- `n` bytes of window memory from `a`. -/
def memRead (s : State) (a : Nat) : Nat → List Byte
  | 0 => []
  | n + 1 => memByte s a :: memRead s (a + 1) n

/-- Bytes of window memory written from `a`. -/
def memWrite (s : State) (a : Nat) (bs : List Byte) : State :=
  (s.withMem (Memory.write s.mem a bs)).withFlt (eccMark s.flt a bs.length)

/-- The words with injected errors among `n` bytes from `a`. -/
def eccHits (s : State) (a n : Nat) : List (Nat × Nat) :=
  s.flt.eccWords.filter (fun w => decide (0 < n) && decide (a / 4 ≤ w.1) && decide (w.1 ≤ (a + n - 1) / 4))

/-- Four free bytes, which a word with two flipped bits holds (log entry 32). -/
def freeWord (s : State) (w : Nat) : List Byte :=
  [0, 1, 2, 3].map (fun i => BitVec.ofNat 8 (Config.freeValue ((s.fresh + 1) * 2 ^ 64 + 4 * w + i)).toNat)

/-- A read of `n` bytes from `a`, by an access or by the hardware itself, finds the words with injected errors among them
(R372): they are reported by `reportEcc`, and a word with two flipped bits is lost. -/
def eccTouch (s : State) (a n : Nat) : State :=
  let hits := eccHits s a n
  if hits = [] then s
  else
    let m := hits.foldl (fun m w => if w.2 < 2 ∨ 0x40 ≤ unitOfKey (4 * w.1) then m
      else Memory.write m (4 * w.1) (freeWord s w.1)) s.mem
    ((s.withMem m).withFresh (s.fresh + 1)).withFlt { s.flt with
      eccWords := s.flt.eccWords.filter (fun w => !hits.contains w), eccFound := s.flt.eccFound ++ hits }

/-- The reads of several ranges of window memory. -/
def touchAll (s : State) (rs : List (Nat × Nat)) : State := rs.foldl (fun t p => eccTouch t p.1 p.2) s

/-- A little-endian number of `n` bytes of window memory. -/
def memNat (s : State) (a n : Nat) : Nat := ofLe (memRead s a n)

/-- A little-endian number of `n` bytes written to window memory. -/
def memPut (s : State) (a n v : Nat) : State := memWrite s a (leBytes n v)

/-- A word of window memory. -/
def memWord (s : State) (a : Nat) : Nat := memNat s a 4

/-! ### Timers, outputs, free values -/

/-- 2 ns ticks in a microsecond and in a millisecond (log entry 10). -/
def ticksUs : Nat := 500
def ticksMs : Nat := 500000

/-- Start (or restart) a timer that is due `ticks` from now. -/
def startTimer (s : State) (id : TimerId) (ticks : Nat) : State :=
  s.withTimers (replaceKey id (s.mono + ticks) s.timers)

/-- Start a timer unless it already runs. -/
def ensureTimer (s : State) (id : TimerId) (ticks : Nat) : State :=
  match lookupKey id s.timers with
  | some _ => s
  | none => startTimer s id ticks

def stopTimer (s : State) (id : TimerId) : State := s.withTimers (removeKey id s.timers)

/-- Whether a timer runs. -/
def running (s : State) (id : TimerId) : Bool := (lookupKey id s.timers).isSome

/-- Whether a timer has reached its deadline. -/
def due (s : State) (id : TimerId) : Bool :=
  match lookupKey id s.timers with
  | some d => decide (d ≤ s.mono)
  | none => false

/-- Hand something to the outside. -/
def output (s : State) (e : OutEvent) : State := s.withOuts (s.outs ++ [e])

/-- A free value, and the state in which it has been drawn (log entry 3). -/
def draw (s : State) : BitVec 64 × State := (Config.freeValue s.fresh, s.withFresh (s.fresh + 1))

/-! ### Time (R270, R271) -/

/-- A time in units of 2^-32 ns. -/
def State.tb (s : State) : Nat → Nat
  | 0 => s.time.bases.tb0
  | 1 => s.time.bases.tb1
  | 2 => s.time.bases.tb2
  | _ => s.time.bases.tb3

/-- A base in whole nanoseconds. -/
def tbNs (s : State) (n : Nat) : Nat := s.tb n / 2 ^ 32

/-- Nanoseconds in a second. -/
def nsPerSec : Nat := 1000000000

/-- A time in units of 2^-32 ns as the triple of R271: nanoseconds, seconds, and sub-nanoseconds in units of 1/256 ns. -/
def tripleOf (t : Nat) : Nat :=
  let ns := t / 2 ^ 32
  ns % nsPerSec + 2 ^ 32 * (ns / nsPerSec % 2 ^ 48) + 2 ^ 80 * (t / 2 ^ 24 % 256)

/-- The time in units of 2^-32 ns that a triple holds. -/
def ofTriple (w : Nat) : Nat :=
  (bitsAt w 0 32 + nsPerSec * bitsAt w 32 48) * 2 ^ 32 + bitsAt w 80 8 * 2 ^ 24

/-- TB2 in microseconds, modulo 2^32. -/
def tb2Us (s : State) : Nat := tbNs s 2 / 1000 % 2 ^ 32

/-! ### Units: presence, fences, resets (R2, R15, R16, R84) -/

def codeOK : Nat := 0
def codeUNIT_ABSENT : Nat := 1
def codeFENCED : Nat := 2
def codeREFUSED_BUSY : Nat := 3
def codeREFUSED_SIDE_EFFECT : Nat := 4
def codeACCESS_DENIED : Nat := 5
def codeADDR_ERROR : Nat := 6
def codeTIMEOUT : Nat := 7
def codeRESET_DURING : Nat := 8
def codeLOCKED : Nat := 9
def codeALIGN_ERROR : Nat := 10
def codeLOSS_OBSERVED : Nat := 11
def codeEPOCH_BUSY : Nat := 12

/-- Whether software fences unit `u`: its bit of SYS_UNIT_FENCE. -/
def softFenced (s : State) (u : Nat) : Bool := bitAt (regWord s F.SYS_UNIT_FENCE_FENCE.key).toNat u

/-- Whether the fault collector fences unit `u`. -/
def faultFenced (s : State) (u : Nat) : Bool := bitF s F.SYS_UNIT_FLTFENCE_UNITS u

/-- Whether unit `u` is in reset: its reset is requested, or has begun and is not complete. -/
def inReset (s : State) (u : Nat) : Bool :=
  bitAt (regWord s F.SYS_UNIT_RST_RST.key).toNat u || bitF s F.SYS_UNIT_INRST_UNITS u

/-- The code with which the boundaries of unit `u` complete every request, if they admit none (R16). -/
def fenceCode (s : State) (u : Nat) : Option Nat :=
  if unitAbsent s.ident.variant u then some codeUNIT_ABSENT
  else if s.dev.state = .dormant then some codeFENCED
  else if !s.dev.unitsOut || inReset s u then some codeRESET_DURING
  else if softFenced s u || faultFenced s u || s.dev.powerDown.getLsbD u then some codeFENCED
  else none

/-- Whether unit `u` runs: it is present, out of reset and not fenced. -/
def live (s : State) (u : Nat) : Bool := (fenceCode s u).isNone

/-- Whether the part has ring port `n` (two ring ports, and the twin link where there is twin control). -/
def hasPort (s : State) (n : Nat) : Bool := decide (n < 2) || (n = 2 && s.ident.variant.hasTwn)

/-- Whether the hub is in Service or Degraded. -/
def inService (s : State) : Bool := s.dev.state = .service || s.dev.state = .degraded

/-- Whether the hub runs in shadow: role Standby or NotReady, which a hub has in Service and Degraded (R8, R325). -/
def inShadow (s : State) : Bool := inService s && (s.twin.role = .standby || s.twin.role = .notReady)

/-- Whether the hub acts for its station: role Active or Single (R8, R30). -/
def acting (s : State) : Bool := s.twin.role = .active || s.twin.role = .single

/-! ### Parts of the state by index -/

def portSt (s : State) : Nat → PortSt
  | 0 => s.ring.port0
  | 1 => s.ring.port1
  | _ => s.ring.port2

def setPortSt (s : State) (n : Nat) (p : PortSt) : State :=
  match n with
  | 0 => s.withRing { s.ring with port0 := p }
  | 1 => s.withRing { s.ring with port1 := p }
  | _ => s.withRing { s.ring with port2 := p }

def queueOf (s : State) (n : Nat) : MQueue := (assoc n s.queues).getD MQueue.reset
def setQueue (s : State) (n : Nat) (q : MQueue) : State := s.withQueues (put n q s.queues)
def busCh (s : State) (c : Nat) : BusCh := (assoc c s.bus).getD BusCh.reset
def setBusCh (s : State) (c : Nat) (b : BusCh) : State := s.withBus (put c b s.bus)
def engineOf (s : State) (e : Nat) : Engine := (assoc e s.engines).getD Engine.reset
def setEngine (s : State) (e : Nat) (x : Engine) : State := s.withEngines (put e x s.engines)
def slotOf (s : State) (n : Nat) : Slot := (assoc n s.power.slots).getD Slot.reset
def setSlot (s : State) (n : Nat) (x : Slot) : State :=
  s.withPower { s.power with slots := put n x s.power.slots }

/-- The Active notes what its delta of this cycle must carry (R328). -/
def twinNote (s : State) (r : DeltaRec) : State :=
  if s.twin.role = .active then s.withTwin { s.twin with delta := s.twin.delta ++ [r] } else s

/-- A register write noted, which the command that performs it may stand for. -/
def noteReg (s : State) (u off w : Nat) : State := twinNote s (.regWrite u off (BitVec.ofNat 32 w))

/-- A register write noted unless it was refused (R328). -/
def noteWrite (u off w : Nat) (r : State × Nat) : State × Nat :=
  if r.2 = codeOK then (noteReg r.1 u off w, r.2) else r

/-- How a command ends that has its effect on the state. -/
abbrev Result := Host.Outcome State Fault Refusal

/-- The numbers 0 to n − 1. -/
def upTo (n : Nat) : List Nat := List.range n

/-! ### Injected errors in FIFO words (R372) -/

/-- The word of FIFO memory at place `i` from the front of the TX or RX FIFO of an engine. -/
def fifoKey (e : Nat) (rx : Bool) (i : Nat) : Nat := hiddenKey unitARC (64 * e + 32 * bit01 rx + i)

/-- `n` words leave a FIFO at its front: the places of the others count from the new front. -/
def fifoShift (s : State) (e : Nat) (rx : Bool) (n : Nat) : State :=
  if s.flt.eccWords = [] then s
  else
    let base := fifoKey e rx 0 / 4
    let kept := s.flt.eccWords.filter (fun w => decide (w.1 < base) || decide (base + n ≤ w.1))
    s.withFlt { s.flt with
      eccWords := kept.map (fun w => if base ≤ w.1 ∧ w.1 < base + 32 then (w.1 - n, w.2) else w) }

/-- The words `ws` at the front of a FIFO are read and leave it; one with two flipped bits is free (log entry 32). -/
def fifoTake (s : State) (e : Nat) (rx : Bool) (ws : List Word) : List Word × State :=
  let a := fifoKey e rx 0
  let lost := (eccHits s a (4 * ws.length)).filter (fun w => decide (2 ≤ w.2))
  (((upTo ws.length).zip ws).map (fun p =>
      if lost.any (fun h => h.1 = a / 4 + p.1) then BitVec.ofNat 32 (ofLe (freeWord s (a / 4 + p.1))) else p.2),
    fifoShift (eccTouch s a (4 * ws.length)) e rx ws.length)

end Sys2Proof.Machine
end

