-- ==== Sys2Proof/Machine/Queues.lean ====
section
/-! DEFINITION. Message queues (R201 to R212): credits, commits, pops, pushes, and what a hardware producer does. -/

namespace Sys2Proof.Machine

/-- The granules a message of `len` bytes occupies (R201). -/
def granules (len : Nat) : Nat := (len + 4 + 31) / 32

/-- The granules an open push has reserved. -/
def pushGranules (q : MQueue) : Nat :=
  match q.push with
  | some p => granules p.len
  | none => 0

/-- The granules held in a queue by one producer: committed, held and in progress (R202). -/
def heldBy (q : MQueue) (producer : Nat) : Nat :=
  let own := (q.msgs ++ q.held.toList).filter (fun m => m.producer = producer)
  (own.map (fun m => granules m.bytes.length)).sum + (if producer = 0 then pushGranules q else 0)

/-- All granules held in a queue (MQ_Qn_STAT.USED). -/
def usedGranules (q : MQueue) : Nat :=
  ((q.msgs ++ q.held.toList).map (fun m => granules m.bytes.length)).sum + pushGranules q

/-- The slot of queue `n` that applies to a producer: the lowest valid one that names it (R202). -/
def producerSlot (s : State) (n producer : Nat) : Option Nat :=
  (upTo 4).find? (fun k => flag s (F.MQ_Q_PROD_VALID n k) && getF s (F.MQ_Q_PROD_PRODUCER n k) = producer)

/-- The credit a producer has available in queue `n`, zero without a valid slot (R202). -/
def creditOf (s : State) (n producer : Nat) : Nat :=
  match producerSlot s n producer with
  | some k => getF s (F.MQ_Q_PROD_CREDIT n k) - heldBy (queueOf s n) producer
  | none => 0

/-- Whether a producer may write a message of `len` bytes into queue `n` (R202, R203). -/
def mayProduce (s : State) (n producer len : Nat) : Bool :=
  live s unitMQ && flag s (F.MQ_Q_CFG_EN n) && (producerSlot s n producer).isSome
    && decide (granules len ≤ creditOf s n producer)

/-- The word of queue memory in which a message's injected error is kept (R372; log entry 32). -/
def msgKey (n serial : Nat) : Nat := hiddenKey unitMQ (n + 256 * (serial % 65536))

/-- Commit a message to queue `n` (R204, R206). -/
def commitMsg (s : State) (n prio producer : Nat) (bytes : List Byte) : State :=
  let q := queueOf s n
  let m : MqMsg := ⟨prio, producer, q.serial + 1, bytes⟩
  (setQueue s n { q with msgs := q.msgs ++ [m], serial := q.serial + 1 }).withFlt
    (eccMark s.flt (msgKey n (q.serial + 1)) 4)

/-- A message as its read gives it: one with two flipped bits has four free bytes (R372; log entry 32). -/
def readMsg (s : State) (n : Nat) (m : MqMsg) : MqMsg × State :=
  let a := msgKey n m.serial
  (if (eccHits s a 4).any (fun w => decide (2 ≤ w.2)) then { m with bytes := freeWord s (a / 4) ++ m.bytes.drop 4 } else m,
    eccTouch s a 4)

/-- A hardware producer writes a message and commits it; without credit nothing changes (R203). -/
def produce (s : State) (n producer prio : Nat) (bytes : List Byte) : State :=
  if mayProduce s n producer bytes.length then commitMsg s n prio producer bytes else s

/-- A producer that counts its message in MQ_Qn_NOCRED when it has no credit (R203). -/
def produceCounted (s : State) (n producer prio : Nat) (bytes : List Byte) : State :=
  if mayProduce s n producer bytes.length then commitMsg s n prio producer bytes
  else incF s (F.MQ_Q_NOCRED_COUNT n)

/-- The header word of a message (R206). -/
def msgHeader (m : MqMsg) : Nat :=
  m.bytes.length % 2048 + 2048 * (m.prio % 8) + 32768 + 65536 * (m.producer % 256) + 16777216 * (m.serial % 256)

/-- The oldest committed message of the highest priority present (R205). -/
def nextMsg : List MqMsg → Option MqMsg
  | [] => none
  | m :: t =>
    match nextMsg t with
    | some m' => if m.prio < m'.prio then some m' else some m
    | none => some m

/-- Release the held message (R209 step 1). -/
def releaseHeld (s : State) (n : Nat) : State := setQueue s n { queueOf s n with held := none }

/-- Take the next message and make it the held one (R209 step 2). -/
def takeNext (s : State) (n : Nat) : State :=
  let q := queueOf s n
  match nextMsg q.msgs with
  | some m =>
    let (r, s) := readMsg s n m
    setQueue s n { q with msgs := q.msgs.erase m, held := some r }
  | none => s

/-- What a POP read of `len` bytes returns: the new held message's header and leading bytes, zeros when the queue was
empty (R209 step 3). -/
def popBytes (s : State) (n len : Nat) : List Byte :=
  match (queueOf s n).held with
  | some m => padTo len (leBytes 4 (msgHeader m) ++ m.bytes)
  | none => List.replicate len 0

/-- A valid POP read: release, take, return (R209). The Active's delta carries the pop (R328). -/
def popQueue (s : State) (n len : Nat) : State × List Byte :=
  let t := takeNext (releaseHeld s n) n
  (twinNote t (.mqPop n), popBytes t n len)

/-- A write of 1 to RELEASE (R209). -/
def releaseQueue (s : State) (n : Nat) : State := twinNote (releaseHeld s n) (.mqRelease n)

/-- Rewind the open push of queue `n`, if there is one (R204). -/
def rewindPush (s : State) (n : Nat) : State :=
  let q := queueOf s n
  match q.push with
  | some _ => stopTimer (incF (setQueue s n { q with push := none }) F.MQ_ABORTED_COUNT) (.push n)
  | none => s

/-- A 4-byte write to PUSH_HDR (R208): the state after it and its completion code. -/
def pushHeader (s : State) (n : Nat) (who : Origin) (w : Nat) : State × Nat :=
  let len := bitsAt w 0 11
  let prio := bitsAt w 11 3
  let foreign := match (queueOf s n).push with
    | some p => decide (p.who ≠ who)
    | none => false
  if foreign then (s, codeREFUSED_BUSY)
  else
    let s := rewindPush s n
    if len < 4 ∨ 1024 < len then (s, codeADDR_ERROR)
    else if mayProduce s n 0 len then
      (startTimer (setQueue s n { queueOf s n with push := some ⟨who, len, prio, []⟩ }) (.push n) ticksMs, codeOK)
    else (s, codeREFUSED_BUSY)

/-- A write to PUSH_DATA (R208): the state after it and its completion code. -/
def pushBytes (s : State) (n : Nat) (who : Origin) (ofs : Nat) (bytes : List Byte) : State × Nat :=
  match (queueOf s n).push with
  | none => (s, codeADDR_ERROR)
  | some p =>
    if p.who ≠ who then (s, codeREFUSED_BUSY)
    else if ofs ≠ p.bytes.length then (rewindPush s n, codeADDR_ERROR)
    else
      let all := (p.bytes ++ bytes).take p.len
      if all.length = p.len then
        let s := stopTimer (setQueue s n { queueOf s n with push := none }) (.push n)
        (twinNote (commitMsg s n p.prio 0 all) (.mqPush n p.prio all), codeOK)
      else
        (startTimer (setQueue s n { queueOf s n with push := some { p with bytes := all } }) (.push n) ticksMs, codeOK)

/-- Discard all committed and held messages of a queue and count them in MQ_FLUSHED (R218). -/
def flushQueue (s : State) (n : Nat) : State :=
  let q := queueOf s n
  addF (setQueue s n { q with msgs := [], held := none }) F.MQ_FLUSHED_COUNT (q.msgs.length + q.held.toList.length)

/-- Clearing EN: the open push is rewound and every message discarded (R218). -/
def disableQueue (s : State) (n : Nat) : State := flushQueue (rewindPush s n) n

/-- The granules reserved by enabled queues. Only a written register can hold EN = 1. -/
def reservedGranules (s : State) : Nat :=
  (s.regs.map (fun p =>
    let k := offOfKey p.1
    if unitOfKey p.1 = unitMQ ∧ 0x1000 ≤ k ∧ k < 0x3000 ∧ k % 0x20 = 0 ∧ p.2.toNat % 2 = 1 then
      bitsAt p.2.toNat 13 15 else 0)).sum

/-- MQ_POOL_STAT.UNRESERVED. -/
def unreserved (s : State) : Nat := 16384 - reservedGranules s

/-- A write to MQ_Qn_CFG (R218): the state after it and its completion code. A fresh enable starts with an empty queue
and restarts SERIAL. -/
def writeQueueCfg (s : State) (n : Nat) (w : Nat) : State × Nat :=
  let key := (F.MQ_Q_CFG_EN n).key
  let old := (regWord s key).toNat
  let new := w % 2 ^ 28
  let fixed (x : Nat) := (bitsAt x 1 2, bitsAt x 3 6, bitsAt x 13 15)
  let credits := ((upTo 4).map (fun k =>
    if flag s (F.MQ_Q_PROD_VALID n k) then getF s (F.MQ_Q_PROD_CREDIT n k) else 0)).sum
  if old % 2 = 1 then
    if fixed old ≠ fixed new then (s, codeREFUSED_BUSY)
    else
      let s' := setWord s key (BitVec.ofNat 32 new)
      (if new % 2 = 0 then disableQueue s' n else s', codeOK)
  else if new % 2 = 1 then
    if unreserved s < bitsAt new 13 15 ∨ bitsAt new 13 15 < credits
        ∨ (bitsAt new 1 2 = 2 ∧ s.ident.variant.engines ≤ bitsAt new 3 6) then (s, codeREFUSED_BUSY)
    else (setQueue (setWord s key (BitVec.ofNat 32 new)) n MQueue.reset, codeOK)
  else (setWord s key (BitVec.ofNat 32 new), codeOK)

/-- A write to MQ_Qn_PRODk (R218): refused while the queue is enabled and the write would change a field. -/
def writeQueueProd (s : State) (n k : Nat) (w : Nat) : State × Nat :=
  let key := (F.MQ_Q_PROD_PRODUCER n k).key
  let new := w % 2 ^ 24
  if flag s (F.MQ_Q_CFG_EN n) && (regWord s key).toNat ≠ new then (s, codeREFUSED_BUSY)
  else (setWord s key (BitVec.ofNat 32 new), codeOK)

/-- A write to MQ_Qn_CTL: the commands it sets run at once (R208, R209, R218). -/
def writeQueueCtl (s : State) (n : Nat) (w : Nat) : State :=
  let s := if bitAt w 0 then releaseQueue s n else s
  let s := if bitAt w 1 then rewindPush s n else s
  if bitAt w 2 then flushQueue s n else s

/-- Whether queue `n` drives ATTN_N (R212). -/
def drivesAttn (s : State) (n : Nat) : Bool :=
  flag s (F.MQ_Q_CFG_EN n) && (getF s (F.MQ_Q_CFG_CONSUMER n) = 0 || getF s (F.MQ_Q_CFG_CONSUMER n) = 3)
    && flag s (F.MQ_Q_CFG_ATTN_EN n)
    && (queueOf s n).msgs.any (fun m => decide (getF s (F.MQ_Q_CFG_ATTN_PRIO n) ≤ m.prio))

/-- ATTN_N driven low (R212); a fenced MQ unit releases it (R370). -/
def attnLow (s : State) : Bool := live s unitMQ && s.queues.any (fun p => drivesAttn s p.1)

/-- A reset of the MQ unit discards every message, held and in progress included (R218). -/
def resetQueues (s : State) : State := s.withQueues []

/-- What a fence does to messages in progress: each open push is rewound (R204, R370). -/
def rewindAll (s : State) : State := s.queues.foldl (fun t p => rewindPush t p.1) s

end Sys2Proof.Machine
end

