-- ==== Sys2Proof/Machine/FaultLog.lean ====
section
/-! DEFINITION. Fault codes and fault records (R361 to R365): what logging a fault does. The reactions are in
Machine/Faults.lean. -/

namespace Sys2Proof.Machine

/-- The kinds of reaction in the table of R361. -/
inductive FaultKind where
  | record | unit | restart | mgtRestart
deriving DecidableEq, Repr

/-- Class and kind of reaction of a fault code (R361); none for a reserved code. -/
def faultInfo (code : Nat) : Option (Nat × FaultKind) :=
  match code with
  | 0x01 => some (0, .record)
  | 0x02 => some (1, .unit)
  | 0x03 => some (2, .restart)
  | 0x04 => some (1, .unit)
  | 0x05 => some (1, .unit)
  | 0x06 => some (2, .restart)
  | 0x07 => some (2, .restart)
  | 0x08 => some (1, .record)
  | 0x09 => some (1, .mgtRestart)
  | 0x10 => some (0, .record)
  | 0x11 => some (1, .record)
  | 0x12 => some (1, .record)
  | 0x13 => some (1, .record)
  | 0x14 => some (1, .record)
  | 0x15 => some (1, .record)
  | 0x16 => some (0, .record)
  | 0x17 => some (1, .record)
  | 0x18 => some (1, .record)
  | 0x19 => some (1, .record)
  | 0x1A => some (1, .record)
  | _ => none

/-- Fault codes by name (R361). -/
def fltEccCorr : Nat := 0x01
def fltEccUncorr : Nat := 0x02
def fltEccUncorrMgt : Nat := 0x03
def fltBoundaryHang : Nat := 0x04
def fltMgtMemUncorr : Nat := 0x09
def fltNvmWriteFail : Nat := 0x08
def fltRngWrap : Nat := 0x10
def fltRngDupId : Nat := 0x11
def fltBusOff : Nat := 0x12
def fltTb0Slew : Nat := 0x13
def fltCipEntropy : Nat := 0x14
def fltCipNonce : Nat := 0x15
def fltPwrTrip : Nat := 0x16
def fltPwrLatchoff : Nat := 0x17
def fltTwnSwitchover : Nat := 0x18
def fltTwnPeerPin : Nat := 0x19
def fltTwnColdTakeover : Nat := 0x1A

/-- The codes of R323 for a twin role. -/
def Role.code : Role → Nat
  | .active => 0 | .standby => 1 | .single => 2 | .notReady => 3

/-- The codes of R364 for a device state; Dead logs nothing. -/
def DeviceState.code : DeviceState → Nat
  | .off => 0 | .dormant => 1 | .starting => 2 | .service => 3 | .degraded => 4 | .recovery => 5 | .dead => 6

/-- The eight words of a fault record (R362), as bytes. -/
def faultRecord (s : State) (code cls reaction unit info0 info1 : Nat) : List Byte :=
  leBytes 4 (code % 256 + 256 * cls + 1024 * reaction + 8192 * unit) ++ leBytes 4 (getF s F.FLT_TOTAL_COUNT)
    ++ leBytes 12 (tripleOf (s.tb 0)) ++ leBytes 4 (tb2Us s) ++ leBytes 4 info0 ++ leBytes 4 info1

/-- Whether the NVM array may be written (R353, R370). -/
def nvmWritable (s : State) : Bool := live s unitNVM && !flag s F.PWR_STAT_NVM_INHIBIT

/-- Where the NVM array stands in window memory (R33). -/
def nvmBase : Nat := keyOf unitNVM 0x01000000

/-- Whether a write to `len` bytes at `base` of a cipher region meets a lock of a running two-pass decryption (R315). -/
def cipherLocked (s : State) (kind base len : Nat) : Bool :=
  s.cip.locks.any (fun l => l.kind = kind && decide (base < l.base + l.len) && decide (l.base < base + len))

/-- Whether a write to `len` bytes of NVM at an offset of the array meets such a lock. -/
def nvmLocked (s : State) (off len : Nat) : Bool := cipherLocked s 1 off len

/-- The valid records of the event log: word of the log and SEQ of each (R364). -/
def eventRecords (s : State) : List (Nat × Nat) :=
  let a := nvmBase + 0x780000
  s.mem.filterMap (fun c =>
    if a ≤ c.1 ∧ c.1 < a + 0x80000 ∧ (c.1 - a) % 64 = 32 then
      let w := memRead s (c.1 - 32) 64
      if ofLe (sliceAt w 32 4) = 0x45564C47 ∧ ofLe (w.drop 60) = crc32 (w.take 60) then
        some ((c.1 - a) / 64, ofLe (sliceAt w 36 4))
      else none
    else none)

/-- The valid record with the highest SEQ, modulo 2^32. -/
def newestEvent (s : State) : Option (Nat × Nat) :=
  (eventRecords s).foldl (fun best r => match best with
    | some b => if 0 < (r.2 + 2 ^ 32 - b.2) % 2 ^ 32 ∧ (r.2 + 2 ^ 32 - b.2) % 2 ^ 32 < 2 ^ 31 then some r else best
    | none => some r) none

/-- Where the event log keeps its next record: in the word after the valid record with the highest SEQ (R364). -/
def eventLogAt (s : State) : Nat :=
  0x00780000 + 64 * (match newestEvent s with
    | some r => (r.1 + 1) % 8192
    | none => 0)

/-- Whether the event log may be written now; a locked word is written by no path (R315; log entry 120). -/
def eventLogOpen (s : State) : Bool := nvmWritable s && !nvmLocked s (eventLogAt s) 64

/-- One record of the NVM event log (R364). -/
def writeEventLog (s : State) (record : List Byte) : State :=
  let body := record ++ leBytes 4 0x45564C47 ++ leBytes 4 s.flt.nvmSeq.toNat
    ++ leBytes 4 (s.dev.state.code + 8 * s.twin.role.code) ++ List.replicate 16 0
  let s := memWrite s (nvmBase + eventLogAt s) (body ++ leBytes 4 (crc32 body))
  s.withFlt { s.flt with nvmSeq := s.flt.nvmSeq + 1 }

/-- A write of the event log where it may be written. -/
def eventLog (s : State) (record : List Byte) : State :=
  if eventLogOpen s then writeEventLog s record else s

/-- The ERR_N pulse of R371 for a fault of class `cls`. It lasts 16 µs at least; ERR_PULSE_END ends it. -/
def errPulse (s : State) (cls : Nat) : State :=
  if getF s F.FLT_CFG_ERR_CLASS ≤ cls then
    let s := startTimer (s.withFlt { s.flt with errPulse := true }) .errPulse (16 * ticksUs)
    if flag s F.FLT_CFG_AUTO_HOLD then setFlag s F.FLT_ERR_HOLD_STICKY true else s
  else s

/-- Whether the hub drives ERR_N low (R371). -/
def errLow (s : State) : Bool :=
  s.dev.state = .dead || s.flt.errPulse || flag s F.FLT_ERR_HOLD_HOLD || flag s F.FLT_ERR_HOLD_STICKY

/-- The counters of R363, in which every fault counts. -/
def countFault (s : State) (cls unit : Nat) : State :=
  incF (incF (incF s F.FLT_TOTAL_COUNT) (F.FLT_CLASS_CNT_COUNT cls)) (F.FLT_UNIT_CNT_COUNT unit)

/-- Whether R363 suppresses the record: a Corrected fault with the same code, unit and INFO0 was logged less than
CORR_HOLD_MS ago. -/
def suppressed (s : State) (code cls unit : Nat) (info0 : Word) : Bool :=
  cls = 0 && (match lookupKey (code, unit, info0) s.flt.corrLast with
    | some t => decide (s.mono < t + ticksMs * getF s F.FLT_CFG_CORR_HOLD_MS)
    | none => false)

/-- The record into the log of the FLT window, and its copy to a queue (R363). -/
def storeRecord (s : State) (cls : Nat) (record : List Byte) : State :=
  let i := getF s F.FLT_LOG_STAT_WR_IDX
  let s := memWrite s (keyOf unitFLT 0x00010000 + 32 * i) record
  let s := setF s F.FLT_LOG_STAT_WR_IDX (i + 1)
  if flag s F.FLT_CFG_Q_EN && decide (cls < 2) then
    produceCounted s (getF s F.FLT_CFG_QUEUE) 0x01
      (if cls = 0 then getF s F.FLT_CFG_PRIO_CORR else getF s F.FLT_CFG_PRIO_CONT) record
  else s

/-- Log a fault with the reaction code it takes (R362 to R364, R371). A Contained record goes to the event log with
NVM_CONT = 1; a Fatal one by R365. -/
def logFault (s : State) (code cls reaction unit : Nat) (info0 info1 : Word) : State :=
  let record := faultRecord s code cls reaction unit info0.toNat info1.toNat
  let hide := suppressed s code cls unit info0
  let s := countFault s cls unit
  let s :=
    if hide then incF s F.FLT_SUPPRESSED_COUNT
    else
      let s := storeRecord s cls record
      let s := if cls = 0 then
        s.withFlt { s.flt with corrLast := replaceKey (code, unit, info0) s.mono s.flt.corrLast } else s
      if cls = 1 ∧ flag s F.FLT_CFG_NVM_CONT = true then eventLog s record else s
  errPulse s cls

/-- The reaction code of a fault whose kind is "record": 4 from a unit already fenced or in reset (R362, R368). -/
def recordReaction (s : State) (unit : Nat) : Nat := if live s unit then 0 else 4

/-- A fault whose reaction is "record": it is logged and nothing else is done (R361). -/
def recordFault (s : State) (code unit : Nat) (info0 info1 : Word) : State :=
  match faultInfo code with
  | some (cls, _) => logFault s code cls (recordReaction s unit) unit info0 info1
  | none => s

end Sys2Proof.Machine
end

