-- ==== Sys2Proof/Machine/TimeOps.lean ====
section
/-! DEFINITION. The time bases and their rules (R270 to R282): ticks, steps, arming, the master choice, the servo
states, comparators' firing times. -/

namespace Sys2Proof.Machine

/-- A base is a count of 2^-32 ns; 48 bits of seconds wrap (R271). -/
def baseModulus : Nat := 2 ^ 48 * nsPerSec * 2 ^ 32

/-- RATE of a base as the hub applies it: signed, limited to ±500 ppm (R273); TB2 is never adjusted (R270). -/
def rateOf (s : State) (n : Nat) : Int :=
  if n = 2 then 0 else max (-2147483) (min 2147483 (signed 32 (getF s (F.TIM_TB_RATE_RATE n))))

/-- A base set. -/
def setBase (s : State) (n t : Nat) : State :=
  let b := s.time.bases
  let t := t % baseModulus
  let b := match n with
    | 0 => { b with tb0 := t }
    | 1 => { b with tb1 := t }
    | 2 => { b with tb2 := t }
    | _ => { b with tb3 := t }
  s.withTime { s.time with bases := b }

/-- One tick of base `n`: it advances by 2 ns × (1 + RATE × 2^-32) (R273). -/
def tickBase (s : State) (n : Nat) : State :=
  setBase s n ((s.tb n : Int) + 2 * (2 ^ 32 + rateOf s n)).toNat

/-- Whether the bases run: the hub is out of Off, Dormant and SYSRST_N, and the AON island does not count for them
(R24, R291). -/
def basesRun (s : State) : Bool :=
  !s.dev.sysrstLow && !s.aon.counting && (s.dev.state = .starting || s.dev.state = .service || s.dev.state = .degraded
    || s.dev.state = .recovery)

/-- One 2 ns tick of the TIM island (R270): the step's action when no command waits (log entry 11). -/
def tick (s : State) : State :=
  let s := s.withMono (s.mono + 1)
  if basesRun s then tickBase (tickBase (tickBase (tickBase s 0) 1) 2) 3 else s

/-- A base moved by a signed offset in units of 2^-32 ns. -/
def moveBase (s : State) (n : Nat) (off : Int) : State :=
  setBase s n (((s.tb n : Int) + off) % (baseModulus : Int)).toNat

/-- The states of TB0 (R279). -/
def tbFree : Nat := 0
def tbMaster : Nat := 1
def tbLocked : Nat := 2
def tbHoldover : Nat := 3
def tbSlewing : Nat := 4

def tb0State (s : State) : Nat := getF s (F.TIM_TB_STAT_STATE 0)

/-- Whether TB0 counts as locked for R18 (R279). -/
def tb0Locked (s : State) : Bool := tb0State s ≠ tbFree

/-- TB0 in a state; VALID of TB0 reads whether it counts as locked (R292). The moment at which it locks is kept (R18). -/
def setTb0State (s : State) (st : Nat) : State :=
  let s := if !tb0Locked s && st ≠ tbFree then s.withTime { s.time with lockedAt := s.mono } else s
  setFlag (setF s (F.TIM_TB_STAT_STATE 0) st) (F.TIM_TB_STAT_VALID 0) (st ≠ tbFree)

/-- Whether this hub's own entry is eligible as a TB1 source and is the source in force (R281). -/
def tb1SourceKey (s : State) : Option (Nat × Nat × Bool) :=
  let own := if flag s F.TIM_TB1_CFG_SRC then [(getF s F.TIM_TB1_CFG_PRIO, s.dev.nodeId, s.dev.side)] else []
  let others := (s.ring.map.filter (fun e =>
    bitAt e.tbFlags.toNat 2 && !(e.node = s.dev.nodeId && e.side = s.dev.side))).map
    (fun e => (e.tb1Prio.toNat, e.node, e.side))
  let le (a b : Nat × Nat × Bool) : Bool :=
    a.1 < b.1 || (a.1 = b.1 && (a.2.1 < b.2.1 || (a.2.1 = b.2.1 && (!a.2.2 || b.2.2))))
  (own ++ others).foldl (fun m x => match m with
    | none => some x
    | some y => if le y x then some y else some x) none

/-- Whether this hub is the TB1 source (R281). -/
def isTb1Source (s : State) : Bool :=
  match tb1SourceKey s with
  | some (_, n, sd) => flag s F.TIM_TB1_CFG_SRC && n = s.dev.nodeId && sd = s.dev.side
  | none => false

/-- Tracking error of TB1 against the reported offset in units of 2^-32 ns (R281). -/
def tb1Error (s : State) : Option Int := s.time.tb1Offset.map (fun o => (s.tb 1 : Int) - (s.tb 0 : Int) - o)

/-- VALID of TB1 (R281): TB0 counts as locked, reports arrive, REF_OK is 1, the tracking error is below 20 ns. On the
source itself REF_OK and the used step stand for the reports (log entry 26). -/
def tb1Valid (s : State) : Bool :=
  tb0Locked s &&
    (if isTb1Source s then flag s F.TIM_TB1_CFG_REF_OK && flag s (F.TIM_TB_STAT_STEPPED 1)
    else running s .tb1Report && s.time.tb1RefOk && (match tb1Error s with
      | some e => decide (|e| < 20 * 2 ^ 32)
      | none => false))

/-- Whether the hardware owns RATE and the step of a base: TB0 with SERVO = 1 outside Free and Master (R279), TB1 while
it follows a source (R281; log entry 12). -/
def servoOwned (s : State) (n : Nat) : Bool :=
  if n = 0 then flag s F.TIM_TB0_CFG_SERVO && (tb0State s = tbLocked || tb0State s = tbHoldover || tb0State s = tbSlewing)
  else n = 1 && s.time.tb1Following && !isTb1Source s

/-- The signed offset of TIM_TBn_STEP in units of 2^-32 ns: seconds signed 48-bit (R292). -/
def stepOffset (s : State) (n : Nat) : Int :=
  let w := getWords s (F.TIM_TB_STEP_NS_OFFSET n).key 3
  (signed 48 (bitsAt w 32 48) * (nsPerSec : Int) + (bitsAt w 0 32 : Nat)) * 2 ^ 32 + (bitsAt w 80 8 * 2 ^ 24 : Nat)

/-- A write of 1 to TIM_TBn_CTL.STEP (R274): the state and the completion code. -/
def stepBase (s : State) (n : Nat) : State × Nat :=
  if n = 2 then (s, codeOK)
  else if servoOwned s n then (s, codeREFUSED_BUSY)
  else if flag s (F.TIM_TB_STAT_STEPPED n) then (setFlag s (F.TIM_TB_STAT_STEP_REFUSED n) true, codeREFUSED_BUSY)
  else
    let s := setFlag (moveBase s n (stepOffset s n)) (F.TIM_TB_STAT_STEPPED n) true
    (if n = 3 then setFlag s (F.TIM_TB_STAT_VALID 3) true else s, codeOK)

/-- A write of 1 to TIM_TBn_CTL.ARM (R274): the step is available again, VALID clears, TB0 returns to Free. -/
def armBase (s : State) (n : Nat) : State :=
  if n = 2 then s
  else
    let s := setFlag (setFlag s (F.TIM_TB_STAT_STEPPED n) false) (F.TIM_TB_STAT_VALID n) false
    if n = 0 then setTb0State s tbFree
    else if n = 1 then s.withTime { s.time with tb1Following := false, tb1Offset := none }
    else s

/-- A write to TIM_TBn_CTL; with both bits set, ARM acts first (R274). -/
def writeTbCtl (s : State) (n w : Nat) : State × Nat :=
  let s := if bitAt w 1 then armBase s n else s
  if bitAt w 0 then stepBase s n else (s, codeOK)

/-- The priority, node and side of the hubs that take part in the choice of the TB0 master (R276). -/
def masterCandidates (s : State) : List (Nat × Nat × Bool) :=
  let own := if 1 ≤ s.dev.nodeId ∧ s.dev.nodeId ≤ 254 ∧ getF s F.TIM_TB0_CFG_PRIO < 0xFF ∧ flag s F.RNG_STAT_DUP_ID = false
    then [(getF s F.TIM_TB0_CFG_PRIO, s.dev.nodeId, s.dev.side)] else []
  own ++ (s.ring.map.filter (fun e => !(e.node = s.dev.nodeId && e.side = s.dev.side) &&
    decide (1 ≤ e.node) && decide (e.node ≤ 254) && e.prio != 0xFF && !e.flags.getLsbD 2)).map
      (fun e => (e.prio.toNat, e.node, e.side))

/-- The better of two candidates: lower PRIO, then lower node ID, then side A (R276). -/
def betterMaster (a b : Nat × Nat × Bool) : Nat × Nat × Bool :=
  if a.1 < b.1 then a else if b.1 < a.1 then b
  else if a.2.1 < b.2.1 then a else if b.2.1 < a.2.1 then b
  else if !a.2.2 then a else b

/-- The master of R276, if any hub is eligible. -/
def chosenMaster (s : State) : Option (Nat × Nat × Bool) :=
  match masterCandidates s with
  | [] => none
  | c :: cs => some (cs.foldl betterMaster c)

/-- The hops to a hub in each direction, where a port may lead there (R279): not broken and not in forerunner mode. -/
def masterHops (s : State) (e : RingEntry) : Option Nat × Option Nat :=
  let usable (n : Nat) := !bitF s F.RNG_STAT_BROKEN n && !flag s (F.RNG_PORT_STAT_FR n)
  (if e.reachE && usable 0 then some e.hopsE else none, if e.reachW && usable 1 then some e.hopsW else none)

/-- The upstream port towards a hub and the hops to it: fewer hops, East on a tie (R279). -/
def upstreamTo (s : State) (e : RingEntry) : Option (Nat × Nat) :=
  match masterHops s e with
  | (some a, some b) => if b < a then some (1, b) else some (0, a)
  | (some a, none) => some (0, a)
  | (none, some b) => some (1, b)
  | (none, none) => none

/-- TB0 enters Holdover (R279): from Slewing it takes back the RATE it held before slewing. -/
def enterHoldover (s : State) : State :=
  let s := if tb0State s = tbSlewing then
      setF s (F.TIM_TB_RATE_RATE 0) (s.time.heldRate.getD 0).toNat
    else s
  setTb0State s tbHoldover

/-- Re-evaluate the master choice (R276) and what follows for TB0 (R279). A fenced TIM changes no state (R370). -/
def selectMaster (s : State) : State :=
  if !live s unitTIM then s
  else match chosenMaster s with
  | none => setF (setF s F.TIM_TB0_SYNC_MASTER 0) F.TIM_TB0_SYNC_HOPS 0
  | some (_, n, sd) =>
    let s := setFlag (setF s F.TIM_TB0_SYNC_MASTER n) F.TIM_TB0_SYNC_MASTER_SIDE sd
    if n = s.dev.nodeId ∧ sd = s.dev.side then
      stopTimer (setTb0State (setF s F.TIM_TB0_SYNC_HOPS 0) tbMaster) .upstream
    else
      let s := match s.ring.map.find? (fun e => e.node = n && e.side = sd) with
        | some e => match upstreamTo s e with
          | some (p, h) => setF (setF s F.TIM_TB0_SYNC_UPSTREAM p) F.TIM_TB0_SYNC_HOPS h
          | none => s
        | none => s
      if tb0State s = tbMaster then enterHoldover s else s

/-- OFFSET_MAX of R279 in units of 1/256 ns; values below 50 ns act as 50. -/
def offsetMax (s : State) : Int := (max 50 (getF s F.TIM_TB0_CFG_OFFSET_MAX) * 256 : Nat)

/-- ±500 ppm as a RATE word. -/
def slewRate (towardsLess : Bool) : Nat := if towardsLess then 2 ^ 32 - 2147483 else 2147483

/-- TB0 enters Slewing (R279) and reports it. -/
def enterSlewing (s : State) (o : Int) : State :=
  let s := s.withTime { s.time with heldRate := some (regWord s (F.TIM_TB_RATE_RATE 0).key) }
  let s := setTb0State (setF s (F.TIM_TB_RATE_RATE 0) (slewRate (0 < o))) tbSlewing
  recordFault s fltTb0Slew unitTIM 0 (BitVec.ofInt 32 o)

/-- What the servo does with an offset `o` (1/256 ns) from an upstream peer that is locked or Master, in each state but Master
(R279). -/
def servoOffset (s : State) (o : Int) : State :=
  let st := tb0State s
  if st = tbFree then
    if flag s (F.TIM_TB_STAT_STEPPED 0) then enterSlewing s o
    else
      setTb0State (setFlag (moveBase s 0 (-(o * 2 ^ 24))) (F.TIM_TB_STAT_STEPPED 0) true) tbLocked
  else if st = tbLocked then (if offsetMax s < |o| then enterSlewing s o else s)
  else if st = tbHoldover then (if |o| ≤ offsetMax s then setTb0State s tbLocked else enterSlewing s o)
  else if |o| ≤ 20 * 256 then setTb0State s tbLocked
  else setF s (F.TIM_TB_RATE_RATE 0) (slewRate (0 < o))

/-- What the servo does at a link report from the upstream peer, where `peerOk` says that the peer is locked or Master, and an
offset comes with it once both ends have measured (R279). With SERVO = 0 the hardware moves nothing (log entry 13). -/
def servoReport (s : State) (o : Option Int) (peerOk : Bool) : State :=
  if !live s unitTIM || !flag s F.TIM_TB0_CFG_SERVO then s
  else
    let s := if peerOk then startTimer s .upstream (3 * ticksMs) else s
    let st := tb0State s
    if st = tbMaster then s
    else if !peerOk then (if st = tbLocked then enterHoldover s else s)
    else match o with
      | some o => servoOffset s o
      | none => s

/-- The node-cycle lengths of TIM_CYCLE_CFG.LEN in ns (R292). -/
def cycleNs (code : Nat) : Nat :=
  match code with
  | 0 => 5000 | 1 => 10000 | 2 => 20000 | 3 => 25000 | 4 => 50000 | 5 => 100000 | _ => 10000

/-- The period of comparator `k` in units of 2^-24 of 2^-8 ns, that is in 2^-32 ns: ns in PER_NS [29:0] and sub-ns in
PER_SUB [7:0] (R292). -/
def trgPeriod (s : State) (k : Nat) : Nat :=
  bitsAt (getF s (F.TIM_TRG_PER_NS_PER k)) 0 30 * 2 ^ 32 + bitsAt (getF s (F.TIM_TRG_PER_SUB_PER k)) 0 8 * 2 ^ 24

/-- The first firing time of comparator `k`. -/
def trgCmp (s : State) (k : Nat) : Nat := ofTriple (getWords s (F.TIM_TRG_CMP_NS_CMP k).key 3)

/-- A periodic comparator's period; 0 acts as 2 ns (R286). -/
def trgStep (s : State) (k : Nat) : Nat := if trgPeriod s k = 0 then 2 * 2 ^ 32 else trgPeriod s k

/-- The first firing time of a periodic comparator after time `t`. -/
def trgAfter (cmp per t : Nat) : Nat := if t < cmp then cmp else cmp + ((t - cmp) / per + 1) * per

def trgEnabled (s : State) (k : Nat) : Bool := flag s (F.TIM_TRG_CFG_EN k) && getF s (F.TIM_TRG_CFG_MODE k) ≠ 3

/-- The model's time `n` ticks after it began in units of 2^-32 ns, by which a cycle-relative comparator is timed. -/
def tickTime (n : Nat) : Nat := n * 2 * 2 ^ 32

/-- A cycle-relative comparator's firing time in the running cycle: PER after its boundary, if PER lies within the cycle
(R286). -/
def cycleFiring (s : State) (k : Nat) : Option Nat :=
  if trgPeriod s k < s.time.cycleLen * 2 ^ 32 then some (tickTime s.time.lastBoundary + trgPeriod s k) else none

/-- The next firing time of comparator `k`, or none. -/
def setFiring (s : State) (k : Nat) (t : Option Nat) : State :=
  s.withTime { s.time with trgNext := match t with
    | some t => put k t s.time.trgNext
    | none => erase k s.time.trgNext }

/-- Arm comparator `k` (R286): a one-shot whose time is past is LATE and fires at the next tick; a periodic one goes on
at its first firing time to come; a cycle-relative one at the running cycle's, if that is still to come. -/
def armTrigger (s : State) (k : Nat) : State :=
  if !trgEnabled s k then setFlag s (F.TIM_TRG_STAT_ARMED k) false
  else
    let now := s.tb (getF s (F.TIM_TRG_CFG_BASE k))
    let cmp := trgCmp s k
    let mode := getF s (F.TIM_TRG_CFG_MODE k)
    let s := setFlag s (F.TIM_TRG_STAT_ARMED k) true
    if mode = 0 then
      let s := setFiring s k (some cmp)
      if cmp ≤ now then setFlag s (F.TIM_TRG_STAT_LATE k) true else s
    else if mode = 1 then setFiring s k (some (trgAfter cmp (trgStep s k) now))
    else setFiring s k ((cycleFiring s k).filter (fun t => decide (tickTime s.mono < t)))

/-- At a boundary each cycle-relative comparator is given its firing time of the cycle that opens (R286). -/
def armCycleTriggers (s : State) : State :=
  (upTo 64).foldl (fun t k =>
    if trgEnabled t k && getF t (F.TIM_TRG_CFG_MODE k) = 2 then
      match cycleFiring t k with
      | some n => setFiring t k (some n)
      | none => t
    else t) s

/-- Whether comparator `k` is to fire now (R286). -/
def trgDue (s : State) (k : Nat) : Bool :=
  live s unitTIM && trgEnabled s k && flag s (F.TIM_TRG_STAT_ARMED k) &&
    match assoc k s.time.trgNext with
    | some t => decide (t ≤ if getF s (F.TIM_TRG_CFG_MODE k) = 2 then tickTime s.mono
        else s.tb (getF s (F.TIM_TRG_CFG_BASE k)))
    | none => false

/-- What a firing does to the comparator itself: FIRED, MISSED, and the next firing time (R286). -/
def fireTrigger (s : State) (k : Nat) : State :=
  let mode := getF s (F.TIM_TRG_CFG_MODE k)
  let s := addF s (F.TIM_TRG_STAT_FIRED k) 1
  if mode = 0 then
    setFlag (s.withTime { s.time with trgNext := erase k s.time.trgNext }) (F.TIM_TRG_STAT_ARMED k) false
  else if mode = 1 then
    let now := s.tb (getF s (F.TIM_TRG_CFG_BASE k))
    let t := (assoc k s.time.trgNext).getD now
    let nxt := trgAfter (trgCmp s k) (trgStep s k) now
    let s := s.withTime { s.time with trgNext := put k nxt s.time.trgNext }
    addF s (F.TIM_TRG_MISSED_COUNT k) ((now - t) / trgStep s k)
  else s.withTime { s.time with trgNext := erase k s.time.trgNext }

/-- A capture of base time `t` in unit `k` (R288 to R290). -/
def storeCapture (s : State) (k t : Nat) (rising : Bool) : State :=
  let win := flag s (F.TIM_CAP_CFG_WIN_EN k)
  let fine := t / 2 ^ 24
  let opens := ofTriple (getWords s (F.TIM_CAP_OPEN_TIME k 0).key 3) / 2 ^ 24
  let closes := ofTriple (getWords s (F.TIM_CAP_CLOSE_TIME k 0).key 3) / 2 ^ 24
  if win ∧ (fine < opens ∨ closes ≤ fine) then incF s (F.TIM_CAP_OUTWIN_COUNT k)
  else
    let i := getF s (F.TIM_CAP_STAT_WR k)
    let s := addF s (F.TIM_CAP_STAT_SEQ k) 1
    let seq := getF s (F.TIM_CAP_STAT_SEQ k)
    let s := setF s (F.TIM_CAP_STAT_WR k) (i + 1)
    let slot := (F.TIM_CAP_STAT_WR k).key - 0x1C + 0x40 + 0x10 * i
    let s := setWords s slot 4 (tripleOf t + 2 ^ 96 * (bit01 rising + 65536 * seq))
    if flag s (F.TIM_CAP_CFG_NOTE k) then
      produceCounted s (getF s F.TIM_NOTE_CFG_QUEUE) 0x07 (getF s F.TIM_NOTE_CFG_PRIO)
        (leBytes 4 (4 * bit01 rising + 256 * k + 65536 * seq) ++ leBytes 12 (tripleOf t))
    else s

end Sys2Proof.Machine
end

