-- ==== Sys2Proof/Machine/PlazaOps.lean ====
section
/-! DEFINITION. Plaza's cells, queues, admission, marking, drops, capture and flow control (R140 to R156, R164 to R170). -/

namespace Sys2Proof.Machine

/-! ### Stored frames (R140, R141) -/

/-- The 24-byte header of a Luaven frame (R109). -/
def ringHeader (f : RingFrame) : List Byte :=
  beBytes 1 (f.type.toNat * 16 + f.cls.toNat * 2 + bit01 f.cm)
    ++ beBytes 1 (128 * bit01 f.epoch + 64 * bit01 f.enc + 32 * bit01 f.copyDone + 16 * bit01 f.side
      + 8 * bit01 f.wrapped + 4 * bit01 f.clr)
    ++ [f.destNode, f.srcNode] ++ beBytes 2 f.seq.toNat ++ [f.hopLimit, f.destUnit]
    ++ beBytes 2 f.payload.length ++ beBytes 6 f.typeSpecific.toNat ++ beBytes 8 f.tsOrTxn.toNat

/-- The bytes Plaza stores of a frame (R140). -/
def storedBytes : Body → List Byte
  | .eth bytes => bytes
  | .ring f => ringHeader f ++ f.payload

/-- The cells a frame of `b` stored bytes takes (R140). -/
def cellsFor (b : Nat) : Nat := (b + 32 + 255) / 256

def queueRefs (s : State) (q : Nat) : List QRef := (assoc q s.plaza.queues).getD []

def setRefs (s : State) (q : Nat) (l : List QRef) : State :=
  s.withPlaza { s.plaza with queues := put q l s.plaza.queues }

/-- A queue's depth in cells. -/
def queueDepth (s : State) (q : Nat) : Nat := ((queueRefs s q).map QRef.cells).sum

def frameOf (s : State) (fid : Nat) : Option PlzFrame := s.plaza.frames.find? (fun f => f.fid = fid)

/-- How many queues hold a frame (REFS of R141). -/
def refsOf (s : State) (fid : Nat) : Nat :=
  (s.plaza.queues.map (fun p => (p.2.filter (fun r => r.fid = fid)).length)).sum

/-- The 32-byte internal header of a frame (R141). -/
def internalHeader (f : PlzFrame) (refs : Nat) : List Byte :=
  leBytes 4 ((storedBytes f.body).length % 2 ^ 14 + f.inPort % 128 * 2 ^ 14 + f.cls % 8 * 2 ^ 21 + bit01 f.cm * 2 ^ 24
      + bit01 f.epochMac * 2 ^ 25 + bit01 f.epochRmap * 2 ^ 26 + bit01 f.ptp * 2 ^ 27 + bit01 f.ct * 2 ^ 28
      + bit01 f.bad * 2 ^ 29)
    ++ leBytes 4 (f.vid % 2 ^ 12 + f.destNode % 256 * 2 ^ 12 + f.outPort % 128 * 2 ^ 20)
    ++ leBytes 4 f.arrival ++ leBytes 4 (f.stamp / 2 ^ 32 % nsPerSec) ++ leBytes 4 (f.stamp / 2 ^ 32 / nsPerSec)
    ++ leBytes 4 (refs % 256) ++ List.replicate 8 0

/-- Where cell `n` stands (R140). -/
def cellAddr (n : Nat) : Nat := keyOf unitPLZ (0x01000000 + 256 * n)

/-- The content of a frame's cells, the first carrying the internal header (R140). -/
def writeCells (s : State) : List Nat → List Byte → State
  | [], _ => s
  | c :: cs, bytes => writeCells (memWrite s (cellAddr c) (bytes.take 256)) cs (bytes.drop 256)

/-- The internal header of a frame rewritten where its REFS, CM or BAD have changed. -/
def writeHeader (s : State) (f : PlzFrame) : State :=
  match f.cells with
  | [] => s
  | c :: _ =>
    let bs := internalHeader f (refsOf s f.fid)
    if memRead s (cellAddr c) bs.length = bs then s else memWrite s (cellAddr c) bs

/-- `n` cells that no frame holds; where the search begins is free (log entry 5). -/
def pickCells (s : State) (n : Nat) : List Nat :=
  let used := s.plaza.frames.flatMap PlzFrame.cells
  let total := s.ident.variant.cells
  let start := Config.freeCell s.fresh % total
  (((upTo total).map (fun i => (start + i) % total)).filter (fun c => !used.contains c)).take n

/-! ### The pool (R147) -/

/-- The sum of GUAR over all 1,024 queues. An unwritten register holds 8. -/
def guarSum (s : State) : Nat :=
  let written := s.regs.filter (fun p =>
    (F.PLZ_Q_CFG_GUAR 0).key ≤ p.1 && p.1 < (F.PLZ_Q_CFG_GUAR 1024).key)
  8 * (1024 - written.length) + (written.map (fun p => p.2.toNat % 256)).sum

/-- The size of the shared pool. -/
def poolSize (s : State) : Nat := s.ident.variant.cells - guarSum s - getF s F.PLZ_POOL_CFG_C7_RES

/-- The class of a queue (R123, R145). -/
def queueClass (s : State) (q : Nat) : Nat :=
  if q < 832 then q % 8 else if q < 834 then 5 else if q < 846 then (q - 834) % 6 else getF s (F.PLZ_SQ_CFG_CLASS (q - 832))

/-- The cells that the free counts charge to each queue: a frame of several queues is charged once, to the first that holds it
(R142; log entry 179). -/
def charges (s : State) : List (Nat × Nat) :=
  (s.plaza.queues.foldl (fun (acc : List (Nat × Nat) × List Nat) p =>
    let fresh := p.2.filter (fun r => !acc.2.contains r.fid)
    (acc.1 ++ [(p.1, (fresh.map QRef.cells).sum)], acc.2 ++ fresh.map QRef.fid)) ([], [])).1

/-- The cells charged to a queue. -/
def chargeOf (s : State) (q : Nat) : Nat := (assoc q (charges s)).getD 0

/-- What the queues of a class hold beyond their guarantees. -/
def classExcess (s : State) (c : Nat) : Nat :=
  ((charges s).map (fun p => if queueClass s p.1 = c then p.2 - getF s (F.PLZ_Q_CFG_GUAR p.1) else 0)).sum

/-- The cells that class 7 holds of the life-safety reserve: beyond its guarantees it takes them first (R148). -/
def c7Used (s : State) : Nat := min (getF s F.PLZ_POOL_CFG_C7_RES) (classExcess s 7)

/-- The cells of the shared pool that a class holds (PLZ_CLASSc_STAT.SHARED). -/
def classShared (s : State) (c : Nat) : Nat := classExcess s c - if c = 7 then c7Used s else 0

/-- f of R148: free shared-pool cells. -/
def sharedFree (s : State) : Nat := poolSize s - ((upTo 8).map (classShared s)).sum

/-- Free cells of the life-safety reserve. -/
def c7Free (s : State) : Nat := getF s F.PLZ_POOL_CFG_C7_RES - c7Used s

/-! ### Admission, marking, drops (R148, R151, R153) -/

/-- The egress port of a queue (R145). -/
def queuePort (s : State) (q : Nat) : Nat := if q < 832 then q / 8 else getF s (F.PLZ_SQ_CFG_PORT (q - 832))

/-- Whether Plaza admits frames towards a port: ring ports always, others in state Up (R166). -/
def portUp (s : State) (p : Nat) : Bool := p = 96 || p = 97 || getF s (F.PLZ_PORT_STAT_STATE p) = 3

/-- The procedure of R148: 0 accepts; otherwise the drop reason. -/
def admitReason (s : State) (q cls : Nat) : Nat :=
  let guar := getF s (F.PLZ_Q_CFG_GUAR q)
  let d := queueDepth s q
  if !portUp s (queuePort s q) then 3
  else if d < guar then 0
  else if cls = 7 ∧ 0 < c7Free s then 0
  else if sharedFree s = 0 then 2
  else if (d - guar) * 8 < 2 ^ (min 6 (getF s (F.PLZ_CLASS_STAT_ALPHA_NOW cls))) * sharedFree s then 0
  else 1

/-- PLZ_DROP_<name> of a drop reason (R153). -/
def dropCounter (reason : Nat) : Fld := ⟨F.PLZ_DROP_POOL_COUNT.key + 4 * (reason - 1), 0, 32⟩

/-- A frame lost by a queue (R153); POOL drops of a class are remembered for R149. -/
def dropAt (s : State) (q cls reason : Nat) : State :=
  let s := incF (incF s (dropCounter reason)) (F.PLZ_Q_DROP_COUNT q)
  let s := setF s (F.PLZ_Q_DEPTH_LAST_REASON q) reason
  if reason = 1 then s.withPlaza { s.plaza with poolDrops := s.plaza.poolDrops ||| BitVec.ofNat 8 (2 ^ cls) } else s

/-- A frame lost before a queue is chosen (R153). -/
def dropIngress (s : State) (reason : Nat) : State := incF s (dropCounter reason)

/-- The mark of R151 at queue `q`: whether the frame is marked there. -/
def marksAt (s : State) (q cls : Nat) : Bool :=
  let m := getF s (F.PLZ_Q_CFG_MARK16 q)
  decide (cls ≤ 5) && m != 0 && decide (m * 16 ≤ queueDepth s q)

/-- Count a mark and set CM in the stored frame. -/
def markFrame (s : State) (q fid : Nat) : State :=
  let s := incF (incF s F.PLZ_MARKED_COUNT) (F.PLZ_Q_MARK_COUNT q)
  s.withPlaza { s.plaza with frames := s.plaza.frames.map (fun f => if f.fid = fid then { f with cm := true } else f) }

/-- A place a frame is to go: a queue, a reason already found for dropping it there (0 for none), and what its reference
says (`QRef`). -/
structure Target where
  queue : Nat
  shadow : Bool
  reason : Nat
  wrapped : Bool
  hdr : Option RingFrame
deriving DecidableEq, Repr

/-- A queue without more to say than whether the reference is a shadow one. -/
def plainTarget (q : Nat) (shadow : Bool) (reason : Nat) : Target := ⟨q, shadow, reason, false, none⟩

/-- One more reference to a stored frame, at the end of a queue. -/
def pushRef (s : State) (t : Target) (fid n : Nat) : State :=
  setRefs s t.queue (queueRefs s t.queue ++ [⟨fid, n, t.shadow, t.wrapped, t.hdr⟩])

/-- A frame stored and referenced by its first queue. -/
def storeFrame (s : State) (f : PlzFrame) (t : Target) : State :=
  let n := cellsFor (storedBytes f.body).length
  let f := { f with cells := pickCells s n }
  let s := s.withFresh (s.fresh + 1)
  let s := s.withPlaza { s.plaza with frames := s.plaza.frames ++ [f] }
  let s := pushRef s t f.fid n
  writeCells s f.cells (internalHeader f 1 ++ storedBytes f.body)

/-- Whether the cells of a frame of class `cls` are to be had at queue `q`, from its guarantee, then (class 7) the reserve, then
the shared pool (R148: otherwise it is cut off with NOBUF). -/
def cellsFit (s : State) (q cls n : Nat) : Bool :=
  let guar := getF s (F.PLZ_Q_CFG_GUAR q)
  let held := chargeOf s q
  let need := (held + n - guar) - (held - guar)
  decide (need ≤ sharedFree s + if cls = 7 then c7Free s else 0)

/-- Why a queue does not take frame `f`: a reason already found, the procedure of R148, or no cells to be had for a frame
that is not stored yet; 0 if it takes it. -/
def offerReason (s : State) (f : PlzFrame) (t : Target) : Nat :=
  let reason := if t.reason ≠ 0 then t.reason else admitReason s t.queue f.cls
  if reason = 0 ∧ frameOf s f.fid = none ∧ cellsFit s t.queue f.cls (cellsFor (storedBytes f.body).length) = false then 2
  else reason

/-- Offer frame `f` (stored already or not) to one queue. -/
def offerQueue (s : State) (f : PlzFrame) (t : Target) : State :=
  let q := t.queue
  let reason := offerReason s f t
  if reason ≠ 0 then dropAt s q f.cls reason
  else
    let marks := marksAt s q f.cls
    let s := match frameOf s f.fid with
      | some _ => pushRef s t f.fid (cellsFor (storedBytes f.body).length)
      | none => storeFrame s f t
    if marks then markFrame s q f.fid else s

/-! ### Cut-through (R143) -/

/-- The line rate of a port in 10 kb/s, both lanes of a ring port together (R91, R106); 0 for an internal port, which has
none. -/
def lineRate (s : State) (p : Nat) : Nat :=
  if p < 96 then
    match bitsAt (getF s (F.ACC_LANE_STAT_SPEED (p / 4))) (2 * (p % 4)) 2 with
    | 0 => 1000 | 1 => 10000 | 2 => 100000 | _ => 1000000
  else if p < 98 then
    match getF s (F.RNG_PORT_STAT_RATE (p - 96)) with
    | 0 => 250000 | 1 => 2062500 | _ => 5156250
  else 0

/-- Whether a frame from `inPort` is eligible for dequeue at `outPort` once its first cell has been written: the egress line is
no faster than the ingress line. -/
def eligibleEarly (s : State) (inPort outPort : Nat) : Bool :=
  decide (0 < lineRate s outPort) && decide (lineRate s outPort ≤ lineRate s inPort)

/-! ### Capture (R168 to R170) -/

/-- A capture record written, or counted as missed when capture is stopped or the engine is busy. -/
def captureRecord (s : State) (f : PlzFrame) (q depth cause reason : Nat) : State :=
  let wr := getF s F.PLZ_CAP_STAT_WR_IDX
  let busy := match s.plaza.capLast with
    | some t => decide (s.mono < t + 36)
    | none => false
  let stops := flag s F.PLZ_CAP_CFG_STOP_FULL && (wr + 1) % 4096 = getF s F.PLZ_CAP_RD_RD_IDX
  if flag s F.PLZ_CAP_STAT_FULL || stops then
    incF (if stops then setFlag s F.PLZ_CAP_STAT_FULL true else s) F.PLZ_CAP_MISS_COUNT
  else if busy then incF s F.PLZ_CAP_MISS_COUNT
  else
    let bytes := storedBytes f.body
    let ns := f.stamp / 2 ^ 32
    let meta_ := leBytes 4 (ns % nsPerSec) ++ leBytes 8 (ns / nsPerSec % 2 ^ 48 + f.stamp / 2 ^ 24 % 256 * 2 ^ 48)
      ++ leBytes 4 (f.inPort % 128 + f.outPort % 128 * 2 ^ 7 + f.cls % 8 * 2 ^ 14 + q % 1024 * 2 ^ 17 + cause * 2 ^ 27)
      ++ leBytes 4 (bytes.length % 2 ^ 14 + reason * 2 ^ 14 + bit01 f.cm * 2 ^ 18 + bit01 f.epochMac * 2 ^ 19
        + bit01 f.epochRmap * 2 ^ 20)
      ++ leBytes 4 (depth % 2 ^ 17) ++ leBytes 4 (getF s F.PLZ_CAP_TOTAL_COUNT) ++ List.replicate 4 0
    let s := memWrite s (keyOf unitPLZ (0x00800000 + 96 * wr)) (padTo 64 bytes ++ meta_)
    let s := incF (setF s F.PLZ_CAP_STAT_WR_IDX (wr + 1)) F.PLZ_CAP_TOTAL_COUNT
    s.withPlaza { s.plaza with capLast := some s.mono }

/-- Whether a frame that enters a port is the Nth of its class mask there (R168), and the count after it. -/
def sampleStep (s : State) (f : PlzFrame) : Bool × State :=
  let n := getF s (F.PLZ_CAP_P_N f.inPort)
  if n ≠ 0 ∧ bitF s (F.PLZ_CAP_P_CLASS_MASK f.inPort) f.cls then
    let c := (assoc f.inPort s.plaza.capCount).getD 0 + 1
    if n ≤ c then (true, s.withPlaza { s.plaza with capCount := put f.inPort 0 s.plaza.capCount })
    else (false, s.withPlaza { s.plaza with capCount := put f.inPort c s.plaza.capCount })
  else (false, s)

/-- What was decided of a frame at one queue: the queue, its depth in cells then, and the drop reason or 0. -/
abbrev Decision := Nat × Nat × Nat

/-- The stored frame, if it is one, remembered as one that has qualified for capture (R168). -/
def markSeen (s : State) (fid : Nat) : State :=
  s.withPlaza { s.plaza with
    frames := s.plaza.frames.map (fun f => if f.fid = fid then { f with seen := true } else f) }

/-- Whether capture of drops with a reason is on (R168, R171). -/
def capturesDrop (s : State) (reason : Nat) : Bool :=
  decide (1 ≤ reason) && bitF s F.PLZ_CAP_CFG_DROP_MASK (reason - 1)

/-- The capture of a frame at ingress: sampled, triggered, or dropped with a reason in DROP_MASK; it qualifies once
(R168). `ds` are the decisions of its queues: a record shows the first, or the first drop that is captured. -/
def captureFrame (s : State) (f : PlzFrame) (ds : List Decision) : State :=
  if flag s F.PLZ_CAP_CFG_EN && !f.seen then
    let record (s : State) (d : Decision) (cause : Nat) : State := markSeen (captureRecord s f d.1 d.2.1 cause d.2.2) f.fid
    let (sampled, s) := sampleStep s f
    let left := getF s F.PLZ_CAP_STAT_TRIG_LEFT
    let s' := if 0 < left then setF s F.PLZ_CAP_STAT_TRIG_LEFT (left - 1) else s
    if sampled then record s' (ds.headD (1023, 0, 0)) 0
    else if 0 < left then record s' (ds.headD (1023, 0, 0)) 1
    else match ds.find? (fun d => capturesDrop s d.2.2) with
      | some d => record s d 2
      | none => s
  else s

/-- The capture of a frame that a queue loses after its ingress, unless it has qualified before (R168). -/
def captureLoss (s : State) (f : PlzFrame) (q reason : Nat) : State :=
  if flag s F.PLZ_CAP_CFG_EN && !f.seen && capturesDrop s reason then
    markSeen (captureRecord s f q (queueDepth s q) 2 reason) f.fid
  else s

/-! ### Flow control (R154 to R156) -/

/-- The cells held by frames that entered on a port, of one class (R154). -/
def ingressCells (s : State) (p c : Nat) : Nat :=
  ((s.plaza.frames.filter (fun f => f.inPort = p && f.cls = c)).map (fun f => f.cells.length)).sum

/-- One PAUSE quantum of a port in tenths of a nanosecond: 512 bit times at the speed of its link. -/
def quantumTenths (s : State) (p : Nat) : Nat :=
  match bitsAt (getF s (F.ACC_LANE_STAT_SPEED (p / 4))) (2 * (p % 4)) 2 with
  | 0 => 512000 | 1 => 51200 | 2 => 5120 | _ => 512

/-- `q` quanta of a port in ticks. -/
def quantaTicks (s : State) (p q : Nat) : Nat := q * quantumTenths s p / 20

/-- The priorities that PCPMAP maps to class `c`, as a bit mask. -/
def prioritiesOf (s : State) (p c : Nat) : Nat :=
  ((upTo 8).map (fun n => if bitsAt (getF s (F.ACC_MAC_PCPMAP_MAP p)) (3 * n) 3 = c then 2 ^ n else 0)).sum

/-- Send a PAUSE or PFC frame and count it. -/
def sendPause (s : State) (p : Nat) (pfc : Bool) (prios quanta : Nat) : State :=
  incF (output s (.pauseFrame p pfc (BitVec.ofNat 8 prios) quanta)) (F.ACC_MAC_TX_PAUSE_COUNT p)

/-- The timer of a port's PAUSE; the classes of PFC have one each. -/
def pauseAll : Nat := 8

/-- PAUSE of a port at its thresholds (R155): the port's total count. It asks for no pause of class 7 (R156). -/
def pauseTotal (s : State) (p : Nat) : State :=
  let total := ((upTo 8).map (ingressCells s p)).sum
  let on := getF s (F.PLZ_PORT_STAT_XOFF_TX p) ≠ 0
  if !on && decide (getF s (F.ACC_MAC_FC_XOFF p) < total) then
    startTimer (sendPause (setF s (F.PLZ_PORT_STAT_XOFF_TX p) 0x7F) p false 0 0xFFFF) (.pauseTx p pauseAll)
      (quantaTicks s p 32768)
  else if on && decide (total ≤ getF s (F.ACC_MAC_FC_XON p)) then
    stopTimer (sendPause (setF s (F.PLZ_PORT_STAT_XOFF_TX p) 0) p false 0 0) (.pauseTx p pauseAll)
  else s

/-- PFC of one class of a port at its thresholds (R155). -/
def pauseClass (s : State) (p c : Nat) : State :=
  let n := ingressCells s p c
  let on := bitF s (F.PLZ_PORT_STAT_XOFF_TX p) c
  if !on && decide (getF s (F.ACC_MAC_FC_XOFF p) < n) then
    startTimer (sendPause (setBitF s (F.PLZ_PORT_STAT_XOFF_TX p) c true) p true (prioritiesOf s p c) 0xFFFF)
      (.pauseTx p c) (quantaTicks s p 32768)
  else if on && decide (n ≤ getF s (F.ACC_MAC_FC_XON p)) then
    stopTimer (sendPause (setBitF s (F.PLZ_PORT_STAT_XOFF_TX p) c false) p true (prioritiesOf s p c) 0) (.pauseTx p c)
  else s

/-- A port that no longer sends PAUSE or PFC asks for nothing more. -/
def stopPauses (s : State) (p : Nat) : State :=
  (upTo 9).foldl (fun t c => stopTimer t (.pauseTx p c)) (setF s (F.PLZ_PORT_STAT_XOFF_TX p) 0)

/-- The transmitted flow control of an access port after its ingress count has changed; never for class 7 (R156). -/
def pauseCheck (s : State) (p : Nat) : State :=
  if 96 ≤ p then s
  else if flag s (F.ACC_MAC_CFG_PFC_EN p) then (upTo 7).foldl (fun t c => pauseClass t p c) s
  else if flag s (F.ACC_MAC_CFG_TX_PAUSE_EN p) then pauseTotal s p
  else if getF s (F.PLZ_PORT_STAT_XOFF_TX p) = 0 then s
  else stopPauses s p

/-- The flow control of a port whose mode may have changed: what the old one asked for ends (R155). -/
def pauseMode (s : State) (p : Nat) (pfc tx : Bool) : State :=
  if pfc = flag s (F.ACC_MAC_CFG_PFC_EN p) ∧ tx = flag s (F.ACC_MAC_CFG_TX_PAUSE_EN p) then s
  else pauseCheck (stopPauses s p) p

/-! ### Entering and leaving queues -/

/-- The decisions that a frame meets at its queues, taken one after the other. -/
def decisionsOf (f : PlzFrame) : List Target → State → List Decision
  | [], _ => []
  | x :: xs, s => (x.queue, queueDepth s x.queue, offerReason s f x) :: decisionsOf f xs (offerQueue s f x)

/-- A frame offered to its queues: stored once, referenced by every queue that admits it (R142), then captured and
counted for flow control. The frame takes the next frame number. -/
def storeAndOffer (s : State) (f : PlzFrame) (targets : List Target) : State :=
  let f := { f with
    fid := s.plaza.nextFid
    ct := targets.any (fun t => eligibleEarly s f.inPort (queuePort s t.queue))
    outPort := match targets with
      | [t] => queuePort s t.queue
      | _ => 127 }
  let s := s.withPlaza { s.plaza with nextFid := s.plaza.nextFid + 1 }
  let ds := decisionsOf f targets s
  let s := targets.foldl (fun t x => offerQueue t f x) s
  let s := match frameOf s f.fid with
    | some g => writeHeader s g
    | none => s
  pauseCheck (captureFrame s ((frameOf s f.fid).getD f) ds) f.inPort

/-- A frame offered to its queues; while Plaza is fenced or in reset nothing is stored (R370). -/
def enqueueFrame (s : State) (f : PlzFrame) (targets : List Target) : State :=
  if live s unitPLZ then storeAndOffer s f targets else s

/-- A reference removed from a queue; with the last one the frame's cells return (R142). -/
def removeRef (s : State) (q : Nat) (r : QRef) : State :=
  let s := setRefs s q ((queueRefs s q).erase r)
  match frameOf s r.fid with
  | none => s
  | some f =>
    if refsOf s r.fid = 0 then
      pauseCheck (s.withPlaza { s.plaza with frames := s.plaza.frames.filter (fun g => g.fid ≠ r.fid) }) f.inPort
    else writeHeader s f

/-- A frame of a queue lost with a reason (R153). -/
def discardRef (s : State) (q : Nat) (r : QRef) (reason : Nat) : State :=
  match frameOf s r.fid with
  | some f => dropAt (removeRef (captureLoss s f q reason) q r) q f.cls reason
  | none => dropAt (removeRef s q r) q 0 reason

/-- Every frame of a queue discarded with a reason. -/
def discardQueue (s : State) (q reason : Nat) : State :=
  (queueRefs s q).foldl (fun t r => discardRef t q r reason) s

/-- The plain queues and the general sub-queues of a port (R145). -/
def queuesOfPort (s : State) (p : Nat) : List Nat :=
  (upTo 8).map (fun c => p * 8 + c) ++
    ((s.plaza.queues.map Prod.fst).filter (fun q => decide (832 ≤ q) && queuePort s q = p))

/-- A frame built at its ingress, as it stands before it is stored. -/
def newFrame (s : State) (body : Body) (inPort cls : Nat) (vid destNode : Nat) (cm : Bool) : PlzFrame where
  fid := 0
  cells := []
  body := body
  inPort := inPort
  cls := cls
  cm := cm
  epochMac := bitF s F.SYS_EPOCH_STAT_ACTIVE 0
  epochRmap := bitF s F.SYS_EPOCH_STAT_ACTIVE 1
  ptp := false
  ct := false
  bad := false
  vid := vid
  destNode := destNode
  outPort := 127
  arrival := tbNs s 2 % 2 ^ 32
  stamp := s.tb 0
  ptpStamp := 0
  ingressSeq := 0
  seen := false

/-- A frame for a local unit that takes frames at internal port `p` (R144): what was decided of it there is captured, and it is
handed over where the port is Up, else lost by the port's queue (R153, R166, R168). -/
def handAt (s : State) (p : Nat) (f : PlzFrame) (give : State → State) : State :=
  let q := p * 8 + f.cls
  let reason := if portUp s p then 0 else 3
  let s := captureFrame s { f with outPort := p } [(q, queueDepth s q, reason)]
  if reason = 0 then give s else dropAt s q f.cls reason

/-- The MAC's sequence number of the frame that an access port took last (R326). -/
def lastIngress (s : State) (p : Nat) : Nat := ((assoc p s.plaza.ingressSeq).getD 0 + 2 ^ 24 - 1) % 2 ^ 24

/-- The frames resident that were classified under a bank of epoch table 0 or 1 (R167). -/
def resident (s : State) (table : Nat) (bank : Bool) : Bool :=
  s.plaza.frames.any (fun f => if table = 0 then f.epochMac = bank else f.epochRmap = bank)

end Sys2Proof.Machine
end

