-- ==== Sys2Proof/Machine/TwinOps.lean ====
section
/-! DEFINITION. The twin's claim, outputs and role (R319, R320, R323, R331): the parts other units need. -/

namespace Sys2Proof.Machine

/-- Whether the peer shows role Standby on the link (R331, R335). -/
def peerStandby (s : State) : Bool := s.twin.linkUp && s.twin.peerRole = 1

/-- TWN_CLAIM lowered; TWN_OE falls in the same clock (R319). -/
def lowerClaim (s : State) : State := s.withTwin { s.twin with claim := false, oe := false }

/-- The twin role set. -/
def setRole (s : State) (r : Role) : State := s.withTwin { s.twin with role := r }

/-- TWN_PEER low for 2 µs or more (R319). -/
def peerLow (s : State) : Bool := !s.pins.twnPeer && due s .peerLow

/-- A claim raised, which R320 allows only when TWN_PEER has been low for 2 µs; TWN_OE follows by R319 in Service or
Degraded, in role Active or Single (R27). On a GK7208 TWN_PEER is ignored (R318). -/
def raiseClaim (s : State) : State :=
  if peerLow s || !s.ident.variant.hasTwn then s.withTwin { s.twin with claim := true, oe := inService s && acting s }
  else s

/-- Ticks until the next node-cycle boundary of the running cycle. -/
def toBoundary (s : State) : Nat := s.time.lastBoundary + s.time.cycleLen / 2 - s.mono

/-- Whether a boundary falls within the next 3 µs: one that is overdue does not (R331). -/
def boundaryNear (s : State) : Bool :=
  decide (s.mono ≤ s.time.lastBoundary + s.time.cycleLen / 2) && decide (toBoundary s ≤ 3 * ticksUs)

/-- The Active gives up its role: its claim falls and nothing of a handover or a delta stands (R331, R334). The requests it
has executed need no replay (R32). -/
def leaveActive (s : State) (r : Role) : State :=
  let s := setRole (lowerClaim s) r
  let s := setFlag s F.TWN_CTL_HANDOVER false
  let s := s.withTxn { s.txn with copied := s.txn.executed }
  s.withTwin { s.twin with
    delta := [], executedNew := [], told := [], handoverReq := false, finalOut := false, finalAcked := false
    unacked := false, finalIn := none, releasing := false }

/-- The Active releases its claim and enters NotReady (R331): with its link up and a boundary due within 3 µs by the planned
path of R334, else at once (log entry 28). -/
def releaseClaim (s : State) : State :=
  if s.twin.role ≠ .active then s
  else if s.twin.linkUp && boundaryNear s then s.withTwin { s.twin with handoverReq := true, releasing := true }
  else leaveActive s .notReady

/-- A resynchronisation over or given up (R330). -/
def endResync (s : State) : State :=
  let s := setFlag (setFlag s F.TWN_STAT_RESYNC_BUSY false) F.TWN_STAT_SW_INHIBIT false
  s.withTwin { s.twin with snapDone := false }

/-- The twin link lost (R323, R327): the peer's role reads NotReady, a Standby becomes NotReady, and a release that took the
planned path is made at once (R331). -/
def twinLinkLost (s : State) : State :=
  let s := s.withTwin { s.twin with linkUp := false, peerRole := 3, peerResync := false, rxDelta := [], pinFault := false }
  let s := endResync (stopTimer s .twinKa)
  if s.twin.role = .standby then setRole s .notReady
  else if s.twin.role = .active && s.twin.releasing then leaveActive s .notReady
  else s

/-- A trigger of R331 that acts only while the peer shows role Standby. -/
def releaseIfPeerReady (s : State) : State := if peerStandby s then releaseClaim s else s

end Sys2Proof.Machine
end

