-- ==== Sys2Proof/Machine/RingOps.lean ====
section
/-! DEFINITION. The Crossing's station logic apart from reception (R114 to R123, R126 to R130): adding frames, the ring
map, breaks and wraps. -/

namespace Sys2Proof.Machine

/-! ### Frame types (R110) -/

def tyDATA : BitVec 4 := 0x1
def tySIGNAL : BitVec 4 := 0x2
def tyTXN_REQ : BitVec 4 := 0x3
def tyTXN_RSP : BitVec 4 := 0x4
def tyMGMT : BitVec 4 := 0x5
def tyTIME : BitVec 4 := 0x6
def tyKEEPALIVE : BitVec 4 := 0x7
def tyWRAP : BitVec 4 := 0x8
def tyPOST_FAULT : BitVec 4 := 0x9
def tyTEST : BitVec 4 := 0xF

/-- Bits `[lo+width-1:lo]` of a frame's type_specific field. -/
def tsBits (f : RingFrame) (lo width : Nat) : Nat := bitsAt f.typeSpecific.toNat lo width

/-- An announcement: a KEEPALIVE of subtype 1 (R110). -/
def isAnnouncement (f : RingFrame) : Bool := f.type = tyKEEPALIVE && tsBits f 44 4 = 1

/-- How a frame reaches a ring queue (R63, R123). -/
inductive RingKind where
  | transit | added | response
deriving DecidableEq, Repr

/-- The queue of a ring port for a frame of a class and kind (R63, R123). -/
def ringQueue (port cls : Nat) : RingKind → Nat
  | .transit => (96 + port) * 8 + cls
  | .added => if cls ≤ 5 then 834 + 6 * port + cls else (96 + port) * 8 + cls
  | .response => 832 + port

/-- Frames that a hub in Standby or NotReady queues and never sends (R325): everything it would add but keepalives,
announcements, TIME frames, WRAP notices and responses (log entry 14). -/
def shadowType (k : RingKind) (f : RingFrame) : Bool :=
  k = .added && (f.type = tyDATA || f.type = tySIGNAL || f.type = tyTXN_REQ || f.type = tyTEST)

def broken (s : State) (port : Nat) : Bool := bitF s F.RNG_STAT_BROKEN port

/-- Whether the wrap of R127 step 3 turns a frame round; it strips announcements and frames that have been wrapped. -/
def wrapAllowed (f : RingFrame) : Bool := !(isAnnouncement f || f.wrapped)

/-- A frame as the wrap sends it (R127). -/
def wrapFrame (f : RingFrame) : RingFrame := { f with wrapped := true, hopLimit := 255 }

/-- What a strip at the wrap counts (R127). -/
def countWrapStrip (s : State) (f : RingFrame) : State :=
  if isAnnouncement f then s else incF s F.RNG_WRAP_TWICE_COUNT

/-- The queue of a ring port for a frame of a class and kind whose static entry names a sub-queue: that one if it is enabled
and bound to the port and class, else the queue of R123 (R146). -/
def pickRingQueue (s : State) (port cls sq : Nat) (k : RingKind) : Nat :=
  if 846 ≤ sq ∧ sq < 1024 ∧ flag s (F.PLZ_SQ_CFG_EN (sq - 832)) = true ∧ getF s (F.PLZ_SQ_CFG_PORT (sq - 832)) = 96 + port
      ∧ getF s (F.PLZ_SQ_CFG_CLASS (sq - 832)) = cls ∧ cls ≤ 5 then sq
  else ringQueue port cls k

/-- Where a frame that is to leave by a ring port goes: the port's queue, or wrapped the other port's if that one is broken
(R127). A frame added by an isolated station is dropped and counted. -/
def ringTarget (s : State) (port : Nat) (k : RingKind) (f : RingFrame) (sq : Nat) : List Target × State :=
  let way (p : Nat) (w : Bool) : List Target := [⟨pickRingQueue s p f.cls.toNat sq k, shadowType k f, 0, w, none⟩]
  if !broken s port then (way port false, s)
  else if broken s (1 - port) then ([], if k = .transit then s else incF s F.RNG_ADD_DROP_COUNT)
  else if wrapAllowed f then (way (1 - port) true, s)
  else ([], countWrapStrip s f)

/-- A ring frame as Plaza stores it. -/
def ringStored (s : State) (f : RingFrame) (inPort ptpStamp : Nat) : PlzFrame :=
  let p := newFrame s (.ring f) inPort f.cls.toNat (if f.type = tyDATA then tsBits f 28 12 else 0) f.destNode.toNat f.cm
  { p with ptp := ptpStamp ≠ 0, ptpStamp := ptpStamp, ingressSeq := if inPort < 96 then lastIngress s inPort else 0 }

/-- A ring frame stored once for its targets (R142). -/
def enqueueRing (s : State) (ts : List Target) (f : RingFrame) (inPort ptpStamp : Nat) : State :=
  if ts = [] then s else enqueueFrame s (ringStored s f inPort ptpStamp) ts

/-- A frame sent by a ring port. -/
def sendRing (s : State) (port : Nat) (k : RingKind) (f : RingFrame) (inPort ptpStamp : Nat) : State :=
  let (ts, s) := ringTarget s port k f 0
  enqueueRing s ts f inPort ptpStamp

/-! ### The destination map and directions (R119, R120) -/

/-- The active bank of the ring destination map. -/
def dmapBank (s : State) : Nat := bit01 (bitF s F.SYS_EPOCH_STAT_ACTIVE 1)

/-- Whether a twin of this station is in the ring map (R118). -/
def twinOnRing (s : State) : Bool := s.ring.map.any (fun e => e.node = s.dev.nodeId && e.side ≠ s.dev.side)

/-- The hops to a node in one direction, to the nearer hub of a pair, if it is reachable so. -/
def hopsTo (s : State) (node : Nat) (west : Bool) : Option Nat :=
  let es := s.ring.map.filter (fun e => e.node = node && (if west then e.reachW else e.reachE))
  es.foldl (fun m e =>
    let h := if west then e.hopsW else e.hopsE
    match m with
    | none => some h
    | some k => some (min k h)) none

/-- The direction of R119 for a frame of class 0–6: port 0 East, 1 West. A frame for this hub's own twin goes by the
port that faces it (R118). -/
def directionTo (s : State) (node : Nat) : Nat :=
  if node = 255 then 0
  else if node = s.dev.nodeId then bit01 s.dev.side
  else
    let dir := if node = 0 then 0 else getF s (F.RNG_DMAP_DIR (dmapBank s) node)
    if dir = 1 then 0 else if dir = 2 then 1
    else match hopsTo s node false, hopsTo s node true with
      | some e, some w => if w < e then 1 else if e < w then 0 else getF s F.RNG_CFG_TIE_WEST
      | some _, none => 0
      | none, some _ => 1
      | none, none => 0

/-- hop_limit of R120; entry 0 of the map is not used (R139). -/
def hopLimitFor (s : State) (node : Nat) : Byte :=
  let h := if node = 0 then 0 else getF s (F.RNG_DMAP_HOP_LIMIT (dmapBank s) node)
  let g := getF s F.RNG_CFG_HOP_LIMIT
  BitVec.ofNat 8 (if h ≠ 0 then h else if g ≠ 0 then g else 255)

/-- The next seq for a destination and direction, and the counter advanced (R121). -/
def nextSeq (s : State) (node : Nat) (west : Bool) : BitVec 16 × State :=
  let n := (lookupKey (node, west) s.ring.seqTx).getD 0
  (n, s.withRing { s.ring with seqTx := replaceKey (node, west) (n + 1) s.ring.seqTx })

/-- Whether the station adds only what an unassigned station adds (R116, R117). -/
def actsUnassigned (s : State) : Bool := s.dev.nodeId = 0 || flag s F.RNG_STAT_DUP_ID

/-- Whether a frame carries a Sundem response: RSP of its header is set (R381). -/
def isMgmtResponse (f : RingFrame) : Bool := f.type = tyMGMT && (f.payload.headD 0).getLsbD 3

/-- Whether an unassigned station may add a frame: MGMT responses, keepalives, announcements, TIME frames (R116). -/
def mayAddUnassigned (f : RingFrame) : Bool := isMgmtResponse f || f.type = tyTIME || f.type = tyKEEPALIVE

/-- The header fields every added frame takes from its source (R116, R120, R135). -/
def stampSource (s : State) (f : RingFrame) : RingFrame :=
  { f with
    srcNode := BitVec.ofNat 8 s.dev.nodeId
    side := s.dev.side
    epoch := bitF s F.SYS_EPOCH_STAT_ACTIVE 1
    enc := false
    copyDone := false
    wrapped := false
    clr := false
    tsOrTxn := if actsUnassigned s && !(f.type = tyTIME || f.type = tyKEEPALIVE) then s.ident.uid else f.tsOrTxn }

/-- A frame added on one named port, with its own hop limit (announcements, TIME frames, WRAP notices). -/
def addOnPort (s : State) (port : Nat) (f : RingFrame) : State :=
  let (n, s) := nextSeq s f.destNode.toNat (port = 1)
  sendRing s port .added { stampSource s f with seq := n } 98 0

/-- Whether the destination map blocks frames for a node; its entry 0 is not used (R120, R139). -/
def blockedNode (s : State) (node : Nat) : Bool := node != 0 && flag s (F.RNG_DMAP_BLOCK (dmapBank s) node)

/-- What adding a frame by ring port `port` or, in class 7, on both rings amounts to (R120 to R122): the frame with its header
as it leaves, and the queues it goes to; none where it is not added. -/
def addPlan (s : State) (port : Nat) (k : RingKind) (f : RingFrame) (sq : Nat) : Option (RingFrame × List Target) × State :=
  let node := f.destNode.toNat
  if !live s unitRNG || (actsUnassigned s && !mayAddUnassigned f) then (none, s)
  else if blockedNode s node then (none, incF s F.RNG_BLOCKED_COUNT)
  else if broken s 0 && broken s 1 then (none, incF s F.RNG_ADD_DROP_COUNT)
  else
    let f : RingFrame := { stampSource s f with hopLimit := hopLimitFor s node }
    if f.cls.toNat = 7 then
      let f : RingFrame := { f with seq := s.ring.c7Seq, cm := false }
      let s := s.withRing { s.ring with c7Seq := s.ring.c7Seq + 1 }
      let (east, s) := ringTarget s 0 k f sq
      let (west, s) := ringTarget s 1 k f sq
      (some (f, east ++ west), s)
    else
      let (n, s) := nextSeq s node (port = 1)
      let f : RingFrame := { f with seq := n }
      let (ts, s) := ringTarget s port k f sq
      (some (f, ts), s)

/-- Add a frame by ring port `port` or, in class 7, on both rings; the destination map may block it. -/
def addFrameBy (s : State) (port : Nat) (k : RingKind) (f : RingFrame) (inPort ptpStamp : Nat) : State :=
  match addPlan s port k f 0 with
  | (some (f, ts), s) => enqueueRing s ts f inPort ptpStamp
  | (none, s) => s

/-- Add a frame in the direction of R119. -/
def addFrame (s : State) (k : RingKind) (f : RingFrame) (inPort ptpStamp : Nat) : State :=
  addFrameBy s (directionTo s f.destNode.toNat) k f inPort ptpStamp

/-- A frame with nothing but a type, class, destination and unit. -/
def blankFrame (type : BitVec 4) (cls : BitVec 3) (dest unit : Byte) : RingFrame where
  type := type
  cls := cls
  cm := false
  epoch := false
  enc := false
  copyDone := false
  side := false
  wrapped := false
  clr := false
  destNode := dest
  srcNode := 0
  seq := 0
  hopLimit := 255
  destUnit := unit
  typeSpecific := 0
  tsOrTxn := 0
  payload := []

/-- TB0 in the 64-bit short form of R271. -/
def tb0Short (s : State) : Nat :=
  let t := s.tb 0
  let ns := t / 2 ^ 32
  (ns / nsPerSec % 2 ^ 24) * 2 ^ 40 + (ns % nsPerSec) * 2 ^ 8 + t / 2 ^ 24 % 256

/-- TB0 at 1 ns resolution in the short form of R271: the stamp of a PTP event message (R283). -/
def ptpNow (s : State) : Nat := tb0Short s / 256 * 256

/-! ### The ring map (R115, R129, R138) -/

/-- A new ring map entry: its counters start at zero (R138). -/
def newEntry (node : Nat) (side : Bool) : RingEntry where
  node := node
  side := side
  reachE := false
  reachW := false
  hopsE := 0
  hopsW := 0
  role := 4
  flags := 0
  uid := 0
  lastUs := 0
  copied := 0
  c7Acc := 0
  c7Dup := 0
  gaps := 0
  lastSeqE := none
  lastSeqW := none
  lastAllE := none
  lastAllW := none
  prio := 0xFF
  tbFlags := 0
  masterNode := 0
  masterSide := false
  tb1Prio := 0xFF
  masterHops := 0

def findEntry (s : State) (node : Nat) (side : Bool) : Option RingEntry :=
  s.ring.map.find? (fun e => e.node = node && e.side = side)

/-- An entry replaced where its node and side stand in the map. -/
def updateEntry (s : State) (e : RingEntry) : State :=
  s.withRing { s.ring with map := s.ring.map.map (fun x => if x.node = e.node ∧ x.side = e.side then e else x) }

/-- Any change of the ring map counts in MAP_GEN (R139). -/
def bumpMapGen (s : State) : State := incF s F.RNG_STAT_MAP_GEN

/-- Whether a hub is this one. -/
def isOwn (s : State) (node : Nat) (side : Bool) : Bool := node = s.dev.nodeId && side = s.dev.side

/-- The rule of R129 for one entry: the directions (East, West) that a WRAP notice of event 0 from hub `w` for its
port clears. -/
def wrapClears (w : RingEntry) (west : Bool) (e : RingEntry) : Bool × Bool :=
  if west then (decide (w.hopsE ≤ e.hopsE), decide (w.hopsW < e.hopsW))
  else (decide (w.hopsE < e.hopsE), decide (w.hopsW ≤ e.hopsW))

/-- The 64-bit record of R122, `h` its highest number and bit b for h − b: whether a class-7 number is accepted (0), is a
duplicate (1) or too old (2), and the record after it. -/
def class7Check (rec : Option (BitVec 16 × BitVec 64)) (n : BitVec 16) : Nat × Option (BitVec 16 × BitVec 64) :=
  match rec with
  | none => (0, some (n, 1))
  | some (h, bits) =>
    let ahead := (n - h).toNat
    if ahead = 0 ∨ 32768 ≤ ahead then
      let back := (h - n).toNat
      if 64 ≤ back then (2, rec)
      else if bits.getLsbD back then (1, rec)
      else (0, some (h, bits ||| BitVec.ofNat 64 (2 ^ back)))
    else (0, some (n, (bits <<< ahead) ||| 1))

/-- The last number of one of the source's four counters towards this hub: its own or broadcast frames, sent so that
they arrive from the East or from the West (R121). -/
def lastNumber (e : RingEntry) (east all : Bool) : Option (BitVec 16) :=
  if all then (if east then e.lastAllE else e.lastAllW) else if east then e.lastSeqE else e.lastSeqW

def setLastNumber (e : RingEntry) (east all : Bool) (n : BitVec 16) : RingEntry :=
  if all then (if east then { e with lastAllE := some n } else { e with lastAllW := some n })
  else if east then { e with lastSeqE := some n } else { e with lastSeqW := some n }

/-- The gap count of R121 for classes 0–6: one where a number is ahead of the one expected within the 32,768 window. A
wrapped frame travels against the direction that it was numbered for (log entry 140). -/
def countGap (e : RingEntry) (port : Nat) (f : RingFrame) : RingEntry :=
  let east := (port = 0) != f.wrapped
  let all := f.destNode = 255
  let next := setLastNumber e east all f.seq
  match lastNumber e east all with
  | some m =>
    let ahead := (f.seq - (m + 1)).toNat
    if 0 < ahead ∧ ahead < 32768 then { next with gaps := e.gaps + 1 } else next
  | none => next

/-! ### Breaks, wraps and heals (R126, R127, R130, R131) -/

/-- A WRAP notice for a port on each ring (R127 step 5, R130), with the hop limit of broadcasts unless entry 255 blocks it
(R120). A station without a node ID of its own sends none (R116, R117; log entry 160). -/
def sendWrapNotice (s : State) (port event : Nat) : State :=
  if actsUnassigned s then s
  else
  let g := s.ring.wrapGen + 1
  let s := s.withRing { s.ring with wrapGen := g }
  let f := { blankFrame tyWRAP 6 255 0x02 with
    hopLimit := hopLimitFor s 255
    typeSpecific := BitVec.ofNat 48 (port * 2 ^ 47 + event * 2 ^ 45 + g.toNat * 2 ^ 16)
    tsOrTxn := BitVec.ofNat 64 (tb0Short s) }
  if blockedNode s 255 then addF s F.RNG_BLOCKED_COUNT 2 else addOnPort (addOnPort s 0 f) 1 f

/-- A frame as a reference of a ring queue has it leave: a ring frame, or the DATA frame that carries an access frame, turned
round where the reference says so; `plain` makes one of an access frame without a header of its own. -/
def refFrame (r : QRef) (body : Body) (plain : List Byte → RingFrame) : RingFrame :=
  let g := match body with
    | .ring g => g
    | .eth bs => match r.hdr with
      | some h => { h with payload := bs }
      | none => plain bs
  if r.wrapped then wrapFrame g else g

/-- One queue of a broken port relinked behind the same-class queue of the other port, each frame wrapped or stripped
(R127 steps 2 and 3). No cell is copied. -/
def relinkQueue (s : State) (src dst : Nat) : State :=
  (queueRefs s src).foldl (fun t r =>
    match frameOf t r.fid with
    | some fr =>
      let f := refFrame r fr.body (fun _ => blankFrame tyDATA 0 0 0)
      if wrapAllowed f then
        let t := setRefs t src ((queueRefs t src).erase r)
        setRefs t dst (queueRefs t dst ++ [{ r with wrapped := true }])
      else countWrapStrip (removeRef t src r) f
    | none => t) s

/-- All egress queues of a broken port relinked to the other (R127 step 2). -/
def relinkPort (s : State) (port : Nat) : State :=
  let s := (upTo 8).foldl (fun t c => relinkQueue t ((96 + port) * 8 + c) ((96 + (1 - port)) * 8 + c)) s
  let s := (upTo 6).foldl (fun t c => relinkQueue t (834 + 6 * port + c) (834 + 6 * (1 - port) + c)) s
  relinkQueue s (832 + port) (832 + (1 - port))

/-- The frames whose transmission on the port started less than 20 µs ago are counted as suspect (R131). -/
def countSuspects (s : State) (port : Nat) : State :=
  let p := portSt s port
  let n := (p.suspects.filter (fun t => decide (s.mono < t + 20 * ticksUs))).length
  addF (setPortSt s port { p with suspects := [] }) (F.RNG_PORT_SUSPECT_COUNT port) n

/-- A cause of R126 on a port that is broken already: the port is no longer heal-ready, and its wait of R130 begins anew
(log entry 159). -/
def loseHeal (s : State) (port : Nat) : State :=
  let p := portSt s port
  let s := stopTimer s (.healHold port)
  if p.portState = 2 then
    startTimer (setPortSt s port { p with portState := 1, healReady := false, unwrapReq := false }) (.ka port) 0
  else s

/-- A ring port declared broken (R126, R127, R131). Both ports broken is a trigger of R331. -/
def declareBroken (s : State) (port : Nat) : State :=
  if 2 ≤ port then s
  else if broken s port then loseHeal s port
  else
    let s := incF (countSuspects s port) (F.RNG_PORT_BREAK_COUNT port)
    let s := setBitF (setBitF s F.RNG_STAT_BROKEN port true) F.RNG_STAT_WRAP port true
    let p := portSt s port
    let s := setPortSt s port { p with portState := 1, healReady := false }
    let s := startTimer (stopTimer s (.healHold port)) (.ka port) 0
    let s := if broken s (1 - port) then s else relinkPort s port
    let s := sendWrapNotice s port 0
    let s := recordFault s fltRngWrap unitRNG (BitVec.ofNat 32 port) (regWord s (F.RNG_PORT_BRINGUP_REASON port).key)
    if broken s (1 - port) && flag s F.TWN_ESSENTIAL_RING_ISOLATED then releaseIfPeerReady s else s

/-- The unwrap of R130: PORT_STATE 0 and a healed WRAP notice. -/
def unwrapPort (s : State) (port : Nat) : State :=
  let s := setBitF (setBitF s F.RNG_STAT_BROKEN port false) F.RNG_STAT_WRAP port false
  let s := setPortSt s port { portSt s port with portState := 0, healReady := false, unwrapReq := false }
  sendWrapNotice (startTimer s (.ka port) 0) port 1

/-- The standing causes that keep a port broken whatever its bring-up does: maintenance, a refused cipher context, a
fenced Plaza, a recovery relay (R126, R134, R370, R420). -/
def heldBroken (s : State) (port : Nat) : Bool :=
  (if port = 0 then flag s F.RNG_CTL_WRAP_E else flag s F.RNG_CTL_WRAP_W) || (portSt s port).ctxRefused
    || !live s unitPLZ || s.ring.relayPort = some port

end Sys2Proof.Machine
end

