-- ==== Sys2Proof/Machine/Bridge.lean ====
section
/-! DEFINITION. The bridge in front of Plaza: forwarding tables, lookup, learning, flooding (R157 to R163). -/

namespace Sys2Proof.Machine

/-! ### The tables of the PLZ window (R162, R163) -/

/-- The hash of R162 over VID and MAC address. -/
def macHash (vid mac : Nat) : Nat := crc16 (beBytes 2 (vid % 4096) ++ beBytes 6 mac)

/-- A MAC address from its six bytes in transmission order. -/
def macOf (bs : List Byte) : Nat := ofBe (bs.take 6)

/-- The address of entry `e` of a static bucket in a bank. -/
def staticAddr (bank bucket e : Nat) : Nat :=
  keyOf unitPLZ (0x00100000 + 0x8000 * bank + 64 * bucket + 16 * e)

/-- The address of dynamic entry `i`, counted through the buckets. -/
def dynAddr (i : Nat) : Nat := keyOf unitPLZ (0x00120000 + 12 * i)

/-- A static entry's fields (R163). -/
structure StaticEntry where
  kind : Nat
  dest : Nat
  copyMgt : Bool
  cls : Option Nat
  sq : Nat
deriving DecidableEq, Repr

/-- A static entry read from its 16 bytes, if it is valid and names the address and VID. -/
def readStatic (bs : List Byte) (vid mac : Nat) : Option StaticEntry :=
  let v := ofLe ((bs.drop 6).take 2)
  let w := ofLe ((bs.drop 8).take 4)
  if bitAt v 15 ∧ v % 4096 = vid ∧ macOf bs = mac then
    some ⟨bitsAt w 0 2, bitsAt w 2 8, bitAt w 10, if bitAt w 11 then some (bitsAt w 12 3) else none, bitsAt w 15 10⟩
  else none

/-- The static entry for an address in the active bank of epoch table 0 (R159). -/
def findStatic (s : State) (vid mac : Nat) : Option StaticEntry :=
  let bank := bit01 (bitF s F.SYS_EPOCH_STAT_ACTIVE 0)
  (upTo 4).findSome? (fun e => readStatic (memRead s (staticAddr bank (macHash vid mac % 512) e) 16) vid mac)

/-- The address of the valid dynamic entry for an address, if there is one. -/
def findDynamic (s : State) (vid mac : Nat) : Option Nat :=
  let b := macHash vid mac % 2048
  (upTo 15).findSome? (fun e =>
    let a := dynAddr (15 * b + e)
    let v := memNat s (a + 6) 2
    if bitAt v 15 ∧ v % 4096 = vid ∧ macOf (memRead s a 6) = mac then some a else none)

/-- PORT, NODE and SIDE of a dynamic entry. -/
def dynPlace (s : State) (a : Nat) : Nat × Nat × Bool :=
  let w := memNat s (a + 8) 4
  (bitsAt w 0 7, bitsAt w 7 8, bitAt w 15)

/-- HIT of a dynamic entry set (R161). -/
def hitDynamic (s : State) (a : Nat) : State := memPut s (a + 6) 2 (withBit (memNat s (a + 6) 2) 12 true)

/-- A dynamic entry written, its HIT set. -/
def writeDynamic (s : State) (a vid mac port node : Nat) (side : Bool) : State :=
  let s := memWrite s a (beBytes 6 mac)
  let s := memPut s (a + 6) 2 (vid % 4096 + 2 ^ 12 + 2 ^ 15)
  memPut s (a + 8) 4 (port % 128 + node % 256 * 2 ^ 7 + bit01 side * 2 ^ 15)

/-- A dynamic entry removed. -/
def clearDynamic (s : State) (a : Nat) : State :=
  let s := memWrite s a (List.replicate 12 0)
  setF s F.PLZ_LRN_STAT_ENTRIES (getF s F.PLZ_LRN_STAT_ENTRIES - 1)

/-- The addresses of all valid dynamic entries: those whose byte 7 has its top bit set. -/
def dynamicEntries (s : State) : List Nat :=
  s.mem.filterMap (fun p =>
    if dynAddr 0 ≤ p.1 ∧ p.1 < dynAddr 30720 ∧ (p.1 - dynAddr 0) % 12 = 7 ∧ 128 ≤ p.2.toNat then some (p.1 - 7) else none)

/-- A VLAN entry's first word; 0 when it is not valid or not used (R162, R163). -/
def vlanWord (s : State) (vid : Nat) : Nat :=
  let w := memWord s (keyOf unitPLZ (0x00110000 + 8 * vid))
  if bitAt w 16 ∧ vid ≠ 0 ∧ vid < 4095 then w else 0

/-- Whether a port set holds access port `p`. -/
def inPortSet (s : State) (set_ p : Nat) : Bool :=
  decide (p < 96) && (memByte s (keyOf unitPLZ (0x00118000 + 16 * set_ + p / 8))).getLsbD (p % 8)

/-- Whether access port `p` is a member of a VID (R163). -/
def vlanMember (s : State) (vid p : Nat) : Bool :=
  let w := vlanWord s vid
  bitAt w 16 && inPortSet s (bitsAt w 0 8) p

/-- Whether access port `p` sends a VID untagged: it is in both sets (R163). -/
def vlanUntagged (s : State) (vid p : Nat) : Bool :=
  let w := vlanWord s vid
  vlanMember s vid p && inPortSet s (bitsAt w 8 8) p

def vlanRing (s : State) (vid : Nat) : Bool := bitAt (vlanWord s vid) 17
def vlanLearn (s : State) (vid : Nat) : Bool := bitAt (vlanWord s vid) 18
def vlanFloodRing (s : State) (vid : Nat) : Bool := vlanRing s vid && bitAt (vlanWord s vid) 19
def vlanMgt (s : State) (vid : Nat) : Bool := bitAt (vlanWord s vid) 20

/-! ### Learning (R160) -/

/-- Learn or move a source address. `port` is the access port, or 96 for the ring with node and side. -/
def learnEntry (s : State) (vid mac port node : Nat) (side : Bool) : State :=
  match findDynamic s vid mac with
  | some a =>
    if dynPlace s a = (port, node, side) then hitDynamic s a
    else incF (writeDynamic s a vid mac port node side) F.PLZ_LRN_MOVE_COUNT
  | none =>
    let b := macHash vid mac % 2048
    match (upTo 15).find? (fun e => !bitAt (memNat s (dynAddr (15 * b + e) + 6) 2) 15) with
    | some e =>
      addF (writeDynamic s (dynAddr (15 * b + e)) vid mac port node side) F.PLZ_LRN_STAT_ENTRIES 1
    | none => incF s F.PLZ_LRN_FULL_COUNT

/-- Whether an address is unicast. -/
def isUnicast (mac : Nat) : Bool := !bitAt mac 40

/-- The conditions of R160 apart from the port's own. -/
def mayLearn (s : State) (vid mac : Nat) : Bool :=
  flag s F.PLZ_LRN_CFG_LRN_EN && vlanLearn s vid && isUnicast mac && (findStatic s vid mac).isNone

/-- A source address learned, or where it may not be learned its hit remembered (R160, R161). -/
def learnSource (s : State) (may : Bool) (vid mac port node : Nat) (side : Bool) : State :=
  if may && mayLearn s vid mac then learnEntry s vid mac port node side
  else match findDynamic s vid mac with
    | some a => hitDynamic s a
    | none => s

/-! ### Where a frame goes (R159) -/

/-- What the bridge decides: access or internal ports, the ring node if the frame is for the ring, and the drop reason
of a static entry. -/
structure Forward where
  ports : List Nat
  ringNode : Option Nat
  drop : Nat
  cls : Nat
  sq : Nat
deriving DecidableEq, Repr

/-- The members of a VLAN that a flooded frame reaches (R159): all but the ingress port. -/
def floodPorts (s : State) (vid inPort : Nat) (mgt : Bool) : List Nat :=
  (upTo s.ident.variant.accPorts).filter (fun p => vlanMember s vid p && p != inPort)
    ++ (if mgt && vlanMgt s vid && inPort != 98 then [98] else [])

/-- The table words that a lookup reads: the VID's entry, the static bucket of the active bank and the dynamic bucket. -/
def touchLookup (s : State) (vid da : Nat) : State :=
  let s := eccTouch s (keyOf unitPLZ (0x00110000 + 8 * vid)) 8
  let s := eccTouch s (staticAddr (bit01 (bitF s F.SYS_EPOCH_STAT_ACTIVE 0)) (macHash vid da % 512) 0) 64
  eccTouch s (dynAddr (15 * (macHash vid da % 2048))) 180

/-- The lookup of R159 for destination `da`. A frame from the ring never goes back to it; one for node 255 floods to
access ports only, and only one from an access port floods to the ring. -/
def lookupForward (s : State) (vid da cls inPort : Nat) (fromRing bcast : Bool) : Forward × State :=
  let s := touchLookup s vid da
  let flood : Forward :=
    ⟨floodPorts s vid inPort (!bcast), if !fromRing && decide (inPort < 96) && vlanFloodRing s vid then some 255 else none, 0, cls, 0⟩
  let toRing (n : Nat) : Option Nat := if fromRing then none else some n
  match findStatic s vid da with
  | some e =>
    let cls := e.cls.getD cls
    let mgt := if e.copyMgt then [98] else []
    match e.kind with
    | 0 => (⟨(if e.dest = inPort then [] else [e.dest]) ++ mgt, none, 0, cls, e.sq⟩, s)
    | 1 => (⟨mgt, toRing e.dest, 0, cls, e.sq⟩, s)
    | 2 => (⟨((upTo s.ident.variant.accPorts).filter (fun p => inPortSet s e.dest p && p != inPort)) ++ mgt, none, 0, cls, e.sq⟩, s)
    | _ => (⟨mgt, none, 9, cls, e.sq⟩, s)
  | none =>
    if !isUnicast da then (flood, s)
    else match findDynamic s vid da with
    | some a =>
      let s := hitDynamic s a
      let (p, n, _) := dynPlace s a
      if p = 96 then (⟨[], toRing n, 0, cls, 0⟩, s)
      else (⟨if p = inPort then [] else [p], none, 0, cls, 0⟩, s)
    | none => (flood, s)

/-- The queue of a frame at an egress port: the named sub-queue if it is enabled and bound to the port and class,
else the plain queue (R146). -/
def pickQueue (s : State) (port cls sq : Nat) : Nat :=
  if 846 ≤ sq ∧ sq < 1024 ∧ flag s (F.PLZ_SQ_CFG_EN (sq - 832)) = true ∧ getF s (F.PLZ_SQ_CFG_PORT (sq - 832)) = port
      ∧ getF s (F.PLZ_SQ_CFG_CLASS (sq - 832)) = cls ∧ cls ≤ 5 then sq
  else port * 8 + cls

/-- The longest frame of an access port, FCS and tag included (R172). -/
def maxLen (s : State) (p : Nat) : Nat := min 9216 (getF s (F.ACC_MAC_CFG_MAX_LEN p))

/-- Where a frame of `len` stored bytes goes at one egress port: membership and, on access ports, length are checked (R153).
Port 98 is a member exactly with MGT = 1, no other internal port is one (R163; log entry 180). -/
def egressTarget (s : State) (vid cls sq len p : Nat) : Target :=
  let reason :=
    if 96 ≤ p then (if p = 98 ∧ vlanMgt s vid = true then 0 else 7)
    else if !vlanMember s vid p then 7
    else if maxLen s p < len + 4 + (if vlanUntagged s vid p then 0 else 4) then 8
    else 0
  plainTarget (pickQueue s p cls sq) (decide (p < 96)) reason

/-- An access frame as the DATA frame that carries it on the ring (R110, R159). -/
def dataFrame (bytes : List Byte) (vid srcPort cls node : Nat) (cm : Bool) (stamp : Nat) : RingFrame :=
  { blankFrame tyDATA (BitVec.ofNat 3 cls) (BitVec.ofNat 8 node) 0xFF with
    cm := cm
    typeSpecific := BitVec.ofNat 48 (srcPort % 256 * 2 ^ 40 + vid % 4096 * 2 ^ 28)
    tsOrTxn := BitVec.ofNat 64 stamp
    payload := bytes }

/-- Where a frame that the bridge sends to the ring goes there: its queues, each with the DATA header under which the stored
frame leaves (R119, R142, R146); a VID with RING = 0 drops it (R163). -/
def ringPlaces (s : State) (f : PlzFrame) (bytes : List Byte) (fw : Forward) (stamp : Nat) : List Target × State :=
  match fw.ringNode with
  | none => ([], s)
  | some n =>
    if vlanRing s f.vid then
      match addPlan s (directionTo s n) .added (dataFrame bytes f.vid f.inPort fw.cls n f.cm stamp) fw.sq with
      | (some (g, ts), s) => (ts.map (fun t => { t with hdr := some { g with payload := [] } }), s)
      | (none, s) => ([], s)
    else ([plainTarget (pickRingQueue s (directionTo s n) fw.cls fw.sq .added) true 7], s)

/-- Where the bridge's decision puts a frame at Plaza's other ports; a port that does not exist loses it, and there is no
queue to count that in (log entry 180). -/
def portPlaces (s : State) (vid len : Nat) (fw : Forward) : List Target × State :=
  ((fw.ports.filter (fun p => decide (p < 104))).map (egressTarget s vid fw.cls fw.sq len),
    (fw.ports.filter (fun p => decide (104 ≤ p))).foldl (fun t _ => dropIngress t 7) s)

/-- Put a classified frame where R159 sends it, stored once for all its queues (R142). `f` is the frame as Plaza stores it; a
mark that it enters with stays whatever class a static entry gives it (R151, R152; log entry 178). -/
def forwardFrame (s : State) (f : PlzFrame) (bytes : List Byte) (fw : Forward) (stamp : Nat) : State :=
  let (here, s) := portPlaces s f.vid bytes.length fw
  if fw.drop ≠ 0 then
    let s := captureFrame (dropIngress s fw.drop) f [(1023, 0, fw.drop)]
    let s := if f.inPort < 96 then incF s (F.ACC_MAC_RX_VLAN_DROP_COUNT f.inPort) else s
    if here = [] then s else enqueueFrame s { f with cls := fw.cls, seen := true } here
  else
    let (ring, s) := ringPlaces s f bytes fw stamp
    if here ++ ring = [] then captureFrame s f []
    else enqueueFrame s { f with cls := fw.cls, destNode := fw.ringNode.getD 0 } (here ++ ring)

/-- A DATA frame copied from the ring (R159): to the named access port, or by the bridge's lookup; it never goes back
to the ring, and its source is learned (R160). The ring is a member for ingress only with RING = 1 (R163; log entry
164). -/
def bridgeFromRing (s : State) (port : Nat) (f : RingFrame) : State :=
  let vid := tsBits f 28 12
  let cls := f.cls.toNat
  let da := macOf f.payload
  let sa := macOf (f.payload.drop 6)
  let p := { newFrame s (.eth f.payload) (96 + port) cls vid 0 (f.cm && decide (cls ≤ 5)) with
    ptp := f.tsOrTxn ≠ 0, ptpStamp := f.tsOrTxn.toNat
    ingressSeq := f.srcNode.toNat * 2 ^ 17 + bit01 f.side * 2 ^ 16 + f.seq.toNat }
  if !vlanRing s vid then captureFrame (dropIngress s 7) p [(1023, 0, 7)]
  else
    let s := learnSource s (f.srcNode != 0) vid sa 96 f.srcNode.toNat f.side
    if f.destUnit.toNat < 96 then
      enqueueFrame s p [egressTarget s vid cls 0 f.payload.length f.destUnit.toNat]
    else
      let (fw, s) := lookupForward s vid da cls (96 + port) true (f.destNode = 255)
      forwardFrame s p f.payload { fw with ringNode := none } 0

end Sys2Proof.Machine
end

