-- ==== Sys2Proof/Machine/PortOps.lean ====
section
/-! DEFINITION. The states of Plaza's ports (R166), the lane table and equalisation (R103, R104), access lane modes
(R106). -/

namespace Sys2Proof.Machine

/-! ### The lane table (R103, R104) -/

/-- The 64-bit entry of the per-board lane table for a lane and rate index. Where the table stands in the identity
area is not stated (log entry 15). -/
def laneEntry (s : State) (lane idx : Nat) : Nat := memNat s (nvmBase + 0x00700100 + 8 * (3 * lane + idx)) 8

/-- The sum of R104 over an entry's taps. -/
def tapSum (e : Nat) : Nat :=
  (signed 6 (bitsAt e 0 6)).natAbs + (signed 6 (bitsAt e 6 6)).natAbs + bitsAt e 12 6
    + (signed 6 (bitsAt e 18 6)).natAbs + (signed 6 (bitsAt e 24 6)).natAbs

/-- Whether an entry may be used (R104). -/
def entryValid (e : Nat) : Bool := bitAt e 63 && decide (tapSum e ≤ 63)

/-- The built-in default at rate index 0: MAIN 48, CTLE 4 (R104). -/
def defaultEntry : Nat := 48 * 2 ^ 12 + 4 * 2 ^ 30

/-- Load a lane's equalisation into its pair of registers, named by the key of EQ_TX (R104, R107, R108). The default stands
in at index 0 only; an access lane has no rate to offer instead, so an invalid entry at index 1 or 2 is loaded as it is
(log entry 181). -/
def loadEq (s : State) (key lane idx : Nat) : State :=
  let e := laneEntry s lane idx
  let dflt := idx = 0 && !entryValid e
  let e := if dflt then defaultEntry else e
  let s := setWord s key (BitVec.ofNat 32 (bitsAt e 0 30 + idx * 2 ^ 30))
  setWord s (key + 4) (BitVec.ofNat 32 (bitsAt e 30 4 + bitsAt e 34 24 * 2 ^ 4 + bit01 dflt * 2 ^ 28))

/-! ### Access lanes (R106) -/

/-- How many ports a mode uses. -/
def modePorts (mode : Nat) : Nat := if mode = 3 then 4 else if 1 ≤ mode ∧ mode ≤ 5 then 1 else 0

/-- The rate index of R103 of a mode. -/
def modeRate (mode : Nat) : Nat := if mode = 3 then 1 else if mode = 4 ∨ mode = 5 then 2 else 0

/-- The speeds a mode carries (R106), coded as ACC_LANEn_STAT.SPEED. -/
def modeSpeed (mode speed : Nat) : Bool :=
  if mode = 1 ∨ mode = 3 then decide (speed ≤ 2) else if mode = 2 then speed = 2
  else (mode = 4 || mode = 5) && speed = 3

/-- Whether a mode negotiates, and so can refuse half duplex. -/
def modeNegotiates (mode : Nat) : Bool := mode = 1 || mode = 2 || mode = 3 || mode = 5

def laneMode (s : State) (lane : Nat) : Nat := getF s (F.ACC_LANE_CFG_MODE lane)

/-- Whether access port `p` exists under its lane's mode (R106). -/
def portInMode (s : State) (p : Nat) : Bool :=
  decide (p < s.ident.variant.accPorts) && decide (p % 4 < modePorts (laneMode s (p / 4)))

/-- Whether the link of access port `p` counts as up: the lane shows it, the MAC is enabled (R172), and the ACC unit is
not fenced (R370). -/
def linkUp (s : State) (p : Nat) : Bool :=
  portInMode s p && bitF s (F.ACC_LANE_STAT_LINK (p / 4)) (p % 4) && flag s (F.ACC_MAC_CFG_EN p) && live s unitACC

/-! ### Port states (R166) -/

def psDown : Nat := 0
def psFlushing : Nat := 1
def psHold : Nat := 2
def psUp : Nat := 3

def portState (s : State) (p : Nat) : Nat := getF s (F.PLZ_PORT_STAT_STATE p)
def setPortState (s : State) (p st : Nat) : State := setF s (F.PLZ_PORT_STAT_STATE p) st

/-- The entry into Flushing (R166): the port's queues are unlinked, each frame counted as FLUSH_LINKDOWN, and its
dynamic entries removed. -/
def startFlush (s : State) (p : Nat) : State :=
  let s := stopTimer (setPortState s p psFlushing) (.hold p)
  let s := (queuesOfPort s p).foldl (fun t q => discardQueue t q 4) s
  if p < 96 then
    ((dynamicEntries s).filter (fun a => (dynPlace s a).1 = p)).foldl clearDynamic s
  else s

/-- The link of a port is lost: Up flushes, Hold goes Down (R166). -/
def portLinkLost (s : State) (p : Nat) : State :=
  if portState s p = psUp then startFlush s p
  else if portState s p = psHold then stopTimer (setPortState s p psDown) (.hold p)
  else s

/-- Enter Hold for HOLD_US; 0 acts as 1 (R166, R171). -/
def enterHold (s : State) (p : Nat) : State :=
  startTimer (setPortState s p psHold) (.hold p) (ticksUs * max 1 (getF s F.PLZ_TIME_CFG_HOLD_US))

/-- The link of a port has come up: Down goes to Hold; a flush under way finishes first (R166). -/
def portLinkFound (s : State) (p : Nat) : State := if portState s p = psDown then enterHold s p else s

/-- The internal ports whose unit is `u` (R144, R166): 98 belongs to the management complex, 99 to the Junction, 100
to the cipher engine, 102 to the twin link, 101 and 103 to Plaza itself. -/
def internalPorts (u : Nat) : List Nat :=
  if u = unitJCT then [99] else if u = unitCIP then [100] else if u = unitTWN then [102]
  else if u = unitPLZ then [101, 103] else if u = unitSYS then [98] else []

/-- A write of an access lane's MODE (R106): the ports it has go down at once and Plaza flushes them, whatever their state
(R166); the lane loads the equalisation of its new rate (R104). -/
def changeMode (s : State) (lane mode : Nat) : State :=
  if lane < s.ident.variant.accLanes ∧ laneMode s lane ≠ mode then
    let had := modePorts (laneMode s lane)
    let s := setF s (F.ACC_LANE_CFG_MODE lane) mode
    let s := setWord s (F.ACC_LANE_STAT_LINK lane).key 0
    let s := (upTo had).foldl (fun t k => startFlush t (4 * lane + k)) s
    if modePorts mode = 0 then s
    else loadEq s (F.ACC_LANE_EQ_TX_TAPS lane).key (6 + lane) (modeRate mode)
  else s

end Sys2Proof.Machine
end

