-- ==== Sys2Proof/Machine/Access.lean ====
section
/-! DEFINITION. The commands of access lanes and of Plaza's queues: FRAME_ADMIT, RESIDENCY_CHECK, what a good access frame meets,
AGEING_SWEEP, LEARN_FLUSH, the pause and port-state commands, CAPTURE_RESUME (R106, R148 to R170, R177, R283). -/

namespace Sys2Proof.Machine

/-! ### Parsing of access frames -/

/-- Big-endian number of `n` bytes at `i`. -/
def beAt (bs : List Byte) (i n : Nat) : Nat := ofBe (sliceAt bs i n)

/-- The 802.1Q tag of a frame as received: PCP and VID, with the frame without it (R140, R157). -/
def splitTag (bs : List Byte) : Option (Nat × Nat) × List Byte :=
  if beAt bs 12 2 = 0x8100 ∧ 16 ≤ bs.length then
    (some (beAt bs 14 2 / 2 ^ 13, beAt bs 14 2 % 4096), bs.take 12 ++ bs.drop 16)
  else (none, bs)

/-- The ones' complement sum of 16-bit words, padded with a zero byte. -/
def onesSum : List Byte → Nat
  | [] => 0
  | [b] => b.toNat * 256
  | a :: b :: t => a.toNat * 256 + b.toNat + onesSum t

/-- A 32-bit sum folded to 16 bits, ones' complement. -/
def foldSum (n : Nat) : Nat :=
  let a := n % 65536 + n / 65536
  let b := a % 65536 + a / 65536
  b % 65536 + b / 65536

/-- An IPv4 packet, after 14 bytes of Ethernet header, that carries a UDP header: the length of its IPv4 header. A later
fragment carries none. -/
def udpAt (bs : List Byte) : Option Nat :=
  let ip := bs.drop 14
  let ihl := 4 * bitsAt (beAt ip 0 1) 0 4
  if beAt bs 12 2 = 0x0800 ∧ beAt ip 0 1 / 16 = 4 ∧ 20 ≤ ihl ∧ ihl + 8 ≤ ip.length ∧ beAt ip 6 2 % 2 ^ 13 = 0
      ∧ beAt ip 9 1 = 17 then some ihl else none

/-- An unfragmented IPv4 packet carrying UDP with a valid header checksum: the length of its header (R177). -/
def udpHeaderAt (bs : List Byte) : Option Nat :=
  match udpAt bs with
  | some ihl =>
    if beAt bs 20 2 % 2 ^ 14 = 0 ∧ foldSum (onesSum ((bs.drop 14).take ihl)) = 0xFFFF then some ihl else none
  | none => none

/-- The UDP checksum is 0 or valid over the pseudo-header (R177). -/
def udpChecked (bs : List Byte) (ihl : Nat) : Bool :=
  let ip := bs.drop 14
  let len := beAt ip (ihl + 4) 2
  let udp := (ip.drop ihl).take len
  decide (8 ≤ len) && decide (ihl + len ≤ ip.length) &&
    (beAt udp 6 2 = 0 ||
      foldSum (onesSum ((ip.drop 12).take 8) + 17 + len + onesSum udp) = 0xFFFF)

/-- The UDP destination port of a frame with an IPv4 header of `ihl` bytes. -/
def udpDestPort (bs : List Byte) (ihl : Nat) : Nat := beAt bs (14 + ihl + 2) 2

/-- Whether an untagged frame is an IEEE 1588 event message (R283), and the offset of its PTP header. -/
def ptpAt (bs : List Byte) : Option Nat :=
  if beAt bs 12 2 = 0x88F7 then (if bitsAt (beAt bs 14 1) 0 4 ≤ 3 then some 14 else none)
  else match udpAt bs with
    | some ihl =>
      if udpDestPort bs ihl = 319 ∧ bitsAt (beAt bs (14 + ihl + 8) 1) 0 4 ≤ 3 then some (14 + ihl + 8) else none
    | none => none

/-- A PAUSE or PFC frame (R155). -/
def isPause (bs : List Byte) : Bool := beAt bs 12 2 = 0x8808 && (beAt bs 14 2 = 0x0001 || beAt bs 14 2 = 0x0101)

/-! ### Received flow control (R155, R156) -/

/-- Stop (or release) one class of a port for a number of quanta. -/
def pauseRx (s : State) (p c quanta : Nat) : State :=
  if c = 7 then s
  else if quanta = 0 then stopTimer (setBitF s (F.PLZ_PORT_STAT_XOFF_RX p) c false) (.pause p c)
  else startTimer (setBitF s (F.PLZ_PORT_STAT_XOFF_RX p) c true) (.pause p c) (quantaTicks s p quanta)

/-- A good frame counted by the MAC: its octets with FCS and padding (R172). -/
def countGood (s : State) (p : Nat) (bs : List Byte) : State :=
  addF (incF s (F.ACC_MAC_RX_FRAMES_COUNT p)) (F.ACC_MAC_RX_OCTETS_COUNT p) (max 64 (bs.length + 4))

/-- A received PAUSE or PFC frame: consumed and counted by the MAC, and honoured as the port's mode has it (log entry 182). -/
def receivePause (s : State) (p : Nat) (bs : List Byte) : State :=
  let s := incF (countGood s p bs) (F.ACC_MAC_RX_PAUSE_COUNT p)
  let op := beAt bs 14 2
  if op = 0x0001 ∧ flag s (F.ACC_MAC_CFG_PFC_EN p) = false ∧ flag s (F.ACC_MAC_CFG_RX_PAUSE_EN p) = true then
    (upTo 7).foldl (fun t c => pauseRx t p c (beAt bs 16 2)) s
  else if op = 0x0101 ∧ flag s (F.ACC_MAC_CFG_PFC_EN p) = true then
    (upTo 8).foldl (fun t n =>
      if bitAt (beAt bs 16 2) n then
        pauseRx t p (bitsAt (getF t (F.ACC_MAC_PCPMAP_MAP p)) (3 * n) 3) (beAt bs (18 + 2 * n) 2)
      else t) s
  else s

/-! ### Reception on an access port (R157, R177, R283) -/

/-- A frame handed to the Junction by R177, or counted in JCT_RX_BAD. -/
def offerEthernet (s : State) (bs : List Byte) : State :=
  if !live s unitJCT || portState s 99 ≠ psUp then s
  else match udpHeaderAt bs with
  | some ihl =>
    if udpChecked bs ihl then
      let len := beAt bs (14 + ihl + 4) 2
      let m : JctMsg := ⟨3, 0, udpDestPort bs ihl, false, ((bs.drop (14 + ihl + 8)).take (len - 8)), s.mono⟩
      s.withJct { s.jct with inbox := s.jct.inbox ++ [m] }
    else incF s F.JCT_RX_BAD_COUNT
  | none => incF s F.JCT_RX_BAD_COUNT

/-- Whether R177 takes a frame: its address and VID are the Junction's, and it is not for Sundem's port. -/
def junctionTakes (s : State) (bs : List Byte) (vid : Nat) : Bool :=
  flag s F.JCT_CFG_ETH_EN && ofLe (bs.take 6) = getF s F.JCT_ETH_MAC_LO_MAC + 2 ^ 32 * getF s F.JCT_ETH_MAC_HI_MAC
    && vid = getF s F.JCT_ETH_MAC_HI_VID
    && !((udpAt bs).any (fun ihl => udpDestPort bs ihl = 51734))

/-- What the bridge finds of a frame before its lookup (R157): its VID and class, and whether it is refused. -/
structure Classified where
  vid : Nat
  cls : Nat
  refused : Bool
deriving DecidableEq, Repr

/-- Steps 1 to 3 of R157 for a frame with or without a tag. -/
def classifyAccess (s : State) (p : Nat) (tag : Option (Nat × Nat)) : Classified :=
  let tagged := tag.any (fun t => t.2 ≠ 0)
  let vid := match tag with
    | some (_, v) => if v = 0 then getF s (F.ACC_MAC_VLAN_PVID p) else v
    | none => getF s (F.ACC_MAC_VLAN_PVID p)
  let pcp := match tag with
    | some (q, _) => q
    | none => getF s (F.ACC_MAC_VLAN_DEF_PCP p)
  { vid := vid
    cls := bitsAt (getF s (F.ACC_MAC_PCPMAP_MAP p)) (3 * pcp) 3
    refused := vid = 4095 || (tagged && !flag s (F.ACC_MAC_VLAN_ACCEPT_TAGGED p))
      || (!tagged && !flag s (F.ACC_MAC_VLAN_ACCEPT_UNTAGGED p))
      || (flag s (F.ACC_MAC_VLAN_INGRESS_FILTER p) && !vlanMember s vid p) }

/-- A good frame classified, taken by the Junction or bridged, and learned (R157, R160, R177). `bs` has no tag. -/
def bridgeAccess (s : State) (p : Nat) (tag : Option (Nat × Nat)) (bs : List Byte) : State :=
  let c := classifyAccess s p tag
  let ptp := bitAt (getF s (F.TIM_PTP_EN_PORTS (p / 32))) (p % 32) && (ptpAt bs).isSome
  let stamp := if ptp then ptpNow s else 0
  let seq := (assoc p s.plaza.ingressSeq).getD 0
  let s := s.withPlaza { s.plaza with ingressSeq := put p ((seq + 1) % 2 ^ 24) s.plaza.ingressSeq }
  let f := { newFrame s (.eth bs) p c.cls c.vid 0 false with ptp := ptp, ptpStamp := stamp, ingressSeq := seq }
  if c.refused then captureFrame (incF (dropIngress s 7) (F.ACC_MAC_RX_VLAN_DROP_COUNT p)) f [(1023, 0, 7)]
  else if junctionTakes s bs c.vid then handAt s 99 f (fun s => offerEthernet s bs)
  else
    let (fw, s) := lookupForward s c.vid (macOf bs) c.cls p false false
    let s := forwardFrame s f bs fw stamp
    learnSource s (flag s (F.ACC_MAC_CFG_LEARN_EN p)) c.vid (macOf (bs.drop 6)) p 0 false

/-- FRAME_ADMIT (R148): a frame from `inPort` offered to one queue. -/
def execFrameAdmit (q inPort : Nat) (bs : List Byte) (s : State) : Result :=
  .next (
    if live s unitPLZ ∧ q < 1024 ∧ inPort < 104 then
      let cls := if q < 832 then q % 8 else getF s (F.PLZ_SQ_CFG_CLASS (q - 832))
      enqueueFrame s (newFrame s (.eth bs) inPort cls 0 0 false) [plainTarget q (decide (queuePort s q < 96)) 0]
    else s)

/-! ### Residency and ageing (R161, R164, R165) -/

/-- A frame's age in µs by TB2, taken from ARRIVAL. -/
def frameAge (s : State) (f : PlzFrame) : Nat := (tbNs s 2 % 2 ^ 32 + 2 ^ 32 - f.arrival) % 2 ^ 32 / 1000

/-- RES_LIMIT_US; values below 100 act as 100 (R171). -/
def resLimit (s : State) : Nat := max 100 (getF s F.PLZ_TIME_CFG_RES_LIMIT_US)

/-- The heads of a queue at or above the limit discarded, until one is younger. -/
def dropOldHeads (q : Nat) : List QRef → State → State
  | [], s => s
  | r :: rs, s =>
    match frameOf s r.fid with
    | some f => if resLimit s ≤ frameAge s f then dropOldHeads q rs (discardRef s q r 5) else s
    | none => s

/-- Requests that wait in Plaza move up into the receive buffer of their port: 64 frames for each direction (R63). -/
def refillRequests (s : State) : State :=
  s.ring.waitReq.foldl (fun t l =>
    if (t.ring.heldReq.filter (fun h => h.port = l.port)).length < 64 then
      t.withRing { t.ring with heldReq := t.ring.heldReq ++ [l], waitReq := t.ring.waitReq.erase l }
    else t) s

/-- Requests held towards this hub from a ring port past the residency limit are dropped (R65). -/
def dropHeldRequests (s : State) (port : Nat) : State :=
  let young (l : LocalFrame) : Bool := l.port ≠ port || decide (s.mono < l.at_ + resLimit s * ticksUs)
  refillRequests (s.withRing { s.ring with heldReq := s.ring.heldReq.filter young, waitReq := s.ring.waitReq.filter young })

/-- RESIDENCY_CHECK (R164); with the class-5 queue of a ring port it checks the held requests of that port (R65). -/
def execResidencyCheck (q : Nat) (s : State) : Result :=
  .next (
    if live s unitPLZ ∧ q < 1024 then
      let s := if q = 773 then dropHeldRequests s 0 else if q = 781 then dropHeldRequests s 1 else s
      dropOldHeads q (queueRefs s q) s
    else s)

/-- One sweep of R161: entries whose HIT is clear go, the others lose their HIT. -/
def sweepDynamic (s : State) : State :=
  (dynamicEntries s).foldl (fun t a =>
    let v := memNat t (a + 6) 2
    if bitAt v 12 then memPut t (a + 6) 2 (withBit v 12 false) else clearDynamic t a) s

/-- Ticks of half the ageing time. -/
def halfAge (s : State) : Nat := getF s F.PLZ_LRN_CFG_AGE_S * 250000000

/-- AGEING_SWEEP (R161): due every AGE_S / 2 seconds; AGE_S = 0 stops it. -/
def execAgeingSweep (s : State) : Result :=
  .next (
    if live s unitPLZ ∧ due s .age then
      let s := startTimer s .age (max 1 (halfAge s))
      if getF s F.PLZ_LRN_CFG_AGE_S = 0 then s else sweepDynamic s
    else s)

/-- Whether a dynamic entry matches the selection of PLZ_LRN_CTL (R171). -/
def flushMatches (s : State) (sel a : Nat) : Bool :=
  (!bitAt sel 8 || (dynPlace s a).1 = bitsAt sel 1 7) && (!bitAt sel 21 || memNat s (a + 6) 2 % 4096 = bitsAt sel 9 12)

/-- A write to PLZ_LRN_CTL: the selection is kept, and FLUSH removes what it matches at once. -/
def writeLearnCtl (s : State) (w : Nat) : State :=
  let s := setWord s F.PLZ_LRN_CTL_FLUSH.key (BitVec.ofNat 32 (w % 2 ^ 22 / 2 * 2))
  if bitAt w 0 then ((dynamicEntries s).filter (flushMatches s w)).foldl clearDynamic s else s

/-- LEARN_FLUSH (R171): a write with FLUSH set. -/
def execLearnFlush (sel : Word) (s : State) : Result :=
  .next (if live s unitPLZ then
      let w := withBit sel.toNat 0 true
      noteReg (writeLearnCtl s w) unitPLZ 0x188 w
    else s)

/-! ### Pause commands (R155) -/

/-- PAUSE_EXPIRY (R155): the time received for a class has run out. -/
def execPauseExpiry (p c : Nat) (s : State) : Result :=
  .next (if due s (.pause p c) then stopTimer (setBitF s (F.PLZ_PORT_STAT_XOFF_RX p) c false) (.pause p c) else s)

/-- Whether a pause is still requested under one of a port's timers: PAUSE, or PFC of a class. -/
def pauseWanted (s : State) (p c : Nat) : Bool :=
  if c = pauseAll then getF s (F.PLZ_PORT_STAT_XOFF_TX p) ≠ 0 else bitF s (F.PLZ_PORT_STAT_XOFF_TX p) c

/-- The pause frame repeated while the port still asks for it, 32,768 quanta after the one before. -/
def refreshPause (s : State) (p c : Nat) : State :=
  if !pauseWanted s p c then stopTimer s (.pauseTx p c)
  else
    let s := if c = pauseAll then sendPause s p false 0 0xFFFF else sendPause s p true (prioritiesOf s p c) 0xFFFF
    startTimer s (.pauseTx p c) (quantaTicks s p 32768)

/-- PAUSE_REFRESH (R155): what is due of a port's PAUSE and of the PFC of its classes. -/
def execPauseRefresh (p : Nat) (s : State) : Result :=
  .next ((upTo 9).foldl (fun t c => if due t (.pauseTx p c) then refreshPause t p c else t) s)

/-- CAPTURE_RESUME (R170): a write of 1 to FULL. -/
def execCaptureResume (s : State) : Result :=
  .next (if live s unitPLZ then noteReg (setFlag s F.PLZ_CAP_STAT_FULL false) unitPLZ 0x304 0x1000 else s)

/-! ### Links and port states (R106, R166) -/

/-- LANE_MODE_CHANGE (R106). -/
def execLaneModeChange (lane : Nat) (mode : BitVec 3) (s : State) : Result :=
  .next (if live s unitACC then
      let s := changeMode s lane mode.toNat
      noteReg s unitACC (0x10 * lane) (regWord s (F.ACC_LANE_CFG_MODE lane).key).toNat
    else s)

/-- An access port's link comes up, unless R106 refuses what was negotiated. -/
def accessUp (s : State) (p speed : Nat) (full : Bool) (peerPause : BitVec 2) : State :=
  let lane := p / 4
  let mode := laneMode s lane
  if !modeSpeed mode speed || !full then incF s (F.ACC_LANE_ERR_COUNT lane)
  else
    let s := setBitF s (F.ACC_LANE_STAT_LINK lane) (p % 4) true
    let s := setF s (F.ACC_LANE_STAT_SPEED lane)
      (insertBits (getF s (F.ACC_LANE_STAT_SPEED lane)) (2 * (p % 4)) 2 speed)
    let s := setFlag (setFlag s (F.ACC_LANE_STAT_CDR_LOCK lane) true) (F.ACC_LANE_STAT_SYNC lane) true
    let s := if modeNegotiates mode && flag s (F.ACC_LANE_CFG_AN_EN lane) then
      setFlag s (F.ACC_LANE_STAT_AN_DONE lane) true else s
    let s := if mode = 2 then setF s (F.ACC_LANE_STAT_PEER_PAUSE lane) peerPause.toNat else s
    if linkUp s p then portLinkFound s p else s

/-- ACCESS_LINK_UP (R166). -/
def execAccessLinkUp (p speed : Nat) (full : Bool) (peerPause : BitVec 2) (s : State) : Result :=
  .next (if live s unitACC ∧ portInMode s p then accessUp s p speed full peerPause else s)

/-- The link of one access port is lost. -/
def dropLink (s : State) (p : Nat) : State :=
  portLinkLost (setBitF s (F.ACC_LANE_STAT_LINK (p / 4)) (p % 4) false) p

/-- What a lane's status shows after a loss: without a clock nothing is in step, without synchronisation nothing is
negotiated (R108; log entry 183). -/
def laneLoss (s : State) (lane : Nat) (how : LinkLoss) : State :=
  let s := if how = .cdr then setFlag s (F.ACC_LANE_STAT_CDR_LOCK lane) false else s
  let s := if how = .cdr ∨ how = .sync then setFlag s (F.ACC_LANE_STAT_SYNC lane) false else s
  if how = .fault then s else setFlag s (F.ACC_LANE_STAT_AN_DONE lane) false

/-- ACCESS_LINK_DOWN (R166): a lane without its clock or in no step carries none of its ports. -/
def execAccessLinkDown (down : LinkDown) (s : State) : Result :=
  .next (
    let p := down.port
    if p < s.ident.variant.accPorts then
      let s := laneLoss (addF s (F.ACC_LANE_ERR_COUNT (p / 4)) down.codeErrs) (p / 4) down.how
      if down.how = .cdr ∨ down.how = .sync then (upTo 4).foldl (fun t k => dropLink t (4 * (p / 4) + k)) s else dropLink s p
    else s)

/-- The unit of an internal port (R144). -/
def internalUnit (p : Nat) : Nat :=
  if p = 99 then unitJCT else if p = 100 then unitCIP else if p = 102 then unitTWN
  else if p = 98 then unitSYS else unitPLZ

/-- FLUSH_DONE (R166): to Hold with the link up, else Down; an internal port whose unit runs again goes Up. -/
def execFlushDone (p : Nat) (s : State) : Result :=
  .next (
    if p < 104 ∧ portState s p = psFlushing then
      if p < 96 then (if linkUp s p then enterHold s p else setPortState s p psDown)
      else if live s (internalUnit p) && !(p = 98 && s.dev.mgtRestart) then setPortState s p psUp else setPortState s p psDown
    else s)

/-- HOLD_EXPIRY (R166): the link has stayed up for HOLD_US. -/
def execHoldExpiry (p : Nat) (s : State) : Result :=
  .next (
    if portState s p = psHold ∧ due s (.hold p) then stopTimer (setPortState s p psUp) (.hold p) else s)

end Sys2Proof.Machine
end

