-- ==== Sys2Proof/Machine/Crypto.lean ====
section
/-! DEFINITION. The algorithms the spec names by their standards: AES (FIPS 197) with the modes of SP 800-38A, B and D,
the key derivation of SP 800-108 as R298 sets it, SHA-256 (FIPS 180-4) and ECDSA over P-256 (FIPS 186-4). -/

namespace Sys2Proof.Machine

/-! ### AES -/

/-- The S-box, entry `x` in bits [8x+7:8x]. -/
def sboxTable : Nat := 0x16bb54b00f2d99416842e6bf0d89a18cdf2855cee9871e9b948ed9691198f8e19e1dc186b95735610ef6034866b53e708a8bbd4b1f74dde8c6b4a61c2e2578ba08ae7a65eaf4566ca94ed58d6d37c8e779e4959162acd3c25c2406490a3a32e0db0b5ede14b8ee4688902a22dc4f816073195d643d7ea7c41744975fec130ccdd2f3ff1021dab6bcf5389d928f40a351a89f3c507f02f94585334d43fbaaefd0cf584c4a39becb6a5bb1fc20ed00d153842fe329b3d63b52a05a6e1b1a2c830975b227ebe28012079a059618c323c7041531d871f1e5a534ccf73f362693fdb7c072a49cafa2d4adf04759fa7dc982ca76abd7fe2b670130c56f6bf27b777c63

/-- The inverse S-box, laid out alike. -/
def invSboxTable : Nat := 0x7d0c2155631469e126d677ba7e042b17619953833cbbebc8b0f52aae4d3be0a0ef9cc9939f7ae52d0d4ab519a97f51605fec8027591012b131c7078833a8dd1ff45acd78fec0db9a2079d2c64b3e56fc1bbe18aa0e62b76f89c5291d711af1476edf751ce837f9e28535ade72274ac9673e6b4f0cecff297eadc674f4111913a6b8a130103bdafc1020f3fca8f1e2cd00645b3b80558e4f70ad3bc8c00abd890849d8da75746155edab9edfd5048706c92b6655dcc5ca4d41698688664f6f87225d18b6d49a25b76b224d92866a12e084ec3fa420b954cee3d23c2a632947b54cbe9dec444438e3487ff2f9b8239e37cfbd7f3819ea340bf38a53630d56a0952

def subByte (x : Nat) : Nat := (sboxTable >>> (8 * x)) % 256
def invSubByte (x : Nat) : Nat := (invSboxTable >>> (8 * x)) % 256

/-- Multiplication by x in GF(2^8). -/
def xtime (a : Nat) : Nat := if 128 ≤ a then (2 * a % 256) ^^^ 0x1B else 2 * a

/-- Multiplication in GF(2^8) by a constant below 16. -/
def gmul (a k : Nat) : Nat :=
  let a2 := xtime a
  let a4 := xtime a2
  let a8 := xtime a4
  (if bitAt k 0 then a else 0) ^^^ (if bitAt k 1 then a2 else 0) ^^^ (if bitAt k 2 then a4 else 0)
    ^^^ (if bitAt k 3 then a8 else 0)

/-- Byte-wise exclusive or; the result has the length of the shorter list. -/
def xorBytes (a b : List Nat) : List Nat := List.zipWith (fun x y => x ^^^ y) a b

/-- The next words of the key schedule. `acc` holds the words so far, newest first, each as four bytes. -/
def keyWords (nk : Nat) (i rcon : Nat) (acc : List (List Nat)) : Nat → List (List Nat)
  | 0 => acc
  | n + 1 =>
    let prev := acc.headD []
    let back := acc.getD (nk - 1) []
    let t :=
      if i % nk = 0 then
        let r := (prev.drop 1 ++ prev.take 1).map subByte
        xorBytes r [rcon, 0, 0, 0]
      else if nk = 8 ∧ i % nk = 4 then prev.map subByte
      else prev
    keyWords nk (i + 1) (if i % nk = 0 then xtime rcon else rcon) (xorBytes back t :: acc) n

/-- A byte list in groups of `n`; `fuel` bounds the number of groups. -/
def groupsOf {α : Type} (n : Nat) : Nat → List α → List (List α)
  | 0, _ => []
  | _ + 1, [] => []
  | fuel + 1, l => l.take n :: groupsOf n fuel (l.drop n)

/-- The round keys of a key of 16, 24 or 32 bytes. -/
def roundKeys (key : List Nat) : List (List Nat) :=
  let nk := key.length / 4
  let ws := (keyWords nk nk 1 (groupsOf 4 nk key).reverse (4 * (nk + 7) - nk)).reverse
  (groupsOf 4 (nk + 7) ws).map List.flatten

def shiftRows (b : List Nat) : List Nat := (List.range 16).map (fun i => b.getD ((i + 4 * (i % 4)) % 16) 0)
def invShiftRows (b : List Nat) : List Nat := (List.range 16).map (fun i => b.getD ((i + 12 * (i % 4)) % 16) 0)

/-- One column times the circulant matrix whose first row is given. -/
def mixColumn (m : List Nat) (c : List Nat) : List Nat :=
  (List.range 4).map (fun r =>
    (List.range 4).foldl (fun t j => t ^^^ gmul (c.getD j 0) (m.getD ((j + 4 - r) % 4) 0)) 0)

def mixColumns (m : List Nat) (b : List Nat) : List Nat := (groupsOf 4 4 b).flatMap (mixColumn m)

/-- The rounds after the first key addition. -/
def encRounds : List (List Nat) → List Nat → List Nat
  | [], b => b
  | [k], b => xorBytes (shiftRows (b.map subByte)) k
  | k :: ks, b => encRounds ks (xorBytes (mixColumns [2, 3, 1, 1] (shiftRows (b.map subByte))) k)

def decRounds : List (List Nat) → List Nat → List Nat
  | [], b => b
  | [k], b => xorBytes ((invShiftRows b).map invSubByte) k
  | k :: ks, b => decRounds ks (mixColumns [14, 11, 13, 9] (xorBytes ((invShiftRows b).map invSubByte) k))

/-- AES encryption of one block. -/
def aesEnc (key block : List Nat) : List Nat :=
  match roundKeys key with
  | [] => block
  | k :: ks => encRounds ks (xorBytes block k)

/-- AES decryption of one block. -/
def aesDec (key block : List Nat) : List Nat :=
  match (roundKeys key).reverse with
  | [] => block
  | k :: ks => decRounds ks (xorBytes block k)

/-! ### Modes (SP 800-38A) -/

def toNats (bs : List Byte) : List Nat := bs.map BitVec.toNat
def toBytes (ns : List Nat) : List Byte := ns.map (BitVec.ofNat 8)

/-- `n` bytes of a number, most significant first, as numbers. -/
def beNats (n v : Nat) : List Nat := toNats (beBytes n v)
def ofBeNats (l : List Nat) : Nat := l.foldl (fun a b => a * 256 + b) 0

/-- The blocks of a message. -/
def blocksOf (l : List Nat) : List (List Nat) := groupsOf 16 (l.length / 16 + 1) l

def cbcEncBlocks (key : List Nat) : List Nat → List (List Nat) → List Nat
  | _, [] => []
  | iv, b :: bs => let c := aesEnc key (xorBytes b iv); c ++ cbcEncBlocks key c bs

def cbcDecBlocks (key : List Nat) : List Nat → List (List Nat) → List Nat
  | _, [] => []
  | iv, c :: cs => xorBytes (aesDec key c) iv ++ cbcDecBlocks key c cs

def cfbEncBlocks (key : List Nat) : List Nat → List (List Nat) → List Nat
  | _, [] => []
  | iv, b :: bs => let c := xorBytes b (aesEnc key iv); c ++ cfbEncBlocks key c bs

def cfbDecBlocks (key : List Nat) : List Nat → List (List Nat) → List Nat
  | _, [] => []
  | iv, c :: cs => xorBytes c (aesEnc key iv) ++ cfbDecBlocks key c cs

/-- A counter block with its low 32 bits raised by one, modulo 2^32. -/
def inc32 (b : List Nat) : List Nat := b.take 12 ++ beNats 4 ((ofBeNats (b.drop 12) + 1) % 2 ^ 32)

def ctrBlocks (key : List Nat) : List Nat → List (List Nat) → List Nat
  | _, [] => []
  | c, b :: bs => xorBytes b (aesEnc key c) ++ ctrBlocks key (inc32 c) bs

/-! ### CMAC (SP 800-38B) and key derivation (SP 800-108, R298) -/

/-- Doubling in GF(2^128) for the subkeys. -/
def dbl128 (n : Nat) : Nat := if 2 ^ 127 ≤ n then (2 * n % 2 ^ 128) ^^^ 0x87 else 2 * n

/-- The CMAC chain over all blocks but the last, and the last one as it stands. -/
def cmacChain (key : List Nat) : List Nat → List (List Nat) → List Nat × List Nat
  | x, [] => (x, [])
  | x, [b] => (x, b)
  | x, b :: bs => cmacChain key (aesEnc key (xorBytes x b)) bs

/-- AES-CMAC of a message. -/
def cmac (key msg : List Nat) : List Nat :=
  let k1 := dbl128 (ofBeNats (aesEnc key (List.replicate 16 0)))
  let (x, last) := cmacChain key (List.replicate 16 0) (blocksOf msg)
  let m := if last.length = 16 then xorBytes last (beNats 16 k1)
    else xorBytes ((last ++ [0x80] ++ List.replicate 16 0).take 16) (beNats 16 (dbl128 k1))
  aesEnc key (xorBytes x m)

/-- `bits` bits derived from a root, as bytes (R298): CMAC(root, [i] ‖ LABEL ‖ 0x00 ‖ CONTEXT ‖ [L]). -/
def kdf (root label context : List Nat) (bits : Nat) : List Nat :=
  let block (i : Nat) := cmac root (beNats 4 i ++ label ++ [0] ++ context ++ beNats 4 bits)
  (block 1 ++ block 2 ++ block 3).take (bits / 8)

/-! ### GCM (SP 800-38D) -/

/-- One bit of the product of GHASH; numbers hold bit 0 of the standard as their most significant bit. -/
def ghashStep : Nat → Nat → Nat → Nat → Nat
  | 0, _, _, z => z
  | n + 1, x, v, z =>
    let z := if bitAt x n then z ^^^ v else z
    ghashStep n x (if v % 2 = 1 then (v / 2) ^^^ (0xE1 <<< 120) else v / 2) z

/-- Multiplication in the field of GHASH. -/
def ghashMul (x y : Nat) : Nat := ghashStep 128 x y 0

/-- GHASH over a message padded to whole blocks. -/
def ghash (h : Nat) (y : Nat) (msg : List Nat) : Nat :=
  (blocksOf msg).foldl (fun y b => ghashMul (y ^^^ ofBeNats ((b ++ List.replicate 16 0).take 16)) h) y

/-- The tag of GCM over additional data and ciphertext. -/
def gcmTag (key iv aad cipher : List Nat) : List Nat :=
  let h := ofBeNats (aesEnc key (List.replicate 16 0))
  let y := ghash h (ghash h 0 aad) cipher
  let y := ghashMul (y ^^^ (aad.length * 8 * 2 ^ 64 + cipher.length * 8)) h
  xorBytes (beNats 16 y) (aesEnc key (iv ++ [0, 0, 0, 1]))

/-- GCM encryption or decryption of data, without the tag. The IV has 12 bytes. -/
def gcmCrypt (key iv data : List Nat) : List Nat := ctrBlocks key (iv ++ [0, 0, 0, 2]) (blocksOf data)

/-! ### SHA-256 -/

/-- The round constants, entry `i` in bits [32i+31:32i]. -/
def shaK : Nat := 0xc67178f2bef9a3f7a4506ceb90befffa8cc7020884c8781478a5636f748f82ee682e6ff35b9cca4f4ed8aa4a391c0cb334b0bcb52748774c1e376c0819a4c116106aa070f40e3585d6990624d192e819c76c51a3c24b8b70a81a664ba2bfe8a192722c8581c2c92e766a0abb650a735453380d134d2c6dfc2e1b213827b70a851429296706ca6351d5a79147c6e00bf3bf597fc7b00327c8a831c66d983e515276f988da5cb0a9dc4a7484aa2de92c6f240ca1cc0fc19dc6efbe4786e49b69c1c19bf1749bdc06a780deb1fe72be5d74550c7dc3243185be12835b01d807aa98ab1c5ed5923f82a459f111f13956c25be9b5dba5b5c0fbcf71374491428a2f98

/-- The initial hash value, laid out alike. -/
def shaH : Nat := 0x5be0cd191f83d9ab9b05688c510e527fa54ff53a3c6ef372bb67ae856a09e667

def rotr (x n : Nat) : Nat := (x >>> n) ^^^ (x <<< (32 - n) % 2 ^ 32)

/-- The message schedule; `acc` holds the words so far, newest first. -/
def shaSchedule : Nat → List Nat → List Nat
  | 0, acc => acc
  | n + 1, acc =>
    let a := acc.getD 1 0
    let b := acc.getD 14 0
    let s1 := rotr a 17 ^^^ rotr a 19 ^^^ (a >>> 10)
    let s0 := rotr b 7 ^^^ rotr b 18 ^^^ (b >>> 3)
    shaSchedule n ((s1 + acc.getD 6 0 + s0 + acc.getD 15 0) % 2 ^ 32 :: acc)

/-- One round on the eight working variables. -/
def shaRound (v : List Nat) (kw : Nat) : List Nat :=
  match v with
  | [a, b, c, d, e, f, g, h] =>
    let s1 := rotr e 6 ^^^ rotr e 11 ^^^ rotr e 25
    let ch := (e &&& f) ^^^ ((2 ^ 32 - 1 - e) &&& g)
    let t1 := h + s1 + ch + kw
    let s0 := rotr a 2 ^^^ rotr a 13 ^^^ rotr a 22
    let maj := (a &&& b) ^^^ (a &&& c) ^^^ (b &&& c)
    [(t1 + s0 + maj) % 2 ^ 32, a, b, c, (d + t1) % 2 ^ 32, e, f, g]
  | _ => v

/-- One block of 64 bytes. -/
def shaBlock (h : List Nat) (block : List Nat) : List Nat :=
  let ws := (shaSchedule 48 ((groupsOf 4 16 block).map ofBeNats).reverse).reverse
  let ks := (List.range 64).map (fun i => bitsAt shaK (32 * i) 32)
  List.zipWith (fun a b => (a + b) % 2 ^ 32) h ((List.zipWith (· + ·) ws ks).foldl shaRound h)

/-- SHA-256 of a message, as 32 bytes. -/
def sha256 (msg : List Nat) : List Nat :=
  let zeros := (119 - msg.length % 64) % 64
  let padded := msg ++ [0x80] ++ List.replicate zeros 0 ++ beNats 8 (8 * msg.length)
  ((groupsOf 64 (padded.length / 64) padded).foldl shaBlock
    ((List.range 8).map (fun i => bitsAt shaH (32 * i) 32))).flatMap (beNats 4)

/-! ### ECDSA over P-256 -/

def p256p : Nat := 0xffffffff00000001000000000000000000000000ffffffffffffffffffffffff
def p256n : Nat := 0xffffffff00000000ffffffffffffffffbce6faada7179e84f3b9cac2fc632551
def p256b : Nat := 0x5ac635d8aa3a93e7b3ebbd55769886bc651d06b0cc53b0f63bce3c3e27d2604b
def p256gx : Nat := 0x6b17d1f2e12c4247f8bce6e563a440f277037d812deb33a0f4a13945d898c296
def p256gy : Nat := 0x4fe342e2fe1a7f9b8ee7eb4a7c0f9e162bce33576b315ececbb6406837bf51f5

/-- x^e modulo m by repeated squaring; `fuel` bounds the bits of e. -/
def powMod (m : Nat) : Nat → Nat → Nat → Nat
  | 0, _, _ => 1 % m
  | fuel + 1, x, e =>
    let r := powMod m fuel (x * x % m) (e / 2)
    if e % 2 = 1 then x * r % m else r

/-- The inverse modulo a prime. -/
def invMod (m x : Nat) : Nat := powMod m 256 (x % m) (m - 2)

/-- A point of the curve; none is the point at infinity. -/
abbrev EcPoint := Option (Nat × Nat)

/-- Difference modulo the field prime. -/
def fsub (a b : Nat) : Nat := (a + p256p - b % p256p) % p256p

def ecAdd (p q : EcPoint) : EcPoint :=
  match p, q with
  | none, q => q
  | p, none => p
  | some (x1, y1), some (x2, y2) =>
    if x1 = x2 ∧ (y1 + y2) % p256p = 0 then none
    else
      let l := if x1 = x2 then (3 * x1 * x1 + p256p - 3) * invMod p256p (2 * y1) % p256p
        else fsub y2 y1 * invMod p256p (fsub x2 x1) % p256p
      let x3 := fsub (fsub (l * l) x1) x2
      some (x3, fsub (l * fsub x1 x3) y1)

/-- k·P; `fuel` bounds the bits of k. -/
def ecMul : Nat → Nat → EcPoint → EcPoint
  | 0, _, _ => none
  | fuel + 1, k, p =>
    let r := ecMul fuel (k / 2) (ecAdd p p)
    if k % 2 = 1 then ecAdd p r else r

/-- Verification of signature (r, s) over a hash under a public key. -/
def ecdsaVerify (pubX pubY : Nat) (hash : List Nat) (r sg : Nat) : Bool :=
  let onCurve := pubX < p256p && pubY < p256p &&
    pubY * pubY % p256p = (pubX * pubX * pubX + (p256p - 3) * pubX + p256b) % p256p
  let z := ofBeNats hash
  let w := invMod p256n sg
  let pt := ecAdd (ecMul 256 (z * w % p256n) (some (p256gx, p256gy))) (ecMul 256 (r * w % p256n) (some (pubX, pubY)))
  decide (onCurve = true) && decide (1 ≤ r) && decide (r < p256n) && decide (1 ≤ sg) && decide (sg < p256n) &&
    match pt with
    | some (x, _) => x % p256n = r
    | none => false

end Sys2Proof.Machine
end

