-- ==== Sys2Proof/Machine/LineCode.lean ====
section
/-! DEFINITION. The Luaven line code (R87 to R92): the words of the line, frames cut into words, the two lanes of a port,
scrambling, bit stuffing, the slots of a marker period. -/

namespace Sys2Proof.Machine

/-! ### Words (R92) -/

/-- A 64-bit word as its eight bytes, first sent first. -/
def wordBytes (w : Nat) : List Byte := beBytes 8 w

/-- CRC-8 over bits [63:8] matches bits [7:0]. -/
def crc8Ok (w : Nat) : Bool := crc8 ((wordBytes w).take 7) = w % 256

/-- A 64-bit word with its CRC-8 in place. -/
def withCrc8 (w : Nat) : BitVec 64 := BitVec.ofNat 64 (w / 256 * 256 + crc8 ((wordBytes w).take 7))

/-- The alignment marker of a lane: NEXT_SOF and COUNT. -/
def markerWord (lane nextSof count : Nat) : BitVec 64 :=
  withCrc8 (0x5A1C93E * 2 ^ 36 + lane * 2 ^ 32 + nextSof % 4096 * 2 ^ 20 + count % 4096 * 2 ^ 8)

/-- The SOF word of a frame of `n` bytes. -/
def sofWord (n : Nat) : BitVec 64 := BitVec.ofNat 64 (0x7E3CA59B * 2 ^ 32 + n % 65536 * 2 ^ 16 + crc16 (beBytes 2 n))

/-- The idle word. -/
def idleWord : BitVec 64 := 0

/-- LENGTH of an SOF word. -/
def sofLength (w : Nat) : Nat := bitsAt w 16 16

/-- An SOF word with a valid CRC16 and LENGTH (R96). -/
def isSof (w : Nat) : Bool :=
  bitsAt w 32 32 = 0x7E3CA59B && crc16 (beBytes 2 (sofLength w)) = bitsAt w 0 16
    && decide (28 ≤ sofLength w) && decide (sofLength w ≤ 9260)

/-- A word that may stand after a frame's end or an idle word: an idle word, or a good SOF (R96). -/
def wordAllowed (w : Nat) : Bool := w = 0 || isSof w

/-- Bytes as words, byte 0 in bits [63:56] of the first, the last padded with zero bytes; `fuel` bounds the words. -/
def wordsOfBytes : Nat → List Byte → List (BitVec 64)
  | 0, _ => []
  | _ + 1, [] => []
  | fuel + 1, bs => BitVec.ofNat 64 (ofBe (padTo 8 bs)) :: wordsOfBytes fuel (bs.drop 8)

/-- A frame of bytes as the stream carries it: its SOF word and its words. -/
def frameWords (bs : List Byte) : List (BitVec 64) := sofWord bs.length :: wordsOfBytes (bs.length / 8 + 1) bs

/-- The bytes that words carry. -/
def bytesOfStream (ws : List (BitVec 64)) : List Byte := ws.flatMap (fun w => wordBytes w.toNat)

/-! ### The two lanes (R87) -/

/-- The words of a stream that go on a lane: word 2k on lane 0, word 2k + 1 on lane 1. -/
def laneShare (lane : Nat) (ws : List (BitVec 64)) : List (BitVec 64) :=
  (ws.zipIdx.filter (fun p => p.2 % 2 = lane)).map Prod.fst

/-- The stream that the words of the two lanes make. -/
def joinLanes : List (BitVec 64) → List (BitVec 64) → List (BitVec 64)
  | a :: as, b :: bs => a :: b :: joinLanes as bs
  | as, [] => as.take 1
  | [], _ => []

/-! ### Scrambling (R88) -/

/-- The seed of a lane, loaded for the first bit after each marker. -/
def laneSeed (lane : Nat) : Nat := if lane = 0 then 0x2B5F1E07 else 0x5CA063D9

/-- Bits scrambled from a state, whose bit k holds x(n-1-k), and the state after them. The receiver descrambles with the same
sequence. -/
def scramble : Nat → List Bool → List Bool × Nat
  | st, [] => ([], st)
  | st, b :: bs =>
    let x := bitAt st 27 != bitAt st 30
    let (cs, e) := scramble ((2 * st + bit01 x) % 2 ^ 31) bs
    ((b != x) :: cs, e)

/-! ### Bit stuffing (R89) -/

/-- A run of identical line bits: their value and how many there are. -/
abbrev Run := Bool × Nat

/-- The run after one more bit. -/
def Run.next (r : Run) (b : Bool) : Run := if r.1 = b then (b, r.2 + 1) else (b, 1)

/-- Line bits with one bit of the opposite value after 40 identical ones, and the run they leave. -/
def stuff : Run → List Bool → List Bool × Run
  | r, [] => ([], r)
  | r, b :: bs =>
    if (r.next b).2 = 40 then
      let (cs, e) := stuff (!b, 1) bs
      (b :: (!b) :: cs, e)
    else
      let (cs, e) := stuff (r.next b) bs
      (b :: cs, e)

/-- Received bits without the one after 40 identical ones, how many of those had the value of their run (stuffing
violations), and the run they leave. -/
def destuff : Run → List Bool → List Bool × Nat × Run
  | r, [] => ([], 0, r)
  | r, b :: bs =>
    if r.2 = 40 then
      let (cs, v, e) := destuff (b, 1) bs
      (cs, v + bit01 (b = r.1), e)
    else
      let (cs, v, e) := destuff (r.next b) bs
      (b :: cs, v, e)

/-! ### Line bits (R88 to R90) -/

/-- The bits of a word, bit 63 first. -/
def wordBits (w : BitVec 64) : List Bool := (List.range 64).map w.getMsbD

/-- The word that the last 64 bits of a list make, bit 63 first. -/
def lastWord (bs : List Bool) : BitVec 64 :=
  BitVec.ofNat 64 ((bs.drop (bs.length - 64)).foldl (fun n b => 2 * n + bit01 b) 0)

/-- The slots after a marker as line bits: none is an idle word, and one is omitted for each 64 inserted bits. `st` is the
scrambler, `ins` counts the inserted bits. -/
def slotBits : Nat → Run → Nat → List (Option (BitVec 64)) → List Bool × Run
  | _, r, _, [] => ([], r)
  | st, r, ins, none :: ws =>
    if 64 ≤ ins then slotBits st r (ins - 64) ws
    else
      let (bs, st) := scramble st (wordBits idleWord)
      let (line, r) := stuff r bs
      let (rest, e) := slotBits st r (ins + (line.length - 64)) ws
      (line ++ rest, e)
  | st, r, ins, some w :: ws =>
    let (bs, st) := scramble st (wordBits w)
    let (line, r) := stuff r bs
    let (rest, e) := slotBits st r (ins + (line.length - 64)) ws
    (line ++ rest, e)

/-- One marker period of a lane as line bits: the marker, which is not scrambled, and the slots after it. -/
def periodBits (lane : Nat) (r : Run) (marker : BitVec 64) (slots : List (Option (BitVec 64))) : List Bool × Run :=
  let (m, r) := stuff r (wordBits marker)
  let (bs, e) := slotBits (laneSeed lane) r 0 slots
  (m ++ bs, e)

/-! ### Slots (R90, R91) -/

/-- The bits of one lane in 16 ticks of 2 ns at a rate (R85). -/
def lineRate16 (rate : Nat) : Nat := match rate with
  | 0 => 40 | 1 => 330 | _ => 825

/-- Stream words of a marker period: 4,095 slots after the marker on each lane. -/
def periodSlots : Nat := 2 * 4095

/-- How many of them may carry SOF or frame words. -/
def periodFrames : Nat := 2 * 3972

/-- The next stream word slot to begin on a port, counted from the first marker. -/
def slotNow (tx : LineTx) (rate now : Nat) : Nat :=
  let slot := (now - tx.start) * lineRate16 rate / 16 / 64
  slot / 4096 * periodSlots + 2 * (slot % 4096)

/-- Where a frame of `n` words is placed on the line: the slot of its SOF word, the transmitter after it, and, where the frame
reaches into the next marker period, that period with the NEXT_SOF of its markers. -/
def placeFrame (tx : LineTx) (rate now n : Nat) : Nat × LineTx × Option (Nat × Nat) :=
  let at_ := max tx.next (slotNow tx rate now)
  let used := if at_ / periodSlots = tx.next / periodSlots then tx.used else 0
  let room := min (periodSlots - at_ % periodSlots) (periodFrames - used)
  if n ≤ room then
    (at_, { tx with next := at_ + n, used := if (at_ + n) % periodSlots = 0 then 0 else used + n }, none)
  else
    let period := at_ / periodSlots + 1
    let first := period * periodSlots
    (if room = 0 then first else at_, { tx with next := first + (n - room), used := n - room },
      some (period, if room = 0 then 0 else n - room))

end Sys2Proof.Machine
end

