-- ==== Sys2Proof/Machine/CipherOps.lean ====
section
/-! DEFINITION. Keys, roots, the key cache, ring segment keys and nonce slots of the cipher engine, and frames as they leave on a
ring segment (R297 to R309, R90, R109 to R112, R132). -/

namespace Sys2Proof.Machine

/-- A 256-bit key as bytes, byte 0 first. -/
def keyBytes (k : BitVec 256) : List Nat := toNats (leBytes 32 k.toNat)

/-- Bytes, byte 0 first, as a 256-bit key. -/
def bytesKey (bs : List Nat) : BitVec 256 := BitVec.ofNat 256 (ofLe (padTo 32 (toBytes bs)))

/-- Whether the key registers accept writes and may be named (R299). -/
def keyRegsLive (s : State) : Bool := s.dev.state = .starting || s.dev.state = .recovery || s.dev.testmode

/-- A key register's 32 bytes. -/
def keyRegBytes (s : State) (k : Nat) : List Nat :=
  (upTo 8).flatMap (fun w => toNats (leBytes 4 ((assoc (8 * k + w) s.cip.keyRegs).getD 0).toNat))

/-- The key size in bytes of KSIZE. -/
def ksizeBytes (n : Nat) : Nat := if n = 0 then 16 else if n = 1 then 24 else 32

/-- The root that KSRC names, where it is to be had (R297). -/
def rootOf (s : State) (ksrc kreg : Nat) : Option (List Nat) :=
  match ksrc with
  | 0 => some (keyBytes s.ident.deviceRoot)
  | 1 => some (keyBytes s.ident.familyRoot)
  | 2 => s.cip.ringRoot.map keyBytes
  | 4 => if keyRegsLive s then some (keyRegBytes s kreg) else none
  | _ => none

/-! ### The cache (R300) -/

/-- What a cached key is tagged by. -/
def cacheMatches (e : CacheEnt) (ksrc kreg ksize : Nat) (label : BitVec 32) (context : BitVec 128) : Bool :=
  e.ksrc = ksrc && e.kreg = kreg && e.ksize = ksize && e.label = label && e.context = context

/-- The key size by which the cache knows a ring segment's 288 bits; no descriptor names it (R298; log entry 185). -/
def segmentSize : Nat := 3

/-- Whether a cache entry holds a key of a segment that has not gone through Cap since it was Up (R300, R302). -/
def segmentPinned (s : State) (e : CacheEnt) : Bool :=
  e.ksize = segmentSize && [0, 1].any (fun p =>
    match (portSt s p).keys with
    | some k => e.key = k.txKey || e.key = k.rxKey
    | none => false)

/-- Whether a cache entry is pinned: its ring segment or a Queued or running descriptor uses it (R300). -/
def cachePinned (s : State) (e : CacheEnt) : Bool :=
  segmentPinned s e || (upTo 16).any (fun d =>
    let st := getF s (F.CIP_D_STAT_STATE d)
    (st = 1 || st = 2 || st = 3) &&
      cacheMatches e (getF s (F.CIP_D_CTL_KSRC d)) (getF s (F.CIP_D_CTL_KREG d)) (getF s (F.CIP_D_CTL_KSIZE d))
        (BitVec.ofNat 32 (getF s (F.CIP_D_LABEL_LABEL d)))
        (BitVec.ofNat 128 (getWords s (F.CIP_D_CTX_CTX d 0).key 4)))

/-- The cache entry to give way: the least recently used one that is not pinned. -/
def cacheVictim (s : State) : Option CacheEnt :=
  (s.cip.cache.filter (fun e => !cachePinned s e)).foldl (fun m e =>
    match m with
    | none => some e
    | some x => if e.lastUse < x.lastUse then some e else some x) none

/-- Put a derived key into the cache of 256 entries (R300). -/
def cacheInsert (s : State) (e : CacheEnt) : State :=
  let kept := if s.cip.cache.length < 256 then s.cip.cache
    else match cacheVictim s with
      | some v => s.cip.cache.erase v
      | none => s.cip.cache
  s.withCip { s.cip with cache := if kept.length < 256 then kept ++ [e] else kept, useCount := s.cip.useCount + 1 }

/-- The key of a derivation: from the cache, or derived by R298 and cached. -/
def deriveKey (s : State) (ksrc kreg ksize : Nat) (label : BitVec 32) (context : BitVec 128) (root : List Nat) :
    List Nat × State :=
  match s.cip.cache.find? (fun e => cacheMatches e ksrc kreg ksize label context) with
  | some e =>
    (keyBytes e.key, s.withCip { s.cip with
      cache := s.cip.cache.map (fun x => if x = e then { x with lastUse := s.cip.useCount } else x)
      useCount := s.cip.useCount + 1 })
  | none =>
    let key := kdf root (toNats (leBytes 4 label.toNat)) (toNats (leBytes 16 context.toNat)) (8 * ksizeBytes ksize)
    let s := incF s F.CIP_DERIVE_COUNT
    (key, cacheInsert s ⟨ksrc, kreg, ksize, label, context, bytesKey key, s.cip.useCount⟩)

/-- The key a descriptor uses, or none where R299 and R297 refuse it. -/
def descriptorKey (s : State) (d : Nat) : Option (List Nat × State) :=
  let ksrc := getF s (F.CIP_D_CTL_KSRC d)
  let kreg := getF s (F.CIP_D_CTL_KREG d)
  let ksize := getF s (F.CIP_D_CTL_KSIZE d)
  if ksrc = 3 then (if keyRegsLive s then some ((keyRegBytes s kreg).take (ksizeBytes ksize), s) else none)
  else match rootOf s ksrc kreg with
    | none => none
    | some root =>
      let (key, s') := deriveKey s ksrc kreg ksize (BitVec.ofNat 32 (getF s (F.CIP_D_LABEL_LABEL d)))
        (BitVec.ofNat 128 (getWords s (F.CIP_D_CTX_CTX d 0).key 4)) root
      some (key.take (ksizeBytes ksize), s')

/-! ### Ring segment keys (R301) -/

/-- LABEL of a ring segment's keys. -/
def segmentLabel : List Nat := beNats 4 0x53474B31

/-- CONTEXT of one direction between the lower and the higher pair of node and side. -/
def segmentContext (gen lower higher dir : Nat) : List Nat :=
  beNats 4 gen ++ [lower / 2, lower % 2, higher / 2, higher % 2, dir] ++ List.replicate 7 0

/-- Key and nonce context of one direction. -/
def segmentKey (root : List Nat) (gen lower higher dir : Nat) : BitVec 256 × BitVec 32 :=
  let out := kdf root segmentLabel (segmentContext gen lower higher dir) 288
  (bytesKey (out.take 32), BitVec.ofNat 32 (ofBeNats (out.drop 32)))

/-- A segment's derived key put into the cache in place of one with the same tags (R300). -/
def cacheSegment (s : State) (gen lower higher dir : Nat) (key : BitVec 256) : State :=
  let label := BitVec.ofNat 32 (ofLe (toBytes segmentLabel))
  let context := BitVec.ofNat 128 (ofLe (toBytes (segmentContext gen lower higher dir)))
  let s := s.withCip { s.cip with cache := s.cip.cache.filter (fun e => !cacheMatches e 2 0 segmentSize label context) }
  cacheInsert s ⟨2, 0, segmentSize, label, context, key, s.cip.useCount⟩

/-! ### Nonces (R305 to R309) -/

def nctr (s : State) (slot : Nat) : Nat := getWords s (F.CIP_NCTR_LO_VALUE slot).key 2
def nlim (s : State) (slot : Nat) : Nat := getWords s (F.CIP_NLIM_LO_VALUE slot).key 2
def setNctr (s : State) (slot v : Nat) : State := setWords s (F.CIP_NCTR_LO_VALUE slot).key 2 v
def setNlim (s : State) (slot v : Nat) : State := setWords s (F.CIP_NLIM_LO_VALUE slot).key 2 v

/-- The generation of a slot (R305); a ring slot counts under the generation of the keys it was last derived for (R302). -/
def slotGen (s : State) (slot : Nat) : Nat :=
  if slot < 2 then (assoc slot s.cip.ctrGens).getD (getF s F.CIP_RING_GEN_GEN) else getF s F.CIP_LGEN_LGEN

/-- Where the nonce log keeps record `i` (R307). -/
def nonceLogAddr (i : Nat) : Nat := nvmBase + 0x00740000 + 64 * (i % 2048)

/-- Whether one of the next `n` words of the nonce log is locked (R315). -/
def nonceLogLocked (s : State) (n : Nat) : Bool :=
  (upTo n).any (fun i => nvmLocked s (nonceLogAddr (s.cip.nonceSeq.toNat + i) - nvmBase) 64)

/-- What a start of CIP reads of one slot in the nonce log (R308): the valid record with the highest SEQ. -/
def newestRecord (s : State) (slot : Nat) : Option (Nat × Nat × Nat) :=
  let records := s.mem.filterMap (fun p =>
    if nonceLogAddr 0 ≤ p.1 ∧ p.1 < nonceLogAddr 0 + 0x20000 ∧ (p.1 - nonceLogAddr 0) % 64 = 0 then
      let w := memRead s p.1 64
      if ofLe (w.take 4) = 0x4E524543 ∧ ofLe (w.drop 60) = crc32 (w.take 60) ∧ ofLe ((w.drop 4).take 1) = slot then
        some (ofLe ((w.drop 24).take 4), ofLe ((w.drop 8).take 4), ofLe ((w.drop 16).take 8))
      else none
    else none)
  records.foldl (fun m r =>
    match m with
    | none => some r
    | some x => if x.1 < r.1 then some r else some x) none

/-- The counter with which a slot starts under a generation (R308): from the log's newest record, with a reservation still
to be written, if that record is of this generation, else 0. -/
def startCounter (s : State) (slot gen : Nat) : State :=
  match newestRecord s slot with
  | some (_, g, lim) =>
    if g = gen then setNlim (setNctr s slot lim) slot lim else setNlim (setNctr s slot 0) slot 0
  | none => setNlim (setNctr s slot 0) slot 0

/-- A ring slot starts to count under a generation; where it has counted under another one, the log decides as at a start
(R308; log entry 167). -/
def countUnder (s : State) (slot gen : Nat) : State :=
  if slotGen s slot = gen then s
  else
    startCounter (s.withCip { s.cip with
      ctrGens := put slot gen s.cip.ctrGens, exhausted := s.cip.exhausted.filter (fun k => k ≠ slot)
      reserving := s.cip.reserving.filter (fun k => k ≠ slot) }) slot gen

/-- A slot resumed from the nonce log (R308). -/
def resumeSlot (s : State) (slot : Nat) : State :=
  let s := if slot < 2 then s.withCip { s.cip with ctrGens := put slot (getF s F.CIP_RING_GEN_GEN) s.cip.ctrGens } else s
  startCounter s slot (slotGen s slot)

/-- The two keys of a port that reaches Up with encryption (R301), from the root, the generation and this hub's own pair as its
Cap found them (R302). -/
def deriveSegment (s : State) (port : Nat) : State :=
  let p := portSt s port
  match p.capRoot with
  | none => s
  | some root =>
    let peer := 2 * getF s (F.RNG_PORT_STAT_PEER_NODE port) + getF s (F.RNG_PORT_STAT_PEER_SIDE port)
    let lower := min p.capOwn peer
    let higher := max p.capOwn peer
    let gen := p.capGen
    let out0 := segmentKey (keyBytes root) gen.toNat lower higher 0
    let out1 := segmentKey (keyBytes root) gen.toNat lower higher 1
    let keys : SegKeys := if p.capOwn ≤ peer then ⟨out0.1, out0.2, out1.1, out1.2, gen⟩ else ⟨out1.1, out1.2, out0.1, out0.2, gen⟩
    let s := countUnder s port gen.toNat
    let s := setPortSt s port { portSt s port with keys := some keys, rxExpect := 0 }
    let s := cacheSegment (cacheSegment s gen.toNat lower higher 0 out0.1) gen.toNat lower higher 1 out1.1
    addF s F.CIP_DERIVE_COUNT 2

/-- The nonce context of a slot (R305). -/
def slotContext (s : State) (slot : Nat) : BitVec 32 :=
  if slot < 2 then
    match (portSt s slot).keys with
    | some k => k.txCtx
    | none => 0
  else BitVec.ofNat 32 (16 * getF s F.CIP_LGEN_LGEN + (slot - 2))

/-- A reservation record of R307 written. -/
def writeNonceRecord (s : State) (slot gen : Nat) (ctx : BitVec 32) (lim : Nat) : State :=
  let body := leBytes 4 0x4E524543 ++ leBytes 4 slot ++ leBytes 4 gen ++ leBytes 4 ctx.toNat ++ leBytes 8 lim
    ++ leBytes 4 s.cip.nonceSeq.toNat ++ List.replicate 32 0
  let s := memWrite s (nonceLogAddr s.cip.nonceSeq.toNat) (body ++ leBytes 4 (crc32 body))
  incF (s.withCip { s.cip with nonceSeq := s.cip.nonceSeq + 1 }) F.CIP_NONCE_REC_COUNT

/-- Where R309 refuses a slot: no counter value reaches it, so no reservation goes beyond it (log entry 186). -/
def nonceEnd : Nat := 2 ^ 64 - 2 ^ 20

/-- The engine starts writing a reservation for a slot, unless one is under way, none is needed any more, or NVM writes are
inhibited (R306). -/
def startReservation (s : State) (slot : Nat) : State :=
  if s.cip.reserving.contains slot || decide (nonceEnd ≤ nlim s slot) || !nvmWritable s then s
  else s.withCip { s.cip with reserving := s.cip.reserving ++ [slot] }

/-- Take the next nonce of a slot (R306, R309): none while the slot stalls or is refused. The stall is counted when the
counter reaches LIM. -/
def takeNonce (s : State) (slot : Nat) : Option Nat × State :=
  let c := nctr s slot
  if s.cip.exhausted.contains slot then (none, s)
  else if nonceEnd ≤ c + 1 then
    let s := s.withCip { s.cip with exhausted := s.cip.exhausted ++ [slot] }
    (none, recordFault s fltCipNonce unitCIP (BitVec.ofNat 32 slot) (BitVec.ofNat 32 (slotGen s slot)))
  else if nlim s slot ≤ c then (none, startReservation s slot)
  else
    let s := setNctr s slot (c + 1)
    let s := if c + 1 = nlim s slot then incF s F.CIP_NONCE_STALL_COUNT else s
    (some c, if nlim s slot < c + 1 + 2 ^ 19 then startReservation s slot else s)

/-- A ring port's transmit nonce for one frame (R132): none on stall. A slot refused by R309 refuses the segment's
context, and the port is declared broken (R134). -/
def sealNonce (s : State) (port : Nat) : Bool × State :=
  if !flag s (F.RNG_PORT_STAT_ENC port) then (true, s)
  else if !live s unitCIP then (false, s)
  else
    match takeNonce s port with
    | (some _, s) => (true, s)
    | (none, s) =>
      if s.cip.exhausted.contains port then
        let p := portSt s port
        (false, declareBroken (setPortSt s port { p with ctxRefused := true }) port)
      else (false, s)

/-! ### Frames on a segment (R90, R92, R109 to R112, R132) -/

/-- A segment keepalive (R110). -/
def isKeepalive (f : RingFrame) : Bool := f.type = tyKEEPALIVE && tsBits f 44 4 = 0

/-- The nonce of a frame: the context followed by the invocation counter (R132). -/
def segmentNonce (ctx : BitVec 32) (counter : Nat) : List Nat := beNats 4 ctx.toNat ++ beNats 8 counter

/-- Additional data, text and tag of a frame under a key and nonce: the text is encrypted, but that of a keepalive, which is
additional data too (R132; log entry 187). -/
def sealPayload (key : BitVec 256) (nonce : List Nat) (f : RingFrame) : List Byte :=
  let k := keyBytes key
  let head := toNats (ringHeader f)
  let text := toNats f.payload
  if isKeepalive f then f.payload ++ toBytes (gcmTag k nonce (head ++ text) [])
  else toBytes (gcmCrypt k nonce text ++ gcmTag k nonce head (gcmCrypt k nonce text))

/-- The CRC-32 of a frame in FCS order, or the stomp, its complement (R111, R112). -/
def fcsBytes (body : List Byte) (stomp : Bool) : List Byte := leBytes 4 (crc32 body ^^^ (if stomp then 0xFFFFFFFF else 0))

/-- All bytes of a frame on the segment of a port, the last counter taken being its own (R109). -/
def frameBytes (s : State) (port : Nat) (f : RingFrame) (stomp : Bool) : List Byte :=
  let text := match (portSt s port).keys with
    | some k => if f.enc then sealPayload k.txKey (segmentNonce k.txCtx (nctr s port - 1)) f else f.payload
    | none => f.payload
  let body := ringHeader f ++ text
  body ++ fcsBytes body stomp

/-- The blocks of an encrypted ring frame that wait for a slot at DUMMY 3 are counted; how many is free (R294). -/
def countWaits (s : State) (f : RingFrame) : State :=
  if f.enc && getF s F.CIP_CFG_DUMMY = 3 then
    addF (s.withFresh (s.fresh + 1)) F.CIP_RING_WAIT_COUNT (Config.ringWaits s.fresh % ((f.payload.length + 15) / 16 + 2))
  else s

/-- The words of a frame sent on a port at its next free slots, as the event of its first slot, with the two markers it runs
through, if it does (R90). -/
def sendWords (s : State) (port : Nat) (words : List (BitVec 64)) (event : Nat → OutEvent) : State :=
  let p := portSt s port
  let (slot, tx, cross) := placeFrame p.tx (getF s (F.RNG_PORT_STAT_RATE port)) s.mono words.length
  let s := output (setPortSt s port { p with tx := tx }) (event slot)
  match cross with
  | some (period, rest) =>
    output (output s (.marker port 0 (markerWord 0 rest period))) (.marker port 1 (markerWord 1 rest period))
  | none => s

/-- A frame sent on a ring port. -/
def emitRing (s : State) (port : Nat) (f : RingFrame) (stomp : Bool) : State :=
  let words := frameWords (frameBytes s port f stomp)
  sendWords (countWaits s f) port words (fun slot => .ring port f stomp slot words)

/-- A frame other than a keepalive sent on a port; its start is remembered for R131. -/
def emitFrame (s : State) (port : Nat) (f : RingFrame) (stomp : Bool) : State :=
  let p := portSt s port
  let recent := p.suspects.filter (fun t => decide (s.mono < t + 20 * ticksUs))
  emitRing (setPortSt s port { p with suspects := recent ++ [s.mono] }) port f stomp

end Sys2Proof.Machine
end

