-- ==== Sys2Proof/Machine/Egress.lean ====
section
/-! DEFINITION. EGRESS_SCHEDULE: which queue an egress port serves, and how its frame leaves (R123, R150, R152, R156,
R284, R285, R325, R326). -/

namespace Sys2Proof.Machine

/-! ### What a queue may send -/

/-- Whether a departure record of a queue has waited more than 2 µs (R326). -/
def departBlocked (s : State) (q : Nat) : Bool :=
  s.plaza.departed.any (fun d => d.1.queue = q && decide (d.2 + 2 * ticksUs < s.mono))

/-- The reference a queue sends next: the first one, or on a hub that does not act the first that is not a shadow
reference (R325). -/
def headRef (s : State) (q : Nat) : Option QRef := (queueRefs s q).find? (fun r => acting s || !r.shadow)

/-- The reference whose frame a queue may send now. -/
def readyRef (s : State) (q : Nat) : Option QRef := if departBlocked s q then none else headRef s q

/-- The frame a queue sends next. -/
def headFrame (s : State) (q : Nat) : Option PlzFrame :=
  match readyRef s q with
  | some r => frameOf s r.fid
  | none => none

def sendable (s : State) (q : Nat) : Bool := (headFrame s q).isSome

/-- The tokens of a general sub-queue in 1/4000 byte: RATE Mb/s, up to 2^BURST KiB (R146). A bucket starts empty (log
entry 17). -/
def subTokens (s : State) (q : Nat) : Int :=
  let (n, at_) := (assoc q s.plaza.tokens).getD (0, 0)
  let rate := getF s (F.PLZ_SQ_CFG_RATE (q - 832))
  let cap := 2 ^ (min 6 (getF s (F.PLZ_SQ_CFG_BURST (q - 832)))) * 1024 * 4000
  min (n + (rate * (s.mono - at_) : Nat)) (cap : Nat)

/-- The frame capacity of a ring port in units of 10 Mb/s (R91). -/
def portCapacity (s : State) (port : Nat) : Nat :=
  match getF s (F.RNG_PORT_STAT_RATE port) with
  | 0 => 242 | 1 => 2000 | _ => 5000

/-- The tokens of added frames of a class on a ring port in 1/102400 byte (R123). -/
def addedTokens (s : State) (port cls : Nat) : Int :=
  let (n, at_) := (assoc (8 * port + cls) s.plaza.addTokens).getD (0, 0)
  let rate := max 1 (getF s F.RNG_ADD_CFG_RATE)
  let cap := max 10 (getF s F.RNG_ADD_CFG_BURST) * 1024 * 102400
  min (n + (rate * portCapacity s port * (s.mono - at_) : Nat)) (cap : Nat)

/-- The tokens of a general sub-queue brought up to now, before its RATE or BURST changes (R146). -/
def settleSub (s : State) (q : Nat) : State :=
  s.withPlaza { s.plaza with tokens := put q (subTokens s q, s.mono) s.plaza.tokens }

/-- The tokens of added frames brought up to now on one ring port, before its rate or RNG_ADD_CFG changes (R123). -/
def settleAdded (s : State) (port : Nat) : State :=
  (upTo 6).foldl (fun t c =>
    t.withPlaza { t.plaza with addTokens := put (8 * port + c) (addedTokens t port c, t.mono) t.plaza.addTokens }) s

/-- Charge a general sub-queue with the bytes it sends. -/
def chargeSub (s : State) (q bytes : Nat) : State :=
  if 846 ≤ q then s.withPlaza { s.plaza with tokens := put q (subTokens s q - (bytes * 4000 : Nat), s.mono) s.plaza.tokens }
  else s

/-- The enabled general sub-queues bound to a port and class (R146). -/
def boundSubs (s : State) (p c : Nat) : List Nat :=
  ((s.plaza.queues.map Prod.fst).filter (fun q => decide (846 ≤ q) && flag s (F.PLZ_SQ_CFG_EN (q - 832))
    && queuePort s q = p && getF s (F.PLZ_SQ_CFG_CLASS (q - 832)) = c && decide (c ≤ 5)))

/-- Those of them with a frame to send and tokens. -/
def readySubs (s : State) (p c : Nat) : List Nat :=
  (boundSubs s p c).filter (fun q => sendable s q && decide (0 < subTokens s q))

/-- Whose turn it is among candidates: the first after the one served last, in ascending order (R150). -/
def turnOf (s : State) (p c : Nat) (cands : List Nat) : Option Nat :=
  let last := (assoc (8 * p + c) s.plaza.turns).getD 0
  match cands.find? (fun q => decide (last < q)) with
  | some q => some q
  | none => cands.head?

/-! ### The order of service (R123, R150) -/

/-- The queue a class serves next on a port that is not a ring port. -/
def classQueue (s : State) (p c : Nat) : Option Nat :=
  if p < 96 ∧ bitF s (F.PLZ_PORT_STAT_XOFF_RX p) c = true ∧ c ≠ 7 then none
  else turnOf s p c ((if sendable s (p * 8 + c) then [p * 8 + c] else []) ++ readySubs s p c)

/-- The queue a class serves next on ring port `r` (0 East, 1 West): responses, then added frames that have tokens
while transit waits, transit, and added frames (R123). -/
def ringClassQueue (s : State) (r c : Nat) : Option Nat :=
  let transit := ringQueue r c .transit
  if 6 ≤ c then (if sendable s transit then some transit else none)
  else if c = 5 ∧ sendable s (832 + r) = true then some (832 + r)
  else
    let own := ringQueue r c .added
    let added := turnOf s (96 + r) c ((if sendable s own then [own] else []) ++ readySubs s (96 + r) c)
    if sendable s transit then
      match added with
      | some q => if 0 < addedTokens s r c then some q else some transit
      | none => some transit
    else added

def nextInClass (s : State) (p c : Nat) : Option Nat :=
  if p = 96 ∨ p = 97 then ringClassQueue s (p - 96) c else classQueue s p c

/-- Whether class `c` has anything queued for a port. -/
def classEmpty (s : State) (p c : Nat) : Bool :=
  let qs := (p * 8 + c) :: boundSubs s p c ++
    (if p = 96 ∨ p = 97 then (if c ≤ 5 then [834 + 6 * (p - 96) + c] else []) ++ (if c = 5 then [832 + (p - 96)] else []) else [])
  qs.all (fun q => (queueRefs s q).isEmpty)

def deficitOf (s : State) (p c : Nat) : Int := (assoc (8 * p + c) s.plaza.deficits).getD 0
def setDeficit (s : State) (p c : Nat) (d : Int) : State :=
  s.withPlaza { s.plaza with deficits := put (8 * p + c) d s.plaza.deficits }

/-- The turn passes to the next class, 5 down to 0 and round again; a class that can send receives its quantum. -/
def advanceClass (s : State) (p c : Nat) : State :=
  let n := if c = 0 then 5 else c - 1
  let s := s.withPlaza { s.plaza with rrNext := put p n s.plaza.rrNext }
  if (nextInClass s p n).isSome then
    setDeficit s p n (deficitOf s p n + (256 * max 1 (getF s (F.PLZ_CLASS_CFG_QUANTUM n)) : Nat)) else s

/-- The round of the deficit-weighted round robin (R150): the class being served keeps its turn while its deficit is
above zero. -/
def roundRobin (s : State) (p : Nat) : Nat → Option Nat × State
  | 0 => (none, s)
  | fuel + 1 =>
    let c := (assoc p s.plaza.rrNext).getD 0
    match nextInClass s p c with
    | some q =>
      if 0 < deficitOf s p c then (some q, s) else roundRobin (advanceClass s p c) p fuel
    | none => roundRobin (advanceClass (if classEmpty s p c then setDeficit s p c 0 else s) p c) p fuel

/-- The queue a port serves next: class 7, class 6, then the round robin. The longest frame stands 37 rounds of the
smallest quantum below zero. -/
def nextQueue (s : State) (p : Nat) : Option Nat × State :=
  match nextInClass s p 7 with
  | some q => (some q, s)
  | none => match nextInClass s p 6 with
    | some q => (some q, s)
    | none =>
      if (upTo 6).any (fun c => (nextInClass s p c).isSome) then roundRobin s p 300 else (none, s)

/-! ### Leaving -/

/-- Bytes `new` written into a list at `i`. -/
def patchBytes (bs : List Byte) (i : Nat) (new : List Byte) : List Byte :=
  bs.take i ++ new ++ bs.drop (i + new.length)

/-- CE set in a marked IPv4 packet with ECN 0b01 or 0b10, its header checksum updated incrementally (R152). -/
def setCE (bs : List Byte) : List Byte :=
  let w := beAt bs 14 2
  if beAt bs 12 2 = 0x0800 ∧ beAt bs 14 1 / 16 = 4 ∧ (w % 4 = 1 ∨ w % 4 = 2) then
    let w' := w / 4 * 4 + 3
    let sum := foldSum ((0xFFFF - beAt bs 24 2) + (0xFFFF - w) + w')
    patchBytes (patchBytes bs 14 (beBytes 2 w')) 24 (beBytes 2 (0xFFFF - sum))
  else bs

/-- Nanoseconds of a 64-bit short form (R271). -/
def shortNs (x : Nat) : Nat := x / 2 ^ 40 * nsPerSec + x / 256 % 2 ^ 32

/-- The residence added to the correctionField of a Sync or Delay_Req with an ingress stamp (R284). -/
def correctPtp (s : State) (p : Nat) (f : PlzFrame) (bs : List Byte) : List Byte :=
  match ptpAt bs with
  | none => bs
  | some h =>
    if bitAt (getF s (F.TIM_PTP_EN_PORTS (p / 32))) (p % 32) ∧ f.ptpStamp ≠ 0 ∧ bitsAt (beAt bs h 1) 0 4 ≤ 1 then
      let wrap := 2 ^ 24 * nsPerSec
      let ns := (shortNs (ptpNow s) + wrap - shortNs f.ptpStamp % wrap) % wrap
      let bs := patchBytes bs (h + 8) (beBytes 8 ((beAt bs (h + 8) 8 + ns * 2 ^ 16) % 2 ^ 64))
      match udpAt bs with
      | some ihl => patchBytes bs (14 + ihl + 6) [0, 0]
      | none => bs
    else bs

/-- The egress record of an event message on a port of TIM_PTP_TS2 (R285, R290). -/
def egressRecord (s : State) (p : Nat) (bs : List Byte) : State :=
  match ptpAt bs with
  | none => s
  | some h =>
    if bitAt (getF s (F.TIM_PTP_TS2_PORTS (p / 32))) (p % 32) then
      produceCounted s (getF s F.TIM_NOTE_CFG_QUEUE) 0x07 (getF s F.TIM_NOTE_CFG_PRIO)
        (leBytes 4 (1 + 16 * bitsAt (beAt bs h 1) 0 4 + 256 * p + 65536 * beAt bs (h + 30) 2)
          ++ leBytes 12 (tripleOf (s.tb 0 / 2 ^ 32 * 2 ^ 32)) ++ leBytes 4 (beAt bs (h + 4) 1))
    else s

/-- A frame leaves an access port (R152, R159, R172, R284, R285). -/
def sendAccess (s : State) (p : Nat) (f : PlzFrame) : State :=
  let bs := storedBytes f.body
  let bs := if f.cm && flag s (F.ACC_MAC_CFG_ECN_EN p) then setCE bs else bs
  let bs := correctPtp s p f bs
  let tag := if vlanUntagged s f.vid p then none else some (f.vid, f.cls)
  let bs := padTo (max bs.length (if tag.isSome then 56 else 60)) bs
  let s := egressRecord s p bs
  let s := addF (incF s (F.ACC_MAC_TX_FRAMES_COUNT p)) (F.ACC_MAC_TX_OCTETS_COUNT p)
    (bs.length + 4 + (if tag.isSome then 4 else 0))
  output s (.access p bs tag f.bad)

/-- A frame as a reference of ring port `r` has it go out: enc, clr and cm of the segment (R132, R135, R152). -/
def ringOut (s : State) (r : Nat) (ref : QRef) (f : PlzFrame) : RingFrame :=
  let g := refFrame ref f.body (fun bs => stampSource s (dataFrame bs f.vid f.inPort f.cls f.destNode f.cm f.ptpStamp))
  let enc := flag s (F.RNG_PORT_STAT_ENC r)
  { g with enc := enc, clr := g.clr || !enc, cm := (g.cm || f.cm) && g.cls.toNat ≠ 7 }

/-- A frame leaves towards an internal port (R144): the recirculation port looks it up again. -/
def sendInternal (s : State) (p : Nat) (f : PlzFrame) : State :=
  let bs := storedBytes f.body
  if p = 98 then output s (.mgtFrame bs)
  else if p = 99 then offerEthernet s bs
  else if p = 100 then output s (.cipherFrame f.cls bs)
  else if p = 103 then
    let (fw, s) := lookupForward s f.vid (macOf bs) f.cls f.inPort (decide (f.inPort = 96 ∨ f.inPort = 97)) false
    forwardFrame s f bs fw f.ptpStamp
  else s

/-- The identity of a dequeued frame in a departure record (R326). -/
def departIdentity (q : Nat) (f : PlzFrame) : DepartRec :=
  match f.body with
  | .ring g => if f.inPort < 96 then ⟨q, false, f.inPort, false, f.ingressSeq⟩ else ⟨q, true, g.srcNode.toNat, g.side, g.seq.toNat⟩
  | .eth _ =>
    if f.inPort = 96 ∨ f.inPort = 97 then
      ⟨q, true, f.ingressSeq / 2 ^ 17, bitAt f.ingressSeq 16, f.ingressSeq % 2 ^ 16⟩
    else ⟨q, false, f.inPort, false, f.ingressSeq⟩

/-- The Active notes a dequeue for its next departure record (R326); a note already waiting keeps its time. -/
def noteDeparture (s : State) (q : Nat) (f : PlzFrame) : State :=
  if s.twin.role = .active ∧ (q < 784 ∨ 832 ≤ q) then
    let since := match s.plaza.departed.find? (fun d => d.1.queue = q) with
      | some d => d.2
      | none => s.mono
    let rest := s.plaza.departed.filter (fun d => d.1.queue ≠ q)
    s.withPlaza { s.plaza with departed := rest ++ [(departIdentity q f, since)] }
  else s

/-- What the queue sent costs it: the class deficit, the sub-queue's tokens, the share of added frames (R123, R146,
R150). -/
def chargeSend (s : State) (p q : Nat) (f : PlzFrame) (transitWaits : Bool) : State :=
  let n := (storedBytes f.body).length
  let c := f.cls
  let s := if c ≤ 5 then setDeficit s p c (deficitOf s p c - (n : Nat)) else s
  let s := s.withPlaza { s.plaza with turns := put (8 * p + c) q s.plaza.turns }
  let s := chargeSub s q n
  if (p = 96 ∨ p = 97) ∧ c ≤ 5 ∧ 834 ≤ q ∧ transitWaits = true then
    s.withPlaza { s.plaza with
      addTokens := put (8 * (p - 96) + c) (addedTokens s (p - 96) c - (n * 102400 : Nat), s.mono) s.plaza.addTokens }
  else s

/-- The parts of cell memory that `n` stored bytes, the internal header among them, fill (R140). -/
def cellSpans : List Nat → Nat → List (Nat × Nat)
  | [], _ => []
  | c :: cs, n => (cellAddr c, min 256 n) :: cellSpans cs (n - 256)

/-- A Luaven frame as its stored bytes give it (R109). -/
def ringOfBytes (bs : List Byte) : RingFrame :=
  let b (i : Nat) : Nat := (bs.getD i 0).toNat
  { type := BitVec.ofNat 4 (b 0 / 16)
    cls := BitVec.ofNat 3 (b 0 / 2)
    cm := bitAt (b 0) 0
    epoch := bitAt (b 1) 7
    enc := bitAt (b 1) 6
    copyDone := bitAt (b 1) 5
    side := bitAt (b 1) 4
    wrapped := bitAt (b 1) 3
    clr := bitAt (b 1) 2
    destNode := bs.getD 2 0
    srcNode := bs.getD 3 0
    seq := BitVec.ofNat 16 (ofBe ((bs.drop 4).take 2))
    hopLimit := bs.getD 6 0
    destUnit := bs.getD 7 0
    typeSpecific := BitVec.ofNat 48 (ofBe ((bs.drop 10).take 6))
    tsOrTxn := BitVec.ofNat 64 (ofBe ((bs.drop 16).take 8))
    payload := bs.drop 24 }

/-- A frame whose cells are read for transmission: words with two flipped bits hold free bytes, in this copy and in every
later one (R372; log entry 32). -/
def readFrame (s : State) (f : PlzFrame) : PlzFrame × State :=
  let spans := cellSpans f.cells (32 + (storedBytes f.body).length)
  let lost := (spans.flatMap (fun p => eccHits s p.1 p.2)).filter (fun w => decide (2 ≤ w.2))
  let t := touchAll s spans
  if lost = [] then (f, t)
  else
    let places := (spans.flatMap (fun p => (upTo p.2).map (fun i => p.1 + i))).drop 32
    let bs := ((storedBytes f.body).zip places).map (fun x =>
      if lost.any (fun w => w.1 = x.2 / 4) then memByte t x.2 else x.1)
    let body := match f.body with
      | .eth _ => Body.eth bs
      | .ring _ => Body.ring (ringOfBytes bs)
    ({ f with body := body }, t.withPlaza { t.plaza with
      frames := t.plaza.frames.map (fun g => if g.fid = f.fid then { g with body := body } else g) })

/-- The head frame of queue `q` sent by port `p`. -/
def dequeueSend (s : State) (p q : Nat) : State :=
  match readyRef s q with
  | none => s
  | some r =>
    match frameOf s r.fid with
    | none => s
    | some f =>
      let waits := sendable s (p * 8 + f.cls)
      let (f, s) := readFrame s f
      let s := chargeSend s p q f waits
      let s := noteDeparture (removeRef s q r) q f
      let s := if (f.cls ≤ 5) ∧ classEmpty s p f.cls then setDeficit s p f.cls 0 else s
      if p < 96 then sendAccess s p f
      else if p < 98 then emitFrame s (p - 96) (ringOut s (p - 96) r f) f.bad
      else sendInternal s p f

/-- Whether a port can take a frame now: an access port that is Up with its link, a ring port that is Up and not
broken, an internal port that is Up. -/
def portReady (s : State) (p : Nat) : Bool :=
  if p < 96 then linkUp s p && portState s p = psUp
  else if p < 98 then live s unitRNG && getF s (F.RNG_PORT_STAT_STATE (p - 96)) = 4 && !broken s (p - 96)
  else decide (p < 104) && portState s p = psUp && live s (internalUnit p)

/-- One frame sent by a port that can take one; on an encrypted ring segment it takes a nonce first (R132). -/
def serveEgress (s : State) (p : Nat) : State :=
  match nextQueue s p with
  | (none, s) => s
  | (some q, s) =>
    if p = 96 ∨ p = 97 then
      match sealNonce s (p - 96) with
      | (true, s) => dequeueSend s p q
      | (false, s) => s
    else dequeueSend s p q

/-- EGRESS_SCHEDULE (R150). -/
def execEgressSchedule (p : Nat) (s : State) : Result :=
  .next (if live s unitPLZ ∧ portReady s p then serveEgress s p else s)

end Sys2Proof.Machine
end

