-- ==== Sys2Proof/Machine/Ingress.lean ====
section
/-! DEFINITION. Frames as access ports receive them, and bad frames that are leaving already by cut-through:
ACCESS_FRAME_RECEIVE, PAUSE_FRAME_RECEIVE (R143, R155, R157, R172). -/

namespace Sys2Proof.Machine

/-! ### Bad frames by cut-through (R113, R143) -/

/-- Whether the transmission of a frame would have begun at a queue before the frame's end: it has more than one cell, the port's
line is no faster, idle and empty, and the queue takes it (R124, R143; log entry 142). -/
def leavesEarly (s : State) (f : PlzFrame) (t : Target) : Bool :=
  let p := queuePort s t.queue
  decide (2 ≤ cellsFor (storedBytes f.body).length) && eligibleEarly s f.inPort p && portReady s p
    && (queuesOfPort s p).all (fun q => (queueRefs s q).isEmpty)
    && !(decide (p < 96) && f.cls ≠ 7 && bitF s (F.PLZ_PORT_STAT_XOFF_RX p) f.cls) && offerReason s f t = 0

/-- A frame found bad that has entered queues by cut-through: it is sent with BAD set, so that each copy that has begun ends in
a stomp or a complemented FCS, and PLZ_CT_STOMP counts it; what has not begun is gone with the frame. -/
def cutOff (s : State) (f : PlzFrame) (targets : List Target) : State :=
  match targets.filter (leavesEarly s f) with
  | [] => s
  | early =>
    let fid := s.plaza.nextFid
    let s := enqueueFrame s { f with bad := true, seen := true } early
    let queued := refsOf s fid
    let s := early.foldl (fun t x => serveEgress t (queuePort t x.queue)) s
    let s := if refsOf s fid < queued then incF s F.PLZ_CT_STOMP_COUNT else s
    early.foldl (fun t x => ((queueRefs t x.queue).filter (fun r => r.fid = fid)).foldl (fun u r => removeRef u x.queue r) t) s

/-- A bad frame counted and captured (R153, R168), and its copies cut off; `places` finds the queues it was on its way to, and
the frame as it enters them. What finding them has changed stands only where a copy has begun. -/
def loseFrame (s : State) (f : PlzFrame) (places : State → (PlzFrame × List Target) × State) : State :=
  let s := captureFrame (dropIngress s 6) f [(1023, 0, 6)]
  let ((g, ts), t) := places s
  if ts.any (leavesEarly t g) then cutOff t g ts else s

/-! ### Access ports -/

/-- The queues that a bad frame on an access port was on its way to: those of the bridge, unless it is refused or the
Junction's (R157, R159). -/
def accessPlaces (f : PlzFrame) (bs : List Byte) (refused : Bool) (s : State) : (PlzFrame × List Target) × State :=
  if refused || junctionTakes s bs f.vid then ((f, []), s)
  else
    let (fw, s) := lookupForward s f.vid (macOf bs) f.cls f.inPort false false
    let f := { f with cls := fw.cls, destNode := fw.ringNode.getD 0 }
    let here := (fw.ports.filter (fun p => decide (p < 104))).map (egressTarget s f.vid fw.cls fw.sq bs.length)
    if fw.drop ≠ 0 then ((f, here), s)
    else
      let (ring, s) := ringPlaces s f bs fw 0
      ((f, here ++ ring), s)

/-- A frame that an access port finds bad after its first cell. -/
def badAccess (s : State) (p : Nat) (bs : List Byte) : State :=
  let (tag, plain) := splitTag bs
  let c := classifyAccess s p tag
  let f := newFrame s (.eth plain) p c.cls c.vid 0 false
  if live s unitPLZ then loseFrame s f (accessPlaces f plain c.refused) else s

/-- A frame received on an access port, from its destination address to its last payload byte with its 802.1Q tag.
The MAC counts it by R172; a bad one is counted as INGRESS_ERR (R153). -/
def receiveAccess (s : State) (p : Nat) (bs : List Byte) (fcsOk truncated : Bool) : State :=
  let wire := bs.length + 4
  if wire < 64 ∨ maxLen s p < wire then badAccess (incF s (F.ACC_MAC_RX_LEN_ERR_COUNT p)) p bs
  else if !fcsOk then badAccess (incF s (F.ACC_MAC_RX_FCS_ERR_COUNT p)) p bs
  else if truncated then badAccess s p bs
  else if isPause bs then receivePause s p bs
  else
    let (tag, plain) := splitTag bs
    bridgeAccess (countGood s p bs) p tag plain

/-- ACCESS_FRAME_RECEIVE (R157): acts on a port whose link is up while ACC and PLZ run; the errors of the lane's code since the
command before are counted (R108). -/
def execAccessFrameReceive (p : Nat) (bs : List Byte) (fcsOk : Bool) (line : LineEnd) (s : State) : Result :=
  .next (
    if live s unitPLZ ∧ linkUp s p then
      receiveAccess (addF s (F.ACC_LANE_ERR_COUNT (p / 4)) line.codeErrs) p bs fcsOk line.truncated
    else s)

/-- PAUSE_FRAME_RECEIVE (R155). -/
def execPauseFrameReceive (p : Nat) (bs : List Byte) (s : State) : Result :=
  .next (if linkUp s p && isPause bs then receivePause s p bs else s)

end Sys2Proof.Machine
end

