-- ==== Sys2Proof/Machine/Cipher.lean ====
section
/-! DEFINITION. The commands of the cipher engine: descriptors, key registers, nonce reservations, the cache and the
entropy source (R296, R299, R300, R306, R309 to R316). -/

namespace Sys2Proof.Machine

/-! ### Descriptors: queueing (R310) -/

def dState (s : State) (d : Nat) : Nat := getF s (F.CIP_D_STAT_STATE d)

/-- Whether a slot is Queued or running. -/
def dBusy (s : State) (d : Nat) : Bool := decide (1 ≤ dState s d) && decide (dState s d ≤ 3)

def dOp (s : State) (d : Nat) : Nat := getF s (F.CIP_D_CTL_OP d)

/-- The bytes of IV0–IV3, low byte of each word first (R312). -/
def ivBytes (s : State) (d : Nat) : List Nat := toNats (leBytes 16 (getWords s (F.CIP_D_IV_IV d 0).key 4))

/-- The leading bytes of IV0–IV3 replaced. -/
def setIv (s : State) (d : Nat) (bs : List Nat) : State :=
  setWords s (F.CIP_D_IV_IV d 0).key 4 (ofLe (toBytes (bs ++ (ivBytes s d).drop bs.length)))

/-- The write locks of a GCM decryption of more than 16 KiB, held from GO (R315): source and tag, and AAD. -/
def lockRegions (s : State) (d : Nat) : List CipLock :=
  let kind := getF s (F.CIP_D_CTL_SRC_KIND d)
  let len := getF s (F.CIP_D_LEN_LEN d)
  if dOp s d = 6 ∧ 16384 < len ∧ kind ≤ 1 then
    [⟨d, kind, getF s (F.CIP_D_SRC_SRC d), len + 16⟩, ⟨d, kind, getF s (F.CIP_D_AAD_AAD d), getF s (F.CIP_D_AADLEN_AADLEN d)⟩]
  else []

/-- A write to CIP_Dd_CTL (R310): the state after it and its completion code. `mgt` says whether the writer is the
management complex. -/
def writeDescriptorCtl (s : State) (d w : Nat) (mgt : Bool) : State × Nat :=
  if dBusy s d then (s, codeREFUSED_BUSY)
  else
    let s := setWord s (F.CIP_D_CTL_OP d).key (BitVec.ofNat 32 (w % 2 ^ 28))
    let s := s.withCip { s.cip with writer := put d mgt s.cip.writer }
    if bitAt w 31 then
      let s := setWord s (F.CIP_D_STAT_STATE d).key 1
      (s.withCip { s.cip with order := s.cip.order ++ [d], locks := s.cip.locks ++ lockRegions s d }, codeOK)
    else (s, codeOK)

/-! ### Descriptors: regions (R311) -/

/-- Bytes of the NVM array. -/
def nvmSize : Nat := 0x800000

/-- Where offset `a` of region kind 0 or 1 stands: management data memory is kept under a unit number of its own. -/
def regionKey (kind a : Nat) : Nat := if kind = 0 then keyOf 0x20 a else nvmBase + a

/-- The Plaza queue that kind 2 reads. -/
def cipherQueue (s : State) (d : Nat) : Nat := 100 * 8 + getF s (F.CIP_D_SRC_SRC d) % 8

/-- The frame a descriptor of kind 2 has taken. -/
def takenFrame (s : State) (d : Nat) : List Byte := (assoc d s.cip.frames).getD []

/-- `len` bytes at `a` of the source region. -/
def sourceBytes (s : State) (d a len : Nat) : List Byte :=
  if getF s (F.CIP_D_CTL_SRC_KIND d) = 2 then sliceAt (takenFrame s d) a len
  else memRead s (regionKey (getF s (F.CIP_D_CTL_SRC_KIND d)) a) len

/-- Where the data starts: at SRC, or at the start of the frame. -/
def sourceAt (s : State) (d : Nat) : Nat :=
  if getF s (F.CIP_D_CTL_SRC_KIND d) = 2 then 0 else getF s (F.CIP_D_SRC_SRC d)

/-- Whether the operation's source carries a tag after the data. -/
def readsTag (op : Nat) : Bool := op = 6 || op = 10

/-- LEN: from the register, or from the frame without the tag it ends in (R311). -/
def dataLen (s : State) (d frameLen : Nat) : Nat :=
  if getF s (F.CIP_D_CTL_SRC_KIND d) = 2 then (if readsTag (dOp s d) then frameLen - 16 else frameLen)
  else getF s (F.CIP_D_LEN_LEN d)

/-- The bytes of padding that encryption appends (R313): 3 acts as 0. -/
def padMode (s : State) (d : Nat) : Nat := getF s (F.CIP_D_CTL_PAD d) % 3

/-- The bytes an operation writes to its destination. -/
def outputLen (s : State) (d len : Nat) : Nat :=
  match dOp s d with
  | 0 => if padMode s d = 0 then len else len / 16 * 16 + 16
  | 5 => len + 16
  | 8 | 9 | 10 => 0
  | _ => len

/-- Two ranges that overlap. -/
def overlaps (a n b m : Nat) : Bool := decide (0 < n) && decide (0 < m) && decide (a < b + m) && decide (b < a + n)

/-- The region checks of R310 and R311: whether a region is refused or source and destination overlap. -/
def addressError (s : State) (d len : Nat) : Bool :=
  let sk := getF s (F.CIP_D_CTL_SRC_KIND d)
  let dk := getF s (F.CIP_D_CTL_DST_KIND d)
  let src := getF s (F.CIP_D_SRC_SRC d)
  let dst := getF s (F.CIP_D_DST_DST d)
  let aad := getF s (F.CIP_D_AAD_AAD d)
  let aadLen := getF s (F.CIP_D_AADLEN_AADLEN d)
  let mgt := (assoc d s.cip.writer).getD true
  let srcLen := len + (if readsTag (dOp s d) then 16 else 0)
  let writes := dOp s d < 7
  let outLen := outputLen s d len
  sk = 3 || (!mgt && (sk = 0 || dk = 0)) || (dOp s d = 10 && dk ≠ 3)
    || (sk = 1 && (decide (nvmSize < src + srcLen) || decide (nvmSize < aad + aadLen)))
    || (writes && dk = 1 && (decide (nvmSize < dst + outLen) || overlaps dst outLen 0x740000 0x40000))
    || (writes && dk = sk && decide (dk ≤ 1) && overlaps src srcLen dst outLen)
    || (writes && decide (dk ≤ 1) && decide (0 < outLen) && cipherLocked s dk dst outLen)

/-- LEN_ERR (R312, R316). In a CTR descriptor IV_RAND = 1 asks for an encryption under a derived key (log entry 18). -/
def lengthError (s : State) (d len : Nat) : Bool :=
  let ownNonce := flag s (F.CIP_D_CTL_IV_RAND d) && getF s (F.CIP_D_CTL_KSRC d) ≠ 3
  (match dOp s d with
    | 0 => len = 0 || decide (2 ^ 21 < len) || (padMode s d = 0 && len % 16 ≠ 0)
    | 1 => len = 0 || decide (2 ^ 21 < len) || len % 16 ≠ 0
    | 2 | 3 => len = 0 || decide (2 ^ 21 < len)
    | 4 => len = 0 || decide (65536 < len)
        || (!ownNonce && decide (2 ^ 32 - 1 < ofBeNats ((ivBytes s d).drop 12) + (len + 15) / 16))
    | 6 => decide (2 ^ 21 < len) || decide (len < getF s (F.CIP_D_LEN_SKIP d) * 65536)
    | 10 => len ≠ 32
    | _ => decide (2 ^ 21 < len))
  || decide (1024 < getF s (F.CIP_D_AADLEN_AADLEN d))

/-- Whether an operation is a reserved one, or its key size does not fit (R316). -/
def opError (s : State) (d : Nat) : Bool :=
  dOp s d = 7 || decide (11 ≤ dOp s d) || getF s (F.CIP_D_CTL_KSIZE d) = 3
    || (getF s (F.CIP_D_CTL_KSRC d) = 4 && getF s (F.CIP_D_CTL_KSIZE d) ≠ 2)

/-- Whether the descriptor asks for random IV bytes (R296, R312). -/
def wantsRandom (s : State) (d : Nat) : Bool := flag s (F.CIP_D_CTL_IV_RAND d)

/-- The result with which a descriptor ends at its start, 0 for none. The order of the checks is the model's (log
entry 19). -/
def startError (s : State) (d len : Nat) : Nat :=
  if opError s d then 8
  else if (descriptorKey s d).isNone then 3
  else if lengthError s d len then 5
  else if addressError s d len then 6
  else if wantsRandom s d && s.cip.entropyFailed then 9
  else 0

/-! ### Descriptors: ending (R316) -/

/-- A descriptor completes with a result. -/
def finishDescriptor (s : State) (d result : Nat) : State :=
  let s := setF (setF s (F.CIP_D_STAT_RESULT d) result) (F.CIP_D_STAT_STATE d) 4
  let s := setBitF s F.CIP_DONE_DONE d true
  let s := if result = 1 then incF s F.CIP_TAG_FAIL_COUNT else if result = 2 then incF s F.CIP_PAD_ERR_COUNT else s
  s.withCip { s.cip with
    order := s.cip.order.filter (fun x => x ≠ d)
    hold := s.cip.hold.filter (fun x => x ≠ d)
    locks := s.cip.locks.filter (fun l => l.slot ≠ d)
    frames := erase d s.cip.frames }

/-- Every queued or running descriptor ends ABORTED, and the hold buffer is cleared: CIP fenced or in reset (R316). -/
def abortDescriptors (s : State) : State :=
  (upTo 16).foldl (fun t d => if dBusy t d then finishDescriptor t d 7 else t) s

/-- The key registers zeroised, with the cache entries derived from them; a running descriptor that names one ends
KEY_REFUSED (R299, R300). -/
def zeroiseKeyRegs (s : State) : State :=
  let s := s.withCip { s.cip with keyRegs := [], cache := s.cip.cache.filter (fun e => e.ksrc ≠ 4) }
  (upTo 16).foldl (fun t d =>
    if 2 ≤ dState t d ∧ dState t d ≤ 3 ∧ (getF t (F.CIP_D_CTL_KSRC d) = 3 ∨ getF t (F.CIP_D_CTL_KSRC d) = 4) then
      finishDescriptor t d 3
    else t) s

/-! ### Descriptors: the operations (R312 to R315) -/

/-- `n` bytes of padding content for `len` bytes of data (R313). -/
def padBytes (mode len : Nat) : List Nat :=
  let n := 16 - len % 16
  if mode = 1 then 0x80 :: List.replicate (n - 1) 0 else if mode = 2 then List.replicate n n else []

/-- How many bytes of padding end a decrypted text, if they are good (R313). -/
def padCount (mode : Nat) (plain : List Nat) : Option Nat :=
  if mode = 1 then
    let zeros := (plain.reverse.takeWhile (fun b => b = 0)).length
    if zeros < 16 ∧ plain.reverse.getD zeros 0 = 0x80 then some (zeros + 1) else none
  else
    let n := plain.reverse.headD 0
    if 1 ≤ n ∧ n ≤ 16 ∧ (plain.reverse.take n).all (fun b => b = n) then some n else none

/-- TAGLEN as it acts. -/
def tagLen (s : State) (d : Nat) : Nat :=
  let n := getF s (F.CIP_D_CTL_TAGLEN d)
  if n = 0 ∨ 17 ≤ n then 16 else max 4 n

/-- Data written to the destination (R311): memory, NVM, or a frame queued to port 98. -/
def writeOutput (s : State) (d ofs : Nat) (bs : List Nat) : State :=
  let dst := getF s (F.CIP_D_DST_DST d)
  match getF s (F.CIP_D_CTL_DST_KIND d) with
  | 0 => memWrite s (regionKey 0 (dst + ofs)) (toBytes bs)
  | 1 => memWrite s (regionKey 1 (dst + ofs)) (toBytes bs)
  | 2 => enqueueFrame s (newFrame s (.eth (toBytes bs)) 100 (dst % 8) 0 0 false) [plainTarget (98 * 8 + dst % 8) false 0]
  | _ => s

/-- The plaintext of a CBC decryption without its padding: what is written, the bytes removed, and whether the padding
was good. With a bad one the last block is not written, nor anything from the hold buffer. -/
def cbcPlain (mode len : Nat) (plain : List Nat) : List Nat × Nat × Bool :=
  if mode = 0 then (plain, 0, true)
  else match padCount mode plain with
    | some n => (plain.take (plain.length - n), n, true)
    | none => (if len ≤ 16384 then [] else plain.take (plain.length - 16), 0, false)

/-- What a descriptor works on once it runs: its key, data and AAD. -/
structure CipJob where
  key : List Nat
  data : List Nat
  tag : List Nat
  aad : List Nat
  iv : List Nat
deriving DecidableEq, Repr

/-- Whether a descriptor takes a nonce of a local slot (R305, R312; log entry 18). -/
def wantsNonce (s : State) (d : Nat) : Bool :=
  getF s (F.CIP_D_CTL_KSRC d) ≠ 3 && (dOp s d = 5 || (dOp s d = 4 && flag s (F.CIP_D_CTL_IV_RAND d)))

def cipJob (s : State) (d : Nat) (key : List Nat) : CipJob :=
  let len := dataLen s d (takenFrame s d).length
  let a := sourceAt s d
  ⟨key, toNats (sourceBytes s d a len), toNats (sourceBytes s d (a + len) 16),
    toNats (sourceBytes s d (getF s (F.CIP_D_AAD_AAD d)) (getF s (F.CIP_D_AADLEN_AADLEN d))),
    if dOp s d = 4 ∧ wantsNonce s d = true then (ivBytes s d).take 12 ++ [0, 0, 0, 1] else ivBytes s d⟩

/-- The tag of a GCM source matches. -/
def gcmTagOk (j : CipJob) : Bool := gcmTag j.key (j.iv.take 12) j.aad j.data = j.tag

/-- CBC encryption, with padding (R312, R313). -/
def opCbcEncrypt (s : State) (d : Nat) (j : CipJob) : State :=
  let pad := padBytes (padMode s d) j.data.length
  let s := setF s (F.CIP_D_STAT_PADBYTES d) pad.length
  finishDescriptor (writeOutput s d 0 (cbcEncBlocks j.key j.iv (blocksOf (j.data ++ pad)))) d 0

def opCbcDecrypt (s : State) (d : Nat) (j : CipJob) : State :=
  let (out, n, good) := cbcPlain (padMode s d) j.data.length (cbcDecBlocks j.key j.iv (blocksOf j.data))
  let s := setF s (F.CIP_D_STAT_PADBYTES d) n
  finishDescriptor (if out = [] then s else writeOutput s d 0 out) d (if good then 0 else 2)

def opCfb (s : State) (d : Nat) (j : CipJob) (dec : Bool) : State :=
  let bs := blocksOf j.data
  finishDescriptor (writeOutput s d 0 (if dec then cfbDecBlocks j.key j.iv bs else cfbEncBlocks j.key j.iv bs)) d 0

def opCtr (s : State) (d : Nat) (j : CipJob) : State :=
  finishDescriptor (writeOutput s d 0 (ctrBlocks j.key j.iv (blocksOf j.data))) d 0

def opGcmEncrypt (s : State) (d : Nat) (j : CipJob) : State :=
  let out := gcmCrypt j.key (j.iv.take 12) j.data
  finishDescriptor (writeOutput s d 0 (out ++ gcmTag j.key (j.iv.take 12) j.aad out)) d 0

/-- GCM decryption: plaintext only after the tag matched; pass 2 of a long one starts at SKIP (R314, R315). -/
def opGcmDecrypt (s : State) (d : Nat) (j : CipJob) : State :=
  if 16384 < j.data.length then
    let skip := getF s (F.CIP_D_LEN_SKIP d) * 65536
    let s := setF s (F.CIP_D_STAT_DONE64 d) (j.data.length / 65536)
    finishDescriptor (writeOutput s d skip ((gcmCrypt j.key (j.iv.take 12) j.data).drop skip)) d 0
  else if gcmTagOk j then finishDescriptor (writeOutput s d 0 (gcmCrypt j.key (j.iv.take 12) j.data)) d 0
  else finishDescriptor s d 1

def opCmac (s : State) (d : Nat) (j : CipJob) (verify : Bool) : State :=
  let tag := (cmac j.key j.data).take (tagLen s d)
  if verify then finishDescriptor s d (if j.iv.take (tagLen s d) = tag then 0 else 1)
  else finishDescriptor (setIv s d tag) d 0

/-- UNWRAP_RING: the RING root loaded, or left as it was (R312). -/
def opUnwrap (s : State) (d : Nat) (j : CipJob) : State :=
  if gcmTagOk j then
    finishDescriptor (s.withCip { s.cip with ringRoot := some (bytesKey (gcmCrypt j.key (j.iv.take 12) j.data)) }) d 0
  else finishDescriptor s d 1

/-- The reads of a descriptor's source and AAD (R372). -/
def touchSource (s : State) (d : Nat) : State :=
  let kind := getF s (F.CIP_D_CTL_SRC_KIND d)
  if kind = 2 then s
  else
    let s := eccTouch s (regionKey kind (sourceAt s d)) (dataLen s d 0 + if readsTag (dOp s d) then 16 else 0)
    eccTouch s (regionKey kind (getF s (F.CIP_D_AAD_AAD d))) (getF s (F.CIP_D_AADLEN_AADLEN d))

/-- Whether another descriptor has locked what this one is about to write, since it started (R315; log entry 120). -/
def lockedOutput (s : State) (d len : Nat) : Bool :=
  let dk := getF s (F.CIP_D_CTL_DST_KIND d)
  let others := s.withCip { s.cip with locks := s.cip.locks.filter (fun l => l.slot ≠ d) }
  decide (dOp s d < 7) && decide (dk ≤ 1) && decide (0 < outputLen s d len)
    && cipherLocked others dk (getF s (F.CIP_D_DST_DST d)) (outputLen s d len)

/-- The operation of a running descriptor, to its end. -/
def runDescriptor (s : State) (d : Nat) : State :=
  match descriptorKey s d with
  | none => finishDescriptor s d 3
  | some (key, s) =>
    let s := touchSource s d
    let j := cipJob s d key
    if lockedOutput s d j.data.length then finishDescriptor s d 6
    else match dOp s d with
    | 0 => opCbcEncrypt s d j
    | 1 => opCbcDecrypt s d j
    | 2 => opCfb s d j false
    | 3 => opCfb s d j true
    | 4 => opCtr s d j
    | 5 => opGcmEncrypt s d j
    | 6 => opGcmDecrypt s d j
    | 8 => opCmac s d j false
    | 9 => opCmac s d j true
    | 10 => opUnwrap s d j
    | _ => finishDescriptor s d 8

/-! ### Descriptors: starting (R310, R314) -/

/-- Whether a descriptor runs through a hold slot (R314). -/
def wantsHold (s : State) (d len : Nat) : Bool :=
  decide (len ≤ 16384) && (dOp s d = 6 || (dOp s d = 1 && padMode s d ≠ 0))

/-- The IV a descriptor starts with: a nonce of its local context, written back to IV0–2, or random bytes. None: it
waits in Queued, or ends NONCE_EXHAUST. -/
def startIv (s : State) (d : Nat) : Option State × State :=
  if wantsNonce s d then
    let slot := 2 + getF s (F.CIP_D_CTL_NCTX d)
    match takeNonce s slot with
    | (some c, s) =>
      (some (setIv s d (beNats 4 (slotContext s slot).toNat ++ beNats 8 c)), s)
    | (none, s) => (none, s)
  else if wantsRandom s d && (dOp s d = 0 || dOp s d = 2) then
    let iv := toNats (leBytes 16 (Config.randomIv s.fresh).toNat)
    (some (setIv (s.withFresh (s.fresh + 1)) d iv), s)
  else (some s, s)

/-- The head frame of a kind 2 source taken from its queue. -/
def takeSourceFrame (s : State) (d : Nat) : State :=
  if getF s (F.CIP_D_CTL_SRC_KIND d) = 2 then
    match readyRef s (cipherQueue s d), headFrame s (cipherQueue s d) with
    | some r, some f =>
      let s := removeRef s (cipherQueue s d) r
      s.withCip { s.cip with frames := put d (storedBytes f.body) s.cip.frames }
    | _, _ => s
  else s

/-- A descriptor that has passed its checks begins: state Pass 1 for a long GCM decryption, else Running. -/
def beginDescriptor (s : State) (d len : Nat) : State :=
  let s := takeSourceFrame s d
  let s := match descriptorKey s d with
    | some (_, t) => t
    | none => s
  let s := if wantsHold s d len then s.withCip { s.cip with hold := s.cip.hold ++ [d] } else s
  let s := s.withCip { s.cip with order := s.cip.order.filter (fun x => x ≠ d) }
  setF s (F.CIP_D_STAT_STATE d) (if dOp s d = 6 ∧ 16384 < len then 2 else 3)

/-- The queued descriptor `d` starts, ends with an error, or waits. -/
def startDescriptor (s : State) (d : Nat) : State :=
  let frame := headFrame s (cipherQueue s d)
  let frameLen := match frame with
    | some f => (storedBytes f.body).length
    | none => 0
  let len := dataLen s d frameLen
  let empty := getF s (F.CIP_D_CTL_SRC_KIND d) = 2 && frame.isNone
  let err := if empty then 6 else startError s d len
  if err ≠ 0 then finishDescriptor s d err
  else if wantsHold s d len && decide (4 ≤ s.cip.hold.length) then s
  else match startIv s d with
    | (some s, _) => beginDescriptor s d len
    | (none, s) => if s.cip.exhausted.contains (2 + getF s (F.CIP_D_CTL_NCTX d)) then finishDescriptor s d 4 else s

/-! ### Commands -/

/-- A command that queues operation `op` in slot `d` (R310): the write of CTL with that OP and GO, by the management
complex. -/
def queueOp (s : State) (d op : Nat) (ctl : Word) : State :=
  if live s unitCIP ∧ d < 16 then
    let w := insertBits (insertBits ctl.toNat 0 4 op) 31 1 1
    let (s, code) := noteWrite unitCIP (0x1000 + 0x40 * d) w (writeDescriptorCtl s d w true)
    output s (.code code)
  else output s (.code ((fenceCode s unitCIP).getD codeADDR_ERROR))

/-- GCM_ENCRYPT (R312). -/
def execGcmEncrypt (d : Nat) (ctl : Word) (s : State) : Result := .next (queueOp s d 5 ctl)
/-- GCM_DECRYPT (R315). -/
def execGcmDecrypt (d : Nat) (ctl : Word) (s : State) : Result := .next (queueOp s d 6 ctl)
/-- CBC_ENCRYPT (R312). -/
def execCbcEncrypt (d : Nat) (ctl : Word) (s : State) : Result := .next (queueOp s d 0 ctl)
/-- CBC_DECRYPT (R313). -/
def execCbcDecrypt (d : Nat) (ctl : Word) (s : State) : Result := .next (queueOp s d 1 ctl)
/-- CFB_ENCRYPT (R312). -/
def execCfbEncrypt (d : Nat) (ctl : Word) (s : State) : Result := .next (queueOp s d 2 ctl)
/-- CFB_DECRYPT (R312). -/
def execCfbDecrypt (d : Nat) (ctl : Word) (s : State) : Result := .next (queueOp s d 3 ctl)
/-- CTR (R312). -/
def execCtr (d : Nat) (ctl : Word) (s : State) : Result := .next (queueOp s d 4 ctl)
/-- CMAC_GENERATE (R312). -/
def execCmacGenerate (d : Nat) (ctl : Word) (s : State) : Result := .next (queueOp s d 8 ctl)
/-- CMAC_VERIFY (R312). -/
def execCmacVerify (d : Nat) (ctl : Word) (s : State) : Result := .next (queueOp s d 9 ctl)
/-- UNWRAP_RING (R312). -/
def execUnwrapRing (d : Nat) (ctl : Word) (s : State) : Result := .next (queueOp s d 10 ctl)

/-- DESCRIPTOR_START (R310): the oldest queued descriptor starts if it can. -/
def execDescriptorStart (s : State) : Result :=
  .next (
    if live s unitCIP then
      match s.cip.order with
      | d :: _ => startDescriptor s d
      | [] => s
    else s)

/-- Pass 1 of slot `d` ends (R315). -/
def endPass1 (s : State) (d : Nat) : State :=
  match descriptorKey s d with
  | none => finishDescriptor s d 3
  | some (key, s) =>
    let s := touchSource s d
    if gcmTagOk (cipJob s d key) then setF s (F.CIP_D_STAT_STATE d) 3 else finishDescriptor s d 1

/-- CACHE_FLUSH (R300). -/
def flushCache (s : State) : State := s.withCip { s.cip with cache := s.cip.cache.filter (cachePinned s) }
def execCacheFlush (s : State) : Result := .next (if live s unitCIP then noteReg (flushCache s) unitCIP 4 1 else s)

/-- LGEN_NEXT (R309): the next local generation, with fresh reservations for all local slots. It has no effect at the
last generation, and waits while NVM may not be written or a running decryption has locked the words (R315). -/
def nextLgen (s : State) : State :=
  let g := getF s F.CIP_LGEN_LGEN
  if g = 2 ^ 28 - 1 then setFlag (s.withCip { s.cip with lgenBusy := false }) F.CIP_CTL_LGEN_NEXT false
  else if !nvmWritable s || nonceLogLocked s 16 then setFlag (s.withCip { s.cip with lgenBusy := true }) F.CIP_CTL_LGEN_NEXT true
  else
    let s := setF s F.CIP_LGEN_LGEN (g + 1)
    let s := s.withCip { s.cip with
      lgenBusy := false
      exhausted := s.cip.exhausted.filter (fun k => k < 2)
      reserving := s.cip.reserving.filter (fun k => k < 2) }
    let s := (upTo 16).foldl (fun t n =>
      setNlim (setNctr (writeNonceRecord t (2 + n) (g + 1) (slotContext t (2 + n)) (2 ^ 20)) (2 + n) 0) (2 + n) (2 ^ 20)) s
    setFlag s F.CIP_CTL_LGEN_NEXT false
def execLgenNext (s : State) : Result := .next (if live s unitCIP then noteReg (nextLgen s) unitCIP 4 2 else s)

/-- Whether a Queued or running descriptor names a key register (R299). -/
def keyRegNamed (s : State) (k : Nat) : Bool :=
  (upTo 16).any (fun d => dBusy s d && getF s (F.CIP_D_CTL_KREG d) = k
    && (getF s (F.CIP_D_CTL_KSRC d) = 3 || getF s (F.CIP_D_CTL_KSRC d) = 4))

/-- A write to word `w` of key register `k` (R299). -/
def writeKeyReg (s : State) (k w : Nat) (v : Word) : State × Nat :=
  if !keyRegsLive s then (s, codeACCESS_DENIED)
  else if keyRegNamed s k then (s, codeREFUSED_BUSY)
  else (s.withCip { s.cip with keyRegs := put (8 * k + w) v s.cip.keyRegs }, codeOK)

/-- KEY_REGISTER_WRITE (R299). -/
def execKeyRegisterWrite (k w : Nat) (v : Word) (s : State) : Result :=
  .next (
    if live s unitCIP ∧ k < 8 ∧ w < 8 then
      let (s, code) := noteWrite unitCIP (0x400 + 0x20 * k + 4 * w) v.toNat (writeKeyReg s k w v)
      output s (.code code)
    else output s (.code ((fenceCode s unitCIP).getD codeADDR_ERROR)))

/-- NONCE_RESERVATION_COMPLETE (R306): the record is written, and LIM rises by 2^20. -/
def execNonceReservationComplete (slot : Nat) (s : State) : Result :=
  .next (
    if live s unitCIP ∧ s.cip.reserving.contains slot ∧ nvmWritable s ∧ !nonceLogLocked s 1 then
      let lim := min nonceEnd (nlim s slot + 2 ^ 20)
      let s := writeNonceRecord s slot (slotGen s slot) (slotContext s slot) lim
      let s := setNlim s slot lim
      s.withCip { s.cip with reserving := s.cip.reserving.filter (fun k => k ≠ slot) }
    else s)

/-- ENTROPY_FAIL (R296). -/
def execEntropyFail (s : State) : Result :=
  .next (
    if live s unitCIP then
      recordFault (s.withCip { s.cip with entropyFailed := true }) fltCipEntropy unitCIP 0 0
    else s)

end Sys2Proof.Machine
end

