-- ==== Sys2Proof/Machine/Lanes.lean ====
section
/-! DEFINITION. The commands of the ring and twin lanes: word lock, bring-up, forerunner training, loss of lock (R92 to
R105). -/

namespace Sys2Proof.Machine

/-! ### Bring-up states (R97) -/

def buDown : Nat := 0
def buCap : Nat := 1
def buStep : Nat := 2
def buFrTrain : Nat := 3
def buUp : Nat := 4
def buRelock : Nat := 5

def buState (s : State) (p : Nat) : Nat := getF s (F.RNG_PORT_STAT_STATE p)
def setBuState (s : State) (p st : Nat) : State := setF s (F.RNG_PORT_STAT_STATE p) st
def buRate (s : State) (p : Nat) : Nat := getF s (F.RNG_PORT_STAT_RATE p)

/-- A failure recorded in RNG_PORTn_BRINGUP. -/
def buReason (s : State) (p reason rate : Nat) : State :=
  setF (setF s (F.RNG_PORT_BRINGUP_REASON p) reason) (F.RNG_PORT_BRINGUP_REASON_RATE p) rate

/-- Whether the hub lets its ring transmitters run: from the enable of the ring ports (R402), and in Recovery (R418). -/
def portsAllowed (s : State) : Bool :=
  live s unitRNG && (s.dev.stage = .joined || s.dev.stage = .ringReady)

/-- Both lanes hold three consecutive good markers (R93). -/
def wordLock (s : State) (p : Nat) : Bool :=
  let q := portSt s p
  decide (3 ≤ q.lane0.good) && decide (3 ≤ q.lane1.good)

/-- Word lock lost on both lanes, as at a change of rate. -/
def dropLock (s : State) (p : Nat) : State :=
  setPortSt s p { portSt s p with lane0 := LaneRx.reset, lane1 := LaneRx.reset, discarding := false, resumeAt := none }

/-- The transmitter of a port begins anew, with a marker: at a change of rate (R90). -/
def restartTx (s : State) (p : Nat) : State := setPortSt s p { portSt s p with tx := ⟨s.mono, 0, 0⟩ }

/-- Every timer of a port's bring-up stopped. -/
def stopBringup (s : State) (p : Nat) : State :=
  [TimerId.cap p, .verify p, .stepLimit p, .frTrain p, .relock p].foldl stopTimer s

/-- MAX_RATE as it acts (R107): 3 acts as 2, and on the twin link nothing exceeds 1; a recovery relay offers 0 (R420). -/
def ownMaxRate (s : State) (p : Nat) : Nat :=
  if s.ring.relayPort = some p then 0 else min (getF s (F.RNG_PORT_CFG_MAX_RATE p)) (if p = 2 then 1 else 2)

/-- The highest rate that the lane table carries for both lanes (R98, R104); the steps below it must stand too. In
Recovery the hub uses 1.25 GBd (R418). -/
def tableRate (s : State) (p : Nat) : Nat :=
  let ok (i : Nat) := entryValid (laneEntry s (2 * p) i) && entryValid (laneEntry s (2 * p + 1) i)
  if s.dev.state = .recovery then 0 else if ok 1 then (if ok 2 then 2 else 1) else 0

/-- Whether the port's registers ask for encryption. -/
def wantsEnc (s : State) (p : Nat) : Bool :=
  s.ident.variant.hasCip && decide (p < 2) && flag s (F.RNG_PORT_CFG_ENC_OFFER p)

/-- Whether this side offers encryption (R98, R107): never without the ring root that its Cap has read (R302, R395). -/
def offersEnc (s : State) (p : Nat) : Bool := wantsEnc s p && (portSt s p).capRoot.isSome

/-- The capability word this side sends (R92): from its event on it fills every other slot until the next (R97; log entry
193). -/
def ownCapability (s : State) (p : Nat) : BitVec 64 :=
  withCrc8 (0xCA9B * 2 ^ 48 + 2 ^ 44 + min (portSt s p).capMax (tableRate s p) * 2 ^ 42 + bit01 (offersEnc s p) * 2 ^ 41
    + bit01 (flag s (F.RNG_PORT_CFG_FR_ALLOW p)) * 2 ^ 40 + bit01 s.dev.side * 2 ^ 39 + bit01 (decide (p = 2)) * 2 ^ 38
    + s.dev.nodeId * 2 ^ 28 + (portSt s p).ownState % 16 * 2 ^ 24)

/-- This side's STATE set, and shown in the capability words it sends. -/
def showState (s : State) (p st : Nat) : State :=
  let s := setPortSt s p { portSt s p with ownState := st }
  output s (.capability p (ownCapability s p))

/-- The equalisation of both lanes of a port at a rate (R104). -/
def loadPortEq (s : State) (p rate : Nat) : State :=
  loadEq (loadEq s (F.RNG_LANE_EQ_TX_TAPS (2 * p)).key (2 * p) rate) (F.RNG_LANE_EQ_TX_TAPS (2 * p + 1)).key (2 * p + 1) rate

/-- What leaving Up does: the Crossing breaks the port, or the twin link goes down (R126, R327). -/
def leaveUp (s : State) (p : Nat) : State :=
  if buState s p = buUp then (if p = 2 then twinLinkLost s else declareBroken s p) else s

/-- Down: transmitters off (R97). -/
def enterDown (s : State) (p : Nat) : State :=
  let s := stopBringup (leaveUp s p) p
  let s := setFlag (setFlag s (F.RNG_PORT_STAT_ENC p) false) (F.RNG_PORT_STAT_FR p) false
  let s := dropLock (setBuState s p buDown) p
  setPortSt s p { portSt s p with ownState := 0, peerCap := none, keys := none }

/-- Added frames of a ring port have tokens at the rate it has had up to now (R123). -/
def settlePort (s : State) (p : Nat) : State := if p < 2 then settleAdded s p else s

/-- Cap (R97): 1.25 GBd, STATE 0, keys dropped; MAX_RATE, the ring root, the ring key generation and this hub's own pair are
read (R107, R302). -/
def enterCap (s : State) (p : Nat) : State :=
  let s := settlePort (stopBringup (leaveUp s p) p) p
  let s := setF (setBuState s p buCap) (F.RNG_PORT_STAT_RATE p) 0
  let s := setFlag (setFlag (setFlag s (F.RNG_PORT_STAT_ENC p) false) (F.RNG_PORT_STAT_FR p) false)
    (F.RNG_PORT_CTL_RETRAIN p) false
  let s := setFlag (dropLock s p) (F.RNG_PORT_STAT_SWAPPED p) false
  let s := setPortSt s p { portSt s p with
    ownState := 0, peerCap := none, keys := none, verified := false, falling := false, prevRate := 0, encAgreed := false
    ended := false, capMax := ownMaxRate s p, capRoot := s.cip.ringRoot, capOwn := 2 * s.dev.nodeId + bit01 s.dev.side
    capGen := regWord s F.CIP_RING_GEN_GEN.key }
  let s := loadPortEq (restartTx s p) p 0
  startTimer (output s (.capability p (ownCapability s p))) (.cap p) (100 * ticksMs)

/-- A Down port with EN = 1 starts its bring-up, where the hub lets it (R97). -/
def startPort (s : State) (p : Nat) : State :=
  if hasPort s p ∧ buState s p = buDown ∧ flag s (F.RNG_PORT_CFG_EN p) = true ∧ portsAllowed s = true then enterCap s p else s

/-- Up (R97): the port carries frames; with encryption its segment keys are derived (R301). -/
def goUp (s : State) (p : Nat) : State :=
  let s := stopBringup s p
  let s := setFlag (setBuState s p buUp) (F.RNG_PORT_STAT_ENC p) (portSt s p).encAgreed
  let s := if (portSt s p).encAgreed && (portSt s p).keys.isNone then deriveSegment s p else s
  let s := setPortSt s p { portSt s p with kaSeen := false, kaMissed := 0, verified := false, falling := false, ended := false }
  if p = 2 then startTimer s .twinKaSend ticksUs
  else
    startTimer (startTimer (ensureTimer s (.linkReport p) ticksMs) (.ka p) ticksUs) (.kaTick p)
      ((if flag s (F.RNG_PORT_STAT_FR p) then 10 else 1) * ticksUs)

/-- RATE_SWITCH (R98): the next rate, its equalisation, and the 10 ms limit of R100. -/
def switchRate (s : State) (p rate : Nat) : State :=
  let old := buRate s p
  let s := settlePort (stopBringup s p) p
  let s := setF (setBuState s p buStep) (F.RNG_PORT_STAT_RATE p) rate
  let s := loadPortEq (restartTx (dropLock s p) p) p rate
  let q := portSt s p
  let s := setPortSt s p { q with
    prevRate := old, verified := false, ended := false
    peerCap := q.peerCap.map (fun w => BitVec.ofNat 64 (insertBits w.toNat 24 4 2)) }
  startTimer (showState s p 2) (.stepLimit p) (10 * ticksMs)

/-- The STATE a peer last showed. -/
def peerCapState (s : State) (p : Nat) : Nat :=
  match (portSt s p).peerCap with
  | some w => bitsAt w.toNat 24 4
  | none => 0

/-- MAX_RATE that a peer offers; the reserved 3 is taken as 2 (R92; log entry 190). -/
def peerRate (w : BitVec 64) : Nat := min (bitsAt w.toNat 42 2) 2

/-- The target rate of R98. -/
def targetRate (s : State) (p : Nat) : Nat :=
  match (portSt s p).peerCap with
  | some w => min (peerRate w) (min (portSt s p).capMax (tableRate s p))
  | none => 0

/-- A rate that both sides offer and the lane table lacks is recorded as NO_TABLE. -/
def noteNoTable (s : State) (p : Nat) : State :=
  match (portSt s p).peerCap with
  | some w =>
    if tableRate s p < min (peerRate w) (portSt s p).capMax ∧ s.dev.state ≠ .recovery then
      buReason s p 9 (tableRate s p + 1) else s
  | none => s

/-- Go on from a rate that both sides have verified: to the next rate, or Up (R97, R98). -/
def stepOn (s : State) (p : Nat) : State :=
  if buRate s p < targetRate s p then switchRate s p (buRate s p + 1) else goUp s p

/-! ### Forerunner mode (R105) -/

/-- The taps of a lane set. -/
def setTaps (s : State) (lane : Nat) (pre1 main post1 : Int) : State :=
  setF s (F.RNG_LANE_EQ_TX_TAPS lane) (unsignedOf 6 pre1 * 2 ^ 6 + unsignedOf 6 main * 2 ^ 12 + unsignedOf 6 post1 * 2 ^ 18)

/-- PRE1, MAIN and POST1 of a lane. -/
def tapsOf (s : State) (lane : Nat) : Int × Int × Int :=
  let t := getF s (F.RNG_LANE_EQ_TX_TAPS lane)
  (signed 6 (bitsAt t 6 6), (bitsAt t 12 6 : Nat), signed 6 (bitsAt t 18 6))

/-- The table's taps at rate index 1, as forerunner mode uses them. -/
def presetTaps (s : State) (lane : Nat) : State :=
  let e := laneEntry s lane 1
  setTaps s lane (signed 6 (bitsAt e 6 6)) (bitsAt e 12 6 : Nat) (signed 6 (bitsAt e 18 6))

/-- FrTrain (R97): 10.3125 GBd, the table's taps, one preset request to the peer and then receiver ready (R105). -/
def enterFrTrain (s : State) (p : Nat) : State :=
  let s := stopBringup s p
  let s := setFlag (setF (setBuState s p buFrTrain) (F.RNG_PORT_STAT_RATE p) 1) (F.RNG_PORT_STAT_FR p) true
  let s := presetTaps (presetTaps (loadPortEq (restartTx (dropLock s p) p) p 1) (2 * p)) (2 * p + 1)
  startTimer (output (output s (.frPreset p)) (.frReady p)) (.frTrain p) (100 * ticksMs)

/-- Whether the tap that moves lies in its range, and all within the sum of 63. -/
def tapsOk (tap : FrTap) (pre1 main post1 : Int) : Bool :=
  (match tap with
    | .pre1 => decide (-15 ≤ pre1 ∧ pre1 ≤ 0)
    | .main => decide (20 ≤ main ∧ main ≤ 63)
    | .post1 => decide (-31 ≤ post1 ∧ post1 ≤ 0))
  && decide (pre1.natAbs + main.natAbs + post1.natAbs ≤ 63)

/-- One step of one tap: the taps after it, and the answer (0 updated, 1 at minimum, 2 at maximum). A move that the sum
refuses is answered by its direction (log entry 191). -/
def moveTap (s : State) (lane : Nat) (tap : FrTap) (up : Bool) : State × Nat :=
  let (a, m, b) := tapsOf s lane
  let d : Int := if up then 1 else -1
  let (a', m', b') := match tap with
    | .pre1 => (a + d, m, b)
    | .main => (a, m + d, b)
    | .post1 => (a, m, b + d)
  if tapsOk tap a' m' b' then (setTaps s lane a' m' b', 0) else (s, if up then 2 else 1)

/-- A coefficient request answered (R105); hold, preset and initialise are answered with updated (log entry 191). -/
def coeffRequest (s : State) (lane : Nat) (tap : FrTap) (req : FrReq) : State × Nat :=
  match req with
  | .increment => moveTap s lane tap true
  | .decrement => moveTap s lane tap false
  | .hold => (s, 0)
  | .preset => (presetTaps s lane, 0)
  | .initialise => (presetTaps s lane, 0)

/-! ### Errors and markers (R93 to R96, R99) -/

/-- Whether a port is verifying: the 1 ms without errors of Step or FrTrain (R97). -/
def verifying (s : State) (p : Nat) : Bool :=
  (buState s p = buStep && !(portSt s p).verified) || buState s p = buFrTrain

/-- An error at a rate under verification: the 1 ms window starts again (R99). -/
def verifyError (s : State) (p : Nat) : State :=
  if verifying s p && running s (.verify p) then startTimer s (.verify p) ticksMs else s

/-- Loss of receive lock (R95, R97): Up goes to Relock and the Crossing is told. -/
def loseLock (s : State) (p : Nat) : State :=
  let s := incF s (F.RNG_PORT_LOCK_LOSS_COUNT p)
  if buState s p = buUp then
    startTimer (dropLock (setBuState (leaveUp s p) p buRelock) p) (.relock p) (2 * ticksMs)
  else if buState s p = buStep ∨ buState s p = buFrTrain then stopTimer (dropLock s p) (.verify p)
  else dropLock s p

/-- The receive state of one lane. -/
def laneRx (s : State) (p lane : Nat) : LaneRx := if lane = 0 then (portSt s p).lane0 else (portSt s p).lane1
def setLaneRx (s : State) (p lane : Nat) (l : LaneRx) : State :=
  setPortSt s p (if lane = 0 then { portSt s p with lane0 := l } else { portSt s p with lane1 := l })

/-- A marker with a bad CRC-8 or pattern, or out of place: counted; two in a row on a locked lane lose lock (R95). -/
def badMarker (s : State) (p lane : Nat) : State :=
  let l := laneRx s p lane
  let s := verifyError (incF s (F.RNG_PORT_MKR_ERR_COUNT p)) p
  if 3 ≤ l.good then
    if l.bad = 0 then setLaneRx s p lane { l with bad := 1, slot := (l.slot + 1) % 4096 } else loseLock s p
  else setLaneRx s p lane { LaneRx.reset with run := l.run }

/-- The level of LOS of a port's cage as last sampled: a loss of lock by LOS finds it high, a marker low; the twin link
has no cage (R86, R95; log entry 41). -/
def setLos (s : State) (p : Nat) (b : Bool) : State :=
  if p < 2 then
    s.withPins { s.pins with los := BitVec.ofNat 2 (withBit s.pins.los.toNat p b) }
  else s

/-- A lane after a good marker: before lock it counts the consecutive ones at the expected slot; a locked lane stays locked
(R93). The slots are numbered on from the COUNT at which the lane was found (log entry 194). -/
def laneAfter (l : LaneRx) (count : Nat) (atSlot : Bool) : LaneRx :=
  let next := (l.slot + 1) % 4096
  if 3 ≤ l.good then { l with bad := 0, lastCount := some count, slot := next }
  else if l.lastCount = some ((count + 4095) % 4096) ∧ atSlot = true then
    { l with good := l.good + 1, bad := 0, lastCount := some count, slot := next }
  else { l with good := 1, bad := 0, lastCount := some count, slot := count }

/-- Whether the COUNT values of two locked lanes differ in the slot that both have reached (R95). -/
def countsDiffer (s : State) (p : Nat) : Bool :=
  let q := portSt s p
  wordLock s p && q.lane0.slot = q.lane1.slot && q.lane0.lastCount != q.lane1.lastCount

/-- The resynchronisation at a marker: what discards ends, and frames that start before the word NEXT_SOF are lost until the
lane's next marker (R96). -/
def resync (q : PortSt) (lane nextSof : Nat) : PortSt :=
  if q.discarding then { q with discarding := false, resumeAt := some (lane, nextSof) }
  else if q.resumeAt.any (fun r => r.1 = lane) then { q with resumeAt := none }
  else q

/-- A bring-up attempt that fails for a reason of its own: what ends it later does not replace the reason (R94, R101, R107). -/
def endAttemptWith (s : State) (p reason rate : Nat) : State :=
  let s := buReason s p reason rate
  setPortSt s p { portSt s p with ended := true }

/-- A good marker: word lock, lane swap, deskew, and the end of a resynchronisation (R93 to R96). -/
def goodMarker (s : State) (p lane w : Nat) (atSlot : Bool) (skew : Nat) : State :=
  let s := setLaneRx s p lane (laneAfter (laneRx s p lane) (bitsAt w 8 12) atSlot)
  let s := if bitsAt w 32 4 ≠ lane then setFlag s (F.RNG_PORT_STAT_SWAPPED p) true else s
  let s := setPortSt s p (resync (portSt s p) lane (bitsAt w 20 12))
  if !wordLock s p then s
  else if countsDiffer s p then loseLock (verifyError s p) p
  else if 32 < skew then
    if buState s p = buUp then s else endAttemptWith (stopTimer (dropLock s p) (.verify p)) p 3 (buRate s p)
  else
    let s := setF s (F.RNG_PORT_BRINGUP_SKEW p) skew
    if verifying s p && !(portSt s p).ended then ensureTimer s (.verify p) ticksMs else s

/-! ### Commands -/

/-- EN of a port set or cleared (R97, R102). -/
def setPortEn (s : State) (p : Nat) (on : Bool) : State :=
  let s := setFlag s (F.RNG_PORT_CFG_EN p) on
  if on then startPort s p else if buState s p = buDown then s else enterDown s p

/-- EN of a port is written in RNG_PORTn_CFG. -/
def notePortCfg (s : State) (p : Nat) : State :=
  noteReg s unitRNG (0x40 * p) (regWord s (F.RNG_PORT_CFG_EN p).key).toNat

/-- RING_PORT_ENABLE (R97). -/
def execRingPortEnable (p : Nat) (s : State) : Result :=
  .next (if live s unitRNG ∧ hasPort s p then notePortCfg (setPortEn s p true) p else s)

/-- RING_PORT_DISABLE (R102). -/
def execRingPortDisable (p : Nat) (s : State) : Result :=
  .next (if live s unitRNG ∧ hasPort s p then notePortCfg (setPortEn s p false) p else s)

/-- A write of 1 to RETRAIN (R102): in Down it waits for the next entry to Cap, which clears it. -/
def retrainPort (s : State) (p : Nat) : State :=
  if buState s p = buDown then setFlag s (F.RNG_PORT_CTL_RETRAIN p) true else enterCap s p

/-- RETRAIN (R102). -/
def execRetrain (p : Nat) (s : State) : Result :=
  .next (if live s unitRNG ∧ hasPort s p then noteReg (retrainPort s p) unitRNG (0x40 * p + 4) 1 else s)

/-- Line bits of a lane without their inserted bits: stuffing violations are counted, and are errors of R99 (R89). RX_POL
inverts what the pins show (R107). -/
def receiveBits (s : State) (p lane : Nat) (line : List Bool) : List Bool × State :=
  let l := laneRx s p lane
  let inv := bitF s (F.RNG_PORT_CFG_RX_POL p) lane
  let (bits, bad, run) := destuff l.run (line.map (fun b => b != inv))
  let s := setLaneRx (addF s (F.RNG_PORT_STUFF_ERR_COUNT p) bad) p lane { l with run := run }
  (bits, if bad = 0 then s else verifyError s p)

/-- Whether a word is a marker with a valid CRC-8; one with a reserved LANE is none (R92; log entry 189). -/
def isMarker (w : Nat) : Bool := bitsAt w 36 28 = 0x5A1C93E && crc8Ok w && decide (bitsAt w 32 4 ≤ 1)

/-- MARKER_RECEIVE (R93): the last 64 bits received are a marker, or stand where one was expected. -/
def execMarkerReceive (p lane : Nat) (line : List Bool) (atSlot : Bool) (skew : Nat) (s : State) : Result :=
  .next (
    if live s unitRNG ∧ hasPort s p ∧ lane < 2 ∧ buState s p ≠ buDown then
      let (bits, s) := receiveBits s p lane line
      let w := (lastWord bits).toNat
      if 64 ≤ bits.length ∧ isMarker w = true ∧ (atSlot = true ∨ (laneRx s p lane).good < 3) then
        goodMarker (setLos s p false) p lane w atSlot skew
      else badMarker s p lane
    else s)

/-- A peer's capability word in Cap (R97, R98, R101). In Recovery the hub goes on only towards a peer that offers rate 0
(R419); a port that is to be encrypted waits for a cipher engine that is fenced or in reset (R303). -/
def capInCap (s : State) (p w : Nat) : State :=
  if bitAt w 38 ≠ decide (p = 2) then endAttemptWith (setPortSt s p { portSt s p with ownState := 0 }) p 6 0
  else if bitsAt w 44 4 = 0 ∧ (p = 2 ∨ flag s (F.RNG_PORT_CFG_FR_ALLOW p) = false) then endAttemptWith s p 7 0
  else if (portSt s p).ended then s
  else if bitsAt w 44 4 = 0 then
    if 1 ≤ tableRate s p then enterFrTrain s p
    else endAttemptWith s p 9 1
  else
    let own := (portSt s p).ownState
    let next := if 1 ≤ bitsAt w 24 4 ∧ (s.dev.state ≠ .recovery ∨ bitsAt w 42 2 = 0) then 2 else 1
    let s := if own < next then startTimer (showState s p next) (.cap p) (100 * ticksMs) else s
    if (portSt s p).ownState = 2 ∧ 2 ≤ bitsAt w 24 4 ∧ !(wantsEnc s p && bitAt w 41 && !live s unitCIP) then
      let s := setPortSt s p { portSt s p with encAgreed := offersEnc s p && bitAt w 41 }
      stepOn (noteNoTable s p) p
    else s

/-- A peer's capability word in Step: both sides at STATE 3 go on (R97). -/
def capInStep (s : State) (p w : Nat) : State :=
  if (portSt s p).verified ∧ 3 ≤ bitsAt w 24 4 ∧ (portSt s p).falling = false then stepOn s p else s

/-- What a capability word tells of the peer (R107). -/
def notePeer (s : State) (p w : Nat) : State :=
  let s := setF (setF s (F.RNG_PORT_STAT_PEER_NODE p) (bitsAt w 28 8)) (F.RNG_PORT_STAT_PEER_VERSION p) (bitsAt w 44 4)
  let s := setFlag s (F.RNG_PORT_STAT_PEER_SIDE p) (bitAt w 39)
  setPortSt s p { portSt s p with peerCap := some (BitVec.ofNat 64 w) }

/-- CAPABILITY_WORD_RECEIVE (R97): a word is received once the lanes hold word lock; a bad CRC-8 is an error of R99. -/
def execCapabilityWordReceive (p : Nat) (w : BitVec 64) (s : State) : Result :=
  .next (
    if live s unitRNG ∧ hasPort s p ∧ wordLock s p ∧ bitsAt w.toNat 48 16 = 0xCA9B
        ∧ (buState s p = buCap ∨ buState s p = buStep) then
      if crc8Ok w.toNat then
        let s := notePeer s p w.toNat
        if buState s p = buCap then capInCap s p w.toNat else capInStep s p w.toNat
      else verifyError s p
    else s)

/-- The reason of an attempt that times out, unless it has ended with one of its own: with word lock the peer has not answered;
without, markers have been seen or not (R107; log entry 192). -/
def failWith (s : State) (p reason rate : Nat) : State := if (portSt s p).ended then s else buReason s p reason rate

/-- CAP_TIMEOUT (R97): 100 ms in Cap without progress. -/
def execCapTimeout (p : Nat) (s : State) : Result :=
  .next (
    if hasPort s p ∧ buState s p = buCap ∧ due s (.cap p) then
      let reason := if wordLock s p then 5
        else if (portSt s p).lane0.lastCount.isSome || (portSt s p).lane1.lastCount.isSome then 2 else 1
      enterCap (failWith s p reason 0) p
    else s)

/-- STEP_VERIFY_DONE (R97): STATE 3 is sent; after a fallback the port goes Up at the old rate (R100). -/
def execStepVerifyDone (p : Nat) (s : State) : Result :=
  .next (
    if hasPort s p ∧ buState s p = buStep ∧ due s (.verify p) then
      let s := showState (setPortSt (stopTimer s (.verify p)) p { portSt s p with verified := true }) p 3
      if (portSt s p).falling then goUp s p
      else if 3 ≤ peerCapState s p then stepOn s p
      else s
    else s)

/-- The fallback of R100: the previous rate, to be verified again, for as long as that takes (log entry 188). -/
def fallBack (s : State) (p : Nat) : State :=
  let failed := buRate s p
  let q := portSt s p
  let reason := if q.verified then 5 else if wordLock s p then 4 else 2
  let s := failWith (incF s (F.RNG_PORT_FALLBACK_COUNT p)) p reason failed
  let s := setF (stopBringup s p) (F.RNG_PORT_STAT_RATE p) q.prevRate
  let s := loadPortEq (restartTx (dropLock s p) p) p q.prevRate
  showState (setPortSt s p { portSt s p with verified := false, falling := true, ended := false }) p 2

/-- STEP_FALLBACK (R100). -/
def execStepFallback (p : Nat) (s : State) : Result :=
  .next (if hasPort s p ∧ buState s p = buStep ∧ due s (.stepLimit p) then fallBack s p else s)

/-- FR_COEFF_REQUEST (R105): one lane's tap moves by one step, or the table values return. -/
def execFrCoeffRequest (p lane : Nat) (tap : FrTap) (req : FrReq) (s : State) : Result :=
  .next (
    if live s unitRNG ∧ p < 2 ∧ lane < 2 ∧ buState s p = buFrTrain then
      let (s, status) := coeffRequest s (2 * p + lane) tap req
      output s (.frAnswer p lane status)
    else s)

/-- FR_TRAIN_COMPLETE (R97): 1 ms has passed without errors. -/
def execFrTrainComplete (p : Nat) (s : State) : Result :=
  .next (if live s unitRNG ∧ p < 2 ∧ buState s p = buFrTrain ∧ due s (.verify p) then goUp s p else s)

/-- FR_TRAIN_TIMEOUT (R97). -/
def execFrTrainTimeout (p : Nat) (s : State) : Result :=
  .next (
    if p < 2 ∧ buState s p = buFrTrain ∧ due s (.frTrain p) then enterCap (failWith s p 8 1) p else s)

/-- LOSS_OF_LOCK (R95); every cause has the same effect. -/
def execLossOfLock (p : Nat) (cause : LockCause) (s : State) : Result :=
  .next (
    if live s unitRNG ∧ hasPort s p then
      let s := if cause = .los then setLos s p true else s
      if buState s p ≠ buDown ∧ buState s p ≠ buRelock ∧ (cause ≠ .los ∨ (p < 2 ∧ buState s p = buUp)) then loseLock s p
      else s
    else s)

/-- RELOCK_TIMEOUT (R97). -/
def execRelockTimeout (p : Nat) (s : State) : Result :=
  .next (
    if hasPort s p ∧ buState s p = buRelock ∧ due s (.relock p) then
      enterCap (failWith s p 1 (buRate s p)) p
    else s)

/-- RELOCK_DONE (R97). -/
def execRelockDone (p : Nat) (s : State) : Result :=
  .next (
    if live s unitRNG ∧ hasPort s p ∧ buState s p = buRelock ∧ !due s (.relock p) then goUp s p else s)

/-- BAD_SOF (R96): counted; stream words are discarded up to the next marker, and from it to the word that it names. -/
def execBadSof (p word : Nat) (s : State) : Result :=
  .next (
    if live s unitRNG ∧ hasPort s p ∧ (buState s p = buUp ∨ buState s p = buStep ∨ buState s p = buFrTrain)
        ∧ !wordAllowed (word % 2 ^ 64) then
      let s := verifyError (incF s (F.RNG_PORT_SOF_ERR_COUNT p)) p
      setPortSt s p { portSt s p with discarding := true, resumeAt := none }
    else s)

end Sys2Proof.Machine
end

