-- ==== Sys2Proof/Machine/TxnCore.lean ====
section
/-! DEFINITION. The transaction engine apart from execution at the target: tags, issue, completions, responses,
posted faults, sequence numbers (R29 to R32, R45 to R60, R63 to R65, R441). -/

namespace Sys2Proof.Machine

/-! ### Opcodes and initiators (R41, R46) -/

def opCode : TxnOp → Nat
  | .rd => 0 | .wrPosted => 1 | .wrAck => 2 | .rmwSet => 3 | .rmwClr => 4 | .rmwSwap => 5 | .fence => 6
  | .reserved n => 7 + n % 9

def opOf : Nat → TxnOp
  | 0 => .rd | 1 => .wrPosted | 2 => .wrAck | 3 => .rmwSet | 4 => .rmwClr | 5 => .rmwSwap | 6 => .fence
  | n => .reserved (n - 7)

def isRmw : TxnOp → Bool
  | .rmwSet => true | .rmwClr => true | .rmwSwap => true | _ => false

/-- Initiator IDs (R46). -/
def initiatorOf : Origin → Nat
  | .mgt => 1 | .svc => 2 | .jct => 3 | .pol => 4 | .ring _ _ i => i

def originOf : Nat → Origin
  | 1 => .mgt | 2 => .svc | 3 => .jct | _ => .pol

def isReserved : TxnOp → Bool
  | .reserved _ => true | _ => false

/-- Bytes of data that a response to a request carries (R41, R441). -/
def responseLen (op : TxnOp) (count : Nat) (wide : Bool) : Nat :=
  if op = .rd then count else if isRmw op then (if wide then 8 else 4) else 0

/-- The data of a completion: zeros unless the code is OK (R441). -/
def responseData (op : TxnOp) (count : Nat) (wide : Bool) (code : Nat) (data : List Byte) : List Byte :=
  if code = codeOK then padTo (responseLen op count wide) data else List.replicate (responseLen op count wide) 0

def nodeOfAddr (a : BitVec 48) : Nat := bitsAt a.toNat 40 8
def unitOfAddr (a : BitVec 48) : Nat := bitsAt a.toNat 32 8
def offOfAddr (a : BitVec 48) : Nat := bitsAt a.toNat 0 32

/-- The value of object `index`.`sub` as the dictionary holds it. -/
def objBytes (s : State) (index sub : Nat) : List Byte := (lookupKey (index, sub) s.odw.objs).getD []

/-- Object 0x1024, *open ring permission* (R52). -/
def openRing (s : State) : Bool := ofLe (objBytes s 0x1024 0) = 1

/-! ### Tags (R47 to R49) -/

/-- The cap of an initiator; 0 stands for 256 (R48, R67). -/
def tagLimit (s : State) (who : Origin) : Nat :=
  let n := match who with
    | .mgt => getF s F.SYS_TXN_LIMIT_LIM_MGT
    | .svc => getF s F.SYS_TXN_LIMIT_LIM_SVC
    | .jct => getF s F.SYS_TXN_LIMIT_LIM_JCT
    | .pol => getF s F.SYS_TXN_LIMIT_LIM_POL
    | .ring _ _ _ => 0
  if n = 0 then 256 else n

/-- The tags of posted writes whose frames have not left the hub (R47). -/
def heldPosted (s : State) : List PostedTag :=
  s.txn.posted.filter (fun p => s.plaza.frames.any (fun f => decide (p.first ≤ f.fid) && decide (f.fid < p.next)))

/-- The tags that are neither held nor held out. -/
def freeTags (s : State) : List Nat :=
  (upTo 256).filter (fun t => !s.txn.tags.any (fun e => e.tag = t) && !(heldPosted s).any (fun p => p.tag = t)
    && !s.txn.holdout.contains t)

/-- The tags that an initiator holds. -/
def tagsOf (s : State) (who : Origin) : Nat :=
  (s.txn.tags.filter (fun e => e.who = who)).length + ((heldPosted s).filter (fun p => p.who = who)).length

/-- The tag a request of an initiator takes, if it may take one. Which free tag is not stated (log entry 4). -/
def pickTag (s : State) (who : Origin) : Option Nat :=
  let free := freeTags s
  if free = [] ∨ tagLimit s who ≤ tagsOf s who then none
  else free[Config.freeTag s.fresh % free.length]?

/-- TIMEOUT_US in ticks; values below 100 act as 100, above 100,000 as 100,000 (R67). -/
def txnTimeoutTicks (s : State) : Nat := max 100 (min 100000 (getF s F.SYS_TXN_CFG_TIMEOUT_US)) * ticksUs

/-! ### Completion at the initiator -/

/-- Two requesters as R385 tells them apart: a ring station by node, side and, for node 0, its unit ID; a UDP client by
address and port. -/
def requester : SunSrc → SunSrc
  | .ring n d uid _ _ _ _ _ => .ring n d (if n = 0 then uid else 0) false false false false 0
  | .udp _ ip port => .udp 0 ip port
  | src => src

/-- A Sundem response as bytes (R381). -/
def responseBytes (r : SunRsp) : List Byte :=
  [BitVec.ofNat 8 (0x18 + 4 * bit01 r.more), BitVec.ofNat 8 r.opcode] ++ beBytes 2 r.tid.toNat ++ beBytes 2 r.index
    ++ [BitVec.ofNat 8 r.sub, BitVec.ofNat 8 (16 * r.code)] ++ beBytes 4 r.offset ++ beBytes 2 r.data.length ++ [0, 0]
    ++ r.data

/-- A frame of the service port (R388): its length, the message, and the CRC-16 of R92 over both. -/
def serviceFrame (message : List Byte) : List Byte :=
  let body := beBytes 2 message.length ++ message
  body ++ beBytes 2 (crc16 body)

/-- A UDP datagram with its checksum over the pseudo-header (R388); the IPv4 header before it has fields that the spec does
not set (log entry 207). -/
def udpDatagram (src dst : BitVec 32) (srcPort dstPort : Nat) (message : List Byte) : List Byte :=
  let len := 8 + message.length
  let ports := beBytes 2 srcPort ++ beBytes 2 dstPort ++ beBytes 2 len
  let sum := 0xFFFF - foldSum (onesSum (beBytes 4 src.toNat ++ beBytes 4 dst.toNat) + 17 + len + onesSum (ports ++ [0, 0] ++ message))
  ports ++ beBytes 2 (if sum = 0 then 0xFFFF else sum) ++ message

/-- A response handed to its transport and kept, the last 16 for 1 s (R385). -/
def keepResponse (s : State) (r : SunRsp) : State :=
  s.withOdw { s.odw with kept := (s.odw.kept ++ [(r, s.mono + 1000 * ticksMs)]).drop (s.odw.kept.length - 15) }

/-- A Sundem ADDR request that the service-port bridge has performed is answered with the transaction's code (R382). -/
def answerAddr (s : State) (e : TagEntry) (code : Nat) (data : List Byte) : State :=
  let mine (r : SunReq) : Bool := r.addr = e.addr && (e.op = .rd && r.len = e.count || e.op = .wrAck && r.data.length = e.count)
  match s.odw.addr.find? mine with
  | some r =>
    if e.who = .svc then
      let rsp : SunRsp := ⟨r.src, if e.op = .rd then 0x10 else 0x11, r.tid, r.index, r.sub, code, false, 0, data⟩
      keepResponse (output (s.withOdw { s.odw with addr := s.odw.addr.erase r })
        (.sundem rsp (serviceFrame (responseBytes rsp)))) rsp
    else s
  | none => s

/-- A tag completes with a code and data: the initiator gets them; a poll sample goes to the poller (R47, R215). -/
def completeTag (s : State) (tag code : Nat) (data : List Byte) : State :=
  match s.txn.tags.find? (fun e => e.tag = tag) with
  | none => incF s F.SYS_TXN_LATE_COUNT
  | some e =>
    let s := stopTimer (s.withTxn { s.txn with tags := s.txn.tags.filter (fun x => x.tag ≠ tag) }) (.txn tag)
    let data := responseData e.op e.count e.wide code data
    match e.pollEntry with
    | some k => s.withTxn { s.txn with polled := s.txn.polled ++ [⟨k, code, ofLe data, tb2Us s⟩] }
    | none => answerAddr (output s (.done e.who tag code data)) e code data

/-- An entry of the posted-fault log, counted and copied (R57). -/
def logPostFault (s : State) (tag initiator : Nat) (addr : BitVec 48) (op code : Nat) (x ts : Bool) : State :=
  let i := getF s F.SYS_PFL_STAT_WR_IDX
  let entry := leBytes 4 (getF s F.SYS_PFL_TOTAL_TOTAL % 65536 + tag % 256 * 2 ^ 16 + initiator % 256 * 2 ^ 24)
    ++ leBytes 6 addr.toNat ++ leBytes 2 (code % 16 + op % 16 * 16 + bit01 x * 256 + bit01 ts * 512)
    ++ leBytes 4 (tb2Us s)
  let s := memWrite s (keyOf unitSYS (0x00010000 + 16 * i)) entry
  let s := incF (setF s F.SYS_PFL_STAT_WR_IDX (i + 1)) F.SYS_PFL_TOTAL_TOTAL
  let s := if 1 ≤ initiator ∧ initiator ≤ 4 then incF s (F.SYS_PFL_CNT_COUNT (initiator - 1)) else s
  if flag s F.SYS_PFL_CFG_MQ_EN then produceCounted s (getF s F.SYS_PFL_CFG_MQ) 0x05 (getF s F.SYS_PFL_CFG_PRIO) entry
  else s

/-! ### Responses and posted faults to the ring (R45, R55, R56) -/

/-- The next response number towards a hub (R55). -/
def nextRsp (s : State) (node : Nat) (side : Bool) : BitVec 16 × State :=
  let n := (lookupKey (node, side) s.txn.seqRsp).getD 0
  (n, s.withTxn { s.txn with seqRsp := replaceKey (node, side) (n + 1) s.txn.seqRsp })

/-- The port by which POST_FAULTs and the FENCE response after them go to a hub: the one they have taken since its last
fence, or that of R119 (R58). -/
def faultPort (s : State) (node : Nat) (side : Bool) : Nat :=
  (lookupKey (node, side) s.txn.faultDir).getD (directionTo s node)

/-- A TXN_RSP to a requesting hub; that to a FENCE goes behind the POST_FAULTs before it (R58). -/
def sendResponse (s : State) (r : Request) (code : Nat) (data : List Byte) : State :=
  let port := if r.op = .fence then faultPort s r.node r.side else directionTo s r.node
  let s := if r.op = .fence then s.withTxn { s.txn with faultDir := removeKey (r.node, r.side) s.txn.faultDir } else s
  let (n, s) := nextRsp s r.node r.side
  let ts := code * 2 ^ 44 + bit01 r.side * 2 ^ 43 + bit01 r.x * 2 ^ 42 + bit01 r.ts * 2 ^ 41 + bit01 r.wide * 2 ^ 40
    + (r.count - 1) % 256 * 2 ^ 32 + n.toNat * 2 ^ 16
  let f := { blankFrame tyTXN_RSP 5 (BitVec.ofNat 8 r.node) (BitVec.ofNat 8 (unitOfAddr r.addr)) with
    typeSpecific := BitVec.ofNat 48 ts
    tsOrTxn := BitVec.ofNat 64 (r.tag * 2 ^ 56 + r.initiator * 2 ^ 48 + r.addr.toNat)
    payload := responseData r.op r.count r.wide code data }
  addFrameBy s port .response f 98 0

/-- A POST_FAULT to the hub that posted a write. -/
def sendPostFault (s : State) (r : Request) (code : Nat) : State :=
  let port := faultPort s r.node r.side
  let (n, s) := nextRsp (s.withTxn { s.txn with faultDir := replaceKey (r.node, r.side) port s.txn.faultDir }) r.node r.side
  let op := opCode r.op
  let ts := code * 2 ^ 44 + bit01 r.side * 2 ^ 43 + bit01 r.x * 2 ^ 42 + bit01 r.ts * 2 ^ 41 + op % 2 * 2 ^ 40
    + op / 2 % 8 * 2 ^ 37 + n.toNat * 2 ^ 16
  let f := { blankFrame tyPOST_FAULT 5 (BitVec.ofNat 8 r.node) (BitVec.ofNat 8 (unitOfAddr r.addr)) with
    typeSpecific := BitVec.ofNat 48 ts
    tsOrTxn := BitVec.ofNat 64 (r.tag * 2 ^ 56 + r.initiator * 2 ^ 48 + r.addr.toNat) }
  addFrameBy s port .response f 98 0

/-- The completion of a local request reaches its initiator while that very request holds its tag; a later one is
discarded and counted (R50). -/
def completeLocal (s : State) (r : Request) (code : Nat) (data : List Byte) : State :=
  if s.txn.tags.any (fun e => e.tag = r.tag && e.serial = r.serial) then completeTag s r.tag code data
  else incF s F.SYS_TXN_LATE_COUNT

/-- Whose sequence a request counts in: its source and side, and whether it came to node 255 (R54). -/
def seqKey (r : Request) : Nat × Bool × Bool := (r.node, r.side, r.bcast)

/-- Whether a number lies ahead of another within the window of R54. -/
def seqAhead (n m : BitVec 16) : Bool := decide (1 ≤ (n - m).toNat ∧ (n - m).toNat < 32768)

/-- The last number executed of each source, kept for the twin (R32). -/
def noteExecuted (s : State) (r : Request) : State :=
  let newer := match lookupKey (seqKey r) s.txn.executed with
    | some m => seqAhead r.seq m
    | none => true
  if r.local_ || !newer then s
  else
    let s := s.withTxn { s.txn with executed := replaceKey (seqKey r) r.seq s.txn.executed }
    if s.twin.role = .active then s.withTwin { s.twin with executedNew := s.twin.executedNew ++ [seqKey r] } else s

/-- A request ends with a code: at its initiator, or by TXN_RSP or POST_FAULT (R41, R56). A posted write that succeeds
ends silently. -/
def completeRequest (s : State) (r : Request) (code : Nat) (data : List Byte) : State :=
  let s := noteExecuted s r
  if r.local_ then
    if r.op = .wrPosted then
      (if code = codeOK then s else logPostFault s r.tag r.initiator r.addr (opCode r.op) code r.x r.ts)
    else completeLocal s r code data
  else if r.op = .wrPosted then (if code = codeOK then s else sendPostFault s r code)
  else sendResponse s r code data

/-! ### Sequence numbers (R54, R55) -/

def seqRxOf (s : State) (node : Nat) (side : Bool) : SeqRx :=
  (s.txn.seqRx.find? (fun e => e.node = node && e.side = side)).getD ⟨node, side, none, none, false, none, false⟩

def setSeqRx (s : State) (e : SeqRx) : State :=
  s.withTxn { s.txn with seqRx := e :: s.txn.seqRx.filter (fun x => !(x.node = e.node && x.side = e.side)) }

/-- How a number compares with the one expected: as expected, ahead, behind, or the first. -/
inductive SeqVerdict where
  | expected | ahead | behind | first
deriving DecidableEq, Repr

def compareSeq (exp : Option (BitVec 16)) (n : BitVec 16) : SeqVerdict :=
  match exp with
  | none => .first
  | some e => if n = e then .expected else if (n - e).toNat < 32768 then .ahead else .behind

/-- What a request number does at the target: its verdict, the expected number, the loss flag, the count (R54, R67). -/
def trackRequest (s : State) (node : Nat) (side bcast : Bool) (n : BitVec 16) : SeqVerdict × State :=
  let e := seqRxOf s node side
  let v := compareSeq (if bcast then e.bcast else e.own) n
  let exp := if v = .behind then (if bcast then e.bcast else e.own) else some (n + 1)
  let e := { e with
    own := if bcast then e.own else exp
    bcast := if bcast then exp else e.bcast
    loss := e.loss || v != .expected }
  let s := setSeqRx s e
  (v, if v = .ahead || v = .behind then incF s F.SYS_TXN_LOSS_COUNT else s)

/-- What a response number does at the requester (R55). -/
def trackResponse (s : State) (node : Nat) (side : Bool) (n : BitVec 16) : State :=
  let e := seqRxOf s node side
  let v := compareSeq e.rsp n
  let lost := v = .ahead || v = .behind
  let s := setSeqRx s { e with
    rsp := if v = .behind then e.rsp else some (n + 1), rspLoss := e.rspLoss || lost }
  if lost then incF s F.SYS_TXN_LOSS_COUNT else s

/-! ### Issue (R29 to R31, R47, R48) -/

/-- Whether a request stays in this hub (R29, R30). -/
def targetsSelf (s : State) (t : TxnSpec) : Bool :=
  nodeOfAddr t.addr = 0 ||
    (nodeOfAddr t.addr = s.dev.nodeId && (if t.x then t.ts = s.dev.side else acting s))

/-- The request as the local engine holds it; its serial is the count of free values drawn at its issue. -/
def localRequest (s : State) (who : Origin) (tag : Nat) (t : TxnSpec) : Request where
  local_ := true
  who := who
  node := s.dev.nodeId
  side := s.dev.side
  tag := tag
  initiator := initiatorOf who
  op := t.op
  addr := t.addr
  x := t.x
  ts := t.ts
  wide := t.wide
  prefetch := t.prefetch
  count := t.count
  data := t.data
  port := 0
  clr := false
  inside := false
  waiting := false
  serial := s.fresh
  seq := 0
  bcast := false

/-- The TXN_REQ frame of a request (R45), numbered by destination (R54). -/
def sendRequest (s : State) (who : Origin) (tag : Nat) (t : TxnSpec) : State :=
  let node := nodeOfAddr t.addr
  let n := (assoc node s.txn.seqReq).getD 0
  let s := s.withTxn { s.txn with seqReq := put node (n + 1) s.txn.seqReq }
  let ts := opCode t.op * 2 ^ 44 + bit01 t.prefetch * 2 ^ 43 + bit01 t.x * 2 ^ 42 + bit01 t.ts * 2 ^ 41 + bit01 t.wide * 2 ^ 40
    + (t.count - 1) % 256 * 2 ^ 32 + n.toNat * 2 ^ 16
  let f := { blankFrame tyTXN_REQ 5 (BitVec.ofNat 8 node) (BitVec.ofNat 8 (unitOfAddr t.addr)) with
    typeSpecific := BitVec.ofNat 48 ts
    tsOrTxn := BitVec.ofNat 64 (tag * 2 ^ 56 + initiatorOf who * 2 ^ 48 + t.addr.toNat)
    payload := t.data }
  addFrame s .added f 98 0

/-- A request under way with its tag: completed at once by R29 or R30, put into the own engine's buffer, or sent. A
local request takes none of the 128 entries of R63 (log entry 141); a reserved opcode completes at its target with ADDR_ERROR (R41). -/
def launch (s : State) (who : Origin) (tag : Nat) (t : TxnSpec) : State :=
  let node := nodeOfAddr t.addr
  let r := localRequest s who tag t
  if (node = 255 ∧ t.op ≠ .wrPosted) ∨ (node = 0 ∧ t.x = true ∧ t.ts ≠ s.dev.side) then
    completeRequest s r codeADDR_ERROR []
  else if targetsSelf s t then
    if isReserved t.op then completeRequest s r codeADDR_ERROR []
    else s.withTxn { s.txn with reqs := s.txn.reqs ++ [r] }
  else sendRequest s who tag t

/-- A posted write under way: its tag number is taken until its frame has left the hub (R47). One to this hub itself has
no frame (log entry 174). -/
def launchPosted (s : State) (who : Origin) (tag : Nat) (t : TxnSpec) : State :=
  let first := s.plaza.nextFid
  let s := launch s who tag t
  if s.plaza.nextFid = first then s
  else s.withTxn { s.txn with posted := heldPosted s ++ [⟨tag, who, first, s.plaza.nextFid⟩] }

/-- A request issued if a tag is free (R47): none otherwise. -/
def tryIssue (s : State) (who : Origin) (t : TxnSpec) (poll : Option Nat) : Option State :=
  match pickTag s who with
  | none => none
  | some tag =>
    let t := { t with prefetch := t.prefetch && (who = .mgt || who = .svc) && t.op = .rd }
    let s := s.withFresh (s.fresh + 1)
    if t.op = .wrPosted then some (launchPosted s who tag t)
    else
      let e : TagEntry := ⟨tag, who, t.op, t.addr, t.count, t.wide, poll, s.fresh⟩
      let s := startTimer (s.withTxn { s.txn with tags := s.txn.tags ++ [e] }) (.txn tag) (txnTimeoutTicks s)
      some (launch s who tag t)

/-- The first waiting request whose initiator may take a tag is issued (R48). -/
def grantTag (s : State) : List (Origin × TxnSpec) → List (Origin × TxnSpec) → State
  | _, [] => s
  | before, (who, t) :: rest =>
    match tryIssue (s.withTxn { s.txn with waiting := before ++ rest }) who t none with
    | some s => s
    | none => grantTag s (before ++ [(who, t)]) rest

/-- Every waiting request that may take a tag is issued, first come, first served. -/
def grantWaiting (s : State) : State := (upTo s.txn.waiting.length).foldl (fun t _ => grantTag t [] t.txn.waiting) s

/-- Issue, or wait for a tag (management complex, service port) or skip the access (R48). What waits already comes first;
no register counts what the Junction or the poller skips here (log entry 175). -/
def issueOrWait (s : State) (who : Origin) (t : TxnSpec) : State :=
  let s := grantWaiting s
  match if s.txn.waiting.any (fun w => w.1 = who) then none else tryIssue s who t none with
  | some s => s
  | none =>
    if who = .mgt ∨ who = .svc then s.withTxn { s.txn with waiting := s.txn.waiting ++ [(who, t)] } else s

/-- Whether the transaction engine runs. -/
def txnRuns (s : State) : Bool := live s unitSYS

/-- TXN_ISSUE (R47): a local initiator issues a request of 1 to 256 bytes. -/
def execTxnIssue (who : Origin) (t : TxnSpec) (s : State) : Result :=
  .next (
    if txnRuns s ∧ (who = .mgt ∨ who = .svc ∨ who = .jct ∨ who = .pol) ∧ 1 ≤ t.count ∧ t.count ≤ 256 ∧ t.data.length ≤ 256 then
      issueOrWait s who t
    else s)

/-- TAG_GRANT (R48). -/
def execTagGrant (s : State) : Result := .next (if txnRuns s then grantTag s [] s.txn.waiting else s)

/-- TXN_TIMEOUT (R49): the tag is held out for one more timeout period. -/
def execTxnTimeout (tag : Nat) (s : State) : Result :=
  .next (
    if due s (.txn tag) ∧ s.txn.tags.any (fun e => e.tag = tag) then
      let s := completeTag s tag codeTIMEOUT []
      startTimer (s.withTxn { s.txn with holdout := s.txn.holdout ++ [tag] }) (.holdout tag) (txnTimeoutTicks s)
    else s)

/-- TAG_HOLDOUT_END (R49). -/
def execTagHoldoutEnd (tag : Nat) (s : State) : Result :=
  .next (
    if due s (.holdout tag) then
      stopTimer (s.withTxn { s.txn with holdout := s.txn.holdout.filter (fun x => x ≠ tag) }) (.holdout tag)
    else s)

/-! ### Requests from the ring (R30, R32, R52, R54, R63, R64) -/

/-- A TXN_REQ frame as a request. -/
def requestOf (l : LocalFrame) : Request where
  local_ := false
  who := .ring l.frame.srcNode.toNat l.frame.side (bitsAt l.frame.tsOrTxn.toNat 48 8)
  node := l.frame.srcNode.toNat
  side := l.frame.side
  tag := bitsAt l.frame.tsOrTxn.toNat 56 8
  initiator := bitsAt l.frame.tsOrTxn.toNat 48 8
  op := opOf (tsBits l.frame 44 4)
  addr := BitVec.ofNat 48 l.frame.tsOrTxn.toNat
  x := bitAt l.frame.typeSpecific.toNat 42
  ts := bitAt l.frame.typeSpecific.toNat 41
  wide := bitAt l.frame.typeSpecific.toNat 40
  prefetch := bitAt l.frame.typeSpecific.toNat 43
  count := tsBits l.frame 32 8 + 1
  data := l.frame.payload
  port := l.port
  clr := l.frame.clr
  inside := false
  waiting := false
  serial := 0
  seq := BitVec.ofNat 16 (tsBits l.frame 16 16)
  bcast := l.frame.destNode = 255

/-- Whether this hub executes a request for its node (R30). -/
def executes (s : State) (r : Request) : Bool := if r.x then r.ts = s.dev.side else acting s

/-- The refusal reserve entries in use: refusals that have not left the hub (R63, R64). -/
def refusalsUsed (s : State) : Nat := (s.txn.refusals.filter (fun n => (frameOf s n).isSome)).length

/-- The request buffer entries in use: the requests that came by the ring (R63; log entry 141). -/
def requestsHeld (s : State) : Nat := (s.txn.reqs.filter (fun r => !r.local_)).length

/-- Whether the engine can take or refuse one more request (R64). -/
def requestRoom (s : State) : Bool := decide (requestsHeld s < 128) || decide (refusalsUsed s < 32)

/-- A request refused from the reserve (R64). -/
def refuseRequest (s : State) (r : Request) : State :=
  let fid := s.plaza.nextFid
  let used := s.txn.refusals.filter (fun n => (frameOf s n).isSome)
  let s := completeRequest (incF s F.SYS_TXN_REFUSED_COUNT) r codeREFUSED_BUSY []
  s.withTxn { s.txn with refusals := if s.plaza.nextFid = fid then used else used ++ [fid] }

/-- The request sequence number of a TXN_REQ frame (R45). -/
def requestSeq (l : LocalFrame) : BitVec 16 := (requestOf l).seq

/-- A request that this hub executes: it enters the buffer unless it is refused (R41, R52, R64). -/
def serveRequest (s : State) (l : LocalFrame) : State :=
  let r := requestOf l
  if r.clr && !openRing s then completeRequest s r codeACCESS_DENIED []
  else if isReserved r.op || l.frame.destUnit.toNat ≠ unitOfAddr r.addr then completeRequest s r codeADDR_ERROR []
  else if requestsHeld s < 128 then s.withTxn { s.txn with reqs := s.txn.reqs ++ [r] }
  else refuseRequest s r

/-- A request from the ring taken by the engine. One whose number lies behind is executed by neither hub of a pair, so a
hub in shadow does not record it (R32, R54, R325; log entries 162 and 169). -/
def takeRequest (s : State) (l : LocalFrame) : State :=
  let r := requestOf l
  let (v, s) := trackRequest s r.node r.side (l.frame.destNode = 255) (requestSeq l)
  if !executes s r then
    (if inShadow s = true ∧ r.x = false ∧ v ≠ .behind then
      s.withTxn { s.txn with recorded := s.txn.recorded ++ [l] } else s)
  else if v = .behind then completeRequest s r codeLOSS_OBSERVED []
  else serveRequest s l

/-- The oldest TXN_REQ of the receive buffer taken, if there is room for it or for its refusal. -/
def admitRequest (s : State) : State :=
  match s.ring.heldReq with
  | [] => s
  | l :: rest => if requestRoom s then takeRequest (refillRequests (s.withRing { s.ring with heldReq := rest })) l else s

/-- TXN_REQ_RECEIVE (R54). -/
def execTxnReqReceive (s : State) : Result := .next (if txnRuns s then admitRequest s else s)

/-- HELD_REQUEST_ADMIT (R64). -/
def execHeldRequestAdmit (s : State) : Result := .next (if txnRuns s then admitRequest s else s)

/-! ### Responses and posted faults received (R50, R55, R57, R59) -/

/-- The first frame of a type that waits for a local unit, and the state without it. -/
def takeHeld (s : State) (ty : BitVec 4) : Option (LocalFrame × State) :=
  match s.ring.held.find? (fun l => l.frame.type = ty) with
  | some l => some (l, s.withRing { s.ring with held := s.ring.held.erase l })
  | none => none

/-- Whether a TXN_RSP or POST_FAULT is for this hub's side (R55). -/
def forThisSide (s : State) (f : RingFrame) : Bool := bitAt f.typeSpecific.toNat 43 = s.dev.side

/-- A response matched to its outstanding tag, or counted as late (R50, R59). -/
def matchResponse (s : State) (f : RingFrame) : State :=
  let tag := bitsAt f.tsOrTxn.toNat 56 8
  let code := tsBits f 44 4
  match s.txn.tags.find? (fun e => e.tag = tag && initiatorOf e.who = bitsAt f.tsOrTxn.toNat 48 8
      && e.addr.toNat = bitsAt f.tsOrTxn.toNat 0 48) with
  | none => incF s F.SYS_TXN_LATE_COUNT
  | some e =>
    if e.op = .fence then
      let q := seqRxOf s f.srcNode.toNat f.side
      let lost := code = codeLOSS_OBSERVED || (code = codeOK && q.rspLoss)
      if lost then completeTag (setSeqRx s { q with rspLoss := false }) tag codeLOSS_OBSERVED []
      else completeTag s tag code []
    else completeTag s tag code f.payload

/-- TXN_RSP_RECEIVE (R50). -/
def execTxnRspReceive (s : State) : Result :=
  .next (match takeHeld s tyTXN_RSP with
    | none => s
    | some (l, s) =>
      if txnRuns s ∧ forThisSide s l.frame then
        matchResponse (trackResponse s l.frame.srcNode.toNat l.frame.side (BitVec.ofNat 16 (tsBits l.frame 16 16))) l.frame
      else s)

/-- POST_FAULT_RECEIVE (R57). -/
def execPostFaultReceive (s : State) : Result :=
  .next (match takeHeld s tyPOST_FAULT with
    | none => s
    | some (l, s) =>
      let f := l.frame
      if txnRuns s ∧ forThisSide s f then
        let s := trackResponse s f.srcNode.toNat f.side (BitVec.ofNat 16 (tsBits f 16 16))
        logPostFault s (bitsAt f.tsOrTxn.toNat 56 8) (bitsAt f.tsOrTxn.toNat 48 8) (BitVec.ofNat 48 f.tsOrTxn.toNat)
          (tsBits f 40 1 + 2 * tsBits f 37 3) (tsBits f 44 4) (bitAt f.typeSpecific.toNat 42) (bitAt f.typeSpecific.toNat 41)
      else s)

end Sys2Proof.Machine
end

