-- ==== Sys2Proof/Machine/Reception.lean ====
section
/-! DEFINITION. Frames received on ring ports: their words read, keepalives, what R118 decides, copies, relays (R109 to R113, R116 to
R118, R121, R122, R126, R130 to R133, R277). -/

namespace Sys2Proof.Machine

/-! ### A station's own frames -/

/-- An announcement or link report sent by one port once it is Up: a broken port strips it, and an isolated station drops and
counts it (R114, R127; log entry 146). -/
def addOwnOnPort (s : State) (port : Nat) (f : RingFrame) : State :=
  if broken s 0 && broken s 1 then incF s F.RNG_ADD_DROP_COUNT
  else if broken s port || buState s port ≠ buUp then s
  else addOnPort s port f

/-! ### From words to a frame (R92, R109 to R112, R132) -/

/-- A frame as its words give it: the frame, in clear, the cause for which it is bad (none if it is good), and the counter that
a keepalive carries. -/
structure RxFrame where
  frame : RingFrame
  cause : Option Fld
  counter : Nat
deriving DecidableEq, Repr

/-- The bytes that the SOF word announces; those that are missing are zero (R113). -/
def rxBytes (words : List (BitVec 64)) : List Byte :=
  padTo (sofLength (words.headD 0).toNat) (bytesOfStream (words.drop 1))

/-- Whether the frame was cut short: there are fewer words than its LENGTH asks for. -/
def rxShort (words : List (BitVec 64)) : Bool :=
  decide (8 * (words.length - 1) < sofLength (words.headD 0).toNat)

/-- The cause for which a frame is bad whose tag matches or not: a missing end, a stomp, its length, its CRC-32, its tag (R111 to
R113; log entry 195). -/
def rxCause (port : Nat) (bytes : List Byte) (short tagOk : Bool) : Option Fld :=
  let n := bytes.length
  let fcs := ofLe (bytes.drop (n - 4))
  let crc := crc32 (bytes.take (n - 4))
  let f := ringOfBytes bytes
  let len := ofBe ((bytes.drop 8).take 2)
  if short then some (F.RNG_PORT_TRUNC_COUNT port)
  else if fcs = crc ^^^ 0xFFFFFFFF then some (F.RNG_PORT_STOMPED_COUNT port)
  else if n ≠ 28 + len + 16 * bit01 f.enc ∨ 9216 < len then some (F.RNG_PORT_LEN_ERR_COUNT port)
  else if fcs ≠ crc then some (F.RNG_PORT_CRC_ERR_COUNT port)
  else if !tagOk then some (F.RNG_PORT_TAG_FAIL_COUNT port)
  else none

/-- The frame that words give on a port. On an encrypted segment the text is decrypted with the counter expected, or the one
that a keepalive carries, and its tag checked; on any other a frame that says it is encrypted fails its tag (R132, R133;
log entry 196). -/
def readWords (s : State) (port : Nat) (words : List (BitVec 64)) : RxFrame :=
  let bytes := rxBytes words
  let raw := ringOfBytes bytes
  let text := (bytes.drop 24).take (bytes.length - 28 - 16 * bit01 raw.enc)
  let tag := toNats ((bytes.drop (24 + text.length)).take 16)
  let f := { raw with payload := text }
  let counter := ofBe (text.take 8)
  let short := rxShort words
  if flag s (F.RNG_PORT_STAT_ENC port) then
    match (portSt s port).keys with
    | some k =>
      let key := keyBytes k.rxKey
      let head := toNats (ringHeader { f with payload := text })
      if isKeepalive f then
        let ok := raw.enc && gcmTag key (segmentNonce k.rxCtx counter) (head ++ toNats text) [] = tag
        ⟨f, rxCause port bytes short ok, counter⟩
      else
        let nonce := segmentNonce k.rxCtx (portSt s port).rxExpect
        let ok := raw.enc && gcmTag key nonce head (toNats text) = tag
        ⟨{ f with payload := if raw.enc then toBytes (gcmCrypt key nonce (toNats text)) else text }, rxCause port bytes short ok, counter⟩
    | none => ⟨f, rxCause port bytes short false, counter⟩
  else ⟨f, rxCause port bytes short (!raw.enc), counter⟩

/-- Whether a frame whose SOF word came `sofAt` stream words after the last marker starts where the receiver is in step: not in
a span that R96 discards. -/
def inStep (s : State) (port : Nat) (sofAt : Option Nat) : Bool :=
  let p := portSt s port
  !p.discarding && match p.resumeAt with
    | none => true
    | some (_, n) => sofAt.any (fun k => decide (n ≤ k))

/-- Whether the Crossing runs as a station: from ring-ready on (R402), and in Recovery as R419 has it (log entry 197). -/
def stationRuns (s : State) : Bool := s.dev.stage = .ringReady || s.dev.state = .recovery

/-- Whether a ring port takes a frame with these words. -/
def takesFrame (s : State) (port : Nat) (words : List (BitVec 64)) (sofAt : Option Nat) : Bool :=
  live s unitRNG && decide (port < 2) && buState s port = buUp && stationRuns s && inStep s port sofAt
    && isSof (words.headD 0).toNat

/-! ### Keepalives (R126, R130, R133, R277) -/

/-- HEAL_HOLD in ticks; 0 acts as 1 ms (R139). -/
def healHoldTicks (s : State) : Nat := max 1 (getF s F.RNG_CFG_HEAL_HOLD) * ticksMs

/-- Both sides of a broken port are heal-ready: the unwrap waits for its boundary, and for no longer than both are (R130). -/
def checkHeal (s : State) (port : Nat) : State :=
  let p := portSt s port
  setPortSt s port { p with unwrapReq := broken s port && p.portState = 2 && p.peerState = 2 }

/-- The difference receive time minus transmit time of a keepalive in 1/256 ns (R277): `rx` is this hub's TB0 stamp of
its SOF in 1/256 ns, and the short form wraps with 2^24 s. -/
def delaySample (tx : Nat) (rx : Int) : Int :=
  let m : Int := (2 ^ 24 * nsPerSec * 256 : Nat)
  let t : Int := (tx / 2 ^ 40 * nsPerSec * 256 + tx % 2 ^ 40 : Nat)
  let d := (rx - t) % m
  if m ≤ 2 * d then d - m else d

/-- TB0 at a quarter of a nanosecond within the present tick, in 1/256 ns: the stamp of a received SOF word (R277). -/
def sofStamp (s : State) (phase : Nat) : Int := (s.tb 0 / 2 ^ 24 + 64 * (phase % 8) : Nat)

/-- What an accepted keepalive does: the tick is not missed, the peer's PORT_STATE, and the delay sample. -/
def acceptKeepalive (s : State) (port : Nat) (f : RingFrame) (rx : Int) : State :=
  let p := portSt s port
  let fr := flag s (F.RNG_PORT_STAT_FR port)
  let p := { p with kaSeen := true, peerState := tsBits f 40 4 }
  let p := if fr then p else { p with sumA := p.sumA + delaySample f.tsOrTxn.toNat rx, numA := p.numA + 1 }
  let s := setPortSt s port p
  let s := if p.peerState = 1 && p.portState = 0 then declareBroken s port else s
  let s := if broken s port && !(portSt s port).healReady && !heldBroken s port then
    ensureTimer s (.healHold port) (healHoldTicks s) else s
  checkHeal s port

/-- A keepalive received: one that ends badly is counted by its cause; on an encrypted segment a failed tag or a counter below
the one expected rejects it (R113, R133). -/
def receiveKeepalive (s : State) (port : Nat) (r : RxFrame) (phase : Nat) : State :=
  let enc := flag s (F.RNG_PORT_STAT_ENC port)
  let p := portSt s port
  let tagFailed := r.cause = some (F.RNG_PORT_TAG_FAIL_COUNT port)
  if enc && (tagFailed || (r.cause.isNone && decide (r.counter < p.rxExpect))) then incF s (F.RNG_PORT_KA_REJECT_COUNT port)
  else match r.cause with
    | some c => incF s c
    | none =>
      if enc then
        let s := if p.rxExpect < r.counter then incF s (F.RNG_PORT_NONCE_RESYNC_COUNT port) else s
        acceptKeepalive (setPortSt s port { p with rxExpect := r.counter + 1 }) port r.frame (sofStamp s phase)
      else acceptKeepalive s port r.frame (sofStamp s phase)

/-- KEEPALIVE_RECEIVE (R133): the words of a segment keepalive. -/
def execKeepaliveReceive (port : Nat) (words : List (BitVec 64)) (sofAt : Option Nat) (phase : Nat) (s : State) : Result :=
  .next (
    if takesFrame s port words sofAt then
      let r := readWords s port words
      if isKeepalive r.frame then receiveKeepalive (countWaits s r.frame) port r phase else s
    else s)

/-! ### Who a frame is for (R116 to R118) -/

/-- Whether a frame comes from this very hub (R118 order 2). -/
def fromSelf (s : State) (f : RingFrame) : Bool :=
  f.srcNode.toNat = s.dev.nodeId && f.side = s.dev.side &&
    (f.srcNode ≠ 0 ||
      (if isAnnouncement f then ofBe (f.payload.take 8) = s.ident.uid.toNat else f.tsOrTxn = s.ident.uid))

/-- Whether a frame for node 0 is this hub's: a MGMT frame with its unit ID, while it is unassigned or has DUP_ID
(R116, R117). -/
def forUnassigned (s : State) (f : RingFrame) : Bool :=
  f.destNode = 0 && actsUnassigned s && f.type = tyMGMT && f.tsOrTxn = s.ident.uid

/-- Whether the segment towards this hub's twin is broken (R118): East on side A, West on side B. -/
def twinSegmentBroken (s : State) : Bool := broken s (bit01 s.dev.side)

/-- A reserved type (R110). -/
def reservedType (f : RingFrame) : Bool := f.type = 0 || (decide (0xA ≤ f.type.toNat) && decide (f.type.toNat ≤ 0xE))

/-- What R118 decides for a frame: copied, stripped, and the frame as it is forwarded. -/
structure Verdict where
  copy : Bool
  forward : Option RingFrame
  returned : Bool
  expired : Bool
deriving DecidableEq, Repr

/-- The first matching row of R118, from row 2 on. A frame of a reserved type that is not for this station goes on as it
is, its hop_limit too (R113; log entry 144). -/
def verdictOf (s : State) (f : RingFrame) : Verdict :=
  let less : RingFrame := { f with hopLimit := f.hopLimit - 1 }
  let gone := f.hopLimit.toNat ≤ 1
  if fromSelf s f then ⟨isAnnouncement f, none, f.destNode ≠ 255, false⟩
  else if f.destNode.toNat = s.dev.nodeId ∧ f.srcNode.toNat = s.dev.nodeId ∧ s.dev.nodeId ≠ 0 then ⟨true, none, false, false⟩
  else if (f.destNode.toNat = s.dev.nodeId ∧ s.dev.nodeId ≠ 0) ∨ forUnassigned s f = true then
    if reservedType f || !twinOnRing s || f.copyDone || twinSegmentBroken s then ⟨true, none, false, false⟩
    else ⟨true, some { f with copyDone := true }, false, false⟩
  else if reservedType f then ⟨false, some f, false, false⟩
  else if f.destNode = 255 then ⟨true, if gone then none else some less, false, false⟩
  else ⟨false, if gone then none else some less, false, gone⟩

/-! ### Copies (R113, R118, R121, R122) -/

/-- The class-7 record of a source hub after a number, and what becomes of the frame: 0 accepted, 1 duplicate, 2 too old. A
hub that no ring map entry stands for has a record too (R122; log entry 161). -/
def recordClass7 (s : State) (f : RingFrame) : Nat × State :=
  let key := (f.srcNode.toNat, f.side)
  let (k, rec) := class7Check (lookupKey key s.ring.c7Recs) f.seq
  (k, match rec with
    | some r => s.withRing { s.ring with c7Recs := replaceKey key r s.ring.c7Recs }
    | none => s)

/-- The ring map's counters of a copied frame (R121, R138; log entry 145). -/
def countCopy (s : State) (port : Nat) (f : RingFrame) (k : Nat) : State :=
  match findEntry s f.srcNode.toNat f.side with
  | none => s
  | some e =>
    let e := { e with copied := e.copied + 1 }
    if f.cls.toNat ≠ 7 then updateEntry s (countGap e port f)
    else if k = 0 then updateEntry s { e with c7Acc := e.c7Acc + 1 }
    else if k = 1 then updateEntry s { e with c7Dup := e.c7Dup + 1 }
    else updateEntry s e

/-- A copied frame accepted (0), or a class-7 one discarded (R121, R122). -/
def acceptCopy (s : State) (port : Nat) (f : RingFrame) : Nat × State :=
  let (k, s) := if f.cls.toNat = 7 then recordClass7 s f else (0, s)
  (k, countCopy s port f k)

/-- A copied frame as Plaza takes it towards a local unit. -/
def localCopy (s : State) (port : Nat) (f : RingFrame) : PlzFrame := ringStored s f (96 + port) 0

/-- A SIGNAL frame handed to the Junction at port 99 (R177). -/
def offerSignal (s : State) (port : Nat) (f : RingFrame) : State :=
  handAt s 99 (localCopy s port f) (fun s =>
    if live s unitJCT then
      let m : JctMsg := ⟨2, 0, tsBits f 34 14, false, f.payload, s.mono⟩
      s.withJct { s.jct with inbox := s.jct.inbox ++ [m] }
    else s)

/-- A copied frame handed to its local unit (R110, R118); a MGMT frame finds port 98 not Up in a management restart
(R415). A request waits in its port's receive buffer of 64, or in Plaza until that has room (R63, R64). -/
def deliverFrame (s : State) (port : Nat) (f : RingFrame) : State :=
  if f.type = tyDATA then (if live s unitPLZ then bridgeFromRing s port f else s)
  else if f.type = tySIGNAL then offerSignal s port f
  else if f.type = tyTXN_REQ then
    refillRequests (s.withRing { s.ring with waitReq := s.ring.waitReq ++ [⟨port, s.mono, f⟩] })
  else if f.type = tyMGMT then handAt s 98 (localCopy s port f) (fun s => output s (.mgtFrame (storedBytes (.ring f))))
  else if f.type = tyTEST then s
  else s.withRing { s.ring with held := s.ring.held ++ [⟨port, s.mono, f⟩] }

/-- A frame copied: one of a reserved type is stripped and counted, any other accepted or discarded by R122 and delivered (R113). -/
def copyFrame (s : State) (port : Nat) (f : RingFrame) : State :=
  if reservedType f then incF s F.RNG_UNKNOWN_COUNT
  else match acceptCopy s port f with
    | (0, s) => deliverFrame s port f
    | (1, s) => incF s F.RNG_C7_DUP_COUNT
    | (_, s) => incF s F.RNG_C7_OLD_COUNT

/-- A TXN_REQ that comes back round to its source (R31): a broadcast ends silently, and so does one whose request has timed
out, since it is no response (R50, R67; log entry 176). -/
def requestReturned (s : State) (f : RingFrame) : State :=
  let tag := bitsAt f.tsOrTxn.toNat 56 8
  let initiator := bitsAt f.tsOrTxn.toNat 48 8
  let addr := BitVec.ofNat 48 f.tsOrTxn.toNat
  let op := opOf (tsBits f 44 4)
  if f.destNode = 255 then s
  else if op = .wrPosted then
    logPostFault s tag initiator addr 1 codeADDR_ERROR (bitAt f.typeSpecific.toNat 42) (bitAt f.typeSpecific.toNat 41)
  else if s.txn.tags.any (fun e => e.tag = tag && initiatorOf e.who = initiator && e.addr = addr) then
    completeTag s tag codeADDR_ERROR []
  else s

/-! ### Reception (R112, R113, R118) -/

/-- Whether this station forwards transit traffic: as a station, and not in Recovery (R23, R26, R418). -/
def forwardsTransit (s : State) : Bool := stationRuns s && s.dev.state ≠ .recovery

/-- The queues that a bad DATA frame was on its way to in this hub (R143, R159). -/
def localPlaces (s : State) (p : PlzFrame) (f : RingFrame) : List Target × State :=
  let len := f.payload.length
  if f.destUnit.toNat < 96 then ([egressTarget s p.vid p.cls 0 len f.destUnit.toNat], s)
  else
    let (fw, s) := lookupForward s p.vid (macOf f.payload) p.cls p.inPort true (f.destNode = 255)
    ((fw.ports.filter (fun p => decide (p < 104))).map (egressTarget s p.vid fw.cls fw.sq len), s)

/-- A bad frame, one that came in stomped among them: it is counted by its cause and its outgoing copies end in a stomp, or on
an access port in a complemented FCS; the station's own copy is discarded (R112, R113, R143; log entry 142). -/
def badFrame (s : State) (port : Nat) (f : RingFrame) (cause : Fld) : State :=
  let s := incF s cause
  let v := verdictOf s f
  let s := loseFrame s (ringStored s f (96 + port) 0) (fun s =>
    match v.forward with
    | some g =>
      let (ts, s) := if forwardsTransit s then ringTarget s (1 - port) .transit g 0 else ([], s)
      ((ringStored s g (96 + port) 0, ts), s)
    | none => ((ringStored s f (96 + port) 0, []), s))
  if v.copy && f.type = tyDATA && vlanRing s (tsBits f 28 12) then
    let p := { newFrame s (.eth f.payload) (96 + port) f.cls.toNat (tsBits f 28 12) 0 f.cm with bad := true }
    let (ts, t) := localPlaces s p f
    if ts.any (leavesEarly t p) then cutOff t p ts else s
  else s

/-- 600 s, after which a recovery relay without a frame closes (R420). -/
def relayTicks : Nat := 600000 * ticksMs

/-- A MGMT frame for node 0 or 255 that the station forwards or copies goes out on the port of an open relay too. -/
def relayOut (s : State) (f : RingFrame) : State :=
  match s.ring.relayPort with
  | some p =>
    if f.type = tyMGMT ∧ (f.destNode = 0 ∨ f.destNode = 255) ∧ buState s p = buUp then
      startTimer (emitFrame s p { f with enc := false, clr := true } false) .relay relayTicks
    else s
  | none => s

/-- A frame that arrives on the port of an open relay: a MGMT frame of an unassigned hub is added to the ring (R420). -/
def relayIn (s : State) (port : Nat) (f : RingFrame) : State :=
  if s.ring.relayPort = some port ∧ f.type = tyMGMT ∧ f.srcNode = 0 then
    let node := f.destNode.toNat
    sendRing (startTimer s .relay relayTicks) (directionTo s node) .added { f with hopLimit := hopLimitFor s node } (96 + port) 0
  else s

/-- A good frame carried by R118. -/
def carryFrame (s : State) (port : Nat) (f : RingFrame) : State :=
  let v := verdictOf s f
  let stamp := if f.type = tyDATA then f.tsOrTxn.toNat else 0
  let s := if v.returned then incF s F.RNG_RETURNED_COUNT else s
  let s := if v.expired then incF s F.RNG_HOP_EXPIRED_COUNT else s
  let s := if fromSelf s f && f.type = tyTXN_REQ then requestReturned s f else s
  let s := if v.copy then
    copyFrame s port (if f.destNode = 255 then { f with hopLimit := f.hopLimit - 1 } else f) else s
  let s := if v.copy || v.forward.isSome then relayOut s f else s
  match v.forward with
  | some g => if forwardsTransit s then sendRing s (1 - port) .transit g (96 + port) stamp else s
  | none => s

/-- A frame received on a ring port that is Up. Its words keep a tick of an unencrypted segment from being missed (R126), and each
frame takes one counter of an encrypted one (R132; log entry 198). -/
def receiveRing (s : State) (port : Nat) (r : RxFrame) : State :=
  if isKeepalive r.frame then receiveKeepalive s port r 0
  else
    let enc := flag s (F.RNG_PORT_STAT_ENC port)
    let p := portSt s port
    let s := setPortSt s port { p with
      kaSeen := p.kaSeen || !enc
      rxExpect := if enc then p.rxExpect + 1 else p.rxExpect }
    let f := { r.frame with clr := r.frame.clr || !enc }
    match r.cause with
    | some cause => if broken s port then incF s cause else badFrame s port f cause
    | none => if broken s port then relayIn s port f else carryFrame s port f

/-- RING_FRAME_RECEIVE (R118). Frames that start in a span discarded by R96 are lost. -/
def execRingFrameReceive (port : Nat) (words : List (BitVec 64)) (sofAt : Option Nat) (s : State) : Result :=
  .next (
    if takesFrame s port words sofAt then
      let r := readWords s port words
      receiveRing (countWaits s r.frame) port r
    else s)

/-- RING_FRAME_ADD (R119). -/
def execRingFrameAdd (f : RingFrame) (s : State) : Result := .next (addFrame s .added f 98 0)

end Sys2Proof.Machine
end

