-- ==== Sys2Proof/Machine/Crossing.lean ====
section
/-! DEFINITION. The commands of the Crossing apart from reception: announcements and the ring map, keepalives sent, wraps and
heals (R114, R115, R117, R125 to R130, R139). -/

namespace Sys2Proof.Machine

/-! ### Announcements (R114, R115, R117, R275) -/

/-- The role byte of an announcement (R114). -/
def announcedRole (s : State) : Nat := if inService s then s.twin.role.code else 4

/-- The time fields of an announcement (R275). -/
def timeFields (s : State) : List Byte :=
  let st := tb0State s
  [BitVec.ofNat 8 (getF s F.TIM_TB0_CFG_PRIO),
   BitVec.ofNat 8 (bit01 (st = tbLocked || st = tbHoldover) + 2 * bit01 (st = tbMaster)
    + 4 * bit01 (flag s F.TIM_TB1_CFG_SRC) + 8 * bit01 (tb1Valid s)),
   BitVec.ofNat 8 (getF s F.TIM_TB0_SYNC_MASTER), BitVec.ofNat 8 (getF s F.TIM_TB0_SYNC_MASTER_SIDE),
   BitVec.ofNat 8 (getF s F.TIM_TB1_CFG_PRIO), BitVec.ofNat 8 (getF s F.TIM_TB0_SYNC_HOPS)] ++ List.replicate 10 0

/-- The 32-byte payload of an announcement (R114). -/
def announcement (s : State) : List Byte :=
  beBytes 8 s.ident.uid.toNat ++ [BitVec.ofNat 8 (announcedRole s),
    BitVec.ofNat 8 (bit01 s.ident.variant.hasCip + 2 * bit01 s.ident.variant.hasTwn
      + 4 * bit01 (flag s F.RNG_STAT_DUP_ID) + 8 * bit01 (broken s 0) + 16 * bit01 (broken s 1))]
    ++ List.replicate 6 0 ++ timeFields s

/-- The announcement frame. -/
def announceFrame (s : State) : RingFrame :=
  { blankFrame tyKEEPALIVE 6 255 0x02 with typeSpecific := BitVec.ofNat 48 (2 ^ 44), payload := announcement s }

/-- ANNOUNCEMENT_SEND (R114): every 1 ms, on each ring. A wrapping station strips the one for its broken port, and an isolated
station drops and counts both (R127). -/
def execAnnouncementSend (s : State) : Result :=
  .next (
    if live s unitRNG ∧ s.dev.stage = .ringReady ∧ due s .announce then
      let f := announceFrame s
      startTimer (addOwnOnPort (addOwnOnPort s 0 f) 1 f) .announce ticksMs
    else s)

/-- An announcement with this node and side but another unit ID (R117). -/
def duplicateSeen (s : State) (uid : BitVec 64) : State :=
  let was := flag s F.RNG_STAT_DUP_ID
  let s := setFlag s F.RNG_STAT_DUP_ID true
  let s := startTimer s .dupId (3 * ticksMs)
  if was then s
  else recordFault s fltRngDupId unitRNG (BitVec.ofNat 32 (s.dev.nodeId + 256 * bit01 s.dev.side)) (uid.truncate 32)

/-- The ring map entry that an announcement leaves (R115, R275). -/
def announcedEntry (s : State) (e : RingEntry) (port : Nat) (f : RingFrame) : RingEntry :=
  let b (i : Nat) : Byte := f.payload.getD i 0
  let hops := 255 - f.hopLimit.toNat
  let west := port = 1
  let free := !running s (.holddown e.node e.side west)
  { e with
    reachE := if west then e.reachE else e.reachE || free
    reachW := if west then e.reachW || free else e.reachW
    hopsE := if west then e.hopsE else hops
    hopsW := if west then hops else e.hopsW
    role := (b 8).truncate 3
    flags := b 9
    uid := BitVec.ofNat 64 (ofBe (f.payload.take 8))
    lastUs := BitVec.ofNat 32 (tb2Us s)
    prio := b 16
    tbFlags := b 17
    masterNode := b 18
    masterSide := (b 19).getLsbD 0
    tb1Prio := b 20
    masterHops := b 21 }

/-- Whether two entries say the same of the map (its counters and the time of the announcement apart). -/
def sameEntry (a b : RingEntry) : Bool :=
  { a with lastUs := 0 } = { b with lastUs := 0 }

/-- The closure bit of RNG_STAT that a port's announcements show (R115). -/
def closureBit (port : Nat) : Fld := if port = 1 then F.RNG_STAT_CLOSED_OUTER else F.RNG_STAT_CLOSED_INNER

/-- An announcement entered in the ring map. -/
def enterAnnouncement (s : State) (port : Nat) (f : RingFrame) : State :=
  let node := f.srcNode.toNat
  let old := findEntry s node f.side
  let e := announcedEntry s (old.getD (newEntry node f.side)) port f
  let s := match old with
    | some o => if sameEntry o e then updateEntry s e else bumpMapGen (updateEntry s e)
    | none => bumpMapGen (s.withRing { s.ring with map := s.ring.map ++ [e] })
  let s := startTimer s (.reach node f.side (decide (port = 1))) (3 * ticksMs)
  if isOwn s node f.side then setFlag s (closureBit port) true else s

/-- The oldest announcement taken: DUP_ID, the ring map, and the master choice (R115, R117, R276). -/
def receiveAnnouncement (s : State) (port : Nat) (f : RingFrame) : State :=
  let uid := BitVec.ofNat 64 (ofBe (f.payload.take 8))
  let own := isOwn s f.srcNode.toNat f.side
  selectMaster (
    if f.srcNode ≠ 0 ∧ own ∧ uid ≠ s.ident.uid then duplicateSeen s uid
    else if f.srcNode = 0 ∧ !(own && uid = s.ident.uid) then s
    else enterAnnouncement s port f)

/-- ANNOUNCEMENT_RECEIVE (R115). -/
def execAnnouncementReceive (s : State) : Result :=
  .next (
    match s.ring.held.find? (fun l => isAnnouncement l.frame) with
    | some l =>
      let s := s.withRing { s.ring with held := s.ring.held.erase l }
      if live s unitRNG then receiveAnnouncement s l.port l.frame else s
    | none => s)

/-- What a station forgets of a hub whose ring map entry lapses: its class-7 record (R122), and the request and response
numbers it expects of it, since a hub that starts again is always absent for that long (R54, R402; log entry 199). -/
def forgetSource (s : State) (node : Nat) (side : Bool) : State :=
  let s := s.withRing { s.ring with c7Recs := removeKey (node, side) s.ring.c7Recs }
  s.withTxn { s.txn with seqRx := s.txn.seqRx.map (fun e =>
    if e.node = node ∧ e.side = side then { e with own := none, bcast := none, rsp := none } else e) }

/-- An entry removed with what belongs to it (R115, R122). -/
def removeEntry (s : State) (node : Nat) (side : Bool) : State :=
  forgetSource (s.withRing { s.ring with map := s.ring.map.filter (fun x => !(x.node = node && x.side = side)) }) node side

/-- One direction of a hub becomes unreachable; an entry unreachable both ways is removed (R115). -/
def unreach (s : State) (node : Nat) (side west : Bool) : State :=
  match findEntry s node side with
  | none => s
  | some o =>
    let e := if west then { o with reachW := false } else { o with reachE := false }
    let s := if isOwn s node side then setFlag s (closureBit (bit01 west)) false else s
    if e.reachE || e.reachW then (if e = o then s else bumpMapGen (updateEntry s e))
    else bumpMapGen (removeEntry s node side)

/-- REACH_TIMEOUT (R115): 3 ms without an announcement from a direction. -/
def execReachTimeout (node : Nat) (side west : Bool) (s : State) : Result :=
  .next (
    if due s (.reach node side west) then
      selectMaster (unreach (stopTimer s (.reach node side west)) node side west)
    else s)

/-- DUP_ID cleared (R117). -/
def clearDupId (s : State) : State :=
  setFlag (stopTimer s .dupId) F.RNG_STAT_DUP_ID false

/-- DUP_ID_TIMEOUT (R117). -/
def execDupIdTimeout (s : State) : Result :=
  .next (if due s .dupId then selectMaster (clearDupId s) else s)

/-! ### Keepalives (R125, R126, R130, R132, R133, R277) -/

/-- The segment keepalive of a port, with the counter it uses on an encrypted segment. -/
def keepaliveFrame (s : State) (port counter : Nat) : RingFrame :=
  let p := portSt s port
  let enc := flag s (F.RNG_PORT_STAT_ENC port)
  let f := stampSource s { blankFrame tyKEEPALIVE 6 255 0x02 with
    hopLimit := 1
    typeSpecific := BitVec.ofNat 48 (p.portState % 16 * 2 ^ 40)
    tsOrTxn := BitVec.ofNat 64 (tb0Short s) }
  { f with seq := p.kaSeq, enc := enc, clr := !enc, payload := if enc then beBytes 8 counter else [] }

/-- KEEPALIVE_SEND (R125): every 1 µs, and at once after a change of PORT_STATE, once the Crossing runs as a station (R26, R402).
On a stalled nonce slot it waits (R306). -/
def execKeepaliveSend (port : Nat) (s : State) : Result :=
  .next (
    if live s unitRNG ∧ stationRuns s ∧ port < 2 ∧ buState s port = buUp ∧ due s (.ka port) then
      let counter := nctr s port
      match sealNonce s port with
      | (true, s) =>
        let f := keepaliveFrame s port counter
        let s := setPortSt s port { portSt s port with kaSeq := (portSt s port).kaSeq + 1 }
        startTimer (emitRing s port f false) (.ka port) ticksUs
      | (false, s) => s
    else s)

/-- KA_MISS; values below 2 act as 2 (R139). -/
def kaMissLimit (s : State) : Nat := max 2 (getF s F.RNG_CFG_KA_MISS)

/-- KEEPALIVE_TICK (R126): every 1 µs, or 10 µs towards a GK5108 (R136). Words of frames count only on a segment that is
not encrypted. -/
def execKeepaliveTick (port : Nat) (wordSeen : Bool) (s : State) : Result :=
  .next (
    if live s unitRNG ∧ stationRuns s ∧ port < 2 ∧ buState s port = buUp ∧ due s (.kaTick port) then
      let p := portSt s port
      let seen := p.kaSeen || (wordSeen && !flag s (F.RNG_PORT_STAT_ENC port))
      let s := startTimer s (.kaTick port) ((if flag s (F.RNG_PORT_STAT_FR port) then 10 else 1) * ticksUs)
      if seen then setPortSt s port { p with kaSeen := false, kaMissed := 0 }
      else
        let s := incF (setPortSt s port { p with kaMissed := p.kaMissed + 1 }) (F.RNG_PORT_KA_MISS_COUNT port)
        let s := stopTimer s (.healHold port)
        if kaMissLimit s ≤ p.kaMissed + 1 then declareBroken s port else s
    else s)

/-! ### Wraps and heals (R126, R129, R130) -/

/-- WRAP_E or WRAP_W set (R126). -/
def setWrap (s : State) (port : Nat) : State :=
  declareBroken (setFlag s (if port = 0 then F.RNG_CTL_WRAP_E else F.RNG_CTL_WRAP_W) true) port

/-- WRAP and HEAL are written in RNG_CTL. -/
def noteRingCtl (s : State) : State := noteReg s unitRNG 0x408 (regWord s F.RNG_CTL_HEAL.key).toNat

/-- MAINTENANCE_WRAP (R126). -/
def execMaintenanceWrap (port : Nat) (s : State) : Result :=
  .next (if live s unitRNG ∧ port < 2 then noteRingCtl (setWrap s port) else s)

/-- A direction of one entry held down for 3 ms, with the hub and port of the notice that did it (R129; log entry 71). -/
def holdDown (s : State) (key cause : Nat × Bool × Bool) : State :=
  let s := startTimer s (.holddown key.1 key.2.1 key.2.2) (3 * ticksMs)
  s.withRing { s.ring with heldDown := replaceKey key cause s.ring.heldDown }

/-- The hold-downs that the last notice of hub and port `cause` began are over (R130). -/
def endHolds (s : State) (cause : Nat × Bool × Bool) : State :=
  let mine := s.ring.heldDown.filter (fun p => p.2 = cause)
  let s := s.withTimers (s.timers.filter (fun t => match t.1 with
    | .holddown n d w => !mine.any (fun p => p.1 = (n, d, w))
    | _ => true))
  s.withRing { s.ring with heldDown := s.ring.heldDown.filter (fun p => p.2 ≠ cause) }

/-- The directions of one entry that a wrap notice clears, held down for 3 ms (R129). -/
def applyWrap (s : State) (w : RingEntry) (west : Bool) (e : RingEntry) : State :=
  let c := wrapClears w west e
  let s := if c.1 then holdDown s (e.node, e.side, false) (w.node, w.side, west) else s
  let s := if c.2 then holdDown s (e.node, e.side, true) (w.node, w.side, west) else s
  let s := if c.1 && e.reachE then unreach s e.node e.side false else s
  if c.2 && e.reachW then unreach s e.node e.side true else s

/-- A WRAP notice: reach beyond the break is cleared, or the hold-down ends (R129, R130). -/
def receiveWrap (s : State) (f : RingFrame) : State :=
  if tsBits f 45 2 = 1 then endHolds s (f.srcNode.toNat, f.side, tsBits f 47 1 = 1)
  else match findEntry s f.srcNode.toNat f.side with
    | some w =>
      (s.ring.map.filter (fun e => !isOwn s e.node e.side)).foldl (fun t e => applyWrap t w (tsBits f 47 1 = 1) e) s
    | none => s

/-- WRAP_NOTICE_RECEIVE (R129). -/
def execWrapNoticeReceive (s : State) : Result :=
  .next (match takeHeld s tyWRAP with
    | some (l, s) => if live s unitRNG then selectMaster (receiveWrap s l.frame) else s
    | none => s)

/-- WRAP_HOLDDOWN_EXPIRY (R129). -/
def execWrapHolddownExpiry (node : Nat) (side west : Bool) (s : State) : Result :=
  .next (
    if due s (.holddown node side west) then
      stopTimer (s.withRing { s.ring with heldDown := removeKey (node, side, west) s.ring.heldDown }) (.holddown node side west)
    else s)

/-- HEAL_READY (R130): PORT_STATE 2 is sent at once. -/
def execHealReady (port : Nat) (s : State) : Result :=
  .next (
    if live s unitRNG ∧ stationRuns s ∧ port < 2 ∧ broken s port ∧ buState s port = buUp ∧ due s (.healHold port) ∧ !heldBroken s port then
      let s := setPortSt (stopTimer s (.healHold port)) port { portSt s port with portState := 2, healReady := true }
      checkHeal (startTimer s (.ka port) 0) port
    else s)

/-- HEAL (R130). -/
def execHeal (s : State) : Result := .next (if live s unitRNG then noteRingCtl (setFlag s F.RNG_CTL_HEAL true) else s)

/-- UNWRAP at a boundary (R130): the ports that wait for it, if AUTO_HEAL or HEAL permits. -/
def unwrapPorts (s : State) : State :=
  if flag s F.RNG_CFG_AUTO_HEAL || flag s F.RNG_CTL_HEAL then
    let ready (t : State) (p : Nat) := (portSt t p).unwrapReq && broken t p && !heldBroken t p
    let any := ready s 0 || ready s 1
    let s := if ready s 0 then unwrapPort s 0 else s
    let s := if ready s 1 then unwrapPort s 1 else s
    if any then setFlag s F.RNG_CTL_HEAL false else s
  else s

end Sys2Proof.Machine
end

