-- ==== Sys2Proof/Machine/JunctionOps.lean ====
section
/-! DEFINITION. The Junction's tables, fields, transforms, routes and list runs (R173 to R199). -/

namespace Sys2Proof.Machine

/-! ### The window (R174) -/

def jctKey (off : Nat) : Nat := keyOf unitJCT off
def routeBase (bank : Bool) : Nat := if bank then 0x01090000 else 0x01000000
def routeAddr (bank : Bool) (r : Nat) : Nat := jctKey (routeBase bank + 32 * r)
def keyAddr (bank : Bool) (k : Nat) : Nat := jctKey (routeBase bank + 0x80000 + 8 * k)
def paramAddr (bank : Bool) (p : Nat) : Nat := jctKey (routeBase bank + 0x88000 + 32 * p)
def templateAddr (bank : Bool) (t : Nat) : Nat := jctKey (0x01120000 + (if bank then 0x80000 else 0) + 128 * t)
def signalAddr (n : Nat) : Nat := jctKey (0x01220000 + 16 * n)
def curveAddr (c : Nat) : Nat := jctKey (0x01260000 + 128 * c)

/-- The active bank of epoch table `t` (R79). -/
def activeBank (s : State) (t : Nat) : Bool := bitF s F.SYS_EPOCH_STAT_ACTIVE t

/-! ### Fields in bytes (R181) -/

/-- The bits of a field at offset `o`, length `n`, in a byte list. -/
def fieldBits (bs : List Byte) (o n : Nat) (be : Bool) : Nat :=
  if be then bitsAt (ofBe bs) (8 * bs.length - o - n) n else bitsAt (ofLe bs) o n

/-- The bytes with a field replaced. -/
def putField (bs : List Byte) (o n : Nat) (be : Bool) (v : Nat) : List Byte :=
  if be then beBytes bs.length (insertBits (ofBe bs) (8 * bs.length - o - n) n v)
  else leBytes bs.length (insertBits (ofLe bs) o n v)

/-- `a / b` rounded to the nearest integer, ties to even. -/
def roundEven (a b : Nat) : Nat :=
  let q := a / b
  let r := a % b
  if b < 2 * r ∨ (2 * r = b ∧ q % 2 = 1) then q + 1 else q

/-- An IEEE 754 binary32 times 2^k as an integer, ties to even; none for NaN, infinity or a magnitude of 2^63 or more
(R181). -/
def f32ToInt (w k : Nat) : Option Int :=
  let e := bitsAt w 23 8
  let frac := bitsAt w 0 23
  if e = 255 then none
  else
    let m := if e = 0 then frac else frac + 2 ^ 23
    let up := (if e = 0 then 1 else e) + k
    let mag := if 150 ≤ up then m * 2 ^ (up - 150) else roundEven m (2 ^ (150 - up))
    if 2 ^ 63 ≤ mag then none else some (if bitAt w 31 then -(mag : Int) else mag)

/-- y × 2^-k as the nearest binary32, ties to even (R191). -/
def intToF32 (y : Int) (k : Nat) : Nat :=
  let m := y.natAbs
  if m = 0 then 0
  else
    let len := Nat.log2 m + 1
    let r := if len ≤ 24 then m * 2 ^ (24 - len) else roundEven m (2 ^ (len - 24))
    let (r, len) := if r = 2 ^ 24 then (2 ^ 23, len + 1) else (r, len)
    (if y < 0 then 2 ^ 31 else 0) + (len + 126 - k) * 2 ^ 23 + (r - 2 ^ 23)

/-! ### Routes and parameter sets (R180, R185) -/

/-- A route entry. -/
structure Route where
  w0 : Nat
  w1 : Nat
  w2 : Nat
  w3 : Nat
  m : Int
  w5 : Nat
  b : Int
deriving DecidableEq, Repr

def readRoute (s : State) (bank : Bool) (r : Nat) : Route :=
  let a := routeAddr bank r
  ⟨memWord s a, memWord s (a + 4), memWord s (a + 8), memWord s (a + 12), signed 32 (memWord s (a + 16)),
    memWord s (a + 20), signed 64 (memNat s (a + 24) 8)⟩

def Route.valid (r : Route) : Bool := bitAt r.w0 0
def Route.inSig (r : Route) : Bool := bitAt r.w0 1
def Route.wrSig (r : Route) : Bool := bitAt r.w0 2
def Route.pack (r : Route) : Bool := bitAt r.w0 3
def Route.emit (r : Route) : Bool := bitAt r.w0 4
def Route.change (r : Route) : Bool := bitAt r.w0 5
def Route.gate (r : Route) : Bool := bitAt r.w0 6
def Route.subst (r : Route) : Bool := bitAt r.w0 7
def Route.xform (r : Route) : Nat := bitsAt r.w0 8 2
def Route.clamp (r : Route) : Bool := bitAt r.w0 10
def Route.reject (r : Route) : Bool := bitAt r.w0 11
def Route.rnd (r : Route) : Bool := bitAt r.w0 12
def Route.next (r : Route) : Nat := bitsAt r.w0 13 14
def Route.last (r : Route) : Bool := bitAt r.w0 27
def Route.cls (r : Route) : Nat := bitsAt r.w0 28 3
def Route.bitOfs (r : Route) : Nat := bitsAt r.w1 0 11
def Route.len (r : Route) : Nat := bitsAt r.w1 11 6 + 1
def Route.be (r : Route) : Bool := bitAt r.w1 17
def Route.isSigned (r : Route) : Bool := bitAt r.w1 18
def Route.f32 (r : Route) : Bool := bitAt r.w1 19
def Route.fshift (r : Route) : Nat := bitsAt r.w1 20 6
def Route.srcSig (r : Route) : Nat := bitsAt r.w2 0 14
def Route.outSig (r : Route) : Nat := bitsAt r.w2 16 14
def Route.packOfs (r : Route) : Nat := bitsAt r.w3 0 11
def Route.packLen (r : Route) : Nat := bitsAt r.w3 11 6 + 1
def Route.packBe (r : Route) : Bool := bitAt r.w3 17
def Route.packF32 (r : Route) : Bool := bitAt r.w3 18
def Route.outTpl (r : Route) : Nat := bitsAt r.w3 19 12
def Route.shift (r : Route) : Nat := bitsAt r.w5 0 5
def Route.table (r : Route) : Nat := bitsAt r.w5 5 10
def Route.param (r : Route) : Nat := bitsAt r.w5 15 10
def Route.pshift (r : Route) : Nat := bitsAt r.w5 25 6

/-- A parameter set. -/
structure Params where
  min : Int
  max : Int
  substVal : Int
  deadband : Nat
  timeoutUs : Nat
deriving DecidableEq, Repr

def readParams (s : State) (bank : Bool) (p : Nat) : Params :=
  let a := paramAddr bank p
  ⟨signed 64 (memNat s a 8), signed 64 (memNat s (a + 8) 8), signed 64 (memNat s (a + 16) 8), memWord s (a + 24),
    memWord s (a + 28)⟩

/-! ### Signals (R175, R186, R187) -/

def sigValue (s : State) (n : Nat) : Int := signed 64 (memNat s (signalAddr n) 8)
def sigStatus (s : State) (n : Nat) : Nat := memWord s (signalAddr n + 8)
def sigUpdated (s : State) (n : Nat) : Nat := memWord s (signalAddr n + 12)
def setSigStatus (s : State) (n v : Nat) : State := memPut s (signalAddr n + 8) 4 v
/-- The age of a signal in µs by TB2. -/
def sigAge (s : State) (n : Nat) : Nat := (tb2Us s + 2 ^ 32 - sigUpdated s n) % 2 ^ 32

/-- UPDATED refreshed, and STALE cleared with it (R186, R187). -/
def refreshSig (s : State) (n : Nat) : State :=
  memPut (setSigStatus s n (withBit (sigStatus s n) 2 false)) (signalAddr n + 12) 4 (tb2Us s)

/-- VALUE and its status bits SUBST, CLAMPED and OVF written, VALID set, INVALID and STALE cleared, WRITES raised. -/
def writeSig (s : State) (n : Nat) (y : Int) (subst clamped ovf : Bool) : State :=
  let writes := (sigStatus s n / 256 + 1) % 2 ^ 24
  let s := memPut s (signalAddr n) 8 (unsignedOf 64 y)
  let s := setSigStatus s n (1 + 8 * bit01 subst + 16 * bit01 clamped + 32 * bit01 ovf + 256 * writes)
  memPut s (signalAddr n + 12) 4 (tb2Us s)

/-- The read of a signal by a route (R186): its value if valid; on a timeout STALE is set and counted. -/
def readSig (s : State) (n : Nat) (p : Params) : Option Int × State :=
  let st := sigStatus s n
  if !bitAt st 0 then (none, s)
  else if p.timeoutUs ≠ 0 ∧ p.timeoutUs ≤ sigAge s n then
    (none, incF (setSigStatus s n (withBit st 2 true)) F.JCT_STALE_COUNT)
  else if bitAt st 1 then (none, s)
  else (some (sigValue s n), s)

/-! ### Transforms (R181 to R184) -/

/-- The field a route extracts (R181). -/
def extract (r : Route) (bs : List Byte) : Option Int :=
  let bs := bs.take 256
  if 8 * bs.length < r.bitOfs + r.len then none
  else
    let v := fieldBits bs r.bitOfs r.len r.be
    if r.f32 then f32ToInt v r.fshift
    else some (if r.isSigned || r.len = 64 then signed r.len v else v)

/-- Division rounded to the nearest integer, ties away from zero. -/
def roundAway (a : Int) (b : Nat) : Int :=
  let q := (2 * a.natAbs + b) / (2 * b)
  if a < 0 then -(q : Int) else q

/-- The points of a curve up to the end of the leading run of strictly increasing X (R183). -/
def curvePoints (s : State) (c : Nat) : Nat → Nat → Option Int → List (Int × Int)
  | 0, _, _ => []
  | fuel + 1, i, prev =>
    let x := signed 32 (memWord s (curveAddr c + 8 * i))
    let y := signed 32 (memWord s (curveAddr c + 8 * i + 4))
    match prev with
    | some p => if p < x then (x, y) :: curvePoints s c fuel (i + 1) (some x) else []
    | none => (x, y) :: curvePoints s c fuel (i + 1) (some x)

/-- Interpolation along points, from the one before on. -/
def alongCurve (x : Int) : Int × Int → List (Int × Int) → Int
  | p, [] => p.2
  | p, q :: rest =>
    if x ≤ p.1 then p.2
    else if x < q.1 then roundAway (p.2 * (q.1 - p.1) + (x - p.1) * (q.2 - p.2)) (q.1 - p.1).toNat
    else alongCurve x q rest

/-- A curve at x. Interpolated values are rounded as a whole, so the sum is formed over the common denominator. -/
def curveAt (s : State) (c : Nat) (x : Int) : Int :=
  let x := max (-(2 ^ 31)) (min (2 ^ 31 - 1) x)
  match curvePoints s c 16 0 none with
  | [] => 0
  | p :: rest => alongCurve x p rest

/-- An enumeration at x; none makes the result invalid (R183). -/
def enumAt (s : State) (e : Nat) (x : Int) : Option Int :=
  if x < 0 ∨ 255 < x then none
  else
    let v := memWord s (curveAddr 0 + 1024 * e + 4 * x.toNat)
    if v = 0x80000000 then none else some (signed 32 v)

/-- The transform of a route (R182, R183). -/
def transform (s : State) (r : Route) (x : Int) : Option Int :=
  match r.xform with
  | 0 => some x
  | 1 =>
    let rnd : Int := if r.rnd && decide (0 < r.shift) then (2 ^ (r.shift - 1) : Nat) else 0
    some ((x * r.m + rnd) / (2 ^ r.shift : Nat) + r.b)
  | 2 => some (curveAt s r.table x)
  | _ => enumAt s r.table x

/-- The result of a route: a value with its status bits, or invalid. -/
structure Outcome where
  y : Int
  subst : Bool
  clamped : Bool
  ovf : Bool
deriving DecidableEq, Repr

/-- Clamping or saturation (R184). -/
def limitResult (r : Route) (p : Params) (y : Int) : Option Outcome :=
  if r.clamp then
    if y < p.min then (if r.reject then none else some ⟨p.min, false, true, false⟩)
    else if p.max < y then (if r.reject then none else some ⟨p.max, false, true, false⟩)
    else some ⟨y, false, false, false⟩
  else if y < -(2 ^ 63) then some ⟨-(2 ^ 63), false, false, true⟩
  else if 2 ^ 63 ≤ y then some ⟨2 ^ 63 - 1, false, false, true⟩
  else some ⟨y, false, false, false⟩

/-- A route's result from its input, with the substitute for an invalid one and the counts of R184. -/
def resultOf (s : State) (r : Route) (p : Params) (input : Option Int) : Option Outcome × State :=
  match (input.bind (transform s r)).bind (limitResult r p) with
  | some o => (some o, if o.ovf then incF s F.JCT_OVERFLOW_COUNT else s)
  | none =>
    if r.subst then (some ⟨p.substVal, true, false, false⟩, s) else (none, incF s F.JCT_INVALID_COUNT)

/-! ### Templates (R191, R192) -/

/-- A template's descriptor. -/
structure Tpl where
  sink : Nat
  chain : Bool
  len : Nat
  dest : Nat
  arg : Nat
  w3 : Nat
deriving DecidableEq, Repr

def readTpl (s : State) (bank : Bool) (t : Nat) : Tpl :=
  let a := templateAddr bank t
  let w0 := memWord s a
  ⟨if 6 ≤ bitsAt w0 0 3 then 0 else bitsAt w0 0 3, bitAt w0 3, bitsAt w0 4 8, bitsAt (memWord s (a + 4)) 0 8,
    memWord s (a + 8), memWord s (a + 12)⟩

def Tpl.ipOfs (t : Tpl) : Nat := bitsAt t.w3 0 8
def Tpl.ipCsum (t : Tpl) : Bool := bitAt t.w3 8
def Tpl.udpCsum (t : Tpl) : Bool := bitAt t.w3 9
def Tpl.aliveOfs (t : Tpl) : Nat := bitsAt t.w3 10 8
def Tpl.aliveEn (t : Tpl) : Bool := bitAt t.w3 18
/-- Bytes of the alive counter. -/
def Tpl.aliveBytes (t : Tpl) : Nat := if bitsAt t.w3 19 2 = 2 then 2 else 1

/-- The payload image of a template: byte 16 on, through the continuation of a chain. -/
def tplImage (s : State) (bank : Bool) (t : Nat) (d : Tpl) : List Byte := memRead s (templateAddr bank t + 16) d.len

/-- The static checks of R192, with the SINK 0 of R188 code 6. -/
def tplOk (s : State) (t : Nat) (d : Tpl) : Bool :=
  d.sink ≠ 0 && decide (1 ≤ d.len) && decide (d.len ≤ if d.chain then 240 else 112) && !(d.chain && t = 4095)
    && (d.sink ≠ 2 || decide (d.len ≤ 8) || (bitAt d.arg 30 && [12, 16, 20, 24, 32, 48, 64].contains d.len))
    && (d.sink ≠ 3 || (d.len % 4 = 0 && decide (d.len ≤ 32) && decide (d.dest < s.ident.variant.engines)))
    && (d.sink ≠ 4 || d.dest ≠ 0) && (d.sink ≠ 5 || decide (4 ≤ d.len))
    && (!d.aliveEn || decide (d.aliveOfs + d.aliveBytes ≤ d.len))
    && (!(d.ipCsum || d.udpCsum) || decide (d.ipOfs + 20 ≤ d.len))

/-- Bytes of the IPv4 header of an assembled buffer. -/
def ihlOf (d : Tpl) (bs : List Byte) : Nat := 4 * bitsAt (beAt bs d.ipOfs 1) 0 4

/-- The checks of R192 on the assembled buffer. -/
def headerOk (d : Tpl) (bs : List Byte) : Bool :=
  let ihl := ihlOf d bs
  let u := d.ipOfs + ihl
  (!(d.ipCsum || d.udpCsum) || (decide (20 ≤ ihl) && decide (u ≤ d.len)))
    && (!d.udpCsum || (decide (u + 8 ≤ d.len) && decide (8 ≤ beAt bs (u + 4) 2) && decide (u + beAt bs (u + 4) 2 ≤ d.len)))

/-- The alive counter advanced and written (R193 step 1). -/
def stepAlive (s : State) (t : Nat) (d : Tpl) (bs : List Byte) : List Byte × State :=
  if d.aliveEn then
    let w := bitsAt d.w3 19 2
    let v := (getF s (F.JCT_ALIVE_VALUE t) + 1) % (if w = 0 then 16 else if w = 2 then 65536 else 256)
    let s := setF s (F.JCT_ALIVE_VALUE t) v
    let new := if w = 0 then [BitVec.ofNat 8 (beAt bs d.aliveOfs 1 / 16 * 16 + v)] else beBytes d.aliveBytes v
    (patchBytes bs d.aliveOfs new, s)
  else (bs, s)

/-- The checksums of an assembled buffer (R193 steps 2 and 3). -/
def sumHeaders (d : Tpl) (bs : List Byte) : List Byte :=
  let ihl := ihlOf d bs
  let u := d.ipOfs + ihl
  let bs :=
    if d.ipCsum then
      let z := patchBytes bs (d.ipOfs + 10) [0, 0]
      patchBytes z (d.ipOfs + 10) (beBytes 2 (0xFFFF - foldSum (onesSum (sliceAt z d.ipOfs ihl))))
    else bs
  if d.udpCsum then
    let len := beAt bs (u + 4) 2
    let z := patchBytes bs (u + 6) [0, 0]
    let sum := 0xFFFF - foldSum (onesSum (sliceAt z (d.ipOfs + 12) 8) + 17 + len + onesSum (sliceAt z u len))
    patchBytes z (u + 6) (beBytes 2 (if sum = 0 then 0xFFFF else sum))
  else bs

/-! ### A run (R179, R180, R187, R188) -/

/-- The assembly buffers of a run: template and contents, in the order opened (R191). -/
abbrev Buffers := List (Nat × List Byte)

/-- The buffer of a template, opened if it is not yet. -/
def bufferOf (s : State) (run : JctRun) (t : Nat) (bufs : Buffers) : List Byte :=
  (assoc t bufs).getD (tplImage s run.tplBank t (readTpl s run.tplBank t))

/-- A buffer's contents replaced. -/
def putBuffer (t : Nat) (bs : List Byte) (bufs : Buffers) : Buffers :=
  if bufs.any (fun p => p.1 = t) then bufs.map (fun p => if p.1 = t then (t, bs) else p) else bufs ++ [(t, bs)]

/-- The lowest error code of R188 that a route meets before it acts; 0 for none. -/
def routeError (s : State) (run : JctRun) (r : Route) (bufs : Buffers) : Nat :=
  let uses := r.pack || r.emit
  let d := readTpl s run.tplBank r.outTpl
  if !r.inSig && (run.kind = 6 || run.kind = 7) then 1
  else if (!r.inSig && r.f32 && r.len ≠ 32) || (r.pack && r.packF32 && r.packLen ≠ 32) then 2
  else if r.change && !r.wrSig then 3
  else if uses && decide (4 ≤ bufs.length) && !bufs.any (fun p => p.1 = r.outTpl) then 4
  else if r.pack && decide (8 * d.len < r.packOfs + r.packLen) then 5
  else if uses && !tplOk s r.outTpl d then 6
  else if r.xform = 3 && decide (127 < r.table) then 7
  else 0

/-- A route error counted and recorded (R188). -/
def noteRouteError (s : State) (route code : Nat) : State :=
  setF (setF (incF s F.JCT_ROUTE_ERR_COUNT) F.JCT_ERR_INFO_ROUTE route) F.JCT_ERR_INFO_CODE code

/-- Whether a result leaves its signal unchanged under CHANGE (R187; log entry 21). -/
def unchanged (s : State) (r : Route) (p : Params) (o : Outcome) : Bool :=
  let st := sigStatus s r.outSig
  r.wrSig && r.change && bitAt st 0 && decide ((o.y - sigValue s r.outSig).natAbs ≤ p.deadband) && !bitAt st 1
    && !bitAt st 2 && bitAt st 3 = o.subst && bitAt st 4 = o.clamped && bitAt st 5 = o.ovf

/-- The value PACK places (R191). -/
def packValue (r : Route) (y : Int) : Nat := if r.packF32 then intToF32 y r.pshift else unsignedOf 64 y

/-- An emission prepared for its sink (R193); a hub in Standby or NotReady discards those to access ports, bus channels
and the ring (R199). -/
def emit (s : State) (run : JctRun) (r : Route) (bs : List Byte) : State :=
  let d := readTpl s run.tplBank r.outTpl
  let (bs, s) := stepAlive s r.outTpl d bs
  let bs := sumHeaders d bs
  if !acting s && (d.sink = 1 || d.sink = 2 || d.sink = 4) then incF s F.JCT_EMIT_SHADOW_COUNT
  else
    let e : Emission := ⟨d.sink, d.dest, BitVec.ofNat 32 d.arg, r.cls, bs, run.kind ≠ 6 && run.kind ≠ 7, run.msg.rxEnd,
      run.routeBank, run.tplBank⟩
    s.withJct { s.jct with emissions := s.jct.emissions ++ [e] }

/-- What one route leaves: the state, the buffers, and whether the list ends by GATE. -/
structure StepOut where
  state : State
  bufs : Buffers
  stop : Bool

/-- The signal write of a valid result (R187). -/
def writeResult (s : State) (r : Route) (o : Outcome) (same : Bool) : State :=
  if !r.wrSig then s else if same then refreshSig s r.outSig else writeSig s r.outSig o.y o.subst o.clamped o.ovf

/-- A valid result packed and emitted; an emission whose assembled header R192 refuses undoes the route (R188 code 6). -/
def passOn (s0 : State) (s : State) (run : JctRun) (route : Nat) (r : Route) (bufs : Buffers) (y : Int) (stop : Bool) :
    StepOut :=
  if r.pack || r.emit then
    let bs := bufferOf s run r.outTpl bufs
    let bs := if r.pack then putField bs r.packOfs r.packLen r.packBe (packValue r y) else bs
    if r.emit && !headerOk (readTpl s run.tplBank r.outTpl) bs then ⟨noteRouteError s0 route 6, bufs, false⟩
    else ⟨if r.emit then emit s run r bs else s, putBuffer r.outTpl bs bufs, stop⟩
  else ⟨s, bufs, stop⟩

/-- The table words that a route's step reads beside its entry (R180, R183, R185, R191). An enumeration is read at its
input alone. -/
def routeReads (run : JctRun) (r : Route) : List (Nat × Nat) :=
  [(paramAddr run.routeBank r.param, 32)]
    ++ (if r.inSig then [(signalAddr r.srcSig, 16)] else [])
    ++ (if r.wrSig && r.change then [(signalAddr r.outSig, 16)] else [])
    ++ (if r.xform = 2 then [(curveAddr r.table, 128)] else [])
    ++ (if r.pack || r.emit then [(templateAddr run.tplBank r.outTpl, 128)] else [])

/-- The read of an enumeration at x (R183). -/
def touchEnum (s : State) (r : Route) (x : Option Int) : State :=
  match x with
  | some v => if r.xform = 3 ∧ 0 ≤ v ∧ v ≤ 255 then eccTouch s (curveAddr 0 + 1024 * r.table + 4 * v.toNat) 4 else s
  | none => s

/-- One valid route without an error (R180 to R187). -/
def doRoute (s0 : State) (run : JctRun) (route : Nat) (r : Route) (bufs : Buffers) : StepOut :=
  let p := readParams s0 run.routeBank r.param
  let (x, s) := if r.inSig then readSig s0 r.srcSig p else (extract r run.msg.bytes, s0)
  let s := touchEnum s r x
  match resultOf s r p x with
  | (none, s) =>
    ⟨if r.wrSig then setSigStatus s r.outSig (withBit (sigStatus s r.outSig) 1 true) else s, bufs, r.gate⟩
  | (some o, s) =>
    let same := unchanged s r p o
    let s := writeResult s r o same
    if same then ⟨s, bufs, r.gate⟩ else passOn s0 s run route r bufs o.y false

/-- One route of a run, with its count and its errors (R179, R188). -/
def stepRoute (s : State) (run : JctRun) (route : Nat) (bufs : Buffers) : StepOut :=
  let r := readRoute s run.routeBank route
  if !r.valid then ⟨s, bufs, false⟩
  else
    let s := incF (touchAll s (routeReads run r)) F.JCT_STEPS_COUNT
    match routeError s run r bufs with
    | 0 => doRoute s run route r bufs
    | code => ⟨noteRouteError s route code, bufs, false⟩

/-- A list from one route on: at most 64 routes (R179). -/
def runList (s : State) (run : JctRun) (route : Nat) (bufs : Buffers) : Nat → State
  | 0 => incF s F.JCT_LIST_LONG_COUNT
  | fuel + 1 =>
    let s := eccTouch s (routeAddr run.routeBank route) 32
    let r := readRoute s run.routeBank route
    let o := stepRoute s run route bufs
    if o.stop || r.last then o.state else runList o.state run r.next o.bufs fuel

/-! ### Pipelines (R179, R189, R190, R197) -/

def pipeOf (s : State) (p : Nat) : Pipeline :=
  match p with
  | 0 => s.jct.pipe0 | 1 => s.jct.pipe1 | 2 => s.jct.pipe2 | _ => s.jct.pipe3

def setPipe (s : State) (p : Nat) (x : Pipeline) : State :=
  match p with
  | 0 => s.withJct { s.jct with pipe0 := x }
  | 1 => s.withJct { s.jct with pipe1 := x }
  | 2 => s.withJct { s.jct with pipe2 := x }
  | _ => s.withJct { s.jct with pipe3 := x }

/-- A message that carries nothing, for timed runs. -/
def noMsg : JctMsg := ⟨0, 0, 0, false, [], 0⟩

/-- A run of key `k` under the banks now active. -/
def makeRun (s : State) (k first kind : Nat) (m : JctMsg) : JctRun :=
  ⟨k, first, kind, m, activeBank s 2, activeBank s 3, s.mono, s.time.cycleNo⟩

/-- The timed key `k` of the active bank: KIND, INST, FIRST and KEY. -/
def readKey (s : State) (k : Nat) : Nat × Nat × Nat × Nat :=
  let a := keyAddr (activeBank s 2) k
  let w := memWord s a
  (bitsAt w 0 3, bitsAt w 3 8, bitsAt w 11 14, memWord s (a + 4))

def jctOn (s : State) : Bool := live s unitJCT && flag s F.JCT_CFG_EN

/-- A timed run queued on its pipeline. -/
def queueTimed (s : State) (k first kind : Nat) : State :=
  let p := pipeOf s (k % 4)
  setPipe s (k % 4) { p with timed := p.timed ++ [makeRun s k first kind noMsg] }

/-- The lists that the cyclic tick of cycle `n` releases (R189). -/
def cyclicTick (s : State) (n : Nat) : State :=
  if jctOn s then
    let s := eccTouch s (keyAddr (activeBank s 2) 0) 2048
    (upTo 256).foldl (fun t k =>
      let (kind, _, first, key) := readKey t k
      if kind = 6 ∧ n % max 1 (bitsAt key 0 16) = bitsAt key 16 16 then queueTimed t k first 6 else t) s
  else s

/-- The lists that a firing of comparator `c` with output 6 releases (R189). -/
def triggerTick (s : State) (c : Nat) : State :=
  if jctOn s then
    let s := eccTouch s (keyAddr (activeBank s 2) 0) 2048
    (upTo 256).foldl (fun t k =>
      let (kind, inst, first, _) := readKey t k
      if kind = 7 ∧ inst = c then queueTimed t k first 7 else t) s
  else s

/-- Timed runs overtaken by a boundary, skipped and counted (R190). -/
def skipTimed (s : State) (p : Nat) : State :=
  let q := pipeOf s p
  let old := q.timed.filter (fun r => r.cycle ≠ s.time.cycleNo)
  let s := setPipe s p { q with timed := q.timed.filter (fun r => r.cycle = s.time.cycleNo) }
  old.foldl (fun t r => incF t (F.JCT_OVR_COUNT r.key)) s

/-- Whether a received run has waited for more than 1 µs (R190). -/
def runLate (s : State) (r : JctRun) : Bool := decide (r.queuedAt + ticksUs < s.mono)

/-- Received runs that are late, discarded and counted (R190). -/
def discardLate (s : State) (p : Nat) : State :=
  let q := pipeOf s p
  addF (setPipe s p { q with received := q.received.filter (fun r => !runLate s r) }) F.JCT_RX_LATE_COUNT
    (q.received.filter (runLate s)).length

/-- The run a pipeline starts next: one of each queue in turn (R190). -/
def takeRun (s : State) (p : Nat) : Option JctRun × State :=
  let q := pipeOf s p
  match q.timed, q.received with
  | t :: ts, r :: rs =>
    if q.timedNext then (some t, setPipe s p { q with timed := ts, timedNext := false })
    else (some r, setPipe s p { q with received := rs, timedNext := true })
  | t :: ts, [] => (some t, setPipe s p { q with timed := ts, timedNext := false })
  | [], r :: rs => (some r, setPipe s p { q with received := rs, timedNext := true })
  | [], [] => (none, s)

/-! ### Lookup (R178) -/

/-- The KEY bits that take part in the lookup of a kind. -/
def comparedKey (kind key : Nat) : Nat := if kind = 1 then bitsAt key 0 30 else if kind = 4 ∨ kind = 5 then 0 else key

/-- The bucket of a message. -/
def jctBucket (kind inst key : Nat) : Nat :=
  64 + crc16 (beBytes 1 kind ++ beBytes 1 inst ++ beBytes 4 (comparedKey kind key)) % 960

/-- Whether key entry `k` of the active bank matches a message. -/
def keyMatches (s : State) (m : JctMsg) (k : Nat) : Bool :=
  let (kind, inst, _, key) := readKey s k
  let fmt := bitsAt key 30 2
  kind = m.kind && inst = m.inst && comparedKey kind key = comparedKey m.kind m.key
    && (kind ≠ 1 || fmt = 0 || (fmt = 1 && !m.fmtFd) || (fmt = 2 && m.fmtFd))

/-- The key entry of a message, if one matches. -/
def lookupMsg (s : State) (m : JctMsg) : Option Nat :=
  let b := jctBucket m.kind m.inst m.key
  (upTo 4).map (fun i => 4 * b + i) |>.find? (keyMatches s m)

/-- A message looked up and its run queued (R178, R190). -/
def acceptMsg (s : State) (m : JctMsg) : State :=
  let s := eccTouch s (keyAddr (activeBank s 2) (4 * jctBucket m.kind m.inst m.key)) 32
  match lookupMsg s m with
  | none => incF s F.JCT_RX_NOKEY_COUNT
  | some k =>
    let s := incF s F.JCT_RX_COUNT
    let (_, _, first, _) := readKey s k
    let p := pipeOf s (k % 4)
    if 64 ≤ p.received.length then incF s F.JCT_RX_LATE_COUNT
    else setPipe s (k % 4) { p with received := p.received ++ [makeRun s k first m.kind m] }

/-- A message offered to the Junction waits for its lookup; while EN is 0 it is discarded (R200). -/
def offerJct (s : State) (m : JctMsg) : State :=
  if jctOn s then s.withJct { s.jct with inbox := s.jct.inbox ++ [m] } else s

/-- A bank of table 2 or 3 holds no queued run and no waiting emission (R197). -/
def jctBankDrained (s : State) (table : Nat) (bank : Bool) : Bool :=
  let runs := (upTo 4).flatMap (fun p => (pipeOf s p).timed ++ (pipeOf s p).received)
  if table = 2 then runs.all (fun r => r.routeBank ≠ bank) && s.jct.emissions.all (fun e => e.routeBank ≠ bank)
  else runs.all (fun r => r.tplBank ≠ bank) && s.jct.emissions.all (fun e => e.tplBank ≠ bank)

/-- What a fence or reset of JCT discards: queued runs, messages, and emissions in progress, which are counted (R370). -/
def stopJunction (s : State) : State :=
  let n := s.jct.emissions.length
  addF (s.withJct Junction.reset) F.JCT_EMIT_FENCED_COUNT n

end Sys2Proof.Machine
end

