-- ==== Sys2Proof/Machine/Arcade.lean ====
section
/-! DEFINITION. Arcade engines and GIO pins (R241 to R269): rows, shifters, FIFOs, the engine clock, states and starts,
pads. The commands that stand for register writes are in Machine/RegRows.lean. -/

namespace Sys2Proof.Machine

/-- Whether the part has engine `e` (R241). -/
def hasEngine (s : State) (e : Nat) : Bool := decide (e < s.ident.variant.engines)

/-- A flag of ARC_ERR set, and its engine (R268). -/
def arcErr (s : State) (f : Fld) (e : Nat) : State := setF (setFlag s f true) F.ARC_ERR_ENGINE e

/-- Armed, Running or Stalled (R255). -/
def EngState.enabled : EngState → Bool
  | .armed => true | .running => true | .stalled => true | .off => false | .halted => false

/-- The code of ARC_Ee_STAT.STATE. -/
def EngState.code : EngState → Nat
  | .off => 0 | .armed => 1 | .running => 2 | .stalled => 3 | .halted => 4

/-! ### Pins (R263 to R265) -/

/-- The GIO of mapped pin `k` of engine `e`; 192 to 255 leave it unmapped. -/
def mappedGio (s : State) (e k : Nat) : Option Nat :=
  let g := bitsAt (getF s (F.ARC_E_PINMAP_GIO e (k / 4))) (8 * (k % 4)) 8
  if g < 192 then some g else none

/-- The mapped pins of an engine as a mask. -/
def mappedMask (s : State) (e : Nat) : Nat :=
  (upTo 8).foldl (fun n k => if (mappedGio s e k).isSome then withBit n k true else n) 0

/-- The level that the owner of GIO `g` gives it: none where nothing drives it (R264, R265). -/
def ownerLevel (s : State) (g : Nat) : Option Bool :=
  if flag s (F.PIN_GIO_CFG_OWNER g) then
    let e := getF s (F.PIN_GIO_CFG_ENGINE g)
    if hasEngine s e then
      match ((upTo 8).filter (fun k => mappedGio s e k = some g)).getLast? with
      | some k => if (engineOf s e).driven.getLsbD k then some ((engineOf s e).out.getLsbD k) else none
      | none => none
    else none
  else some (bitF s (F.PIN_OUT_PINS (g / 32)) (g % 32))

/-- The level that the hub drives at pad `g`: INV applies, open-drain only drives low, and a bank without supply, a
hub out of its working states, and an input drive nothing (R23, R263). -/
def padDrive (s : State) (g : Nat) : Option Bool :=
  let mode := getF s (F.PIN_GIO_CFG_MODE g)
  if !s.dev.unitsOut || !inService s || !flag s (F.PIN_BANK_STAT_PRESENT (g / 32)) || (mode ≠ 1 && mode ≠ 2) then none
  else match ownerLevel s g with
    | some b =>
      let p := b != flag s (F.PIN_GIO_CFG_INV g)
      if mode = 2 && p then none else some p
    | none => none

/-- The level of GIO `g` after INV: what the hub drives, else what the pad last showed (log entry 22). -/
def gioLevel (s : State) (g : Nat) : Bool :=
  (match padDrive s g with
    | some b => b
    | none => s.pins.gioExt.getLsbD g) != flag s (F.PIN_GIO_CFG_INV g)

/-- PIN_INw (R265). -/
def pinIn (s : State) (w : Nat) : Nat :=
  (upTo 32).foldl (fun n i => if gioLevel s (32 * w + i) then withBit n i true else n) 0

/-- A trigger's action on a GIO: output code 3 sets, 4 clears, 5 toggles (R265). Engine-owned pins ignore it. -/
def triggerPin (s : State) (g out : Nat) : State :=
  if live s unitPIN ∧ g < 192 ∧ flag s (F.PIN_GIO_CFG_OWNER g) = false then
    let f := F.PIN_OUT_PINS (g / 32)
    setBitF s f (g % 32) (if out = 3 then true else if out = 4 then false else !bitF s f (g % 32))
  else s

/-! ### FIFOs (R249, R252, R253, R267) -/

def txCap (s : State) (e : Nat) : Nat :=
  let q := getF s (F.ARC_E_CFG_QSPLIT e)
  if q = 1 then 16 else if q = 2 then 0 else 8

def rxCap (s : State) (e : Nat) : Nat :=
  let q := getF s (F.ARC_E_CFG_QSPLIT e)
  if q = 1 then 0 else if q = 2 then 16 else 8

/-- Words into a TX FIFO, all or none (R252). -/
def pushWords (s : State) (e : Nat) (ws : List Word) : Option State :=
  let x := engineOf s e
  if hasEngine s e && decide (x.txf.length + ws.length ≤ txCap s e) then
    let s := s.withFlt (eccMark s.flt (fifoKey e false x.txf.length) (4 * ws.length))
    some (addF (setEngine s e { x with txf := x.txf ++ ws }) (F.ARC_E_TX_WORDS_COUNT e) ws.length)
  else none

/-- With RX_JCT, groups of RX_WORDS + 1 words leave for the Junction as soon as they are complete (R253). -/
def offerWords (s : State) (e : Nat) : Nat → State
  | 0 => s
  | fuel + 1 =>
    let x := engineOf s e
    let n := getF s (F.ARC_E_CFG_RX_WORDS e) + 1
    if flag s (F.ARC_E_CFG_RX_JCT e) && decide (n ≤ x.rxf.length) then
      let (ws, s) := fifoTake s e true (x.rxf.take n)
      let s := setEngine s e { x with rxf := x.rxf.drop n }
      offerWords (offerJct s ⟨4, e, n - 1, false, bytesOfWords ws, s.mono⟩) e fuel
    else s

/-- A word into the RX FIFO (R248, R253): a full one takes none, but in shadow a software-read one drops its
oldest word (R267). -/
def deliverWord (s : State) (e : Nat) (w : Word) : Option State :=
  let x := engineOf s e
  let put (s : State) (rx : List Word) : State :=
    let s := s.withFlt (eccMark s.flt (fifoKey e true rx.length) 4)
    offerWords (incF (setEngine s e { x with rxf := rx ++ [w] }) (F.ARC_E_RX_WORDS_COUNT e)) e 16
  if x.rxf.length < rxCap s e then some (put s x.rxf)
  else if inShadow s = true ∧ flag s (F.ARC_E_CFG_RX_JCT e) = false ∧ 0 < rxCap s e then
    some (put (incF (fifoShift s e true 1) (F.ARC_E_SHADOW_DROP_COUNT e)) (x.rxf.drop 1))
  else none

/-- A TX_PUSH write of `bytes` at `ofs` within the 32 bytes (R251, R252): the state and the completion code. -/
def txPush (s : State) (e ofs : Nat) (bytes : List Byte) : State × Nat :=
  if ofs % 4 ≠ 0 ∨ bytes.length % 4 ≠ 0 ∨ bytes = [] ∨ 32 < ofs + bytes.length then (s, codeALIGN_ERROR)
  else
    let ws := wordsOf 8 bytes
    match pushWords s e ws with
    | some t => (twinNote t (.txPush e ws), codeOK)
    | none => (arcErr s F.ARC_ERR_PUSH_REFUSED e, codeREFUSED_BUSY)

/-- An RX_POP read of `len` bytes at the window (R251): the state, the bytes and the completion code. One that finds the FIFO
empty is carried to the Standby as well (R267). -/
def rxPop (s : State) (e len : Nat) : State × List Byte × Nat :=
  if len ≠ 8 then (s, [], codeALIGN_ERROR)
  else if flag s (F.ARC_E_CFG_RX_JCT e) then (s, [], codeACCESS_DENIED)
  else
    let x := engineOf s e
    match x.rxf with
    | [] => (twinNote s (.rxPop e), List.replicate 8 0, codeOK)
    | w :: ws =>
      let (r, s) := fifoTake s e true [w]
      (twinNote (setEngine s e { x with rxf := ws }) (.rxPop e),
        leBytes 4 (2 ^ 31 + x.rxf.length) ++ leBytes 4 (r.headD w).toNat, codeOK)

def flushTx (s : State) (e : Nat) : State := setEngine s e { engineOf s e with txf := [] }
def flushRx (s : State) (e : Nat) : State := setEngine s e { engineOf s e with rxf := [] }

/-! ### The engine clock (R254) -/

/-- DIV as it acts. -/
def engineDiv (s : State) (e : Nat) : Nat := max 0x100 (getF s (F.ARC_E_CLK_DIV e))

/-- DIV up to the engine clock now due. -/
def dueDiv (s : State) (e : Nat) (x : Engine) : Nat := x.oldDiv.getD (engineDiv s e)

/-- ARC clocks from the accumulator's time to the next engine clock. -/
def clocksToTick (s : State) (e : Nat) (x : Engine) : Nat :=
  if x.force then 1 else max 1 ((dueDiv s e x - x.acc + 255) / 256)

/-- Whether an engine clock is due (an ARC clock is two ticks). -/
def engineClockDue (s : State) (e : Nat) : Bool :=
  let x := engineOf s e
  decide (x.accAt + 2 * clocksToTick s e x ≤ s.mono)

/-- The accumulator after the engine clock that is due. -/
def tickEngine (s : State) (e : Nat) : State :=
  let x := engineOf s e
  let k := clocksToTick s e x
  setEngine s e { x with
    acc := if x.force then 0 else x.acc + 256 * k - dueDiv s e x
    accAt := x.accAt + 2 * k, force := false, oldDiv := none }

/-- The accumulator of a stopped engine, which ran on, brought to the present. -/
def catchUp (s : State) (e : Nat) (x : Engine) : Engine :=
  let k := (s.mono - x.accAt) / 2
  let a := x.acc + 256 * k
  let x := { x with accAt := x.accAt + 2 * k }
  if dueDiv s e x ≤ a then { x with acc := (a - dueDiv s e x) % engineDiv s e, oldDiv := none } else { x with acc := a }

/-! ### States and starts (R255 to R261) -/

/-- The levels of an engine in Off: IDLE (R255, R264). -/
def idlePins (s : State) (e : Nat) : State :=
  let drive := getF s (F.ARC_E_IDLE_DRIVE e) &&& mappedMask s e
  setEngine s e { engineOf s e with
    driven := BitVec.ofNat 8 drive, out := BitVec.ofNat 8 (getF s (F.ARC_E_IDLE_VAL e) &&& drive) }

/-- Buffered loop bounds applied (R261). -/
def applyBounds (s : State) (e : Nat) : State :=
  match (engineOf s e).loopPend with
  | some (a, b) =>
    setF (setF (setEngine s e { engineOf s e with loopPend := none }) (F.ARC_E_CFG_LOOP_START e) a) (F.ARC_E_CFG_LOOP_END e) b
  | none => s

/-- A start (R256): Running, or Armed for START 1 and 2 unless a firing starts it. -/
def startEngine (s : State) (e : Nat) (byFiring : Bool) : State :=
  let s := applyBounds s e
  let start := getF s (F.ARC_E_CFG_START e)
  let armed := (start = 1 || start = 2) && !byFiring
  setEngine s e { engineOf s e with
    state := if armed then .armed else .running
    row := getF s (F.ARC_E_CFG_ENTRY e)
    dsr := 0, gtr := 0, dsrLeft := 0, gtrHave := 0, sbit := false, dirty := false
    x := BitVec.ofNat 32 (getF s (F.ARC_E_XA_VALUE e)), y := BitVec.ofNat 32 (getF s (F.ARC_E_YA_VALUE e))
    acc := 0, accAt := s.mono, force := !armed, oldDiv := none }

/-- A start that an engine in Off ignores (R255, R268). -/
def restartEngine (s : State) (e : Nat) : State :=
  if (engineOf s e).state = .off then s else startEngine s e false

/-- Off (R255). -/
def engineOff (s : State) (e : Nat) : State :=
  idlePins (setEngine s e { engineOf s e with state := .off, dirty := false, loopPend := none, force := false }) e

/-- EN of an engine written: a start at 0 to 1, Off at 0 (R255, R256). Off drops bounds that were still buffered, as
they then apply at once (R261). -/
def setEngineEn (s : State) (e : Nat) (on : Bool) : State :=
  let s := setFlag s (F.ARC_E_CTL_EN e) on
  let st := (engineOf s e).state
  if on then (if st = .off then startEngine s e false else s)
  else if st = .off then s else engineOff (applyBounds s e) e

/-- The engine clock that a start forces passes in an engine that is halted before it: it sets the accumulator, and no row
executes (R254, R260). -/
def passForced (x : Engine) : Engine :=
  if x.force then { x with acc := 0, accAt := x.accAt + 2, force := false, oldDiv := none } else x

/-- HALT (R258). -/
def haltEngine (s : State) (e : Nat) : State :=
  let x := engineOf s e
  if x.state.enabled then setEngine s e { passForced x with state := .halted, haltedFrom := x.state } else s

/-- RESUME (R260). -/
def resumeEngine (s : State) (e : Nat) : State :=
  let x := engineOf s e
  if x.state ≠ .halted then s
  else if x.dirty then arcErr s F.ARC_ERR_RESUME_REFUSED e
  else setEngine s e { catchUp s e x with state := x.haltedFrom }

/-- A write to ARC_Ee_CTL: EN, then RESTART before HALT (R260). -/
def writeEngineCtl (s : State) (e w : Nat) : State :=
  let s := setEngineEn s e (bitAt w 0)
  let s := if bitAt w 4 then flushTx s e else s
  let s := if bitAt w 5 then flushRx s e else s
  let s := if bitAt w 3 then restartEngine s e else s
  let s := if bitAt w 2 then resumeEngine s e else s
  if bitAt w 1 then haltEngine s e else s

/-- A write to ARC_An_RESTART (R256). -/
def restartGroup (s : State) (n w : Nat) : State :=
  (upTo 8).foldl (fun t m => if bitAt w m && hasEngine t (8 * n + m) then restartEngine t (8 * n + m) else t) s

/-- Comparator `k` fires with its output set to Arcade engine start (R257). -/
def fireEngines (s : State) (k : Nat) : State :=
  if live s unitARC then
    (upTo s.ident.variant.engines).foldl (fun t e =>
      let x := engineOf t e
      if getF t (F.ARC_E_SHIFT_TRIG e) ≠ k then t
      else if x.state = .armed then
        setEngine t e { x with state := .running, acc := 0, accAt := t.mono, force := true, oldDiv := none }
      else if getF t (F.ARC_E_CFG_START e) = 2 ∧ (x.state = .running ∨ x.state = .stalled) then startEngine t e true
      else t) s
  else s

/-- The fence of ARC: every engine stops as HALT stops it (R266). -/
def stopEngines (s : State) : State := (upTo s.ident.variant.engines).foldl haltEngine s

/-- The completion of a reset of ARC: every engine is Off and its FIFOs are empty (R266). The registers have been reset
with the unit. -/
def resetEngines (s : State) : State := s.withEngines []

/-! ### Configuration (R259, R261, R262) -/

/-- A write to program bytes of an engine, `off` counted from the start of the unit's window (R259). -/
def writeProgram (s : State) (e off : Nat) (bytes : List Byte) : State × Nat :=
  let x := engineOf s e
  if x.state.enabled then (arcErr s F.ARC_ERR_PROG_BUSY e, codeLOCKED)
  else
    let s := memWrite s (keyOf unitARC off) bytes
    (if x.state = .halted then setEngine s e { x with dirty := true } else s, codeOK)

/-- The loop bounds written (R261). -/
def writeBounds (s : State) (e a b : Nat) : State :=
  let x := engineOf s e
  if x.state = .off then setF (setF s (F.ARC_E_CFG_LOOP_START e) a) (F.ARC_E_CFG_LOOP_END e) b
  else setEngine s e { x with loopPend := some (a, b) }

/-- A word of CFG with its loop bounds replaced. -/
def withBounds (w a b : Nat) : Nat := insertBits (insertBits w 6 6 a) 12 6 b

/-- The word of CFG written apart from the loop bounds, which go their own way: a write of CFG writes them too, whatever values
they have (R261). -/
def writeEngineCfg (s : State) (e w : Nat) : State × Nat :=
  let key := (F.ARC_E_CFG_ENTRY e).key
  let old := (regWord s key).toNat
  let new := withBounds (w % 2 ^ 30) (bitsAt old 6 6) (bitsAt old 12 6)
  let x := engineOf s e
  if x.state.enabled && old != new then (s, codeREFUSED_BUSY)
  else
    let s := setWord s key (BitVec.ofNat 32 new)
    let s := if x.state = .halted ∧ old ≠ new then setEngine s e { engineOf s e with dirty := true } else s
    let s := if bitsAt old 22 2 ≠ bitsAt new 22 2 then flushRx (flushTx s e) e else s
    (offerWords (writeBounds s e (bitsAt w 6 6) (bitsAt w 12 6)) e 16, codeOK)

/-- A write to SHIFT, PINMAP or LUT (R262). -/
def writeEngineFixed (s : State) (e key w : Nat) : State × Nat :=
  let x := engineOf s e
  let changes := regWord s key != BitVec.ofNat 32 w
  if x.state.enabled && changes then (s, codeREFUSED_BUSY)
  else
    let s := setWord s key (BitVec.ofNat 32 w)
    let s := if x.state = .halted ∧ changes = true then setEngine s e { engineOf s e with dirty := true } else s
    (if x.state = .off then idlePins s e else s, codeOK)

/-- A write to CLK (R254): the tick now due keeps the old DIV, and so do those that a stopped engine has let pass. -/
def writeEngineClk (s : State) (e w : Nat) : State :=
  let x := if (engineOf s e).state = .halted then catchUp s e (engineOf s e) else engineOf s e
  let s := setEngine s e { x with oldDiv := some (dueDiv s e x) }
  setWord s (F.ARC_E_CLK_DIV e).key (BitVec.ofNat 32 (w % 2 ^ 24))

/-- A write to the configuration of engine `e` at `off` of its block (R254, R261, R262). -/
def writeEngineConfig (s : State) (e off w : Nat) : State × Nat :=
  let key := keyOf unitARC (0x1000 + 0x80 * e + off)
  if off = 0x04 then writeEngineCfg s e w
  else if off = 0x08 then writeEngineFixed s e key (w % 2 ^ 16)
  else if off = 0x0C ∨ off = 0x10 ∨ (0x28 ≤ off ∧ off < 0x38) then writeEngineFixed s e key w
  else if off = 0x00 then (writeEngineClk s e w, codeOK)
  else if off = 0x14 then
    let s := setWord s key (BitVec.ofNat 32 (w % 2 ^ 16))
    (if (engineOf s e).state = .off then idlePins s e else s, codeOK)
  else (setWord s key (BitVec.ofNat 32 w), codeOK)

/-! ### A row (R242 to R250) -/

/-- The level of mapped pin `k`: an unmapped one reads 0 (R264). -/
def pinLevel (s : State) (e k : Nat) (ext : BitVec 192) : Bool :=
  match mappedGio s e k with
  | some g => ext.getLsbD g != flag s (F.PIN_GIO_CFG_INV g)
  | none => false

def loadBits (s : State) (e : Nat) : Nat := if getF s (F.ARC_E_SHIFT_LOAD_BITS e) = 0 then 32 else getF s (F.ARC_E_SHIFT_LOAD_BITS e)
def deliverBits (s : State) (e : Nat) : Nat :=
  if getF s (F.ARC_E_SHIFT_DELIVER_BITS e) = 0 then 32 else getF s (F.ARC_E_SHIFT_DELIVER_BITS e)

/-- Refill (R247): none when the TX FIFO is empty. -/
def refill (s : State) (e : Nat) : Option State :=
  let x := engineOf s e
  match x.txf with
  | [] => none
  | w :: ws =>
    let (r, s) := fifoTake s e false [w]
    some (setEngine s e { x with txf := ws, dsr := r.headD w, dsrLeft := loadBits s e })

/-- The bit that a send takes from the DSR. -/
def sendBit (s : State) (e : Nat) : State :=
  let x := engineOf s e
  let i := if flag s (F.ARC_E_CFG_SEND_HIGH e) then x.dsrLeft - 1 else loadBits s e - x.dsrLeft
  setEngine s e { x with sbit := x.dsr.getLsbD i, dsrLeft := x.dsrLeft - 1 }

/-- Send (R247). -/
def sendOp (s : State) (e : Nat) : Option State :=
  if (engineOf s e).dsrLeft ≠ 0 then some (sendBit s e)
  else if flag s (F.ARC_E_CFG_AUTO_REFILL e) then (refill s e).map (sendBit · e)
  else some (arcErr (setEngine s e { engineOf s e with sbit := false }) F.ARC_ERR_UFLOW e)

/-- Deliver (R248): the bits at or above GTR_HAVE read as 0. -/
def deliverOp (s : State) (e : Nat) : Option State :=
  let x := engineOf s e
  (deliverWord s e (BitVec.ofNat 32 (x.gtr.toNat % 2 ^ x.gtrHave))).map (fun t =>
    setEngine t e { engineOf t e with gtr := 0, gtrHave := 0 })

/-- Take (R248), with the delivery that AUTO_DELIVER adds. -/
def takeOp (s : State) (e : Nat) (bit : Bool) : Option State :=
  let x := engineOf s e
  if 32 ≤ x.gtrHave then some (arcErr s F.ARC_ERR_OFLOW e)
  else
    let g := if flag s (F.ARC_E_CFG_TAKE_LOW e) then insertBits x.gtr.toNat x.gtrHave 1 (bit01 bit)
      else 2 * x.gtr.toNat + bit01 bit
    let t := setEngine s e { x with gtr := BitVec.ofNat 32 g, gtrHave := x.gtrHave + 1 }
    if flag s (F.ARC_E_CFG_AUTO_DELIVER e) && decide (deliverBits s e ≤ x.gtrHave + 1) then deliverOp t e else some t

/-- The shifter operation of a row: none when the row stalls (R243 step 2, R250). -/
def shifterOp (s : State) (e row : Nat) (ext : BitVec 192) : Option State :=
  let x := engineOf s e
  match bitsAt row 16 3 with
  | 1 => takeOp s e (pinLevel s e (bitsAt row 19 3) ext)
  | 2 => sendOp s e
  | 3 => refill s e
  | 4 => deliverOp s e
  | 5 => some (setEngine s e { x with x := x.dsr, dsrLeft := 0 })
  | 6 => some (setEngine s e { x with y := x.dsr, dsrLeft := 0 })
  | _ => some s

/-- A counter operation (R246). -/
def counterOp (op : Nat) (v a b : Word) : Word :=
  match op with
  | 1 => if v = 0 then 0 else v - 1
  | 2 => a
  | 3 => b
  | _ => v

/-- XOP and YOP of a row. -/
def counters (s : State) (e row : Nat) : State :=
  let x := engineOf s e
  let r (f : Fld) : Word := regWord s f.key
  setEngine s e { x with
    x := counterOp (bitsAt row 24 2) x.x (r (F.ARC_E_XA_VALUE e)) (r (F.ARC_E_XB_VALUE e))
    y := counterOp (bitsAt row 26 2) x.y (r (F.ARC_E_YA_VALUE e)) (r (F.ARC_E_YB_VALUE e)) }

/-- VAL under EN and then PSRC (R243 step 4); writes to unmapped pins are discarded (R264). -/
def drivePins (s : State) (e row : Nat) : State :=
  let x := engineOf s e
  let mask := mappedMask s e
  let en := bitsAt row 8 8 &&& mask
  let out := (x.out.toNat &&& (255 - en)) ||| (bitsAt row 0 8 &&& en)
  let spin := bitsAt row 19 3
  let psrc := bitsAt row 22 2
  let uses := (psrc = 1 || psrc = 2) && bitAt mask spin
  setEngine s e { x with
    out := BitVec.ofNat 8 (if uses then withBit out spin (x.sbit != (psrc = 2)) else out)
    driven := BitVec.ofNat 8 (x.driven.toNat ||| (if uses then withBit en spin true else en)) }

/-- An input of a look-up table (R245). -/
def lutInput (s : State) (e code : Nat) (ext : BitVec 192) : Bool :=
  let x := engineOf s e
  if code < 8 then pinLevel s e code ext
  else match code with
    | 8 => x.x = 0
    | 9 => x.y = 0
    | 10 => x.dsrLeft = 0
    | 11 => decide (deliverBits s e ≤ x.gtrHave)
    | 12 => x.sbit
    | 13 => x.txf.isEmpty
    | 14 => decide (rxCap s e ≤ x.rxf.length)
    | _ => false

/-- The condition of a row (R242, R243 step 5). -/
def rowCondition (s : State) (e row : Nat) (ext : BitVec 192) : Bool :=
  let x := engineOf s e
  let csel := bitsAt row 38 3
  let k := csel % 4
  let c := match bitsAt row 28 3 with
    | 1 => pinLevel s e csel ext
    | 2 => x.x = 0
    | 3 => x.y = 0
    | 4 => x.dsrLeft = 0
    | 5 => decide (deliverBits s e ≤ x.gtrHave)
    | 6 =>
      let i := bit01 (lutInput s e (getF s (F.ARC_E_LUT_IN0 e k)) ext) + 2 * bit01 (lutInput s e (getF s (F.ARC_E_LUT_IN1 e k)) ext)
        + 4 * bit01 (lutInput s e (getF s (F.ARC_E_LUT_IN2 e k)) ext) + 8 * bit01 (lutInput s e (getF s (F.ARC_E_LUT_IN3 e k)) ext)
      bitF s (F.ARC_E_LUT_TABLE e k) i
    | _ => true
  bitsAt row 28 3 ≠ 0 && c != bitAt row 31

/-- The next row (R244), with buffered bounds swapped in at the row at LOOP_END (R261). -/
def nextRow (s : State) (e row : Nat) (hit : Bool) : State :=
  let r := (engineOf s e).row
  let s := if r = getF s (F.ARC_E_CFG_LOOP_END e) then applyBounds s e else s
  let n := if hit then bitsAt row 32 6
    else if r = getF s (F.ARC_E_CFG_LOOP_END e) then getF s (F.ARC_E_CFG_LOOP_START e) else (r + 1) % 64
  setEngine s e { engineOf s e with row := n, state := .running }

/-- The row an engine is at. -/
def rowAddr (s : State) (e : Nat) : Nat := keyOf unitARC (0x10000 + 0x200 * e + 8 * (engineOf s e).row)
def rowWord (s : State) (e : Nat) : Nat := memNat s (rowAddr s e) 8

/-- One row (R243); the stall of R250 changes nothing but the count. -/
def runRow (s : State) (e : Nat) (ext : BitVec 192) : State :=
  let row := rowWord s e
  match shifterOp s e row ext with
  | none =>
    let s := incF s (F.ARC_E_STALL_COUNT e)
    setEngine s e { engineOf s e with state := .stalled }
  | some s =>
    let s := drivePins (counters s e row) e row
    nextRow s e row (rowCondition s e row ext)

/-- ENGINE_ROW_EXECUTE (R243): at an engine clock of a Running or Stalled engine. `ext` holds the pad levels as the
synchroniser delivers them. -/
def execEngineRowExecute (e : Nat) (ext : BitVec 192) (s : State) : Result :=
  .next (
    let x := engineOf s e
    if live s unitARC ∧ hasEngine s e ∧ (x.state = .running ∨ x.state = .stalled) ∧ engineClockDue s e then
      let s := (tickEngine s e).withPins { s.pins with gioExt := ext }
      runRow (eccTouch s (rowAddr s e) 8) e ext
    else s)

/-- The code with which the boundary, or the absence of the engine, answers an access to its FIFOs (R2, R16). -/
def engineCode (s : State) (e : Nat) : Option Nat :=
  match fenceCode s unitARC with
  | some c => some c
  | none => if hasEngine s e then none else some codeUNIT_ABSENT

/-- TX_PUSH (R252). -/
def execTxPush (e ofs : Nat) (bytes : List Byte) (s : State) : Result :=
  .next (
    match engineCode s e with
    | some c => output s (.code c)
    | none =>
      let (s, code) := txPush s e ofs bytes
      output s (.code code))

/-- RX_POP (R251); a read that fails delivers zeros (R441). -/
def execRxPop (e len : Nat) (s : State) : Result :=
  .next (
    match engineCode s e with
    | some c => output s (.read c (List.replicate len 0))
    | none =>
      let (s, bytes, code) := rxPop s e len
      output s (.read code (if code = codeOK then bytes else List.replicate len 0)))

end Sys2Proof.Machine
end

