-- ==== Sys2Proof/Machine/Bus.lean ====
section
/-! DEFINITION. Priority bus channels (R219 to R240): enabling, reception and the filter list, transmit buffers,
errors and bus-off. Rules of ISO 11898-1 that R237 refers to are PRESUMED (log entry 24). -/

namespace Sys2Proof.Machine

/-- Channel states of STAT.STATE (R240). -/
def busOffline : Nat := 0
def busActive : Nat := 1
def busPassive : Nat := 2
def busOff : Nat := 3

/-- Buffer states of TXSTAT.STATE (R233, R240). -/
def bufEmpty : Nat := 0
def bufPending : Nat := 1
def bufActive : Nat := 2
def bufSent : Nat := 3
def bufCancelled : Nat := 4
def bufFormatError : Nat := 5

def hasBus (s : State) (c : Nat) : Bool := decide (c < s.ident.variant.busChannels)

/-- The level of BUSc_STB (R220): low while the channel is enabled in Service or Degraded, else high; none in the states
in which the outputs are high-impedance (R23). -/
def busStb (s : State) (c : Nat) : Option Bool :=
  match s.dev.state with
  | .service | .degraded => some !flag s (F.BUS_CH_CFG_EN c)
  | .starting => some true
  | _ => none

/-- Whether a channel has a filter list (R229). -/
def isPriv (s : State) (c : Nat) : Bool := decide (c < s.ident.variant.busPriv)

/-- Restricted operation (R239). -/
def restricted (s : State) (c : Nat) : Bool := flag s (F.BUS_CH_CFG_LISTEN c) || !acting s

/-- Whether a channel takes part on its bus. -/
def busOn (s : State) (c : Nat) : Bool :=
  live s unitBUS && hasBus s c && flag s (F.BUS_CH_CFG_EN c)
    && (getF s (F.BUS_CH_STAT_STATE c) = busActive || getF s (F.BUS_CH_STAT_STATE c) = busPassive)

/-- The message RAM of a channel (R224). -/
def busRam (c : Nat) : Nat := keyOf unitBUS (0x00100000 + 0x4000 * c)
def bufAddr (c b : Nat) : Nat := busRam c + 0x48 * b

/-! ### Timing and enabling (R222) -/

/-- Quanta of 12.5 ns in a nominal and in a data-phase bit. -/
def nominalBit (s : State) (c : Nat) : Nat :=
  (getF s (F.BUS_CH_NBT_BRP c) + 1) * (3 + getF s (F.BUS_CH_NBT_TSEG1 c) + getF s (F.BUS_CH_NBT_TSEG2 c))
def dataBit (s : State) (c : Nat) : Nat :=
  (getF s (F.BUS_CH_DBT_DBRP c) + 1) * (3 + getF s (F.BUS_CH_DBT_DTSEG1 c) + getF s (F.BUS_CH_DBT_DTSEG2 c))

/-- NB, which exists on privileged channels only (R224). -/
def ringB (s : State) (c : Nat) : Nat := if isPriv s c then getF s (F.BUS_CH_RXCFG_NB c) else 0

/-- Whether R222 refuses EN = 1 with ESIZE `esize`. -/
def badTiming (s : State) (c : Nat) (esize : Bool) : Bool :=
  decide (nominalBit s c < 80) || decide (dataBit s c < 10) || decide (nominalBit s c < dataBit s c)
    || decide (getF s (F.BUS_CH_NBT_TSEG1 c) < getF s (F.BUS_CH_NBT_SJW c))
    || decide (getF s (F.BUS_CH_NBT_TSEG2 c) < getF s (F.BUS_CH_NBT_SJW c))
    || decide (getF s (F.BUS_CH_DBT_DTSEG1 c) < getF s (F.BUS_CH_DBT_DSJW c))
    || decide (getF s (F.BUS_CH_DBT_DTSEG2 c) < getF s (F.BUS_CH_DBT_DSJW c))
    || decide ((if esize then 195 else 880) < getF s (F.BUS_CH_RXCFG_NA c) + ringB s c)

/-- Whether a channel may be at a frame boundary (R78): it sends no frame. -/
def busBoundary (s : State) (c : Nat) : Bool := (busCh s c).active.isNone

/-- Whether a channel is surely at a frame boundary: it takes no part in the bus. The frames of other nodes in reception
are not held, so a channel that is on waits for the end of a frame, or for FB_COMMIT (log entry 23). -/
def busIdle (s : State) (c : Nat) : Bool := !busOn s c && busBoundary s c

/-- A word of CFG takes effect: EN set, the channel integrates; EN cleared, it is off and its buffers stay (R234,
R240). -/
def applyBusCfg (s : State) (c : Nat) (w : Word) : State :=
  let key := (F.BUS_CH_CFG_EN c).key
  let was := flag s (F.BUS_CH_CFG_EN c)
  let s := setWord s key w
  if was = w.getLsbD 0 then s
  else if getF s (F.BUS_CH_STAT_STATE c) = busOff then s
  else setF s (F.BUS_CH_STAT_STATE c) busOffline

/-- The pending value of a channel's CFG applied at a frame boundary (R78). -/
def commitBus (s : State) (c : Nat) : State :=
  let key := (F.BUS_CH_CFG_EN c).key
  match assoc key s.pendFb with
  | some (_, w) => if busBoundary s c then applyBusCfg (s.withPendFb (erase key s.pendFb)) c w else s
  | none => s

/-- A write of CFG (R78, R222, R240): AUTO_RECOVER at once, the other fields at the next frame boundary. -/
def writeBusCfg (s : State) (c w : Nat) : State × Nat :=
  let key := (F.BUS_CH_CFG_EN c).key
  let w := w % 2 ^ 8
  let old := (regWord s key).toNat
  let cur := match assoc key s.pendFb with
    | some (_, p) => p.toNat
    | none => old
  if bitAt w 0 && badTiming s c (bitAt w 6) then (setFlag s (F.BUS_CH_STAT_TIMING_BAD c) true, codeREFUSED_BUSY)
  else if bitAt old 0 && bitAt cur 6 != bitAt w 6 then (s, codeREFUSED_BUSY)
  else
    let s := setFlag s (F.BUS_CH_CFG_AUTO_RECOVER c) (bitAt w 5)
    let t := s.withPendFb (put key (BitVec.ofNat 32 0xDF, BitVec.ofNat 32 w) s.pendFb)
    (if busIdle t c then commitBus t c else t, codeOK)

/-- A write of NBT, DBT or RXCFG, refused while EN = 1 (R222). -/
def writeBusFixed (s : State) (c key : Nat) (w : Word) : State × Nat :=
  if flag s (F.BUS_CH_CFG_EN c) then (s, codeREFUSED_BUSY)
  else
    let w := if key = (F.BUS_CH_RXCFG_NA c).key ∧ isPriv s c = false then BitVec.ofNat 32 (insertBits w.toNat 16 10 0) else w
    (setWord s key w, codeOK)

/-! ### Transmit buffers (R232 to R236) -/

def bufState (s : State) (c b : Nat) : Nat := getF s (F.BUS_CH_TXSTAT_STATE c b)
def bufLive (s : State) (c b : Nat) : Bool := bufState s c b = bufPending || bufState s c b = bufActive

/-- TXAGEb (R235). -/
def bufAge (s : State) (c b : Nat) : Nat :=
  if bufLive s c b then (tb2Us s + 2 ^ 32 - (assoc b (busCh s c).ageStart).getD (tb2Us s)) % 2 ^ 32
  else getF s (F.BUS_CH_TXAGE_AGE_US c b)

/-- The next delta tells of a buffer, whatever it goes back to before the cycle ends (R328). -/
def noteBuf (s : State) (c b : Nat) : State :=
  let ch := busCh s c
  if ch.changed.contains b then s else setBusCh s c { ch with changed := b :: ch.changed }

/-- A buffer's state. -/
def setBufState (s : State) (c b st : Nat) : State := noteBuf (setF s (F.BUS_CH_TXSTAT_STATE c b) st) c b

/-- A buffer becomes Pending from a state other than Active (R233). -/
def requestBuf (s : State) (c b : Nat) : State :=
  if bufLive s c b then s
  else
    let s := noteBuf (setWord s (F.BUS_CH_TXSTAT_STATE c b).key (BitVec.ofNat 32 bufPending)) c b
    let s := setBitF s (F.BUS_CH_TXREQ_BUFS c) b true
    setBusCh s c { busCh s c with ageStart := put b (tb2Us s) (busCh s c).ageStart }

/-- A buffer leaves Pending or Active for good: AGE is frozen, its request bits clear, it is no longer starved. -/
def leaveBuf (s : State) (c b st : Nat) : State :=
  let s := setF s (F.BUS_CH_TXAGE_AGE_US c b) (bufAge s c b)
  let s := setBusCh s c { busCh s c with ageStart := erase b (busCh s c).ageStart }
  let s := setFlag (setBufState s c b st) (F.BUS_CH_TXSTAT_STARVED c b) false
  setBitF (setBitF s (F.BUS_CH_TXREQ_BUFS c) b false) (F.BUS_CH_TXCAN_BUFS c) b false

/-- A write of TXREQ (R233, R236). -/
def writeTxReq (s : State) (c w : Nat) : State × Nat :=
  if flag s (F.BUS_CH_CFG_JTX c) && bitAt w 31 then (s, codeREFUSED_BUSY)
  else ((upTo 32).foldl (fun t b => if bitAt w b then requestBuf t c b else t) s, codeOK)

/-- A TXCAN bit (R233): a Pending buffer is cancelled, an Active one when its attempt fails; there is nothing to cancel
in any other state. -/
def cancelBuf (s : State) (c b : Nat) : State :=
  if bufState s c b = bufPending then leaveBuf s c b bufCancelled
  else if bufState s c b = bufActive then setBitF s (F.BUS_CH_TXCAN_BUFS c) b true
  else s

/-- A write of TXCAN (R233, R236). -/
def writeTxCan (s : State) (c w : Nat) : State × Nat :=
  if flag s (F.BUS_CH_CFG_JTX c) && bitAt w 31 then (s, codeREFUSED_BUSY)
  else ((upTo 32).foldl (fun t b => if bitAt w b then cancelBuf t c b else t) s, codeOK)

/-- The lengths of FD frames. -/
def fdLength (n : Nat) : Bool := decide (n ≤ 8) || [12, 16, 20, 24, 32, 48, 64].contains n

/-- The frame in a transmit buffer (R232). -/
def bufFrame (s : State) (c b : Nat) : CanFrame :=
  let w0 := memWord s (bufAddr c b)
  let w1 := memWord s (bufAddr c b + 4)
  let n := bitsAt w1 0 7
  let ide := bitAt w0 29
  { id := BitVec.ofNat 29 (if ide then bitsAt w0 0 29 else bitsAt w0 0 11)
    ide := ide, rtr := bitAt w0 30, fdf := bitAt w1 7, brs := bitAt w1 8
    esi := getF s (F.BUS_CH_STAT_STATE c) = busPassive, len := n
    data := if bitAt w0 30 then [] else memRead s (bufAddr c b + 8) (min n 64) }

/-- The format checks of R233. -/
def frameFits (s : State) (c : Nat) (f : CanFrame) : Bool :=
  if f.fdf then fdLength f.len && flag s (F.BUS_CH_CFG_FD_EN c) && !f.rtr else decide (f.len ≤ 8)

/-- The order of R234 as one number: base identifier, format, extension, remote frame, buffer. -/
def arbKey (f : CanFrame) (b : Nat) : Nat :=
  let base := if f.ide then bitsAt f.id.toNat 18 11 else bitsAt f.id.toNat 0 11
  let ext := if f.ide then bitsAt f.id.toNat 0 18 else 0
  (((base * 2 + bit01 f.ide) * 2 ^ 18 + ext) * 2 + bit01 f.rtr) * 32 + b

/-- The buffer of a channel's Pending ones that would win arbitration. -/
def bestBuf (s : State) (c : Nat) : Option Nat :=
  ((upTo 32).filter (fun b => bufState s c b = bufPending)).foldl (fun m b => match m with
    | none => some b
    | some a => if arbKey (bufFrame s c b) b < arbKey (bufFrame s c a) a then some b else some a) none

/-- The reads of a channel's Pending buffers, of which an arbitration compares identifiers and formats. -/
def touchPending (s : State) (c : Nat) : State :=
  ((upTo 32).filter (fun b => bufState s c b = bufPending)).foldl (fun t b => eccTouch t (bufAddr c b) 8) s

/-- The choice at an arbitration (R234): a frame that fails the checks becomes FormatError and the choice goes on. -/
def chooseBuf (s : State) (c : Nat) : Nat → State
  | 0 => s
  | fuel + 1 =>
    match bestBuf s c with
    | none => s
    | some b =>
      if frameFits s c (bufFrame s c b) then
        let s := setBufState s c b bufActive
        let s := incSat s (F.BUS_CH_TXSTAT_ATTEMPTS c b)
        setBusCh s c { busCh s c with active := some b }
      else chooseBuf (incF (leaveBuf s c b bufFormatError) (F.BUS_CH_TX_FMT_COUNT c)) c fuel

/-- Junction content written to buffer 31 (R236). -/
def writeJtx (s : State) (c : Nat) (j : JtxWait) : State :=
  let a := j.arg.toNat
  let w0 := bitsAt a 0 30
  let w1 := j.bytes.length + 128 * bit01 (bitAt a 30) + 256 * bit01 (bitAt a 31)
  memWrite (noteBuf s c 31) (bufAddr c 31) (leBytes 4 w0 ++ leBytes 4 w1 ++ padTo 64 j.bytes)

/-- A Junction emission to channel `c` (R194, R236): content not yet sent that it replaces is counted. -/
def emitToBus (s : State) (c : Nat) (j : JtxWait) : State :=
  if !hasBus s c then incF s (F.BUS_CH_JTX_DROP_COUNT 0)
  else if !flag s (F.BUS_CH_CFG_EN c) || !flag s (F.BUS_CH_CFG_JTX c) then incF s (F.BUS_CH_JTX_DROP_COUNT c)
  else
    let st := bufState s c 31
    if st = bufPending then incF (writeJtx s c j) F.JCT_BUS_REPLACED_COUNT
    else if st = bufActive then
      let s := if (busCh s c).jtxWait.isSome then incF s F.JCT_BUS_REPLACED_COUNT else s
      setBusCh s c { busCh s c with jtxWait := some j }
    else requestBuf (writeJtx s c j) c 31

/-- What the content waiting for buffer 31 does when an attempt ends (R236): it becomes Pending as a fresh entry, or replaces what
the buffer, Pending again, has not sent. -/
def releaseJtx (s : State) (c : Nat) : State :=
  match (busCh s c).jtxWait with
  | some j =>
    let s := writeJtx (setBusCh s c { busCh s c with jtxWait := none }) c j
    if bufState s c 31 = bufPending then incF s F.JCT_BUS_REPLACED_COUNT else requestBuf s c 31
  | none => s

/-- An attempt fails (R233): the buffer is Cancelled if TXCAN asks for it, else Pending again. -/
def failAttempt (s : State) (c b : Nat) : State :=
  let s := setBusCh s c { busCh s c with active := none }
  let s := if bitF s (F.BUS_CH_TXCAN_BUFS c) b then leaveBuf s c b bufCancelled else setBufState s c b bufPending
  if b = 31 then releaseJtx s c else s

/-- The attempt in progress fails, if there is one. -/
def failActive (s : State) (c : Nat) : State :=
  match (busCh s c).active with
  | some b => failAttempt s c b
  | none => s

/-! ### Error confinement (R237, R238) -/

/-- Bus-off (R237): the frame in progress ends, Active buffers are left Pending, the fault is reported, recovery starts
with AUTO_RECOVER. -/
def enterBusOff (s : State) (c : Nat) : State :=
  let s := failActive s c
  let s := setBusCh s c { busCh s c with recovering := flag s (F.BUS_CH_CFG_AUTO_RECOVER c) }
  let s := incF (setF s (F.BUS_CH_STAT_STATE c) busOff) (F.BUS_CH_BUSOFF_COUNT c)
  recordFault s fltBusOff unitBUS (BitVec.ofNat 32 c) (BitVec.ofNat 32 (getF s (F.BUS_CH_STAT_TEC c)))

/-- The state that TEC and REC put a channel in. -/
def settleBus (s : State) (c : Nat) : State :=
  let t := getF s (F.BUS_CH_STAT_TEC c)
  if 255 < t then enterBusOff s c
  else setF s (F.BUS_CH_STAT_STATE c) (if 127 < t ∨ 127 < getF s (F.BUS_CH_STAT_REC c) then busPassive else busActive)

/-- TEC raised, up to 256. -/
def raiseTec (s : State) (c n : Nat) : State := setF s (F.BUS_CH_STAT_TEC c) (min 256 (getF s (F.BUS_CH_STAT_TEC c) + n))

/-- REC raised, up to 255. -/
def raiseRec (s : State) (c n : Nat) : State := setF s (F.BUS_CH_STAT_REC c) (min 255 (getF s (F.BUS_CH_STAT_REC c) + n))

/-- REC after a frame received without error: one less, or a value from 119 to 127 that ISO 11898-1 leaves open. -/
def lowerRec (s : State) (c : Nat) : State :=
  let r := getF s (F.BUS_CH_STAT_REC c)
  if 127 < r then
    let (v, s) := draw s
    setF s (F.BUS_CH_STAT_REC c) (119 + v.toNat % 9)
  else setF s (F.BUS_CH_STAT_REC c) (r - 1)

/-- The code of STAT.LEC. -/
def lecCode : CanErr → Nat
  | .stuff => 1 | .form => 2 | .ack => 3 | .bit1 => 4 | .bit0 => 5 | .crc => 6 | .protocolException => 7

/-- A protocol exception with PXE = 1: no error is counted and the channel integrates anew (R219). -/
def protocolException (s : State) (c : Nat) : State :=
  setF (setF (failActive s c) (F.BUS_CH_STAT_LEC c) 7) (F.BUS_CH_STAT_STATE c) busOffline

/-- What an error adds to TEC at a transmitter (R237; log entry 24). -/
def tecStep (passive : Bool) (kind : CanErr) (place : CanPlace) : Nat :=
  if (passive && kind = .ack && place != .afterFlag) || (kind = .stuff && place = .arbitration) then 0 else 8

/-- What an error adds to REC at a receiver. -/
def recStep : CanPlace → Nat
  | .frame => 1 | .arbitration => 1 | .flag => 8 | .afterFlag => 9 | .run => 8

/-- A protocol error (R237). Dominant bits that go on after a flag raise a counter and are no error of their own. -/
def busErrorOp (s : State) (c : Nat) (kind : CanErr) (transmitting : Bool) (place : CanPlace) : State :=
  let kind := if kind = .protocolException then .form else kind
  let passive : Bool := getF s (F.BUS_CH_STAT_STATE c) = busPassive
  let s := if place = .run then s
    else incF (setF s (F.BUS_CH_STAT_LEC c) (lecCode kind))
      (if transmitting then F.BUS_CH_ERR_TX_COUNT c else F.BUS_CH_ERR_RX_COUNT c)
  settleBus (if restricted s c then s
    else if transmitting then raiseTec s c (tecStep passive kind place) else raiseRec s c (recStep place)) c

/-- A write of 1 to CTL.RECOVER (R238); outside bus-off there is nothing to recover and it clears at once. -/
def recoverBus (s : State) (c : Nat) : State :=
  if getF s (F.BUS_CH_STAT_STATE c) = busOff then
    setFlag (setBusCh s c { busCh s c with recovering := true }) (F.BUS_CH_CTL_RECOVER c) true
  else s

/-! ### Attempts (R223, R228, R233, R236) -/

/-- The measured transmitter delay of an FD frame sent with TDC_EN (R223); its value is not stated (log entry 8). -/
def measureTdc (s : State) (c : Nat) (f : CanFrame) : State :=
  if f.fdf && flag s (F.BUS_CH_DBT_TDC_EN c) then
    setF (s.withFresh (s.fresh + 1)) (F.BUS_CH_STAT_TDC_MEAS c) (Config.tdcMeasured s.fresh).toNat
  else s

/-- A receive notice (R228). -/
def busNote (s : State) (c kind : Nat) (ringB : Bool) (idx word prio : Nat) : State :=
  produceCounted s (getF s (F.BUS_CH_NOTE_QUEUE c)) 0x03 prio
    (leBytes 4 (c + 16 * kind + 64 * bit01 ringB + 65536 * idx) ++ leBytes 4 word)

/-- The end of an attempt (R233, R237). -/
def endAttempt (s : State) (c b : Nat) (how : TxEnd) : State :=
  let s := eccTouch s (bufAddr c b) 72
  let f := bufFrame s c b
  match how with
  | .sent =>
    let s := measureTdc (setBusCh s c { busCh s c with active := none }) c f
    let s := incF (leaveBuf s c b bufSent) (F.BUS_CH_TX_FRAMES_COUNT c)
    let s := setF s (F.BUS_CH_STAT_TEC c) (getF s (F.BUS_CH_STAT_TEC c) - 1)
    let s := output s (.can c f)
    settleBus (if b = 31 then releaseJtx s c else s) c
  | .arbLost => failAttempt (incF s (F.BUS_CH_ARB_LOST_COUNT c)) c b
  | .error => failAttempt (measureTdc s c f) c b

/-- A write to a channel's window: transmit buffers that are Pending or Active, and buffer 31 with JTX, refuse it
(R233, R236). `off` counts from the channel's message RAM. -/
def writeBusRam (s : State) (c off : Nat) (bytes : List Byte) : State × Nat :=
  let touched := (upTo 32).filter (fun b => decide (off < 0x48 * (b + 1)) && decide (0x48 * b < off + bytes.length))
  if touched.any (fun b => bufLive s c b || (b = 31 && flag s (F.BUS_CH_CFG_JTX c))) then (s, codeREFUSED_BUSY)
  else (memWrite s (busRam c + off) bytes, codeOK)

/-! ### Reception (R225 to R231) -/

/-- A filter element's flags, if it matches identifier `id` of the frame's format (R230). -/
def matchElement (s : State) (a : Nat) (f : CanFrame) : Option (Option Nat) :=
  let w0 := memWord s a
  let m := if f.ide then 2 ^ 29 else 2 ^ 11
  let id := f.id.toNat % m
  let x := memWord s (a + 4) % m
  let y := memWord s (a + 8) % m
  let z := memWord s (a + 12) % m
  let hit := match bitsAt w0 0 2 with
    | 1 => decide (x ≤ id) && decide (id ≤ x + y)
    | 2 => id = x || id = y || id = z
    | 3 => (id ^^^ x) &&& y = 0
    | _ => false
  if bitsAt w0 0 2 = 0 then none else some (if bitAt w0 2 = f.ide && hit then some (bitsAt w0 3 4) else none)

/-- The first matching element of a bank from element `e` on: index and flags. -/
def scanFilter (s : State) (base : Nat) (f : CanFrame) : Nat → Nat → Option (Nat × Nat)
  | 0, _ => none
  | fuel + 1, e =>
    match matchElement s (base + 16 * e) f with
    | none => none
    | some (some flags) => some (e, flags)
    | some none => scanFilter s base f fuel (e + 1)

/-- The bank a frame is classified by whose identifier had been received `idAge` ticks ago: the one active then. A flip since then
leaves the older bank draining until that frame has been stored or discarded (R230). -/
def filterBank (s : State) (c idAge : Nat) : Bool :=
  activeBank s (4 + c) != (bitF s F.SYS_EPOCH_STAT_DRAINING (4 + c) && decide (s.mono < (busCh s c).flipAt + idAge))

/-- The elements of a bank that the scan for a frame reads: those up to the one that matches or ends it (R230). -/
def scanLength (s : State) (base : Nat) (f : CanFrame) : Nat → Nat → Nat
  | 0, _ => 0
  | fuel + 1, e =>
    match matchElement s (base + 16 * e) f with
    | some none => 1 + scanLength s base f fuel (e + 1)
    | _ => 1

/-- The filter elements read for a frame. -/
def touchFilter (s : State) (c : Nat) (f : CanFrame) (idAge : Nat) : State :=
  if isPriv s c then
    let base := keyOf unitBUS (0x8000 + 0x4000 * c + 0x2000 * bit01 (filterBank s c idAge))
    eccTouch s base (16 * scanLength s base f 512 0)
  else s

/-- The action of a frame: bank, match, element and flags (R227, R230, R231). -/
def frameAction (s : State) (c : Nat) (f : CanFrame) (idAge : Nat) : Nat × Nat × Nat × Nat :=
  if isPriv s c then
    let bank := bit01 (filterBank s c idAge)
    match scanFilter s (keyOf unitBUS (0x8000 + 0x4000 * c + 0x2000 * bank)) f 512 0 with
    | some (e, flags) => (bank, 1, e, flags)
    | none => (bank, 0, 0, if f.ide then getF s (F.BUS_CH_FLT_NOMATCH_EXT c) else getF s (F.BUS_CH_FLT_NOMATCH_STD c))
  else (0, 0, 0, 1 + 4 * bit01 (flag s (F.BUS_CH_CFG_JCT_EN c)))

/-- Word 0 of a receive entry. -/
def entryWord0 (f : CanFrame) : Nat := f.id.toNat + 2 ^ 29 * bit01 f.ide + 2 ^ 30 * bit01 f.rtr

/-- A frame into ring A or B: the entry's index if it is stored (R225, R226). -/
def storeEntry (s : State) (c : Nat) (f : CanFrame) (b jct : Bool) (bank hit elem : Nat) : State × Option Nat :=
  let esz := if flag s (F.BUS_CH_CFG_ESIZE c) then 72 else 16
  let na := getF s (F.BUS_CH_RXCFG_NA c)
  let size := if b then ringB s c else na
  let wrF := if b then F.BUS_CH_RXB_WR c else F.BUS_CH_RXA_WR c
  let rd := getF s (if b then F.BUS_CH_RXB_RD c else F.BUS_CH_RXA_RD c)
  let rd := if size ≤ rd then 0 else rd
  let wr := getF s wrF % max 1 size
  let ch := busCh s c
  if size = 0 ∨ (wr + 1) % size = rd then
    let s := incF s (if b then F.BUS_CH_RX_OVF_B_COUNT c else F.BUS_CH_RX_OVF_A_COUNT c)
    (setBusCh s c (if b then { ch with lostB := true } else { ch with lostA := true }), none)
  else
    let lost := if b then ch.lostB else ch.lostA
    let data := if f.rtr then [] else padTo f.len f.data
    let w1 := f.len % 128 + 128 * bit01 f.fdf + 256 * bit01 f.brs + 512 * bit01 f.esi
      + 1024 * bit01 (decide (esz - 8 < data.length)) + 2048 * bit01 jct + 4096 * bank + 8192 * hit + 16384 * elem
      + 2 ^ 23 * bit01 lost + 2 ^ 24 * ch.rxSeq
    let at_ := busRam c + 0x900 + esz * (if b then na + wr else wr)
    let s := memWrite s at_ (leBytes 4 (entryWord0 f) ++ leBytes 4 w1 ++ padTo (esz - 8) data)
    let s := setBusCh s c (if b then { ch with lostB := false } else { ch with lostA := false })
    (setF s wrF ((wr + 1) % size), some wr)

/-- A valid frame (R227): counted, filtered, stored, offered to the Junction and noticed. -/
def receiveCan (s : State) (c : Nat) (f : CanFrame) (idAge : Nat) : State :=
  let s := incF s (F.BUS_CH_RX_FRAMES_COUNT c)
  let s := setBusCh s c { busCh s c with rxSeq := ((busCh s c).rxSeq + 1) % 256 }
  let s := if restricted s c then s else settleBus (lowerRec s c) c
  let s := touchFilter s c f idAge
  let (bank, hit, elem, act) := frameAction s c f idAge
  let store := bitAt act 0
  let ringB := store && bitAt act 1
  let jct := bitAt act 2 && !f.rtr
  let s := if !store && !jct then incF s (F.BUS_CH_FLT_REJECT_COUNT c) else s
  let (s, idx) := if store then storeEntry s c f ringB jct bank hit elem else (s, none)
  let s := if jct then
      offerJct s ⟨1, c, f.id.toNat + 2 ^ 29 * bit01 f.ide, f.fdf, padTo f.len f.data, s.mono⟩
    else s
  match idx with
  | some i =>
    let s := if flag s (F.BUS_CH_NOTE_ALL c) then busNote s c 0 ringB i (entryWord0 f) (getF s (F.BUS_CH_NOTE_PRIO c)) else s
    if bitAt act 3 then busNote s c 1 ringB i (entryWord0 f) (getF s (F.BUS_CH_NOTE_PPRIO c)) else s
  | none => s

/-! ### Starvation (R235) -/

/-- Whether a buffer is starved: Pending or Active with AGE at or above STARVE_US. -/
def starved (s : State) (c b : Nat) : Bool :=
  let limit := getF s (F.BUS_CH_STARVE_STARVE_US c)
  bufLive s c b && limit != 0 && decide (limit ≤ bufAge s c b)

/-- STARVED of a buffer as it is; where it goes to 1, the buffer is marked, counted and noticed. -/
def checkStarved (s : State) (c b : Nat) : State :=
  let was := flag s (F.BUS_CH_TXSTAT_STARVED c b)
  let now := starved s c b
  let s := setFlag s (F.BUS_CH_TXSTAT_STARVED c b) now
  if now && !was then
    let s := incF (setBitF s (F.BUS_CH_STARVE_SEEN_BUFS c) b true) (F.BUS_CH_STARVE_CNT_COUNT c)
    if flag s (F.BUS_CH_NOTE_STARVE c) then
      busNote s c 2 false b (memWord s (bufAddr c b)) (getF s (F.BUS_CH_NOTE_PPRIO c))
    else s
  else s

/-- A new STARVE_US seen by every buffer of a channel. -/
def writeStarve (s : State) (c : Nat) (w : Word) : State :=
  (upTo 32).foldl (fun t b => checkStarved t c b) (setWord s (F.BUS_CH_STARVE_STARVE_US c).key w)

/-! ### Commands -/

/-- BUS_CHANNEL_ENABLE (R222): a write of CFG with EN = 1. -/
def execBusChannelEnable (c : Nat) (w : Word) (s : State) : Result :=
  .next (
    if live s unitBUS ∧ hasBus s c then
      let v := withBit w.toNat 0 true
      let (s, code) := noteWrite unitBUS (0x400 * c) v (writeBusCfg s c v)
      output s (.code code)
    else s)

/-- BUS_CHANNEL_DISABLE (R234): a write of CFG with EN = 0 and the other fields as they are. -/
def execBusChannelDisable (c : Nat) (s : State) : Result :=
  .next (
    if live s unitBUS ∧ hasBus s c then
      let v := withBit (regWord s (F.BUS_CH_CFG_EN c).key).toNat 0 false
      let (s, code) := noteWrite unitBUS (0x400 * c) v (writeBusCfg s c v)
      output s (.code code)
    else s)

/-- An error on the bus as a channel meets it (R237): in restricted operation it sends no error frame. -/
def meetError (s : State) (c : Nat) (kind : CanErr) (transmitting : Bool) (place : CanPlace) : State :=
  busErrorOp (if restricted s c || place = .run then s else output s (.canError c)) c kind transmitting place

/-- BUS_FRAME_RECEIVE (R227). An FD frame is an error to a classical-only channel
(R221), taken as a form error (log entry 24). The frame's end is a frame boundary (R78). -/
def execBusFrameReceive (c : Nat) (rx : CanRx) (s : State) : Result :=
  .next (
    if busOn s c ∧ rx.frame.len ≤ 64 then
      commitBus (if rx.frame.fdf && !flag s (F.BUS_CH_CFG_FD_EN c) then meetError s c .form false .frame
        else receiveCan s c rx.frame rx.idAge) c
    else s)

/-- TX_REQUEST (R233). -/
def execTxRequest (c : Nat) (bufs : Word) (s : State) : Result :=
  .next (
    if live s unitBUS ∧ hasBus s c then
      let (s, code) := noteWrite unitBUS (0x400 * c + 0x30) bufs.toNat (writeTxReq s c bufs.toNat)
      output s (.code code)
    else s)

/-- TX_CANCEL (R233). -/
def execTxCancel (c : Nat) (bufs : Word) (s : State) : Result :=
  .next (
    if live s unitBUS ∧ hasBus s c then
      let (s, code) := noteWrite unitBUS (0x400 * c + 0x34) bufs.toNat (writeTxCan s c bufs.toNat)
      output s (.code code)
    else s)

/-- BUS_ARBITRATION (R234). -/
def execBusArbitration (c : Nat) (s : State) : Result :=
  .next (if busOn s c ∧ restricted s c = false ∧ (busCh s c).active.isNone then chooseBuf (touchPending s c) c 32 else s)

/-- TX_ATTEMPT_END (R233); the frame's end is a frame boundary, but a lost arbitration leaves the winner's frame in
progress (R78). A fenced unit lets the frame in progress end (R370). -/
def execTxAttemptEnd (c : Nat) (how : TxEnd) (s : State) : Result :=
  .next (
    match (busCh s c).active with
    | some b =>
      let s := endAttempt s c b how
      if how = .arbLost then s else commitBus s c
    | none => s)

/-- BUS_ERROR (R237). -/
def execBusError (c : Nat) (kind : CanErr) (transmitting : Bool) (place : CanPlace) (s : State) : Result :=
  .next (
    if busOn s c then
      if kind = .protocolException ∧ flag s (F.BUS_CH_CFG_PXE c) = true then
        protocolException s c
      else meetError s c kind transmitting place
    else s)

/-- RECOVER (R238). -/
def execRecover (c : Nat) (s : State) : Result :=
  .next (if live s unitBUS ∧ hasBus s c then noteReg (recoverBus s c) unitBUS (0x400 * c + 0xC) 1 else s)

/-- BUS_RECOVERY_COMPLETE (R238). -/
def execBusRecoveryComplete (c : Nat) (s : State) : Result :=
  .next (
    if live s unitBUS ∧ hasBus s c ∧ getF s (F.BUS_CH_STAT_STATE c) = busOff ∧ (busCh s c).recovering = true then
      let s := setBusCh s c { busCh s c with recovering := false }
      let s := setF (setF s (F.BUS_CH_STAT_TEC c) 0) (F.BUS_CH_STAT_REC c) 0
      let s := setFlag s (F.BUS_CH_CTL_RECOVER c) false
      setF s (F.BUS_CH_STAT_STATE c) (if flag s (F.BUS_CH_CFG_EN c) then busActive else busOffline)
    else s)

/-- BUS_INTEGRATION_COMPLETE (R240): the channel takes the state that TEC and REC give. -/
def execBusIntegrationComplete (c : Nat) (s : State) : Result :=
  .next (
    if live s unitBUS ∧ hasBus s c ∧ flag s (F.BUS_CH_CFG_EN c) = true ∧ getF s (F.BUS_CH_STAT_STATE c) = busOffline then
      settleBus s c
    else s)

/-- BUFFER_STARVED (R235). -/
def execBufferStarved (c b : Nat) (s : State) : Result :=
  .next (if live s unitBUS ∧ hasBus s c ∧ b < 32 then checkStarved s c b else s)

end Sys2Proof.Machine
end

