-- ==== Sys2Proof/Machine/Messages.lean ====
section
/-! DEFINITION. The commands of the message queues and the bridge poller (R201 to R218). -/

namespace Sys2Proof.Machine

/-! ### Queue commands -/

def mqReady (s : State) (q : Nat) : Bool := live s unitMQ && decide (q < 256)

/-- A read of `len` bytes at POP (R209, R210): the state, the data and the completion code. -/
def popRead (s : State) (q len : Nat) (prefetch : Bool) : State × List Byte × Nat :=
  let consumer := getF s (F.MQ_Q_CFG_CONSUMER q)
  if prefetch then (s, [], codeREFUSED_SIDE_EFFECT)
  else if len < 4 ∨ 256 < len ∨ len % 4 ≠ 0 then (s, [], codeALIGN_ERROR)
  else if consumer = 1 ∨ consumer = 2 then (s, [], codeACCESS_DENIED)
  else
    let (s, bytes) := popQueue s q len
    (s, bytes, codeOK)

/-- PUSH_HDR (R208). -/
def execPushHdr (q : Nat) (who : Origin) (w : Word) (s : State) : Result :=
  .next (
    if mqReady s q then
      let (s, code) := pushHeader s q who w.toNat
      output s (.code code)
    else s)

/-- PUSH_DATA (R208). -/
def execPushData (q : Nat) (who : Origin) (ofs : Nat) (bytes : List Byte) (s : State) : Result :=
  .next (
    if mqReady s q ∧ bytes ≠ [] then
      let (s, code) := pushBytes s q who ofs bytes
      output s (.code code)
    else s)

/-- PUSH_TIMEOUT (R208): 1 ms without a data write. -/
def execPushTimeout (q : Nat) (s : State) : Result := .next (if due s (.push q) then rewindPush s q else s)

/-- POP (R209). -/
def execPop (q len : Nat) (s : State) : Result :=
  .next (
    if mqReady s q then
      let (s, bytes, code) := popRead s q len false
      output s (.read code bytes)
    else s)

/-- The commands of a queue are writes of its CTL register. -/
def noteQueueCtl (s : State) (q w : Nat) : State := noteReg s unitMQ (0x1018 + 0x20 * q) w

/-- RELEASE (R209). -/
def execRelease (q : Nat) (s : State) : Result := .next (if mqReady s q then noteQueueCtl (writeQueueCtl s q 1) q 1 else s)

/-- ABORT (R208). -/
def execAbort (q : Nat) (s : State) : Result := .next (if mqReady s q then noteQueueCtl (writeQueueCtl s q 2) q 2 else s)

/-- QUEUE_FLUSH (R218). -/
def execQueueFlush (q : Nat) (s : State) : Result := .next (if mqReady s q then noteQueueCtl (writeQueueCtl s q 4) q 4 else s)

/-- QUEUE_ENABLE (R218): a write of MQ_Qn_CFG with EN = 1. -/
def execQueueEnable (q : Nat) (w : Word) (s : State) : Result :=
  .next (
    if mqReady s q then
      let v := withBit w.toNat 0 true
      let (s, code) := noteWrite unitMQ (0x1000 + 0x20 * q) v (writeQueueCfg s q v)
      output s (.code code)
    else s)

/-- QUEUE_DISABLE (R218): a write of MQ_Qn_CFG with EN = 0 and the other fields as they are. -/
def execQueueDisable (q : Nat) (s : State) : Result :=
  .next (
    if mqReady s q then
      let v := withBit (regWord s (F.MQ_Q_CFG_EN q).key).toNat 0 false
      let (s, code) := noteWrite unitMQ (0x1000 + 0x20 * q) v (writeQueueCfg s q v)
      output s (.code code)
    else s)

/-- MESSAGE_PRODUCE (R202, R203): what each hardware producer does without credit. -/
def execMessageProduce (q producer prio : Nat) (bytes : List Byte) (s : State) : Result :=
  .next (
    if q < 256 ∧ prio < 8 ∧ 4 ≤ bytes.length ∧ bytes.length ≤ 1024 then
      if producer = 1 ∨ producer = 3 ∨ producer = 5 ∨ producer = 6 ∨ producer = 7 then produceCounted s q producer prio bytes
      else if producer = 2 then produce s q producer prio bytes
      else if producer = 4 then
        (if mayProduce s q 4 bytes.length then commitMsg s q prio 4 bytes else incF s F.JCT_SINK_FULL_COUNT)
      else s
    else s)

/-- The next message of a queue leaves it without being held. -/
def dropNext (s : State) (q : Nat) (m : MqMsg) : State :=
  setQueue s q { queueOf s q with msgs := (queueOf s q).msgs.erase m }

/-- MQ_ARCADE_DELIVER (R211). -/
def execMqArcadeDeliver (q : Nat) (s : State) : Result :=
  .next (
    if mqReady s q ∧ live s unitARC ∧ flag s (F.MQ_Q_CFG_EN q) ∧ getF s (F.MQ_Q_CFG_CONSUMER q) = 2 then
      match nextMsg (queueOf s q).msgs with
      | none => s
      | some m =>
        if m.bytes.length % 4 ≠ 0 ∨ 32 < m.bytes.length then incF (dropNext s q m) (F.MQ_Q_NOCRED_COUNT q)
        else
          let (r, t) := readMsg s q m
          match pushWords t (getF s (F.MQ_Q_CFG_ENGINE q)) (wordsOf 8 r.bytes) with
          | some u => dropNext u q m
          | none => s
    else s)

/-! ### The poller (R213 to R217) -/

def pollAddr (e : Nat) : Nat := keyOf unitMQ (0x00200000 + 64 * e)
def pollWord (s : State) (e i : Nat) : Nat := memWord s (pollAddr e + 4 * i)
def setPollWord (s : State) (e i v : Nat) : State := memPut s (pollAddr e + 4 * i) 4 v

/-- A sample not taken or not reported. -/
def pollSkip (s : State) (e : Nat) : State := setPollWord s e 10 (pollWord s e 10 + 1)

/-- Whether SFPE_TX_DISABLE or SFPW_TX_DISABLE is high (R86). -/
def sfpTxDisable (s : State) (p : Nat) : Bool := buState s p = buDown && !flag s (F.RNG_PORT_CFG_EN p)

/-- The SFP side-band group (R213). -/
def sfpGroup (s : State) : Nat :=
  bit01 (s.pins.los.getLsbD 0) + 2 * bit01 (s.pins.modAbs.getLsbD 0) + 4 * bit01 (sfpTxDisable s 0)
    + 8 * bit01 (s.pins.los.getLsbD 1) + 16 * bit01 (s.pins.modAbs.getLsbD 1) + 32 * bit01 (sfpTxDisable s 1)

/-- A pin group sampled: code and value. A fenced PIN unit answers FENCED (R370). -/
def samplePins (s : State) (group : Nat) : Nat × Nat :=
  if group = 6 then (codeOK, sfpGroup s)
  else if live s unitPIN then (codeOK, pinIn s group) else (codeFENCED, 0)

/-- The RD of an entry with SRC 1 (R214). -/
def pollSpec (s : State) (e : Nat) : TxnSpec where
  op := .rd
  addr := BitVec.ofNat 48 (pollWord s e 2 + 2 ^ 32 * bitsAt (pollWord s e 3) 0 16)
  x := bitAt (pollWord s e 0) 19
  ts := bitAt (pollWord s e 0) 20
  wide := false
  prefetch := false
  count := 2 ^ bitsAt (pollWord s e 0) 6 2
  data := []

/-- One entry taken in its cycle (R214); one that is still BUSY is skipped. Group 7 is reserved and is not sampled. -/
def pollEntry (s : State) (e : Nat) : State :=
  let w := pollWord s e 0
  if bitAt (pollWord s e 8) 5 then pollSkip s e
  else if bitsAt w 1 2 = 0 then
    if bitsAt w 3 3 = 7 then s
    else
      let (code, v) := samplePins s (bitsAt w 3 3)
      s.withTxn { s.txn with polled := s.txn.polled ++ [⟨e, code, v, tb2Us s⟩] }
  else match tryIssue (grantWaiting s) .pol (pollSpec s e) (some e) with
    | some t => setPollWord t e 8 (withBit (pollWord t e 8) 5 true)
    | none => pollSkip s e

/-- Whether an entry is due in cycle `n`. -/
def pollDue (s : State) (n e : Nat) : Bool :=
  let w := pollWord s e 0
  let k := pollWord s e 1
  bitAt w 0 && decide (bitsAt w 1 2 ≤ 1) && n % max 1 (bitsAt k 0 16) = bitsAt k 16 16

/-- The poller's share of a node cycle (R214). -/
def pollIssue (s : State) (n : Nat) : State :=
  if live s unitMQ ∧ flag s F.MQ_CFG_POLL_EN = true then
    let s := eccTouch s (pollAddr 0) (64 * 256)
    (upTo 256).foldl (fun t e => if pollDue t n e then pollEntry t e else t) s
  else s

/-- The event of a sample (R217). -/
def pollEvent (e code seq at_ v diff : Nat) (first error : Bool) : List Byte :=
  leBytes 4 (e + 256 * code + 4096 * bit01 first + 8192 * bit01 error + 65536 * seq) ++ leBytes 4 at_
    ++ leBytes 8 v ++ leBytes 8 diff

/-- BUSY as it is: whether a read of the entry is outstanding (R213). -/
def pollBusy (s : State) (e : Nat) : State :=
  setPollWord s e 8 (withBit (pollWord s e 8) 5 (s.txn.tags.any (fun t => t.pollEntry = some e)))

/-- LAST_CODE, the completion code of the last sample (R213; log entry 200). -/
def setLastCode (s : State) (e code : Nat) : State := setPollWord s e 8 (insertBits (pollWord s e 8) 1 4 code)

/-- A completed sample compared and reported (R215, R216). -/
def compareSample (s : State) (p : PollSample) : State :=
  let e := p.entry
  let s := eccTouch s (pollAddr e) 48
  let st := pollWord s e 8
  let last := memNat s (pollAddr e + 24) 8
  let mask := memNat s (pollAddr e + 16) 8
  let ok : Bool := p.code = codeOK
  let first := ok && !bitAt st 0
  let diff := if ok && bitAt st 0 then (p.value ^^^ last) &&& mask else 0
  if first || diff ≠ 0 || (!ok && p.code ≠ bitsAt st 1 4) then
    let seq := (pollWord s e 11 + 1) % 65536
    let q := bitsAt (pollWord s e 0) 8 8
    if mayProduce s q 2 24 then
      let s := commitMsg s q (bitsAt (pollWord s e 0) 16 3) 2
        (pollEvent e p.code seq p.at_ (if ok then p.value else 0) diff first (!ok))
      let s := if ok then memPut s (pollAddr e + 24) 8 p.value else s
      let s := setLastCode (setPollWord s e 8 (withBit st 0 true)) e p.code
      setPollWord (setPollWord s e 9 (pollWord s e 9 + 1)) e 11 seq
    else pollSkip s e
  else setLastCode s e p.code

/-- POLL_SAMPLE_COMPLETE (R215): the oldest completed sample of an entry. A unit that is fenced or in reset compares none, but
its entry has no read outstanding any more. -/
def execPollSampleComplete (e : Nat) (s : State) : Result :=
  .next (
    match s.txn.polled.find? (fun p => p.entry = e) with
    | none => s
    | some p =>
      let s := pollBusy (s.withTxn { s.txn with polled := s.txn.polled.erase p }) e
      if live s unitMQ then compareSample s p else s)

end Sys2Proof.Machine
end

