-- ==== Sys2Proof/Machine/JunctionRows.lean ====
section
/-! DEFINITION. The commands of the Junction (R178 to R197): messages, list runs, hand-over to the sinks. -/

namespace Sys2Proof.Machine

/-- The lowest queue that the Junction consumes and that holds a message, with that message (R211; log entry 25). -/
def jctQueue (s : State) : Option (Nat × MqMsg) :=
  s.queues.findSome? (fun p =>
    if flag s (F.MQ_Q_CFG_EN p.1) && getF s (F.MQ_Q_CFG_CONSUMER p.1) = 1 then (nextMsg p.2.msgs).map (fun m => (p.1, m))
    else none)

/-- JUNCTION_MESSAGE_RECEIVE (R178): the oldest message offered, else one from a queue that the Junction consumes. With
EN = 0 it is discarded. -/
def execJunctionMessageReceive (s : State) : Result :=
  .next (
    if live s unitJCT then
      match s.jct.inbox with
      | m :: rest =>
        let s := s.withJct { s.jct with inbox := rest }
        if flag s F.JCT_CFG_EN then acceptMsg s m else s
      | [] =>
        if flag s F.JCT_CFG_EN ∧ live s unitMQ = true then
          match jctQueue s with
          | some (q, m) =>
            let (r, t) := readMsg s q m
            acceptMsg (dropNext t q m) ⟨5, q, 0, false, r.bytes, s.mono⟩
          | none => s
        else s
    else s)

/-- LIST_RUN (R179): the pipeline's next run, after runs that may no longer start are gone (R190). -/
def execListRun (p : Nat) (s : State) : Result :=
  .next (
    if live s unitJCT ∧ p < 4 then
      match takeRun (discardLate (skipTimed s p) p) p with
      | (some r, s) => runList s r r.first [] 64
      | (none, s) => s
    else s)

/-- RUN_LATE_DISCARD (R190). -/
def execRunLateDiscard (p : Nat) (s : State) : Result := .next (if live s unitJCT ∧ p < 4 then discardLate s p else s)

/-- TIMED_RUN_SKIP (R190). -/
def execTimedRunSkip (p : Nat) (s : State) : Result := .next (if live s unitJCT ∧ p < 4 then skipTimed s p else s)

/-- Whether an emission of a received run is past 2 µs from the end of reception (R193). -/
def emissionLate (s : State) (e : Emission) : Bool := e.received && decide (e.rxEnd + 2 * ticksUs < s.mono)

/-- An emission to the access side (R194): it enters the bridge from port 99. -/
def emitAccess (s : State) (e : Emission) : State :=
  let vid := bitsAt e.arg.toNat 0 12
  if live s unitPLZ then
    let (fw, s) := lookupForward s vid (macOf e.bytes) e.cls 99 false false
    forwardFrame s (newFrame s (.eth e.bytes) 99 fw.cls vid 0 false) e.bytes fw 0
  else s

/-- An emission to the ring (R195). -/
def emitSignal (s : State) (e : Emission) : State :=
  let f := { blankFrame tySIGNAL (BitVec.ofNat 3 e.cls) (BitVec.ofNat 8 e.dest) 0x04 with
    typeSpecific := BitVec.ofNat 48 (bitsAt e.arg.toNat 0 14 * 2 ^ 34)
    tsOrTxn := BitVec.ofNat 64 (tb0Short s)
    payload := e.bytes }
  addFrame s .added f 99 0

/-- An emission handed to its sink (R194). -/
def handOver (s : State) (e : Emission) : State :=
  match e.sink with
  | 1 => emitAccess s e
  | 2 => if live s unitBUS then emitToBus s e.dest ⟨e.arg, e.bytes⟩ else s
  | 3 =>
    match (if live s unitARC then pushWords s e.dest (wordsOf 8 e.bytes) else none) with
    | some t => t
    | none => incF s F.JCT_SINK_FULL_COUNT
  | 4 => emitSignal s e
  | _ =>
    if mayProduce s e.dest 4 e.bytes.length then commitMsg s e.dest (bitsAt e.arg.toNat 0 3) 4 e.bytes
    else incF s F.JCT_SINK_FULL_COUNT

/-- Emission `i` taken out of those waiting. -/
def takeEmission (s : State) (i : Nat) : State := s.withJct { s.jct with emissions := s.jct.emissions.eraseIdx i }

/-- EMISSION_HANDOVER (R193, R194). -/
def execEmissionHandover (i : Nat) (s : State) : Result :=
  .next (
    match s.jct.emissions[i]? with
    | none => s
    | some e =>
      if !live s unitJCT then s
      else if emissionLate s e then incF (takeEmission s i) F.JCT_EMIT_LATE_COUNT
      else handOver (incF (takeEmission s i) F.JCT_EMIT_COUNT) e)

/-- EMIT_LATE_DISCARD (R193). -/
def execEmitLateDiscard (i : Nat) (s : State) : Result :=
  .next (
    match s.jct.emissions[i]? with
    | none => s
    | some e => if emissionLate s e then incF (takeEmission s i) F.JCT_EMIT_LATE_COUNT else s)

end Sys2Proof.Machine
end

