-- ==== Sys2Proof/Machine/Power.lean ====
section
/-! DEFINITION. Slot power (R338 to R358): channel states, the breaker, trips and retries, warnings, shedding, the
budget, the NVM inhibit and metering. Currents are in mA, voltages in mV, powers in mW. -/

namespace Sys2Proof.Machine

/-- The channel states as STAT.STATE codes them (R360). -/
def slotDisabled : Nat := 0
def slotEmpty : Nat := 1
def slotSeated : Nat := 2
def slotPrecharge : Nat := 3
def slotRamp : Nat := 4
def slotOn : Nat := 5
def slotLimiting : Nat := 6
def slotTripped : Nat := 7
def slotRetryWait : Nat := 8
def slotLatchedOff : Nat := 9
def slotShed : Nat := 10

/-- The off reasons as STAT.REASON codes them (R360). -/
def offFast : Nat := 1
def offBreaker : Nat := 2
def offPrechargeTimeout : Nat := 3
def offSeatLost : Nat := 4
def offShedBudget : Nat := 5
def offShedUv : Nat := 6
def offVinOv : Nat := 7
def offShedCmd : Nat := 8
def offDormant : Nat := 9

def slotState (s : State) (i : Nat) : Nat := getF s (F.PWR_SLOT_STAT_STATE i)
def slotReason (s : State) (i : Nat) : Nat := getF s (F.PWR_SLOT_STAT_REASON i)

/-- The slots of the part. -/
def slotIds (s : State) : List Nat := upTo s.ident.variant.slots

/-- Whether the part has slot `i` and its unit runs. -/
def slotLive (s : State) (i : Nat) : Bool := live s unitPWR && decide (i < s.ident.variant.slots)

/-- Whether a slot feeds its module: Precharge, Ramp, On or Limiting. -/
def slotPowered (s : State) (i : Nat) : Bool := decide (3 ≤ slotState s i ∧ slotState s i ≤ 6)

/-- Whether a slot is in On or Limiting. -/
def slotRunning (s : State) (i : Nat) : Bool := slotState s i = slotOn || slotState s i = slotLimiting

/-- I_CB in mA, limited to 1–16 A; I_FAST is three times as high (R341, R360). -/
def slotIcb (s : State) (i : Nat) : Nat := 100 * max 10 (min 160 (getF s (F.PWR_SLOT_CFG_I_CB i)))

/-- I_LIM in mA (R341). -/
def slotIlim (s : State) (i : Nat) : Nat := 3 * slotIcb s i / 2

/-- T_FLT in monitor ticks of 1 µs, limited to 0.5–20 ms. -/
def slotTflt (s : State) (i : Nat) : Nat := 100 * max 5 (min 200 (getF s (F.PWR_SLOT_CFG_T_FLT i)))

def prechargeMs (s : State) (i : Nat) : Nat := max 1 (min 2000 (getF s (F.PWR_SLOT_TIME_PRECHARGE_MS i)))
def rampMs (s : State) (i : Nat) : Nat := max 1 (getF s (F.PWR_SLOT_TIME_RAMP_MS i))

/-- PFW_LEAD_MS; values below 5 act as 5 (R347). -/
def pfwLead (s : State) : Nat := max 5 (getF s F.PWR_CFG_PFW_LEAD_MS)

/-- The level of GREF in mA on the ISNS scale (R338, R341): 0 while GEN is low, in Ramp rising linearly to I_LIM over
RAMP_MS, otherwise I_LIM. -/
def slotGref (s : State) (i : Nat) : Nat :=
  if !flag s (F.PWR_SLOT_STAT_GEN i) then 0
  else match lookupKey (TimerId.ramp i) s.timers with
    | some d => slotIlim s i - slotIlim s i * (d - s.mono) / (rampMs s i * ticksMs)
    | none => slotIlim s i

/-! ### Changes of state -/

/-- PFW_N is low while a warning stands, and on a running slot while PFAIL_N is low (R347, R352). -/
def updatePfw (s : State) (i : Nat) : State :=
  setFlag s (F.PWR_SLOT_STAT_PFW i)
    ((slotOf s i).warned || (flag s F.PWR_STAT_PFAIL && slotRunning s i))

/-- The slot event of R355. -/
def slotEvent (s : State) (i old : Nat) : State :=
  if flag s F.PWR_EVT_CFG_EN then
    let w0 := i + 16 * slotState s i + 256 * old + 4096 * slotReason s i + 65536 * getF s (F.PWR_SLOT_STAT_RETRIES i)
    produceCounted s (getF s F.PWR_EVT_CFG_QUEUE) 0x06 (getF s F.PWR_EVT_CFG_PRIO)
      (leBytes 4 w0 ++ leBytes 4 (tb2Us s) ++ leBytes 4 (getF s (F.PWR_SLOT_V_VALUE i))
        ++ leBytes 4 (getF s (F.PWR_SLOT_I_VALUE i)))
  else s

/-- What a delta carries of a slot (R328). -/
def slotRecord (s : State) (i : Nat) : DeltaRec :=
  .slot i (slotState s i) (slotReason s i) (getF s (F.PWR_SLOT_STAT_RETRIES i))
    (match lookupKey (TimerId.retry i) s.timers with
      | some d => (d - s.mono) / ticksMs
      | none => 0)
    (getF s (F.PWR_SLOT_E_LO_COUNT i) + 2 ^ 32 * (slotOf s i).eHi)

/-- The pins of a state (R341): PCH on in Precharge and Ramp, GEN on in Ramp, On and Limiting; PG low outside On. -/
def slotPins (s : State) (i new : Nat) : State :=
  let s := setFlag s (F.PWR_SLOT_STAT_PCH i) (new = slotPrecharge || new = slotRamp)
  let s := setFlag s (F.PWR_SLOT_STAT_GEN i) (new = slotRamp || new = slotOn || new = slotLimiting)
  if new = slotOn then s else setFlag s (F.PWR_SLOT_STAT_PG i) false

/-- PG falls or has to qualify again: its timers (R344, R346). -/
def pgTimers (s : State) (i new : Nat) : State :=
  let s := stopTimer (stopTimer s (.pg i)) (.retryReset i)
  if new = slotOn then startTimer s (.pg i) ticksMs else s

/-- A change of a channel's state with its reason (R341, R355). -/
def changeSlot (s : State) (i new reason : Nat) : State :=
  let old := slotState s i
  let s := setF (setF s (F.PWR_SLOT_STAT_STATE i) new) (F.PWR_SLOT_STAT_REASON i) reason
  let s := pgTimers (slotPins s i new) i new
  let s := if old = slotShed && new ≠ slotShed then setSlot s i { slotOf s i with warned := false } else s
  let s := stopTimer (stopTimer (stopTimer s (.precharge i)) (.ramp i)) (.retry i)
  let s := updatePfw s i
  slotEvent s i old

/-- Change the state and keep the reason. -/
def moveSlot (s : State) (i new : Nat) : State := changeSlot s i new (slotReason s i)

/-- SHED_PENDING follows whether a budget turn-off is still planned (R350). -/
def updateShedPending (s : State) : State :=
  setFlag s F.PWR_STAT_SHED_PENDING ((slotIds s).any (fun i => (slotOf s i).planned = some offShedBudget))

/-- A planned turn-off and its warning withdrawn (R345, R348). -/
def dropPlan (s : State) (i : Nat) : State :=
  let s := setSlot (stopTimer s (.planned i)) i { slotOf s i with planned := none, warned := false }
  updateShedPending (updatePfw s i)

/-- PFW_N lowered for a planned turn-off; a slot already warned keeps its time and reason (R347). -/
def warnSlot (s : State) (i reason : Nat) : State :=
  match (slotOf s i).planned with
  | some _ => s
  | none =>
    let s := setSlot s i { slotOf s i with planned := some reason, warned := true }
    updateShedPending (updatePfw (startTimer s (.planned i) (pfwLead s * ticksMs)) i)

/-- A trip (R345, R346): it ends any pending shed, counts, and reports PWR_TRIP. -/
def tripSlot (s : State) (i reason : Nat) : State :=
  let s := dropPlan s i
  let s := setSlot s i { slotOf s i with onTime := s.mono - (slotOf s i).since, waiting := false, faultTimer := 0, underCount := 0 }
  let s := addF (changeSlot s i slotTripped reason) (F.PWR_SLOT_TRIPS_COUNT i) 1
  recordFault s fltPwrTrip unitPWR (BitVec.ofNat 32 i) (BitVec.ofNat 32 reason)

/-- A turn-off to Shed (R348, R351). -/
def shedSlot (s : State) (i reason : Nat) : State :=
  let s := setSlot (stopTimer s (.planned i)) i { slotOf s i with planned := none, waiting := false, faultTimer := 0, underCount := 0 }
  let s := addF (changeSlot s i slotShed reason) (F.PWR_SLOT_SHEDS_COUNT i) 1
  updateShedPending s

/-! ### Seating and enabling -/

/-- SLOT_ENABLE (R341): EN takes a Disabled channel to Empty, and on to Seated where its module has been seated for 50 ms. -/
def enableSlot (s : State) (i : Nat) : State :=
  if slotState s i = slotDisabled then
    let s := moveSlot (setSlot s i { slotOf s i with manual := false }) i slotEmpty
    if flag s (F.PWR_SLOT_STAT_SEATED i) then moveSlot s i slotSeated else s
  else s

/-- SLOT_DISABLE (R351): GEN and PCH fall without warning. -/
def disableSlot (s : State) (i : Nat) : State :=
  if slotState s i = slotDisabled then s
  else
    let s := dropPlan s i
    moveSlot (setSlot s i { slotOf s i with waiting := false, faultTimer := 0, underCount := 0 }) i slotDisabled

/-- The effect of EN reaching its active value. -/
def slotEnChanged (s : State) (i : Nat) : State :=
  if flag s (F.PWR_SLOT_CFG_EN i) then enableSlot s i else disableSlot s i

/-- SLOT_ENABLE and SLOT_DISABLE as the table gives them: EN takes its value and the channel follows. -/
def execSlotEnable (i : Nat) (s : State) : Result :=
  .next (if slotLive s i then slotEnChanged (setFlag s (F.PWR_SLOT_CFG_EN i) true) i else s)
def execSlotDisable (i : Nat) (s : State) : Result :=
  .next (if slotLive s i then slotEnChanged (setFlag s (F.PWR_SLOT_CFG_EN i) false) i else s)

/-- SEAT_DEBOUNCE_DONE (R341, R342): SEATED reads 1, and an Empty channel is Seated. -/
def seatDone (s : State) (i : Nat) : State :=
  let s := setFlag s (F.PWR_SLOT_STAT_SEATED i) true
  if slotState s i = slotEmpty then moveSlot s i slotSeated else s
def execSeatDebounceDone (i : Nat) (s : State) : Result := .next (if slotLive s i then seatDone s i else s)

/-- SEAT_LOST (R342): in any state, and while the unit is fenced (R357), the channel enters Empty; a Disabled channel
stays so. -/
def seatLost (s : State) (i : Nat) : State :=
  let s := setF (setFlag s (F.PWR_SLOT_STAT_SEATED i) false) (F.PWR_SLOT_STAT_RETRIES i) 0
  if slotState s i = slotDisabled then s
  else
    let s := dropPlan s i
    let s := setSlot s i { slotOf s i with waiting := false, manual := false, faultTimer := 0, underCount := 0 }
    changeSlot s i slotEmpty offSeatLost
def execSeatLost (i : Nat) (s : State) : Result :=
  .next (if decide (i < s.ident.variant.slots) && s.dev.unitsOut then seatLost s i else s)

/-- SELF_SEAT_CHANGE (R349). -/
def execSelfSeatChange (seated : Bool) (s : State) : Result :=
  .next (if live s unitPWR then setFlag s F.PWR_STAT_SELF_SEATED seated else s)

/-! ### Power-up -/

/-- Whether a channel waits for a start (R341, R349): a Seated one with AUTO_ON that software does not keep off, or any
one that ON, a restore or the end of its off time has released. -/
def wantsStart (s : State) (i : Nat) : Bool :=
  let st := slotState s i
  let x := slotOf s i
  if st = slotSeated then x.waiting || (flag s (F.PWR_SLOT_CFG_AUTO_ON i) && !x.manual)
  else (st = slotRetryWait || st = slotLatchedOff || st = slotShed) && x.waiting

/-- The first waiting channel: lowest PRIO value, then lowest slot number (R349). -/
def nextStart (s : State) : Option Nat :=
  (slotIds s).foldl (fun best i =>
    if wantsStart s i then
      match best with
      | some j => if getF s (F.PWR_SLOT_CFG_PRIO i) < getF s (F.PWR_SLOT_CFG_PRIO j) then some i else best
      | none => some i
    else best) none

/-- Whether R349 allows a start now. None begins while the hub enters Dormant (R25). -/
def startAllowed (s : State) : Bool :=
  !s.dev.dormantPending && flag s F.PWR_STAT_SELF_SEATED && !flag s F.PWR_STAT_SHED_PENDING && decide (getF s F.PWR_STAT_VIN_STATE = 0)
    && (match s.power.lastStart with
      | some t => decide (t + getF s F.PWR_CFG_STAGGER_MS * ticksMs ≤ s.mono)
      | none => true)

/-- Entry to Precharge; a retry counts as it starts (R346). -/
def startSlot (s : State) (i : Nat) : State :=
  let s := if slotState s i = slotRetryWait then incSat s (F.PWR_SLOT_STAT_RETRIES i) else s
  let s := setSlot s i { slotOf s i with waiting := false, since := s.mono }
  let s := s.withPower { s.power with lastStart := some s.mono }
  startTimer (moveSlot s i slotPrecharge) (.precharge i) (prechargeMs s i * ticksMs)

/-- POWER_UP_START (R349). -/
def execPowerUpStart (i : Nat) (s : State) : Result :=
  .next (if slotLive s i && startAllowed s && nextStart s = some i then startSlot s i else s)

/-- PRECHARGE_COMPLETE (R341): VSNS is at 90 % of VIN_SNS. -/
def rampSlot (s : State) (i : Nat) : State :=
  startTimer (moveSlot s i slotRamp) (.ramp i) (rampMs s i * ticksMs)
def execPrechargeComplete (i vsns vin : Nat) (s : State) : Result :=
  .next (if slotLive s i && slotState s i = slotPrecharge && decide (9 * vin ≤ 10 * vsns) then rampSlot s i else s)

/-- PRECHARGE_TIMEOUT (R345). -/
def execPrechargeTimeout (i : Nat) (s : State) : Result :=
  .next (if slotLive s i && slotState s i = slotPrecharge && due s (.precharge i)
    then tripSlot s i offPrechargeTimeout else s)

/-- RAMP_END (R341): On at 98 % of VIN_SNS with the current at most I_CB, else Limiting. -/
def execRampEnd (i vsns vin current : Nat) (s : State) : Result :=
  .next (if slotLive s i && slotState s i = slotRamp && due s (.ramp i) then
      moveSlot s i (if 98 * vin ≤ 100 * vsns ∧ current ≤ slotIcb s i then slotOn else slotLimiting)
    else s)

/-! ### The breaker -/

/-- One monitor tick of the fault timer (R343). In Ramp, and in states without current, I_CB is not evaluated. -/
def tickFaultTimer (s : State) (i current : Nat) : State :=
  let x := slotOf s i
  if slotRunning s i && decide (slotIcb s i < current) then setSlot s i { x with faultTimer := x.faultTimer + 1 }
  else if x.faultTimer = 0 then setSlot s i { x with underCount := 0 }
  else if x.underCount = 7 then setSlot s i { x with faultTimer := x.faultTimer - 1, underCount := 0 }
  else setSlot s i { x with underCount := x.underCount + 1 }

/-- MONITOR_TICK (R343, R344): On becomes Limiting as the timer leaves 0, Limiting becomes On at 0. -/
def monitorTick (s : State) (i current : Nat) : State :=
  let s := tickFaultTimer s i current
  let n := (slotOf s i).faultTimer
  if slotState s i = slotOn ∧ 0 < n then moveSlot s i slotLimiting
  else if slotState s i = slotLimiting ∧ n = 0 then moveSlot s i slotOn
  else s
def execMonitorTick (i current : Nat) (s : State) : Result :=
  .next (if slotLive s i then monitorTick s i current else s)

/-- BREAKER (R343, R345). -/
def execBreaker (i : Nat) (s : State) : Result :=
  .next (if slotLive s i && slotState s i = slotLimiting && decide (slotTflt s i ≤ (slotOf s i).faultTimer)
    then tripSlot s i offBreaker else s)

/-- FAST (R345): the comparator acts in any state that drives GEN or PCH, and while the unit is fenced (R357). -/
def execFast (i current : Nat) (s : State) : Result :=
  .next (if decide (i < s.ident.variant.slots) && s.dev.unitsOut && slotPowered s i
      && decide (3 * slotIcb s i < current) then tripSlot s i offFast else s)

/-- TRIP_RESOLVE (R346): RetryWait while a retry is left, else LatchedOff with its fault. -/
def resolveTrip (s : State) (i : Nat) : State :=
  let most := getF s (F.PWR_SLOT_CFG_RETRY_MAX i)
  let reason := slotReason s i
  if getF s (F.PWR_SLOT_STAT_RETRIES i) < most ∨ most = 255 then
    startTimer (moveSlot s i slotRetryWait) (.retry i) (max (2000 * ticksMs) (99 * (slotOf s i).onTime))
  else
    recordFault (moveSlot s i slotLatchedOff) fltPwrLatchoff unitPWR (BitVec.ofNat 32 i) (BitVec.ofNat 32 reason)
def execTripResolve (i : Nat) (s : State) : Result :=
  .next (if slotLive s i && slotState s i = slotTripped then resolveTrip s i else s)

/-- RETRY_WAIT_EXPIRY (R346). -/
def execRetryWaitExpiry (i : Nat) (s : State) : Result :=
  .next (if slotLive s i && slotState s i = slotRetryWait && due s (.retry i) then
      setSlot (stopTimer s (.retry i)) i { slotOf s i with waiting := true }
    else s)

/-- PG_QUALIFY (R344). -/
def execPgQualify (i : Nat) (s : State) : Result :=
  .next (if slotLive s i && slotState s i = slotOn && decide ((slotOf s i).faultTimer = 0) && due s (.pg i) then
      startTimer (setFlag (stopTimer s (.pg i)) (F.PWR_SLOT_STAT_PG i) true) (.retryReset i) (10000 * ticksMs)
    else s)

/-- RETRY_COUNT_RESET (R346). -/
def execRetryCountReset (i : Nat) (s : State) : Result :=
  .next (if slotLive s i && slotState s i = slotOn && flag s (F.PWR_SLOT_STAT_PG i) && due s (.retryReset i) then
      setF (stopTimer s (.retryReset i)) (F.PWR_SLOT_STAT_RETRIES i) 0
    else s)

/-! ### The supply -/

/-- A threshold of PWR_VIN_CFG in mV. -/
def vinLimit (s : State) (f : Fld) : Nat := 100 * getF s f

/-- VIN_STATE at a voltage (R348). -/
def vinClass (s : State) (vin : Nat) : Nat :=
  if vinLimit s F.PWR_VIN_CFG_OV < vin then 3
  else if vin < vinLimit s F.PWR_VIN_CFG_UV_OFF then 2
  else if vin < vinLimit s F.PWR_VIN_CFG_UV_WARN then 1
  else 0

/-- A measured VIN, and the second in range that a restore needs (R348). -/
def noteVin (s : State) (vin : Nat) : State :=
  let s := setF s F.PWR_VIN_VALUE vin
  if vinLimit s F.PWR_VIN_CFG_UV_WARN + 1000 ≤ vin ∧ vin + 1000 ≤ vinLimit s F.PWR_VIN_CFG_OV then
    ensureTimer s .vinOk (1000 * ticksMs)
  else stopTimer s .vinOk

/-- VIN_STATE_CHANGE (R348). -/
def changeVin (s : State) (vin : Nat) : State :=
  let s := noteVin s vin
  let c := vinClass s vin
  if c = getF s F.PWR_STAT_VIN_STATE then s
  else
    let s := setF s F.PWR_STAT_VIN_STATE c
    (slotIds s).foldl (fun t i =>
      if !slotPowered t i then t
      else if c = 1 then warnSlot t i offShedUv
      else if c = 2 then shedSlot t i offShedUv
      else if c = 3 then shedSlot t i offVinOv
      else t) s
def execVinStateChange (vin : Nat) (s : State) : Result := .next (if live s unitPWR then changeVin s vin else s)

/-- VIN_RESTORE (R348): every slot shed for VIN waits for its start. -/
def restoreVin (s : State) : State :=
  (slotIds s).foldl (fun t i =>
    if slotState t i = slotShed && (slotReason t i = offShedUv || slotReason t i = offVinOv) then
      setSlot t i { slotOf t i with waiting := true }
    else t) s
def execVinRestore (s : State) : Result := .next (if live s unitPWR && due s .vinOk then restoreVin s else s)

/-- Slots that draw power, in descending PRIO, as R350 sheds them (log entry 35). -/
def dormantOrder (s : State) : List Nat :=
  (upTo 8).reverse.flatMap (fun p =>
    (slotIds s).reverse.filter (fun i => slotPowered s i && getF s (F.PWR_SLOT_CFG_PRIO i) = p))

/-- Whether the turn-off of a slot has its turn: at the entry into Dormant the slots before it in order are off (R25). -/
def turnOffTurn (s : State) (i reason : Nat) : Bool := reason != offDormant || (dormantOrder s).head? = some i

/-- WARNED_TURN_OFF (R25, R347, R348): GEN falls, or the warning is withdrawn because VIN has recovered. -/
def warnedTurnOff (s : State) (i reason : Nat) : State :=
  if reason = offShedUv ∧ vinLimit s F.PWR_VIN_CFG_UV_WARN + 1000 < getF s F.PWR_VIN_VALUE then dropPlan s i
  else shedSlot s i reason
def execWarnedTurnOff (i : Nat) (s : State) : Result :=
  .next (if slotLive s i && due s (.planned i) then
      match (slotOf s i).planned with
      | some reason => if turnOffTurn s i reason then warnedTurnOff s i reason else s
      | none => s
    else s)

/-! ### The budget (R350) -/

/-- The average of a slot's power samples of the last millisecond. -/
def slotPower (s : State) (i : Nat) : Int :=
  let l := ((assoc i s.power.powers).getD []).filter (fun p => decide (s.mono < p.1 + ticksMs))
  if l.length = 0 then 0 else (l.map Prod.snd).sum / (l.length : Int)

/-- P_SUM in mW. -/
def powerSum (s : State) : Int := ((slotIds s).map (slotPower s)).sum

def setPsum (s : State) : State := setF s F.PWR_PSUM_VALUE (unsignedOf 32 (powerSum s))

/-- Slots that may be shed for the budget, highest PRIO value first and then highest slot number. -/
def shedOrder (s : State) : List Nat :=
  ((upTo 7).reverse.map (· + 1)).flatMap (fun p =>
    (slotIds s).reverse.filter (fun i => slotRunning s i && getF s (F.PWR_SLOT_CFG_PRIO i) = p))

/-- Slots selected in order until the sum falls to the budget. -/
def shedSelect (s : State) (budget : Int) : Int → List Nat → List Nat
  | _, [] => []
  | sum, i :: is => if budget < sum then i :: shedSelect s budget (sum - slotPower s i) is else []

/-- Whether a budget-shed slot would fit within the budget less its margin. -/
def fitsBudget (s : State) (i : Nat) : Bool :=
  getF s F.PWR_BUDGET_BUDGET_W = 0 ||
    decide (powerSum s + (slotOf s i).shedPower
      ≤ 1000 * ((getF s F.PWR_BUDGET_BUDGET_W : Int) - (getF s F.PWR_BUDGET_HYST_W : Int)))

/-- Whether a slot is shed for the budget and not yet waiting. -/
def budgetShed (s : State) (i : Nat) : Bool :=
  slotState s i = slotShed && slotReason s i = offShedBudget && !(slotOf s i).waiting

/-- The second within the budget that a restore needs. -/
def trackBudget (s : State) : State :=
  (slotIds s).foldl (fun t i =>
    if budgetShed t i && fitsBudget t i then ensureTimer t (.budget i) (1000 * ticksMs) else stopTimer t (.budget i)) s

/-- R19 order 5: P_SUM against BUDGET_W (R350). -/
def shedEvaluate (s : State) : State :=
  if !live s unitPWR then s
  else
    let s := setPsum s
    let budget : Int := 1000 * (getF s F.PWR_BUDGET_BUDGET_W : Int)
    let s :=
      if budget = 0 ∨ flag s F.PWR_STAT_SHED_PENDING = true then s
      else (shedSelect s budget (powerSum s) (shedOrder s)).foldl (fun t i =>
        let p := slotPower t i
        warnSlot (setSlot t i { slotOf t i with shedPower := p }) i offShedBudget) s
    trackBudget s

/-- BUDGET_RESTORE (R350): the due slot of the lowest PRIO value first. -/
def execBudgetRestore (i : Nat) (s : State) : Result :=
  let ready (j : Nat) := budgetShed s j && fitsBudget s j && due s (.budget j)
  let before (j : Nat) := getF s (F.PWR_SLOT_CFG_PRIO j) < getF s (F.PWR_SLOT_CFG_PRIO i)
    || (getF s (F.PWR_SLOT_CFG_PRIO j) = getF s (F.PWR_SLOT_CFG_PRIO i) && decide (j < i))
  .next (if slotLive s i && ready i && !(slotIds s).any (fun j => ready j && before j) then
      setSlot (stopTimer s (.budget i)) i { slotOf s i with waiting := true }
    else s)

/-! ### Commands -/

/-- A write of 1 to ON: the retry count returns to 0 (R346), and a slot in Seated, Shed or LatchedOff waits for its start
(R351). -/
def slotOnCmd (s : State) (i : Nat) : State :=
  let st := slotState s i
  let s := setF s (F.PWR_SLOT_STAT_RETRIES i) 0
  if st = slotSeated ∨ st = slotShed ∨ st = slotLatchedOff then
    stopTimer (setSlot s i { slotOf s i with waiting := true, manual := false }) (.budget i)
  else s

/-- A write of 1 to OFF (R351). -/
def slotOffCmd (s : State) (i : Nat) : State :=
  let st := slotState s i
  if st = slotLatchedOff ∨ st = slotShed then
    moveSlot (setSlot s i { slotOf s i with waiting := false, manual := true }) i slotSeated
  else if st = slotSeated then setSlot s i { slotOf s i with waiting := false, manual := true }
  else if 3 ≤ st ∧ st ≤ 8 then warnSlot s i offShedCmd
  else s

/-- A write to PWR_SLOTs_CTL; OFF wins (R351). -/
def writeSlotCtl (s : State) (i w : Nat) : State :=
  if bitAt w 1 then slotOffCmd s i else if bitAt w 0 then slotOnCmd s i else s

def execOn (i : Nat) (s : State) : Result := .next (if slotLive s i then noteReg (writeSlotCtl s i 1) unitPWR (0x10C + 0x40 * i) 1 else s)
def execOff (i : Nat) (s : State) : Result := .next (if slotLive s i then noteReg (writeSlotCtl s i 2) unitPWR (0x10C + 0x40 * i) 2 else s)

/-! ### PFAIL_N, VAUX and the NVM inhibit (R352, R353) -/

/-- NVM writes still queued are abandoned (R353): a STORE that runs, and nonce reservations. -/
def abandonWrites (s : State) : State :=
  (s.withOdw { s.odw with storing := false }).withCip { s.cip with reserving := [] }

/-- PFAIL_ASSERT: PFW_N falls on running slots, NVM writes are inhibited, and the Active may release (R331). -/
def assertPfail (s : State) : State :=
  let s := s.withPins { s.pins with pfailN := false }
  let s := abandonWrites (setFlag (setFlag s F.PWR_STAT_PFAIL true) F.PWR_STAT_NVM_INHIBIT true)
  let s := (slotIds s).foldl updatePfw (stopTimer s .nvmLift)
  if flag s F.TWN_ESSENTIAL_PFAIL then releaseIfPeerReady s else s
def execPfailAssert (s : State) : Result := .next (if s.dev.unitsOut then assertPfail s else s.withPins { s.pins with pfailN := false })

/-- PFAIL_RELEASE: the warnings of R352 end, and the inhibit's millisecond begins with VAUX in order. -/
def releasePfail (s : State) : State :=
  let s := setFlag (s.withPins { s.pins with pfailN := true }) F.PWR_STAT_PFAIL false
  let s := (slotIds s).foldl updatePfw s
  if s.pins.vauxLow then s else startTimer s .nvmLift ticksMs
def execPfailRelease (s : State) : Result := .next (if s.dev.unitsOut then releasePfail s else s.withPins { s.pins with pfailN := true })

/-- VAUX_LOW: VAUX below 3.05 V. -/
def lowerVaux (s : State) : State :=
  abandonWrites (setFlag (stopTimer (s.withPins { s.pins with vauxLow := true }) .nvmLift) F.PWR_STAT_NVM_INHIBIT true)
def execVauxLow (s : State) : Result := .next (if s.dev.unitsOut then lowerVaux s else s.withPins { s.pins with vauxLow := true })

/-- NVM_INHIBIT_LIFT: the event says that VAUX has been in order for 1 ms; PFAIL_N must be high as long. A waiting
LGEN_NEXT then runs (R309). -/
def liftInhibit (s : State) : State :=
  let s := stopTimer (s.withPins { s.pins with vauxLow := false }) .nvmLift
  let s := setFlag s F.PWR_STAT_NVM_INHIBIT false
  if s.cip.lgenBusy && live s unitCIP then nextLgen s else s
def execNvmInhibitLift (s : State) : Result :=
  .next (if s.pins.pfailN && flag s F.PWR_STAT_NVM_INHIBIT && (!running s .nvmLift || due s .nvmLift)
    then liftInhibit s else s)

/-! ### Metering (R354) -/

/-- A raw code at a full scale in units of 10 mV or 10 mA, in mV or mA. -/
def scaleCode (code fs : Nat) : Nat := code * fs * 10 / 65536

def codeAt (codes : List (BitVec 16)) (n : Nat) : Nat := (codes.getD n 0).toNat

/-- Energy: P × Δt in mW × ns = pJ; a microjoule is 10^6 pJ. -/
def addEnergy (s : State) (i : Nat) (p dt : Nat) : State :=
  let x := slotOf s i
  let total := x.eFrac + p * dt
  let e := getF s (F.PWR_SLOT_E_LO_COUNT i) + total / 1000000
  setF (setSlot s i { x with eFrac := total % 1000000, eHi := (x.eHi + e / 2 ^ 32) % 2 ^ 32 })
    (F.PWR_SLOT_E_LO_COUNT i) e

/-- V, I, P and energy of one slot from its two codes and a window of `dt` ns. -/
def meterSlot (s : State) (codes : List (BitVec 16)) (dt i : Nat) : State :=
  let v := scaleCode (codeAt codes (2 * i + 1)) (getF s (F.PWR_SLOT_SCALE_VSNS_FS i))
  let a := scaleCode (codeAt codes (2 * i)) (getF s (F.PWR_SLOT_SCALE_ISNS_FS i))
  let p := v * a / 1000
  let s := setF (setF (setF s (F.PWR_SLOT_V_VALUE i) v) (F.PWR_SLOT_I_VALUE i) a) (F.PWR_SLOT_P_VALUE i) p
  let old := ((assoc i s.power.powers).getD []).filter (fun q => decide (s.mono < q.1 + ticksMs))
  let s := s.withPower { s.power with powers := put i (old ++ [(s.mono, (p : Int))]) s.power.powers }
  addEnergy s i p dt

/-- One sample window of `dt` ns on all inputs. -/
def meterAll (s : State) (codes : List (BitVec 16)) (dt : Nat) : State :=
  let s := (slotIds s).foldl (fun t i => meterSlot t codes dt i) s
  let s := noteVin s (scaleCode (codeAt codes 24) (getF s F.PWR_VIN_FS_VIN_FS))
  setPsum s

/-- METER_SAMPLE (R354): samples run free unless firings end them. -/
def execMeterSample (codes : List (BitVec 16)) (s : State) : Result :=
  .next (if live s unitPWR && (!flag s F.PWR_SYNC_CFG_SYNC_EN || s.power.syncFree) then meterAll s codes 125000 else s)

/-- The raw codes and the firing's TB0 time; absent slots' entries read zero (R354, R360). -/
def snapCodes (s : State) (codes : List (BitVec 16)) : State :=
  let s := (upTo 25).foldl (fun t n =>
    setF t (F.PWR_SNAP_CODE n) (if n = 24 ∨ n / 2 < s.ident.variant.slots then codeAt codes n else 0)) s
  setWords s (F.PWR_SNAP_TIME_TIME 0).key 3 (tripleOf (s.tb 0))

/-- An ADC-start firing of comparator `k` (R287, R354). -/
def adcFire (s : State) (k : Nat) (codes : List (BitVec 16)) : State :=
  if !live s unitPWR || !flag s F.PWR_SYNC_CFG_SYNC_EN || getF s F.PWR_SYNC_CFG_TRIG ≠ k then s
  else
    let now := tbNs s 2
    let last := s.power.lastFiring
    let s := snapCodes (s.withPower { s.power with lastFiring := some now }) codes
    match last with
    | none => s.withPower { s.power with syncFree := false }
    | some t =>
      let dt := now - t
      let free := s.power.syncFree
      let s := s.withPower { s.power with syncFree := decide (dt < 100000) }
      if 100000 ≤ dt ∧ dt ≤ 1000000 then (if free then s else meterAll s codes dt)
      else setFlag s F.PWR_STAT_SYNC_LATE true

/-- SYNC_FIRING_LATE (R354). -/
def execSyncFiringLate (s : State) : Result :=
  .next (if live s unitPWR && flag s F.PWR_SYNC_CFG_SYNC_EN && !s.power.syncFree
      && (match s.power.lastFiring with
        | some t => decide (t + 1000000 ≤ tbNs s 2)
        | none => true) then
      setFlag (s.withPower { s.power with syncFree := true }) F.PWR_STAT_SYNC_LATE true
    else s)

/-! ### Fence and reset (R357) -/

/-- What a fence does: channels in Limiting trip at once. -/
def fencePower (s : State) : State :=
  (slotIds s).foldl (fun t i => if slotState t i = slotLimiting then tripSlot t i offBreaker else t) s

/-- The registers that keep their values through a reset of the unit alone (R357). -/
def pwrKept (key : Nat) : Bool :=
  let o := offOfKey key
  unitOfKey key = unitPWR &&
    (decide (o < 0x18) || (decide (0x100 ≤ o ∧ o < 0x400) &&
      (decide (o % 0x40 < 0x0C) || decide (o % 0x40 = 0x20) || decide (o % 0x40 = 0x24))))

/-- The channel's state after a reset of the unit: On with its feed up, else Empty, Seated or Disabled. -/
def recoverSlot (s : State) (i : Nat) (seated : Bool) (v vin : Nat) : State :=
  let old := slotOf s i
  let s := setSlot s i { Slot.reset with eHi := old.eHi, eFrac := old.eFrac }
  let s := setFlag s (F.PWR_SLOT_STAT_SEATED i) seated
  if !flag s (F.PWR_SLOT_CFG_EN i) then s
  else if seated ∧ 9 * vin ≤ 10 * v ∧ 0 < v then moveSlot s i slotOn
  else if seated then moveSlot s i slotSeated
  else moveSlot s i slotEmpty

/-- A reset of the PWR unit alone, where `pre` is the state before its registers went back to their reset words. -/
def resetPower (pre s : State) : State :=
  let s := s.withTimers (s.timers.filter (fun p => match p.1 with
    | .precharge _ | .ramp _ | .retry _ | .pg _ | .retryReset _ | .planned _ | .budget _ | .vinOk => false
    | _ => true))
  let s := s.withPower { s.power with lastStart := none, lastFiring := none, syncFree := false, powers := [] }
  let s := setFlag s F.PWR_STAT_SELF_SEATED (flag pre F.PWR_STAT_SELF_SEATED)
  let s := setFlag s F.PWR_STAT_NVM_INHIBIT (s.pins.vauxLow || !s.pins.pfailN || running s .nvmLift)
  let s := setFlag s F.PWR_STAT_PFAIL (!s.pins.pfailN)
  (slotIds s).foldl (fun t i =>
    recoverSlot t i (flag pre (F.PWR_SLOT_STAT_SEATED i)) (getF pre (F.PWR_SLOT_V_VALUE i)) (getF pre F.PWR_VIN_VALUE)) s

/-- BANK_SUPPLY_LOSS (R433): the bank's PRESENT clears until the next start. -/
def execBankSupplyLoss (bank : Nat) (s : State) : Result :=
  .next (if bank < 6 then setFlag s (F.PIN_BANK_STAT_PRESENT bank) false else s)

end Sys2Proof.Machine
end

