-- ==== Sys2Proof/Machine/Time.lean ====
section
/-! DEFINITION. The commands of the time unit: link and TB1 reports, the servo, comparators, captures (R277 to R290). -/

namespace Sys2Proof.Machine

/-! ### Reports (R277 to R281) -/

/-- A TIME frame that is sent to every station in the order of a direction (R278). -/
def timeFrame (s : State) (subtype port hops : Nat) (payload : List Byte) : RingFrame :=
  { blankFrame tyTIME 6 255 0x08 with
    hopLimit := BitVec.ofNat 8 hops
    typeSpecific := BitVec.ofNat 48 (subtype * 2 ^ 44 + port * 2 ^ 40)
    tsOrTxn := BitVec.ofNat 64 (tb0Short s)
    payload := payload }

/-- The first TIME frame of a subtype that waits for the time unit, and the state without it. -/
def takeTime (s : State) (subtype : Nat) : Option (LocalFrame × State) :=
  match s.ring.held.find? (fun l => l.frame.type = tyTIME && tsBits l.frame 44 4 = subtype) with
  | some l => some (l, s.withRing { s.ring with held := s.ring.held.erase l })
  | none => none

/-- The average A of a millisecond and the start of the next (R277 step 3). -/
def closeAverage (s : State) (port : Nat) : State :=
  let p := portSt s port
  setPortSt s port { p with
    sumA := 0, numA := 0, lastNumA := p.numA
    lastA := if p.numA = 0 then none else some (p.sumA / (p.numA : Int)) }

/-- The payload of a link report (R278). -/
def linkPayload (s : State) (port : Nat) : List Byte :=
  let p := portSt s port
  beBytes 8 (unsignedOf 64 (p.lastA.getD 0)) ++ beBytes 2 p.lastNumA
    ++ [BitVec.ofNat 8 (bit01 (tb0State s = tbLocked || tb0State s = tbMaster))] ++ List.replicate 5 0

/-- LINK_REPORT_SEND (R277): a ring port that is Up and not in forerunner mode, every 1 ms. -/
def execLinkReportSend (port : Nat) (s : State) : Result :=
  .next (
    if live s unitTIM ∧ live s unitRNG ∧ port < 2 ∧ buState s port = buUp ∧ flag s (F.RNG_PORT_STAT_FR port) = false
        ∧ due s (.linkReport port) then
      let s := startTimer (closeAverage s port) (.linkReport port) ticksMs
      addOwnOnPort s port (timeFrame s 0 port 1 (linkPayload s port))
    else s)

/-- A link report: once both ends have measured, the link delay (A + B) / 2 and the offset (A − B) / 2 − ASYM; from the upstream
port the report drives TB0 (R277, R279). -/
def receiveLink (s : State) (port : Nat) (f : RingFrame) : State :=
  let b := signed 64 (ofBe (f.payload.take 8))
  let n := ofBe ((f.payload.drop 8).take 2)
  let peerOk := (f.payload.getD 10 0).getLsbD 0
  let measured := if n = 0 then none else (portSt s port).lastA
  let s := match measured with
    | some a => setF s (F.TIM_PORT_DELAY_VALUE port) (unsignedOf 32 (max 0 ((a + b) / 2)))
    | none => s
  if getF s F.TIM_TB0_SYNC_MASTER = 0 ∨ tb0State s = tbMaster ∨ getF s F.TIM_TB0_SYNC_UPSTREAM ≠ port then s
  else match measured with
    | some a =>
      let o := (a - b) / 2 - signed 32 (getF s (F.TIM_PORT_ASYM_VALUE port))
      let s := setF s F.TIM_TB0_OFFSET_O (unsignedOf 32 (max (-(2 ^ 31)) (min (2 ^ 31 - 1) o)))
      servoReport (s.withTime { s.time with lastO := some o }) (some o) peerOk
    | none => servoReport s none peerOk

/-- LINK_REPORT_RECEIVE (R279). -/
def execLinkReportReceive (s : State) : Result :=
  .next (match takeTime s 0 with
    | some (l, s) => if live s unitTIM && !flag s (F.RNG_PORT_STAT_FR l.port) then receiveLink s l.port l.frame else s
    | none => s)

/-- RATE within ±500 ppm as a register value. -/
def clampRate (r : Int) : Nat := unsignedOf 32 (max (-2147483) (min 2147483 r))

/-- What a 1 ms update does to RATE: TB0 Locked is held at o = 0, TB0 Slewing runs towards it, TB1 tracks the reported
offset, slewing while it is far (R279, R281; log entry 9). -/
def servoAdjust (s : State) (base : Nat) : State :=
  let rate := signed 32 (getF s (F.TIM_TB_RATE_RATE base))
  if base = 0 then
    match s.time.lastO with
    | some o =>
      if tb0State s = tbLocked then setF s (F.TIM_TB_RATE_RATE 0) (clampRate (rate + Config.servoStep rate o))
      else if tb0State s = tbSlewing then setF s (F.TIM_TB_RATE_RATE 0) (slewRate (0 < o))
      else s
    | none => s
  else match tb1Error s with
    | some e => setF s (F.TIM_TB_RATE_RATE 1) (clampRate (rate + Config.servoStep rate (e / 2 ^ 24)))
    | none => s

/-- SERVO_UPDATE (R279, R281): every 1 ms while the hardware owns the base. -/
def execServoUpdate (base : Nat) (s : State) : Result :=
  .next (
    if live s unitTIM ∧ base < 2 ∧ servoOwned s base ∧ (running s (.servo base) = false ∨ due s (.servo base) = true) then
      startTimer (servoAdjust s base) (.servo base) ticksMs
    else s)

/-- UPSTREAM_REPORT_TIMEOUT (R279). -/
def execUpstreamReportTimeout (s : State) : Result :=
  .next (
    if live s unitTIM ∧ due s .upstream then
      let s := stopTimer s .upstream
      if tb0State s = tbLocked && flag s F.TIM_TB0_CFG_SERVO then enterHoldover s else s
    else s)

/-- TB1 − TB0 in a TB1 report (R278). -/
def tb1Payload (s : State) : List Byte :=
  let o : Int := (s.tb 1 : Int) - (s.tb 0 : Int)
  let ns := o / 2 ^ 32
  beBytes 6 (unsignedOf 48 (ns / nsPerSec)) ++ beBytes 4 (ns % nsPerSec).toNat
    ++ [BitVec.ofNat 8 ((o / 2 ^ 24) % 256).toNat, BitVec.ofNat 8 (bit01 (flag s F.TIM_TB1_CFG_REF_OK))]
    ++ List.replicate 4 0

/-- TB1_REPORT_SEND (R278): every 1 ms by the TB1 source, to all stations. -/
def execTb1ReportSend (s : State) : Result :=
  .next (
    if live s unitTIM ∧ live s unitRNG ∧ isTb1Source s ∧ (running s .tb1Send = false ∨ due s .tb1Send = true) then
      addOnPort (startTimer s .tb1Send ticksMs) 0 (timeFrame s 1 0 255 (tb1Payload s))
    else s)

/-- The offset a TB1 report carries, in units of 2^-32 ns. -/
def reportedOffset (bs : List Byte) : Int :=
  (signed 48 (ofBe (bs.take 6)) * (nsPerSec : Int) + (ofBe ((bs.drop 6).take 4) : Nat)) * 2 ^ 32
    + ((bs.getD 10 0).toNat * 2 ^ 24 : Nat)

/-- A report of the current source: the one step, if it is not used, and what TB1 follows from now on (R281). -/
def receiveTb1 (s : State) (f : RingFrame) : State :=
  let o := reportedOffset f.payload
  let s := s.withTime { s.time with
    tb1Offset := some o, tb1RefOk := (f.payload.getD 11 0).getLsbD 0, tb1Following := true }
  let s := startTimer s .tb1Report (3 * ticksMs)
  if flag s (F.TIM_TB_STAT_STEPPED 1) then s
  else setFlag (setBase s 1 (((s.tb 0 : Int) + o) % (baseModulus : Int)).toNat) (F.TIM_TB_STAT_STEPPED 1) true

/-- TB1_REPORT_RECEIVE (R281): a report of another hub than the source, or on the source itself, is ignored. -/
def execTb1ReportReceive (s : State) : Result :=
  .next (match takeTime s 1 with
    | some (l, s) =>
      match tb1SourceKey s with
      | some (_, n, sd) =>
        if live s unitTIM && l.frame.srcNode.toNat = n && l.frame.side = sd && !isTb1Source s
        then receiveTb1 s l.frame else s
      | none => s
    | none => s)

/-- TB1_REPORT_TIMEOUT (R281): VALID of TB1 clears as reports stop. The spec gives no time; 3 ms stand as for R279 (log
entry 27). -/
def execTb1ReportTimeout (s : State) : Result :=
  .next (if due s .tb1Report then stopTimer s .tb1Report else s)

/-! ### Comparators (R286, R287) -/

/-- TRIGGER_ARM (R286). -/
def execTriggerArm (k : Nat) (s : State) : Result :=
  .next (if live s unitTIM ∧ k < 64 then armTrigger s k else s)

/-- Captures with comparator `k` as their source are owed the time of their base at the firing tick (R288). -/
def oweCaptures (s : State) (k : Nat) : State :=
  (upTo 64).foldl (fun t c =>
    if flag t (F.TIM_CAP_CFG_EN c) && flag t (F.TIM_CAP_CFG_SRC c) && getF t (F.TIM_CAP_CFG_INDEX c) = k then
      t.withTime { t.time with capOwed := t.time.capOwed ++ [(c, t.tb (getF t (F.TIM_CAP_CFG_BASE c)))] }
    else t) s

/-- The capture-ring trigger (R168, R287). -/
def captureTrigger (s : State) : State :=
  if live s unitPLZ && flag s F.PLZ_CAP_CFG_EN && getF s F.PLZ_CAP_CFG_TRIG_COUNT ≠ 0 then
    setF s F.PLZ_CAP_STAT_TRIG_LEFT (getF s F.PLZ_CAP_CFG_TRIG_COUNT)
  else s

/-- The output of a firing comparator (R287); `codes` are the converters' raw codes of a synchronous sample. -/
def triggerOutput (s : State) (k : Nat) (codes : List (BitVec 16)) : State :=
  match getF s (F.TIM_TRG_CFG_OUT k) with
  | 0 => s
  | 1 => adcFire (output s .adcStart) k codes
  | 2 => fireEngines s k
  | 6 => triggerTick s k
  | 7 => captureTrigger s
  | out => triggerPin s (getF s (F.TIM_TRG_CFG_GIO k)) out

/-- TRIGGER_FIRE (R286). -/
def execTriggerFire (k : Nat) (codes : List (BitVec 16)) (s : State) : Result :=
  .next (if k < 64 ∧ trgDue s k then triggerOutput (fireTrigger (oweCaptures s k) k) k codes else s)

/-! ### Captures (R288 to R290) -/

/-- Whether EDGE selects an edge. -/
def edgeSelected (edge : Nat) (rising : Bool) : Bool := if rising then bitAt edge 0 else bitAt edge 1

/-- CAPTURE_EVENT of unit `k` with a GIO source, at an edge of the pad: INV comes before EDGE. -/
def captureGio (s : State) (k : Nat) (risingPad : Bool) : State :=
  let g := getF s (F.TIM_CAP_CFG_INDEX k)
  let rising := risingPad != flag s (F.PIN_GIO_CFG_INV g)
  if g < 192 ∧ edgeSelected (getF s (F.TIM_CAP_CFG_EDGE k)) rising = true then
    storeCapture s k (s.tb (getF s (F.TIM_CAP_CFG_BASE k))) rising
  else s

/-- CAPTURE_EVENT of unit `k` with a comparator source: the oldest firing it is owed. -/
def captureFiring (s : State) (k : Nat) : State :=
  match s.time.capOwed.find? (fun p => p.1 = k) with
  | some p => storeCapture (s.withTime { s.time with capOwed := s.time.capOwed.erase p }) k p.2 false
  | none => s

/-- CAPTURE_EVENT (R288). -/
def execCaptureEvent (k : Nat) (risingPad : Bool) (s : State) : Result :=
  .next (
    if live s unitTIM ∧ k < 64 ∧ flag s (F.TIM_CAP_CFG_EN k) then
      if flag s (F.TIM_CAP_CFG_SRC k) then captureFiring s k else captureGio s k risingPad
    else s)

/-! ### Fence and reset (R291, R370, R442) -/

/-- The fence of TIM: TB0 goes to Holdover from Locked, Master and Slewing (R370). -/
def fenceTime (s : State) : State :=
  if tb0State s = tbLocked ∨ tb0State s = tbMaster ∨ tb0State s = tbSlewing then enterHoldover s else s

/-- Bases re-armed with VALID clear and TB0 Free, as after any reset (R291, R442). The registers have gone back to
their reset words. -/
def resetTime (s : State) : State :=
  let s := s.withTime { s.time with
    heldRate := none, lastO := none, tb1Offset := none, tb1RefOk := false, tb1Following := false
    trgNext := [], capOwed := [], cycleLen := 10000 }
  s.withTimers (s.timers.filter (fun p => match p.1 with
    | .upstream | .tb1Report | .tb1Send | .servo _ => false
    | _ => true))

end Sys2Proof.Machine
end

