-- ==== Sys2Proof/Machine/Twin.lean ====
section
/-! DEFINITION. Twin control (R318 to R335) apart from applying what a delta carries: claims, the link, departure
records, the planned handover, taking the role Active. -/

namespace Sys2Proof.Machine

/-- Whether twin control runs. -/
def twinLive (s : State) : Bool := live s unitTWN

/-- Whether the claim conditions of R321 hold: TWN_PEER low for 2 µs, and no peer that the link shows Active. -/
def claimConditions (s : State) : Bool := peerLow s && (!s.twin.linkUp || s.twin.peerRole != 0)

/-! ### Taking the role Active (R324, R332) -/

/-- Whether a recorded request lies beyond the copied sequence number of its source (R32). -/
def beyondCopied (s : State) (l : LocalFrame) : Bool :=
  match lookupKey (seqKey (requestOf l)) s.txn.copied with
  | some m => seqAhead (requestSeq l) m
  | none => true

/-- The recorded requests that the failed Active has not executed are served, in order, and the record is discarded. -/
def replayRecorded (s : State) : State :=
  (s.txn.recorded.filter (beyondCopied s)).foldl serveRequest (s.withTxn { s.txn with recorded := [] })

/-- What the deltas have told of a bus buffer: its state alone decides whether it is carried again (R328). -/
def bufTold (s : State) (c b : Nat) : DeltaRec := .busBuffer c b (bufState s c b) 0 0 []

/-- What deltas tell of slots, channels and buffers, by key: a record is carried when it has changed (R328). -/
def tells (s : State) : List (Nat × DeltaRec) :=
  (slotIds s).map (fun i => (i, slotRecord s i))
    ++ (upTo s.ident.variant.busChannels).map (fun c =>
      (500 + c, .busChannel c (getF s (F.BUS_CH_STAT_TEC c)) (getF s (F.BUS_CH_STAT_REC c)) (getF s (F.BUS_CH_STAT_STATE c))))
    ++ (upTo s.ident.variant.busChannels).flatMap (fun c => (upTo 32).map (fun b => (1000 + 64 * c + b, bufTold s c b)))

/-- A record with all that is carried of a bus buffer (R328). -/
def wholeTell (s : State) : DeltaRec → DeltaRec
  | .busBuffer c b st _ _ _ =>
    .busBuffer c b st (getF s (F.BUS_CH_TXSTAT_ATTEMPTS c b)) (bufAge s c b) (memRead s (bufAddr c b) 72)
  | r => r

/-- Every buffer's changes have been told of. -/
def forgetChanged (s : State) : State := s.withBus (s.bus.map (fun p => (p.1, { p.2 with changed := [] })))

/-- Role Active: the claim and the recorded requests (R332). With the role restricted operation of the bus channels ends
(R239) and shadow queues transmit (R325). -/
def becomeActive (s : State) : State :=
  let s := raiseClaim (setRole (stopTimer s .solo) .active)
  let s := forgetChanged s
  let s := endResync (s.withTwin { s.twin with
    delta := [], executedNew := [], told := tells s, rxDelta := [], finalIn := none, unacked := false, handoverReq := false
    releasing := false, pinFault := false, hbCount := 0 })
  replayRecorded s

/-- The next node cycle, modulo 2^16. -/
def nextCycle (s : State) : Nat := (s.time.cycleNo + 1) % 65536

/-- What a switch-over records and reports (R332). -/
def noteSwitch (s : State) (reason : Nat) : State :=
  setF (setF s F.TWN_LAST_SWITCH_REASON reason) F.TWN_LAST_SWITCH_CYCLE (nextCycle s)

/-- SWITCH_OVER, order 4 of a boundary (R332). -/
def switchOver (s : State) : State :=
  if twinLive s && s.twin.role = .standby && inService s && claimConditions s then
    let reason := if s.twin.finalIn.isSome then 2 else 1
    let s := incF (noteSwitch (becomeActive s) reason) F.TWN_SWITCHOVERS_COUNT
    recordFault s fltTwnSwitchover unitTWN (regWord s F.TWN_LAST_SWITCH_REASON.key) 0
  else s

/-- The cold takeover of a NotReady hub in Service (R324), as its conditions come to hold. It waits out the time of the
first case, which a start gives it (log entry 29). -/
def coldTakeover (s : State) : State :=
  if twinLive s && s.twin.role = .notReady && inService s && flag s F.TWN_CFG_COLD_EN && claimConditions s
      && !running s .solo then
    recordFault (noteSwitch (becomeActive s) 3) fltTwnColdTakeover unitTWN 0 0
  else s

/-- A write of COLD_EN may complete the conditions of a cold takeover. -/
def coldEnabled (pre s : State) : State :=
  if !flag pre F.TWN_CFG_COLD_EN && flag s F.TWN_CFG_COLD_EN then coldTakeover s else s

/-! ### The interlock pins (R318 to R321) -/

/-- CLAIM_YIELD (R320): both hubs claim, neither has TWN_OE high, and this is side B. -/
def claimYield (s : State) : State :=
  if s.twin.claim && s.pins.twnPeer && !s.twin.oe && s.dev.side && s.ident.variant.hasTwn then
    let s := incF (lowerClaim s) F.TWN_CLAIM_YIELD_COUNT
    if s.twin.role = .active then leaveActive s .notReady else s
  else s

/-- A Standby whose TWN_PEER is low while its link shows the peer Active (R321). -/
def pinMismatch (s : State) : Bool := s.twin.role = .standby && peerLow s && s.twin.linkUp && s.twin.peerRole = 0

/-- The mismatch reported and counted as it arises (R321). -/
def checkPeerPin (s : State) : State :=
  let t := s.withTwin { s.twin with pinFault := pinMismatch s }
  if pinMismatch s && !s.twin.pinFault then recordFault (incF t F.TWN_PEER_PIN_FAULT_COUNT) fltTwnPeerPin unitTWN 0 0 else t

/-- TWN_PEER high: TWN_OE falls, and the wait of a start for a silent peer ends (R319, R324). -/
def peerRise (s : State) : State :=
  let s := checkPeerPin (stopTimer (stopTimer (s.withPins { s.pins with twnPeer := true }) .peerLow) .solo)
  if s.ident.variant.hasTwn then claimYield (s.withTwin { s.twin with oe := false }) else s
def execTwnPeerRise (s : State) : Result := .next (peerRise s)

/-- TWN_PEER_FALL (R321): the 2 µs filter starts. -/
def execTwnPeerFall (s : State) : Result :=
  .next (if s.pins.twnPeer then startTimer (s.withPins { s.pins with twnPeer := false }) .peerLow (2 * ticksUs) else s)

/-- What 2 µs of TWN_PEER low bring (R319 to R321, R324): TWN_OE on a held claim, the claim of a Single hub, the report
of a Standby whose link still shows the peer Active, a cold takeover. A Standby whose conditions hold switches over at
the next boundary (R332). -/
def peerLowQualified (s : State) : State :=
  let s := checkPeerPin s
  if s.twin.role = .single ∨ s.twin.claim = true then (if inService s then raiseClaim s else s)
  else coldTakeover s
def execPeerLowQualified (s : State) : Result := .next (if peerLow s then peerLowQualified s else s)

/-- SOLO_WAIT_EXPIRY (R324). -/
def execSoloWaitExpiry (s : State) : Result :=
  .next (
    if due s .solo then
      let s := stopTimer s .solo
      if twinLive s && s.twin.role = .notReady && inService s && claimConditions s then becomeActive s else s
    else s)

/-! ### The link (R327) -/

/-- The own state-copy schema number. -/
def ownSchema (s : State) : Byte := s.dev.schema

/-- Whether this hub asks for a resynchronisation: NotReady, the link up to an Active peer (R323, R330). -/
def wantsResync (s : State) : Bool := s.twin.role = .notReady && s.twin.linkUp && s.twin.peerRole = 0

/-- The size of a record by the table of R328. -/
def recordBytes : DeltaRec → Nat
  | .regWrite _ _ _ => 16
  | .memWrite _ _ bs => 12 + bs.length
  | .reqSeq _ _ _ _ => 4
  | .mqPop _ => 8
  | .mqRelease _ => 8
  | .mqPush _ _ bs => 8 + bs.length
  | .txPush _ ws => 8 * ws.length
  | .rxPop _ => 8
  | .busBuffer _ _ _ _ _ _ => 80
  | .busChannel _ _ _ _ => 8
  | .slot _ _ _ _ _ _ => 16
  | .signal _ _ => 16
  | .alive _ _ => 4
  | .macEntry _ _ => 12
  | .store => 12
  | .banks _ => 12
  | .mqState _ msgs held => 8 + ((msgs ++ held.toList).map (fun m => 8 + m.bytes.length)).sum

/-- Records as bytes: each of its size, by the encoding of the schema (R327, R328; log entry 136). -/
def encodeRecords (schema : Byte) (rs : List DeltaRec) : List Byte :=
  rs.flatMap (fun r => padTo (recordBytes r) (Config.deltaEncoding schema r))

/-- The bytes of a twin frame before its CRC-32: header and payload (R327). -/
def twinBody (schema : Byte) : TwinMsg → List Byte
  | .keepalive role sch resync => [0, role, sch, BitVec.ofNat 8 (bit01 resync), 0, 0, 0, 0]
  | .delta d =>
    [1, BitVec.ofNat 8 (bit01 d.final + 2 * bit01 d.overBudget + 4 * bit01 d.last)] ++ beBytes 2 d.cycle.toNat
      ++ beBytes 2 d.index ++ [0, 0] ++ encodeRecords schema d.recs
  | .ack cycle crc => [2, 0] ++ beBytes 2 cycle.toNat ++ beBytes 4 crc.toNat
  | .depart recs =>
    [3, BitVec.ofNat 8 recs.length, 0, 0, 0, 0, 0, 0] ++ recs.flatMap (fun r => beBytes 8 (Config.departEncoding r).toNat)
  | .snapshot offset recs => [4, 0] ++ beBytes 4 offset ++ [0, 0] ++ encodeRecords schema recs

/-- A twin frame sent: after its SOF word its body and a CRC-32 by R111, on port 2 without encryption (R327). -/
def sendTwin (s : State) (m : TwinMsg) : State :=
  let body := twinBody (ownSchema s) m
  let words := frameWords (body ++ fcsBytes body false)
  sendWords s 2 words (fun slot => .twin m slot words)

/-- TWIN_KEEPALIVE_SEND (R327). -/
def execTwinKeepaliveSend (s : State) : Result :=
  .next (
    if twinLive s && buState s 2 = buUp && due s .twinKaSend then
      startTimer (sendTwin s (.keepalive (BitVec.ofNat 8 s.twin.role.code) (ownSchema s) (wantsResync s))) .twinKaSend ticksUs
    else s)

/-- TWIN_LINK_DOWN (R327): 8 µs without a keepalive, or lock lost; without a link R321 may hold (R324). -/
def execTwinLinkDown (lockLost : Bool) (s : State) : Result :=
  .next (if s.twin.linkUp && (lockLost || due s .twinKa) then coldTakeover (twinLinkLost s) else s)

/-! ### Departure records (R326) -/

/-- DEPARTURE_SEND: at most 900 bytes of 8-byte records each microsecond. -/
def execDepartureSend (s : State) : Result :=
  .next (
    if twinLive s && s.twin.role = .active && s.twin.linkUp && (!running s .depart || due s .depart) then
      let now := s.plaza.departed.take 112
      let s := s.withPlaza { s.plaza with departed := s.plaza.departed.drop 112 }
      let s := startTimer s .depart ticksUs
      if now = [] then s else sendTwin s (.depart (now.map Prod.fst))
    else s)

/-- Whether a queued frame is the one a record names. -/
def namedBy (r : DepartRec) (q : Nat) (f : PlzFrame) : Bool := departIdentity q f = r

/-- Whether a queued frame comes from the ingress port or source of a record and precedes the named one: its number lies
behind, modulo 2^24 or 2^16. -/
def precedes (r : DepartRec) (q : Nat) (f : PlzFrame) : Bool :=
  let d := departIdentity q f
  let m := if r.ring then 65536 else 16777216
  d.ring = r.ring && d.src = r.src && d.side = r.side && decide (0 < (r.seq + m - d.seq) % m)
    && decide ((r.seq + m - d.seq) % m < m / 2)

/-- The frame of a reference satisfies a test. -/
def refIs (s : State) (test : PlzFrame → Bool) (x : QRef) : Bool :=
  match frameOf s x.fid with
  | some f => test f
  | none => false

/-- One departure record applied to its shadow queue: every frame up to and including the named one is removed; without
it, the frames of its source that precede it. -/
def trimQueue (s : State) (r : DepartRec) : State :=
  let refs := (queueRefs s r.queue).filter QRef.shadow
  let upto := refs.takeWhile (fun x => !refIs s (namedBy r r.queue) x)
  if upto.length < refs.length then
    (refs.take (upto.length + 1)).foldl (fun t x => removeRef t r.queue x) s
  else
    incF ((refs.filter (refIs s (precedes r r.queue))).foldl (fun t x => removeRef t r.queue x) s)
      F.TWN_DEPART_MISS_COUNT

/-- DEPARTURE_RECEIVE: a Standby, and a NotReady hub with its shadow queues, trims them. -/
def execDepartureReceive (recs : List DepartRec) (s : State) : Result :=
  .next (if twinLive s && s.twin.linkUp && !acting s then recs.foldl trimQueue s else s)

/-! ### Handover, resynchronisation and heartbeat commands (R330, R331, R334, R335) -/

/-- The reason for which HANDOVER is refused, 0 for none (R335). The more specific reasons come first (log entry 30). -/
def handoverRefusal (s : State) : Nat :=
  if s.twin.role ≠ .active then 1
  else if !s.twin.linkUp then 3
  else if s.twin.peerSchema ≠ ownSchema s then 4
  else if flag s F.TWN_STAT_RESYNC_BUSY then 5
  else if s.twin.peerRole ≠ 1 then 2
  else 0

/-- A write of 1 to HANDOVER (R334, R335). -/
def requestHandover (s : State) : State :=
  let r := handoverRefusal s
  if r = 0 then setFlag (s.withTwin { s.twin with handoverReq := true }) F.TWN_CTL_HANDOVER true
  else setFlag (setF (setFlag s F.TWN_STAT_REFUSED true) F.TWN_STAT_REFUSE_REASON r) F.TWN_CTL_HANDOVER false

/-- A write of 1 to RESYNC (R330, R337). -/
def requestResync (s : State) : State :=
  if s.twin.role = .standby ∨ s.twin.role = .notReady then
    setFlag (endResync (setRole s .notReady)) F.TWN_CTL_RESYNC true
  else s

/-- A write of 1 to HB (R331, R415). -/
def heartbeat (s : State) : State :=
  setFlag (stopTimer (s.withTwin { s.twin with hbCount := 0, hbSuspended := false }) .mgtHb) F.TWN_CTL_HB true

/-- A write to TWN_CTL. -/
def writeTwinCtl (s : State) (w : Nat) : State :=
  let s := if bitAt w 2 then heartbeat s else s
  let s := if bitAt w 1 then requestResync s else s
  if bitAt w 0 then requestHandover s else s

/-- HEARTBEAT_MISSED (R331). -/
def execHeartbeatMissed (s : State) : Result :=
  .next (
    if twinLive s && s.twin.role = .active && decide (getF s F.TWN_CFG_HB_CYCLES ≠ 0)
        && decide (getF s F.TWN_CFG_HB_CYCLES ≤ s.twin.hbCount) && (!s.twin.hbSuspended || due s .mgtHb) then releaseClaim s
    else s)

/-- BOUNDARY_WATCHDOG (R331): 1.5 cycle lengths since the last boundary. -/
def execBoundaryWatchdog (s : State) : Result :=
  .next (
    if twinLive s && s.twin.role = .active && decide (s.time.lastBoundary + 3 * s.time.cycleLen / 4 ≤ s.mono) then
      releaseClaim s
    else s)

/-- The planned release (R334): the former Active is Standby at once, or NotReady where it releases its claim by this path
(R331). No delta of the cycle that it still served comes from its peer. -/
def giveOver (s : State) : State :=
  let n := s.time.cycleNo
  let s := leaveActive s (if s.twin.releasing then .notReady else .standby)
  s.withTwin { s.twin with served := some n }

/-- HANDOVER_RELEASE (R334): 3 µs before the boundary with the acknowledgement in; one that has not come 2.2 µs before
the boundary comes too late. -/
def execHandoverRelease (s : State) : Result :=
  .next (
    if twinLive s && s.twin.role = .active && s.twin.finalOut && decide (toBoundary s ≤ 3 * ticksUs) then
      if s.twin.finalAcked then giveOver s
      else if toBoundary s < 1100 then
        incF (s.withTwin { s.twin with finalOut := false }) F.TWN_HANDOVER_WAIT_COUNT
      else s
    else s)

/-- DELTA_ACK_RECEIVE (R329, R334): the acknowledgement of the last delta, which names its cycle and its CRC-32 (log entry
203); of a FINAL one it lets the claim go, at once within the last 3 µs. -/
def receiveAck (s : State) (cycle : BitVec 16) (crc : Word) : State :=
  if getF s F.TWN_CYCLE_SENT = cycle.toNat ∧ s.twin.sentCrc = crc then
    let s := setF (s.withTwin { s.twin with unacked := false }) F.TWN_CYCLE_ACKED cycle.toNat
    if s.twin.finalOut && decide (1100 ≤ toBoundary s) then
      let s := s.withTwin { s.twin with finalAcked := true }
      if toBoundary s ≤ 3 * ticksUs then giveOver s else s
    else s
  else s
def execDeltaAckReceive (cycle : BitVec 16) (crc : Word) (s : State) : Result :=
  .next (if twinLive s && s.twin.role = .active && s.twin.linkUp then receiveAck s cycle crc else s)

end Sys2Proof.Machine
end

