-- ==== Sys2Proof/Machine/Operands.lean ====
section
/-! DEFINITION. The operand of a request, its address: units and windows (R33, R34), the bridge window (R37), the target
that orders requests (R40, R53), the islands of a unit (R13, R14). -/

namespace Sys2Proof.Machine

/-- The memory windows of R33. -/
inductive Win where
  | pfl | plzTables | capture | cells | ringMap | accMac | jct | mqQueues | pollTable | busRam | arc | fltLog | nvm
  | bridge | objects
deriving DecidableEq, Repr

/-- The windows of a unit: base, size and what stands there (R33). -/
def windowsOf (v : Variant) (u : Nat) : List (Nat × Nat × Win) :=
  if u = unitSYS then [(0x00010000, 0x400, .pfl)]
  else if u = unitPLZ then
    [(0x00100000, 0x80000, .plzTables), (0x00800000, 0x60000, .capture), (0x01000000, 256 * v.cells, .cells)]
  else if u = unitRNG then [(0x00010000, 0x10000, .ringMap)]
  else if u = unitACC then [(0x00010000, 0x18000, .accMac)]
  else if u = unitJCT then [(0x01000000, 0x280000, .jct)]
  else if u = unitMQ then [(0x00010000, 0x100000, .mqQueues), (0x00200000, 0x4000, .pollTable)]
  else if u = unitBUS then [(0x00100000, 0x40000, .busRam)]
  else if u = unitARC then [(0x00010000, 0x9000, .arc)]
  else if u = unitFLT then [(0x00010000, 0x1000, .fltLog)]
  else if u = unitNVM then [(0x01000000, 0x800000, .nvm)]
  else if u = unitI2B then [(0x40000000, 0x80000000, .bridge)]
  else if u = unitODW then [(0x01000000, 0x1000000, .objects)]
  else []

/-- Where an offset of a unit lies (R34): a register block, a window with the offset in it, or nowhere. -/
inductive Place where
  | register
  | window (w : Win) (at_ : Nat)
  | nowhere
deriving DecidableEq, Repr

def placeIn : List (Nat × Nat × Win) → Nat → Place
  | [], _ => .nowhere
  | (base, size, w) :: t, off => if base ≤ off ∧ off < base + size then .window w (off - base) else placeIn t off

def placeOf (v : Variant) (u off : Nat) : Place := if off < 0x10000 then .register else placeIn (windowsOf v u) off

/-- What an offset of the bridge window names (R37). -/
inductive BridgeReg where
  | i2c (bus device width reg : Nat)
  | clause22 (bus phy reg : Nat)
  | clause45 (bus phy mmd reg : Nat)
deriving DecidableEq, Repr

/-- The device register of a bridge offset; none where a reserved field is not zero or a form does not exist (R37). -/
def bridgeReg (off : Nat) : Option BridgeReg :=
  if bitsAt off 30 2 = 1 then
    if bitsAt off 17 2 = 3 ∨ bitAt off 16 = true then none
    else some (.i2c (bitsAt off 26 4) (bitsAt off 19 7) (bitsAt off 17 2) (bitsAt off 0 16))
  else if bitsAt off 30 2 = 2 then
    if bitsAt off 26 2 ≠ 0 then none
    else if bitAt off 28 then some (.clause45 (bitsAt off 29 1) (bitsAt off 21 5) (bitsAt off 16 5) (bitsAt off 0 16))
    else if bitsAt off 16 5 ≠ 0 ∨ bitsAt off 5 11 ≠ 0 then none
    else some (.clause22 (bitsAt off 29 1) (bitsAt off 21 5) (bitsAt off 0 5))
  else none

/-- The bus a device register is on: 0–15 I2C, 16 and 17 MDIO. -/
def BridgeReg.bus : BridgeReg → Nat
  | .i2c b _ _ _ => b
  | .clause22 b _ _ => 16 + b
  | .clause45 b _ _ _ => 16 + b

/-- The target that orders requests: the unit, or for the bridge one of its 18 buses (R40, R53). -/
def orderTarget (u off : Nat) : Nat :=
  if u = unitI2B ∧ 0x10000 ≤ off then
    match bridgeReg off with
    | some r => 0x100 + r.bus
    | none => u
  else u

/-- The islands of a unit (R13, R14). RNG's boundary in the TWN island is that of port 2; access lanes 12–23 lie in AXB. -/
def islandsOf (v : Variant) (u : Nat) : List Nat :=
  if u = unitPLZ then [2]
  else if u = unitRNG then (if v.hasTwn then [3, 4, 5] else [3, 4])
  else if u = unitACC then (if 12 < v.accLanes then [6, 7] else [6])
  else if u = unitJCT ∨ u = unitMQ ∨ u = unitI2B ∨ u = unitSYS then [8]
  else if u = unitBUS then [10]
  else if u = unitARC ∨ u = unitPIN then [9]
  else if u = unitTIM then [13, 0]
  else if u = unitCIP then [11]
  else if u = unitTWN then [5]
  else if u = unitPWR then [12]
  else [1]

/-- The island at whose boundary a request to an offset stands: of a unit with several, that of the port or lane the
offset names, the first for common registers (log entry 31). -/
def islandOf (v : Variant) (u off : Nat) : Nat :=
  let first := (islandsOf v u).headD 1
  if u = unitRNG then
    match regAt (keyOf u off) with
    | some (d, i :: _) => if d.pres = .ringPort ∧ i < (islandsOf v u).length then 3 + i
        else if d.pres = .ringLane ∧ i / 2 < (islandsOf v u).length then 3 + i / 2 else first
    | _ => first
  else if u = unitACC then
    match regAt (keyOf u off) with
    | some (d, i :: _) => if d.pres = .accLane ∧ 12 ≤ i then 7 else if d.pres = .accPort ∧ 48 ≤ i then 7 else first
    | _ => first
  else first

end Sys2Proof.Machine
end

