-- ==== Sys2Proof/Machine/Units.lean ====
section
/-! DEFINITION. Fences and resets of units (R15 to R17, R72, R84, R370): the handshake, what a fence does to a unit's
ports and outputs, what a reset leaves of it, how it comes back. -/

namespace Sys2Proof.Machine

/-! ### The handshake (R15) -/

/-- Whether a boundary of the unit is in its drain window. -/
def draining (s : State) (u : Nat) : Bool := s.drains.any (fun d => d.unit = u)

/-- Step 1 at every boundary of a unit: what is inside may still complete, later arrivals take the case's code. A request to
the unit that waits in the engine's buffer counts as inside (log entry 172). A unit whose fence is already in place has
nothing to drain. -/
def startDrain (s : State) (u : Nat) (reset : Bool) : State :=
  let inside (r : Request) := unitOfAddr r.addr = u
  let s := s.withTxn { s.txn with reqs := s.txn.reqs.map (fun r => if inside r then { r with inside := true } else r) }
  (islandsOf s.ident.variant u).foldl (fun t i =>
    startTimer (t.withDrains ((t.drains.filter (fun d => !(d.unit = u && d.island = i))) ++ [⟨u, i, reset, none⟩]))
      (.drain u i) (4 * ticksUs)) s

/-- Whether a request that was inside its unit at step 1 may still complete: its boundary's window runs, and step 3 has not
begun (R15). -/
def inWindow (s : State) (r : Request) : Bool :=
  let u := unitOfAddr r.addr
  let i := islandOf s.ident.variant u (offOfAddr r.addr)
  r.inside && s.drains.any (fun d => d.unit = u && d.island = i && d.ended.isNone) && !due s (.drain u i)

/-- The requests still inside a unit at one of its boundaries. -/
def heldAt (s : State) (u island : Nat) : List Request :=
  s.txn.reqs.filter (fun r => r.inside && unitOfAddr r.addr = u && islandOf s.ident.variant u (offOfAddr r.addr) = island)

/-- A bus of the bridge ends its transfer with a stop (R66, R370). -/
def stopTransfer (s : State) (r : Request) : State :=
  if unitOfAddr r.addr = unitI2B && r.waiting then
    match bridgeReg (offOfAddr r.addr) with
    | some (.i2c b _ _ _) => output s (.i2cStop b 0)
    | _ => s
  else s

/-- Requests completed with a code and removed from the engine (R15 step 3). -/
def endRequests (s : State) (rs : List Request) (code : Nat) : State :=
  rs.foldl (fun t r =>
    let t := stopTransfer t r
    completeRequest (t.withTxn { t.txn with reqs := t.txn.reqs.erase r }) r code []) s

/-! ### What a fence does (R370) -/

/-- Whether a port's bring-up is past Cap with encryption agreed: it may not go on without CIP (R303). -/
def encSegment (s : State) (p : Nat) : Bool := decide (buCap < buState s p) && (portSt s p).encAgreed

/-- The ports and outputs of a unit as its fence or reset begins. -/
def fenceEffects (s : State) (u : Nat) : State :=
  if u = unitPLZ then (internalPorts u).foldl portLinkLost (declareBroken (declareBroken s 0) 1)
  else if u = unitRNG then [0, 1, 2].foldl (fun t p => if hasPort t p && buState t p != buDown then enterDown t p else t) s
  else if u = unitACC then (upTo s.ident.variant.accPorts).foldl portLinkLost s
  else if u = unitJCT then (internalPorts u).foldl portLinkLost (stopJunction s)
  else if u = unitMQ then rewindAll s
  else if u = unitARC then stopEngines s
  else if u = unitTIM then fenceTime s
  else if u = unitCIP then
    let s := (internalPorts u).foldl portLinkLost (abortDescriptors s)
    [0, 1].foldl (fun t p => if encSegment t p then enterCap t p else t) s
  else if u = unitTWN then (internalPorts u).foldl portLinkLost (twinLinkLost s)
  else if u = unitPWR then fencePower s
  else if u = unitI2B then
    endRequests s (s.txn.reqs.filter (fun r => r.waiting && unitOfAddr r.addr = unitI2B)) ((fenceCode s u).getD codeFENCED)
  else s

/-- The links that count again once ACC or PLZ runs (R166). -/
def findLinks (s : State) : State :=
  (upTo s.ident.variant.accPorts).foldl (fun t p => if linkUp t p && live t unitPLZ then portLinkFound t p else t) s

/-- The ring ports that start, and the announcements of a hub that is ring-ready (R115, R402). -/
def startRing (s : State) : State :=
  [0, 1, 2].foldl startPort (if s.dev.stage = .ringReady then ensureTimer s .announce ticksMs else s)

/-- A unit that runs again after a fence or a reset (R17, R166, R370). -/
def unitBack (s : State) (u : Nat) : State :=
  if !live s u then s
  else
    let s := (internalPorts u).foldl (fun t p => if portState t p = psDown then setPortState t p psUp else t) s
    if u = unitACC then findLinks s
    else if u = unitPLZ then startTimer (findLinks s) .age (max 1 (halfAge s))
    else if u = unitRNG then startRing s
    else if u = unitTIM then selectMaster s
    else s

/-! ### Fences set and lifted (R84) -/

/-- A fence of a unit begins: unless it was fenced or in reset already, its boundaries start to drain. `mark` sets the
bit that asks for the fence. -/
def beginFence (s : State) (u : Nat) (mark : State → State) : State :=
  if (fenceCode s u).isSome then mark s
  else startDrain (fenceEffects (mark s) u) u false

/-- The software fence of a unit (R84). SYS and FLT cannot be fenced; bits of absent units ignore writes. -/
def canFence (s : State) (u : Nat) : Bool :=
  decide (u ≤ 0x10) && u != unitSYS && u != unitFLT && !unitAbsent s.ident.variant u

def setFenceBit (s : State) (u : Nat) (b : Bool) : State :=
  let key := F.SYS_UNIT_FENCE_FENCE.key
  setWord s key (BitVec.ofNat 32 (withBit (regWord s key).toNat u b))

/-- UNIT_FENCE_SET (R84). -/
def fenceUnit (s : State) (u : Nat) : State := if canFence s u then beginFence s u (fun t => setFenceBit t u true) else s

/-- UNIT_FENCE_LIFT (R84): a fence of the collector, and a reset, remain. -/
def liftFence (s : State) (u : Nat) : State :=
  if canFence s u && softFenced s u then
    let s := setFenceBit s u false
    if live s u then
      let s := s.withDrains (s.drains.filter (fun d => d.unit ≠ u))
      unitBack (s.withTimers (s.timers.filter (fun t => match t.1 with
        | .drain v _ => decide (v ≠ u)
        | _ => true))) u
    else s
  else s

/-- The fence of the fault collector (R84, R366). -/
def faultFence (s : State) (u : Nat) : State := beginFence s u (fun t => setBitF t F.SYS_UNIT_FLTFENCE_UNITS u true)

/-! ### Unit resets (R72, R75) -/

/-- The epoch tables of a unit (R79). -/
def tablesOf (u : Nat) : List Nat :=
  if u = unitPLZ then [0] else if u = unitRNG then [1] else if u = unitJCT then [2, 3] else if u = unitBUS then [4, 5] else []

/-- A reset returns the unit's tables to bank 0 and discards their flips; what was draining counts as drained (R72; log entry
201). -/
def resetTables (s : State) (u : Nat) : State :=
  (tablesOf u).foldl (fun t n =>
    let t := setBitF (setBitF t F.SYS_EPOCH_STAT_ACTIVE n false) F.SYS_EPOCH_STAT_PENDING n false
    setBitF (setBitF t F.SYS_EPOCH_STAT_DRAINING n false) F.SYS_EPOCH_CMD_FLIP n false) s

/-- Registers that a reset of their unit alone keeps (R72): those that R357 names, and the latched seconds of TIM's
bases, which themselves are not held in the register file (R442). -/
def keptRegister (key : Nat) : Bool :=
  let off := offOfKey key
  pwrKept key || (unitOfKey key = unitTIM && decide (off < 0x100) && (off % 0x40 = 4 || off % 0x40 = 8))

/-- The registers of a unit at their reset words, its pending writes discarded, its lock cleared (R72, R75). -/
def resetRegisters (s : State) (u : Nat) : State :=
  let s := s.withRegs (s.regs.filter (fun p => unitOfKey p.1 != u || keptRegister p.1))
  let s := s.withPendCb (s.pendCb.filter (fun c => unitOfKey c.key != u))
  let s := s.withPendFb (s.pendFb.filter (fun p => unitOfKey p.1 != u))
  let s := s.withPendMem (s.pendMem.filter (fun p => unitOfKey p.2.1 != u))
  setBitF s F.SYS_LOCK_LOCK u false

/-- Timers of a unit, which its reset stops. -/
def timerUnit : TimerId → Option Nat
  | .cap _ | .verify _ | .stepLimit _ | .frTrain _ | .relock _ | .announce | .dupId | .ka _ | .kaTick _
  | .healHold _ | .linkReport _ => some unitRNG
  | .hold _ | .pause _ _ | .pauseTx _ _ | .age => some unitPLZ
  | .push _ => some unitMQ
  | .twinKa | .twinKaSend | .depart => some unitTWN
  | _ => none

def stopUnitTimers (s : State) (u : Nat) : State :=
  s.withTimers (s.timers.filter (fun t => timerUnit t.1 != some u))

/-- What a unit holds beside its registers, after its reset. RNG keeps its class-7 counter (R122), and its window, the ring map,
with the records and hold-downs that belong to the entries (R33, R72, R138). `pre` is the state before the registers were
reset. -/
def resetParts (pre s : State) (u : Nat) : State :=
  if u = unitPLZ then
    s.withPlaza { Plaza.reset with nextFid := s.plaza.nextFid, ingressSeq := s.plaza.ingressSeq }
  else if u = unitRNG then s.withRing { Ring.reset with
    wrapGen := s.ring.wrapGen, c7Seq := s.ring.c7Seq, map := s.ring.map, c7Recs := s.ring.c7Recs, heldDown := s.ring.heldDown }
  else if u = unitJCT then s.withJct Junction.reset
  else if u = unitMQ then resetQueues s
  else if u = unitBUS then s.withBus []
  else if u = unitARC then resetEngines s
  else if u = unitTIM then resetTime s
  else if u = unitCIP then
    s.withCip { Cipher.reset with nonceSeq := s.cip.nonceSeq }
  else if u = unitPIN then
    (upTo 6).foldl (fun t b =>
      setFlag (setFlag t (F.PIN_BANK_STAT_PRESENT b) (flag pre (F.PIN_BANK_STAT_PRESENT b)))
        (F.PIN_BANK_STAT_V33 b) (flag pre (F.PIN_BANK_STAT_V33 b))) s
  else if u = unitTWN then
    s.withTwin { Twin.reset with role := s.twin.role, claim := s.twin.claim, oe := s.twin.oe }
  else if u = unitPWR then resetPower pre s
  else if u = unitODW then
    s.withOdw { s.odw with sessions := [], kept := [], snaps := [], delayed := [], addr := [] }
  else s

/-- What a reset leaves of a unit's registers, tables, timers and parts. -/
def clearUnit (s : State) (u : Nat) : State := resetParts s (resetTables (stopUnitTimers (resetRegisters s u) u) u) u

/-- A unit's reset itself, once every boundary is fenced. The Arcades hold their engines Halted and their pins as they are
until it completes (R266). -/
def resetUnit (s : State) (u : Nat) : State :=
  setBitF (if u = unitARC then s else clearUnit s u) F.SYS_UNIT_INRST_UNITS u true

/-- The RST bit of a unit. -/
def setRstBit (s : State) (u : Nat) (b : Bool) : State :=
  let key := F.SYS_UNIT_RST_RST.key
  setWord s key (BitVec.ofNat 32 (withBit (regWord s key).toNat u b))

/-- UNIT_RESET (R15, R83): the unit is fenced with RESET_DURING; one that is in reset already is left alone. A reset
requested while the drain windows of a fence run begins them anew (log entry 173). -/
def requestReset (s : State) (u : Nat) : State :=
  if canFence s u && !inReset s u then
    let was := (fenceCode s u).isSome
    let s := setRstBit s u true
    let s := if was then s else fenceEffects s u
    startDrain s u true
  else s

/-- Whether a reset waits to begin. -/
def resetWaits (s : State) (u : Nat) : Bool :=
  bitAt (regWord s F.SYS_UNIT_RST_RST.key).toNat u && !bitF s F.SYS_UNIT_INRST_UNITS u

/-- The code for what is still outstanding at the end of a drain window (R15, R16). -/
def drainCode (reset : Bool) : Nat := if reset then codeRESET_DURING else codeFENCED

/-- Whether no unit is fenced or in reset by the fault collector: the hub leaves Degraded (R23). -/
def allRestored (s : State) : Bool :=
  getF s F.SYS_UNIT_FLTFENCE_UNITS = 0

/-- CIP starts (R308): the local generation is the highest that the log's newest records hold (log entry 36), and the 18
slots resume. -/
def startCip (s : State) : State :=
  let gens := (upTo 16).map (fun n => match newestRecord s (2 + n) with
    | some (_, gen, _) => gen
    | none => 0)
  (upTo 18).foldl resumeSlot (setF s F.CIP_LGEN_LGEN (gens.foldl max 0))

/-- UNIT_RESET_COMPLETE (R17): the boundaries re-admit requests, RST and a fence of the collector clear, the internal
port returns, and a Degraded hub with nothing left fenced is in Service again (R23), its key registers zeroised (R299). -/
def completeReset (s : State) (u : Nat) : State :=
  let s := if u = unitARC then clearUnit s u else s
  let s := setRstBit (setBitF s F.SYS_UNIT_INRST_UNITS u false) u false
  let s := setBitF s F.SYS_UNIT_FLTFENCE_UNITS u false
  let s := if s.dev.state = .degraded ∧ allRestored s = true then
      zeroiseKeyRegs (s.withDev { s.dev with state := .service })
    else s
  let s := if u = unitCIP ∧ s.ident.variant.hasCip = true then startCip s else s
  unitBack s u

def execUnitResetComplete (u : Nat) (s : State) : Result :=
  .next (if bitF s F.SYS_UNIT_INRST_UNITS u then completeReset s u else s)

end Sys2Proof.Machine
end

