-- ==== Sys2Proof/Machine/Restart.lean ====
section
/-! DEFINITION. Restarts by their scopes (R23, R24, R291, R397, R415, R421): what each clears and keeps, and the resets
at the pins. The boot ROM and the image are in Machine/Startup.lean. -/

namespace Sys2Proof.Machine

/-- NVM, which no restart changes (R397). Every other memory reads as unlisted memory does after a restart of its island
(log entry 33). -/
def nvmOnly (m : List Host.Cell) : List Host.Cell := m.filter (fun c => decide (unitOfKey c.1 = unitNVM))

/-- Every island in reset but AON: what is left are fuses, straps, pin levels, NVM, the model's clock and its outputs,
and the registers of the last Fatal record (R365, R397). -/
def clearIslands (s : State) : State :=
  let pending := flag s F.FLT_LOG_STAT_LF_PENDING
  let kept := s.regs.filter (fun p =>
    decide ((F.FLT_LAST_FATAL_WORD 0).key ≤ p.1) && decide (p.1 < (F.FLT_LAST_FATAL_WORD 8).key))
  let t := { State.reset with
    pending := s.pending
    mono := s.mono
    fresh := s.fresh
    ident := s.ident
    dev := { Dev.reset with side := s.dev.side, testmode := s.dev.testmode, sysrstLow := s.dev.sysrstLow }
    pins := s.pins
    aon := s.aon
    regs := kept
    mem := nvmOnly s.mem
    timers := s.timers.filter (fun p => p.1 = .nvmLift)
    outs := s.outs
    time := { TimeSt.reset with bases := s.time.bases }
    flt := { FaultSt.reset with nvmSeq := s.flt.nvmSeq } }
  setFlag t F.FLT_LOG_STAT_LF_PENDING pending

/-! ### The time bases in the AON island (R291) -/

/-- The bases saved and the AON count begun, unless it runs already. -/
def saveBases (s : State) : State :=
  if s.aon.counting then s
  else s.withAon { s.aon with
    entryAt := s.mono, counting := true
    saved0 := s.tb 0, saved1 := s.tb 1, saved2 := s.tb 2, saved3 := s.tb 3 }

/-- Whole AON ticks since the save: one is 10^9 / 32768 ns, and a tick of the model's clock is 2 ns. -/
def aonTicks (s : State) : Nat := (s.mono - s.aon.entryAt) * 2 * 32768 / nsPerSec

/-- Each base resumes from its value at entry plus the elapsed AON ticks, TB0 to TB3 armed and TB0 in Free: their
registers have been reset. -/
def restoreBases (s : State) : State :=
  if s.aon.counting then
    let d := aonTicks s * (nsPerSec * 2 ^ 17)
    let a := s.aon
    setBase (setBase (setBase (setBase (s.withAon { s.aon with counting := false }) 0 (a.saved0 + d)) 1 (a.saved1 + d))
      2 (a.saved2 + d)) 3 (a.saved3 + d)
  else s

/-! ### Starts -/

/-- The filter of TWN_PEER runs with the TIM clock from a start on (R319). -/
def startPeerFilter (s : State) : State := if s.pins.twnPeer then s else startTimer s .peerLow (2 * ticksUs)

/-- The boot ROM begins: Starting, counted from now (R402). -/
def beginStarting (s : State) : State :=
  startPeerFilter (startTimer (s.withDev { s.dev with state := .starting, stage := .rom })
    .ringJoin (20 * ticksMs))

/-- A system restart (R397): by a Fatal fault, by the device command, or on a wake from Dormant. -/
def systemRestart (s : State) : State := beginStarting (clearIslands (saveBases s))

/-- A failed self-check: Dead (R401). -/
def enterDead (s : State) : State := (stopTimer s .ringJoin).withDev { s.dev with state := .dead, stage := .none }

/-- The banks of the GIO supplies, detected at a start (R263). -/
def detectBanks (s : State) (present v33 : BitVec 6) : State :=
  (upTo 6).foldl (fun t b =>
    setFlag (setFlag t (F.PIN_BANK_STAT_PRESENT b) (present.getLsbD b)) (F.PIN_BANK_STAT_V33 b) (v33.getLsbD b)) s

/-- POWER_ON_RESET (R23, R397): every island in reset, the AON island among them; Off. -/
def powerOff (s : State) : State :=
  let t := clearIslands (s.withAon State.reset.aon)
  let t := setFlag (t.withRegs []) F.FLT_LOG_STAT_LF_PENDING false
  (t.withTime TimeSt.reset).withDev { Dev.reset with sysrstLow := s.dev.sysrstLow }
def execPowerOnReset (s : State) : Result := .next (powerOff s)

/-- PORST_RELEASE (R23, R396, R402): out of Off into Starting, with the straps sampled. The ROM begins unless SYSRST_N still
holds the islands in reset (R24), and a failed ROM step 1 leads to Dead. -/
def execPorstRelease (ok side testmode : Bool) (present v33 : BitVec 6) (s : State) : Result :=
  .next (
    if s.dev.state = .off then
      let s := s.withDev { s.dev with side := side, testmode := testmode }
      if s.dev.sysrstLow then s.withDev { s.dev with state := .starting, stage := .none }
      else if ok then detectBanks (beginStarting s) present v33
      else enterDead (beginStarting s)
    else s)

/-- SYSRST_ASSERT (R24): the pin is low, and every island but AON is in reset; nothing is left to reset in Off, and Dead
takes no notice (R401). -/
def execSysrstAssert (s : State) : Result :=
  .next (
    if s.dev.state = .dead ∨ s.dev.state = .off then s.withDev { s.dev with sysrstLow := true }
    else
      let t := clearIslands (saveBases s)
      t.withDev { t.dev with state := s.dev.state, sysrstLow := true })

/-- SYSRST_RELEASE (R23, R402): outside Off and Dead the hub enters Starting. The islands were in reset until now: no claim is
held. -/
def execSysrstRelease (ok : Bool) (present v33 : BitVec 6) (s : State) : Result :=
  .next (
    if s.dev.sysrstLow then
      let s := s.withDev { s.dev with sysrstLow := false }
      if s.dev.state = .dead ∨ s.dev.state = .off then s
      else if ok then detectBanks (beginStarting (lowerClaim s)) present v33
      else enterDead (beginStarting (lowerClaim s))
    else s)

/-- The bank supplies found again as `pre` had them: no pin event says otherwise (R263, R433; log entry 34). -/
def sameBanks (pre s : State) : State :=
  (upTo 6).foldl (fun t b =>
    setFlag (setFlag t (F.PIN_BANK_STAT_PRESENT b) (flag pre (F.PIN_BANK_STAT_PRESENT b)))
      (F.PIN_BANK_STAT_V33 b) (flag pre (F.PIN_BANK_STAT_V33 b))) s

/-- A system restart that no pin brings. -/
def restartKeepingBanks (s : State) : State := sameBanks s (systemRestart s)

/-- DEVICE_RESTART (R392): device command 1, once its response has been sent. -/
def execDeviceRestart (s : State) : Result := .next (if s.odw.pendingCmd = 1 then restartKeepingBanks s else s)

/-- DORMANT_WAKE (R405): the comparators whose level differs from the one at entry, of which an enabled one wakes the
hub, as WAKE_N low for 4 AON ticks does. While SYSRST_N is low every other island stays in reset: the cause is kept, and the
release of the pin starts the hub (R24; log entry 170). -/
def execDormantWake (changed : BitVec 8) (wakeLow4 : Bool) (s : State) : Result :=
  .next (
    let hit := changed &&& (s.aon.mask ||| 0x10)
    if s.dev.state = .dormant ∧ (hit ≠ 0 ∨ wakeLow4 = true) then
      let s := s.withAon { s.aon with cause := if wakeLow4 then hit ||| 0x10 else hit }
      if s.dev.sysrstLow then s else restartKeepingBanks s
    else s)

/-! ### The management restart (R397, R415, R421) -/

/-- Tags of the management complex and of the service-port bridge are released and held out for one timeout period. -/
def releaseMgtTags (s : State) : State :=
  let mine := (s.txn.tags.filter (fun e => e.who = .mgt || e.who = .svc)).map TagEntry.tag
  let s := s.withTxn { s.txn with
    tags := s.txn.tags.filter (fun e => !(e.who = .mgt || e.who = .svc))
    waiting := s.txn.waiting.filter (fun w => !(w.1 = .mgt || w.1 = .svc))
    holdout := s.txn.holdout ++ mine }
  mine.foldl (fun t n => startTimer (stopTimer t (.txn n)) (.holdout n) (txnTimeoutTicks t)) s

/-- The management complex restarts: its cores and memories, the service-port bridge and ODW; every other unit runs on.
MANAGEMENT_RESTART_END ends it; until then the values that only the dictionary holds stand (log entry 168). -/
def managementRestart (s : State) : State :=
  let s := s.withDev { s.dev with mgtRestart := true, dormantPending := false }
  let s := s.withMem (s.mem.filter (fun c => decide (unitOfKey c.1 ≠ 0x20)))
  let s := s.withOdw { Odw.reset with
    objs := s.odw.objs, persist := s.odw.persist, lastLoad := s.odw.lastLoad, storedSchema := s.odw.storedSchema
    uartRate := s.odw.uartRate }
  let s := releaseMgtTags (portLinkLost s 98)
  if s.ident.variant.hasTwn then
    startTimer (s.withTwin { s.twin with hbSuspended := true }) .mgtHb (400 * ticksMs)
  else s

/-- Whether the object dictionary is served: its unit runs and no management restart is under way (R415). -/
def odwRuns (s : State) : Bool := live s unitODW && !s.dev.mgtRestart

/-! ### Dormant (R25, R404) -/

/-- Every slot that draws power is warned, to be turned off with reason 9. -/
def turnOffSlots (s : State) : State := (dormantOrder s).foldl (fun t i => warnSlot t i offDormant) s

/-- Whether Dormant is refused: the update is Verifying or Armed, or a STORE runs. -/
def dormantRefused (s : State) : Bool := s.upd.state = 3 || s.upd.state = 5 || s.odw.storing

/-- The Dormant entry begins: a planned handover to a Standby peer leaves the slots to it, else they are turned off. -/
def beginDormant (s : State) : State :=
  let s := s.withDev { s.dev with dormantPending := true }
  let s := s.withOdw { s.odw with pendingCmd := 0 }
  if s.twin.role = .active ∧ peerStandby s = true then requestHandover s
  else if acting s then turnOffSlots s
  else s

/-- DORMANT_REQUEST: the device command 2 that a response has accepted, or the request and its answer in one. -/
def execDormantRequest (s : State) : Result :=
  .next (
    if !inService s ∨ s.dev.sysrstLow = true ∨ s.dev.dormantPending = true then s
    else if s.odw.pendingCmd = 2 then beginDormant s
    else if dormantRefused s then output s (.code codeREFUSED_BUSY)
    else beginDormant (output s (.code codeOK)))

/-- A boundary of the entry: where the handover is not under way (the peer is lost), the slots are turned off. -/
def continueDormant (s : State) : State :=
  if s.dev.dormantPending ∧ acting s = true ∧ !(s.twin.handoverReq && peerStandby s) then turnOffSlots s else s

/-- Whether the entry may complete: the handover is over, no slot that this hub drives draws power, no STORE runs. -/
def dormantReady (s : State) : Bool :=
  s.dev.dormantPending && !s.odw.storing && (!acting s || !(slotIds s).any (slotPowered s))

/-- Whether the boundaries of every unit have begun their handshake for the power-down (R15, R404). -/
def poweringDown (s : State) : Bool := s.dev.powerDown.getLsbD unitPLZ

/-- Step 1 of R15 at every boundary of every unit of the part but SYS, whose engine still completes what is inside: from
now on they answer FENCED. A unit that is fenced or in reset has no request inside (log entry 171). -/
def beginPowerDown (s : State) : State :=
  let us := (upTo 17).filter (fun u => u != unitSYS && live s u)
  us.foldl (fun t u => startDrain t u false) (s.withDev { s.dev with powerDown := 0x1FFFE })

/-- Whether a request is inside a unit and has a moment of its drain window left. -/
def windowsRun (s : State) : Bool :=
  s.drains.any (fun d => d.ended.isNone && !(heldAt s d.unit d.island).isEmpty && !due s (.drain d.unit d.island))

/-- DORMANT_ENTRY_COMPLETE (R404): the bases go to the AON island, the ring ports Down, every other island is powered
down. `mask` is the wake mask of 0xF011.01, which the AON island holds. -/
def enterDormant (s : State) (mask : BitVec 8) : State :=
  let s := saveBases (s.withAon { s.aon with mask := mask })
  let t := sameBanks s (clearIslands (endRequests s s.txn.reqs codeFENCED))
  t.withDev { t.dev with state := .dormant }

end Sys2Proof.Machine
end

