-- ==== Sys2Proof/Machine/Faults.lean ====
section
/-! DEFINITION. Faults and their reactions (R361 to R372), and the end of a drain window (R15). -/

namespace Sys2Proof.Machine

/-! ### Reactions (R366 to R369) -/

/-- The collector fences a unit, or holds one in reset: a hub in Service is Degraded (R23). -/
def degrade (s : State) : State :=
  if s.dev.state = .service then s.withDev { s.dev with state := .degraded } else s

/-- The reaction configured for a unit; SYS and FLT have none (R373). -/
def unitReact (s : State) (u : Nat) : Nat :=
  if u = unitSYS ∨ u = unitFLT then 0 else getF s (F.FLT_UNIT_CFG_REACT u)

/-- Whether the collector has reset a unit three times in the last 10 s (R367). -/
def resetTooOften (s : State) (u : Nat) : Bool :=
  decide (3 ≤ (s.flt.resets.filter (fun r => r.1 = u && decide (s.mono < r.2 + 10000 * ticksMs))).length)

/-- The reaction code of a fault whose kind is "unit" (R362, R366 to R368). -/
def reactionCode (s : State) (u : Nat) : Nat :=
  if !live s u then 4
  else
    let r := unitReact s u
    if r = 2 then (if s.twin.role = .active ∧ bitF s F.TWN_ESSENTIAL_UNITS u = true then 2 else 1)
    else if r = 3 then (if resetTooOften s u then 6 else 3)
    else r

/-- What a reaction code does to the unit. -/
def react (s : State) (u code : Nat) : State :=
  if code = 1 ∨ code = 6 then degrade (faultFence s u)
  else if code = 2 then releaseClaim (degrade (faultFence s u))
  else if code = 3 then
    let recent := s.flt.resets.filter (fun r => decide (s.mono < r.2 + 10000 * ticksMs))
    let s := s.withFlt { s.flt with resets := recent ++ [(u, s.mono)] }
    setBitF (degrade (requestReset s u)) F.SYS_UNIT_FLTFENCE_UNITS u true
  else s

/-- The words of the last Fatal record (R365). -/
def keepFatal (s : State) (record : List Byte) : State :=
  let s := setWords s (F.FLT_LAST_FATAL_WORD 0).key 8 (ofLe record)
  setFlag s F.FLT_LOG_STAT_LF_PENDING true

/-- A pending Fatal record reaches the event log (R365). -/
def writePendingFatal (s : State) : State :=
  if flag s F.FLT_LOG_STAT_LF_PENDING && eventLogOpen s then
    setFlag (writeEventLog s (leBytes 32 (getWords s (F.FLT_LAST_FATAL_WORD 0).key 8))) F.FLT_LOG_STAT_LF_PENDING false
  else s

/-- A Fatal fault (R369): logged, copied to the AON island and to NVM, ERR_N pulsed, and the hub restarts. -/
def fatalFault (s : State) (code unit : Nat) (info0 info1 : Word) : State :=
  let record := faultRecord s code 2 5 unit info0.toNat info1.toNat
  let s := logFault s code 2 5 unit info0 info1
  let s := writePendingFatal (keepFatal s record)
  let t := restartKeepingBanks s
  if s.flt.errPulse then startTimer (t.withFlt { t.flt with errPulse := true }) .errPulse (16 * ticksUs) else t

/-- A fault whose code the table of R361 gives a class and a reaction. -/
def reportFault (s : State) (code unit cls : Nat) (kind : FaultKind) (info0 info1 : Word) : State :=
  match kind with
  | .record => recordFault s code unit info0 info1
  | .unit =>
    let r := reactionCode s unit
    react (logFault s code cls r unit info0 info1) unit r
  | .restart => fatalFault s code unit info0 info1
  | .mgtRestart => managementRestart (logFault s code cls 7 unit info0 info1)

/-- FAULT_DETECT (R361, R362): a reserved code has neither class nor reaction. -/
def execFaultDetect (code unit : Nat) (info0 info1 : Word) (s : State) : Result :=
  if live s unitFLT && decide (unit ≤ 0x10) then
    match faultInfo code with
    | some (cls, kind) => .next (reportFault s code unit cls kind info0 info1)
    | none => .fault .reservedFaultCode
  else .next s

/-- ERR_PULSE_END (R371). -/
def execErrPulseEnd (s : State) : Result :=
  .next (if due s .errPulse then stopTimer (s.withFlt { s.flt with errPulse := false }) .errPulse else s)

/-! ### Factory-test injection (R372) -/

/-- A fault raised by injection; a code that the table does not list raises nothing (log entry 37). -/
def injectFault (s : State) (code unit : Nat) : State :=
  if unit ≤ 0x10 then
    match faultInfo code with
    | some (cls, kind) => reportFault s code unit cls kind (regWord s (F.FLT_INJ_INFO_INFO 0).key) (regWord s (F.FLT_INJ_INFO_INFO 1).key)
    | none => s
  else s

/-- The flip of one or two bits that the next write of a unit takes. -/
def armEcc (s : State) (code unit : Nat) : State :=
  let flips := if code = 2 ∨ code = 3 ∨ code = 9 then 2 else 1
  s.withFlt { s.flt with eccArm := put unit flips s.flt.eccArm }

/-- A write of FLT_INJ_CTL with GO (R372). -/
def injectGo (s : State) (code unit : Nat) (ecc : Bool) : State :=
  let s := setF (setF (setFlag s F.FLT_INJ_CTL_ECC_MODE ecc) F.FLT_INJ_CTL_CODE code) F.FLT_INJ_CTL_UNIT unit
  if ecc then armEcc s code unit else injectFault s code unit

def execFaultInject (code unit : Nat) (s : State) : Result :=
  .next (if live s unitFLT && s.dev.testmode && decide (code < 256) && decide (unit < 32) then injectGo s code unit false else s)

def execEccInject (code unit : Nat) (s : State) : Result :=
  .next (if live s unitFLT && s.dev.testmode && decide (code < 256) && decide (unit < 32) then injectGo s code unit true else s)

/-- The code that the ECC of a memory raises for one or two flipped bits (R361, R372). -/
def eccCode (a flips : Nat) : Nat :=
  if flips < 2 then fltEccCorr
  else if unitOfKey a = 0x20 then fltMgtMemUncorr
  else if eccUnit a = unitSYS ∨ eccUnit a = unitFLT ∨ eccUnit a = unitNVM then fltEccUncorrMgt
  else fltEccUncorr

/-- INFO0 of a word in error (R361): its offset, or bit 31 and the place in a memory without a window, whose number the
manual keeps opaque (log entry 7). -/
def eccInfo (s : State) (a : Nat) : Word :=
  let free := (Config.freeValue ((s.fresh + 1) * 2 ^ 64 + a)).toNat
  BitVec.ofNat 32 (
    if unitOfKey a = 0x20 then 2 ^ 31 + free % 2 ^ 7 * 2 ^ 24 + offOfKey a / 4 % 2 ^ 24
    else if 0x40 ≤ unitOfKey a then 2 ^ 31 + free % 2 ^ 31
    else offOfKey a)

/-- One word found in error reported with its syndrome, which is free (log entry 7). -/
def reportWord (s : State) (w : Nat × Nat) : State :=
  let code := eccCode (4 * w.1) w.2
  match faultInfo code with
  | some (cls, kind) =>
    reportFault (s.withFresh (s.fresh + 1)) code (eccUnit (4 * w.1)) cls kind (eccInfo s (4 * w.1)) (Config.eccSyndrome s.fresh)
  | none => s

/-- The words found in error are reported, each once (R372). -/
def reportEcc (s : State) : State := s.flt.eccFound.foldl reportWord (s.withFlt { s.flt with eccFound := [] })

/-- What a step does while no command waits: a tick of the 2 ns clock (log entry 11), and the report of errors that the
hardware's own reads found (log entry 32). -/
def idle (s : State) : State := reportEcc (tick s)

/-! ### The end of a drain window (R15) -/

/-- The fault that a unit still held requests at the end of its windows (R361): the islands, and how many. -/
def reportHang (s : State) (u : Nat) (done : List Drain) : State :=
  let count := (done.map (fun d => d.ended.getD 0)).sum
  let mask := done.foldl (fun m d => if 0 < d.ended.getD 0 then withBit m d.island true else m) 0
  if count = 0 then s else reportFault s fltBoundaryHang u 1 .unit (BitVec.ofNat 32 mask) (BitVec.ofNat 32 count)

/-- Once every boundary of a unit has reached step 4, the unit is fenced, and a reset that waits for it begins. -/
def drained (s : State) (u : Nat) : State :=
  let mine := s.drains.filter (fun d => d.unit = u)
  if mine.all (fun d => d.ended.isSome) then
    let s := reportHang (s.withDrains (s.drains.filter (fun d => d.unit ≠ u))) u mine
    if resetWaits s u then resetUnit s u else s
  else s

/-- A boundary's window ends with the completion of what it still holds. -/
def endWindow (s : State) (d : Drain) : State :=
  let held := heldAt s d.unit d.island
  let s := stopTimer (endRequests s held (drainCode d.reset)) (.drain d.unit d.island)
  let s := s.withDrains (s.drains.map (fun x =>
    if x.unit = d.unit ∧ x.island = d.island then { x with ended := some held.length } else x))
  drained s d.unit

/-- DRAIN_WINDOW_END: the boundary holds no request, or its 4 µs have passed. -/
def execDrainWindowEnd (unit island : Nat) (s : State) : Result :=
  .next (
    match s.drains.find? (fun d => d.unit = unit && d.island = island && d.ended.isNone) with
    | some d => if heldAt s unit island = [] ∨ due s (.drain unit island) then endWindow s d else s
    | none => s)

end Sys2Proof.Machine
end

