-- ==== Sys2Proof/Machine/Firmware.lean ====
section
/-! DEFINITION. Firmware update (R399, R400, R407 to R416): manifests, banks, the boot record, the activation journal,
the update commands, and the ends of descriptors, which an activation follows. -/

namespace Sys2Proof.Machine

/-! ### Words of NVM -/

/-- NVM bytes at an offset of the array. -/
def nvmRead (s : State) (off n : Nat) : List Byte := memRead s (nvmBase + off) n

/-- Bytes written to the array; a write that meets a lock is not performed (R315). -/
def nvmPut (s : State) (off : Nat) (bs : List Byte) : State :=
  if nvmLocked s off bs.length then s else memWrite s (nvmBase + off) bs

/-- A 64-byte word whose last four bytes are the CRC-32 of the rest (R364, R400, R408, R414). -/
def sealWord (body : List Byte) : List Byte := let b := padTo 60 body; b ++ leBytes 4 (crc32 b)

/-- Whether a 64-byte word begins with a magic number and has its CRC. -/
def wordOk (magic : Nat) (w : List Byte) : Bool :=
  ofLe (w.take 4) = magic && ofLe (w.drop 60) = crc32 (w.take 60)

/-- Word `i` of a record. -/
def leWord (w : List Byte) (i : Nat) : Nat := ofLe (sliceAt w (4 * i) 4)

/-- The records of a log in NVM that begin with a magic number and have their CRC. -/
def logRecords (s : State) (off size magic : Nat) : List (List Byte) :=
  s.mem.filterMap (fun c =>
    let a := nvmBase + off
    if a ≤ c.1 ∧ c.1 < a + size ∧ (c.1 - a) % 64 = 0 then
      let w := memRead s c.1 64
      if wordOk magic w then some w else none
    else none)

/-- The record with the highest SEQ, which stands in word `i`. -/
def newestOf (i : Nat) : List (List Byte) → Option (List Byte)
  | [] => none
  | w :: t =>
    match newestOf i t with
    | some v => if leWord w i < leWord v i then some v else some w
    | none => some w

/-! ### Manifests and banks (R399, R407, R412) -/

/-- Bytes of an image, of a package beside the image, and the largest package (R407). -/
def maxImage : Nat := 1835008
def packageExtra : Nat := 3856
def maxPackage : Nat := 1838864
def stagingAt : Nat := 0x400100

/-- A big-endian field of a manifest. -/
def mField (m : List Byte) (i n : Nat) : Nat := ofBe (sliceAt m i n)
def mImageLen (m : List Byte) : Nat := mField m 24 4
def mRollback (m : List Byte) : Nat := mField m 16 1

/-- The hub's bit of the variant mask. -/
def variantBit : Variant → Nat
  | .gk7216 => 0 | .gk7212 => 1 | .gk7208 => 2

/-- The first binding of a manifest that does not match this hub: results 3 to 5; 0 for none (R412). -/
def bindingResult (s : State) (m : List Byte) : Nat :=
  if mField m 4 2 ≠ 0x7216 then 3
  else if !bitAt (mField m 6 1) (variantBit s.ident.variant) then 4
  else if bitAt (mField m 7 1) 0 && mField m 8 8 ≠ s.ident.uid.toNat then 5
  else 0

/-- Whether a signature of 64 bytes verifies over a manifest under the fused public key (R407). -/
def signatureOk (s : State) (m sig : List Byte) : Bool :=
  ecdsaVerify s.ident.pubX.toNat s.ident.pubY.toNat (sha256 (toNats m)) (ofBe (sig.take 32)) (ofBe (sig.drop 32))

/-- The first check of R412 that a package in staging fails, or 1. -/
def verifyResult (s : State) (len : Nat) : Nat :=
  let m := nvmRead s stagingAt 256
  let n := mImageLen m
  if mField m 0 4 ≠ 0x564D4E31 || n = 0 || decide (maxImage < n) || len ≠ packageExtra + n then 2
  else if bindingResult s m ≠ 0 then bindingResult s m
  else if mRollback m < s.ident.otp || decide (32 < mRollback m) then 6
  else if !signatureOk s m (nvmRead s (stagingAt + 256) 64) then 7
  else if sha256 (toNats (nvmRead s (stagingAt + 3840) (n + 16))) ≠ toNats (sliceAt m 48 32) then 8
  else 1

/-- Where a bank and its header stand (R403). -/
def bankAt (b : Nat) : Nat := 0x200000 * b
def bankHeader (b : Nat) : Nat := bankAt b + 0x1FF000
def bankManifest (s : State) (b : Nat) : List Byte := nvmRead s (bankHeader b) 256

/-- Whether a bank's image has the plaintext hash of its manifest. -/
def imageHashOk (s : State) (b : Nat) (m : List Byte) : Bool :=
  sha256 (toNats (nvmRead s (bankAt b) (mImageLen m))) = toNats (sliceAt m 80 32)

/-- A valid bank (R399). -/
def bankValid (s : State) (b : Nat) : Bool :=
  let m := bankManifest s b
  mField m 0 4 = 0x564D4E31 && decide (mImageLen m ≤ maxImage) && bindingResult s m = 0
    && decide (s.ident.otp ≤ mRollback m) && signatureOk s m (nvmRead s (bankHeader b + 256) 64) && imageHashOk s b m

/-! ### The boot record (R400) -/

/-- A boot record: the copy it stands in, SEQ, and what it says. -/
structure BootRec where
  copy : Nat
  seq : Nat
  bank : Nat
  trial : Bool
  starts : Nat
  version : Nat
deriving DecidableEq, Repr

def bootAt (copy : Nat) : Nat := 0x760000 + 64 * copy

def readBootCopy (s : State) (copy : Nat) : Option BootRec :=
  let w := nvmRead s (bootAt copy) 64
  if wordOk 0x42545231 w then
    some ⟨copy, leWord w 1, bitsAt (leWord w 2) 0 1, bitAt (leWord w 2) 1, bitsAt (leWord w 2) 2 2, leWord w 3⟩
  else none

/-- The copy in use: the valid one with the higher SEQ. -/
def bootRecord (s : State) : Option BootRec :=
  match readBootCopy s 0, readBootCopy s 1 with
  | some a, some b => if a.seq < b.seq then some b else some a
  | some a, none => some a
  | none, b => b

/-- The active bank, with bank A where no copy is valid. -/
def activeBank_ (s : State) : Nat :=
  match bootRecord s with
  | some r => r.bank
  | none => 0

/-- A new boot record, over the copy that is not in use. -/
def writeBoot (s : State) (bank : Nat) (trial : Bool) (starts version : Nat) : State :=
  let (copy, seq) := match bootRecord s with
    | some r => (1 - r.copy, r.seq + 1)
    | none => (0, 0)
  nvmPut s (bootAt copy) (sealWord (leBytes 4 0x42545231 ++ leBytes 4 seq ++ leBytes 4 (bank + 2 * bit01 trial + 4 * starts)
    ++ leBytes 4 version))

/-- OTP bits blown until the counter equals the index, if that is higher (R413). -/
def advanceOtp (s : State) (index : Nat) : State :=
  s.withIdent { s.ident with otp := max s.ident.otp (min 32 index) }

/-! ### Staging words and the journal (R408, R414) -/

def headerWord (s : State) : List Byte := nvmRead s 0x400000 64
def verifiedWord (s : State) : List Byte := nvmRead s 0x400040 64
def headerValid (s : State) : Bool := wordOk 0x50474B31 (headerWord s)
def headerSeq (s : State) : Nat := leWord (headerWord s) 2

/-- A verified word counts only with the header whose SEQ it names. -/
def verifiedValid (s : State) : Bool :=
  headerValid s && wordOk 0x56455231 (verifiedWord s) && leWord (verifiedWord s) 1 = headerSeq s

def invalidateStaging (s : State) : State := nvmPut (nvmPut s 0x400000 (leBytes 4 0)) 0x400040 (leBytes 4 0)

def journalRecords (s : State) : List (List Byte) := logRecords s 0x761000 0x1000 0x4143544A

/-- A journal record written after the newest one. -/
def writeJournal (s : State) (bank : Nat) (abandon : Bool) (done64 : Nat) : State :=
  let seq := match newestOf 1 (journalRecords s) with
    | some w => leWord w 1 + 1
    | none => 0
  nvmPut s (0x761000 + 64 * (seq % 64))
    (sealWord (leBytes 4 0x4143544A ++ leBytes 4 seq ++ leBytes 4 (bank + 2 * bit01 abandon + 256 * done64)
      ++ leBytes 4 (headerSeq s)))

def setUpd (s : State) (state result : Nat) : State := s.withUpd { s.upd with state := state, result := result }

/-! ### The activation (R414) -/

/-- The package key: from the FAMILY root, the family code and the key generation. -/
def packageKey (s : State) (m : List Byte) : List Nat :=
  kdf (keyBytes s.ident.familyRoot) (toNats (leBytes 4 0x464D5731))
    (toNats (sliceAt m 4 2) ++ toNats (sliceAt m 40 2) ++ List.replicate 12 0) 256

/-- Steps 1 and 2 as one GCM decryption from piece `skip` on, into a bank: none where the tag does not match. The ROM
runs it so, and a hub without a cipher engine (log entry 39). -/
def decryptImage (s : State) (bank skip : Nat) : Option State :=
  let m := nvmRead s stagingAt 256
  let n := mImageLen m
  let key := packageKey s m
  let iv := toNats (sliceAt m 28 12)
  let ct := toNats (nvmRead s (stagingAt + 3840) n)
  if gcmTag key iv (toNats m) ct = toNats (nvmRead s (stagingAt + 3840 + n) 16) then
    some (nvmPut s (bankAt bank + 65536 * skip) ((toBytes (gcmCrypt key iv ct)).drop (65536 * skip)))
  else none

/-- Journal records for the pieces after `first` up to `last`. -/
def journalPieces (s : State) (bank first last : Nat) : State :=
  ((upTo (last + 1)).filter (fun k => decide (first < k))).foldl (fun t k => writeJournal t bank false k) s

/-- A failed activation: the journal says so, the staging words are invalid, the update is Idle with the result. -/
def abandonActivation (s : State) (bank result : Nat) : State :=
  let s := invalidateStaging (writeJournal s bank true s.upd.done64)
  setUpd (s.withUpd { s.upd with actSlot := none, hashing := false }) 0 result

/-- The pieces that an image of a length makes. -/
def piecesOf (n : Nat) : Nat := (n + 65535) / 65536

/-- The bank an activation writes: the one that the boot record does not name, or A where there is none (R414, R418). -/
def targetBank (s : State) : Nat :=
  match bootRecord s with
  | some r => 1 - r.bank
  | none => if s.dev.state = .recovery then 0 else 1

/-- The decryption descriptor of R414, set up in a slot and queued. -/
def queueActivation (s : State) (d bank : Nat) : State :=
  let m := nvmRead s stagingAt 256
  let s := setWord s (F.CIP_D_SRC_SRC d).key (BitVec.ofNat 32 (stagingAt + 3840))
  let s := setWord s (F.CIP_D_DST_DST d).key (BitVec.ofNat 32 (bankAt bank))
  let s := setWord s (F.CIP_D_LEN_LEN d).key (BitVec.ofNat 32 (mImageLen m))
  let s := setWord s (F.CIP_D_AAD_AAD d).key (BitVec.ofNat 32 stagingAt)
  let s := setWord s (F.CIP_D_AADLEN_AADLEN d).key 0x100
  let s := setWord s (F.CIP_D_LABEL_LABEL d).key 0x464D5731
  let s := setWords s (F.CIP_D_CTX_CTX d 0).key 4 (ofLe (sliceAt m 4 2 ++ sliceAt m 40 2))
  let s := setIv s d (toNats (sliceAt m 28 12))
  (writeDescriptorCtl s d 0x82800066 true).1

/-- The slot an activation takes: the highest that is Idle or Done. -/
def freeDescriptor (s : State) : Option Nat := (upTo 16).reverse.find? (fun d => !dBusy s d)

/-- Why ACTIVATE is refused in Verified (R414): role Active with a Standby peer, a running STORE, NVM writes inhibited;
or no descriptor is to be had (log entry 38). -/
def activateRefused (s : State) : Bool :=
  (s.twin.role = .active && peerStandby s) || s.odw.storing || !nvmWritable s
    || (s.ident.variant.hasCip && s.dev.state ≠ .recovery && (!live s unitCIP || (freeDescriptor s).isNone))

/-- ACTIVATE accepted (R414): Armed, the bank header and the first journal record, then the decryption. -/
def startActivation (s : State) : State :=
  let bank := targetBank s
  let s := s.withUpd { s.upd with state := 5, done64 := 0, actSlot := none, hashing := false }
  let s := nvmPut s (bankHeader bank) (nvmRead s stagingAt 320)
  let s := writeJournal s bank false 0
  if s.ident.variant.hasCip ∧ s.dev.state ≠ .recovery then
    match freeDescriptor s with
    | some d => (queueActivation s d bank).withUpd { s.upd with actSlot := some d }
    | none => s
  else
    match decryptImage s bank 0 with
    | some t =>
      let n := piecesOf (mImageLen (nvmRead s stagingAt 256))
      (journalPieces t bank 0 n).withUpd { t.upd with done64 := n, hashing := true }
    | none => abandonActivation s bank 9

/-- The descriptor of the activation has ended: with its image written the hash check begins, a wrong tag ends the
activation, and any other end leaves the hub Armed for the ROM to resume (log entry 40). -/
def followActivation (s : State) (d : Nat) : State :=
  if s.upd.state = 5 ∧ s.upd.actSlot = some d ∧ dState s d = 4 then
    let bank := targetBank s
    let result := getF s (F.CIP_D_STAT_RESULT d)
    if result = 0 then
      let n := piecesOf (mImageLen (nvmRead s stagingAt 256))
      (journalPieces s bank 0 n).withUpd { s.upd with done64 := n, actSlot := none, hashing := true }
    else if result = 1 then abandonActivation s bank 9
    else s.withUpd { s.upd with actSlot := none }
  else s

/-- PASS1_COMPLETE (R315). -/
def execPass1Complete (d : Nat) (s : State) : Result :=
  .next (if live s unitCIP ∧ d < 16 ∧ dState s d = 2 then followActivation (endPass1 s d) d else s)

/-- DESCRIPTOR_COMPLETE (R316). A descriptor that writes NVM waits while NVM may not be written (log entry 20). -/
def execDescriptorComplete (d : Nat) (s : State) : Result :=
  .next (
    if live s unitCIP ∧ d < 16 ∧ dState s d = 3
        ∧ (getF s (F.CIP_D_CTL_DST_KIND d) = 1 ∧ dOp s d < 7 → nvmWritable s = true) then
      followActivation (runDescriptor s d) d
    else s)

/-- Steps 3 and 4 of an activation: the plaintext hash against the manifest, then the boot record. The answer says
whether the new bank is in force. -/
def finishActivation (s : State) (bank : Nat) : State × Bool :=
  let m := bankManifest s bank
  if imageHashOk s bank m then
    (setUpd ((writeBoot s bank true 0 (mField m 20 4)).withUpd { s.upd with actSlot := none, hashing := false }) 5 1, true)
  else (abandonActivation s bank 10, false)

/-- ACTIVATION_HASH_DONE (R414): the management restart into the new bank, or out of Recovery a start (R418). -/
def execActivationHashDone (s : State) : Result :=
  .next (
    if s.upd.state = 5 ∧ s.upd.hashing = true ∧ nvmWritable s = true then
      match finishActivation s (targetBank s) with
      | (s, true) => if s.dev.state = .recovery then restartKeepingBanks s else managementRestart s
      | (s, false) => s
    else s)

/-! ### The update commands (R409 to R411) -/

/-- BEGIN, in Idle, Verified or Confirmed. Commands that write NVM are refused while it may not be written (log entry
38). -/
def updBegin (s : State) : State × Nat :=
  if ¬((s.upd.state = 0 ∨ s.upd.state = 4 ∨ s.upd.state = 7) ∧ nvmWritable s = true) then (s, codeREFUSED_BUSY)
  else if nvmLocked s 0x400000 128 then (s, codeLOCKED)
  else
    let s := invalidateStaging s
    (s.withUpd { s.upd with state := 1, received := 0, done64 := 0 }, codeOK)

/-- CLOSE, in Receiving: the header word with the length received, SEQ one above the one before; verification starts. -/
def updClose (s : State) : State × Nat :=
  if ¬(s.upd.state = 1 ∧ nvmWritable s = true) then (s, codeREFUSED_BUSY)
  else if nvmLocked s 0x400000 64 then (s, codeLOCKED)
  else
    let w := sealWord (leBytes 4 0x50474B31 ++ leBytes 4 s.upd.received ++ leBytes 4 (headerSeq s + 1))
    let s := nvmPut s 0x400000 w
    (s.withUpd { s.upd with state := 3 }, codeOK)

/-- ACTIVATE, in Verified. -/
def updActivate (s : State) : State × Nat :=
  if s.upd.state ≠ 4 then (s, codeREFUSED_BUSY)
  else if activateRefused s then (setUpd s 4 12, codeREFUSED_BUSY)
  else if nvmLocked s (bankAt (targetBank s)) 0x200000 then (s, codeLOCKED)
  else (startActivation s, codeOK)

/-- CONFIRM, in Trial: the bank is Confirmed, the staging words are invalid, the rollback counter advances. -/
def updConfirm (s : State) : State × Nat :=
  if ¬(s.upd.state = 6 ∧ nvmWritable s = true) then (s, codeREFUSED_BUSY)
  else if nvmLocked s 0x400000 128 || nvmLocked s 0x760000 128 then (s, codeLOCKED)
  else
    let b := s.dev.bank
    let s := writeBoot (invalidateStaging s) b false 0 s.dev.imageVersion.toNat
    let s := advanceOtp s (mRollback (bankManifest s b))
    (s.withUpd { s.upd with state := 7, result := 1, trialStarts := 0 }, codeOK)

/-- ABANDON, in Receiving or Verified. -/
def updAbandon (s : State) : State × Nat :=
  if s.upd.state = 1 ∨ s.upd.state = 4 then (s.withUpd { s.upd with state := 0 }, codeOK) else (s, codeREFUSED_BUSY)

/-- A write of 0xB001.00. -/
def updCommand (s : State) (n : Nat) : State × Nat :=
  match n with
  | 1 => updBegin s
  | 2 => updClose s
  | 3 => updActivate s
  | 4 => updConfirm s
  | 5 => updAbandon s
  | _ => (s, codeADDR_ERROR)

/-- A write of package bytes (R411). -/
def updPackage (s : State) (ofs : Nat) (bs : List Byte) : State × Nat :=
  if s.upd.state ≠ 1 then (s, codeREFUSED_BUSY)
  else if maxPackage < ofs + bs.length then (s, codeALIGN_ERROR)
  else if !nvmWritable s then (s, codeREFUSED_BUSY)
  else if nvmLocked s (stagingAt + ofs) bs.length then (s, codeLOCKED)
  else
    let s := nvmPut s (stagingAt + ofs) bs
    (s.withUpd { s.upd with received := max s.upd.received (ofs + bs.length) }, codeOK)

/-- A command of the update and its completion code, which 0xB001.00 or 0xB002.00 answers; outside the dictionary's
service it completes with RESET_DURING (R415). -/
def updAnswer (s : State) (r : State × Nat) : State :=
  if odwRuns s then output r.1 (.code r.2) else output s (.code ((fenceCode s unitODW).getD codeRESET_DURING))

def execBegin (s : State) : Result := .next (updAnswer s (updBegin s))
def execClose (s : State) : Result := .next (updAnswer s (updClose s))
def execActivate (s : State) : Result := .next (updAnswer s (updActivate s))
def execConfirm (s : State) : Result := .next (updAnswer s (updConfirm s))
def execAbandon (s : State) : Result := .next (updAnswer s (updAbandon s))
def execPackageWrite (ofs : Nat) (bs : List Byte) (s : State) : Result := .next (updAnswer s (updPackage s ofs bs))

/-- VERIFY_COMPLETE (R409, R412): the verified word, or Idle with the result and no header. -/
def execVerifyComplete (s : State) : Result :=
  .next (
    if s.upd.state = 3 ∧ nvmWritable s = true ∧ odwRuns s = true then
      let r := verifyResult s (leWord (headerWord s) 1)
      if r = 1 then
        let w := sealWord (leBytes 4 0x56455231 ++ leBytes 4 (headerSeq s) ++ toBytes (sha256 (toNats (nvmRead s stagingAt 256))))
        setUpd (nvmPut s 0x400040 w) 4 1
      else setUpd (nvmPut s 0x400000 (leBytes 4 0)) 0 r
    else s)

end Sys2Proof.Machine
end

