-- ==== Sys2Proof/Machine/Flags.lean ====
section
/-! DEFINITION. Status fields that follow from other state: what a read of them shows. All other fields are held in the
register file. -/

namespace Sys2Proof.Machine

/-- A family of registers with computed fields: its first key, stride and count, and for an instance the fields as
(lowest bit, width, value). -/
structure View where
  base : Nat
  stride : Nat
  count : Nat
  fields : Nat → List (Nat × Nat × Nat)

/-- A field of a single register as a view's entry. -/
def shows (f : Fld) (v : Nat) : Nat × Nat × Nat := (f.lo, f.width, v)

/-- A register that is one of its kind. -/
def single (f : Fld) (l : List (Nat × Nat × Nat)) : View := ⟨f.key, 4, 1, fun _ => l⟩

/-- The units 0 to 16 with a property, as a map. -/
def unitMap (p : Nat → Bool) : Nat := (upTo 17).foldl (fun n u => if p u then withBit n u true else n) 0

/-- Whether a unit is reported fenced: absent, or fenced or in reset with every boundary drained (R15, R84). -/
def reportedFenced (s : State) (u : Nat) : Bool :=
  unitAbsent s.ident.variant u
    || ((softFenced s u || faultFenced s u || inReset s u || s.dev.powerDown.getLsbD u) && !draining s u)

/-- SYS_CAP (R84). -/
def capWord (v : Variant) : Nat :=
  bit01 v.hasCip + 2 * bit01 v.hasTwn + 4 * v.accLanes + 128 * v.busChannels + 4096 * v.busPriv + 16384 * v.arcades
    + 2 ^ 18 * v.slots + 2 ^ 22 * bit01 (decide (v.cells < 65536))

def viewsSYS (s : State) : List View := [
  ⟨F.SYS_ID_FAMILY.key, 4, 1, fun _ => [(0, 32, 0x7216 + 65536 * s.ident.variant.code + 2 ^ 24 * s.ident.stepping.toNat)]⟩,
  ⟨F.SYS_CAP_CIP.key, 4, 1, fun _ => [(0, 32, capWord s.ident.variant)]⟩,
  ⟨F.SYS_UID_LO_UID.key, 4, 2, fun i => [(0, 32, s.ident.uid.toNat / 2 ^ (32 * i))]⟩,
  single F.SYS_NODE_NODE_ID [shows F.SYS_NODE_NODE_ID s.dev.nodeId, shows F.SYS_NODE_SIDE (bit01 s.dev.side)],
  single F.SYS_UNIT_FENCED_UNITS [shows F.SYS_UNIT_FENCED_UNITS (unitMap (reportedFenced s))],
  single F.SYS_UNIT_ABSENT_UNITS [shows F.SYS_UNIT_ABSENT_UNITS (unitMap (unitAbsent s.ident.variant))],
  single F.SYS_COMMIT_STAT_PENDING [shows F.SYS_COMMIT_STAT_PENDING (bit01 (!s.pendCb.isEmpty || !s.pendMem.isEmpty))],
  single F.SYS_TXN_STAT_OUTSTANDING [shows F.SYS_TXN_STAT_OUTSTANDING (s.txn.tags.length + (heldPosted s).length),
    shows F.SYS_TXN_STAT_REQ_BUF (requestsHeld s), shows F.SYS_TXN_STAT_REFUSE_FREE (32 - refusalsUsed s)]]

def viewsPLZ (s : State) : List View := [
  single F.PLZ_POOL_STAT_FREE [shows F.PLZ_POOL_STAT_FREE (sharedFree s)],
  single F.PLZ_POOL_SIZE_CELLS [shows F.PLZ_POOL_SIZE_CELLS (poolSize s)],
  single F.PLZ_C7_STAT_CELLS [shows F.PLZ_C7_STAT_CELLS (c7Free s)],
  ⟨(F.PLZ_PORT_STAT_STATE 96).key, 4, 2, fun i => [shows (F.PLZ_PORT_STAT_STATE (96 + i)) psUp]⟩,
  ⟨(F.PLZ_CLASS_STAT_SHARED 0).key, 4, 8, fun c => [shows (F.PLZ_CLASS_STAT_SHARED c) (classShared s c)]⟩,
  ⟨(F.PLZ_Q_DEPTH_CELLS 0).key, 4, 1024, fun q => [shows (F.PLZ_Q_DEPTH_CELLS q) (queueDepth s q)]⟩]

def viewsMQ (s : State) : List View := [
  single F.MQ_POOL_STAT_UNRESERVED [shows F.MQ_POOL_STAT_UNRESERVED (unreserved s)],
  single F.MQ_ATTN_STAT_ATTN [shows F.MQ_ATTN_STAT_ATTN (bit01 (attnLow s))],
  ⟨(F.MQ_Q_STAT_USED 0).key, 0x20, 256, fun n =>
    let q := queueOf s n
    [shows (F.MQ_Q_STAT_USED n) (usedGranules q), shows (F.MQ_Q_STAT_HELD n) (bit01 q.held.isSome),
      shows (F.MQ_Q_STAT_MSGS n) q.msgs.length, shows (F.MQ_Q_STAT_PUSH_OPEN n) (bit01 q.push.isSome)]⟩]

def viewsBUS (s : State) : List View := [
  ⟨(F.BUS_CH_STAT_RESTRICTED 0).key, 0x400, 16, fun c => [shows (F.BUS_CH_STAT_RESTRICTED c) (bit01 (restricted s c))]⟩]
  ++ (upTo 16).map (fun c => ⟨(F.BUS_CH_TXAGE_AGE_US c 0).key, 8, 32, fun b => [(0, 32, bufAge s c b)]⟩)

def viewsARC (s : State) : List View :=
  let at_ (f : Nat → Fld) (g : Engine → Nat → List (Nat × Nat × Nat)) : View :=
    ⟨(f 0).key, 0x80, 64, fun e => g (engineOf s e) e⟩
  [at_ F.ARC_E_STAT_STATE (fun x e => [shows (F.ARC_E_STAT_STATE e) x.state.code, shows (F.ARC_E_STAT_ROW e) x.row,
      shows (F.ARC_E_STAT_DIRTY e) (bit01 x.dirty), shows (F.ARC_E_STAT_LOOP_PEND e) (bit01 x.loopPend.isSome),
      shows (F.ARC_E_STAT_TX_LEVEL e) x.txf.length, shows (F.ARC_E_STAT_RX_LEVEL e) x.rxf.length,
      shows (F.ARC_E_STAT_DSR_LEFT e) x.dsrLeft]),
    at_ F.ARC_E_SREG_GTR_HAVE (fun x e => [shows (F.ARC_E_SREG_GTR_HAVE e) x.gtrHave, shows (F.ARC_E_SREG_SBIT e) (bit01 x.sbit),
      shows (F.ARC_E_SREG_OUT e) (x.out &&& x.driven).toNat, shows (F.ARC_E_SREG_DRIVEN e) x.driven.toNat]),
    at_ F.ARC_E_X_VALUE (fun x _ => [(0, 32, x.x.toNat)]), at_ F.ARC_E_Y_VALUE (fun x _ => [(0, 32, x.y.toNat)]),
    at_ F.ARC_E_DSR_VALUE (fun x _ => [(0, 32, x.dsr.toNat)]), at_ F.ARC_E_GTR_VALUE (fun x _ => [(0, 32, x.gtr.toNat)])]

/-- The nanoseconds of a base are read live; its seconds are what the last read of them latched (R272). -/
def viewsTIM (s : State) : List View := [
  ⟨(F.TIM_TB_NS_TIME 0).key, 0x40, 4, fun n => [(0, 32, tbNs s n % nsPerSec)]⟩,
  ⟨(F.TIM_TB_STAT_STATE 0).key, 0x40, 4, fun n =>
    shows (F.TIM_TB_STAT_SERVO_OWNED n) (bit01 (servoOwned s n)) ::
      (if n = 1 then [shows (F.TIM_TB_STAT_VALID 1) (bit01 (tb1Valid s))] else [])⟩]

def viewsCIP (s : State) : List View := [
  single F.CIP_STAT_RING_OK [shows F.CIP_STAT_RING_OK (bit01 s.cip.ringRoot.isSome),
    shows F.CIP_STAT_KEYREG_LIVE (bit01 (keyRegsLive s)), shows F.CIP_STAT_HOLD_FREE (4 - s.cip.hold.length),
    shows F.CIP_STAT_CACHE s.cip.cache.length]]

def viewsTWN (s : State) : List View := [
  single F.TWN_STAT_ROLE [shows F.TWN_STAT_ROLE s.twin.role.code, shows F.TWN_STAT_PEER_ROLE s.twin.peerRole,
    shows F.TWN_STAT_LINK_UP (bit01 s.twin.linkUp), shows F.TWN_STAT_CLAIM (bit01 s.twin.claim),
    shows F.TWN_STAT_PEER (bit01 (!peerLow s)), shows F.TWN_STAT_OE (bit01 s.twin.oe),
    shows F.TWN_STAT_SCHEMA (ownSchema s).toNat, shows F.TWN_STAT_PEER_SCHEMA s.twin.peerSchema.toNat]]

/-- Milliseconds until a timer is due, rounded up. -/
def msLeft (s : State) (id : TimerId) : Nat :=
  match lookupKey id s.timers with
  | some d => (d - s.mono + ticksMs - 1) / ticksMs
  | none => 0

def viewsPWR (s : State) : List View := [
  ⟨(F.PWR_SLOT_WAIT_VALUE 0).key, 0x40, 12, fun i =>
    [(0, 32, if running s (.retry i) then msLeft s (.retry i) else msLeft s (.planned i))]⟩]

/-- The transfers in progress on the buses of the bridge. -/
def busyBuses (s : State) : Nat :=
  (s.txn.reqs.filter (fun r => r.waiting && unitOfAddr r.addr = unitI2B)).foldl (fun n r =>
    match bridgeReg (offOfAddr r.addr) with
    | some b => withBit n b.bus true
    | none => n) 0

/-- The computed fields of a unit's registers. -/
def viewsOf (s : State) (u : Nat) : List View :=
  if u = unitSYS then viewsSYS s
  else if u = unitPLZ then viewsPLZ s
  else if u = unitRNG then [single F.RNG_STAT_STATIONS [shows F.RNG_STAT_STATIONS s.ring.map.length]]
  else if u = unitMQ then viewsMQ s
  else if u = unitBUS then viewsBUS s
  else if u = unitARC then viewsARC s
  else if u = unitTIM then viewsTIM s
  else if u = unitCIP then viewsCIP s
  else if u = unitTWN then viewsTWN s
  else if u = unitPWR then viewsPWR s
  else if u = unitFLT then [single F.FLT_ERR_HOLD_LOW [shows F.FLT_ERR_HOLD_LOW (bit01 (errLow s))]]
  else if u = unitPIN then [⟨(F.PIN_IN_PINS 0).key, 4, 6, fun w => [(0, 32, pinIn s w)]⟩]
  else if u = unitI2B then [single F.I2B_STAT_I2C_BUSY [(0, 18, busyBuses s)]]
  else []

/-- A word with the computed fields of its register in place. -/
def showFields (key : Nat) : List View → Nat → Nat
  | [], w => w
  | v :: vs, w =>
    if v.base ≤ key ∧ (key - v.base) % v.stride = 0 ∧ (key - v.base) / v.stride < v.count then
      (v.fields ((key - v.base) / v.stride)).foldl (fun w f => insertBits w f.1 f.2.1 f.2.2) w
    else showFields key vs w

/-- What a register shows, computed fields included. -/
def shownWord (s : State) (key : Nat) : Word :=
  BitVec.ofNat 32 (showFields key (viewsOf s (unitOfKey key)) (regWord s key).toNat)

end Sys2Proof.Machine
end

