-- ==== Sys2Proof/Machine/Registers.lean ====
section
/-! DEFINITION. Reads and writes of registers and windows (R5, R33, R34, R69 to R83): what each field type does, what a
write of a register with an effect does, what stands in each window. -/

namespace Sys2Proof.Machine

/-! ### Field types and commit points (R5, R6, R74, R76) -/

/-- The bits of a register's fields with a property. -/
def fieldMask (d : RegDef) (p : FieldDef → Bool) : Nat :=
  d.fields.foldl (fun m f => if p f then m ||| (2 ^ f.width - 1) * 2 ^ f.lo else m) 0

/-- `old` with the bits of `mask` taken from `new`. -/
def mergeBits (old new mask : Nat) : Nat := old ^^^ ((old ^^^ new) &&& mask)

/-- Pending copies with the bits of `mask` of a register written. -/
def pend (l : List (Nat × (Word × Word))) (key mask w : Nat) : List (Nat × (Word × Word)) :=
  if mask = 0 then l
  else
    let old : Word × Word := (assoc key l).getD (0, 0)
    put key (old.1 ||| BitVec.ofNat 32 mask, BitVec.ofNat 32 (mergeBits old.2.toNat w mask)) l

/-- A write of CB fields that waits for its boundary. -/
def addCb (s : State) (key mask w : Nat) : State :=
  if mask = 0 then s else s.withPendCb (s.pendCb ++ [⟨s.mono, key, BitVec.ofNat 32 mask, BitVec.ofNat 32 w⟩])

/-- What writes of CB fields amount to: per register the bits written and their values. -/
def mergeCb (l : List CbWrite) : List (Nat × (Word × Word)) :=
  l.foldl (fun m c => pend m c.key c.mask.toNat c.value.toNat) []

/-- The value that the fields of `mask` of a register have once their pending copies are applied. -/
def withPending (s : State) (key : Nat) : Nat :=
  match assoc key (mergeCb s.pendCb) with
  | some (m, w) => mergeBits (regWord s key).toNat w.toNat m.toNat
  | none => (regWord s key).toNat

/-- A write by the field types alone: RW and CNT take the value, W1C clears, W1S sets, LK obeys the unit's lock, CB and
FB fields take it as their pending copy; the rest ignores it. -/
def plainWrite (s : State) (d : RegDef) (key w : Nat) : State × Nat :=
  let old := (regWord s key).toNat
  let locked := bitF s F.SYS_LOCK_LOCK (unitOfKey key)
  let lk := fieldMask d (fun f => f.ty = .lk)
  let now := fieldMask d (fun f => f.commit = .im && (f.ty = .rw || f.ty = .cnt || (f.ty = .lk && !locked)))
  let set := mergeBits old w now ||| (w &&& fieldMask d (fun f => f.ty = .w1s))
  let set := mergeBits set 0 (w &&& fieldMask d (fun f => f.ty = .w1c))
  let s := setWord s key (BitVec.ofNat 32 set)
  let s := addCb s key (fieldMask d (fun f => f.commit = .cb && f.ty = .rw)) w
  let s := s.withPendFb (pend s.pendFb key (fieldMask d (fun f => f.commit = .fb && f.ty = .rw)) w)
  (s, if locked && (old ^^^ w) &&& lk != 0 then codeLOCKED else codeOK)

/-! ### Registers with an effect: SYS (R77, R81, R83, R84) -/

/-- A write of SYS_UNIT_RST. -/
def resetUnits (s : State) (w : Nat) : State := (upTo 17).foldl (fun t u => if bitAt w u then requestReset t u else t) s

/-- A write of SYS_UNIT_FENCE. -/
def fenceUnits (s : State) (w : Nat) : State :=
  (upTo 17).foldl (fun t u => if !bitAt w u then liftFence t u else if softFenced t u then t else fenceUnit t u) s

/-- HOLD set or cleared (R77). -/
def holdCommits (s : State) (hold : Bool) : State :=
  let s := setFlag s F.SYS_COMMIT_CTL_HOLD hold
  if hold then s else setF s F.SYS_COMMIT_STAT_HELD_CYCLES 0

/-- DISCARD (R77): every pending CB value and every pending flip goes. -/
def discardCommits (s : State) : State :=
  setF (setF ((s.withPendCb []).withPendMem []) F.SYS_EPOCH_CMD_FLIP 0) F.SYS_EPOCH_STAT_PENDING 0

/-- A write of SYS_EPOCH_CMD (R81). -/
def requestFlips (s : State) (w : Nat) : State × Nat :=
  let w := w % 64
  if w &&& getF s F.SYS_EPOCH_STAT_DRAINING != 0 then (s, codeEPOCH_BUSY)
  else
    let all := getF s F.SYS_EPOCH_CMD_FLIP ||| w
    (setF (setF s F.SYS_EPOCH_CMD_FLIP all) F.SYS_EPOCH_STAT_PENDING all, codeOK)

/-- The code with which a write to a bank of a table completes, if it is not performed (R80, R81). -/
def bankRefusal (s : State) (table : Nat) (bank : Bool) : Option Nat :=
  if activeBank s table = bank then some codeACCESS_DENIED
  else if bitF s F.SYS_EPOCH_STAT_PENDING table || bitF s F.SYS_EPOCH_STAT_DRAINING table then some codeEPOCH_BUSY
  else none

def hookSYS (s : State) (off w : Nat) : Option (State × Nat) :=
  if off = 0x100 then some (resetUnits s w, codeOK)
  else if off = 0x104 then some (fenceUnits s w, codeOK)
  else if off = 0x200 then
    let t := holdCommits s (bitAt w 0)
    some (if bitAt w 1 then discardCommits t else t, codeOK)
  else if off = 0x208 then some (requestFlips s w)
  else none

/-! ### Registers with an effect: the other units -/

/-- PLZ: the learn control, and the fixed sub-queues, whose fields ignore writes (R145, R171). -/
def hookPLZ (s : State) (off w : Nat) : Option (State × Nat) :=
  if off = 0x188 then some (writeLearnCtl s w, codeOK)
  else if 0x3000 ≤ off ∧ off < 0x3038 then some (s, codeOK)
  else none

/-- A write of RNG_PORTn_CFG (R107): ENC_OFFER is 0 where the port cannot encrypt. -/
def writePortCfg (s : State) (d : RegDef) (n key w : Nat) : State × Nat :=
  let w := if n = 2 ∨ s.ident.variant.hasCip = false then withBit w 3 false else w
  let was := flag s (F.RNG_PORT_CFG_EN n)
  let (s, c) := plainWrite s d key w
  (if was = bitAt w 8 then s else setPortEn s n (bitAt w 8), c)

/-- A write of RNG_CTL (R126, R130): a WRAP bit set wraps the port; once it is clear the port may heal. -/
def writeRingCtl (s : State) (w : Nat) : State :=
  let one (s : State) (p : Nat) (f : Fld) : State :=
    if bitAt w p = flag s f then s else if bitAt w p then setWrap s p else setFlag s f false
  let s := one (one s 0 F.RNG_CTL_WRAP_E) 1 F.RNG_CTL_WRAP_W
  if bitAt w 2 then setFlag s F.RNG_CTL_HEAL true else s

def hookRNG (s : State) (d : RegDef) (off key w : Nat) : Option (State × Nat) :=
  if off < 0xC0 ∧ off % 0x40 = 0 then some (writePortCfg s d (off / 0x40) key w)
  else if off < 0xC0 ∧ off % 0x40 = 4 then some (if bitAt w 0 then retrainPort s (off / 0x40) else s, codeOK)
  else if off = 0x408 then some (writeRingCtl s w, codeOK)
  else if 0x1000 ≤ off ∧ off < 0x1800 then
    match bankRefusal s 1 (decide (0x1400 ≤ off)) with
    | some c => some (s, c)
    | none => none
  else none

/-- A write of ACC_LANEn_CFG (R106, R108). -/
def hookACC (s : State) (d : RegDef) (off key w : Nat) : Option (State × Nat) :=
  if off < 0x180 ∧ off % 0x10 = 0 then some (plainWrite (changeMode s (off / 0x10) (w % 8)) d key w) else none

def hookMQ (s : State) (off w : Nat) : Option (State × Nat) :=
  if 0x1000 ≤ off ∧ off < 0x3000 then
    let n := (off - 0x1000) / 0x20
    let o := off % 0x20
    if o = 0 then some (writeQueueCfg s n w)
    else if 4 ≤ o ∧ o ≤ 0x10 then some (writeQueueProd s n ((o - 4) / 4) w)
    else if o = 0x18 then some (writeQueueCtl s n w, codeOK)
    else none
  else none

def hookBUS (s : State) (d : RegDef) (off key w : Nat) : Option (State × Nat) :=
  let c := off / 0x400
  let o := off % 0x400
  if o = 0 then some (writeBusCfg s c w)
  else if o = 4 ∨ o = 8 ∨ o = 0x1C then
    some (writeBusFixed s c key (BitVec.ofNat 32 (w &&& fieldMask d (fun _ => true))))
  else if o = 0xC then some (if bitAt w 0 then recoverBus s c else s, codeOK)
  else if o = 0x28 then some (writeStarve s c (BitVec.ofNat 32 w), codeOK)
  else if o = 0x30 then some (writeTxReq s c w)
  else if o = 0x34 then some (writeTxCan s c w)
  else none

def hookARC (s : State) (off w : Nat) : Option (State × Nat) :=
  if 0x10 ≤ off ∧ off < 0x30 then some (restartGroup s ((off - 0x10) / 4) w, codeOK)
  else if 0x1000 ≤ off ∧ off < 0x3000 then
    let e := (off - 0x1000) / 0x80
    let o := off % 0x80
    if o < 0x38 then some (writeEngineConfig s e o w)
    else if o = 0x38 then some (writeEngineCtl s e w, codeOK)
    else none
  else none

/-- Whether a write of a comparator's registers arms it (R286): EN rising, a write of CMP_NS; new times of a comparator that is
periodic or cycle-relative; and another MODE, or BASE of a periodic one, under which it goes on as if enabled then (log entry
202). -/
def triggerArms (pre s : State) (k o : Nat) : Bool :=
  let mode (t : State) := getF t (F.TIM_TRG_CFG_MODE k)
  let base (t : State) := getF t (F.TIM_TRG_CFG_BASE k)
  let now := trgEnabled s k
  if o = 0 then trgEnabled pre k != now || (now && (mode pre != mode s || (mode s = 1 && base pre != base s)))
  else o = 4 || (decide (o ≤ 0x14) && now && mode s != 0)

/-- A write of a comparator's registers (R286); an armed one-shot fires at the CMP that it holds then. -/
def writeTrigger (s : State) (d : RegDef) (k o key w : Nat) : State × Nat :=
  let (t, c) := plainWrite s d key w
  let oneShot := trgEnabled t k && getF t (F.TIM_TRG_CFG_MODE k) = 0 && flag t (F.TIM_TRG_STAT_ARMED k)
  (if triggerArms s t k o then armTrigger t k
    else if oneShot && decide (o ≤ 0x14) then setFiring t k (some (trgCmp t k))
    else t, c)

def hookTIM (s : State) (d : RegDef) (off key w : Nat) : Option (State × Nat) :=
  if off < 0x100 then
    let n := off / 0x40
    if off % 0x40 = 0xC then
      if n = 2 then some (s, codeOK) else if servoOwned s n then some (s, codeREFUSED_BUSY) else none
    else if off % 0x40 = 0x1C then some (writeTbCtl s n w)
    else none
  else if 0x1000 ≤ off ∧ off < 0x1800 then some (writeTrigger s d ((off - 0x1000) / 0x20) (off % 0x20) key w)
  else none

def hookCIP (s : State) (who : Origin) (d : RegDef) (off key w : Nat) : Option (State × Nat) :=
  if off = 0 then
    some (plainWrite s d key (if s.dev.testmode then w else withBit w 2 (flag s F.CIP_CFG_SHUFFLE_OFF)))
  else if off = 4 then
    let s := if bitAt w 0 then flushCache s else s
    some (if bitAt w 1 then nextLgen s else s, codeOK)
  else if 0x400 ≤ off ∧ off < 0x500 then
    some (writeKeyReg s ((off - 0x400) / 0x20) (off % 0x20 / 4) (BitVec.ofNat 32 w))
  else if 0x1000 ≤ off ∧ off < 0x1400 then
    let slot := (off - 0x1000) / 0x40
    if off % 0x40 = 0 then some (writeDescriptorCtl s slot w (who = .mgt))
    else if dBusy s slot then some (s, codeREFUSED_BUSY)
    else none
  else none

/-- PWR: the slot commands, and the high word of an energy counter, of which a read shows a latched copy (R355). -/
def hookPWR (s : State) (d : RegDef) (off key w : Nat) : Option (State × Nat) :=
  let i := (off - 0x100) / 0x40
  if off < 0x100 then none
  else if off % 0x40 = 0xC then some (writeSlotCtl s i w, codeOK)
  else if off % 0x40 = 0x24 then some (plainWrite (setSlot s i { slotOf s i with eHi := w }) d key w)
  else none

/-- FLT: FLT_UNITn_CFG of SYS and FLT, and the injection registers outside factory test, ignore writes (R372, R373). -/
def hookFLT (s : State) (d : RegDef) (off key w : Nat) : Option (State × Nat) :=
  if off = 0x100 ∨ off = 0x130 then some (s, codeOK)
  else if 0xF00 ≤ off ∧ off < 0xF0C then
    if !s.dev.testmode then some (s, codeOK)
    else
      let (s, c) := plainWrite s d key w
      some (if off = 0xF00 ∧ bitAt w 31 = true then injectGo s (bitsAt w 0 8) (bitsAt w 8 5) (bitAt w 13) else s, c)
  else none

/-- The output levels of a group of 32 pins set, cleared or toggled (R265, R269). -/
def pinsSet (s : State) (g : Nat) (w : Word) : State :=
  let key := (F.PIN_OUT_PINS g).key
  setWord s key (regWord s key ||| w)
def pinsClear (s : State) (g : Nat) (w : Word) : State :=
  let key := (F.PIN_OUT_PINS g).key
  setWord s key (regWord s key &&& ~~~w)
def pinsToggle (s : State) (g : Nat) (w : Word) : State :=
  let key := (F.PIN_OUT_PINS g).key
  setWord s key (regWord s key ^^^ w)

def hookPIN (s : State) (off w : Nat) : Option (State × Nat) :=
  let g := off % 0x20 / 4
  if 0x420 ≤ off ∧ off < 0x438 then some (pinsSet s g (BitVec.ofNat 32 w), codeOK)
  else if 0x440 ≤ off ∧ off < 0x458 then some (pinsClear s g (BitVec.ofNat 32 w), codeOK)
  else if 0x460 ≤ off ∧ off < 0x478 then some (pinsToggle s g (BitVec.ofNat 32 w), codeOK)
  else none

/-- A write of a register whose write does more than its field types say. -/
def hookWrite (s : State) (who : Origin) (d : RegDef) (u off key w : Nat) : Option (State × Nat) :=
  if u = unitSYS then hookSYS s off w
  else if u = unitPLZ then hookPLZ s off w
  else if u = unitRNG then hookRNG s d off key w
  else if u = unitACC then hookACC s d off key w
  else if u = unitMQ then hookMQ s off w
  else if u = unitBUS then hookBUS s d off key w
  else if u = unitARC then hookARC s off w
  else if u = unitTIM then hookTIM s d off key w
  else if u = unitCIP then hookCIP s who d off key w
  else if u = unitTWN then
    if off = 8 then some (writeTwinCtl s w, codeOK)
    else if off = 0 then
      let r := plainWrite s d key w
      some (coldEnabled s r.1, r.2)
    else none
  else if u = unitPWR then hookPWR s d off key w
  else if u = unitFLT then hookFLT s d off key w
  else if u = unitPIN then hookPIN s off w
  else none

/-! ### Presence (R2) -/

/-- The blocks of a unit that belong to an instance each: base, stride, count and which instances a variant has (R33, R107,
R108, R172, R240, R251, R268, R360). -/
def instBlocks (u : Nat) : List (Nat × Nat × Nat × Pres) :=
  if u = unitRNG then [(0, 0x40, 3, .ringPort), (0x100, 8, 6, .ringLane)]
  else if u = unitACC then [(0, 0x10, 24, .accLane), (0x180, 8, 24, .accLane), (0x10000, 0x400, 96, .accPort)]
  else if u = unitBUS then [(0, 0x400, 16, .busCh), (0x8000, 0x4000, 2, .busPriv), (0x100000, 0x4000, 16, .busCh)]
  else if u = unitARC then
    [(0x10, 4, 8, .arcade), (0x1000, 0x80, 64, .engine), (0x10000, 0x200, 64, .engine), (0x18000, 0x40, 64, .engine)]
  else if u = unitPWR then [(0x100, 0x40, 12, .slot)]
  else []

/-- Whether the hub has the instance that an index names: the part has it, and a MAC block belongs to a port that the mode of
its lane uses (R1, R2, R106, R172). -/
def hasInst (s : State) (p : Pres) (idx : List Nat) : Bool :=
  presentInst s.ident.variant p idx && (p != .accPort || portInMode s (idx.headD 0))

/-- Whether an offset lies in the block of an absent instance: every access to it completes with UNIT_ABSENT, listed or not
(R2). -/
def absentAt (s : State) (u off : Nat) : Bool :=
  (instBlocks u).any (fun b =>
    decide (b.1 ≤ off) && decide (off < b.1 + b.2.1 * b.2.2.1) && !hasInst s b.2.2.2 [(off - b.1) / b.2.1])

/-! ### One register -/

/-- The bits that a word of a filter element has; the others are reserved (R71, R229). -/
def filterBits (off : Nat) : Nat := if off % 16 < 4 then 0x7F else 0x1FFFFFFF

/-- Whether an offset lies in the filter banks of BUS (R229), which stand among its registers. -/
def filterOffset (u off : Nat) : Bool := u = unitBUS && decide (0x8000 ≤ off) && decide (off < 0x10000)

/-- A filter offset as channel and bank (R229). -/
def filterPlace (off : Nat) : Nat × Bool := ((off - 0x8000) / 0x4000, bitAt off 13)

/-- A register read (R2, R34): the state after it, the word and the code. Reading the nanoseconds of a base latches its
seconds (R272), reading the low word of an energy counter its high word (R355). -/
def readReg (s : State) (u off : Nat) : State × Word × Nat :=
  let key := keyOf u off
  if absentAt s u off then (s, 0, codeUNIT_ABSENT)
  else if filterOffset u off then
    let t := eccTouch s key 4
    (reportEcc t, BitVec.ofNat 32 (ofLe (memRead t key 4) &&& filterBits off), codeOK)
  else match regAt key with
  | none => (s, 0, codeOK)
  | some (d, idx) =>
    if !hasInst s d.pres idx then (s, 0, codeUNIT_ABSENT)
    else if u = unitFLT ∧ (off = 0x100 ∨ off = 0x130) then (s, 0, codeOK)
    else if u = unitFLT ∧ 0xF00 ≤ off ∧ s.dev.testmode = false then (s, 0, codeOK)
    else if u = unitTIM ∧ off < 0x100 ∧ off % 0x40 = 0 then
      let t := tripleOf (s.tb (off / 0x40))
      (setWords s (key + 4) 2 (t / 2 ^ 32), shownWord s key, codeOK)
    else if u = unitPWR ∧ 0x100 ≤ off ∧ off % 0x40 = 0x20 then
      (setWord s (key + 4) (BitVec.ofNat 32 (slotOf s ((off - 0x100) / 0x40)).eHi), shownWord s key, codeOK)
    else (s, shownWord s key, codeOK)

/-- A register write (R2, R34, R229): the state after it and the code. -/
def writeReg (s : State) (who : Origin) (u off w : Nat) : State × Nat :=
  let key := keyOf u off
  if absentAt s u off then (s, codeUNIT_ABSENT)
  else if filterOffset u off then
    let (c, bank) := filterPlace off
    match bankRefusal s (4 + c) bank with
    | some code => (s, code)
    | none => noteWrite u off w (memWrite s key (leBytes 4 (w &&& filterBits off)), codeOK)
  else match regAt key with
  | none => (s, codeOK)
  | some (d, idx) =>
    if !hasInst s d.pres idx then (s, codeUNIT_ABSENT)
    else noteWrite u off w ((hookWrite s who d u off key w).getD (plainWrite s d key w))

/-- The first code other than OK (R70). -/
def firstCode (a b : Nat) : Nat := if a = codeOK then b else a

/-- `n` registers read in ascending order (R70). -/
def readRegs (s : State) (u off : Nat) : Nat → State × List Byte × Nat
  | 0 => (s, [], codeOK)
  | n + 1 =>
    let (s, w, c) := readReg s u off
    let (s, bs, c') := readRegs s u (off + 4) n
    (s, leBytes 4 w.toNat ++ bs, firstCode c c')

/-- Registers written in ascending order; a refused one does not stop the rest (R70). -/
def writeRegs (s : State) (who : Origin) (u off : Nat) : List Word → State × Nat
  | [] => (s, codeOK)
  | w :: ws =>
    let (s, c) := writeReg s who u off w.toNat
    let (s, c') := writeRegs s who u (off + 4) ws
    (s, firstCode c c')

/-! ### Windows -/

/-- The bytes of one ring map entry (R138). -/
def mapEntryBytes (s : State) (e : RingEntry) : List Byte :=
  let own := isOwn s e.node e.side
  let east := if own then flag s F.RNG_STAT_CLOSED_OUTER else e.reachE
  let west := if own then flag s F.RNG_STAT_CLOSED_INNER else e.reachW
  leBytes 4 (bit01 east + 2 * bit01 west + 4 * e.role.toNat + 256 * e.flags.toNat + 65536 * (e.hopsE % 256)
    + 2 ^ 24 * (e.hopsW % 256))
    ++ leBytes 8 e.uid.toNat ++ bytesOfWords [e.lastUs, e.copied, e.c7Acc, e.c7Dup, e.gaps]

/-- `n` bytes of the ring map window from `a`: an entry is 64 bytes, and an access stays within 256 (R42). -/
def ringMapBytes (s : State) (a n : Nat) : List Byte :=
  let entry (i : Nat) : List Byte :=
    match s.ring.map.find? (fun e => 2 * e.node + bit01 e.side = i) with
    | some e => padTo 64 (mapEntryBytes s e)
    | none => List.replicate 64 0
  sliceAt ((upTo 5).flatMap (fun j => if a / 64 + j < 512 then entry (a / 64 + j) else List.replicate 64 0)) (a % 64) n

/-- A read of `len` bytes at `at_` of queue `q`'s window (R207, R209). -/
def readQueueWindow (s : State) (q at_ len : Nat) (prefetch : Bool) : State × List Byte × Nat :=
  let held := (queueOf s q).held
  if at_ < 0x100 then
    if prefetch then (s, [], codeREFUSED_SIDE_EFFECT)
    else if at_ ≠ 0 then (s, [], codeALIGN_ERROR)
    else popRead s q len prefetch
  else
    let head := match held with
      | some m => leBytes 4 (msgHeader m)
      | none => []
    let page :=
      if at_ < 0x200 then head
      else if 0x400 ≤ at_ ∧ at_ < 0x800 then (match held with
        | some m => m.bytes.drop (at_ / 256 * 256 - 0x400)
        | none => [])
      else if 0xC00 ≤ at_ ∧ at_ < 0xD00 then List.replicate 4 0 ++ leBytes 4 (creditOf s q 0)
      else []
    (s, sliceAt page (at_ % 256) len, codeOK)

/-- A write of bytes at `at_` of queue `q`'s window (R207, R208). -/
def writeQueueWindow (s : State) (who : Origin) (q at_ : Nat) (bs : List Byte) : State × Nat :=
  let touches (lo hi : Nat) : Bool := decide (at_ < hi) && decide (lo < at_ + bs.length)
  if 0x800 ≤ at_ ∧ at_ < 0xC00 then pushBytes s q who (at_ - 0x800) bs
  else if touches 0xC00 0xC04 then
    if at_ = 0xC00 ∧ bs.length = 4 then pushHeader s q who (ofLe bs) else (s, codeALIGN_ERROR)
  else if touches 0 0x100 || touches 0x100 0x104 || touches 0x400 0x800 || touches 0xC04 0xC08 then (s, codeACCESS_DENIED)
  else (s, codeADDR_ERROR)

/-- The byte at distance `a` of the engines' FIFO blocks, RX_POP apart: TX_LEVEL in the first word of each (R251). -/
def fifoByte (s : State) (a : Nat) : Byte :=
  if a % 0x40 = 0 then BitVec.ofNat 8 (engineOf s (a / 0x40)).txf.length else 0

/-- A read of `len` bytes at `at_` of the ARC window, in a present engine's part of it (R62, R251). -/
def readArcWindow (s : State) (at_ len : Nat) (prefetch : Bool) : State × List Byte × Nat :=
  let key := keyOf unitARC (0x10000 + at_)
  if at_ < 0x8000 then
    let t := eccTouch s key len
    (reportEcc t, memRead t key len, codeOK)
  else if prefetch then (s, [], codeREFUSED_SIDE_EFFECT)
  else
    let places := (upTo len).map (at_ - 0x8000 + ·)
    if places.any (fun a => decide (0x20 ≤ a % 0x40) && decide (a % 0x40 < 0x28)) then
      if at_ % 0x40 = 0x20 then rxPop s ((at_ - 0x8000) / 0x40) len else (s, [], codeALIGN_ERROR)
    else (s, places.map (fifoByte s), codeOK)

/-- A write of bytes at `at_` of the ARC window, in a present engine's part of it (R251, R259). -/
def writeArcWindow (s : State) (at_ : Nat) (bs : List Byte) : State × Nat :=
  if at_ < 0x8000 then
    let (s, c) := writeProgram s (at_ / 0x200) (0x10000 + at_) bs
    (if c = codeOK then twinNote s (.memWrite unitARC (0x10000 + at_) bs) else s, c)
  else if at_ % 0x40 < 0x20 then txPush s ((at_ - 0x8000) / 0x40) (at_ % 0x40) bs
  else (s, codeADDR_ERROR)

/-- Window bytes that take effect at a boundary (R20, R162). -/
def pendBytes (s : State) (a : Nat) (bs : List Byte) : State :=
  s.withPendMem (s.pendMem ++ bs.zipIdx.map (fun p => (s.mono, (a + p.2, p.1))))

/-- The banked part of a window an offset lies in: its epoch table and bank (R162, R174). -/
def bankOf (w : Win) (at_ : Nat) : Option (Nat × Bool) :=
  match w with
  | .plzTables => if at_ < 0x10000 then some (0, decide (0x8000 ≤ at_)) else none
  | .jct =>
    if at_ < 0x120000 then some (2, decide (0x90000 ≤ at_))
    else if at_ < 0x220000 then some (3, decide (0x1A0000 ≤ at_))
    else none
  | _ => none

/-- Whether an offset of Plaza's tables is listed in R162. -/
def plzListed (at_ : Nat) : Bool := decide (at_ < 0x19000) || (decide (0x20000 ≤ at_) && decide (at_ < 0x7A000))

/-- A write of bytes at `at_` of a memory window; `a` is its address. Unlisted offsets and words that the hub writes
ignore it. -/
def writeMemWindow (s : State) (w : Win) (a at_ : Nat) (bs : List Byte) : State × Nat :=
  match w with
  | .pfl | .cells | .fltLog | .ringMap => (s, codeACCESS_DENIED)
  | .nvm => (s, if nvmLocked s at_ bs.length then codeLOCKED else codeACCESS_DENIED)
  | .plzTables =>
    if 0x20000 ≤ at_ ∧ plzListed at_ = true then (s, codeACCESS_DENIED)
    else if !plzListed at_ then (s, codeOK)
    else if at_ < 0x10000 then (memWrite s a bs, codeOK)
    else (pendBytes s a bs, codeOK)
  | .pollTable =>
    let kept := bs.zipIdx.map (fun p => if (at_ + p.2) % 64 < 32 then p.1 else memByte s (a + p.2))
    (memWrite s a kept, codeOK)
  | .busRam => writeBusRam s (at_ / 0x4000) (at_ % 0x4000) bs
  | _ => (memWrite s a bs, codeOK)

/-- A read of `len` bytes at an offset of a unit, the bridge and the object dictionary apart: the state after it, the
data and the code. -/
def readAt (s : State) (u off len : Nat) (prefetch : Bool) : State × List Byte × Nat :=
  let regs := if off % 4 ≠ 0 ∨ len % 4 ≠ 0 then (s, [], codeALIGN_ERROR) else readRegs s u off (len / 4)
  if absentAt s u off then (s, [], codeUNIT_ABSENT)
  else match placeOf s.ident.variant u off with
  | .nowhere => (s, [], codeADDR_ERROR)
  | .register => regs
  | .window .accMac _ => regs
  | .window .mqQueues at_ => readQueueWindow s (at_ / 0x1000) (at_ % 0x1000) len prefetch
  | .window .arc at_ => readArcWindow s at_ len prefetch
  | .window .ringMap at_ => (s, ringMapBytes s at_ len, codeOK)
  | .window _ _ =>
    let a := keyOf u off
    let t := eccTouch s a len
    (reportEcc t, memRead t a len, codeOK)

/-- A write of bytes at an offset of a unit, the bridge and the object dictionary apart: the state after it and the
code. -/
def writeAt (s : State) (who : Origin) (u off : Nat) (bs : List Byte) : State × Nat :=
  let regs :=
    if off % 4 ≠ 0 ∨ bs.length % 4 ≠ 0 then (s, codeALIGN_ERROR) else writeRegs s who u off (wordsOf 64 bs)
  if absentAt s u off then (s, codeUNIT_ABSENT)
  else match placeOf s.ident.variant u off with
  | .nowhere => (s, codeADDR_ERROR)
  | .register => regs
  | .window .accMac _ => regs
  | .window .mqQueues at_ => writeQueueWindow s who (at_ / 0x1000) (at_ % 0x1000) bs
  | .window .arc at_ => writeArcWindow s at_ bs
  | .window w at_ =>
    let (s, c) := match bankOf w at_ with
      | some (table, bank) => match bankRefusal s table bank with
        | some c => (s, c)
        | none => writeMemWindow s w (keyOf u off) at_ bs
      | none => writeMemWindow s w (keyOf u off) at_ bs
    (if c = codeOK then twinNote s (.memWrite u off bs) else s, c)

end Sys2Proof.Machine
end

