-- ==== Sys2Proof/Machine/Objects.lean ====
section
/-! DEFINITION. The object dictionary (R374 to R380, R389 to R395, R406, R410, R420): its objects, what reads and writes of
them do, the ODW window, the settings store, the ring key record. -/

namespace Sys2Proof.Machine

/-! ### The objects (R374, R375, R392, R406, R410) -/

/-- A member: type code, size or maximum, read and write class (255 = never), and bits P, mirror and image. -/
structure ObjMem where
  type : Nat
  size : Nat
  rd : Nat
  wr : Nat
  flags : Nat
deriving DecidableEq, Repr

/-- An index: the unit its objects belong to, whether it is a RECORD, and its members. -/
structure ObjEntry where
  unit : Nat
  isRecord : Bool
  members : List ObjMem
deriving DecidableEq, Repr

def never : Nat := 255
def objBool (rd wr flags : Nat) : ObjMem := ⟨1, 1, rd, wr, flags⟩
def objU8 (rd wr flags : Nat) : ObjMem := ⟨2, 1, rd, wr, flags⟩
def objU16 (rd wr flags : Nat) : ObjMem := ⟨3, 2, rd, wr, flags⟩
def objU32 (rd wr flags : Nat) : ObjMem := ⟨4, 4, rd, wr, flags⟩
def objU64 (rd wr flags : Nat) : ObjMem := ⟨5, 8, rd, wr, flags⟩
def objStr (size rd wr flags : Nat) : ObjMem := ⟨12, size, rd, wr, flags⟩
/-- `n` members that mirror one register each. -/
def objRegs (n rd wr : Nat) : List ObjMem := List.replicate n (objU32 rd wr 3)

def one (unit : Nat) (m : ObjMem) : Option ObjEntry := some ⟨unit, false, [m]⟩
def recordOf (unit : Nat) (ms : List ObjMem) : Option ObjEntry := some ⟨unit, true, ms⟩

/-- The objects 0x1000 to 0x1FFF. -/
def objs1 (i : Nat) : Option ObjEntry :=
  match i with
  | 0x1000 => recordOf unitSYS [objU16 0 never 0, objU8 0 never 0, objU8 0 never 0, objU64 0 never 0]
  | 0x1005 => one unitSYS (objU8 0 2 0)
  | 0x1006 => one unitSYS (objU8 0 never 0)
  | 0x1010 => recordOf unitSYS [objU32 0 never 0, objU32 0 never 0]
  | 0x1018 => recordOf unitSYS [objU32 0 never 0, objU8 0 never 0, objU8 0 never 0]
  | 0x1020 => recordOf unitSYS [objU16 1 never 0, objU16 1 never 0, objU8 1 never 0, objU32 1 never 0, objU32 1 never 0]
  | 0x1024 => one unitSYS (objBool 1 3 1)
  | 0x1025 => recordOf unitSYS [objStr 12 1 3 1, objU16 1 3 1]
  | 0x1026 => recordOf unitSYS [objU32 1 3 1, objU32 1 3 1]
  | 0x1030 => one unitSYS (objU32 3 3 1)
  | 0x1040 => one unitSYS (objStr 6 1 2 1)
  | 0x1041 => one unitSYS (objU32 1 2 1)
  | 0x1042 => one unitSYS (objU16 1 2 1)
  | 0x1050 => one unitSYS (objU8 2 2 2)
  | _ => none

/-- The objects 0x2000 to 0x4FFF. -/
def objs2 (i : Nat) : Option ObjEntry :=
  match i with
  | 0x2000 => recordOf unitRNG (objRegs 5 1 2)
  | 0x2010 => one unitRNG (objStr 1024 1 2 5)
  | 0x2020 => one unitCIP (objStr 36 never 2 0)
  | 0x3000 => recordOf unitPLZ (objRegs 8 1 2)
  | 0x3010 => one unitPLZ (objStr 32768 1 2 5)
  | 0x3011 => one unitPLZ (objStr 32768 1 2 5)
  | 0x4000 => recordOf unitJCT (objRegs 1 1 2)
  | 0x4010 => one unitJCT (objStr 0x90000 1 2 5)
  | 0x4011 => one unitJCT (objStr 0x80000 1 2 5)
  | 0x4012 => one unitJCT (objStr 0x20000 1 2 5)
  | _ => none

/-- The objects 0x5000 to 0xAFFF. -/
def objs5 (i : Nat) : Option ObjEntry :=
  if 0x5000 ≤ i ∧ i < 0x5010 then recordOf unitBUS (objRegs 7 1 2)
  else if 0x5100 ≤ i ∧ i < 0x5102 then one unitBUS (objStr 8192 1 2 5)
  else if 0x6000 ≤ i ∧ i < 0x6040 then one unitARC (objStr 512 1 2 5)
  else if 0x6100 ≤ i ∧ i < 0x6140 then recordOf unitARC (objRegs 14 1 2)
  else if i = 0x6200 then one unitPIN (objStr 768 1 2 5)
  else if i = 0x7000 then recordOf unitTIM (objRegs 3 1 2)
  else if i = 0x8000 then recordOf unitPWR (objRegs 4 1 2)
  else if 0x8010 ≤ i ∧ i < 0x801C then recordOf unitPWR (objRegs 3 1 2)
  else if 0x8100 ≤ i ∧ i < 0x810C then one unitPWR (objU8 1 2 0)
  else if i = 0x9000 then recordOf unitTWN (objRegs 2 1 3)
  else if i = 0x9100 then recordOf unitFLT (objRegs 17 1 3)
  else if i = 0xA000 then recordOf unitCIP (objRegs 1 1 3)
  else none

/-- The objects 0xB000 to 0xFFFF. -/
def objsB (i : Nat) : Option ObjEntry :=
  match i with
  | 0xB000 => one unitSYS (objU8 1 never 0)
  | 0xB001 => one unitSYS (objU8 never 2 0)
  | 0xB002 => one unitSYS (objStr maxPackage never 2 0)
  | 0xB003 => recordOf unitSYS (objU32 1 never 0 :: List.replicate 5 (objU8 1 never 0))
  | 0xB004 => one unitSYS (objStr 256 1 never 0)
  | 0xB0F0 => one unitRNG (objU8 1 2 0)
  | 0xF001 => recordOf unitSYS (List.replicate 3 (objU32 1 never 0))
  | 0xF010 => one unitSYS (objU8 never 2 0)
  | 0xF011 => recordOf unitSYS [objU8 1 2 1, objU8 1 never 0, objU16 1 2 1, objU16 1 2 1, objU16 1 2 1, objU8 1 2 1]
  | _ => none

/-- The entry of an index. -/
def objAt (i : Nat) : Option ObjEntry :=
  if i < 0x2000 then objs1 i else if i < 0x5000 then objs2 i else if i < 0xB000 then objs5 i else objsB i

/-- A member by its subindex; subindex 0 of a RECORD is a read-only U8 (R374). -/
def memberOf (i sub : Nat) : Option ObjMem :=
  match objAt i with
  | some e =>
    if e.isRecord then
      (if sub = 0 then some (objU8 ((e.members.map ObjMem.rd).headD 0) never 0) else e.members[sub - 1]?)
    else if sub = 0 then e.members[0]? else none
  | none => none

/-- The highest subindex of an index. -/
def highestSub (i : Nat) : Nat :=
  match objAt i with
  | some e => if e.isRecord then e.members.length else 0
  | none => 0

def ObjMem.persistent (m : ObjMem) : Bool := bitAt m.flags 0
def ObjMem.mirror (m : ObjMem) : Bool := bitAt m.flags 1
def ObjMem.image (m : ObjMem) : Bool := bitAt m.flags 2
def ObjMem.isString (m : ObjMem) : Bool := decide (12 ≤ m.type)

/-! ### Mirrors and images (R377) -/

/-- The register that a member mirrors: unit and offset. -/
def mirrorOf (i sub : Nat) : Option (Nat × Nat) :=
  let k := sub - 1
  if sub = 0 then (if i = 0x1050 then some (unitSYS, 0x208) else none)
  else if i = 0x2000 then some (unitRNG, [0x400, 0x404, 0x00, 0x40, 0x80].getD k 0)
  else if i = 0x3000 then some (unitPLZ, 0x140 + 4 * k)
  else if i = 0x4000 then some (unitJCT, 0)
  else if 0x5000 ≤ i ∧ i < 0x5010 then
    some (unitBUS, 0x400 * (i - 0x5000) + [0x00, 0x04, 0x08, 0x1C, 0x20, 0x24, 0x28].getD k 0)
  else if 0x6100 ≤ i ∧ i < 0x6140 then some (unitARC, 0x1000 + 0x80 * (i - 0x6100) + 4 * k)
  else if i = 0x7000 then some (unitTIM, 0x100 + 4 * k)
  else if i = 0x8000 then some (unitPWR, [0x00, 0x04, 0x0C, 0x10].getD k 0)
  else if 0x8010 ≤ i ∧ i < 0x801C then some (unitPWR, 0x100 + 0x40 * (i - 0x8010) + 4 * k)
  else if i = 0x9000 then some (unitTWN, 4 * k)
  else if i = 0x9100 then some (unitFLT, if k = 0 then 0 else 0x100 + 4 * k)
  else if i = 0xA000 then some (unitCIP, 0)
  else none

/-- The shadow bank of an epoch table. -/
def shadowBank (s : State) (table : Nat) : Nat := bit01 (!activeBank s table)

/-- Where the image of an image object stands: unit and offset. -/
def imageOf (s : State) (i : Nat) : Option (Nat × Nat) :=
  if i = 0x2010 then some (unitRNG, 0x1000 + 0x400 * shadowBank s 1)
  else if i = 0x3010 then some (unitPLZ, 0x100000 + 0x8000 * shadowBank s 0)
  else if i = 0x3011 then some (unitPLZ, 0x110000)
  else if i = 0x4010 then some (unitJCT, 0x1000000 + 0x90000 * shadowBank s 2)
  else if i = 0x4011 then some (unitJCT, 0x1120000 + 0x80000 * shadowBank s 3)
  else if i = 0x4012 then some (unitJCT, 0x1260000)
  else if 0x5100 ≤ i ∧ i < 0x5102 then
    some (unitBUS, 0x8000 + 0x4000 * (i - 0x5100) + 0x2000 * shadowBank s (4 + (i - 0x5100)))
  else if 0x6000 ≤ i ∧ i < 0x6040 then some (unitARC, 0x10000 + 0x200 * (i - 0x6000))
  else if i = 0x6200 then some (unitPIN, 0x100)
  else none

/-- Whether an image is made of registers. -/
def imageRegs (unit : Nat) : Bool := unit = unitRNG || unit = unitPIN

/-- `n` bytes of an image from `ofs`. -/
def imageSlice (s : State) (i ofs n : Nat) : List Byte :=
  match imageOf s i with
  | some (u, off) =>
    if imageRegs u then
      let words := (upTo ((ofs + n + 3) / 4 - ofs / 4)).map (fun k => regWord s (keyOf u (off + 4 * (ofs / 4 + k))))
      sliceAt (bytesOfWords words) (ofs % 4) n
    else memRead s (keyOf u (off + ofs)) n
  | none => []

/-- Bytes of an image written from `ofs`: registers by R5 and R76, banks by R81, programs by R259. -/
def imageWrite (s : State) (i ofs : Nat) (bs : List Byte) : State × Nat :=
  match imageOf s i with
  | some (u, off) =>
    if imageRegs u then
      let n := (ofs + bs.length + 3) / 4 - ofs / 4
      let at_ := off + 4 * (ofs / 4)
      let held := (upTo n).map (fun k => BitVec.ofNat 32 (withPending s (keyOf u (at_ + 4 * k))))
      if u = unitRNG ∧ (bankRefusal s 1 (!activeBank s 1)).isSome then (s, codeEPOCH_BUSY)
      else writeRegs s .mgt u at_ (wordsOf n (patchBytes (bytesOfWords held) (ofs % 4) bs))
    else if u = unitBUS then
      let t := 4 + (i - 0x5100)
      if (bankRefusal s t (!activeBank s t)).isSome then (s, codeEPOCH_BUSY)
      else
        let kept := bs.zipIdx.map (fun p => p.1 &&& BitVec.ofNat 8 (filterBits (off + ofs + p.2) / 256 ^ ((ofs + p.2) % 4)))
        (twinNote (memWrite s (keyOf u (off + ofs)) kept) (.memWrite u (off + ofs) kept), codeOK)
    else writeAt s .mgt u (off + ofs) bs
  | none => (s, codeADDR_ERROR)

/-! ### Presence and fences (R376) -/

/-- The code of an object whose unit or instance is absent or fenced. -/
def objFence (s : State) (i sub : Nat) : Option Nat :=
  match objAt i with
  | none => some codeADDR_ERROR
  | some e =>
    let v := s.ident.variant
    let absentReg := match mirrorOf i sub with
      | some (u, off) => match regAt (keyOf u off) with
        | some (d, idx) => absentAt s u off || !hasInst s d.pres idx
        | none => false
      | none => false
    let absentInst := (0x5000 ≤ i && i < 0x5010 && decide (v.busChannels ≤ i - 0x5000))
      || (0x5100 ≤ i && i < 0x5102 && decide (v.busPriv ≤ i - 0x5100))
      || (0x6000 ≤ i && i < 0x6040 && decide (v.engines ≤ i - 0x6000))
      || (0x6100 ≤ i && i < 0x6140 && decide (v.engines ≤ i - 0x6100))
      || (0x8010 ≤ i && i < 0x801C && decide (v.slots ≤ i - 0x8010))
      || (0x8100 ≤ i && i < 0x810C && decide (v.slots ≤ i - 0x8100))
    if unitAbsent v e.unit || absentReg || absentInst then some codeUNIT_ABSENT else fenceCode s e.unit

/-- Why a request of a class may not read or write a member: no such object, class too low, absent or fenced. -/
def objRefusal (s : State) (cls i sub : Nat) (write : Bool) : Option Nat :=
  match memberOf i sub with
  | none => some codeADDR_ERROR
  | some m => if cls < (if write then m.wr else m.rd) then some codeACCESS_DENIED else objFence s i sub

/-! ### Values -/

/-- The value of an object that only the dictionary holds, before anything has written it. -/
def heldDefault (i sub : Nat) (m : ObjMem) : List Byte :=
  if m.isString then []
  else leBytes m.size (if i = 0x1030 then 115200 else if i = 0xF011 ∧ sub = 1 then 0x18
    else if i = 0xF011 ∧ 3 ≤ sub ∧ sub ≤ 5 then 600 else 0)

def heldValue (s : State) (i sub : Nat) (m : ObjMem) : List Byte :=
  (lookupKey (i, sub) s.odw.objs).getD (heldDefault i sub m)

/-- The value of an object that is no image. -/
def objValue (s : State) (i sub : Nat) (m : ObjMem) : List Byte :=
  let n (v : Nat) : List Byte := leBytes m.size v
  if sub = 0 ∧ m.wr = never ∧ 0 < highestSub i then n (highestSub i)
  else match i with
  | 0x1000 => n ([0x7216, s.ident.variant.code, s.ident.stepping.toNat, s.ident.uid.toNat].getD (sub - 1) 0)
  | 0x1005 => n s.dev.nodeId
  | 0x1006 => n (bit01 s.dev.side)
  | 0x1010 => n (if sub = 1 then capWord s.ident.variant else unitMap (unitAbsent s.ident.variant))
  | 0x1018 => n ([s.dev.imageVersion.toNat, s.dev.bank, s.dev.schema.toNat].getD (sub - 1) 0)
  | 0x1020 => n ([s.dev.settingsSchema.toNat, s.odw.storedSchema.toNat, s.odw.lastLoad, s.odw.storesDone.toNat,
      s.odw.sizeNeeded.toNat].getD (sub - 1) 0)
  | 0x1050 => n (getF s F.SYS_EPOCH_CMD_FLIP)
  | 0xB000 => n s.upd.state
  | 0xB003 => n ([s.upd.received, s.upd.result, s.upd.trialStarts, s.ident.otp, s.dev.bank, s.upd.done64].getD (sub - 1) 0)
  | 0xB004 => if headerValid s then nvmRead s stagingAt 256 else List.replicate 256 0
  | 0xB0F0 => n (match s.ring.relayPort with
      | some p => p + 1
      | none => 0)
  | 0xF001 => n ([s.odw.badFrames.toNat, s.odw.busDropped.toNat, s.odw.notServed.toNat].getD (sub - 1) 0)
  | _ =>
    if i = 0xF011 ∧ sub = 2 then n s.aon.cause.toNat
    else if 0x8100 ≤ i ∧ i < 0x810C then n 0
    else match mirrorOf i sub with
      | some (u, off) => n (readReg s u off).2.1.toNat
      | none => heldValue s i sub m

/-- How many bytes the value of a member has. -/
def valueSize (s : State) (i sub : Nat) (m : ObjMem) : Nat := if m.image then m.size else (objValue s i sub m).length

/-- `n` bytes of a member's value from `ofs`. -/
def objSlice (s : State) (i sub : Nat) (m : ObjMem) (ofs n : Nat) : List Byte :=
  if m.image then imageSlice s i ofs n else sliceAt (objValue s i sub m) ofs n

/-! ### The ring key record (R394, R395) -/

def ringKeyAt (copy : Nat) : Nat := 0x701000 + 128 * copy

/-- A copy of the record with its CRC: SEQ, and the 128 bytes. -/
def ringKeyCopy (s : State) (copy : Nat) : Option (Nat × List Byte) :=
  let w := nvmRead s (ringKeyAt copy) 128
  if leWord w 0 = 0x524B5931 ∧ leWord w 31 = crc32 (w.take 124) then some (leWord w 1, w) else none

/-- The copy in use: its number, SEQ and bytes. -/
def ringKeyRecord (s : State) : Option (Nat × Nat × List Byte) :=
  match ringKeyCopy s 0, ringKeyCopy s 1 with
  | some (a, x), some (b, y) => if a < b then some (1, b, y) else some (0, a, x)
  | some (a, x), none => some (0, a, x)
  | none, some (b, y) => some (1, b, y)
  | none, none => none

/-- The key that wraps the ring key. -/
def wrapKey (s : State) : List Nat :=
  kdf (keyBytes s.ident.deviceRoot) (toNats (leBytes 4 0x57524B31))
    (beNats 8 s.ident.uid.toNat ++ List.replicate 8 0) 256

/-- The IV of a record. -/
def wrapIv (seq gen : Nat) : List Nat := List.replicate 4 0 ++ beNats 4 seq ++ beNats 4 gen

/-- UNWRAP_RING from the record in use, and CIP_RING_GEN from it (R395), which at a start is in force before the units
run; without a valid copy, or with a wrong tag, RING_OK stays 0. -/
def loadRingKey (s : State) (atStart : Bool) : State :=
  match ringKeyRecord s with
  | some (_, seq, w) =>
    let iv := wrapIv seq (leWord w 2)
    let key := wrapKey s
    let ct := toNats (sliceAt w 12 32)
    let tag := toNats (sliceAt w 44 16)
    if s.ident.variant.hasCip ∧ gcmTag key iv (toNats (sliceAt w 8 4)) ct = tag then
      let s := s.withCip { s.cip with ringRoot := some (bytesKey (gcmCrypt key iv ct)) }
      if atStart then setF s F.CIP_RING_GEN_GEN (leWord w 2)
      else addCb s F.CIP_RING_GEN_GEN.key 0xFFFFFFFF (leWord w 2)
    else s
  | none => s

/-- A write of 0x2020.00 (R394): generation, then key; only over an encrypted segment or the service port. -/
def writeRingKey (s : State) (secure : Bool) (bs : List Byte) : State × Nat :=
  if !secure then (s, codeACCESS_DENIED)
  else if bs.length ≠ 36 then (s, codeALIGN_ERROR)
  else if !nvmWritable s then (s, codeREFUSED_BUSY)
  else if nvmLocked s (ringKeyAt 0) 256 then (s, codeLOCKED)
  else
    let (copy, seq) := match ringKeyRecord s with
      | some (c, n, _) => (1 - c, (n + 1) % 2 ^ 32)
      | none => (0, 0)
    let gen := ofBe (bs.take 4)
    let iv := wrapIv seq gen
    let key := wrapKey s
    let ct := gcmCrypt key iv (toNats (bs.drop 4))
    let tag := gcmTag key iv (toNats (leBytes 4 gen)) ct
    let body := padTo 124 (leBytes 4 0x524B5931 ++ leBytes 4 seq ++ leBytes 4 gen ++ toBytes ct ++ toBytes tag)
    (loadRingKey (nvmPut s (ringKeyAt copy) (body ++ leBytes 4 (crc32 body))) false, codeOK)

/-! ### The recovery relay (R420) -/

/-- The relay opens on a port: broken as by WRAP, MAX_RATE 0 offered, bring-up restarted. -/
def openRelay (s : State) (p : Nat) : State :=
  let s := declareBroken (s.withRing { s.ring with relayPort := some p }) p
  retrainPort (startTimer s .relay relayTicks) p

/-- The relay closes: MAX_RATE is offered again, and the port retrains. -/
def closeRelay (s : State) : State :=
  match s.ring.relayPort with
  | some p => retrainPort (stopTimer (s.withRing { s.ring with relayPort := none }) .relay) p
  | none => s

/-- A write of 0xB0F0.00. -/
def writeRelay (s : State) (v : Nat) : State × Nat :=
  if v = 0 then (closeRelay s, codeOK)
  else if v = 1 ∨ v = 2 then (openRelay (closeRelay s) (v - 1), codeOK)
  else (s, codeADDR_ERROR)

/-! ### Writes -/

/-- The node ID in the identity area (R393; log entry 15). -/
def nodeIdAt : Nat := 0x700000

/-- A write of 0x1005.00: the new node ID takes effect at the first boundary after it is stored. -/
def writeNodeId (s : State) (v : Nat) : State × Nat :=
  if v = 255 then (s, codeADDR_ERROR)
  else if !nvmWritable s then (s, codeREFUSED_BUSY)
  else if nvmLocked s nodeIdAt 1 then (s, codeLOCKED)
  else
    let s := nvmPut s nodeIdAt (leBytes 1 v)
    (s.withDev { s.dev with newNodeId := some v }, codeOK)

/-- A write of 0xF010.00: the command waits for its response to be sent (R392, R404). -/
def writeDeviceCommand (s : State) (v : Nat) : State × Nat :=
  if v = 1 then (s.withOdw { s.odw with pendingCmd := 1 }, codeOK)
  else if v = 2 then
    (if dormantRefused s || !inService s then (s, codeREFUSED_BUSY) else (s.withOdw { s.odw with pendingCmd := 2 }, codeOK))
  else (s, codeADDR_ERROR)

/-- A value held by the dictionary alone. -/
def holdValue (s : State) (i sub : Nat) (bs : List Byte) : State :=
  s.withOdw { s.odw with objs := replaceKey (i, sub) bs s.odw.objs }

/-- The rate of 0x1030.00 takes effect; a write of it waits until its response has been sent (R388). -/
def takeUartRate (s : State) : State :=
  s.withOdw { s.odw with uartRate := ofLe (heldValue s 0x1030 0 (objU32 3 3 1)) }

/-- Whether a value lies outside the range of an object that the dictionary holds (R376, R392, R406). -/
def outOfRange (i sub v : Nat) : Bool :=
  (i = 0x1024 && decide (1 < v)) || (i = 0x1030 && (decide (v < 9600) || decide (3000000 < v)))
    || (i = 0xF011 && decide (3 ≤ sub ∧ sub ≤ 5) && decide (1200 < v))

/-- The persistent copy of a member with bytes written at `ofs` (R377): the whole value, or part of it. -/
def keepPersistent (s : State) (i sub ofs : Nat) (bs : List Byte) : State :=
  let old := (lookupKey (i, sub) s.odw.persist).getD []
  let new := if ofs = 0 then bs ++ (if 256 < bs.length ∨ 256 < old.length then old.drop bs.length else [])
    else padTo ofs old ++ bs ++ old.drop (ofs + bs.length)
  s.withOdw { s.odw with persist := replaceKey (i, sub) new s.odw.persist }

/-- A value written to an object that is no image; `secure` says whether it came over an encrypted segment or the
service port. -/
def putValue (s : State) (secure : Bool) (i sub : Nat) (bs : List Byte) : State × Nat :=
  let v := ofLe bs
  match i with
  | 0x1005 => writeNodeId s v
  | 0x2020 => writeRingKey s secure bs
  | 0xB001 => updCommand s v
  | 0xB002 => updPackage s 0 bs
  | 0xB0F0 => writeRelay s v
  | 0xF010 => writeDeviceCommand s v
  | _ =>
    if 0x8100 ≤ i ∧ i < 0x810C then
      (if v = 1 ∨ v = 2 then writeReg s .mgt unitPWR (0x10C + 0x40 * (i - 0x8100)) v else (s, codeADDR_ERROR))
    else match mirrorOf i sub with
      | some (u, off) => writeReg s .mgt u off v
      | none =>
        if outOfRange i sub v then (s, codeADDR_ERROR)
        else
          (holdValue s i sub (if i = 0xF011 ∧ sub = 1 then leBytes 1 (v ||| 0x10) else bs), codeOK)

/-- A member's value written from `ofs`: the whole value at 0, part of a string in place elsewhere (R383). -/
def writeMember (s : State) (secure : Bool) (i sub ofs : Nat) (bs : List Byte) (m : ObjMem) : State × Nat :=
  if i = 0xB002 then updPackage s ofs bs
  else if !m.isString ∧ (ofs ≠ 0 ∨ bs.length ≠ m.size) then (s, codeALIGN_ERROR)
  else if m.size < ofs + bs.length then (s, codeALIGN_ERROR)
  else
    let (s, c) :=
      if m.image then imageWrite s i ofs bs
      else putValue s secure i sub (if ofs = 0 then bs else
        padTo ofs (objValue s i sub m) ++ bs ++ (objValue s i sub m).drop (ofs + bs.length))
    (if c = codeOK ∧ m.persistent = true then keepPersistent s i sub ofs bs else s, c)

/-! ### The ODW window (R35, R380) -/

/-- The members of an index in its 256-byte image, from subindex `sub` and byte `at_` on: subindex, place and size. -/
def layoutFrom (sub at_ : Nat) : List ObjMem → List (Nat × Nat × Nat)
  | [] => []
  | m :: ms =>
    let a := if m.isString then at_ else (at_ + m.size - 1) / m.size * m.size
    if a + m.size ≤ 256 then (sub, a, m.size) :: layoutFrom (sub + 1) (a + m.size) ms else []

/-- The image of an index. -/
def layoutOf (i : Nat) : List (Nat × Nat × Nat) :=
  match objAt i with
  | some e => layoutFrom (if e.isRecord then 1 else 0) 0 e.members
  | none => []

/-- The members that an access covers, or the code with which it is refused. -/
def coveredMembers (at_ len : Nat) : Except Nat (Nat × List (Nat × Nat × Nat)) :=
  let i := at_ / 256
  let o := at_ % 256
  let inside := (layoutOf i).filter (fun p => decide (o ≤ p.2.1) && decide (p.2.1 + p.2.2 ≤ o + len))
  if layoutOf i = [] then .error codeADDR_ERROR
  else if (inside.map (fun p => p.2.2)).sum ≠ len then .error codeALIGN_ERROR
  else .ok (i, inside)

/-- The access class of an initiator in the window (R380). -/
def originClass : Origin → Nat
  | .mgt => 3 | .svc => 3 | .ring _ _ _ => 2 | .jct => 1 | .pol => 1

/-- A read of the window. -/
def readObjects (s : State) (cls at_ len : Nat) : List Byte × Nat :=
  match coveredMembers at_ len with
  | .error c => ([], c)
  | .ok (i, ms) => ms.foldl (fun acc p =>
      let c := (objRefusal s cls i p.1 false).getD codeOK
      let bs := match memberOf i p.1 with
        | some m => if c = codeOK then objSlice s i p.1 m 0 p.2.2 else List.replicate p.2.2 0
        | none => []
      (acc.1 ++ bs, firstCode acc.2 c)) ([], codeOK)

/-- A write of the window, member by member. -/
def writeObjects (s : State) (cls at_ : Nat) (secure : Bool) (bs : List Byte) : State × Nat :=
  match coveredMembers at_ bs.length with
  | .error c => (s, c)
  | .ok (i, ms) =>
    let r := ms.foldl (fun acc p =>
      match objRefusal acc.1 cls i p.1 true, memberOf i p.1 with
      | none, some m =>
        let (t, c) := writeMember acc.1 secure i p.1 0 (sliceAt bs (p.2.1 - at_ % 256) p.2.2) m
        (t, firstCode acc.2 c)
      | some c, _ => (acc.1, firstCode acc.2 c)
      | none, none => acc) (s, codeOK)
    (takeUartRate r.1, r.2)

/-! ### The settings store (R389 to R391) -/

def halfAt (h : Nat) : Nat := 0x600000 + 0x80000 * h
def halfSize : Nat := 0x80000

/-- The SEQ and body of a half that holds a valid image; `Except.error` says whether it holds one whose CRC fails. -/
def halfImage (s : State) (h : Nat) : Except Bool (Nat × Nat × List Byte) :=
  let w := nvmRead s (halfAt h) 32
  let len := leWord w 3
  if leWord w 0 ≠ 0x53544731 then .error false
  else if halfSize - 32 < len then .error true
  else
    let body := nvmRead s (halfAt h + 32) len
    if leWord w 4 = crc32 body then .ok (leWord w 2, leWord w 1 % 65536, body) else .error true

/-- The half that holds the newest valid image: its number, SEQ, schema and body. -/
def newestHalf (s : State) : Option (Nat × Nat × Nat × List Byte) :=
  match halfImage s 0, halfImage s 1 with
  | .ok (a, x, p), .ok (b, y, q) => if a < b then some (1, b, y, q) else some (0, a, x, p)
  | .ok (a, x, p), .error _ => some (0, a, x, p)
  | .error _, .ok (b, y, q) => some (1, b, y, q)
  | .error _, .error _ => none

/-- One record of the body. -/
def storeRecordOf (i sub ofs : Nat) (bs : List Byte) : List Byte :=
  leBytes 2 i ++ leBytes 1 sub ++ [0] ++ leBytes 4 ofs ++ leBytes 2 bs.length ++ [0, 0] ++ bs

/-- The chunks of 256 bytes of an image that are not all zero. -/
def chunksOf (i sub ofs : Nat) (bs : List Byte) : Nat → List Byte
  | 0 => []
  | fuel + 1 =>
    if bs = [] then []
    else
      let c := bs.take 256
      (if c.all (fun b => b = 0) then [] else storeRecordOf i sub ofs c) ++ chunksOf i sub (ofs + 256) (bs.drop 256) fuel

/-- The body that STORE writes: every persistent copy; images by their non-zero chunks. -/
def storeBody (s : State) : List Byte :=
  s.odw.persist.flatMap (fun p =>
    let i := p.1.1
    let sub := p.1.2
    if (memberOf i sub).any ObjMem.image then chunksOf i sub 0 p.2 (p.2.length / 256 + 1) else storeRecordOf i sub 0 p.2)

/-- STORE finished (R389): body, then header, in the half that does not hold the newest valid image. A body that does not
fit writes nothing. -/
def finishStore (s : State) : State :=
  let body := storeBody s
  let s := s.withOdw { s.odw with storing := false }
  if halfSize < 32 + body.length then s.withOdw { s.odw with sizeNeeded := BitVec.ofNat 32 (32 + body.length) }
  else
    let (half, seq) := match newestHalf s with
      | some (h, n, _, _) => (1 - h, n + 1)
      | none => (0, 0)
    let header := leBytes 4 0x53544731 ++ leBytes 2 s.dev.settingsSchema.toNat ++ [0, 0] ++ leBytes 4 seq
      ++ leBytes 4 body.length ++ leBytes 4 (crc32 body) ++ List.replicate 12 0
    let s := nvmPut (nvmPut s (halfAt half + 32) body) (halfAt half) header
    s.withOdw { s.odw with storesDone := s.odw.storesDone + 1, storedSchema := s.dev.settingsSchema }

/-- STORE begins: refused while one runs, while an update is Verifying or Armed, and while NVM may not be written. -/
def startStore (s : State) : State × Nat :=
  if s.odw.storing || s.upd.state = 3 || s.upd.state = 5 || !nvmWritable s then (s, codeREFUSED_BUSY)
  else
    let n := 32 + (storeBody s).length
    if halfSize < n then (s.withOdw { s.odw with sizeNeeded := BitVec.ofNat 32 n }, codeALIGN_ERROR)
    else if nvmLocked s (halfAt 0) (2 * halfSize) then (s, codeLOCKED)
    else (twinNote (s.withOdw { s.odw with storing := true }) .store, codeOK)

/-- RESTORE (R391): both halves are invalidated. -/
def restoreStore (s : State) : State × Nat :=
  if s.odw.storing || !nvmWritable s then (s, codeREFUSED_BUSY)
  else if nvmLocked s (halfAt 0) (2 * halfSize) then (s, codeLOCKED)
  else (nvmPut (nvmPut s (halfAt 0) (leBytes 4 0)) (halfAt 1) (leBytes 4 0), codeOK)

/-- The records of a body: index, subindex, offset, value. -/
def storeRecords : Nat → List Byte → List (Nat × Nat × Nat × List Byte)
  | 0, _ => []
  | fuel + 1, bs =>
    if bs.length < 12 then []
    else
      let len := ofLe (sliceAt bs 8 2)
      (ofLe (bs.take 2), ofLe (sliceAt bs 2 1), ofLe (sliceAt bs 4 4), (bs.drop 12).take len)
        :: storeRecords fuel (bs.drop (12 + len))

/-- A loaded record becomes the persistent copy of its object, or a chunk of it. -/
def loadCopy (s : State) (r : Nat × Nat × Nat × List Byte) : State := keepPersistent s r.1 r.2.1 r.2.2.1 r.2.2.2

/-- The persistent copies from the newest valid image, where its schema matches; else none, and 0x1020.03 says why
(R390). -/
def loadCopies (s : State) : State :=
  let s := s.withOdw { s.odw with persist := [] }
  match newestHalf s with
  | none =>
    let failed (h : Nat) : Bool := match halfImage s h with
      | .error b => b
      | .ok _ => false
    s.withOdw { s.odw with lastLoad := if failed 0 || failed 1 then 3 else 1, storedSchema := 0 }
  | some (_, _, schema, body) =>
    let s := s.withOdw { s.odw with storedSchema := BitVec.ofNat 16 schema }
    if schema ≠ s.dev.settingsSchema.toNat then s.withOdw { s.odw with lastLoad := 2 }
    else ((storeRecords body.length body).foldl loadCopy s).withOdw
      { ((storeRecords body.length body).foldl loadCopy s).odw with lastLoad := 0 }

/-- A persistent copy written to its object, as the management complex writes it. -/
def applyCopy (s : State) (p : (Nat × Nat) × List Byte) : State :=
  match memberOf p.1.1 p.1.2 with
  | some m =>
    if (objFence s p.1.1 p.1.2).isSome then s
    else if m.image then (imageWrite s p.1.1 0 (p.2.take m.size)).1
    else (putValue s true p.1.1 p.1.2 p.2).1
  | none => s

/-- Whether a copy is a bus channel's CFG, which enables the channel and so comes after its timing (R222). -/
def enablesBus (p : (Nat × Nat) × List Byte) : Bool := decide (0x5000 ≤ p.1.1 ∧ p.1.1 < 0x5010) && p.1.2 = 1

/-- The settings load of a start (R390). -/
def loadSettings (s : State) : State :=
  let s := loadCopies s
  let copies := s.odw.persist
  takeUartRate ((copies.filter enablesBus).foldl applyCopy ((copies.filter (fun p => !enablesBus p)).foldl applyCopy s))

end Sys2Proof.Machine
end

