-- ==== Sys2Proof/Machine/Startup.lean ====
section
/-! DEFINITION. The boot path (R398 to R402, R413, R414, R416): the ROM, the image's start, Recovery (R418, R419), the end
of a management restart (R415), and the entry into Dormant (R404). -/

namespace Sys2Proof.Machine

/-! ### The ROM (R398) -/

/-- Whether the ROM may write NVM, by the pins alone (R353). -/
def romMayWrite (s : State) : Bool := s.pins.pfailN && !s.pins.vauxLow && !running s .nvmLift

/-- Step 3: the rollback counter follows a Confirmed bank (R413). -/
def romConfirmed (s : State) : State :=
  if (bootRecord s).any BootRec.trial then s else advanceOtp s (mRollback (bankManifest s (activeBank_ s)))

/-- The pending activation that the journal shows: its target bank and DONE64 (R414). -/
def pendingActivation (s : State) : Option (Nat × Nat) :=
  match newestOf 1 (journalRecords s) with
  | some w =>
    let bank := bitsAt (leWord w 2) 0 1
    if headerValid s && leWord w 3 = headerSeq s && !bitAt (leWord w 2) 1 && !(bootRecord s).any (fun r => r.bank = bank) then
      some (bank, bitsAt (leWord w 2) 8 8)
    else none
  | none => none

/-- Step 4: the activation goes on from DONE64; a wrong tag or hash ends it (R414). -/
def romActivation (s : State) : State :=
  match pendingActivation s with
  | none => s
  | some (bank, done) =>
    if !romMayWrite s then s
    else
      let n := piecesOf (mImageLen (nvmRead s stagingAt 256))
      let s := s.withUpd { s.upd with done64 := done }
      if n ≤ done then (finishActivation s bank).1
      else match decryptImage s bank done with
        | some t => (finishActivation ((journalPieces t bank done n).withUpd { t.upd with done64 := n }) bank).1
        | none => abandonActivation s bank 9

/-- Step 5: Trial starts are counted, and a used-up count reverts the bank (R416). -/
def romTrial (s : State) : State :=
  match bootRecord s with
  | some r =>
    if !r.trial || !romMayWrite s then s
    else if r.starts < 3 then writeBoot s r.bank true (r.starts + 1) r.version
    else if bankValid s (1 - r.bank) then
      let t := writeBoot s (1 - r.bank) false 0 (mField (bankManifest s (1 - r.bank)) 20 4)
      t.withUpd { t.upd with result := 11 }
    else s
  | none => s

/-- Step 6: the bank that boots, if any is valid, with the boot record naming it. -/
def romBank (s : State) : State × Option Nat :=
  let b := activeBank_ s
  if bankValid s b then (s, some b)
  else if bankValid s (1 - b) then
    (if romMayWrite s then writeBoot s (1 - b) false 0 (mField (bankManifest s (1 - b)) 20 4) else s, some (1 - b))
  else (s, none)

/-- Steps 3 to 6. -/
def romSteps (s : State) : State × Option Nat := romBank (romTrial (romActivation (romConfirmed s)))

/-! ### The image starts (R402, R409) -/

/-- What the image of a bank says of itself, and the update state that the staging words and the boot record give. -/
def loadImage (s : State) (bank : Nat) : State :=
  let m := bankManifest s bank
  let s := s.withDev { s.dev with
    bank := bank, imageVersion := BitVec.ofNat 32 (mField m 20 4), schema := BitVec.ofNat 8 (mField m 17 1)
    settingsSchema := BitVec.ofNat 16 (mField m 18 2) }
  let trial := (bootRecord s).any (fun r => r.trial && r.bank = bank)
  let st := if trial then 6 else if verifiedValid s then 4 else if headerValid s then 3 else 0
  s.withUpd { s.upd with
    state := st, received := 0, actSlot := none, hashing := false
    trialStarts := match bootRecord s with
      | some r => r.starts
      | none => 0 }

/-- The next sequence numbers of the event log and the nonce log (R307, R364). -/
def loadLogSeqs (s : State) : State :=
  let s := match newestEvent s with
    | some r => s.withFlt { s.flt with nvmSeq := BitVec.ofNat 32 (r.2 + 1) }
    | none => s
  match newestOf 6 (logRecords s 0x740000 0x20000 0x4E524543) with
  | some w => s.withCip { s.cip with nonceSeq := BitVec.ofNat 32 (leWord w 6 + 1) }
  | none => s

/-- Fault and supply flags as the pins show them (R353). -/
def samplePower (s : State) : State :=
  setFlag (setFlag s F.PWR_STAT_PFAIL (!s.pins.pfailN)) F.PWR_STAT_NVM_INHIBIT (!romMayWrite s)

/-- Every unit that runs takes up its work. -/
def unitsUp (s : State) : State := (upTo 17).foldl unitBack s

/-- Step 5 of R402: the bases resume, unit resets are released, logs and identity are read, the ring root is unwrapped,
the settings are loaded. -/
def startImage (s : State) (bank : Nat) : State :=
  let s := restoreBases (s.withDev { s.dev with stage := .image, unitsOut := true })
  let s := samplePower (s.withTime { s.time with lastBoundary := s.mono })
  let s := loadImage (writePendingFatal (loadLogSeqs s)) bank
  let s := s.withDev { s.dev with nodeId := ofLe (nvmRead s nodeIdAt 1) }
  let s := loadRingKey s true
  let s := if s.ident.variant.hasCip then startCip s else s
  loadSettings (unitsUp s)

/-- The units that Recovery does without: it serves the service port and the ring (R418, R419). -/
def recoveryUnused : BitVec 17 := 0xCCF8

/-- Recovery: no image, no node ID, no settings; CIP starts as at any start, its nonces included (R23, R308, R418). -/
def enterRecovery (s : State) : State :=
  let s := restoreBases (s.withDev { s.dev with
    state := .recovery, stage := .image, unitsOut := true, powerDown := recoveryUnused, nodeId := 0, newNodeId := none })
  let s := samplePower (s.withTime { s.time with lastBoundary := s.mono })
  let s := writePendingFatal (loadLogSeqs s)
  let st := if verifiedValid s then 4 else if headerValid s then 3 else 0
  let s := if s.ident.variant.hasCip then startCip s else s
  unitsUp (s.withUpd { s.upd with state := st, received := 0, actSlot := none, hashing := false })

/-- ROM_BOOT_COMPLETE (R398): a failed self-check leads to Dead, no valid bank to Recovery. -/
def execRomBootComplete (ok : Bool) (s : State) : Result :=
  .next (
    if s.dev.state = .starting ∧ s.dev.stage = .rom then
      if !ok then enterDead s
      else match romSteps s with
        | (s, some bank) => startImage s bank
        | (s, none) => enterRecovery s
    else s)

/-! ### Joining the ring (R402) -/

/-- RING_JOIN_ENABLE: 20 ms after the start at the earliest. -/
def execRingJoinEnable (s : State) : Result :=
  .next (
    if s.dev.stage = .image ∧ due s .ringJoin then
      startRing (stopTimer (s.withDev { s.dev with stage := .joined }) .ringJoin)
    else s)

/-- RING_READY: the Crossing runs as a station, and announces itself. -/
def execRingReady (s : State) : Result :=
  .next (
    if s.dev.state = .starting ∧ s.dev.stage = .joined then startRing (s.withDev { s.dev with stage := .ringReady }) else s)

/-- The role that Starting ends with (R323, R324): Single, which claims; or NotReady, which waits for a silent peer. -/
def startRole (s : State) : State :=
  if flag s F.TWN_CFG_PAIR && s.ident.variant.hasTwn then
    let s := setRole s .notReady
    if s.pins.twnPeer || (s.twin.linkUp && s.twin.peerRole = 0) then s
    else startTimer s .solo (ticksMs * getF s F.TWN_CFG_SOLO_WAIT_MS)
  else raiseClaim (setRole s .single)

/-- FULL_SERVICE: Service, with the key registers zeroised (R299); with a unit that the collector has fenced or holds in
reset, Degraded (R23). -/
def execFullService (s : State) : Result :=
  .next (
    if s.dev.state = .starting ∧ s.dev.stage = .ringReady then
      startRole (zeroiseKeyRegs (s.withDev { s.dev with state := if allRestored s then .service else .degraded }))
    else s)

/-! ### The end of a management restart (R415) -/

/-- Whether a persistent copy is of an object that only the dictionary holds. -/
def heldCopy (p : (Nat × Nat) × List Byte) : Bool :=
  (memberOf p.1.1 p.1.2).any (fun m => m.persistent && !m.mirror && !m.image)

/-- The values that only the dictionary holds, from the persistent copies or at their defaults (R377; log entry 168). -/
def reloadHeld (s : State) : State :=
  takeUartRate ((s.odw.persist.filter heldCopy).foldl applyCopy (s.withOdw { s.odw with objs := [] }))

/-- The new image runs: ODW is served, port 98 is back, the persistent copies are those of the settings store, and the
values that only the dictionary holds follow them; a hub that does not act for its station resynchronises. Registers keep
their values. -/
def endManagementRestart (s : State) (bank : Nat) : State :=
  let s := reloadHeld (loadCopies (loadImage (s.withDev { s.dev with mgtRestart := false }) bank))
  let s := unitBack s unitSYS
  if s.twin.role = .standby ∨ s.twin.role = .notReady then requestResync s else s

/-- MANAGEMENT_RESTART_END: ROM steps 3 to 6, then the image. Without a valid bank the hub restarts into Recovery. -/
def execManagementRestartEnd (s : State) : Result :=
  .next (
    if s.dev.mgtRestart then
      match romSteps s with
      | (s, some bank) => endManagementRestart s bank
      | (s, none) => enterRecovery (restartKeepingBanks s)
    else s)

/-! ### Dormant (R404) -/

/-- The wake mask that the AON island takes along (R406). -/
def wakeMask (s : State) : BitVec 8 := BitVec.ofNat 8 (ofLe (heldValue s 0xF011 1 (objU8 1 2 1)))

/-- DORMANT_ENTRY_COMPLETE (R15, R404): after the slots are off and the NVM writes are done. Where requests are inside units
the first such command begins the drain windows, and one after their end enters Dormant (log entry 171). -/
def execDormantEntryComplete (s : State) : Result :=
  .next (
    if !dormantReady s then s
    else if s.txn.reqs ≠ [] ∧ poweringDown s = false then beginPowerDown s
    else if windowsRun s then s
    else enterDormant s (wakeMask s))

end Sys2Proof.Machine
end

