-- ==== Sys2Proof/Machine/Requests.lean ====
section
/-! DEFINITION. Requests executed at their target (R34 to R44, R52, R53, R58, R59, R62, R66): reads, writes,
read-modify-writes, fences, and the transfers of the I2C and MDIO bridge. -/

namespace Sys2Proof.Machine

/-! ### Order (R40, R53, R58) -/

/-- The target that orders a request. -/
def targetOf (r : Request) : Nat := orderTarget (unitOfAddr r.addr) (offOfAddr r.addr)

/-- Whether two requests come from one source station and side. -/
def sameSource (a b : Request) : Bool := a.local_ = b.local_ && a.node = b.node && a.side = b.side

/-- Whether an earlier request keeps a later one waiting: one of the same source to the same target, any of the source
before a fence, any to the same bus of the bridge. -/
def blocks (x r : Request) : Bool :=
  (sameSource x r && (r.op = .fence || targetOf x = targetOf r)) || (decide (0x100 ≤ targetOf r) && targetOf x = targetOf r)

/-- Whether request `k` of the buffer may be executed now. -/
def mayExecute (s : State) (k : Nat) (r : Request) : Bool :=
  txnRuns s && !(s.txn.reqs.take k).any (fun x => blocks x r)

/-! ### What a request may do (R34, R35, R42, R52) -/

/-- The registers of the cipher engine that only local initiators reach (R310). -/
def localOnlyReg (off : Nat) : Bool :=
  decide (off < 8) || (decide (0x10 ≤ off) && decide (off < 0x14)) || (decide (0x400 ≤ off) && decide (off < 0x500))
    || (decide (0x1000 ≤ off) && decide (off < 0x1400))

/-- Whether an access of `n` bytes from the ring touches a local-only register. -/
def localOnly (u off n : Nat) : Bool := u = unitCIP && (upTo n).any (fun k => localOnlyReg (off + k))

/-- The code of the unit that a request finds: no such unit, fenced or in reset unless the request was inside when the
unit began to drain and its window still runs (a reply at its very end is discarded), no dictionary during a management restart (R15, R16, R34, R415). -/
def unitCode (s : State) (r : Request) : Option Nat :=
  let u := unitOfAddr r.addr
  if 0x11 ≤ u then some codeADDR_ERROR
  else if inWindow s r then none
  else match fenceCode s u with
    | some c => some c
    | none => if u = unitODW ∧ s.dev.mgtRestart = true then some codeRESET_DURING else none

/-- Whether a request names the bridge window or the ODW window. -/
def inBridge (s : State) (u off : Nat) : Bool :=
  match placeOf s.ident.variant u off with
  | .window .bridge _ => true
  | _ => false

def inObjects (s : State) (u off : Nat) : Bool :=
  match placeOf s.ident.variant u off with
  | .window .objects _ => true
  | _ => false

/-- The code with which an access of `n` bytes is refused before its target looks at it, if it is. -/
def accessCode (s : State) (r : Request) (n : Nat) : Option Nat :=
  let u := unitOfAddr r.addr
  let off := offOfAddr r.addr
  match unitCode s r with
  | some c => some c
  | none =>
    if absentAt s u off then some codeUNIT_ABSENT
    else if !r.local_ && localOnly u off n then some codeACCESS_DENIED
    else if isRmw r.op && (inBridge s u off || inObjects s u off) then some codeADDR_ERROR
    else if !inBridge s u off && decide (256 < off % 256 + n) then some codeALIGN_ERROR
    else if isRmw r.op && off % n ≠ 0 then some codeALIGN_ERROR
    else none

/-- Whether a write carries a ring key over a path that R394 allows. -/
def securePath (r : Request) : Bool := if r.local_ then r.who = .mgt || r.who = .svc else !r.clr

/-! ### Ends -/

/-- Request `k` leaves the buffer and completes. One that its own effect has removed is gone. -/
def finishRequest (s : State) (k : Nat) (r : Request) (code : Nat) (data : List Byte) : State :=
  if k < s.txn.reqs.length then completeRequest (s.withTxn { s.txn with reqs := s.txn.reqs.eraseIdx k }) r code data else s

/-- Request `k` waits for its transfer or for the requests before it. -/
def markWaiting (s : State) (k : Nat) (r : Request) : State :=
  s.withTxn { s.txn with reqs := s.txn.reqs.set k { r with waiting := true } }

/-! ### The bridge (R37 to R39) -/

/-- A transfer of the bridge starts, or the code with which it does not. EN of a bus is read here: a transfer that runs as EN
becomes 0 ends with its own code (R68; log entry 177). -/
def startTransfer (s : State) (k : Nat) (r : Request) (n : Nat) : State :=
  let isRead := decide (r.op = .rd)
  let data := if isRead then [] else padTo n r.data
  if r.prefetch then finishRequest s k r codeREFUSED_SIDE_EFFECT []
  else match bridgeReg (offOfAddr r.addr) with
  | none => finishRequest s k r codeADDR_ERROR []
  | some (.i2c b dev width reg) =>
    if !flag s (F.I2B_BUS_CFG_EN b) then finishRequest s k r codeFENCED []
    else if !isRead ∧ (b = 12 ∨ b = 13) then finishRequest s k r codeACCESS_DENIED []
    else output (markWaiting s k r) (.i2c b dev (beBytes width reg) data n isRead)
  | some (.clause22 b phy reg) =>
    if n ≠ 2 then finishRequest s k r codeALIGN_ERROR []
    else output (markWaiting s k r) (.mdio b false phy 0 reg (if isRead then none else some (BitVec.ofNat 16 (ofBe data))))
  | some (.clause45 b phy mmd reg) =>
    if n ≠ 2 then finishRequest s k r codeALIGN_ERROR []
    else output (markWaiting s k r) (.mdio b true phy mmd reg (if isRead then none else some (BitVec.ofNat 16 (ofBe data))))

/-- The request whose transfer runs on a bus (16 and 17 are the MDIO buses), with its place. -/
def onBus (s : State) (bus : Nat) : Option (Nat × Request) :=
  let p (r : Request) : Bool := r.waiting && unitOfAddr r.addr = unitI2B && targetOf r = 0x100 + bus
  (s.txn.reqs.find? p).map (fun r => (s.txn.reqs.findIdx p, r))

/-- I2C_TRANSFER_COMPLETE (R39): `data` is what a read delivered. A transfer that ran has lost two
arbitrations before at most, and I2B_ARB_CNT counts each (R68). -/
def execI2cTransferComplete (bus : Nat) (how : I2cEnd) (data : List Byte) (s : State) : Result :=
  .next (
    match if bus < 16 then onBus s bus else none with
    | some (k, r) =>
      let s := if how.how = .arbLost3 then s else addF s F.I2B_ARB_CNT_COUNT (min 2 how.lost)
      match how.how with
      | .done => finishRequest s k r codeOK data
      | .addrNack => finishRequest (incF s F.I2B_NACK_CNT_COUNT) k r codeADDR_ERROR []
      | .dataNack => finishRequest (incF s F.I2B_NACK_CNT_COUNT) k r codeACCESS_DENIED []
      | .arbLost3 => finishRequest (addF s F.I2B_ARB_CNT_COUNT 3) k r codeREFUSED_BUSY []
    | none => s)

/-- The clock-stretch limit of a bus in µs; 0 acts as 1 (R68). -/
def stretchLimit (s : State) (bus : Nat) : Nat := 10 * max 1 (getF s (F.I2B_BUS_CFG_STRETCH_MAX bus))

/-- I2C_STRETCH_TIMEOUT (R39): the clock has been held low beyond the limit. -/
def execI2cStretchTimeout (held : I2cHold) (s : State) : Result :=
  .next (
    match if held.bus < 16 ∧ stretchLimit s held.bus < held.heldUs then onBus s held.bus else none with
    | some (k, r) => finishRequest (output (incF s F.I2B_STRETCH_CNT_COUNT) (.i2cStop held.bus 9)) k r codeTIMEOUT []
    | none => s)

/-- MDIO_TRANSFER_COMPLETE (R39): a read needs a PHY that drives the turnaround; a write has no acknowledge. -/
def execMdioTransferComplete (bus : Nat) (driven : Bool) (data : BitVec 16) (s : State) : Result :=
  .next (
    match if bus < 2 then onBus s (16 + bus) else none with
    | some (k, r) =>
      if r.op = .rd ∧ driven = false then finishRequest s k r codeADDR_ERROR []
      else finishRequest s k r codeOK (beBytes 2 data.toNat)
    | none => s)

/-! ### Reads and writes (R41) -/

/-- A read that its target performs. A read that fails has had no effect (R441). -/
def readTarget (s : State) (r : Request) : State × List Byte × Nat :=
  let u := unitOfAddr r.addr
  let off := offOfAddr r.addr
  let (t, bs, c) :=
    if inObjects s u off then
      let (bs, c) := readObjects s (originClass r.who) (off - 0x01000000) r.count
      (s, bs, c)
    else readAt s u off r.count r.prefetch
  if c = codeOK then (t, bs, c) else (s, [], c)

/-- A write that its target performs. -/
def writeTarget (s : State) (r : Request) : State × Nat :=
  let u := unitOfAddr r.addr
  let off := offOfAddr r.addr
  let bs := padTo r.count r.data
  if inObjects s u off then writeObjects s (originClass r.who) (off - 0x01000000) (securePath r) bs
  else writeAt s r.who u off bs

/-- A read executed. -/
def performRead (s : State) (k : Nat) (r : Request) : State :=
  match accessCode s r r.count with
  | some c => finishRequest s k r c []
  | none =>
    if inBridge s (unitOfAddr r.addr) (offOfAddr r.addr) then startTransfer s k r r.count
    else
      let (t, bs, c) := readTarget s r
      finishRequest t k r c bs

/-- A write executed. -/
def performWrite (s : State) (k : Nat) (r : Request) : State :=
  match accessCode s r r.count with
  | some c => finishRequest s k r c []
  | none =>
    if inBridge s (unitOfAddr r.addr) (offOfAddr r.addr) then startTransfer s k r r.count
    else
      let (t, c) := writeTarget s r
      finishRequest t k r c []

/-! ### Read-modify-write (R44) -/

/-- The new word. -/
def rmwWord (op : TxnOp) (old operand : Nat) : Nat :=
  match op with
  | .rmwSet => old ||| operand
  | .rmwClr => old ^^^ (old &&& operand)
  | _ => operand

/-- One read and one write of the word; where either fails nothing is written (R441). -/
def performRmw (s : State) (k : Nat) (r : Request) : State :=
  let n := if r.wide then 8 else 4
  let u := unitOfAddr r.addr
  let off := offOfAddr r.addr
  match accessCode s r n with
  | some c => finishRequest s k r c []
  | none =>
    match readAt s u off n false with
    | (t, old, 0) =>
      match writeAt t r.who u off (leBytes n (rmwWord r.op (ofLe (padTo n old)) (ofLe (padTo n r.data)))) with
      | (t', 0) => finishRequest t' k r codeOK old
      | (_, c) => finishRequest s k r c []
    | (_, _, c) => finishRequest s k r c []

/-- Request `k`, if it has opcode `op` and its turn has come. -/
def requestAt (s : State) (k : Nat) (op : TxnOp) : Option Request :=
  match s.txn.reqs[k]? with
  | some r => if r.op = op ∧ r.waiting = false ∧ mayExecute s k r = true then some r else none
  | none => none

def execRd (k : Nat) (s : State) : Result :=
  .next (match requestAt s k .rd with
    | some r => performRead s k r
    | none => s)

def execWrPosted (k : Nat) (s : State) : Result :=
  .next (match requestAt s k .wrPosted with
    | some r => performWrite s k r
    | none => s)

def execWrAck (k : Nat) (s : State) : Result :=
  .next (match requestAt s k .wrAck with
    | some r => performWrite s k r
    | none => s)

def execRmwSet (k : Nat) (s : State) : Result :=
  .next (match requestAt s k .rmwSet with
    | some r => performRmw s k r
    | none => s)

def execRmwClr (k : Nat) (s : State) : Result :=
  .next (match requestAt s k .rmwClr with
    | some r => performRmw s k r
    | none => s)

def execRmwSwap (k : Nat) (s : State) : Result :=
  .next (match requestAt s k .rmwSwap with
    | some r => performRmw s k r
    | none => s)

/-! ### Fences (R58, R59) -/

/-- FENCE: it waits for the requests before it; one that names a unit or an offset completes with ADDR_ERROR (R42). -/
def execFence (k : Nat) (s : State) : Result :=
  .next (
    match s.txn.reqs[k]? with
    | some r =>
      if r.op = .fence ∧ r.waiting = false ∧ txnRuns s = true then
        if unitOfAddr r.addr ≠ 0 ∨ offOfAddr r.addr ≠ 0 then finishRequest s k r codeADDR_ERROR [] else markWaiting s k r
      else s
    | none => s)

/-- A fence answered: LOSS_OBSERVED where the source's loss flag is set, which it clears. -/
def releaseFence (s : State) (k : Nat) (r : Request) : State :=
  if r.local_ then finishRequest s k r codeOK []
  else
    let e := seqRxOf s r.node r.side
    finishRequest (setSeqRx s { e with loss := false }) k r (if e.loss then codeLOSS_OBSERVED else codeOK) []

/-- FENCE_RELEASE: every earlier request of the station and side has been executed. -/
def execFenceRelease (k : Nat) (s : State) : Result :=
  .next (
    match s.txn.reqs[k]? with
    | some r => if r.op = .fence ∧ r.waiting = true ∧ mayExecute s k r = true then releaseFence s k r else s
    | none => s)

end Sys2Proof.Machine
end

