-- ==== Sys2Proof/Machine/TwinState.lean ====
section
/-! DEFINITION. State deltas and snapshots as the Standby takes them (R328 to R330, R334): what each record does, when a
delta is complete, when it is applied. -/

namespace Sys2Proof.Machine

/-! ### One record (R328) -/

/-- A window write replayed: banks take it whatever the state of their own flip, as the Active has performed it. -/
def replayMem (s : State) (u off : Nat) (bs : List Byte) : State :=
  match placeOf s.ident.variant u off with
  | .window w at_ => if (bankOf w at_).isSome then memWrite s (keyOf u off) bs else (writeAt s .mgt u off bs).1
  | _ => if filterOffset u off then memWrite s (keyOf u off) bs else s

/-- A register write replayed; TWN_CTL commands the hub it is written on and is not replayed. -/
def replayReg (s : State) (u off : Nat) (w : Word) : State :=
  if u = unitTWN ∧ off = 8 then s
  else if filterOffset u off then memWrite s (keyOf u off) (leBytes 4 w.toNat)
  else (writeReg s .mgt u off w.toNat).1

/-- A bus buffer as the Active reported it: one that is being sent stands Pending at the Standby (R239, R333). -/
def applyBuffer (s : State) (c b st attempts age : Nat) (ram : List Byte) : State :=
  let st := if st = bufActive then bufPending else st
  let s := memWrite s (bufAddr c b) (ram.take 72)
  let s := setF (setBufState s c b st) (F.BUS_CH_TXSTAT_ATTEMPTS c b) attempts
  let s := if st = bufPending then s else setFlag s (F.BUS_CH_TXSTAT_STARVED c b) false
  let ch := busCh s c
  let s := setBitF s (F.BUS_CH_TXREQ_BUFS c) b (st = bufPending)
  if st = bufPending then setBusCh s c { ch with ageStart := put b ((tb2Us s + 2 ^ 32 - age % 2 ^ 32) % 2 ^ 32) ch.ageStart }
  else setF (setBusCh s c { ch with ageStart := erase b ch.ageStart }) (F.BUS_CH_TXAGE_AGE_US c b) age

/-- The error counters and the state of a channel; one that is bus-off recovers as its own registers have it (R238). -/
def applyChannel (s : State) (c tec recv st : Nat) : State :=
  let ch := busCh s c
  let s := setBusCh s c { ch with
    recovering := decide (st = busOff) && (ch.recovering || flag s (F.BUS_CH_CFG_AUTO_RECOVER c)) }
  setF (setF (setF s (F.BUS_CH_STAT_TEC c) tec) (F.BUS_CH_STAT_REC c) recv) (F.BUS_CH_STAT_STATE c) st

/-- A slot channel corrected from the delta (R325). -/
def applySlot (s : State) (i st reason retries waitMs energy : Nat) : State :=
  let s := if slotState s i = st ∧ slotReason s i = reason then s else changeSlot s i st reason
  let s := setF s (F.PWR_SLOT_STAT_RETRIES i) retries
  let s := if st = slotRetryWait then startTimer s (.retry i) (waitMs * ticksMs) else s
  setSlot (setF s (F.PWR_SLOT_E_LO_COUNT i) energy) i { slotOf s i with eHi := energy / 2 ^ 32 }

/-- A dynamic MAC entry: the count of entries follows it. -/
def applyMac (s : State) (i : Nat) (bs : List Byte) : State :=
  let a := dynAddr i
  let valid (t : State) : Nat := bit01 (bitAt (memNat t (a + 6) 2) 15)
  let t := memWrite s a (bs.take 12)
  setF t F.PLZ_LRN_STAT_ENTRIES (getF t F.PLZ_LRN_STAT_ENTRIES + valid t - valid s)

/-- The highest number that messages have. -/
def lastSerial (msgs : List MqMsg) (held : Option MqMsg) : Nat :=
  ((msgs ++ held.toList).map MqMsg.serial).foldl max 0

/-- A record applied. -/
def applyRecord (s : State) : DeltaRec → State
  | .regWrite u off w => replayReg s u off w
  | .memWrite u off bs => replayMem s u off bs
  | .reqSeq n sd b seq => s.withTxn { s.txn with copied := replaceKey (n, sd, b) seq s.txn.copied }
  | .mqPop q => (popQueue s q 256).1
  | .mqRelease q => releaseHeld s q
  | .mqPush q prio bs => if flag s (F.MQ_Q_CFG_EN q) then commitMsg s q prio 0 bs else s
  | .txPush e ws => (pushWords s e ws).getD s
  | .rxPop e => setEngine (fifoShift s e true 1) e { engineOf s e with rxf := (engineOf s e).rxf.drop 1 }
  | .busBuffer c b st attempts age ram => if hasBus s c ∧ b < 32 then applyBuffer s c b st attempts age ram else s
  | .busChannel c tec recv st => if hasBus s c then applyChannel s c tec recv st else s
  | .slot i st reason retries waitMs energy =>
    if i < s.ident.variant.slots then applySlot s i st reason retries waitMs energy else s
  | .signal i bs => memWrite s (signalAddr (i % 16384)) (bs.take 16)
  | .alive i v => setF s (F.JCT_ALIVE_VALUE (i % 4096)) v
  | .macEntry i bs => applyMac s (i % 30720) bs
  | .store => (startStore s).1
  | .banks active => setF s F.SYS_EPOCH_STAT_ACTIVE active
  | .mqState q msgs held => setQueue s q { queueOf s q with msgs := msgs, held := held, serial := lastSerial msgs held }

def applyRecords (s : State) (rs : List DeltaRec) : State := rs.foldl applyRecord s

/-! ### Deltas (R329, R330, R334) -/

/-- The received segments of the delta of a cycle. -/
def segmentsOf (s : State) (cycle : BitVec 16) : List DeltaSeg := s.twin.rxDelta.filter (fun d => d.cycle = cycle)

/-- Whether every segment up to the last is there. -/
def deltaComplete (s : State) (cycle : BitVec 16) : Bool :=
  match (segmentsOf s cycle).find? DeltaSeg.last with
  | some d => (upTo (d.index + 1)).all (fun i => (segmentsOf s cycle).any (fun x => x.index = i))
  | none => false

/-- The records of a complete delta, in the order of its segments. -/
def deltaRecords (s : State) (cycle : BitVec 16) : List DeltaRec :=
  match (segmentsOf s cycle).find? DeltaSeg.last with
  | some d => (upTo (d.index + 1)).flatMap (fun i => match (segmentsOf s cycle).find? (fun x => x.index = i) with
      | some x => x.recs
      | none => [])
  | none => []

/-- A delta applied: its segments go, and SENT names its cycle (R337). -/
def applyDelta (s : State) (cycle : BitVec 16) : State :=
  let recs := deltaRecords s cycle
  let s := s.withTwin { s.twin with rxDelta := s.twin.rxDelta.filter (fun d => d.cycle ≠ cycle) }
  setF (applyRecords s recs) F.TWN_CYCLE_SENT cycle.toNat

/-- The CRC-32 of a whole delta: that of its records' bytes in order (R327). -/
def deltaCrc (schema : Byte) (recs : List DeltaRec) : Word := BitVec.ofNat 32 (crc32 (encodeRecords schema recs))

/-- A delta whose segments are all there: acknowledged, and applied at once if it is FINAL (R329, R334). -/
def acceptDelta (s : State) (seg : DeltaSeg) : State :=
  if deltaComplete s seg.cycle then
    let crc := deltaCrc (ownSchema s) (deltaRecords s seg.cycle)
    let s := setF (sendTwin s (.ack seg.cycle crc)) F.TWN_CYCLE_ACKED seg.cycle.toNat
    if seg.final then
      let s := applyDelta s seg.cycle
      s.withTwin { s.twin with finalIn := some seg.cycle }
    else s
  else s

/-- A delta segment received (R329): one with a wrong CRC is none; OVER makes a Standby NotReady (R330). -/
def receiveSegment (s : State) (seg : DeltaSeg) : State :=
  if !seg.crcOk then s
  else if seg.overBudget then (if s.twin.role = .standby then setRole s .notReady else s)
  else
    let others := s.twin.rxDelta.filter (fun d => !(d.cycle = seg.cycle && d.index = seg.index))
    acceptDelta (s.withTwin { s.twin with rxDelta := others ++ [seg] }) seg

def execDeltaSegmentReceive (seg : DeltaSeg) (s : State) : Result :=
  .next (if twinLive s && s.twin.linkUp && (s.twin.role = .standby || s.twin.role = .notReady) then receiveSegment s seg
    else s)

/-! ### Snapshots (R330) -/

/-- Records in segments of at most 4,096 bytes: `size` bytes stand in `cur`. -/
def splitRecords (cur : List DeltaRec) (size : Nat) : List DeltaRec → List (List DeltaRec)
  | [] => [cur]
  | r :: rs =>
    if 4096 < size + recordBytes r then cur :: splitRecords [r] (recordBytes r) rs
    else splitRecords (cur ++ [r]) (size + recordBytes r) rs

/-- The offsets of a register family. -/
def familyOffsets : Nat → List (Nat × Nat) → List Nat
  | base, [] => [base]
  | base, (stride, count) :: dims => (upTo count).flatMap (fun i => familyOffsets (base + stride * i) dims)

/-- The value that a write would give a register: what its fields hold or will hold once their pending copies apply. -/
def settableWord (s : State) (u off : Nat) (d : RegDef) : Word :=
  let key := keyOf u off
  let now := match assoc key s.pendFb with
    | some (m, w) => mergeBits (withPending s key) w.toNat m.toNat
    | none => withPending s key
  BitVec.ofNat 32 (now &&& fieldMask d (fun f => f.ty = .rw || f.ty = .lk || f.ty = .cnt))

/-- Every register of a unit that a write can set. -/
def snapRegisters (s : State) (u : Nat) : List DeltaRec :=
  ((regsOf u).filter (fun d => fieldMask d (fun f => f.ty = .rw || f.ty = .lk || f.ty = .cnt) != 0)).flatMap (fun d =>
    ((familyOffsets d.base d.dims).filter (fun off => !absentAt s u off)).map (fun off =>
      .regWrite u off (settableWord s u off d)))

/-- A range of a unit's window in records of 2,048 bytes. -/
def snapRange (s : State) (u base size : Nat) : List DeltaRec :=
  (upTo (size / 2048)).map (fun i => .memWrite u (base + 2048 * i) (memRead s (keyOf u (base + 2048 * i)) 2048))

/-- What a message queue holds. -/
def snapQueue (s : State) (q : Nat) : DeltaRec := .mqState q (queueOf s q).msgs (queueOf s q).held

/-- The units whose registers a snapshot carries: all but TWN and the parts of SYS that say what this hub is, and which of
its units are in reset or fenced (log entry 204). -/
def snapUnits : List Nat :=
  [unitPLZ, unitRNG, unitACC, unitJCT, unitMQ, unitBUS, unitARC, unitTIM, unitCIP, unitPWR, unitFLT, unitPIN, unitI2B]

/-- The content of a snapshot (R330): registers, table banks, the Junction's store with signals and curves, poll table,
Arcade programs, bus message RAM and filter lists, MAC entries, message queues, alive counters, slots, channels, buffers and
the requests executed. -/
def snapRecords (s : State) : List DeltaRec :=
  let busses := (upTo s.ident.variant.busChannels)
  snapUnits.flatMap (snapRegisters s)
    ++ (snapRegisters s unitSYS).filter (fun r => match r with
      | .regWrite _ off _ => decide (0x200 ≤ off)
      | _ => false)
    ++ [.banks (getF s F.SYS_EPOCH_STAT_ACTIVE)]
    ++ snapRange s unitPLZ 0x100000 0x19000 ++ snapRange s unitJCT 0x1000000 0x280000 ++ snapRange s unitMQ 0x200000 0x4000
    ++ snapRange s unitARC 0x10000 0x8000
    ++ (upTo s.ident.variant.busPriv).flatMap (fun c => snapRange s unitBUS (0x8000 + 0x4000 * c) 0x4000)
    ++ busses.flatMap (fun c => snapRange s unitBUS (0x100000 + 0x4000 * c) 0x4000)
    ++ (upTo 30720).map (fun i => .macEntry i (memRead s (dynAddr i) 12))
    ++ (upTo 256).map (snapQueue s)
    ++ (upTo 4096).map (fun i => .alive i (getF s (F.JCT_ALIVE_VALUE i)))
    ++ (tells s).map (fun p => wholeTell s p.2)
    ++ s.txn.executed.map (fun e => .reqSeq e.1.1 e.1.2.1 e.1.2.2 e.2)

/-- Segments of a snapshot handed to the link, each at its offset. -/
def sendSegments (s : State) (offset : Nat) : List (List DeltaRec) → State
  | [] => s
  | rs :: rest => sendSegments (sendTwin s (.snapshot offset rs)) (offset + (rs.map recordBytes).sum) rest

/-- The Active starts a resynchronisation: its snapshot is streamed (R330; log entry 204). -/
def startSnapshot (s : State) : State :=
  let s := setFlag (setFlag (incF s F.TWN_RESYNCS_COUNT) F.TWN_STAT_RESYNC_BUSY true) F.TWN_STAT_SW_INHIBIT true
  sendSegments s 0 (splitRecords [] 0 (snapRecords s))

/-- What a keepalive tells (R327): role, schema and the request of a resynchronisation, which only equal schema numbers
allow (R327, R336). A peer that is no longer Active may complete the conditions of a cold takeover (R324). -/
def receiveTwinKa (s : State) (role schema : BitVec 8) (resync : Bool) : State :=
  let was := s.twin.peerResync && s.twin.linkUp
  let could := claimConditions s
  let s := s.withTwin { s.twin with
    linkUp := true, peerRole := role.toNat % 4, peerSchema := schema, peerResync := resync }
  let s := startTimer s .twinKa (8 * ticksUs)
  let s := checkPeerPin (if role.toNat % 4 = 0 then stopTimer s .solo else s)
  if s.twin.role = .active then
    if resync ∧ was = false ∧ schema = ownSchema s then startSnapshot s
    else if role.toNat % 4 = 1 then endResync s
    else s
  else if wantsResync s ∧ schema ≠ ownSchema s then setF s F.TWN_STAT_REFUSE_REASON 4
  else if could then s
  else coldTakeover s
def execTwinKeepaliveReceive (role schema : BitVec 8) (resync : Bool) (s : State) : Result :=
  .next (if twinLive s && buState s 2 = buUp then receiveTwinKa s role schema resync else s)

/-- SNAPSHOT_SEGMENT_RECEIVE: its records are applied as they come; the first starts the resynchronisation at this
hub, which holds the effects of what it has recorded before (log entry 169), the last completes the snapshot. -/
def receiveSnapshot (s : State) (last : Bool) (recs : List DeltaRec) : State :=
  let s := if flag s F.TWN_STAT_RESYNC_BUSY then s else s.withTxn { s.txn with recorded := [] }
  let s := setFlag (setFlag (setFlag s F.TWN_STAT_RESYNC_BUSY true) F.TWN_STAT_SW_INHIBIT true) F.TWN_CTL_RESYNC false
  let s := applyRecords s recs
  if last then s.withTwin { s.twin with snapDone := true } else s

def execSnapshotSegmentReceive (_offset : Nat) (last : Bool) (recs : List DeltaRec) (s : State) : Result :=
  .next (if twinLive s && wantsResync s && s.twin.peerSchema = ownSchema s then receiveSnapshot s last recs else s)

end Sys2Proof.Machine
end

