-- ==== Sys2Proof/Machine/Boundary.lean ====
section
/-! DEFINITION. The node-cycle boundary (R18 to R20, R77, R80, R282, R328 to R330, R332): when one falls, and its six
orders; FB commits (R78); the end of an epoch drain (R80). -/

namespace Sys2Proof.Machine

/-! ### When a boundary falls (R18, R282) -/

/-- Cycle length in 2 ns ticks. -/
def cycleTicks (s : State) : Nat := s.time.cycleLen / 2

/-- The tick of the boundary that is due, if one is. With TB0 locked it is the last TB0 multiple of the cycle length since
TB0 locked, unless it would make the cycle shorter than half its length; before, the local oscillator counts cycles out. -/
def boundaryAt (s : State) : Option Nat :=
  if tb0Locked s then
    let at_ := s.mono - tbNs s 0 % s.time.cycleLen / 2
    if s.time.lockedAt ≤ at_ ∧ cycleTicks s ≤ 2 * (at_ - s.time.lastBoundary) then some at_ else none
  else if cycleTicks s ≤ s.mono - s.time.lastBoundary then
    some (s.mono - (s.mono - s.time.lastBoundary) % max 1 (cycleTicks s))
  else none

/-- A committed new length takes effect where both lengths divide TB0; before lock no TB0 multiple is counted and it
takes effect at once (R282). -/
def takeLength (s : State) : State :=
  let new := cycleNs (getF s F.TIM_CYCLE_CFG_LEN)
  let m := tbNs s 0 / s.time.cycleLen * s.time.cycleLen
  if !tb0Locked s || m % Nat.lcm s.time.cycleLen new = 0 then s.withTime { s.time with cycleLen := new } else s

/-- The cycle that opens, and its number (R189). -/
def openCycle (s : State) : State :=
  let s := takeLength s
  let n := if tb0Locked s then tbNs s 0 / s.time.cycleLen else s.time.cycleNo + 1
  s.withTime { s.time with prevNo := s.time.cycleNo, cycleNo := n % 2 ^ 32 }

/-! ### Order 1: the delta of the preceding cycle at the Standby (R329, R330) -/

/-- Whether this hub already holds what cycle `n` brought: its delta is applied, or the hub served that cycle itself. -/
def cycleHeld (s : State) (n : Nat) : Bool := getF s F.TWN_CYCLE_SENT = n % 65536 || s.twin.served = some n

/-- A Standby without the whole delta: it is discarded and counted. Where the peer still acts, the Standby is NotReady. -/
def loseDelta (s : State) (n : Nat) : State :=
  let s := s.withTwin { s.twin with rxDelta := s.twin.rxDelta.filter (fun d => d.cycle ≠ BitVec.ofNat 16 n) }
  let s := incF s F.TWN_DELTA_LOST_COUNT
  if claimConditions s then s else setRole s .notReady

/-- What a Standby or NotReady hub does with the delta of the cycle before the one that ends. -/
def takeDelta (s : State) : State :=
  let n := s.time.prevNo
  let ready := !cycleHeld s n && deltaComplete s (BitVec.ofNat 16 n)
  if !twinLive s then s
  else if s.twin.role = .standby then
    if cycleHeld s n then s else if ready then applyDelta s (BitVec.ofNat 16 n) else loseDelta s n
  else if s.twin.role = .notReady then
    let s := if ready then applyDelta s (BitVec.ofNat 16 n) else s
    if s.twin.snapDone && cycleHeld s n then setRole (endResync s) .standby else s
  else s

/-! ### Order 1: commits (R77, R147, R149) -/

/-- The working alpha of a class retuned in adaptive mode; code 7 counts as 6 (R149). -/
def retuneAlpha (s : State) (c : Nat) : State :=
  if !flag s (F.PLZ_CLASS_CFG_ADAPT c) then s
  else
    let now := min 6 (getF s (F.PLZ_CLASS_STAT_ALPHA_NOW c))
    let f := sharedFree s
    if s.plaza.poolDrops.getLsbD c && decide (poolSize s ≤ 4 * f) then
      (if now < min 6 (getF s (F.PLZ_CLASS_CFG_ALPHA_MAX c)) then setF s (F.PLZ_CLASS_STAT_ALPHA_NOW c) (now + 1) else s)
    else if 8 * f < poolSize s then
      (if getF s (F.PLZ_CLASS_CFG_ALPHA_MIN c) < now then setF s (F.PLZ_CLASS_STAT_ALPHA_NOW c) (now - 1) else s)
    else s

/-- Every class retuned; the drops of the ended cycle are forgotten. -/
def retuneAll (s : State) : State :=
  let s := (upTo 8).foldl retuneAlpha s
  s.withPlaza { s.plaza with poolDrops := 0 }

/-- One pending value at its active value. -/
def commitWord (s : State) (p : Nat × (Word × Word)) : State :=
  setWord s p.1 (BitVec.ofNat 32 (mergeBits (regWord s p.1).toNat p.2.2.toNat p.2.1.toNat))

/-- The bits of a register that R147 may refuse: GUAR of a queue, C7_RES. -/
def poolBits (key : Nat) : Nat :=
  if (F.PLZ_Q_CFG_GUAR 0).key ≤ key ∧ key < (F.PLZ_Q_CFG_GUAR 1024).key then 0xFF
  else if key = F.PLZ_POOL_CFG_C7_RES.key then 0xFFF
  else 0

/-- What the writes made before the boundary sample amount to; one made at its very tick waits for the next (R20). -/
def dueCb (s : State) : List (Nat × (Word × Word)) :=
  mergeCb (s.pendCb.filter (fun c => decide (c.at_ < s.time.lastBoundary)))

/-- Whether the pending values would leave a shared pool of fewer than 4,096 cells (R147). -/
def poolRefused (s : State) : Bool :=
  let t := (dueCb s).foldl commitWord s
  (dueCb s).any (fun p => p.2.1.toNat &&& poolBits p.1 != 0)
    && decide (s.ident.variant.cells < guarSum t + getF t F.PLZ_POOL_CFG_C7_RES + 4096)

/-- The pending values that the boundary applies. -/
def committed (s : State) : List (Nat × (Word × Word)) :=
  if poolRefused s then
    (dueCb s).map (fun p => (p.1, (BitVec.ofNat 32 (mergeBits p.2.1.toNat 0 (poolBits p.1)), p.2.2)))
  else dueCb s

/-- What follows from a new value of a register: slots' EN, the master choice, the ageing time, ALPHA, the ring key
generation, which lets refused ports try again (R134, R149, R161, R276, R341). -/
def afterCommit (pre s : State) (l : List (Nat × (Word × Word))) : State :=
  let changed (key : Nat) : Bool := regWord pre key != regWord s key
  let s := (slotIds s).foldl (fun t i =>
    if flag pre (F.PWR_SLOT_CFG_EN i) = flag s (F.PWR_SLOT_CFG_EN i) then t else slotEnChanged t i) s
  let s := if changed F.TIM_TB0_CFG_PRIO.key || changed F.TIM_TB1_CFG_SRC.key then selectMaster s else s
  let s := if getF pre F.PLZ_LRN_CFG_AGE_S = getF s F.PLZ_LRN_CFG_AGE_S then s
    else startTimer s .age (max 1 (halfAge s))
  let s := (upTo 8).foldl (fun t c =>
    match assoc (F.PLZ_CLASS_CFG_ALPHA c).key l with
    | some (m, _) => if m.toNat % 8 = 0 then t
        else setF t (F.PLZ_CLASS_STAT_ALPHA_NOW c) (getF t (F.PLZ_CLASS_CFG_ALPHA c))
    | none => t) s
  if changed F.CIP_RING_GEN_GEN.key then
    [0, 1].foldl (fun t p => if (portSt t p).ctxRefused then
      enterCap (setPortSt t p { portSt t p with ctxRefused := false }) p else t) s
  else s

/-- Token buckets brought up to now before their rate or size changes (R123, R146). -/
def settleBuckets (s : State) (l : List (Nat × (Word × Word))) : State :=
  let touched (f : Fld) : Bool := (assoc f.key l).isSome
  let s := (upTo 178).foldl (fun t i => if touched (F.PLZ_SQ_CFG_RATE (14 + i)) then settleSub t (846 + i) else t) s
  if touched F.RNG_ADD_CFG_RATE then settleAdded (settleAdded s 0) 1 else s

/-- CB_COMMIT: every value and window byte written before the boundary sample takes effect (R20, R77, R162). -/
def commitAll (s : State) : State :=
  let pre := s
  let l := committed s
  let s := if poolRefused s then setFlag s F.PLZ_POOL_STAT_G_REFUSED true else s
  let before (at_ : Nat) : Bool := decide (at_ < pre.time.lastBoundary)
  let s := (l.foldl commitWord (settleBuckets s l)).withPendCb (s.pendCb.filter (fun c => !before c.at_))
  let s := (s.pendMem.filter (fun c => before c.1)).foldl (fun t c => memWrite t c.2.1 [c.2.2]) s
  afterCommit pre (s.withPendMem (s.pendMem.filter (fun c => !before c.1))) l

/-- Whether HOLD holds commits and flips back (R77). -/
def holding (s : State) : Bool := flag s F.SYS_COMMIT_CTL_HOLD

/-- The node ID stored since the last boundary comes into force (R117, R393). -/
def takeNodeId (s : State) : State :=
  match s.dev.newNodeId with
  | some n =>
    let was := s.dev.nodeId
    let s := s.withDev { s.dev with nodeId := n, newNodeId := none }
    if was = n then s else selectMaster (clearDupId s)
  | none => s

def orderOne (s : State) : State :=
  let s := takeNodeId (retuneAll (checkPeerPin (takeDelta s)))
  if holding s then incSat s F.SYS_COMMIT_STAT_HELD_CYCLES else commitAll s

/-! ### Order 2: epoch flips (R80) -/

def orderTwo (s : State) : State :=
  let f := getF s F.SYS_EPOCH_CMD_FLIP
  if holding s || f = 0 then s
  else
    let s := [0, 1].foldl (fun t c =>
      if bitAt f (4 + c) then setBusCh t c { busCh t c with flipAt := s.time.lastBoundary } else t) s
    let s := setF s F.SYS_EPOCH_STAT_ACTIVE (getF s F.SYS_EPOCH_STAT_ACTIVE ^^^ f)
    let s := setF s F.SYS_EPOCH_STAT_DRAINING (getF s F.SYS_EPOCH_STAT_DRAINING ||| f)
    setF (setF s F.SYS_EPOCH_CMD_FLIP 0) F.SYS_EPOCH_STAT_PENDING 0

/-! ### Order 3: the Active closes its delta (R328 to R330, R334) -/

def deltaBytes (l : List DeltaRec) : Nat := (l.map recordBytes).sum

/-- The budget of a cycle: 1,536 bytes per microsecond. -/
def deltaBudget (s : State) : Nat := 1536 * s.time.cycleLen / 1000

/-- Whether a record's buffer has changed in the ended cycle, though it may be what it was before. -/
def bufferChanged (s : State) : DeltaRec → Bool
  | .busBuffer c b _ _ _ _ => (busCh s c).changed.contains b
  | _ => false

/-- What has changed since the last delta: slots, channels, and buffers with all that is carried of them. -/
def changedTells (s : State) : List DeltaRec :=
  ((tells s).filter (fun p => bufferChanged s p.2 || lookupKey p.1 s.twin.told != some p.2)).map
    (fun p => wholeTell s p.2)

/-- The last executed request of each source with new ones (R32). -/
def newRequests (s : State) : List DeltaRec :=
  (s.twin.executedNew.dedup).filterMap (fun k => (lookupKey k s.txn.executed).map (fun q => .reqSeq k.1 k.2.1 k.2.2 q))

/-- The mandatory content of the ending cycle. -/
def mandatoryRecords (s : State) : List DeltaRec := s.twin.delta ++ newRequests s ++ changedTells s

/-- Scrub content for the bytes that are left: each kind whole, or not at all. -/
def scrubRecords (s : State) (room : Nat) : List DeltaRec × State :=
  let sig := s.twin.scrubSig
  let mac := s.twin.scrubMac
  let a := if 1280 ≤ room then
    (upTo 64).map (fun k => DeltaRec.signal ((sig + k) % 16384) (memRead s (signalAddr ((sig + k) % 16384)) 16))
      ++ (upTo 64).map (fun k => DeltaRec.alive ((sig + k) % 4096) (getF s (F.JCT_ALIVE_VALUE ((sig + k) % 4096))))
    else []
  let b := if 1280 + 384 ≤ room then
    (upTo 32).map (fun k => DeltaRec.macEntry ((mac + k) % 30720) (memRead s (dynAddr ((mac + k) % 30720)) 12)) else []
  (a ++ b, s.withTwin { s.twin with
    scrubSig := if a = [] then sig else (sig + 64) % 16384, scrubMac := if b = [] then mac else (mac + 32) % 30720 })

/-- The segments of a delta handed to the link. -/
def sendDelta (s : State) (cycle : BitVec 16) (final tooBig : Bool) (recs : List DeltaRec) : State :=
  let parts := splitRecords [] 0 recs
  parts.zipIdx.foldl (fun t p =>
    sendTwin t (.delta ⟨final, tooBig, decide (p.2 + 1 = parts.length), cycle, p.2, true, p.1⟩))
    (s.withTwin { s.twin with sentCrc := deltaCrc (ownSchema s) recs })

/-- Whether the peer takes deltas: the link is up to a Standby, or a resynchronisation runs. -/
def peerTakesDeltas (s : State) : Bool := s.twin.linkUp && (peerStandby s || flag s F.TWN_STAT_RESYNC_BUSY)

/-- A handover that its peer can no longer take is given up; a release by the planned path is then made at once (R331). -/
def dropHandover (s : State) : State :=
  if !s.twin.handoverReq || peerStandby s then s
  else if s.twin.releasing then leaveActive s .notReady
  else setFlag (s.withTwin { s.twin with handoverReq := false }) F.TWN_CTL_HANDOVER false

/-- The delta of the ending cycle closed, and sent where the peer takes it. -/
def sendCycle (s : State) : State :=
  if s.twin.role ≠ .active then s
  else
    let recs := mandatoryRecords s
    let bytes := deltaBytes recs
    let tooBig := decide (deltaBudget s < bytes)
    let send := peerTakesDeltas s
    let final := s.twin.handoverReq && !tooBig && send
    let cycle := BitVec.ofNat 16 s.time.cycleNo
    let s := setF (setF s F.TWN_CYCLE_SENT cycle.toNat) F.TWN_DELTA_BYTES_BYTES bytes
    let s := setF s F.TWN_DELTA_PEAK_BYTES (max bytes (getF s F.TWN_DELTA_PEAK_BYTES))
    let s := forgetChanged s
    let s := s.withTwin { s.twin with
      delta := [], executedNew := [], told := tells s, unacked := send && !tooBig, finalOut := final, finalAcked := false }
    let s := if tooBig then incF s F.TWN_OVER_BUDGET_COUNT else s
    if !send then s
    else if tooBig then sendDelta s cycle false true []
    else
      let (scrub, s) := scrubRecords s (deltaBudget s - bytes)
      sendDelta s cycle final false (recs ++ scrub)

/-- DELTA_CLOSE. -/
def closeDelta (s : State) : State :=
  if !twinLive s || s.twin.role ≠ .active then s
  else
    sendCycle (dropHandover (if s.twin.unacked then incF s F.TWN_DELTA_LOST_COUNT else s))

/-! ### Orders 4 to 6 and the whole boundary (R19) -/

/-- Order 4: a switch-over; a FINAL delta that it has not used says nothing of later ones. -/
def orderFour (s : State) : State :=
  let s := switchOver s
  s.withTwin { s.twin with finalIn := none }

/-- Order 6: the Junction cyclic tick, the poller, the node-cycle trigger. -/
def orderSix (s : State) : State :=
  let n := s.time.cycleNo
  armCycleTriggers (pollIssue (cyclicTick s n) n)

/-- The heartbeat: its bit clears, and the Active counts a boundary (R331). -/
def countHeartbeat (s : State) : State :=
  let s := setFlag s F.TWN_CTL_HB false
  if s.twin.role = .active then s.withTwin { s.twin with hbCount := s.twin.hbCount + 1 } else s

/-- A boundary at tick `at_`. -/
def runBoundary (s : State) (at_ : Nat) : State :=
  let s := s.withTime { s.time with lastBoundary := at_ }
  let s := closeDelta (orderTwo (orderOne s))
  let s := continueDormant (countHeartbeat (shedEvaluate (orderFour s)))
  orderSix (unwrapPorts (openCycle s))

/-- NODE_CYCLE_BOUNDARY. A fence of TIM does not stop the node cycle (R370). -/
def execNodeCycleBoundary (s : State) : Result :=
  .next (
    if s.dev.unitsOut && basesRun s then
      match boundaryAt s with
      | some t => runBoundary s t
      | none => s
    else s)

/-! ### FB commits (R78) -/

/-- A pending FB value of a register, as far as `mask` goes, at its active value. -/
def commitFb (s : State) (key mask : Nat) : State :=
  match assoc key s.pendFb with
  | some (m, w) =>
    let take := m.toNat &&& mask
    let left := mergeBits m.toNat 0 mask
    let s := setWord s key (BitVec.ofNat 32 (mergeBits (regWord s key).toNat w.toNat take))
    s.withPendFb (if left = 0 then erase key s.pendFb else put key (BitVec.ofNat 32 left, w) s.pendFb)
  | none => s

/-- MAC_CFG of an access port: EN decides whether its link counts, and another pause mode begins anew (R155, R166, R172). -/
def commitMac (s : State) (p : Nat) : State :=
  let was := linkUp s p
  let pfc := flag s (F.ACC_MAC_CFG_PFC_EN p)
  let tx := flag s (F.ACC_MAC_CFG_TX_PAUSE_EN p)
  let s := pauseMode (commitFb s (F.ACC_MAC_CFG_EN p).key 0xFFFFFFFF) p pfc tx
  if was = linkUp s p then s else if was then portLinkLost s p else portLinkFound s p

/-- The PTP bits of an access port. -/
def commitPtp (s : State) (p : Nat) : State :=
  commitFb (commitFb s (F.TIM_PTP_EN_PORTS (p / 32)).key (2 ^ (p % 32))) (F.TIM_PTP_TS2_PORTS (p / 32)).key (2 ^ (p % 32))

/-- FB_COMMIT: at a frame boundary of channel or port `inst` of a unit. -/
def execFbCommit (unit inst : Nat) (s : State) : Result :=
  .next (
    if unit = unitBUS ∧ hasBus s inst = true then commitBus s inst
    else if unit = unitACC ∧ inst < s.ident.variant.accPorts then commitMac s inst
    else if unit = unitTIM ∧ inst < s.ident.variant.accPorts then commitPtp s inst
    else s)

/-! ### The end of a drain (R80, R167, R197, R230) -/

/-- Whether nothing classified under the former bank of a table is left. A frame in reception on a bus channel has ended
when the command comes. -/
def bankDrained (s : State) (table : Nat) : Bool :=
  let old := !activeBank s table
  if table < 2 then !resident s table old else if table < 4 then jctBankDrained s table old else true

/-- EPOCH_DRAIN_COMPLETE. -/
def execEpochDrainComplete (table : Nat) (s : State) : Result :=
  .next (
    if table < 6 ∧ bitF s F.SYS_EPOCH_STAT_DRAINING table = true ∧ bankDrained s table = true then
      setBitF s F.SYS_EPOCH_STAT_DRAINING table false
    else s)

end Sys2Proof.Machine
end

