-- ==== Sys2Proof/Machine/Sundem.lean ====
section
/-! DEFINITION. Sundem (R378 to R388, R393, R394, R418 to R420): where requests arrive and with which class, sessions, kept
responses, and the meaning of each opcode. -/

namespace Sys2Proof.Machine

/-! ### Responses on their transports (R381, R388) -/

/-- A response to a ring station, in a MGMT frame for its side; from Recovery on the port of the request (R419). -/
def answerRing (s : State) (node : Nat) (side : Bool) (uid : BitVec 64) (port : Nat) (r : SunRsp) : State :=
  let f := { blankFrame tyMGMT 5 (BitVec.ofNat 8 node) 0x10 with
    typeSpecific := BitVec.ofNat 48 (2 ^ 44 + 2 ^ 43 + bit01 side * 2 ^ 42)
    tsOrTxn := if node = 0 then uid else 0
    payload := responseBytes r }
  if s.dev.state = .recovery then addOnPort s port { f with hopLimit := 255 } else addFrame s .added f 98 0

/-- The length of the FD frame that carries `n` bytes. -/
def fdRoom (n : Nat) : Nat := ([8, 12, 16, 20, 24, 32, 48, 64].find? (fun k => decide (n ≤ k))).getD 64

/-- A response in transmit buffer 30 of a bus channel: an FD frame with the identifier 0x1026.02. Whether its data phase
is fast is not stated (log entry 3). -/
def answerBus (s : State) (c : Nat) (r : SunRsp) : State :=
  let bytes := responseBytes r
  let id := ofLe (objBytes s 0x1026 2) % 2 ^ 30
  let n := fdRoom bytes.length
  let (v, s) := draw s
  let w1 := n + 128 + 256 * bit01 (v.getLsbD 0)
  requestBuf (memWrite s (bufAddr c 30) (leBytes 4 id ++ leBytes 4 w1 ++ padTo 64 bytes)) c 30

/-- A response handed to its transport. -/
def deliver (s : State) (r : SunRsp) : State :=
  match r.src with
  | .ring node side uid _ _ _ _ port => answerRing s node side uid port r
  | .bus c => answerBus s c r
  | .uart => output s (.sundem r (serviceFrame (responseBytes r)))
  | .spi => output s (.sundem r (serviceFrame (responseBytes r)))
  | .udp _ ip port =>
    output s (.sundem r (udpDatagram (BitVec.ofNat 32 (ofLe (objBytes s 0x1041 0))) ip 51734 port.toNat (responseBytes r)))

/-- Whether a request came to node 255. -/
def toAll : SunSrc → Bool
  | .ring _ _ _ _ b _ _ _ => b
  | _ => false

/-- The one response to a request: at once, or for node 255 after (UID mod 1,024) µs (R382). -/
def answer (s : State) (r : SunRsp) : State :=
  if toAll r.src then
    s.withOdw { s.odw with delayed := s.odw.delayed ++ [(r, s.mono + s.ident.uid.toNat % 1024 * ticksUs)] }
  else keepResponse (deliver s r) r

/-- A response to request `r`. -/
def responseTo (r : SunReq) (opcode code : Nat) (more : Bool) (data : List Byte) : SunRsp :=
  ⟨r.src, opcode, r.tid, r.index, r.sub, code, more, r.offset, data⟩

/-! ### Who is served (R378, R379, R387, R418) -/

/-- What becomes of a request before it is looked at. -/
inductive Gate where
  | drop
  | notServed
  | busDropped
  | code (n : Nat)
  | serve (cls : Nat)
deriving DecidableEq, Repr

/-- A hub fresh from the factory, which serves the ring at Operator (R379). -/
def factoryFresh (s : State) : Bool := (s.dev.newNodeId.getD s.dev.nodeId) = 0 && (ringKeyRecord s).isNone

/-- The class of a ring MGMT frame. In Recovery what is served is served to the ring too, at Operator. -/
def ringClass (s : State) (clr : Bool) : Nat :=
  if !clr || openRing s || factoryFresh s || s.dev.state = .recovery then 2 else 0

/-- The class of an arrival, if it is served at all. -/
def classOf (s : State) : SunSrc → Option Nat
  | .uart => some 3
  | .spi => some 3
  | .ring _ _ _ clr _ _ _ _ => some (ringClass s clr)
  | .udp p _ _ => if bitAt (ofLe (objBytes s 0x1025 1)) p then some 1 else none
  | .bus c => if hasBus s c && bitAt (ofLe (objBytes s 0x1025 2)) c then some 1 else none

/-- Whether a ring request is this hub's of the pair (R387). A hub in Recovery has no role and answers what names it. -/
def ourSide (s : State) : SunSrc → Bool
  | .ring _ _ _ _ _ x ts _ => s.dev.state = .recovery || (if x then ts = s.dev.side else acting s)
  | _ => true

/-- Whether the frame that buffer 30 of a channel holds has still to leave (R388). -/
def busBusy (s : State) : SunSrc → Bool
  | .bus c => bufLive s c 30
  | _ => false

/-- Whether a request may go to node 255 (R382). -/
def broadcastable (r : SunReq) (opcode : Nat) : Bool :=
  opcode = 6 || (opcode = 1 && (memberOf r.index r.sub).any (fun m => m.rd = 0))

/-- What Recovery serves (R418). -/
def recoveryServes (r : SunReq) (opcode : Nat) : Bool :=
  opcode = 6
    || (opcode = 1 && (r.index = 0x1000 || r.index = 0x1010 || (decide (0xB000 ≤ r.index) && decide (r.index ≤ 0xB004))))
    || (opcode = 2 && r.sub = 0 && (r.index = 0xB001 || r.index = 0xB002))

/-- The gate. -/
def gate (s : State) (r : SunReq) (opcode : Nat) : Gate :=
  if !s.dev.unitsOut || s.dev.mgtRestart || s.dev.state = .dormant || !ourSide s r.src then .drop
  else match classOf s r.src with
    | none => .notServed
    | some cls =>
      if toAll r.src && !broadcastable r opcode then .notServed
      else if busBusy s r.src then .busDropped
      else match fenceCode s unitODW with
        | some c => .code c
        | none =>
          if s.dev.state = .recovery && !recoveryServes r opcode then .code codeADDR_ERROR else .serve cls

/-! ### Repeats (R385) -/

/-- A request that is the same as an answered one. -/
def sameRequest (r : SunReq) (opcode : Nat) (k : SunRsp) : Bool :=
  k.opcode = opcode && k.index = r.index && k.sub = r.sub && k.offset = r.offset

/-- Whether a request goes on with what an earlier one of its TID began: another segment of the same object, or ABORT. -/
def continues (r : SunReq) (opcode : Nat) (k : SunRsp) : Bool :=
  r.abort || ((opcode = 1 || opcode = 2) && k.opcode = opcode && k.index = r.index && k.sub = r.sub && k.offset ≠ r.offset)

/-- The kept responses to a requester and TID that have not expired, newest first. -/
def keptFor (s : State) (r : SunReq) : List SunRsp :=
  ((s.odw.kept.filter (fun k => decide (s.mono < k.2) && requester k.1.src = requester r.src && k.1.tid = r.tid)).map
    Prod.fst).reverse

/-- The kept response that answers a repeated request. -/
def repeatOf (s : State) (r : SunReq) (opcode : Nat) : Option SunRsp :=
  if r.abort then none
  else match (keptFor s r).find? (sameRequest r opcode) with
    | some k => some k
    | none => if (keptFor s r).any (continues r opcode) then none else (keptFor s r).head?

/-- A request taken through the gate and the repeats to its meaning. -/
def serve (s : State) (r : SunReq) (opcode : Nat) (act : State → Nat → State × Option SunRsp) : State :=
  match gate s r opcode with
  | .drop => s
  | .notServed => s.withOdw { s.odw with notServed := s.odw.notServed + 1 }
  | .busDropped => s.withOdw { s.odw with busDropped := s.odw.busDropped + 1 }
  | .code c => answer s (responseTo r opcode c false [])
  | .serve cls =>
    match repeatOf s r opcode with
    | some k => deliver s { k with src := r.src }
    | none =>
      match act s cls with
      | (s, some rsp) => takeUartRate (answer s rsp)
      | (s, none) => s

/-! ### READ (R384) -/

/-- The bytes one response may carry (R381, R388). -/
def segmentMax : SunSrc → Nat
  | .bus _ => 48
  | _ => 1024

/-- The snapshot of a READ session. -/
def snapKey (r : SunReq) : SunSrc × BitVec 16 × Nat × Nat := (requester r.src, r.tid, r.index, r.sub)

/-- The value bytes that a READ delivers. Values of up to 4 KiB that need another segment are kept as they are now. -/
def readValue (s : State) (r : SunReq) (m : ObjMem) : State × SunRsp :=
  let max := segmentMax r.src
  let want := if r.len = 0 then max else min r.len max
  match if r.offset = 0 then none else lookupKey (snapKey r) s.odw.snaps with
  | some v =>
    let n := min want (v.length - r.offset)
    let more := decide (r.offset + n < v.length)
    (if more then s else s.withOdw { s.odw with snaps := removeKey (snapKey r) s.odw.snaps },
      responseTo r 1 codeOK more (sliceAt v r.offset n))
  | none =>
    let size := valueSize s r.index r.sub m
    let n := min want (size - r.offset)
    let more := decide (r.offset + n < size)
    let data := objSlice s r.index r.sub m r.offset n
    let s := if r.offset = 0 ∧ size ≤ 4096 then
        s.withOdw { s.odw with
          snaps := if more then replaceKey (snapKey r) (objSlice s r.index r.sub m 0 size) s.odw.snaps
            else removeKey (snapKey r) s.odw.snaps }
      else s
    (s, responseTo r 1 codeOK more data)

/-- The session and the snapshot of a TID end (R385). -/
def endSession (s : State) (r : SunReq) : State :=
  s.withOdw { s.odw with
    sessions := s.odw.sessions.filter (fun x => !(x.src = requester r.src && x.tid = r.tid))
    snaps := s.odw.snaps.filter (fun p => !(p.1.1 = requester r.src && p.1.2.1 = r.tid)) }

/-- READ. An absent object reads zeros (R376). -/
def actRead (r : SunReq) (s : State) (cls : Nat) : State × Option SunRsp :=
  if r.abort then (endSession s r, some (responseTo r 1 codeOK false []))
  else match objRefusal s cls r.index r.sub false, memberOf r.index r.sub with
    | none, some m =>
      let (s, rsp) := readValue s r m
      (s, some rsp)
    | some c, some m =>
      let n := min (if r.len = 0 then segmentMax r.src else min r.len (segmentMax r.src)) m.size
      (s, some (responseTo r 1 c false (if c = codeUNIT_ABSENT then List.replicate n 0 else [])))
    | c, none => (s, some (responseTo r 1 (c.getD codeADDR_ERROR) false []))

/-! ### WRITE (R383, R394, R411) -/

/-- Whether a request came over the service port or an encrypted segment (R394). -/
def secureSource : SunSrc → Bool
  | .uart => true
  | .spi => true
  | .ring _ _ _ clr _ _ _ _ => !clr
  | _ => false

/-- A value, or part of one, written to its object. -/
def commitWrite (s : State) (r : SunReq) (cls ofs : Nat) (bs : List Byte) : State × Nat :=
  match objRefusal s cls r.index r.sub true, memberOf r.index r.sub with
  | none, some m => writeMember s (secureSource r.src) r.index r.sub ofs bs m
  | some c, _ => (s, c)
  | none, none => (s, codeADDR_ERROR)

/-- A segment of an open session: the next bytes, the last ones, or a breach of order. -/
def writeSegment (s : State) (r : SunReq) (cls : Nat) (x : Session) : State × Nat :=
  if r.index ≠ x.index ∨ r.sub ≠ x.sub ∨ r.offset ≠ x.bytes.length then (endSession s r, codeALIGN_ERROR)
  else
    let bytes := x.bytes ++ r.data
    if r.more then
      (s.withOdw { s.odw with
        sessions := s.odw.sessions.map (fun y => if y = x then { x with bytes := bytes, at_ := s.mono } else y) }, codeOK)
    else commitWrite (endSession s r) r cls 0 bytes

/-- A first segment opens a session; a write without MORE, or from an offset, has its effect at once. -/
def firstSegment (s : State) (r : SunReq) (cls : Nat) : State × Nat :=
  if r.more ∧ r.offset = 0 ∧ r.index ≠ 0xB002 then
    match objRefusal s cls r.index r.sub true with
    | some c => (s, c)
    | none =>
      if 8 ≤ s.odw.sessions.length then (s, codeREFUSED_BUSY)
      else (s.withOdw { s.odw with
        sessions := s.odw.sessions ++ [⟨requester r.src, r.tid, r.index, r.sub, r.data, s.mono⟩] }, codeOK)
  else commitWrite s r cls r.offset r.data

/-- WRITE. -/
def actWrite (r : SunReq) (s : State) (cls : Nat) : State × Option SunRsp :=
  let (s, c) :=
    if r.abort then (endSession s r, codeOK)
    else match s.odw.sessions.find? (fun x => x.src = requester r.src && x.tid = r.tid) with
      | some x => writeSegment s r cls x
      | none => firstSegment s r cls
  (s, some (responseTo r 2 c false []))

/-! ### The other opcodes (R382) -/

/-- DESCRIBE. -/
def actDescribe (r : SunReq) (s : State) (cls : Nat) : State × Option SunRsp :=
  match memberOf r.index r.sub with
  | none => (s, some (responseTo r 3 codeADDR_ERROR false []))
  | some m =>
    if cls < m.rd ∧ cls < m.wr then (s, some (responseTo r 3 codeACCESS_DENIED false []))
    else (s, some (responseTo r 3 codeOK false
      (leBytes 1 m.type ++ leBytes 1 m.rd ++ leBytes 1 m.wr ++ leBytes 1 m.flags ++ leBytes 4 m.size
        ++ leBytes 1 (highestSub r.index) ++ [0, 0, 0])))

def actStore (r : SunReq) (s : State) (_cls : Nat) : State × Option SunRsp :=
  let (s, c) := startStore s
  (s, some (responseTo r 4 c false []))

def actRestore (r : SunReq) (s : State) (_cls : Nat) : State × Option SunRsp :=
  let (s, c) := restoreStore s
  (s, some (responseTo r 5 c false []))

/-- The 16 bytes of a DISCOVER response. -/
def discoverData (s : State) : List Byte :=
  leBytes 8 s.ident.uid.toNat ++ leBytes 2 0x7216 ++ leBytes 1 s.ident.variant.code ++ leBytes 1 s.ident.stepping.toNat
    ++ leBytes 1 s.dev.nodeId ++ leBytes 1 (bit01 s.dev.side) ++ leBytes 1 s.dev.state.code ++ leBytes 1 s.twin.role.code

def actDiscover (r : SunReq) (s : State) (_cls : Nat) : State × Option SunRsp :=
  (s, some (responseTo r 6 codeOK false (discoverData s)))

/-- The transaction of an ADDR request. -/
def addrSpec (r : SunReq) (isRead : Bool) : TxnSpec where
  op := if isRead then .rd else .wrAck
  addr := r.addr
  x := false
  ts := false
  wide := false
  prefetch := false
  count := if isRead then r.len else r.data.length
  data := if isRead then [] else r.data

/-- ADDR_READ and ADDR_WRITE: the service-port bridge issues the transaction, whose completion is the response. -/
def actAddr (isRead : Bool) (r : SunReq) (s : State) (cls : Nat) : State × Option SunRsp :=
  let op := if isRead then 0x10 else 0x11
  let n := (addrSpec r isRead).count
  if cls < 3 then (s, some (responseTo r op codeACCESS_DENIED false []))
  else if n = 0 ∨ 256 < n then (s, some (responseTo r op codeALIGN_ERROR false []))
  else (issueOrWait (s.withOdw { s.odw with addr := s.odw.addr ++ [r] }) .svc (addrSpec r isRead), none)

/-- An opcode that does not exist. -/
def actUnknown (opcode : Nat) (r : SunReq) (s : State) (_cls : Nat) : State × Option SunRsp :=
  (s, some (responseTo r opcode codeADDR_ERROR false []))

/-! ### Commands -/

def execRead (r : SunReq) (s : State) : Result := .next (serve s r 1 (actRead r))
def execWrite (r : SunReq) (s : State) : Result := .next (serve s r 2 (actWrite r))
def execDescribe (r : SunReq) (s : State) : Result := .next (serve s r 3 (actDescribe r))
def execStore (r : SunReq) (s : State) : Result := .next (serve s r 4 (actStore r))
def execRestore (r : SunReq) (s : State) : Result := .next (serve s r 5 (actRestore r))
def execDiscover (r : SunReq) (s : State) : Result := .next (serve s r 6 (actDiscover r))
def execAddrRead (r : SunReq) (s : State) : Result := .next (serve s r 0x10 (actAddr true r))
def execAddrWrite (r : SunReq) (s : State) : Result := .next (serve s r 0x11 (actAddr false r))

/-- A WRITE of one object in one segment. -/
def writeOf (r : SunReq) (index : Nat) : SunReq := { r with index := index, sub := 0 }

/-- NODE_ID_WRITE (R393). -/
def execNodeIdWrite (r : SunReq) (s : State) : Result :=
  .next (serve s (writeOf r 0x1005) 2 (actWrite (writeOf r 0x1005)))

/-- RING_KEY_LOAD (R394). -/
def execRingKeyLoad (r : SunReq) (s : State) : Result :=
  .next (serve s (writeOf r 0x2020) 2 (actWrite (writeOf r 0x2020)))

/-- SERVICE_UART_RATE (R388). -/
def execServiceUartRate (r : SunReq) (s : State) : Result :=
  .next (serve s (writeOf r 0x1030) 2 (actWrite (writeOf r 0x1030)))

/-- RECOVERY_RELAY (R420). -/
def execRecoveryRelay (r : SunReq) (s : State) : Result :=
  .next (serve s (writeOf r 0xB0F0) 2 (actWrite (writeOf r 0xB0F0)))

/-- RECOVERY_RELAY_TIMEOUT (R420). -/
def execRecoveryRelayTimeout (s : State) : Result := .next (if due s .relay then closeRelay s else s)

/-- DISCOVER_RESPONSE_DELAY: the delay of waiting response `i` ends. -/
def execDiscoverResponseDelay (i : Nat) (s : State) : Result :=
  .next (match s.odw.delayed[i]? with
    | some (r, t) =>
      if t ≤ s.mono ∧ odwRuns s = true then
        keepResponse (deliver (s.withOdw { s.odw with delayed := s.odw.delayed.eraseIdx i }) r) r
      else s
    | none => s)

/-- SESSION_TIMEOUT (R385): session `i` has gone 1 s without a segment. -/
def execSessionTimeout (i : Nat) (s : State) : Result :=
  .next (match s.odw.sessions[i]? with
    | some x =>
      if x.at_ + 1000 * ticksMs ≤ s.mono then s.withOdw { s.odw with sessions := s.odw.sessions.eraseIdx i } else s
    | none => s)

/-- KEPT_RESPONSE_EXPIRY (R385). -/
def execKeptResponseExpiry (s : State) : Result :=
  .next (s.withOdw { s.odw with kept := s.odw.kept.filter (fun k => decide (s.mono < k.2)) })

/-- STORE_COMPLETE (R389). -/
def execStoreComplete (s : State) : Result :=
  .next (
    if s.odw.storing then (if nvmWritable s then finishStore s else s.withOdw { s.odw with storing := false }) else s)

/-- ARP_REQUEST (R388): for the management address, on an enabled access port. -/
def execArpRequest (port : Nat) (senderMac : BitVec 48) (senderIp targetIp : BitVec 32) (s : State) : Result :=
  .next (
    if odwRuns s && acting s && linkUp s port && bitAt (ofLe (objBytes s 0x1025 1)) port
        && decide (targetIp.toNat = ofLe (objBytes s 0x1041 0)) && targetIp != 0 then
      output s (.arpReply port (BitVec.ofNat 48 (ofBe (padTo 6 (objBytes s 0x1040 0)))) targetIp senderMac senderIp)
    else s)

/-- SUNDEM_UNSERVED_REQUEST (R378, R381, R382, R388). -/
def execSundemUnservedRequest (r : SunReq) (why : SunBad) (s : State) : Result :=
  .next (match why with
    | .unknownOpcode code =>
      if [1, 2, 3, 4, 5, 6, 0x10, 0x11].contains code then s else serve s r code (actUnknown code r)
    | .badFrame => if odwRuns s then s.withOdw { s.odw with badFrames := s.odw.badFrames + 1 } else s
    | .version => s
    | .portNotEnabled =>
      if odwRuns s && (classOf s r.src).isNone then s.withOdw { s.odw with notServed := s.odw.notServed + 1 } else s)

end Sys2Proof.Machine
end

