-- ==== Sys2Proof/Machine/RegRows.lean ====
section
/-! DEFINITION. The commands that stand for one register or window write of the management complex: their effect is that
of the write (R16, R34, R69, R76), and the completion code goes to the outside. -/

namespace Sys2Proof.Machine

/-- A register write through the boundary of its unit: the code of the fence where it stands, ALIGN_ERROR where the
offset is not one of a word, ADDR_ERROR where no register block lies. -/
def commandWrite (s : State) (u off w : Nat) : State × Nat :=
  if 0x11 ≤ u then (s, codeADDR_ERROR)
  else match fenceCode s u with
    | some c => (s, c)
    | none =>
      if absentAt s u off then (s, codeUNIT_ABSENT)
      else if off % 4 ≠ 0 then (s, codeALIGN_ERROR)
      else match placeOf s.ident.variant u off with
        | .register => writeReg s .mgt u off w
        | .window .accMac _ => writeReg s .mgt u off w
        | _ => (s, codeADDR_ERROR)

/-- The write with its code handed out. -/
def writeCommand (s : State) (u off w : Nat) : State :=
  let (s, c) := commandWrite s u off w
  output s (.code c)

/-! ### SYS (R75, R77, R81, R83, R84) -/

def execRegisterWrite (u off : Nat) (w : Word) (s : State) : Result := .next (writeCommand s u off w.toNat)

/-- A bit map with one unit's bit set or cleared. -/
def unitBit (map u : Nat) (b : Bool) : Nat := if u < 17 then withBit map u b else map

def execUnitReset (u : Nat) (s : State) : Result := .next (writeCommand s unitSYS 0x100 (unitBit 0 u true))

def execUnitFenceSet (u : Nat) (s : State) : Result :=
  .next (writeCommand s unitSYS 0x104 (unitBit (regWord s F.SYS_UNIT_FENCE_FENCE.key).toNat u true))

def execUnitFenceLift (u : Nat) (s : State) : Result :=
  .next (writeCommand s unitSYS 0x104 (unitBit (regWord s F.SYS_UNIT_FENCE_FENCE.key).toNat u false))

def execLockUnit (u : Nat) (s : State) : Result := .next (writeCommand s unitSYS 0x118 (unitBit 0 u true))

def execCommitHold (hold : Bool) (s : State) : Result := .next (writeCommand s unitSYS 0x200 (bit01 hold))

def execCommitDiscard (s : State) : Result :=
  .next (writeCommand s unitSYS 0x200 (2 + getF s F.SYS_COMMIT_CTL_HOLD))

def execEpochFlipRequest (flips : BitVec 6) (s : State) : Result := .next (writeCommand s unitSYS 0x208 flips.toNat)

/-! ### Arcades (R249, R254 to R262) -/

/-- A write at an offset of engine `e`'s block. -/
def engineWrite (s : State) (e off w : Nat) : State :=
  if e < 64 ∧ off < 0x80 then writeCommand s unitARC (0x1000 + 0x80 * e + off) w else output s (.code codeADDR_ERROR)

/-- A write of CTL with EN as it is and one command bit set. -/
def engineCommand (s : State) (e bit : Nat) : State := engineWrite s e 0x38 (withBit (getF s (F.ARC_E_CTL_EN e)) bit true)

def execEngineEnable (e : Nat) (s : State) : Result := .next (engineWrite s e 0x38 1)
def execEngineDisable (e : Nat) (s : State) : Result := .next (engineWrite s e 0x38 0)
def execHalt (e : Nat) (s : State) : Result := .next (engineCommand s e 1)
def execResume (e : Nat) (s : State) : Result := .next (engineCommand s e 2)
def execRestart (e : Nat) (s : State) : Result := .next (engineCommand s e 3)
def execFlushTx (e : Nat) (s : State) : Result := .next (engineCommand s e 4)
def execFlushRx (e : Nat) (s : State) : Result := .next (engineCommand s e 5)

def execArcadeGroupRestart (n : Nat) (engines : BitVec 8) (s : State) : Result :=
  .next (if n < 8 then writeCommand s unitARC (0x10 + 4 * n) engines.toNat else output s (.code codeADDR_ERROR))

/-- PROGRAM_ROW_WRITE (R259): a row is one 64-bit value. -/
def execProgramRowWrite (e row : Nat) (w : BitVec 64) (s : State) : Result :=
  .next (
    if e < 64 ∧ row < 64 then
      match fenceCode s unitARC with
      | some c => output s (.code c)
      | none =>
        let (s, c) := writeAt s .mgt unitARC (0x10000 + 0x200 * e + 8 * row) (leBytes 8 w.toNat)
        output s (.code c)
    else output s (.code codeADDR_ERROR))

def execEngineConfigWrite (e off : Nat) (w : Word) (s : State) : Result :=
  .next (if off < 0x38 then engineWrite s e off w.toNat else output s (.code codeADDR_ERROR))

/-- LOOP_BOUNDS_WRITE (R261): a write of CFG that changes the bounds alone. -/
def execLoopBoundsWrite (e : Nat) (first last : BitVec 6) (s : State) : Result :=
  .next (engineWrite s e 0x04
    (insertBits (insertBits (regWord s (F.ARC_E_CFG_LOOP_START e).key).toNat 6 6 first.toNat) 12 6 last.toNat))

/-! ### Pins (R265, R269) -/

def pinCommand (s : State) (base group : Nat) (w : Word) : State :=
  if group < 6 then writeCommand s unitPIN (base + 4 * group) w.toNat else output s (.code codeADDR_ERROR)

def execPinSet (group : Nat) (w : Word) (s : State) : Result := .next (pinCommand s 0x420 group w)
def execPinClear (group : Nat) (w : Word) (s : State) : Result := .next (pinCommand s 0x440 group w)
def execPinToggle (group : Nat) (w : Word) (s : State) : Result := .next (pinCommand s 0x460 group w)

/-! ### Time (R274) -/

def baseCommand (s : State) (base w : Nat) : State :=
  if base < 4 then writeCommand s unitTIM (0x40 * base + 0x1C) w else output s (.code codeADDR_ERROR)

def execStep (base : Nat) (s : State) : Result := .next (baseCommand s base 1)
def execArm (base : Nat) (s : State) : Result := .next (baseCommand s base 2)

/-! ### The twin (R330, R331, R334, R335) -/

def execHandover (s : State) : Result := .next (writeCommand s unitTWN 8 1)
def execResync (s : State) : Result := .next (writeCommand s unitTWN 8 2)
def execHb (s : State) : Result := .next (writeCommand s unitTWN 8 4)

end Sys2Proof.Machine
end

