-- ==== Sys2Proof/Machine/Dispatch.lean ====
section
/-! DEFINITION. The meaning of every command: one arm per constructor of `Instr`, one call each. -/

namespace Sys2Proof.Machine

def exec (i : Instr) (s : State) : Host.Outcome State Fault Refusal :=
  match i with
  | .powerOnReset => Sys2Proof.Machine.execPowerOnReset s
  | .porstRelease selfCheckOk side testmode bankPresent bankV33 => Sys2Proof.Machine.execPorstRelease selfCheckOk side testmode bankPresent bankV33 s
  | .sysrstAssert => Sys2Proof.Machine.execSysrstAssert s
  | .sysrstRelease selfCheckOk bankPresent bankV33 => Sys2Proof.Machine.execSysrstRelease selfCheckOk bankPresent bankV33 s
  | .romBootComplete selfCheckOk => Sys2Proof.Machine.execRomBootComplete selfCheckOk s
  | .ringJoinEnable => Sys2Proof.Machine.execRingJoinEnable s
  | .ringReady => Sys2Proof.Machine.execRingReady s
  | .fullService => Sys2Proof.Machine.execFullService s
  | .deviceRestart => Sys2Proof.Machine.execDeviceRestart s
  | .dormantRequest => Sys2Proof.Machine.execDormantRequest s
  | .dormantEntryComplete => Sys2Proof.Machine.execDormantEntryComplete s
  | .dormantWake changed wakeLow4 => Sys2Proof.Machine.execDormantWake changed wakeLow4 s
  | .drainWindowEnd unit island => Sys2Proof.Machine.execDrainWindowEnd unit island s
  | .unitResetComplete unit => Sys2Proof.Machine.execUnitResetComplete unit s
  | .nodeCycleBoundary => Sys2Proof.Machine.execNodeCycleBoundary s
  | .heartbeatMissed => Sys2Proof.Machine.execHeartbeatMissed s
  | .boundaryWatchdog => Sys2Proof.Machine.execBoundaryWatchdog s
  | .fbCommit unit inst => Sys2Proof.Machine.execFbCommit unit inst s
  | .registerWrite unit off w => Sys2Proof.Machine.execRegisterWrite unit off w s
  | .rd k => Sys2Proof.Machine.execRd k s
  | .wrPosted k => Sys2Proof.Machine.execWrPosted k s
  | .wrAck k => Sys2Proof.Machine.execWrAck k s
  | .rmwSet k => Sys2Proof.Machine.execRmwSet k s
  | .rmwClr k => Sys2Proof.Machine.execRmwClr k s
  | .rmwSwap k => Sys2Proof.Machine.execRmwSwap k s
  | .fence k => Sys2Proof.Machine.execFence k s
  | .fenceRelease k => Sys2Proof.Machine.execFenceRelease k s
  | .txnIssue who t => Sys2Proof.Machine.execTxnIssue who t s
  | .tagGrant => Sys2Proof.Machine.execTagGrant s
  | .txnReqReceive => Sys2Proof.Machine.execTxnReqReceive s
  | .heldRequestAdmit => Sys2Proof.Machine.execHeldRequestAdmit s
  | .txnRspReceive => Sys2Proof.Machine.execTxnRspReceive s
  | .postFaultReceive => Sys2Proof.Machine.execPostFaultReceive s
  | .txnTimeout tag => Sys2Proof.Machine.execTxnTimeout tag s
  | .tagHoldoutEnd tag => Sys2Proof.Machine.execTagHoldoutEnd tag s
  | .i2cTransferComplete bus how data => Sys2Proof.Machine.execI2cTransferComplete bus how data s
  | .i2cStretchTimeout held => Sys2Proof.Machine.execI2cStretchTimeout held s
  | .mdioTransferComplete bus driven data => Sys2Proof.Machine.execMdioTransferComplete bus driven data s
  | .unitReset unit => Sys2Proof.Machine.execUnitReset unit s
  | .unitFenceSet unit => Sys2Proof.Machine.execUnitFenceSet unit s
  | .unitFenceLift unit => Sys2Proof.Machine.execUnitFenceLift unit s
  | .lockUnit unit => Sys2Proof.Machine.execLockUnit unit s
  | .commitHold hold => Sys2Proof.Machine.execCommitHold hold s
  | .commitDiscard => Sys2Proof.Machine.execCommitDiscard s
  | .epochFlipRequest flips => Sys2Proof.Machine.execEpochFlipRequest flips s
  | .epochDrainComplete table => Sys2Proof.Machine.execEpochDrainComplete table s
  | .ringPortEnable port => Sys2Proof.Machine.execRingPortEnable port s
  | .ringPortDisable port => Sys2Proof.Machine.execRingPortDisable port s
  | .retrain port => Sys2Proof.Machine.execRetrain port s
  | .markerReceive port lane line atSlot skew => Sys2Proof.Machine.execMarkerReceive port lane line atSlot skew s
  | .capabilityWordReceive port w => Sys2Proof.Machine.execCapabilityWordReceive port w s
  | .capTimeout port => Sys2Proof.Machine.execCapTimeout port s
  | .stepVerifyDone port => Sys2Proof.Machine.execStepVerifyDone port s
  | .stepFallback port => Sys2Proof.Machine.execStepFallback port s
  | .frCoeffRequest port lane tap req => Sys2Proof.Machine.execFrCoeffRequest port lane tap req s
  | .frTrainComplete port => Sys2Proof.Machine.execFrTrainComplete port s
  | .frTrainTimeout port => Sys2Proof.Machine.execFrTrainTimeout port s
  | .lossOfLock port cause => Sys2Proof.Machine.execLossOfLock port cause s
  | .relockTimeout port => Sys2Proof.Machine.execRelockTimeout port s
  | .relockDone port => Sys2Proof.Machine.execRelockDone port s
  | .laneModeChange lane mode => Sys2Proof.Machine.execLaneModeChange lane mode s
  | .accessLinkUp port speed fullDuplex peerPause => Sys2Proof.Machine.execAccessLinkUp port speed fullDuplex peerPause s
  | .accessLinkDown down => Sys2Proof.Machine.execAccessLinkDown down s
  | .flushDone port => Sys2Proof.Machine.execFlushDone port s
  | .holdExpiry port => Sys2Proof.Machine.execHoldExpiry port s
  | .ringFrameReceive port words sofAt => Sys2Proof.Machine.execRingFrameReceive port words sofAt s
  | .ringFrameAdd f => Sys2Proof.Machine.execRingFrameAdd f s
  | .announcementSend => Sys2Proof.Machine.execAnnouncementSend s
  | .announcementReceive => Sys2Proof.Machine.execAnnouncementReceive s
  | .reachTimeout node side west => Sys2Proof.Machine.execReachTimeout node side west s
  | .dupIdTimeout => Sys2Proof.Machine.execDupIdTimeout s
  | .keepaliveSend port => Sys2Proof.Machine.execKeepaliveSend port s
  | .keepaliveReceive port words sofAt phase => Sys2Proof.Machine.execKeepaliveReceive port words sofAt phase s
  | .keepaliveTick port wordSeen => Sys2Proof.Machine.execKeepaliveTick port wordSeen s
  | .maintenanceWrap port => Sys2Proof.Machine.execMaintenanceWrap port s
  | .wrapNoticeReceive => Sys2Proof.Machine.execWrapNoticeReceive s
  | .wrapHolddownExpiry node side west => Sys2Proof.Machine.execWrapHolddownExpiry node side west s
  | .healReady port => Sys2Proof.Machine.execHealReady port s
  | .heal => Sys2Proof.Machine.execHeal s
  | .frameAdmit queue inPort bytes => Sys2Proof.Machine.execFrameAdmit queue inPort bytes s
  | .egressSchedule port => Sys2Proof.Machine.execEgressSchedule port s
  | .residencyCheck queue => Sys2Proof.Machine.execResidencyCheck queue s
  | .accessFrameReceive port bytes fcsOk line => Sys2Proof.Machine.execAccessFrameReceive port bytes fcsOk line s
  | .ageingSweep => Sys2Proof.Machine.execAgeingSweep s
  | .learnFlush sel => Sys2Proof.Machine.execLearnFlush sel s
  | .pauseFrameReceive port bytes => Sys2Proof.Machine.execPauseFrameReceive port bytes s
  | .pauseExpiry port cls => Sys2Proof.Machine.execPauseExpiry port cls s
  | .pauseRefresh port => Sys2Proof.Machine.execPauseRefresh port s
  | .captureResume => Sys2Proof.Machine.execCaptureResume s
  | .junctionMessageReceive => Sys2Proof.Machine.execJunctionMessageReceive s
  | .listRun pipeline => Sys2Proof.Machine.execListRun pipeline s
  | .emissionHandover idx => Sys2Proof.Machine.execEmissionHandover idx s
  | .emitLateDiscard idx => Sys2Proof.Machine.execEmitLateDiscard idx s
  | .runLateDiscard pipeline => Sys2Proof.Machine.execRunLateDiscard pipeline s
  | .timedRunSkip pipeline => Sys2Proof.Machine.execTimedRunSkip pipeline s
  | .pushHdr queue who w => Sys2Proof.Machine.execPushHdr queue who w s
  | .pushData queue who ofs bytes => Sys2Proof.Machine.execPushData queue who ofs bytes s
  | .pushTimeout queue => Sys2Proof.Machine.execPushTimeout queue s
  | .pop queue len => Sys2Proof.Machine.execPop queue len s
  | .release queue => Sys2Proof.Machine.execRelease queue s
  | .abort queue => Sys2Proof.Machine.execAbort queue s
  | .queueFlush queue => Sys2Proof.Machine.execQueueFlush queue s
  | .queueEnable queue w => Sys2Proof.Machine.execQueueEnable queue w s
  | .queueDisable queue => Sys2Proof.Machine.execQueueDisable queue s
  | .messageProduce queue producer prio bytes => Sys2Proof.Machine.execMessageProduce queue producer prio bytes s
  | .mqArcadeDeliver queue => Sys2Proof.Machine.execMqArcadeDeliver queue s
  | .pollSampleComplete entry => Sys2Proof.Machine.execPollSampleComplete entry s
  | .busChannelEnable ch w => Sys2Proof.Machine.execBusChannelEnable ch w s
  | .busChannelDisable ch => Sys2Proof.Machine.execBusChannelDisable ch s
  | .busFrameReceive ch rx => Sys2Proof.Machine.execBusFrameReceive ch rx s
  | .txRequest ch bufs => Sys2Proof.Machine.execTxRequest ch bufs s
  | .txCancel ch bufs => Sys2Proof.Machine.execTxCancel ch bufs s
  | .busArbitration ch => Sys2Proof.Machine.execBusArbitration ch s
  | .txAttemptEnd ch how => Sys2Proof.Machine.execTxAttemptEnd ch how s
  | .busError ch kind transmitting place => Sys2Proof.Machine.execBusError ch kind transmitting place s
  | .recover ch => Sys2Proof.Machine.execRecover ch s
  | .busRecoveryComplete ch => Sys2Proof.Machine.execBusRecoveryComplete ch s
  | .bufferStarved ch buf => Sys2Proof.Machine.execBufferStarved ch buf s
  | .engineRowExecute e ext => Sys2Proof.Machine.execEngineRowExecute e ext s
  | .engineEnable e => Sys2Proof.Machine.execEngineEnable e s
  | .engineDisable e => Sys2Proof.Machine.execEngineDisable e s
  | .halt e => Sys2Proof.Machine.execHalt e s
  | .resume e => Sys2Proof.Machine.execResume e s
  | .restart e => Sys2Proof.Machine.execRestart e s
  | .arcadeGroupRestart n engines => Sys2Proof.Machine.execArcadeGroupRestart n engines s
  | .flushTx e => Sys2Proof.Machine.execFlushTx e s
  | .flushRx e => Sys2Proof.Machine.execFlushRx e s
  | .txPush e ofs bytes => Sys2Proof.Machine.execTxPush e ofs bytes s
  | .rxPop e len => Sys2Proof.Machine.execRxPop e len s
  | .programRowWrite e row w => Sys2Proof.Machine.execProgramRowWrite e row w s
  | .engineConfigWrite e off w => Sys2Proof.Machine.execEngineConfigWrite e off w s
  | .loopBoundsWrite e first last => Sys2Proof.Machine.execLoopBoundsWrite e first last s
  | .pinSet group w => Sys2Proof.Machine.execPinSet group w s
  | .pinClear group w => Sys2Proof.Machine.execPinClear group w s
  | .pinToggle group w => Sys2Proof.Machine.execPinToggle group w s
  | .step base => Sys2Proof.Machine.execStep base s
  | .arm base => Sys2Proof.Machine.execArm base s
  | .linkReportSend port => Sys2Proof.Machine.execLinkReportSend port s
  | .linkReportReceive => Sys2Proof.Machine.execLinkReportReceive s
  | .servoUpdate base => Sys2Proof.Machine.execServoUpdate base s
  | .upstreamReportTimeout => Sys2Proof.Machine.execUpstreamReportTimeout s
  | .tb1ReportSend => Sys2Proof.Machine.execTb1ReportSend s
  | .tb1ReportReceive => Sys2Proof.Machine.execTb1ReportReceive s
  | .triggerArm k => Sys2Proof.Machine.execTriggerArm k s
  | .triggerFire k codes => Sys2Proof.Machine.execTriggerFire k codes s
  | .captureEvent k risingPad => Sys2Proof.Machine.execCaptureEvent k risingPad s
  | .gcmEncrypt d ctl => Sys2Proof.Machine.execGcmEncrypt d ctl s
  | .gcmDecrypt d ctl => Sys2Proof.Machine.execGcmDecrypt d ctl s
  | .cbcEncrypt d ctl => Sys2Proof.Machine.execCbcEncrypt d ctl s
  | .cbcDecrypt d ctl => Sys2Proof.Machine.execCbcDecrypt d ctl s
  | .cfbEncrypt d ctl => Sys2Proof.Machine.execCfbEncrypt d ctl s
  | .cfbDecrypt d ctl => Sys2Proof.Machine.execCfbDecrypt d ctl s
  | .ctr d ctl => Sys2Proof.Machine.execCtr d ctl s
  | .cmacGenerate d ctl => Sys2Proof.Machine.execCmacGenerate d ctl s
  | .cmacVerify d ctl => Sys2Proof.Machine.execCmacVerify d ctl s
  | .unwrapRing d ctl => Sys2Proof.Machine.execUnwrapRing d ctl s
  | .descriptorStart => Sys2Proof.Machine.execDescriptorStart s
  | .pass1Complete d => Sys2Proof.Machine.execPass1Complete d s
  | .descriptorComplete d => Sys2Proof.Machine.execDescriptorComplete d s
  | .cacheFlush => Sys2Proof.Machine.execCacheFlush s
  | .lgenNext => Sys2Proof.Machine.execLgenNext s
  | .keyRegisterWrite k w v => Sys2Proof.Machine.execKeyRegisterWrite k w v s
  | .nonceReservationComplete slot => Sys2Proof.Machine.execNonceReservationComplete slot s
  | .entropyFail => Sys2Proof.Machine.execEntropyFail s
  | .twnPeerRise => Sys2Proof.Machine.execTwnPeerRise s
  | .twnPeerFall => Sys2Proof.Machine.execTwnPeerFall s
  | .peerLowQualified => Sys2Proof.Machine.execPeerLowQualified s
  | .twinKeepaliveSend => Sys2Proof.Machine.execTwinKeepaliveSend s
  | .twinKeepaliveReceive role schema resyncRequest => Sys2Proof.Machine.execTwinKeepaliveReceive role schema resyncRequest s
  | .twinLinkDown lockLost => Sys2Proof.Machine.execTwinLinkDown lockLost s
  | .deltaSegmentReceive seg => Sys2Proof.Machine.execDeltaSegmentReceive seg s
  | .deltaAckReceive cycle crc => Sys2Proof.Machine.execDeltaAckReceive cycle crc s
  | .snapshotSegmentReceive offset last recs => Sys2Proof.Machine.execSnapshotSegmentReceive offset last recs s
  | .departureSend => Sys2Proof.Machine.execDepartureSend s
  | .departureReceive recs => Sys2Proof.Machine.execDepartureReceive recs s
  | .handover => Sys2Proof.Machine.execHandover s
  | .handoverRelease => Sys2Proof.Machine.execHandoverRelease s
  | .resync => Sys2Proof.Machine.execResync s
  | .hb => Sys2Proof.Machine.execHb s
  | .soloWaitExpiry => Sys2Proof.Machine.execSoloWaitExpiry s
  | .slotEnable slot => Sys2Proof.Machine.execSlotEnable slot s
  | .slotDisable slot => Sys2Proof.Machine.execSlotDisable slot s
  | .seatDebounceDone slot => Sys2Proof.Machine.execSeatDebounceDone slot s
  | .seatLost slot => Sys2Proof.Machine.execSeatLost slot s
  | .powerUpStart slot => Sys2Proof.Machine.execPowerUpStart slot s
  | .prechargeComplete slot vsns vin => Sys2Proof.Machine.execPrechargeComplete slot vsns vin s
  | .prechargeTimeout slot => Sys2Proof.Machine.execPrechargeTimeout slot s
  | .rampEnd slot vsns vin current => Sys2Proof.Machine.execRampEnd slot vsns vin current s
  | .monitorTick slot current => Sys2Proof.Machine.execMonitorTick slot current s
  | .breaker slot => Sys2Proof.Machine.execBreaker slot s
  | .fast slot current => Sys2Proof.Machine.execFast slot current s
  | .tripResolve slot => Sys2Proof.Machine.execTripResolve slot s
  | .retryWaitExpiry slot => Sys2Proof.Machine.execRetryWaitExpiry slot s
  | .pgQualify slot => Sys2Proof.Machine.execPgQualify slot s
  | .retryCountReset slot => Sys2Proof.Machine.execRetryCountReset slot s
  | .vinStateChange vin => Sys2Proof.Machine.execVinStateChange vin s
  | .vinRestore => Sys2Proof.Machine.execVinRestore s
  | .warnedTurnOff slot => Sys2Proof.Machine.execWarnedTurnOff slot s
  | .budgetRestore slot => Sys2Proof.Machine.execBudgetRestore slot s
  | .on slot => Sys2Proof.Machine.execOn slot s
  | .off slot => Sys2Proof.Machine.execOff slot s
  | .pfailAssert => Sys2Proof.Machine.execPfailAssert s
  | .pfailRelease => Sys2Proof.Machine.execPfailRelease s
  | .vauxLow => Sys2Proof.Machine.execVauxLow s
  | .nvmInhibitLift => Sys2Proof.Machine.execNvmInhibitLift s
  | .meterSample codes => Sys2Proof.Machine.execMeterSample codes s
  | .faultDetect code unit info0 info1 => Sys2Proof.Machine.execFaultDetect code unit info0 info1 s
  | .errPulseEnd => Sys2Proof.Machine.execErrPulseEnd s
  | .faultInject code unit => Sys2Proof.Machine.execFaultInject code unit s
  | .eccInject code unit => Sys2Proof.Machine.execEccInject code unit s
  | .read r => Sys2Proof.Machine.execRead r s
  | .write r => Sys2Proof.Machine.execWrite r s
  | .describe r => Sys2Proof.Machine.execDescribe r s
  | .store r => Sys2Proof.Machine.execStore r s
  | .restore r => Sys2Proof.Machine.execRestore r s
  | .discover r => Sys2Proof.Machine.execDiscover r s
  | .discoverResponseDelay idx => Sys2Proof.Machine.execDiscoverResponseDelay idx s
  | .addrRead r => Sys2Proof.Machine.execAddrRead r s
  | .addrWrite r => Sys2Proof.Machine.execAddrWrite r s
  | .sessionTimeout idx => Sys2Proof.Machine.execSessionTimeout idx s
  | .keptResponseExpiry => Sys2Proof.Machine.execKeptResponseExpiry s
  | .arpRequest port senderMac senderIp targetIp => Sys2Proof.Machine.execArpRequest port senderMac senderIp targetIp s
  | .nodeIdWrite r => Sys2Proof.Machine.execNodeIdWrite r s
  | .ringKeyLoad r => Sys2Proof.Machine.execRingKeyLoad r s
  | .serviceUartRate r => Sys2Proof.Machine.execServiceUartRate r s
  | .recoveryRelay r => Sys2Proof.Machine.execRecoveryRelay r s
  | .recoveryRelayTimeout => Sys2Proof.Machine.execRecoveryRelayTimeout s
  | .begin => Sys2Proof.Machine.execBegin s
  | .close => Sys2Proof.Machine.execClose s
  | .activate => Sys2Proof.Machine.execActivate s
  | .confirm => Sys2Proof.Machine.execConfirm s
  | .abandon => Sys2Proof.Machine.execAbandon s
  | .packageWrite ofs bytes => Sys2Proof.Machine.execPackageWrite ofs bytes s
  | .verifyComplete => Sys2Proof.Machine.execVerifyComplete s
  | .activationHashDone => Sys2Proof.Machine.execActivationHashDone s
  | .managementRestartEnd => Sys2Proof.Machine.execManagementRestartEnd s
  | .badSof port word => Sys2Proof.Machine.execBadSof port word s
  | .bankSupplyLoss bank => Sys2Proof.Machine.execBankSupplyLoss bank s
  | .selfSeatChange seated => Sys2Proof.Machine.execSelfSeatChange seated s
  | .syncFiringLate => Sys2Proof.Machine.execSyncFiringLate s
  | .tb1ReportTimeout => Sys2Proof.Machine.execTb1ReportTimeout s
  | .storeComplete => Sys2Proof.Machine.execStoreComplete s
  | .busIntegrationComplete ch => Sys2Proof.Machine.execBusIntegrationComplete ch s
  | .sundemUnservedRequest r why => Sys2Proof.Machine.execSundemUnservedRequest r why s

end Sys2Proof.Machine
end

