-- ==== Sys2Proof/Safety.lean ====
section
/-! DEFINITION. What counts as a sound state of the hub, and what it means that a command leaves something as it was: the
terms in which statements about commands are made. -/

namespace Sys2Proof

open Sys2Proof.Machine

/-! ### Sound states -/

/-- Window memory is in its one canonical form, so that equal contents are equal data. -/
def memoryCanonical (s : State) : Prop := Memory.wf s.mem = true

/-- TWN_OE is high only while the hub holds its claim, is in Service or Degraded and is Active or Single; and on a part
with twin control, which alone has the pin, only while TWN_PEER is low (R27, R318, R319). -/
def outputsGated (s : State) : Prop :=
  s.twin.oe = true → s.twin.claim = true ∧ inService s = true ∧ acting s = true
    ∧ (s.ident.variant.hasTwn = true → s.pins.twnPeer = false)

/-- What no command may do to the die: only its OTP counter changes, and that only rises (R1, R397, R413). -/
def diePreserved (s t : State) : Prop :=
  s.ident.otp ≤ t.ident.otp ∧ t.ident = { s.ident with otp := t.ident.otp }

/-! ### What stays as it was -/

/-- Every register but those of `ks` holds the word it held. -/
def regsKept (ks : List Nat) (s t : State) : Prop := ∀ k, k ∉ ks → regWord t k = regWord s k

/-- Every byte of window memory reads as it did. -/
def memKept (s t : State) : Prop := ∀ a, memByte t a = memByte s a

/-- Every byte of window memory outside `n` bytes from `a` reads as it did. -/
def memKeptBut (a n : Nat) (s t : State) : Prop := ∀ b, b < a ∨ a + n ≤ b → memByte t b = memByte s b

end Sys2Proof
end

