-- ==== Sys2Proof/Certificates/Slice0/Obligations.lean ====
section
/-! DEFINITION. The statements about the hub. A statement about a command names the states and operands it speaks of and
says which next state `exec` answers: the effect of the command and what it leaves as it was. -/

open Sys2Proof Sys2Proof.Machine

/-- A step of a hub whose queue is c followed by rest is the meaning of c on the hub whose queue is rest. The queue is the
model's own: it holds the commands the outside has sent. (R42, the queue of waiting commands is the model's) -/
def Obligations.StepRunsFrontCommand : Prop :=
  ∀ (c : Instr) (rest : List Instr) (s : State),
    step (s.withPending (c :: rest)) = exec c (s.withPending rest)

/-- With no command waiting, and no error found by a read left to report, a step is one tick of the 2 ns clock: the
model's clock rises by one, no register, no byte of window memory and no fuse changes. That a step on an empty queue
is a tick, and reports such errors, is the model's choice (log entries 11 and 32). (R270, log entries 11 and 32) -/
def Obligations.EmptyQueueIsTick : Prop :=
  ∀ s : State, s.pending = [] → s.flt.eccFound = [] →
    ∃ t, step s = .next t ∧ t.mono = s.mono + 1 ∧ t.pending = [] ∧ t.ident = s.ident ∧ t.mem = s.mem ∧ t.regs = s.regs

/-- After power-on reset the hub is in Off, all four time bases are 0, every register holds its reset word, no write waits
for a commit point, no command, transaction, frame, message or fault record is held, and the outputs are off. That the
die is a GK7216 with zero fuses and that window memory reads zero are the model's choices (log entries 1 and 2). (R8,
R23, R72, R76, R291, R397, log entries 1 and 2) -/
def Obligations.ResetState : Prop :=
  State.reset.dev.state = .off ∧ State.reset.time.bases = ⟨0, 0, 0, 0⟩
  ∧ (∀ k, regWord State.reset k = resetWord .gk7216 k)
  ∧ State.reset.pendCb = [] ∧ State.reset.pendFb = [] ∧ State.reset.pendMem = []
  ∧ State.reset.pending = [] ∧ State.reset.txn = Txn.reset ∧ State.reset.plaza = Plaza.reset
  ∧ State.reset.jct = Junction.reset ∧ (∀ n, queueOf State.reset n = MQueue.reset)
  ∧ (∀ e, engineOf State.reset e = Engine.reset) ∧ (∀ n, slotOf State.reset n = Slot.reset)
  ∧ State.reset.twin.oe = false ∧ State.reset.twin.claim = false ∧ (∀ a, memByte State.reset a = 0)

/-- From every state POWER_ON_RESET answers a next state in Off: all bases at 0, every register at its reset word, every
window memory but NVM reading as memory that nothing has written, and NVM, fuses and pin levels, that of SYSRST_N among
them, as they were. (R23, R24, R397) -/
def Obligations.PowerOnReset : Prop :=
  ∀ s : State, ∃ t, exec .powerOnReset s = .next t
    ∧ t.dev = { Dev.reset with sysrstLow := s.dev.sysrstLow } ∧ t.time.bases = ⟨0, 0, 0, 0⟩ ∧ t.aon = State.reset.aon
    ∧ (∀ k, regWord t k = resetWord s.ident.variant k)
    ∧ (∀ a, memByte t a = if unitOfKey a = unitNVM then memByte s a else 0)
    ∧ t.ident = s.ident ∧ t.pins = s.pins ∧ t.pendCb = [] ∧ t.pendFb = [] ∧ t.plaza = Plaza.reset ∧ t.txn = Txn.reset
    ∧ t.jct = Junction.reset ∧ t.queues = [] ∧ t.bus = [] ∧ t.engines = [] ∧ t.twin = Twin.reset ∧ t.drains = []

/-- In every state but Off and Dead SYSRST_ASSERT leaves every register at its reset word except FLT_LAST_FATAL0-7 and
LF_PENDING, which it keeps, keeps NVM, fuses and the time bases, and saves the bases to the AON island unless it
counts already. In Off, where nothing is left to reset, and in Dead only the level of the pin is noted, which keeps the
islands in reset after PORST_N. (R24, R291, R397, R401) -/
def Obligations.SystemReset : Prop :=
  (∀ s : State, s.dev.state ≠ .off → s.dev.state ≠ .dead → ∃ t, exec .sysrstAssert s = .next t
    ∧ t.dev.sysrstLow = true ∧ t.dev.state = s.dev.state ∧ t.dev.unitsOut = false
    ∧ (∀ k, regWord t k = if (F.FLT_LAST_FATAL_WORD 0).key ≤ k ∧ k < (F.FLT_LAST_FATAL_WORD 8).key then regWord s k
        else if k = F.FLT_LOG_STAT_LF_PENDING.key then regWord t k else resetWord s.ident.variant k)
    ∧ flag t F.FLT_LOG_STAT_LF_PENDING = flag s F.FLT_LOG_STAT_LF_PENDING
    ∧ (∀ a, unitOfKey a = unitNVM → memByte t a = memByte s a)
    ∧ t.ident = s.ident ∧ t.time.bases = s.time.bases ∧ t.aon.counting = true
    ∧ (s.aon.counting = true → t.aon = s.aon)
    ∧ (s.aon.counting = false → t.aon.saved0 = s.tb 0 ∧ t.aon.saved1 = s.tb 1 ∧ t.aon.saved2 = s.tb 2
        ∧ t.aon.saved3 = s.tb 3))
  ∧ ∀ s : State, s.dev.state = .dead ∨ s.dev.state = .off →
    exec .sysrstAssert s = .next (s.withDev { s.dev with sysrstLow := true })

/-- PORST_RELEASE in Off, SYSRST_RELEASE while SYSRST_N is low, DEVICE_RESTART once the response to device command 1 is
sent, and DORMANT_WAKE on a changed enabled comparator or WAKE_N low enter Starting with the ROM running; a failed ROM
step 1 leads to Dead. PORST_RELEASE alone samples the straps. While SYSRST_N is low no ROM runs: PORST_RELEASE enters
Starting without it, and a wake is only noted. In Off and Dead SYSRST_RELEASE notes the level alone. That a wake waits for
SYSRST_N is read from R24 (log entry 170). (R23, R24, R396, R397, R401, R402, R405, log entry 170) -/
def Obligations.StartsBegin : Prop :=
  (∀ (s : State) (ok side tm : Bool) (present v33 : BitVec 6), s.dev.state = .off → s.dev.sysrstLow = false →
    ∃ t, exec (.porstRelease ok side tm present v33) s = .next t ∧ t.dev.state = (if ok then .starting else .dead)
      ∧ t.dev.side = side ∧ t.dev.testmode = tm ∧ t.ident = s.ident ∧ t.mem = s.mem
      ∧ (ok = true → t.dev.stage = .rom ∧ ∀ b, b < 6 → flag t (F.PIN_BANK_STAT_PRESENT b) = present.getLsbD b
          ∧ flag t (F.PIN_BANK_STAT_V33 b) = v33.getLsbD b))
  ∧ (∀ (s : State) (ok side tm : Bool) (present v33 : BitVec 6), s.dev.state = .off → s.dev.sysrstLow = true →
    exec (.porstRelease ok side tm present v33) s
      = .next (s.withDev { s.dev with side := side, testmode := tm, state := .starting, stage := .none }))
  ∧ (∀ (s : State) (ok : Bool) (present v33 : BitVec 6), s.dev.sysrstLow = true → s.dev.state ≠ .dead →
    s.dev.state ≠ .off →
    ∃ t, exec (.sysrstRelease ok present v33) s = .next t ∧ t.dev.state = (if ok then .starting else .dead)
      ∧ (ok = true → t.dev.stage = .rom) ∧ t.dev.sysrstLow = false
      ∧ t.dev.side = s.dev.side ∧ t.dev.testmode = s.dev.testmode ∧ t.ident = s.ident ∧ t.mem = s.mem)
  ∧ (∀ (s : State) (ok : Bool) (present v33 : BitVec 6), s.dev.sysrstLow = true →
    s.dev.state = .dead ∨ s.dev.state = .off →
    exec (.sysrstRelease ok present v33) s = .next (s.withDev { s.dev with sysrstLow := false }))
  ∧ (∀ s : State, s.odw.pendingCmd = 1 → ∃ t, exec .deviceRestart s = .next t ∧ t.dev.state = .starting
      ∧ t.dev.stage = .rom ∧ t.ident = s.ident ∧ t.twin = Twin.reset)
  ∧ ∀ (s : State) (changed : BitVec 8) (low : Bool), s.dev.state = .dormant →
    (changed &&& (s.aon.mask ||| 0x10) ≠ 0 ∨ low = true) →
    ∃ t, exec (.dormantWake changed low) s = .next t ∧ t.ident = s.ident
      ∧ t.aon.cause = (let hit := changed &&& (s.aon.mask ||| 0x10); if low then hit ||| 0x10 else hit)
      ∧ (s.dev.sysrstLow = false → t.dev.state = .starting ∧ t.dev.stage = .rom)
      ∧ (s.dev.sysrstLow = true → t.dev = s.dev ∧ t.mem = s.mem ∧ t.regs = s.regs)

/-- While Starting with the ROM running, ROM_BOOT_COMPLETE leads to Dead on a failed self-check, to the start of the image of
the bank that ROM steps 3 to 6 choose, or to Recovery where neither bank is valid: step 6 chooses the bank that the boot
record names if it is valid, else the other if that one is. RING_JOIN_ENABLE comes no earlier than 20 ms after the start;
RING_READY and FULL_SERVICE follow in their order, and FULL_SERVICE ends Starting in Service, or in Degraded where the fault
collector has fenced a unit, with the key registers zeroised. (R23, R299, R398, R401, R402) -/
def Obligations.BootProgress : Prop :=
  (∀ s : State, s.dev.state = .starting → s.dev.stage = .rom →
    ∃ t, exec (.romBootComplete false) s = .next t ∧ t.dev.state = .dead ∧ t.regs = s.regs ∧ t.mem = s.mem)
  ∧ (∀ (s r : State) (bank : Nat), s.dev.state = .starting → s.dev.stage = .rom → romSteps s = (r, some bank) →
    exec (.romBootComplete true) s = .next (startImage r bank))
  ∧ (∀ s r : State, s.dev.state = .starting → s.dev.stage = .rom → romSteps s = (r, none) →
    exec (.romBootComplete true) s = .next (enterRecovery r))
  ∧ (∀ s : State, (romBank s).2 = if bankValid s (activeBank_ s) then some (activeBank_ s)
      else if bankValid s (1 - activeBank_ s) then some (1 - activeBank_ s) else none)
  ∧ (∀ s : State, s.dev.stage = .image → due s .ringJoin = true →
    ∃ t, exec .ringJoinEnable s = .next t ∧ t.dev = { s.dev with stage := .joined } ∧ t.mem = s.mem ∧ t.ident = s.ident)
  ∧ (∀ s : State, due s .ringJoin = false → exec .ringJoinEnable s = .next s)
  ∧ (∀ s : State, s.dev.state = .starting → s.dev.stage = .joined →
    ∃ t, exec .ringReady s = .next t ∧ t.dev = { s.dev with stage := .ringReady } ∧ t.mem = s.mem ∧ t.ident = s.ident)
  ∧ ∀ s : State, s.dev.state = .starting → s.dev.stage = .ringReady →
    ∃ t, exec .fullService s = .next t
      ∧ t.dev = { s.dev with state := if getF s F.SYS_UNIT_FLTFENCE_UNITS = 0 then .service else .degraded }
      ∧ t.mem = s.mem ∧ t.ident = s.ident ∧ t.cip.keyRegs = []

/-- With SYSRST_N high, DORMANT_REQUEST in Service or Degraded is answered REFUSED_BUSY while the update is Verifying or Armed
or a STORE runs, with nothing else changed, and otherwise begins the entry. Once the slots that this hub drives are off and
no STORE runs, DORMANT_ENTRY_COMPLETE first begins the drain window at every boundary of the units that run, where requests
are inside them, and after the windows leads to Dormant, where every unit the part has completes requests with FENCED. That
one command begins the windows and a later one ends the entry is the model's choice (log entry 171). (R15, R16, R25, R404,
log entry 171) -/
def Obligations.DormantEntry : Prop :=
  (∀ s : State, inService s = true → s.dev.sysrstLow = false → s.dev.dormantPending = false → s.odw.pendingCmd ≠ 2 →
    dormantRefused s = true → exec .dormantRequest s = .next (output s (.code codeREFUSED_BUSY)))
  ∧ (∀ s : State, inService s = true → s.dev.sysrstLow = false → s.dev.dormantPending = false →
    (s.odw.pendingCmd = 2 ∨ dormantRefused s = false) →
    ∃ t, exec .dormantRequest s = .next t ∧ t.dev = { s.dev with dormantPending := true } ∧ t.odw.pendingCmd = 0
      ∧ t.ident = s.ident)
  ∧ (∀ s : State, s.dev.dormantPending = true → s.odw.storing = false →
    (acting s = true → (slotIds s).any (slotPowered s) = false) → s.txn.reqs ≠ [] → poweringDown s = false →
    ∃ t, exec .dormantEntryComplete s = .next t ∧ t.dev = { s.dev with powerDown := 0x1FFFE }
      ∧ ∀ u < 17, u ≠ unitSYS → live s u = true →
          ∀ i ∈ islandsOf s.ident.variant u, (⟨u, i, false, none⟩ : Drain) ∈ t.drains)
  ∧ ∀ s : State, s.dev.dormantPending = true → s.odw.storing = false →
    (acting s = true → (slotIds s).any (slotPowered s) = false) →
    (s.txn.reqs = [] ∨ (poweringDown s = true ∧ windowsRun s = false)) →
    ∃ t, exec .dormantEntryComplete s = .next t ∧ t.dev.state = .dormant ∧ t.ident = s.ident
      ∧ t.aon.mask = wakeMask s ∧ t.twin = Twin.reset
      ∧ ∀ u, fenceCode t u = if unitAbsent s.ident.variant u then some codeUNIT_ABSENT else some codeFENCED

/-- In the register map of every unit the fields of one register lie within its 32 bits and no two of them share a bit.
(R5, R69, R71, R83) -/
def Obligations.RegisterFieldsDisjoint : Prop :=
  ∀ u < 17, ∀ d ∈ regsOf u, (∀ f ∈ d.fields, f.lo + f.width ≤ 32)
    ∧ d.fields.Pairwise (fun f g => f.lo + f.width ≤ g.lo ∨ g.lo + g.width ≤ f.lo)

/-- REGISTER_WRITE of a present register without an effect of its own, in a unit that runs: an RW or CNT field takes the
written bits at once, or as its pending copy where it commits at FB or CB; W1C clears, W1S sets, RO, SC and WO hold;
an LK field takes the bits unless its unit is locked. Reserved bits and every other register hold, and the code is
LOCKED exactly where the unit is locked and an LK field would change. (R5, R6, R71, R74, R76) -/
def Obligations.RegisterWriteByFieldTypes : Prop :=
  ∀ (s : State) (u off : Nat) (w : Word) (d : RegDef) (idx : List Nat), live s u = true → u ≤ 0x10 → off < 0x10000 →
    off % 4 = 0 → filterOffset u off = false → regAt (keyOf u off) = some (d, idx) →
    absentAt s u off = false → hasInst s d.pres idx = true → hookWrite s .mgt d u off (keyOf u off) w.toNat = none →
    (∀ f ∈ d.fields, f.lo + f.width ≤ 32) →
    d.fields.Pairwise (fun f g => f.lo + f.width ≤ g.lo ∨ g.lo + g.width ≤ f.lo) →
    ∃ t, exec (.registerWrite u off w) s = .next t
      ∧ t = { s with regs := t.regs, pendCb := t.pendCb, pendFb := t.pendFb, twin := t.twin, outs := t.outs }
      ∧ regsKept [keyOf u off] s t
      ∧ (∀ f ∈ d.fields, ∀ j < f.width,
          let old := (regWord s (keyOf u off)).getLsbD (f.lo + j)
          let new := w.getLsbD (f.lo + j)
          let now := (regWord t (keyOf u off)).getLsbD (f.lo + j)
          (f.ty = .rw → f.commit = .im → now = new) ∧ (f.ty = .cnt → f.commit = .im → now = new)
          ∧ (f.ty = .rw → f.commit = .cb → now = old ∧ ∃ c, t.pendCb = s.pendCb ++ [c] ∧ c.at_ = s.mono
              ∧ c.key = keyOf u off ∧ c.mask.getLsbD (f.lo + j) = true ∧ c.value.getLsbD (f.lo + j) = new)
          ∧ (f.ty = .rw → f.commit = .fb → now = old ∧ ∃ m v, assoc (keyOf u off) t.pendFb = some (m, v)
              ∧ m.getLsbD (f.lo + j) = true ∧ v.getLsbD (f.lo + j) = new)
          ∧ (f.ty = .w1c → now = (old && !new)) ∧ (f.ty = .w1s → now = (old || new))
          ∧ (f.ty = .lk → f.commit = .im → now = if bitF s F.SYS_LOCK_LOCK u then old else new)
          ∧ (f.ty = .ro ∨ f.ty = .sc ∨ f.ty = .wo → now = old))
      ∧ (∀ j, (∀ f ∈ d.fields, j < f.lo ∨ f.lo + f.width ≤ j) →
          (regWord t (keyOf u off)).getLsbD j = (regWord s (keyOf u off)).getLsbD j)
      ∧ t.outs = s.outs ++ [.code (if bitF s F.SYS_LOCK_LOCK u = true
          ∧ (∃ f ∈ d.fields, f.ty = .lk ∧ ∃ j < f.width,
              (regWord s (keyOf u off)).getLsbD (f.lo + j) ≠ w.getLsbD (f.lo + j)) then codeLOCKED else codeOK)]

/-- A register write to a unit whose boundaries admit nothing is answered with the code of the case (UNIT_ABSENT, FENCED
or RESET_DURING); one to an absent instance, at a listed offset of its block or any other, with UNIT_ABSENT; one to an
unmapped offset of a register block with OK. None of them changes anything else. (R2, R15, R16, R34) -/
def Obligations.FencedUnitRefusesWrite : Prop :=
  (∀ (s : State) (u off code : Nat) (w : Word), u ≤ 0x10 → fenceCode s u = some code →
    exec (.registerWrite u off w) s = .next (output s (.code code)))
  ∧ (∀ (s : State) (u off : Nat) (w : Word), live s u = true → u ≤ 0x10 → absentAt s u off = true →
    exec (.registerWrite u off w) s = .next (output s (.code codeUNIT_ABSENT)))
  ∧ (∀ (s : State) (u off : Nat) (w : Word) (d : RegDef) (idx : List Nat), live s u = true → u ≤ 0x10 → off < 0x10000 →
    off % 4 = 0 → filterOffset u off = false → regAt (keyOf u off) = some (d, idx) →
    hasInst s d.pres idx = false →
    exec (.registerWrite u off w) s = .next (output s (.code codeUNIT_ABSENT)))
  ∧ ∀ (s : State) (u off : Nat) (w : Word), live s u = true → u ≤ 0x10 → off < 0x10000 → off % 4 = 0 →
    filterOffset u off = false → absentAt s u off = false → regAt (keyOf u off) = none →
    exec (.registerWrite u off w) s = .next (output s (.code codeOK))

/-- While SYS runs: LOCK_UNIT sets the unit's lock bit and no other; COMMIT_HOLD sets or clears HOLD, and clearing it
clears HELD_CYCLES; COMMIT_DISCARD throws away every pending CB value, window byte and flip and leaves HOLD;
EPOCH_FLIP_REQUEST adds the flips to those pending, or, where one of its tables is draining, is answered EPOCH_BUSY
and requests nothing. None touches another register, window memory or the FB copies. (R75, R77, R81, R83) -/
def Obligations.CommitControl : Prop :=
  (∀ (s : State) (u : Nat), live s unitSYS = true → u < 17 → ∃ t, exec (.lockUnit u) s = .next t
    ∧ regsKept [F.SYS_LOCK_LOCK.key] s t ∧ memKept s t ∧ t.pendCb = s.pendCb ∧ t.pendFb = s.pendFb
    ∧ (∀ v < 17, bitF t F.SYS_LOCK_LOCK v = (bitF s F.SYS_LOCK_LOCK v || decide (v = u))))
  ∧ (∀ (s : State) (hold : Bool), live s unitSYS = true → ∃ t, exec (.commitHold hold) s = .next t
    ∧ regsKept [F.SYS_COMMIT_CTL_HOLD.key, F.SYS_COMMIT_STAT_HELD_CYCLES.key] s t ∧ memKept s t
    ∧ t.pendCb = s.pendCb ∧ t.pendFb = s.pendFb ∧ t.pendMem = s.pendMem
    ∧ flag t F.SYS_COMMIT_CTL_HOLD = hold
    ∧ getF t F.SYS_COMMIT_STAT_HELD_CYCLES = if hold then getF s F.SYS_COMMIT_STAT_HELD_CYCLES else 0)
  ∧ (∀ s : State, live s unitSYS = true → ∃ t, exec .commitDiscard s = .next t
    ∧ regsKept [F.SYS_COMMIT_CTL_HOLD.key, F.SYS_COMMIT_STAT_HELD_CYCLES.key, F.SYS_EPOCH_CMD_FLIP.key,
        F.SYS_EPOCH_STAT_PENDING.key] s t ∧ memKept s t
    ∧ t.pendCb = [] ∧ t.pendMem = [] ∧ t.pendFb = s.pendFb ∧ getF t F.SYS_EPOCH_CMD_FLIP = 0
    ∧ getF t F.SYS_EPOCH_STAT_PENDING = 0 ∧ getF t F.SYS_EPOCH_STAT_ACTIVE = getF s F.SYS_EPOCH_STAT_ACTIVE
    ∧ getF t F.SYS_EPOCH_STAT_DRAINING = getF s F.SYS_EPOCH_STAT_DRAINING
    ∧ flag t F.SYS_COMMIT_CTL_HOLD = flag s F.SYS_COMMIT_CTL_HOLD)
  ∧ (∀ (s : State) (flips : BitVec 6), live s unitSYS = true → flips.toNat &&& getF s F.SYS_EPOCH_STAT_DRAINING = 0 →
    ∃ t, exec (.epochFlipRequest flips) s = .next t
    ∧ regsKept [F.SYS_EPOCH_CMD_FLIP.key, F.SYS_EPOCH_STAT_PENDING.key] s t ∧ memKept s t ∧ t.pendCb = s.pendCb
    ∧ getF t F.SYS_EPOCH_CMD_FLIP = getF s F.SYS_EPOCH_CMD_FLIP ||| flips.toNat
    ∧ getF t F.SYS_EPOCH_STAT_PENDING = getF s F.SYS_EPOCH_CMD_FLIP ||| flips.toNat
    ∧ getF t F.SYS_EPOCH_STAT_ACTIVE = getF s F.SYS_EPOCH_STAT_ACTIVE ∧ t.outs = s.outs ++ [.code codeOK])
  ∧ ∀ (s : State) (flips : BitVec 6), live s unitSYS = true → flips.toNat &&& getF s F.SYS_EPOCH_STAT_DRAINING ≠ 0 →
    exec (.epochFlipRequest flips) s = .next (output s (.code codeEPOCH_BUSY))

/-- Where the node cycle runs and a boundary is due, NODE_CYCLE_BOUNDARY applies the commits, then the flips, then closes
the delta, then carries out a decided switch-over, then evaluates slot shedding, then opens the next cycle and issues
the Junction tick and the node-cycle trigger under it; where none is due it changes nothing. No boundary makes a cycle
shorter than half the cycle length, and under a locked TB0 none lies before the lock. (R18, R19, R282) -/
def Obligations.BoundaryOrder : Prop :=
  (∀ (s : State) (at_ : Nat), s.dev.unitsOut = true → basesRun s = true → boundaryAt s = some at_ →
    exec .nodeCycleBoundary s = .next (
      let s1 := orderTwo (orderOne (s.withTime { s.time with lastBoundary := at_ }))
      let s2 := shedEvaluate (orderFour (closeDelta s1))
      orderSix (unwrapPorts (openCycle (continueDormant (countHeartbeat s2))))))
  ∧ (∀ s : State, boundaryAt s = none → exec .nodeCycleBoundary s = .next s)
  ∧ ∀ (s : State) (at_ : Nat), s.time.cycleLen ∈ [5000, 10000, 20000, 25000, 50000, 100000] →
    s.time.lastBoundary ≤ s.mono → boundaryAt s = some at_ →
    s.time.cycleLen ≤ 2 * (2 * (at_ - s.time.lastBoundary)) ∧ at_ ≤ s.mono
    ∧ (tb0Locked s = true → s.time.lockedAt ≤ at_)

/-- Of the CB writes a boundary applies those made before it, and of several to one register the later ones last. Applying the
pending copies in turn gives every register that has one, each key being listed once, the pending bits
where the pending mask is set and its former bits elsewhere; every other register holds. While HOLD is 1 the
boundary's first order leaves the pending copies as they are. FB_COMMIT of an access port of the part makes the
pending bits of its MAC_CFG the active ones, of a time-stamping port its bits of the two PTP masks, of a bus channel
the pending CFG where the channel is not in the middle of a frame. (R6, R20, R76, R77, R78) -/
def Obligations.CommitAppliesPending : Prop :=
  (∀ (s : State) (p : Nat × (Word × Word)), p ∈ dueCb s → ∃ c ∈ s.pendCb, c.key = p.1 ∧ c.at_ < s.time.lastBoundary)
  ∧ (∀ l : List CbWrite, ((mergeCb l).map Prod.fst).Nodup)
  ∧ (∀ (l : List CbWrite) (c : CbWrite) (j : Nat), c.mask ≠ 0 → ∃ m v, assoc c.key (mergeCb (l ++ [c])) = some (m, v)
    ∧ (c.mask.getLsbD j = true → m.getLsbD j = true ∧ v.getLsbD j = c.value.getLsbD j)
    ∧ (c.mask.getLsbD j = false → ∀ m' v', assoc c.key (mergeCb l) = some (m', v') →
        m.getLsbD j = m'.getLsbD j ∧ v.getLsbD j = v'.getLsbD j))
  ∧ (∀ (s : State) (l : List (Nat × (Word × Word))), (l.map Prod.fst).Nodup →
    (∀ k m v, (k, (m, v)) ∈ l → ∀ j, (regWord (l.foldl commitWord s) k).getLsbD j
      = if m.getLsbD j then v.getLsbD j else (regWord s k).getLsbD j)
    ∧ (∀ k, k ∉ l.map Prod.fst → regWord (l.foldl commitWord s) k = regWord s k)
    ∧ (l.foldl commitWord s).mem = s.mem)
  ∧ (∀ s : State, twinLive s = false → pinMismatch s = false → s.dev.newNodeId = none → holding s = true →
    (orderOne s).pendCb = s.pendCb ∧ (orderOne s).pendMem = s.pendMem ∧ (orderOne s).mem = s.mem
    ∧ getF (orderOne s) F.SYS_COMMIT_STAT_HELD_CYCLES = min 255 (getF s F.SYS_COMMIT_STAT_HELD_CYCLES + 1))
  ∧ (∀ (s : State) (key mask : Nat) (m v : Word), assoc key s.pendFb = some (m, v) → ∀ j,
    (regWord (commitFb s key mask) key).getLsbD j
      = if m.getLsbD j && mask.testBit j then v.getLsbD j else (regWord s key).getLsbD j)
  ∧ (∀ (s : State) (p : Nat), p < s.ident.variant.accPorts → exec (.fbCommit unitACC p) s = .next (commitMac s p))
  ∧ (∀ (s : State) (p : Nat), p < s.ident.variant.accPorts → ∃ t, exec (.fbCommit unitTIM p) s = .next t
    ∧ regsKept [(F.TIM_PTP_EN_PORTS (p / 32)).key, (F.TIM_PTP_TS2_PORTS (p / 32)).key] s t ∧ memKept s t
    ∧ ∀ m v, assoc (F.TIM_PTP_EN_PORTS (p / 32)).key s.pendFb = some (m, v) → ∀ j < 32,
        (regWord t (F.TIM_PTP_EN_PORTS (p / 32)).key).getLsbD j = if m.getLsbD j && decide (j = p % 32)
          then v.getLsbD j else (regWord s (F.TIM_PTP_EN_PORTS (p / 32)).key).getLsbD j)
  ∧ ∀ (s : State) (c : Nat), hasBus s c = true → exec (.fbCommit unitBUS c) s = .next (commitBus s c)

/-- At a boundary that HOLD does not hold, the second order changes the active bank of exactly the tables with a flip
requested, marks those tables draining beside those that drain already, and clears the requests; while HOLD is 1 it
changes nothing. The bank that drains is let go only once nothing classified under it is left, and then
EPOCH_DRAIN_COMPLETE clears the table's DRAINING bit alone. (R77, R79, R80) -/
def Obligations.EpochFlipAtBoundary : Prop :=
  (∀ s : State, holding s = false →
    let t := orderTwo s
    let f := getF s F.SYS_EPOCH_CMD_FLIP
    getF t F.SYS_EPOCH_STAT_ACTIVE = getF s F.SYS_EPOCH_STAT_ACTIVE ^^^ f
    ∧ getF t F.SYS_EPOCH_STAT_DRAINING = getF s F.SYS_EPOCH_STAT_DRAINING ||| f
    ∧ getF t F.SYS_EPOCH_CMD_FLIP = 0 ∧ (f ≠ 0 → getF t F.SYS_EPOCH_STAT_PENDING = 0)
    ∧ regsKept [F.SYS_EPOCH_CMD_FLIP.key, F.SYS_EPOCH_STAT_ACTIVE.key] s t
    ∧ (∀ c < 2, f.testBit (4 + c) = true → (busCh t c).flipAt = s.time.lastBoundary))
  ∧ (∀ s : State, holding s = true → orderTwo s = s)
  ∧ (∀ (s : State) (n : Nat), n < 6 → bitF s F.SYS_EPOCH_STAT_DRAINING n = true → bankDrained s n = true →
    ∃ t, exec (.epochDrainComplete n) s = .next t ∧ bitF t F.SYS_EPOCH_STAT_DRAINING n = false
      ∧ (∀ m < 6, m ≠ n → bitF t F.SYS_EPOCH_STAT_DRAINING m = bitF s F.SYS_EPOCH_STAT_DRAINING m)
      ∧ getF t F.SYS_EPOCH_STAT_ACTIVE = getF s F.SYS_EPOCH_STAT_ACTIVE
      ∧ t = { s with regs := t.regs } ∧ regsKept [F.SYS_EPOCH_STAT_ACTIVE.key] s t)
  ∧ ∀ (s : State) (n : Nat), bankDrained s n = false → exec (.epochDrainComplete n) s = .next s

/-- UNIT_RESET of a unit that is not in reset opens a drain window at each of its boundaries and is answered OK.
UNIT_FENCE_SET and UNIT_FENCE_LIFT are answered OK. DRAIN_WINDOW_END acts on a boundary once it holds no request or 4
us have passed. UNIT_RESET_COMPLETE of a unit in reset lets it run again. SYS and FLT can be neither fenced nor reset.
(R15, R16, R17, R72, R83, R84) -/
def Obligations.UnitFences : Prop :=
  (∀ (s : State) (u : Nat), live s unitSYS = true → canFence s u = true → inReset s u = false →
    ∃ t, exec (.unitReset u) s = .next t ∧ t.outs.getLast? = some (.code codeOK)
      ∧ ∀ i ∈ islandsOf s.ident.variant u, (⟨u, i, true, none⟩ : Drain) ∈ t.drains)
  ∧ (∀ (s : State) (u : Nat), live s unitSYS = true → canFence s u = false →
    ∃ t, exec (.unitReset u) s = .next t ∧ t.regs = s.regs ∧ t.drains = s.drains)
  ∧ (∀ (s : State) (u : Nat), live s unitSYS = true → u < 17 →
    (∃ t, exec (.unitFenceSet u) s = .next t ∧ t.outs.getLast? = some (.code codeOK))
    ∧ ∃ t, exec (.unitFenceLift u) s = .next t ∧ t.outs.getLast? = some (.code codeOK))
  ∧ (∀ (s : State) (d : Drain), s.drains.find? (fun x => x.unit = d.unit && x.island = d.island && x.ended.isNone) = some d →
    (heldAt s d.unit d.island = [] ∨ due s (.drain d.unit d.island) = true) →
    exec (.drainWindowEnd d.unit d.island) s = .next (endWindow s d))
  ∧ ∀ (s : State) (u : Nat), bitF s F.SYS_UNIT_INRST_UNITS u = true →
    exec (.unitResetComplete u) s = .next (completeReset s u)

/-- A unit that ran before UNIT_RESET completes requests with RESET_DURING after it, and one that ran before
UNIT_FENCE_SET with FENCED. A lifted software fence leaves the unit fenced while the fault collector fences it.
Resetting the registers of a unit leaves each at its reset word, those that R357 names apart, and drops its pending
writes and its lock. (R16, R84) -/
def Obligations.FenceCodes : Prop :=
  (∀ (s : State) (u : Nat), live s unitSYS = true → canFence s u = true → live s u = true →
    (∃ t, exec (.unitReset u) s = .next t ∧ fenceCode t u = some codeRESET_DURING)
    ∧ ∃ t, exec (.unitFenceSet u) s = .next t ∧ fenceCode t u = some codeFENCED)
  ∧ (∀ (s : State) (u : Nat), faultFenced s u = true → canFence s u = true → u < 17 →
    live (liftFence s u) u = false ∧ softFenced (liftFence s u) u = false)
  ∧ ∀ (s : State) (u : Nat), u ≠ unitSYS →
    (∀ k, unitOfKey k = u → keptRegister k = false → regWord (resetRegisters s u) k = resetWord s.ident.variant k)
    ∧ (∀ c ∈ (resetRegisters s u).pendCb, unitOfKey c.key ≠ u)
    ∧ (u < 17 → bitF (resetRegisters s u) F.SYS_LOCK_LOCK u = false)
    ∧ (resetRegisters s u).mem = s.mem

/-- When a local RD of four bytes at a register of a unit that runs is executed, its initiator gets the register's word in
ascending byte order, or four zero bytes where the instance is absent; the request leaves the buffer, its tag is free,
and no window memory changes. (R2, R41, R43, R47, R53, R70) -/
def Obligations.LocalRegisterRead : Prop :=
  ∀ (s : State) (k : Nat) (r : Request) (e : TagEntry), requestAt s k .rd = some r → r.local_ = true → r.count = 4 →
    offOfAddr r.addr < 0x10000 → offOfAddr r.addr % 4 = 0 → filterOffset (unitOfAddr r.addr) (offOfAddr r.addr) = false →
    accessCode s r 4 = none → s.txn.tags.find? (fun x => x.tag = r.tag) = some e → e.op = .rd → e.count = 4 →
    e.serial = r.serial → e.pollEntry = none → s.odw.addr = [] →
    ∃ t, exec (.rd k) s = .next t
      ∧ (let p := readReg s (unitOfAddr r.addr) (offOfAddr r.addr)
        t.outs = s.outs ++ [.done e.who r.tag p.2.2
          (if p.2.2 = codeOK then leBytes 4 p.2.1.toNat else [0, 0, 0, 0])])
      ∧ t.txn.reqs = s.txn.reqs.eraseIdx k ∧ t.txn.tags = s.txn.tags.filter (fun x => x.tag ≠ r.tag)
      ∧ memKept s t ∧ t.pendCb = s.pendCb

/-- A local RD or RMW that its access rules refuse completes with the code and the requested number of zero bytes (4 or 8
for an RMW); registers, window memory and pending writes hold. (R34, R35, R42, R52, R441) -/
def Obligations.RefusedAccessDeliversZeros : Prop :=
  ∀ (s : State) (k : Nat) (r : Request) (e : TagEntry) (op : TxnOp) (code n : Nat) (c : Instr),
    (c, op) ∈ [(Instr.rd k, TxnOp.rd), (.rmwSet k, .rmwSet), (.rmwClr k, .rmwClr), (.rmwSwap k, .rmwSwap)] →
    n = (if op = .rd then r.count else if r.wide then 8 else 4) →
    requestAt s k op = some r → r.local_ = true → accessCode s r n = some code →
    s.txn.tags.find? (fun x => x.tag = r.tag) = some e → e.op = op → e.count = r.count → e.wide = r.wide →
    e.serial = r.serial → e.pollEntry = none → s.odw.addr = [] →
    ∃ t, exec c s = .next t ∧ t.outs = s.outs ++ [.done e.who r.tag code (List.replicate n 0)]
      ∧ t.regs = s.regs ∧ t.mem = s.mem ∧ t.pendCb = s.pendCb ∧ t.pendFb = s.pendFb
      ∧ t.txn.reqs = s.txn.reqs.eraseIdx k

/-- When a write to anything but the bridge is executed, its target performs it with the request's bytes. A WR_ACK then
completes with the code; a WR_POSTED that succeeds only leaves the buffer, noted as executed if it came by the ring; a local
one that fails is entered in the posted-fault log with its code, one from the ring is answered with a POST_FAULT. (R32, R41,
R47, R56, R57, R441) -/
def Obligations.WritesComplete : Prop :=
  (∀ (s t : State) (k code : Nat) (r : Request), requestAt s k .wrAck = some r → accessCode s r r.count = none →
    inBridge s (unitOfAddr r.addr) (offOfAddr r.addr) = false → writeTarget s r = (t, code) → k < t.txn.reqs.length →
    exec (.wrAck k) s
      = .next (completeRequest (t.withTxn { t.txn with reqs := t.txn.reqs.eraseIdx k }) r code []))
  ∧ (∀ (s t : State) (k : Nat) (r : Request), requestAt s k .wrPosted = some r → accessCode s r r.count = none →
    inBridge s (unitOfAddr r.addr) (offOfAddr r.addr) = false → writeTarget s r = (t, codeOK) → k < t.txn.reqs.length →
    exec (.wrPosted k) s = .next (noteExecuted (t.withTxn { t.txn with reqs := t.txn.reqs.eraseIdx k }) r))
  ∧ (∀ (s : State) (k code : Nat) (r : Request), requestAt s k .wrPosted = some r → r.local_ = true →
    accessCode s r r.count = some code → flag s F.SYS_PFL_CFG_MQ_EN = false →
    ∃ t, exec (.wrPosted k) s = .next t ∧ t.txn.reqs = s.txn.reqs.eraseIdx k
      ∧ getF t F.SYS_PFL_TOTAL_TOTAL = (getF s F.SYS_PFL_TOTAL_TOTAL + 1) % 2 ^ 32 ∧ t.outs = s.outs
      ∧ memKeptBut (keyOf unitSYS (0x10000 + 16 * getF s F.SYS_PFL_STAT_WR_IDX)) 16 s t)
  ∧ ∀ (s : State) (k code : Nat) (r : Request), requestAt s k .wrPosted = some r → r.local_ = false →
    accessCode s r r.count = some code →
    exec (.wrPosted k) s
      = .next (sendPostFault (noteExecuted (s.withTxn { s.txn with reqs := s.txn.reqs.eraseIdx k }) r) r code)

/-- An RMW whose read and write both succeed writes old OR mask, old AND NOT mask, or the value, and completes OK with the
old word; where the write is refused it completes with the code and has written nothing. (R41, R44, R441) -/
def Obligations.ReadModifyWrite : Prop :=
  (∀ (old m i : Nat), (rmwWord .rmwSet old m).testBit i = (old.testBit i || m.testBit i)
    ∧ (rmwWord .rmwClr old m).testBit i = (old.testBit i && !m.testBit i) ∧ rmwWord .rmwSwap old m = m)
  ∧ ∀ (s t t' : State) (k c : Nat) (r : Request) (op : TxnOp) (old : List Byte) (i : Instr),
    (i, op) ∈ [(Instr.rmwSet k, TxnOp.rmwSet), (.rmwClr k, .rmwClr), (.rmwSwap k, .rmwSwap)] →
    requestAt s k op = some r →
    let n := if r.wide then 8 else 4
    accessCode s r n = none → readAt s (unitOfAddr r.addr) (offOfAddr r.addr) n false = (t, old, codeOK) →
    writeAt t r.who (unitOfAddr r.addr) (offOfAddr r.addr) (leBytes n (rmwWord op (ofLe (padTo n old)) (ofLe (padTo n r.data))))
      = (t', c) →
    exec i s = .next (if c = codeOK then finishRequest t' k r codeOK old else finishRequest s k r c [])

/-- A FENCE that names a unit or an offset completes with ADDR_ERROR; any other waits, and nothing completes it while an
earlier request of its source and side stands in the buffer. Released, one of this hub completes OK; one of a ring station
completes LOSS_OBSERVED if the loss flag of that source is set, which clears it, and OK otherwise. (R42, R58, R59) -/
def Obligations.Fences : Prop :=
  (∀ (s : State) (k : Nat) (r : Request), s.txn.reqs[k]? = some r → r.op = .fence → r.waiting = false → txnRuns s = true →
    exec (.fence k) s = .next (if unitOfAddr r.addr ≠ 0 ∨ offOfAddr r.addr ≠ 0 then
        completeRequest (s.withTxn { s.txn with reqs := s.txn.reqs.eraseIdx k }) r codeADDR_ERROR []
      else s.withTxn { s.txn with reqs := s.txn.reqs.set k { r with waiting := true } }))
  ∧ (∀ (s : State) (k : Nat) (r x : Request), s.txn.reqs[k]? = some r → r.op = .fence → x ∈ s.txn.reqs.take k →
    sameSource x r = true → exec (.fenceRelease k) s = .next s)
  ∧ (∀ (s : State) (k : Nat) (r : Request), s.txn.reqs[k]? = some r → r.op = .fence → r.waiting = true →
    mayExecute s k r = true → r.local_ = true →
    exec (.fenceRelease k) s
      = .next (completeLocal (s.withTxn { s.txn with reqs := s.txn.reqs.eraseIdx k }) r codeOK []))
  ∧ ∀ (s : State) (k : Nat) (r : Request), s.txn.reqs[k]? = some r → r.op = .fence → r.waiting = true →
    mayExecute s k r = true → r.local_ = false →
    exec (.fenceRelease k) s = .next (sendResponse
        (noteExecuted ((setSeqRx s { seqRxOf s r.node r.side with loss := false }).withTxn
          { (setSeqRx s { seqRxOf s r.node r.side with loss := false }).txn with
            reqs := s.txn.reqs.eraseIdx k }) r)
        r (if (seqRxOf s r.node r.side).loss then codeLOSS_OBSERVED else codeOK) [])
    ∧ (seqRxOf (setSeqRx s { seqRxOf s r.node r.side with loss := false }) r.node r.side).loss = false

/-- With a tag free and nothing waiting, a request to node 255 that is no WR_POSTED, and one to node 0 that names the other
side, complete with ADDR_ERROR and leave nothing in the hub; a request to node 0, or to the own node that this hub executes,
enters the own engine's buffer; every other one is sent, and the tag number of a posted write is taken while its frame is in
the hub. With no tag free the management complex and the service port wait, in their order, and Junction and poller do
nothing. TAG_GRANT issues the first waiting request that may take a tag. (R29, R30, R41, R47, R48, R64) -/
def Obligations.IssueByNodeField : Prop :=
  (∀ (s : State) (who : Origin) (t : TxnSpec) (tag : Nat), txnRuns s = true → who ∈ [.mgt, .svc, .jct, .pol] →
    1 ≤ t.count → t.count ≤ 256 → t.data.length ≤ 256 → s.txn.waiting = [] → pickTag s who = some tag → s.odw.addr = [] →
    (∀ e ∈ s.txn.tags, e.tag ≠ tag) → t.op ≠ .wrPosted →
    (nodeOfAddr t.addr = 255 ∨ (nodeOfAddr t.addr = 0 ∧ t.x = true ∧ t.ts ≠ s.dev.side)) →
    ∃ u, exec (.txnIssue who t) s = .next u ∧ u.txn.reqs = s.txn.reqs ∧ u.txn.tags = s.txn.tags ∧ u.plaza = s.plaza
      ∧ u.outs = s.outs ++ [.done who tag codeADDR_ERROR (List.replicate (responseLen t.op t.count t.wide) 0)])
  ∧ (∀ (s : State) (who : Origin) (t : TxnSpec) (tag : Nat), txnRuns s = true → who ∈ [.mgt, .svc, .jct, .pol] →
    1 ≤ t.count → t.count ≤ 256 → t.data.length ≤ 256 → s.txn.waiting = [] → pickTag s who = some tag →
    targetsSelf s t = true → nodeOfAddr t.addr ≠ 255 → (nodeOfAddr t.addr = 0 → t.x = true → t.ts = s.dev.side) →
    isReserved t.op = false →
    ∃ u r, exec (.txnIssue who t) s = .next u ∧ u.txn.reqs = s.txn.reqs ++ [r] ∧ r.op = t.op ∧ r.addr = t.addr
      ∧ r.data = t.data ∧ r.count = t.count ∧ r.tag = tag ∧ r.who = who ∧ r.local_ = true ∧ u.plaza = s.plaza
      ∧ u.outs = s.outs
      ∧ (t.op ≠ .wrPosted → u.txn.tags = s.txn.tags ++ [⟨tag, who, t.op, t.addr, t.count, t.wide, none, r.serial⟩])
      ∧ (t.op = .wrPosted → u.txn.tags = s.txn.tags))
  ∧ (∀ (s : State) (who : Origin) (t : TxnSpec) (tag : Nat), txnRuns s = true → who ∈ [.mgt, .svc, .jct, .pol] →
    1 ≤ t.count → t.count ≤ 256 → t.data.length ≤ 256 → s.txn.waiting = [] → pickTag s who = some tag →
    targetsSelf s t = false → (nodeOfAddr t.addr = 255 → t.op = .wrPosted) →
    let p := { t with prefetch := t.prefetch && (who = .mgt || who = .svc) && t.op = .rd }
    let u := s.withFresh (s.fresh + 1)
    let e : TagEntry := ⟨tag, who, t.op, t.addr, t.count, t.wide, none, s.fresh + 1⟩
    let v := sendRequest u who tag p
    (t.op ≠ .wrPosted → exec (.txnIssue who t) s = .next (sendRequest
      (startTimer (u.withTxn { s.txn with tags := s.txn.tags ++ [e] }) (.txn tag) (txnTimeoutTicks s)) who tag p))
    ∧ (t.op = .wrPosted → exec (.txnIssue who t) s = .next (if v.plaza.nextFid = s.plaza.nextFid then v
      else v.withTxn { v.txn with posted := heldPosted v ++ [⟨tag, who, s.plaza.nextFid, v.plaza.nextFid⟩] })))
  ∧ (∀ (s : State) (who : Origin) (t : TxnSpec), txnRuns s = true → who ∈ [.mgt, .svc, .jct, .pol] →
    1 ≤ t.count → t.count ≤ 256 → t.data.length ≤ 256 → s.txn.waiting = [] → pickTag s who = none →
    exec (.txnIssue who t) s = .next (if who = .mgt ∨ who = .svc then
      s.withTxn { s.txn with waiting := [(who, t)] } else s))
  ∧ (∀ (s : State) (who : Origin) (t : TxnSpec), txnRuns s = true → who ∈ [.mgt, .svc] →
    1 ≤ t.count → t.count ≤ 256 → t.data.length ≤ 256 → (grantWaiting s).txn.waiting.any (fun w => w.1 = who) = true →
    exec (.txnIssue who t) s = .next ((grantWaiting s).withTxn
      { (grantWaiting s).txn with waiting := (grantWaiting s).txn.waiting ++ [(who, t)] }))
  ∧ ∀ (s u : State) (who : Origin) (t : TxnSpec) (rest : List (Origin × TxnSpec)), txnRuns s = true →
    s.txn.waiting = (who, t) :: rest → tryIssue (s.withTxn { s.txn with waiting := rest }) who t none = some u →
    exec .tagGrant s = .next u

/-- TXN_REQ_RECEIVE and HELD_REQUEST_ADMIT take the oldest held TXN_REQ, and one that waits in Plaza for its place moves up.
The expected number becomes the one after it
unless it lies behind, and the loss flag is set unless the number is the expected one. A request that this hub does
not execute leaves the buffer, Plaza and what goes out as they are; one that it executes, over an encrypted segment or
an open ring, enters the buffer. With no room for it or its refusal it stays held. (R30, R52, R54, R63, R64) -/
def Obligations.RingRequestsTracked : Prop :=
  (∀ (s : State) (c : Instr) (l : LocalFrame) (rest : List LocalFrame), c ∈ [Instr.txnReqReceive, .heldRequestAdmit] →
    txnRuns s = true → s.ring.heldReq = l :: rest → requestsHeld s < 128 → l.frame.destNode ≠ 255 →
    executes s (requestOf l) = true → isReserved (requestOf l).op = false →
    l.frame.destUnit.toNat = unitOfAddr (requestOf l).addr → (l.frame.clr = false ∨ openRing s = true) →
    let r := requestOf l
    let n := BitVec.ofNat 16 (tsBits l.frame 16 16)
    let e := seqRxOf s r.node r.side
    (e.own = none ∨ ∃ x, e.own = some x ∧ (n - x).toNat < 32768) →
    ∃ t, exec c s = .next t ∧ t.ring = (refillRequests (s.withRing { s.ring with heldReq := rest })).ring
      ∧ (s.ring.waitReq = [] → t.ring.heldReq = rest) ∧ t.txn.reqs = s.txn.reqs ++ [r]
      ∧ (seqRxOf t r.node r.side).own = some (n + 1)
      ∧ (seqRxOf t r.node r.side).loss = (e.loss || decide (e.own ≠ some n)) ∧ t.outs = s.outs)
  ∧ (∀ (s : State) (c : Instr) (l : LocalFrame) (rest : List LocalFrame), c ∈ [Instr.txnReqReceive, .heldRequestAdmit] →
    txnRuns s = true → s.ring.heldReq = l :: rest → requestRoom s = true → executes s (requestOf l) = false →
    ∃ t, exec c s = .next t ∧ t.ring = (refillRequests (s.withRing { s.ring with heldReq := rest })).ring
      ∧ t.txn.reqs = s.txn.reqs ∧ t.plaza = s.plaza ∧ t.outs = s.outs)
  ∧ (∀ (s : State) (c : Instr) (l : LocalFrame) (rest : List LocalFrame), c ∈ [Instr.txnReqReceive, .heldRequestAdmit] →
    txnRuns s = true → s.ring.heldReq = l :: rest → requestRoom s = true → executes s (requestOf l) = true →
    l.frame.destNode ≠ 255 → l.frame.clr = true → openRing s = false →
    (∀ x, (seqRxOf s (requestOf l).node (requestOf l).side).own = some x →
      (BitVec.ofNat 16 (tsBits l.frame 16 16) - x).toNat < 32768) →
    ∃ u, exec c s = .next (completeRequest u (requestOf l) codeACCESS_DENIED []) ∧ u.txn.reqs = s.txn.reqs)
  ∧ ∀ (s : State) (c : Instr), c ∈ [Instr.txnReqReceive, .heldRequestAdmit] → requestRoom s = false → exec c s = .next s

/-- A TXN_RSP for this side that matches an outstanding tag by tag, initiator and address completes it with its code and
data; one that matches none is counted late; one for the other side has no effect. A POST_FAULT for this side is
logged at the next entry, counted in total and for its initiator. (R50, R55, R57, R67) -/
def Obligations.ResponsesMatched : Prop :=
  (∀ (s : State) (l : LocalFrame) (e : TagEntry), s.ring.held.find? (fun x => x.frame.type = tyTXN_RSP) = some l →
    txnRuns s = true → forThisSide s l.frame = true → s.odw.addr = [] →
    s.txn.tags.find? (fun x => x.tag = bitsAt l.frame.tsOrTxn.toNat 56 8
      && initiatorOf x.who = bitsAt l.frame.tsOrTxn.toNat 48 8 && x.addr.toNat = bitsAt l.frame.tsOrTxn.toNat 0 48) = some e →
    (∀ x ∈ s.txn.tags, x.tag = e.tag → x = e) → e.op ≠ .fence → e.pollEntry = none →
    ∃ t, exec .txnRspReceive s = .next t ∧ t.ring.held = s.ring.held.erase l
      ∧ t.txn.tags = s.txn.tags.filter (fun x => x.tag ≠ e.tag)
      ∧ t.outs = s.outs ++ [.done e.who e.tag (tsBits l.frame 44 4)
          (responseData e.op e.count e.wide (tsBits l.frame 44 4) l.frame.payload)])
  ∧ (∀ (s : State) (l : LocalFrame), s.ring.held.find? (fun x => x.frame.type = tyTXN_RSP) = some l →
    txnRuns s = true → forThisSide s l.frame = true →
    s.txn.tags.find? (fun x => x.tag = bitsAt l.frame.tsOrTxn.toNat 56 8
      && initiatorOf x.who = bitsAt l.frame.tsOrTxn.toNat 48 8 && x.addr.toNat = bitsAt l.frame.tsOrTxn.toNat 0 48) = none →
    ∃ t, exec .txnRspReceive s = .next t ∧ t.txn.tags = s.txn.tags ∧ t.outs = s.outs
      ∧ getF t F.SYS_TXN_LATE_COUNT = (getF s F.SYS_TXN_LATE_COUNT + 1) % 2 ^ 32)
  ∧ (∀ (s : State) (l : LocalFrame), s.ring.held.find? (fun x => x.frame.type = tyTXN_RSP) = some l →
    forThisSide s l.frame = false →
    exec .txnRspReceive s = .next (s.withRing { s.ring with held := s.ring.held.erase l }))
  ∧ ∀ (s : State) (l : LocalFrame), s.ring.held.find? (fun x => x.frame.type = tyPOST_FAULT) = some l →
    txnRuns s = true → forThisSide s l.frame = true → flag s F.SYS_PFL_CFG_MQ_EN = false →
    ∃ t, exec .postFaultReceive s = .next t
      ∧ getF t F.SYS_PFL_TOTAL_TOTAL = (getF s F.SYS_PFL_TOTAL_TOTAL + 1) % 2 ^ 32
      ∧ getF t F.SYS_PFL_STAT_WR_IDX = (getF s F.SYS_PFL_STAT_WR_IDX + 1) % 64
      ∧ memKeptBut (keyOf unitSYS (0x10000 + 16 * getF s F.SYS_PFL_STAT_WR_IDX)) 16 s t
      ∧ memNat t (keyOf unitSYS (0x10000 + 16 * getF s F.SYS_PFL_STAT_WR_IDX) + 2) 1 = bitsAt l.frame.tsOrTxn.toNat 56 8
      ∧ (∀ i < 4, getF t (F.SYS_PFL_CNT_COUNT i) = if bitsAt l.frame.tsOrTxn.toNat 48 8 = i + 1
          then (getF s (F.SYS_PFL_CNT_COUNT i) + 1) % 2 ^ 32 else getF s (F.SYS_PFL_CNT_COUNT i))

/-- TXN_TIMEOUT of an outstanding tag whose time has passed completes its request with TIMEOUT and zero data and holds the
tag out of use for one more timeout period; TAG_HOLDOUT_END then lets it be used again. Neither acts before its time.
(R49, R441) -/
def Obligations.TagTimeouts : Prop :=
  (∀ (s : State) (e : TagEntry), s.txn.tags.find? (fun x => x.tag = e.tag) = some e → due s (.txn e.tag) = true →
    e.pollEntry = none → s.odw.addr = [] →
    ∃ t, exec (.txnTimeout e.tag) s = .next t ∧ t.txn.tags = s.txn.tags.filter (fun x => x.tag ≠ e.tag)
      ∧ e.tag ∈ t.txn.holdout ∧ lookupKey (.holdout e.tag) t.timers = some (s.mono + txnTimeoutTicks s)
      ∧ t.outs = s.outs ++ [.done e.who e.tag codeTIMEOUT (List.replicate (responseLen e.op e.count e.wide) 0)]
      ∧ t.regs = s.regs ∧ t.mem = s.mem)
  ∧ (∀ (s : State) (tag : Nat), due s (.txn tag) = false → exec (.txnTimeout tag) s = .next s)
  ∧ (∀ (s : State) (tag : Nat), due s (.holdout tag) = true →
    ∃ t, exec (.tagHoldoutEnd tag) s = .next t ∧ tag ∉ t.txn.holdout ∧ (∀ x ≠ tag, x ∈ s.txn.holdout → x ∈ t.txn.holdout)
      ∧ t = { s with txn := t.txn, timers := t.timers })
  ∧ ∀ (s : State) (tag : Nat), due s (.holdout tag) = false → exec (.tagHoldoutEnd tag) s = .next s

/-- The transfer that runs on an I2C bus completes OK with the bytes read, with ADDR_ERROR for a device that does not
acknowledge, with ACCESS_DENIED for a data byte that is not acknowledged, with REFUSED_BUSY after three lost
arbitrations and with TIMEOUT, nine clocks and a stop, beyond the stretch limit, and is counted so; an MDIO transfer
completes OK, or a read of a PHY that does not drive with ADDR_ERROR. (R39, R40, R68) -/
def Obligations.BridgeCodes : Prop :=
  ∀ (s : State) (bus k lost heldUs : Nat) (r : Request) (data : List Byte) (v : BitVec 16),
    (bus < 16 → onBus s bus = some (k, r) →
      (let u := addF s F.I2B_ARB_CNT_COUNT (min 2 lost)
      exec (.i2cTransferComplete bus ⟨.done, lost⟩ data) s = .next (finishRequest u k r codeOK data)
      ∧ exec (.i2cTransferComplete bus ⟨.addrNack, lost⟩ data) s
        = .next (finishRequest (incF u F.I2B_NACK_CNT_COUNT) k r codeADDR_ERROR [])
      ∧ exec (.i2cTransferComplete bus ⟨.dataNack, lost⟩ data) s
        = .next (finishRequest (incF u F.I2B_NACK_CNT_COUNT) k r codeACCESS_DENIED []))
      ∧ exec (.i2cTransferComplete bus ⟨.arbLost3, lost⟩ data) s
        = .next (finishRequest (addF s F.I2B_ARB_CNT_COUNT 3) k r codeREFUSED_BUSY [])
      ∧ exec (.i2cStretchTimeout ⟨bus, heldUs⟩) s
        = .next (if 10 * max 1 (getF s (F.I2B_BUS_CFG_STRETCH_MAX bus)) < heldUs then
            finishRequest (output (incF s F.I2B_STRETCH_CNT_COUNT) (.i2cStop bus 9)) k r codeTIMEOUT [] else s))
    ∧ (bus < 2 → onBus s (16 + bus) = some (k, r) →
      (r.op = .rd → exec (.mdioTransferComplete bus false v) s = .next (finishRequest s k r codeADDR_ERROR []))
      ∧ exec (.mdioTransferComplete bus true v) s = .next (finishRequest s k r codeOK (beBytes 2 v.toNat))
      ∧ (r.op ≠ .rd → ∀ driven, exec (.mdioTransferComplete bus driven v) s
          = .next (finishRequest s k r codeOK (beBytes 2 v.toNat))))

/-- EN set brings a Down port to Cap once the hub lets its ring ports run, and EN cleared brings every port Down; RETRAIN
leads any other state to Cap and waits in Down. 100 ms in Cap, 2 ms in Relock and 100 ms in FrTrain lead to a new Cap;
lock regained in Relock, and training completed with 1 ms free of errors, lead Up; loss of lock takes Up to Relock. 10 ms in
Step lead back to the previous rate, to be verified again. (R95, R97, R98, R100, R102, R105) -/
def Obligations.BringUpStates : Prop :=
  (∀ (s : State) (p : Nat), live s unitRNG = true → hasPort s p = true → buState s p = buDown → portsAllowed s = true →
    ∃ t, exec (.ringPortEnable p) s = .next t ∧ buState t p = buCap ∧ buRate t p = 0
      ∧ flag t (F.RNG_PORT_CFG_EN p) = true ∧ lookupKey (.cap p) t.timers = some (s.mono + 100 * ticksMs))
  ∧ (∀ (s : State) (p : Nat), live s unitRNG = true → hasPort s p = true → ∃ t, exec (.ringPortDisable p) s = .next t
      ∧ buState t p = buDown ∧ (buState s p ≠ buDown → flag t (F.RNG_PORT_STAT_ENC p) = false))
  ∧ (∀ (s : State) (p : Nat), live s unitRNG = true → hasPort s p = true → ∃ t, exec (.retrain p) s = .next t
      ∧ buState t p = (if buState s p = buDown then buDown else buCap)
      ∧ flag t (F.RNG_PORT_CTL_RETRAIN p) = decide (buState s p = buDown))
  ∧ (∀ (s : State) (p : Nat), hasPort s p = true → buState s p = buCap → due s (.cap p) = true →
    ∃ t, exec (.capTimeout p) s = .next t ∧ buState t p = buCap
      ∧ lookupKey (.cap p) t.timers = some (s.mono + 100 * ticksMs))
  ∧ (∀ (s : State) (p : Nat), hasPort s p = true → buState s p = buRelock → due s (.relock p) = true →
    ∃ t, exec (.relockTimeout p) s = .next t ∧ buState t p = buCap ∧ getF t (F.RNG_PORT_BRINGUP_REASON p)
      = if (portSt s p).ended then getF s (F.RNG_PORT_BRINGUP_REASON p) else 1)
  ∧ (∀ (s : State) (p : Nat), live s unitRNG = true → hasPort s p = true → buState s p = buRelock →
    due s (.relock p) = false → ∃ t, exec (.relockDone p) s = .next t ∧ buState t p = buUp ∧ buRate t p = buRate s p)
  ∧ (∀ (s : State) (p : Nat), live s unitRNG = true → p < 2 → buState s p = buFrTrain → due s (.verify p) = true →
    ∃ t, exec (.frTrainComplete p) s = .next t ∧ buState t p = buUp ∧ buRate t p = buRate s p)
  ∧ (∀ (s : State) (p : Nat), due s (.verify p) = false → exec (.frTrainComplete p) s = .next s)
  ∧ (∀ (s : State) (p : Nat), p < 2 → buState s p = buFrTrain → due s (.frTrain p) = true →
    ∃ t, exec (.frTrainTimeout p) s = .next t ∧ buState t p = buCap ∧ getF t (F.RNG_PORT_BRINGUP_REASON p)
      = if (portSt s p).ended then getF s (F.RNG_PORT_BRINGUP_REASON p) else 8)
  ∧ (∀ (s : State) (p : Nat) (cause : LockCause), live s unitRNG = true → hasPort s p = true → buState s p = buUp →
    (cause = .los → p < 2) → ∃ t, exec (.lossOfLock p cause) s = .next t ∧ buState t p = buRelock ∧ wordLock t p = false
      ∧ lookupKey (.relock p) t.timers = some (s.mono + 2 * ticksMs))
  ∧ (∀ (s : State) (p : Nat), hasPort s p = true → buState s p = buStep → due s (.stepLimit p) = true →
    ∃ t, exec (.stepFallback p) s = .next t ∧ buState t p = buStep ∧ buRate t p = (portSt s p).prevRate % 4
      ∧ getF t (F.RNG_PORT_FALLBACK_COUNT p) = (getF s (F.RNG_PORT_FALLBACK_COUNT p) + 1) % 2 ^ 32
      ∧ (portSt t p).falling = true ∧ (portSt t p).verified = false)
  ∧ ∀ (s : State) (p : Nat), hasPort s p = true → buState s p = buStep → due s (.verify p) = true →
    (portSt s p).falling = false → peerCapState s p < 3 →
    ∃ t, exec (.stepVerifyDone p) s = .next t ∧ (portSt t p).verified = true ∧ (portSt t p).ownState = 3
      ∧ buState t p = buStep ∧ t.regs = s.regs

/-- A well-formed capability word with TWIN_LINK different from the port's own kind gives reason CAP_MISMATCH, one with
VERSION 0 on a port with FR_ALLOW = 0 gives FR_REFUSED; in both cases the port stays in Cap, and after 100 ms it
enters Cap anew for another 100 ms with the reason standing. (R101) -/
def Obligations.CapabilityMismatch : Prop :=
  ∀ (s : State) (p : Nat) (w : BitVec 64), live s unitRNG = true → hasPort s p = true → wordLock s p = true →
    buState s p = buCap → bitsAt w.toNat 48 16 = 0xCA9B → crc8Ok w.toNat = true →
    (w.getLsbD 38 ≠ decide (p = 2)
      ∨ (bitsAt w.toNat 44 4 = 0 ∧ flag s (F.RNG_PORT_CFG_FR_ALLOW p) = false)) →
    ∃ t, exec (.capabilityWordReceive p w) s = .next t ∧ buState t p = buCap
      ∧ getF t (F.RNG_PORT_BRINGUP_REASON p) = (if w.getLsbD 38 ≠ decide (p = 2) then 6 else 7)
      ∧ ∀ u : State, u.regs = t.regs → u.ring = t.ring → u.ident = t.ident → due u (.cap p) = true →
        ∃ v, exec (.capTimeout p) u = .next v ∧ buState v p = buCap
          ∧ lookupKey (.cap p) v.timers = some (u.mono + 100 * ticksMs)
          ∧ getF v (F.RNG_PORT_BRINGUP_REASON p) = getF t (F.RNG_PORT_BRINGUP_REASON p)

/-- What the line code does is undone by the receiver: descrambling, destuffing without a violation, joining the lanes. A frame
is placed in free slots, and no more than 7,944 of a marker period carry frames. A good marker in its place counts towards
word lock, or begins to; at differing COUNTs of both lanes an Up port loses lock; more skew than 32 words ends a bring-up with
DESKEW; a bad marker on a lane without lock is counted and begins anew, and stuffing violations are counted. A capability word
of a native peer in Cap is noted, and STATE goes from 0 to 1. A bad SOF is counted and starts discarding. A coefficient
request is answered, and moves the taps only to taps within their ranges. (R87, R88, R89, R90, R92, R93, R94, R95, R96, R97,
R99, R105) -/
def Obligations.MarkersAndWords : Prop :=
  (∀ (st : Nat) (bits : List Bool), (scramble st (scramble st bits).1).1 = bits)
  ∧ (∀ (r : Run) (bits : List Bool), r.2 < 40 → destuff r (stuff r bits).1 = (bits, 0, (stuff r bits).2))
  ∧ (∀ ws : List (BitVec 64), joinLanes (laneShare 0 ws) (laneShare 1 ws) = ws)
  ∧ (∀ (tx : LineTx) (rate now n : Nat), n ≤ periodFrames → tx.used ≤ periodFrames →
    let x := placeFrame tx rate now n
    tx.next ≤ x.1 ∧ x.1 + n ≤ x.2.1.next ∧ x.2.1.used ≤ periodFrames)
  ∧ (∀ (s : State) (p lane skew : Nat) (line : List Bool) (at_ : Bool), live s unitRNG = true → hasPort s p = true →
    lane < 2 → buState s p ≠ buDown →
    let l := laneRx s p lane
    let d := destuff l.run (line.map (fun b => b != bitF s (F.RNG_PORT_CFG_RX_POL p) lane))
    let w := (lastWord d.1).toNat
    let count := bitsAt w 8 12
    let l' := { laneAfter l count at_ with run := d.2.2 }
    let u := setLaneRx s p lane l'
    64 ≤ d.1.length → isMarker w = true → (at_ = true ∨ l.good < 3) →
    ∃ t, exec (.markerReceive p lane line at_ skew) s = .next t
      ∧ getF t (F.RNG_PORT_STUFF_ERR_COUNT p) = (getF s (F.RNG_PORT_STUFF_ERR_COUNT p) + d.2.1) % 2 ^ 32
      ∧ (countsDiffer u p = false → (skew ≤ 32 ∨ wordLock u p = false) → laneRx t p lane = l' ∧ l'.bad = 0
          ∧ l'.lastCount = some count ∧ l'.good = (if 3 ≤ l.good then l.good
            else if l.lastCount = some ((count + 4095) % 4096) ∧ at_ = true then l.good + 1 else 1))
      ∧ (countsDiffer u p = true → buState s p = buUp → buState t p = buRelock ∧ wordLock t p = false)
      ∧ (countsDiffer u p = false → wordLock u p = true → 32 < skew → buState s p ≠ buUp →
          getF t (F.RNG_PORT_BRINGUP_REASON p) = 3 ∧ (portSt t p).ended = true ∧ wordLock t p = false))
  ∧ (∀ (s : State) (p lane skew : Nat) (line : List Bool) (at_ : Bool), live s unitRNG = true → hasPort s p = true →
    lane < 2 → buState s p ≠ buDown →
    let l := laneRx s p lane
    let d := destuff l.run (line.map (fun b => b != bitF s (F.RNG_PORT_CFG_RX_POL p) lane))
    l.good < 3 → (d.1.length < 64 ∨ isMarker (lastWord d.1).toNat = false) →
    ∃ t, exec (.markerReceive p lane line at_ skew) s = .next t ∧ laneRx t p lane = { LaneRx.reset with run := d.2.2 }
      ∧ getF t (F.RNG_PORT_MKR_ERR_COUNT p) = (getF s (F.RNG_PORT_MKR_ERR_COUNT p) + 1) % 2 ^ 32
      ∧ getF t (F.RNG_PORT_STUFF_ERR_COUNT p) = (getF s (F.RNG_PORT_STUFF_ERR_COUNT p) + d.2.1) % 2 ^ 32
      ∧ regsKept [(F.RNG_PORT_MKR_ERR_COUNT p).key, (F.RNG_PORT_STUFF_ERR_COUNT p).key] s t)
  ∧ (∀ (s : State) (p : Nat) (w : BitVec 64), live s unitRNG = true → hasPort s p = true → wordLock s p = true →
    buState s p = buCap → (portSt s p).ended = false →
    bitsAt w.toNat 48 16 = 0xCA9B → crc8Ok w.toNat = true → w.getLsbD 38 = decide (p = 2) →
    bitsAt w.toNat 44 4 ≠ 0 → bitsAt w.toNat 24 4 = 0 → (portSt s p).ownState = 0 →
    ∃ t, exec (.capabilityWordReceive p w) s = .next t ∧ (portSt t p).ownState = 1 ∧ (portSt t p).peerCap = some w
      ∧ buState t p = buCap ∧ getF t (F.RNG_PORT_STAT_PEER_NODE p) = bitsAt w.toNat 28 8)
  ∧ (∀ (s : State) (p word : Nat), live s unitRNG = true → hasPort s p = true → buState s p ∈ [buUp, buStep, buFrTrain] →
    wordAllowed (word % 2 ^ 64) = false → ∃ t, exec (.badSof p word) s = .next t ∧ (portSt t p).discarding = true
      ∧ getF t (F.RNG_PORT_SOF_ERR_COUNT p) = (getF s (F.RNG_PORT_SOF_ERR_COUNT p) + 1) % 2 ^ 32
      ∧ regsKept [(F.RNG_PORT_SOF_ERR_COUNT p).key] s t ∧ t = { s with regs := t.regs, ring := t.ring, timers := t.timers }
      ∧ (buState s p = buUp → t.timers = s.timers))
  ∧ ∀ (s : State) (p lane : Nat) (tap : FrTap) (req : FrReq), live s unitRNG = true → p < 2 → lane < 2 →
    buState s p = buFrTrain → ∃ t status, exec (.frCoeffRequest p lane tap req) s = .next t
      ∧ t.outs = s.outs ++ [.frAnswer p lane status] ∧ regsKept [(F.RNG_LANE_EQ_TX_TAPS (2 * p + lane)).key] s t
      ∧ t = { s with regs := t.regs, outs := t.outs } ∧ (req = .hold → t.regs = s.regs ∧ status = 0)
      ∧ ((req = .increment ∨ req = .decrement) → status ≠ 0 → t.regs = s.regs)
      ∧ ((req = .increment ∨ req = .decrement) → status = 0 →
          tapsOk tap (tapsOf t (2 * p + lane)).1 (tapsOf t (2 * p + lane)).2.1 (tapsOf t (2 * p + lane)).2.2 = true)

/-- A new MODE is taken with every link of the lane down, and the ports that the lane had are flushed, whatever their state. A
link that comes up with what the mode refuses is only counted; else the lane shows it, and a Down port whose MAC is enabled
enters Hold. A lost link flushes an Up port and takes a port in Hold Down; the loss of the lane's clock or synchronisation takes
every link of it. After the flush a port enters Hold if its link is up, else Down; Hold ends Up when its time has passed.
(R104, R106, R108, R166, R172) -/
def Obligations.AccessLinks : Prop :=
  (∀ (s : State) (lane : Nat) (mode : BitVec 3), live s unitACC = true → lane < s.ident.variant.accLanes →
    laneMode s lane ≠ mode.toNat →
    ∃ t, exec (.laneModeChange lane mode) s = .next t ∧ laneMode t lane = mode.toNat
      ∧ (∀ k < 4, bitF t (F.ACC_LANE_STAT_LINK lane) k = false)
      ∧ ∀ k < 4, portState t (4 * lane + k) = if k < modePorts (laneMode s lane) then psFlushing else portState s (4 * lane + k))
  ∧ (∀ (s : State) (lane : Nat) (mode : BitVec 3), live s unitACC = true → lane < s.ident.variant.accLanes →
    ∃ t, exec (.laneModeChange lane mode) s = .next t ∧ laneMode t lane = mode.toNat)
  ∧ (∀ (s : State) (p speed : Nat) (full : Bool) (pp : BitVec 2), live s unitACC = true → portInMode s p = true →
    (modeSpeed (laneMode s (p / 4)) speed = false ∨ full = false) →
    exec (.accessLinkUp p speed full pp) s = .next (incF s (F.ACC_LANE_ERR_COUNT (p / 4))))
  ∧ (∀ (s : State) (p speed : Nat) (pp : BitVec 2), live s unitACC = true → portInMode s p = true →
    modeSpeed (laneMode s (p / 4)) speed = true → ∃ t, exec (.accessLinkUp p speed true pp) s = .next t
      ∧ bitF t (F.ACC_LANE_STAT_LINK (p / 4)) (p % 4) = true ∧ memKept s t
      ∧ (flag s (F.ACC_MAC_CFG_EN p) = true → portState s p = psDown → portState t p = psHold
          ∧ lookupKey (.hold p) t.timers
            = some (s.mono + ticksUs * max 1 (getF s F.PLZ_TIME_CFG_HOLD_US))))
  ∧ (∀ (s : State) (p codeErrs : Nat) (how : LinkLoss), p < s.ident.variant.accPorts →
    ∃ t, exec (.accessLinkDown ⟨p, how, codeErrs⟩) s = .next t
      ∧ bitF t (F.ACC_LANE_STAT_LINK (p / 4)) (p % 4) = false
      ∧ ((how = .cdr ∨ how = .sync) → ∀ k < 4, bitF t (F.ACC_LANE_STAT_LINK (p / 4)) k = false)
      ∧ getF t (F.ACC_LANE_ERR_COUNT (p / 4)) = (getF s (F.ACC_LANE_ERR_COUNT (p / 4)) + codeErrs) % 2 ^ 32
      ∧ (portState s p = psUp → portState t p = psFlushing) ∧ (portState s p = psHold → portState t p = psDown)
      ∧ (portState s p = psDown → portState t p = psDown))
  ∧ (∀ (s : State) (p : Nat), p < 96 → portState s p = psFlushing → ∃ t, exec (.flushDone p) s = .next t
      ∧ portState t p = if linkUp s p then psHold else psDown)
  ∧ (∀ (s : State) (p : Nat), 96 ≤ p → p < 104 → portState s p = psFlushing → ∃ t, exec (.flushDone p) s = .next t
      ∧ portState t p = if live s (internalUnit p) && !(p = 98 && s.dev.mgtRestart) then psUp else psDown)
  ∧ ∀ (s : State) (p : Nat), portState s p = psHold → due s (.hold p) = true → ∃ t, exec (.holdExpiry p) s = .next t
      ∧ portState t p = psUp ∧ regsKept [(F.PLZ_PORT_STAT_STATE p).key] s t ∧ running t (.hold p) = false

/-- For a frame of another station than this hub: one from and for this node is copied and stripped; one for this node is
copied, and stripped unless a twin is on the ring, copy_done is 0 and the segment towards the twin is whole, in which
case it goes on with copy_done set; a broadcast is copied and goes on with hop_limit one lower unless that is 0; any
other frame goes on likewise or expires, and is not copied; but one of a reserved type that is not for this node goes
on unchanged, hop_limit too, which is the model's reading (log entry 144). The hub's own frame is stripped. (R30,
R113, R115, R118, log entry 144) -/
def Obligations.FrameTable : Prop :=
  ∀ (s : State) (f : RingFrame), s.dev.nodeId ≠ 0 → s.dev.nodeId < 255 → flag s F.RNG_STAT_DUP_ID = false →
    (fromSelf s f = true → (verdictOf s f).forward = none ∧ (verdictOf s f).returned = decide (f.destNode ≠ 255))
    ∧ (fromSelf s f = false → f.destNode.toNat = s.dev.nodeId → f.srcNode.toNat = s.dev.nodeId →
        verdictOf s f = ⟨true, none, false, false⟩)
    ∧ (fromSelf s f = false → f.destNode.toNat = s.dev.nodeId → f.srcNode.toNat ≠ s.dev.nodeId → reservedType f = false →
        verdictOf s f = ⟨true, if twinOnRing s && !f.copyDone && !twinSegmentBroken s
          then some { f with copyDone := true } else none, false, false⟩)
    ∧ (fromSelf s f = false → f.destNode = 255 → reservedType f = false →
        verdictOf s f = ⟨true, if f.hopLimit.toNat ≤ 1 then none else some { f with hopLimit := f.hopLimit - 1 }, false, false⟩)
    ∧ (fromSelf s f = false → f.destNode.toNat ≠ s.dev.nodeId → reservedType f = true →
        verdictOf s f = ⟨false, some f, false, false⟩)
    ∧ (fromSelf s f = false → f.destNode.toNat ≠ s.dev.nodeId → f.destNode ≠ 255 → reservedType f = false →
        verdictOf s f = ⟨false, if f.hopLimit.toNat ≤ 1 then none else some { f with hopLimit := f.hopLimit - 1 }, false,
          decide (f.hopLimit.toNat ≤ 1)⟩)

/-- The words of a frame sent in clear give it back, and give it as stomped where it was sent so. A bad frame is counted by its
cause and discarded; the copy that was already leaving by the other port is cut off, which is the model's reading (log entry
142). A segment keepalive is consumed; on a broken port without a relay every frame is discarded; any other good frame is
carried by the table. A frame that is neither for this node nor a broadcast leaves the ring with HOP_EXPIRED counted when its
hop_limit runs out. (R92, R109, R111, R112, R113, R118, R126, R127, R143, log entry 142) -/
def Obligations.FramesReceived : Prop :=
  (∀ (s t : State) (p q : Nat) (f : RingFrame) (stomp : Bool), f.enc = false → f.payload.length ≤ 9216 →
    flag t (F.RNG_PORT_STAT_ENC q) = false →
    let r := readWords t q (frameWords (frameBytes s p f stomp))
    r.frame = f ∧ r.cause = if stomp then some (F.RNG_PORT_STOMPED_COUNT q) else none)
  ∧ (∀ (s : State) (p : Nat) (ws : List (BitVec 64)) (at_ : Option Nat), takesFrame s p ws at_ = false →
    exec (.ringFrameReceive p ws at_) s = .next s)
  ∧ (∀ (s : State) (p : Nat) (ws : List (BitVec 64)) (at_ : Option Nat) (c : Fld), takesFrame s p ws at_ = true →
    isKeepalive (readWords s p ws).frame = false → (readWords s p ws).cause = some c → broken s p = true →
    ∃ t, exec (.ringFrameReceive p ws at_) s = .next t ∧ regsKept [c.key, F.CIP_RING_WAIT_COUNT.key] s t
      ∧ t.plaza = s.plaza ∧ t.outs = s.outs ∧ memKept s t ∧ getF t c = (getF s c + 1) % 2 ^ 32)
  ∧ (∀ (s : State) (p : Nat) (ws : List (BitVec 64)) (at_ : Option Nat) (c : Fld), takesFrame s p ws at_ = true →
    isKeepalive (readWords s p ws).frame = false → (readWords s p ws).cause = some c → broken s p = false →
    let g := (readWords s p ws).frame
    let f := { g with clr := g.clr || !flag s (F.RNG_PORT_STAT_ENC p) }
    ∃ u : State, regsKept [c.key, (dropCounter 6).key, F.CIP_RING_WAIT_COUNT.key] s u ∧ u.plaza = s.plaza ∧ u.outs = s.outs
      ∧ memKept s u ∧ getF u c = (getF s c + 1) % 2 ^ 32
      ∧ getF u (dropCounter 6) = (getF s (dropCounter 6) + 1) % 2 ^ 32
      ∧ (let w := captureFrame u (ringStored u f (96 + p) 0) [(1023, 0, 6)]
        (24 + f.payload.length + 32 ≤ 256 → exec (.ringFrameReceive p ws at_) s = .next w)
        ∧ ∀ h, (verdictOf s f).forward = some h → ((verdictOf s f).copy = false ∨ f.type ≠ tyDATA) →
          forwardsTransit s = true → broken s (1 - p) = false →
          let x : Target := ⟨ringQueue (1 - p) h.cls.toNat .transit, false, 0, false, none⟩
          leavesEarly w (ringStored w h (96 + p) 0) x = true →
          exec (.ringFrameReceive p ws at_) s = .next (cutOff w (ringStored w h (96 + p) 0) [x])))
  ∧ (∀ (s : State) (p : Nat) (ws : List (BitVec 64)) (at_ : Option Nat), isKeepalive (readWords s p ws).frame = true →
    exec (.ringFrameReceive p ws at_) s = exec (.keepaliveReceive p ws at_ 0) s)
  ∧ (∀ (s : State) (p : Nat) (ws : List (BitVec 64)) (at_ : Option Nat), takesFrame s p ws at_ = true →
    isKeepalive (readWords s p ws).frame = false → (readWords s p ws).cause = none → broken s p = true →
    s.ring.relayPort ≠ some p →
    ∃ t, exec (.ringFrameReceive p ws at_) s = .next t ∧ regsKept [F.CIP_RING_WAIT_COUNT.key] s t ∧ t.plaza = s.plaza
      ∧ t.outs = s.outs ∧ t.mem = s.mem ∧ t.jct = s.jct ∧ t.ring.held = s.ring.held ∧ t.ring.heldReq = s.ring.heldReq
      ∧ t.ring.waitReq = s.ring.waitReq)
  ∧ (∀ (s : State) (p : Nat) (ws : List (BitVec 64)) (at_ : Option Nat), takesFrame s p ws at_ = true →
    let f := (readWords s p ws).frame
    isKeepalive f = false → (readWords s p ws).cause = none → broken s p = false →
    s.ring.relayPort = none → fromSelf s f = false → forUnassigned s f = false → reservedType f = false →
    f.destNode.toNat ≠ s.dev.nodeId → f.destNode ≠ 255 → f.hopLimit.toNat ≤ 1 →
    ∃ t, exec (.ringFrameReceive p ws at_) s = .next t
      ∧ regsKept [F.RNG_HOP_EXPIRED_COUNT.key, F.CIP_RING_WAIT_COUNT.key] s t ∧ t.plaza = s.plaza ∧ t.outs = s.outs
      ∧ t.mem = s.mem ∧ getF t F.RNG_HOP_EXPIRED_COUNT = (getF s F.RNG_HOP_EXPIRED_COUNT + 1) % 2 ^ 32)
  ∧ ∀ (s : State) (p : Nat) (ws : List (BitVec 64)) (at_ : Option Nat), takesFrame s p ws at_ = true →
    let f := (readWords s p ws).frame
    isKeepalive f = false → (readWords s p ws).cause = none → broken s p = false →
    ∃ u : State, regsKept [F.CIP_RING_WAIT_COUNT.key] s u ∧ u.plaza = s.plaza ∧ u.ring.map = s.ring.map ∧ u.outs = s.outs
      ∧ exec (.ringFrameReceive p ws at_) s
        = .next (carryFrame u p { f with clr := f.clr || !flag s (F.RNG_PORT_STAT_ENC p) })

/-- A blocked destination drops the frame and counts it in RNG_BLOCKED; an isolated station drops it and counts it in
RNG_ADD_DROP; an unassigned station adds no ordinary frame. Otherwise a frame of class 0-6 goes in the direction of
R119 under the next number of its destination and direction, and a class-7 frame on both rings under one number, stored once
for both queues; where one port is broken it goes wrapped by the other. (R116, R119, R120, R121, R122, R127, R142) -/
def Obligations.AddedFrames : Prop :=
  (∀ (s : State) (f : RingFrame), live s unitRNG = true → actsUnassigned s = false → f.destNode ≠ 0 →
    flag s (F.RNG_DMAP_BLOCK (dmapBank s) f.destNode.toNat) = true →
    exec (.ringFrameAdd f) s = .next (incF s F.RNG_BLOCKED_COUNT))
  ∧ (∀ (s : State) (f : RingFrame), live s unitRNG = true → actsUnassigned s = false →
    blockedNode s f.destNode.toNat = false → broken s 0 = true → broken s 1 = true →
    exec (.ringFrameAdd f) s = .next (incF s F.RNG_ADD_DROP_COUNT))
  ∧ (∀ (s : State) (f : RingFrame), actsUnassigned s = true → mayAddUnassigned f = false →
    exec (.ringFrameAdd f) s = .next s)
  ∧ (∀ (s : State) (f : RingFrame), live s unitRNG = true → actsUnassigned s = false →
    blockedNode s f.destNode.toNat = false → (broken s 0 = false ∨ broken s 1 = false) → isAnnouncement f = false →
    f.cls ≠ 7 →
    let port := directionTo s f.destNode.toNat
    let out := if broken s port then 1 - port else port
    let n := (lookupKey (f.destNode.toNat, decide (port = 1)) s.ring.seqTx).getD 0
    ∃ u : State, u.regs = s.regs ∧ u.plaza = s.plaza ∧ lookupKey (f.destNode.toNat, decide (port = 1)) u.ring.seqTx = some (n + 1)
      ∧ exec (.ringFrameAdd f) s = .next (enqueueRing u
          [⟨ringQueue out f.cls.toNat .added, shadowType .added f, 0, broken s port, none⟩]
          { stampSource s f with hopLimit := hopLimitFor s f.destNode.toNat, seq := n } 98 0))
  ∧ (∀ (s : State) (f : RingFrame), live s unitRNG = true → actsUnassigned s = false →
    blockedNode s f.destNode.toNat = false → (broken s 0 = false ∨ broken s 1 = false) → isAnnouncement f = false →
    f.cls = 7 →
    let way (p : Nat) : Target := ⟨ringQueue (if broken s p then 1 - p else p) 7 .added, shadowType .added f, 0, broken s p, none⟩
    ∃ (u : State) (g : RingFrame), u.regs = s.regs ∧ u.plaza = s.plaza ∧ u.ring.c7Seq = s.ring.c7Seq + 1
      ∧ g.seq = s.ring.c7Seq ∧ g.cm = false ∧ g.hopLimit = hopLimitFor s f.destNode.toNat ∧ g.payload = f.payload
      ∧ exec (.ringFrameAdd f) s = .next (enqueueRing u [way 0, way 1] g 98 0))
  ∧ ∀ (s : State) (node : Nat), node < 255 → node ≠ s.dev.nodeId →
    (node = 0 ∨ getF s (F.RNG_DMAP_DIR (dmapBank s) node) = 0) →
    (∀ e w, hopsTo s node false = some e → hopsTo s node true = some w →
      directionTo s node = if w < e then 1 else if e < w then 0 else getF s F.RNG_CFG_TIE_WEST)
    ∧ (hopsTo s node true = none → directionTo s node = 0)
    ∧ (hopsTo s node false = none → hopsTo s node true ≠ none → directionTo s node = 1)

/-- For every record and number: a number ahead of the highest is accepted and becomes the highest; one of the 64 numbers
up to the highest is accepted exactly if its bit is clear; an older one is discarded; and a number just accepted is a
duplicate when it comes again, with no other number's outcome among the 64 changed by accepting one of them. A record is kept
of every source hub, whether the ring map has it or not. (R122) -/
def Obligations.Class7Record : Prop :=
  (∀ (rec : Option (BitVec 16 × BitVec 64)) (n : BitVec 16), (class7Check rec n).1 = 0 →
    (class7Check (class7Check rec n).2 n).1 = 1)
  ∧ (∀ (h n : BitVec 16) (bits : BitVec 64), 0 < (n - h).toNat → (n - h).toNat < 32768 →
    (class7Check (some (h, bits)) n).1 = 0 ∧ ∃ b, (class7Check (some (h, bits)) n).2 = some (n, b))
  ∧ (∀ (h n : BitVec 16) (bits : BitVec 64), (h - n).toNat < 64 →
    ((class7Check (some (h, bits)) n).1 = 0 ↔ bits.getLsbD (h - n).toNat = false)
    ∧ ((class7Check (some (h, bits)) n).1 = 0 ∨ (class7Check (some (h, bits)) n).1 = 1)
    ∧ ∃ b, (class7Check (some (h, bits)) n).2 = some (h, b))
  ∧ (∀ (h n : BitVec 16) (bits : BitVec 64), 64 ≤ (h - n).toNat → (h - n).toNat ≤ 32768 →
    (class7Check (some (h, bits)) n).1 = 2)
  ∧ (∀ (h n m : BitVec 16) (bits : BitVec 64), (h - n).toNat < 64 → (h - m).toNat < 64 → m ≠ n →
    (class7Check (class7Check (some (h, bits)) n).2 m).1 = (class7Check (some (h, bits)) m).1)
  ∧ ∀ (s : State) (f : RingFrame),
    (recordClass7 s f).1 = (class7Check (lookupKey (f.srcNode.toNat, f.side) s.ring.c7Recs) f.seq).1
    ∧ lookupKey (f.srcNode.toNat, f.side) (recordClass7 s f).2.ring.c7Recs
      = (class7Check (lookupKey (f.srcNode.toNat, f.side) s.ring.c7Recs) f.seq).2

/-- An announcement of a hub not yet in the map enters it with 255 minus hop_limit hops and reach in its direction, for 3
ms; one of an unassigned hub is not entered; one with this hub's node and side and another unit ID sets DUP_ID.
REACH_TIMEOUT clears a direction, and removes the entry once both are clear, with its class-7 record and the request number
expected of the hub, which is then taken to start again (log entry 199); DUP_ID_TIMEOUT clears DUP_ID. Every announcement
received has the TB0 master chosen anew. ANNOUNCEMENT_SEND comes due again after 1 ms. (R54, R114, R115, R117, R122, R276, log
entry 199) -/
def Obligations.RingMapUpkeep : Prop :=
  (∀ (s : State) (l : LocalFrame), s.ring.held.find? (fun x => isAnnouncement x.frame) = some l → live s unitRNG = true →
    l.port < 2 → l.frame.srcNode ≠ 0 → isOwn s l.frame.srcNode.toNat l.frame.side = false →
    findEntry s l.frame.srcNode.toNat l.frame.side = none →
    running s (.holddown l.frame.srcNode.toNat l.frame.side (decide (l.port = 1))) = false →
    ∃ t e, exec .announcementReceive s = .next t ∧ t.ring.map = s.ring.map ++ [e] ∧ e.node = l.frame.srcNode.toNat
      ∧ e.side = l.frame.side ∧ e.reachE = decide (l.port = 0) ∧ e.reachW = decide (l.port = 1)
      ∧ (if l.port = 1 then e.hopsW else e.hopsE) = 255 - l.frame.hopLimit.toNat
      ∧ e.uid = BitVec.ofNat 64 (ofBe (l.frame.payload.take 8)) ∧ t.ring.c7Recs = s.ring.c7Recs
      ∧ lookupKey (.reach l.frame.srcNode.toNat l.frame.side (decide (l.port = 1))) t.timers = some (s.mono + 3 * ticksMs))
  ∧ (∀ (s : State) (l : LocalFrame), s.ring.held.find? (fun x => isAnnouncement x.frame) = some l → live s unitRNG = true →
    l.frame.srcNode = 0 → isOwn s 0 l.frame.side = false →
    exec .announcementReceive s = .next (selectMaster (s.withRing { s.ring with held := s.ring.held.erase l })))
  ∧ (∀ (s : State) (l : LocalFrame), s.ring.held.find? (fun x => isAnnouncement x.frame) = some l → live s unitRNG = true →
    l.frame.srcNode ≠ 0 → isOwn s l.frame.srcNode.toNat l.frame.side = true →
    BitVec.ofNat 64 (ofBe (l.frame.payload.take 8)) ≠ s.ident.uid →
    ∃ t, exec .announcementReceive s = .next t ∧ flag t F.RNG_STAT_DUP_ID = true ∧ t.ring.map = s.ring.map)
  ∧ (∀ (s : State) (node : Nat) (side west : Bool) (e : RingEntry), due s (.reach node side west) = true →
    findEntry s node side = some e → (if west then e.reachE else e.reachW) = false →
    ∃ t, exec (.reachTimeout node side west) s = .next t ∧ findEntry t node side = none
      ∧ lookupKey (node, side) t.ring.c7Recs = none ∧ (seqRxOf t node side).own = none)
  ∧ (∀ (s : State) (node : Nat) (side west : Bool) (e : RingEntry), due s (.reach node side west) = true →
    findEntry s node side = some e → (if west then e.reachE else e.reachW) = true →
    ∃ t e', exec (.reachTimeout node side west) s = .next t ∧ findEntry t node side = some e'
      ∧ e'.reachE = (if west then e.reachE else false) ∧ e'.reachW = (if west then false else e.reachW))
  ∧ (∀ s : State, due s .dupId = true → ∃ t, exec .dupIdTimeout s = .next t ∧ flag t F.RNG_STAT_DUP_ID = false)
  ∧ ∀ s : State, live s unitRNG = true → s.dev.stage = .ringReady → due s .announce = true →
    ∃ t, exec .announcementSend s = .next t ∧ lookupKey .announce t.timers = some (s.mono + ticksMs)
      ∧ t.ring.map = s.ring.map

/-- At a station, on an unencrypted segment in Up a due keepalive is sent with the port's PORT_STATE and the next number, and the
next is due after 1 us; a received one keeps the tick from being missed and shows the peer's PORT_STATE, and 1 from a peer
breaks the port. On an encrypted segment one with a wrong tag or an old counter is counted and has no other effect, and a good
one sets the counter expected. A tick in which nothing was seen is counted, and at KA_MISS in a row the port is broken; one in
which something was seen clears the count. (R125, R126, R132, R133, R402) -/
def Obligations.Keepalives : Prop :=
  (∀ (s : State) (p : Nat), live s unitRNG = true → stationRuns s = true → p < 2 → buState s p = buUp →
    due s (.ka p) = true → flag s (F.RNG_PORT_STAT_ENC p) = false →
    ∃ t f slot marks, exec (.keepaliveSend p) s = .next t
      ∧ t.outs = s.outs ++ .ring p f false slot
          (frameWords (ringHeader f ++ f.payload ++ fcsBytes (ringHeader f ++ f.payload) false)) :: marks
      ∧ (∀ e ∈ marks, ∃ lane w, e = .marker p lane w) ∧ f.type = tyKEEPALIVE
      ∧ tsBits f 44 4 = 0 ∧ tsBits f 40 4 = (portSt s p).portState % 16 ∧ f.hopLimit = 1 ∧ f.cls = 6
      ∧ f.seq = (portSt s p).kaSeq ∧ (portSt t p).kaSeq = (portSt s p).kaSeq + 1
      ∧ lookupKey (.ka p) t.timers = some (s.mono + ticksUs))
  ∧ (∀ (s : State) (p phase : Nat) (ws : List (BitVec 64)) (at_ : Option Nat), takesFrame s p ws at_ = true →
    let r := readWords s p ws
    isKeepalive r.frame = true → r.cause = none → flag s (F.RNG_PORT_STAT_ENC p) = false →
    (broken s p = false → tsBits r.frame 40 4 ≠ 1 →
      ∃ t, exec (.keepaliveReceive p ws at_ phase) s = .next t ∧ (portSt t p).kaSeen = true
        ∧ (portSt t p).peerState = tsBits r.frame 40 4 ∧ t = { s with ring := t.ring })
    ∧ (tsBits r.frame 40 4 = 1 → (portSt s p).portState = 0 →
      ∃ t, exec (.keepaliveReceive p ws at_ phase) s = .next t ∧ broken t p = true))
  ∧ (∀ (s : State) (p phase : Nat) (ws : List (BitVec 64)) (at_ : Option Nat), takesFrame s p ws at_ = true →
    let r := readWords s p ws
    isKeepalive r.frame = true → flag s (F.RNG_PORT_STAT_ENC p) = true →
    (r.cause = some (F.RNG_PORT_TAG_FAIL_COUNT p) ∨ r.cause = none ∧ r.counter < (portSt s p).rxExpect →
      exec (.keepaliveReceive p ws at_ phase) s = .next (incF (countWaits s r.frame) (F.RNG_PORT_KA_REJECT_COUNT p)))
    ∧ (r.cause = none → (portSt s p).rxExpect ≤ r.counter → broken s p = false → tsBits r.frame 40 4 ≠ 1 →
      ∃ t, exec (.keepaliveReceive p ws at_ phase) s = .next t ∧ (portSt t p).kaSeen = true
        ∧ (portSt t p).rxExpect = r.counter + 1 ∧ memKept s t))
  ∧ (∀ (s : State) (p : Nat) (w : Bool), live s unitRNG = true → stationRuns s = true → p < 2 → buState s p = buUp →
    due s (.kaTick p) = true →
    ((portSt s p).kaSeen = true ∨ (w = true ∧ flag s (F.RNG_PORT_STAT_ENC p) = false)) →
    ∃ t, exec (.keepaliveTick p w) s = .next t ∧ (portSt t p).kaMissed = 0 ∧ (portSt t p).kaSeen = false
      ∧ t = { s with ring := t.ring, timers := t.timers })
  ∧ (∀ (s : State) (p : Nat), live s unitRNG = true → stationRuns s = true → p < 2 → buState s p = buUp →
    due s (.kaTick p) = true → (portSt s p).kaSeen = false → (portSt s p).kaMissed + 1 < kaMissLimit s →
    ∃ t, exec (.keepaliveTick p false) s = .next t ∧ (portSt t p).kaMissed = (portSt s p).kaMissed + 1
      ∧ broken t p = broken s p ∧ regsKept [(F.RNG_PORT_KA_MISS_COUNT p).key] s t ∧ memKept s t)
  ∧ ∀ (s : State) (p : Nat), live s unitRNG = true → stationRuns s = true → p < 2 → buState s p = buUp →
    due s (.kaTick p) = true → (portSt s p).kaSeen = false → kaMissLimit s ≤ (portSt s p).kaMissed + 1 →
    ∃ t, exec (.keepaliveTick p false) s = .next t ∧ broken t p = true

/-- MAINTENANCE_WRAP sets the port's WRAP bit and leaves the port broken with PORT_STATE 1. A WRAP notice of event 1 ends
the hold-downs that its hub's notices for its port began last (log entry 71); one of event 0 clears, for every other
hub of the map, reach East and West by the rule of R129, and an entry left without reach goes. A hold-down ends after
its time. A broken port in Up that has waited out HEAL_HOLD shows PORT_STATE 2, and its unwrap is due while the peer shows 2
too. HEAL sets its bit. (R126, R127, R129,
R130) -/
def Obligations.WrapsAndHeals : Prop :=
  (∀ (s : State) (p : Nat), live s unitRNG = true → p < 2 → broken s p = false → ∃ t, exec (.maintenanceWrap p) s = .next t
      ∧ broken t p = true ∧ (portSt t p).portState = 1
      ∧ flag t (if p = 0 then F.RNG_CTL_WRAP_E else F.RNG_CTL_WRAP_W) = true)
  ∧ (∀ (s : State) (l : LocalFrame), s.ring.held.find? (fun x => x.frame.type = tyWRAP) = some l → live s unitRNG = true →
    tsBits l.frame 45 2 = 1 → ∃ t, exec .wrapNoticeReceive s = .next t ∧ t.ring.map = s.ring.map
      ∧ ∀ node side west, running t (.holddown node side west) = true ↔ running s (.holddown node side west) = true
          ∧ ((node, side, west), (l.frame.srcNode.toNat, l.frame.side, decide (tsBits l.frame 47 1 = 1)))
            ∉ s.ring.heldDown)
  ∧ (∀ (s : State) (f : RingFrame) (w : RingEntry), tsBits f 45 2 ≠ 1 → findEntry s f.srcNode.toNat f.side = some w →
    (s.ring.map.map (fun e => (e.node, e.side))).Nodup →
    ∀ e ∈ s.ring.map, isOwn s e.node e.side = false → (e.reachE = true ∨ e.reachW = true) →
    let east := tsBits f 47 1 = 0
    let clearE := if east then w.hopsE < e.hopsE else w.hopsE ≤ e.hopsE
    let clearW := if east then w.hopsW ≤ e.hopsW else w.hopsW < e.hopsW
    let keepE := e.reachE = true ∧ ¬ clearE
    let keepW := e.reachW = true ∧ ¬ clearW
    ((keepE ∨ keepW) → ∃ e', findEntry (receiveWrap s f) e.node e.side = some e' ∧ (e'.reachE = true ↔ keepE)
        ∧ (e'.reachW = true ↔ keepW) ∧ e'.hopsE = e.hopsE ∧ e'.hopsW = e.hopsW)
    ∧ (¬ keepE → ¬ keepW → findEntry (receiveWrap s f) e.node e.side = none)
    ∧ (clearE → running (receiveWrap s f) (.holddown e.node e.side false) = true))
  ∧ (∀ (s : State) (node : Nat) (side west : Bool), due s (.holddown node side west) = true →
    ∃ t, exec (.wrapHolddownExpiry node side west) s = .next t ∧ running t (.holddown node side west) = false
      ∧ t = { s with timers := t.timers, ring := t.ring } ∧ t.ring.map = s.ring.map)
  ∧ (∀ (s : State) (p : Nat), live s unitRNG = true → stationRuns s = true → p < 2 → broken s p = true →
    buState s p = buUp → due s (.healHold p) = true → heldBroken s p = false → ∃ t, exec (.healReady p) s = .next t
      ∧ (portSt t p).portState = 2 ∧ (portSt t p).unwrapReq = decide ((portSt s p).peerState = 2)
      ∧ due t (.ka p) = true ∧ t = { s with ring := t.ring, timers := t.timers })
  ∧ ∀ s : State, live s unitRNG = true → ∃ t, exec .heal s = .next t ∧ flag t F.RNG_CTL_HEAL = true
    ∧ regsKept [F.RNG_CTL_HEAL.key] s t ∧ memKept s t

/-- FRAME_ADMIT drops with the reason of R148, counted in its drop counter, the queue's DROP and LAST_REASON, or, under
the frame number not yet in use, stores the frame in free cells and appends one reference to the one queue, marked as
R151 says; memory outside its cells stands. ACCESS_FRAME_RECEIVE counts a frame that is bad by its length, its FCS or a missing
end and drops it, its copies that are leaving already cut off; it counts a good one and bridges it, and drops an untagged one
where untagged frames are refused. A PAUSE frame stops classes 0 to 6 for its quanta, or releases them at 0; PAUSE_EXPIRY
releases one class; PAUSE_REFRESH repeats the PAUSE or the PFC of a class that is due. (R141, R142, R143, R147, R148, R151,
R153, R155, R157, R172) -/
def Obligations.PlazaAdmission : Prop :=
  (∀ (s : State) (q inPort : Nat) (bs : List Byte), live s unitPLZ = true → q < 1024 → inPort < 104 →
    let cls := if q < 832 then q % 8 else getF s (F.PLZ_SQ_CFG_CLASS (q - 832))
    let g := { newFrame s (.eth bs) inPort cls 0 0 false with
      fid := s.plaza.nextFid, ct := eligibleEarly s inPort (queuePort s q), outPort := queuePort s q }
    let r := admitReason s q cls
    let d := if r ≠ 0 then r else 2
    frameOf s s.plaza.nextFid = none → (r ≠ 0 ∨ cellsFit s q cls (cellsFor bs.length) = false) →
    ∃ u : State, exec (.frameAdmit q inPort bs) s = .next (pauseCheck (captureFrame u g [(q, queueDepth s q, d)]) inPort)
      ∧ regsKept [(dropCounter d).key, (F.PLZ_Q_DROP_COUNT q).key, (F.PLZ_Q_DEPTH_LAST_REASON q).key] s u ∧ memKept s u
      ∧ u.plaza.frames = s.plaza.frames ∧ u.plaza.queues = s.plaza.queues ∧ u.plaza.nextFid = s.plaza.nextFid + 1
      ∧ getF u (dropCounter d) = (getF s (dropCounter d) + 1) % 2 ^ 32
      ∧ getF u (F.PLZ_Q_DROP_COUNT q) = (getF s (F.PLZ_Q_DROP_COUNT q) + 1) % 2 ^ 32
      ∧ getF u (F.PLZ_Q_DEPTH_LAST_REASON q) = d)
  ∧ (∀ (s : State) (q inPort : Nat) (bs : List Byte), live s unitPLZ = true → q < 1024 → inPort < 104 →
    let cls := if q < 832 then q % 8 else getF s (F.PLZ_SQ_CFG_CLASS (q - 832))
    let n := cellsFor bs.length
    frameOf s s.plaza.nextFid = none → admitReason s q cls = 0 → cellsFit s q cls n = true →
    ∃ (u : State) (f : PlzFrame),
      exec (.frameAdmit q inPort bs) s = .next (pauseCheck (captureFrame u f [(q, queueDepth s q, 0)]) inPort)
      ∧ u.plaza.frames = s.plaza.frames ++ [f] ∧ f.fid = s.plaza.nextFid ∧ f.body = .eth bs ∧ f.inPort = inPort ∧ f.cls = cls
      ∧ f.cm = marksAt s q cls ∧ f.cells.length ≤ n ∧ (∀ c ∈ f.cells, ∀ h ∈ s.plaza.frames, c ∉ h.cells)
      ∧ queueRefs u q = queueRefs s q ++ [⟨f.fid, n, decide (queuePort s q < 96), false, none⟩]
      ∧ (∀ k, k ≠ q → queueRefs u k = queueRefs s k)
      ∧ regsKept [F.PLZ_MARKED_COUNT.key, (F.PLZ_Q_MARK_COUNT q).key] s u
      ∧ ∀ b, (∀ c ∈ f.cells, b < cellAddr c ∨ cellAddr c + 256 ≤ b) → memByte u b = memByte s b)
  ∧ (∀ (s : State) (p codeErrs : Nat) (bs : List Byte) (fcsOk trunc : Bool), live s unitPLZ = true → linkUp s p = true →
    let len := decide (bs.length + 4 < 64 ∨ maxLen s p < bs.length + 4)
    (len = true ∨ fcsOk = false ∨ trunc = true) →
    ∃ (u : State) (f : PlzFrame), regsKept [(F.ACC_MAC_RX_LEN_ERR_COUNT p).key, (F.ACC_MAC_RX_FCS_ERR_COUNT p).key,
        (dropCounter 6).key, (F.ACC_LANE_ERR_COUNT (p / 4)).key] s u ∧ u.plaza = s.plaza ∧ memKept s u
      ∧ getF u (F.ACC_MAC_RX_LEN_ERR_COUNT p) = (getF s (F.ACC_MAC_RX_LEN_ERR_COUNT p) + bit01 len) % 2 ^ 32
      ∧ getF u (F.ACC_MAC_RX_FCS_ERR_COUNT p) = (getF s (F.ACC_MAC_RX_FCS_ERR_COUNT p) + bit01 (!len && !fcsOk)) % 2 ^ 32
      ∧ getF u (dropCounter 6) = (getF s (dropCounter 6) + 1) % 2 ^ 32
      ∧ getF u (F.ACC_LANE_ERR_COUNT (p / 4)) = (getF s (F.ACC_LANE_ERR_COUNT (p / 4)) + codeErrs) % 2 ^ 32
      ∧ (let v := captureFrame u f [(1023, 0, 6)]
        let x := accessPlaces f (splitTag bs).2 (classifyAccess s p (splitTag bs).1).refused v
        exec (.accessFrameReceive p bs fcsOk ⟨trunc, codeErrs⟩) s
          = .next (if x.1.2.any (leavesEarly x.2 x.1.1) then cutOff x.2 x.1.1 x.1.2 else v)
        ∧ (bs.length + 32 ≤ 256 → exec (.accessFrameReceive p bs fcsOk ⟨trunc, codeErrs⟩) s = .next v)))
  ∧ (∀ (s : State) (p codeErrs : Nat) (bs : List Byte), live s unitPLZ = true → linkUp s p = true → 64 ≤ bs.length + 4 →
    bs.length + 4 ≤ maxLen s p → isPause bs = false →
    ∃ u : State, exec (.accessFrameReceive p bs true ⟨false, codeErrs⟩) s = .next (bridgeAccess u p (splitTag bs).1 (splitTag bs).2)
      ∧ regsKept [(F.ACC_MAC_RX_FRAMES_COUNT p).key, (F.ACC_MAC_RX_OCTETS_COUNT p).key, (F.ACC_LANE_ERR_COUNT (p / 4)).key] s u
      ∧ u.plaza = s.plaza ∧ memKept s u
      ∧ getF u (F.ACC_MAC_RX_FRAMES_COUNT p) = (getF s (F.ACC_MAC_RX_FRAMES_COUNT p) + 1) % 2 ^ 32)
  ∧ (∀ (s : State) (p codeErrs : Nat) (bs : List Byte), live s unitPLZ = true → linkUp s p = true → 64 ≤ bs.length + 4 →
    bs.length + 4 ≤ maxLen s p → isPause bs = false → (splitTag bs).1 = none →
    flag s (F.ACC_MAC_VLAN_ACCEPT_UNTAGGED p) = false →
    ∃ (u : State) (f : PlzFrame),
      exec (.accessFrameReceive p bs true ⟨false, codeErrs⟩) s = .next (captureFrame u f [(1023, 0, 7)])
      ∧ u.plaza.frames = s.plaza.frames ∧ u.plaza.queues = s.plaza.queues ∧ memKept s u
      ∧ getF u (F.ACC_MAC_RX_VLAN_DROP_COUNT p) = (getF s (F.ACC_MAC_RX_VLAN_DROP_COUNT p) + 1) % 2 ^ 32)
  ∧ (∀ (s : State) (p : Nat) (bs : List Byte), linkUp s p = true → isPause bs = true →
    ∃ t, exec (.pauseFrameReceive p bs) s = .next t ∧ memKept s t ∧ t.plaza = s.plaza ∧ t.outs = s.outs
      ∧ regsKept [(F.ACC_MAC_RX_PAUSE_COUNT p).key, (F.PLZ_PORT_STAT_XOFF_RX p).key, (F.ACC_MAC_RX_FRAMES_COUNT p).key,
          (F.ACC_MAC_RX_OCTETS_COUNT p).key] s t
      ∧ getF t (F.ACC_MAC_RX_PAUSE_COUNT p) = (getF s (F.ACC_MAC_RX_PAUSE_COUNT p) + 1) % 2 ^ 32
      ∧ getF t (F.ACC_MAC_RX_FRAMES_COUNT p) = (getF s (F.ACC_MAC_RX_FRAMES_COUNT p) + 1) % 2 ^ 32
      ∧ bitF t (F.PLZ_PORT_STAT_XOFF_RX p) 7 = bitF s (F.PLZ_PORT_STAT_XOFF_RX p) 7
      ∧ (beAt bs 14 2 = 1 → flag s (F.ACC_MAC_CFG_PFC_EN p) = false → flag s (F.ACC_MAC_CFG_RX_PAUSE_EN p) = true →
        ∀ c, c < 7 → bitF t (F.PLZ_PORT_STAT_XOFF_RX p) c = decide (beAt bs 16 2 ≠ 0)
          ∧ lookupKey (.pause p c) t.timers
            = if beAt bs 16 2 = 0 then none else some (s.mono + quantaTicks s p (beAt bs 16 2))))
  ∧ (∀ (s : State) (p c : Nat), due s (.pause p c) = true →
    ∃ t, exec (.pauseExpiry p c) s = .next t ∧ bitF t (F.PLZ_PORT_STAT_XOFF_RX p) c = false
      ∧ running t (.pause p c) = false ∧ regsKept [(F.PLZ_PORT_STAT_XOFF_RX p).key] s t
      ∧ t = { s with regs := t.regs, timers := t.timers })
  ∧ (∀ (s : State) (p c : Nat), c < 9 → due s (.pauseTx p c) = true →
    (∀ k < 9, k ≠ c → due s (.pauseTx p k) = false) →
    (pauseWanted s p c = true → ∃ t, exec (.pauseRefresh p) s = .next t
      ∧ t.outs = s.outs ++ [if c = 8 then .pauseFrame p false 0 0xFFFF
          else .pauseFrame p true (BitVec.ofNat 8 (prioritiesOf s p c)) 0xFFFF]
      ∧ lookupKey (.pauseTx p c) t.timers = some (s.mono + quantaTicks s p 32768)
      ∧ regsKept [(F.ACC_MAC_TX_PAUSE_COUNT p).key] s t ∧ memKept s t
      ∧ getF t (F.ACC_MAC_TX_PAUSE_COUNT p) = (getF s (F.ACC_MAC_TX_PAUSE_COUNT p) + 1) % 2 ^ 32)
    ∧ (pauseWanted s p c = false → exec (.pauseRefresh p) s = .next (stopTimer s (.pauseTx p c))))
  ∧ ∀ (s : State) (p : Nat), (∀ c < 9, due s (.pauseTx p c) = false) → exec (.pauseRefresh p) s = .next s

/-- Class 7 is served before all others and class 6 next. A port that is ready sends the head frame of the queue it
serves, an access port at 56 bytes or more, a ring port with clr set unless the segment is encrypted, and that reference
is gone from the queue; a port with nothing to send sends nothing. RESIDENCY_CHECK drops an old head as STALE and
leaves a young one. AGEING_SWEEP comes due again after half the ageing time; LEARN_FLUSH keeps the selection and
touches only what it matches; CAPTURE_RESUME clears FULL. (R123, R135, R150, R161, R164, R170, R171) -/
def Obligations.PlazaService : Prop :=
  (∀ (s : State) (p q : Nat), nextInClass s p 7 = some q → nextQueue s p = (some q, s))
  ∧ (∀ (s : State) (p q : Nat), nextInClass s p 7 = none → nextInClass s p 6 = some q → nextQueue s p = (some q, s))
  ∧ (∀ (s u : State) (p : Nat), live s unitPLZ = true → portReady s p = true → nextQueue s p = (none, u) →
    exec (.egressSchedule p) s = .next u ∧ u.outs = s.outs ∧ u.regs = s.regs ∧ u.mem = s.mem
      ∧ u.plaza.frames = s.plaza.frames ∧ u.plaza.queues = s.plaza.queues)
  ∧ (∀ (s u : State) (p q : Nat) (r : QRef) (f : PlzFrame), live s unitPLZ = true → portReady s p = true → p < 96 →
    nextQueue s p = (some q, u) → readyRef u q = some r → frameOf u r.fid = some f →
    ∃ t bs tag, exec (.egressSchedule p) s = .next t ∧ t.outs.getLast? = some (.access p bs tag f.bad)
      ∧ 56 ≤ bs.length ∧ queueRefs t q = (queueRefs u q).erase r ∧ ∀ k, k ≠ q → queueRefs t k = queueRefs u k)
  ∧ (∀ (s u v : State) (p q : Nat) (r : QRef) (f : PlzFrame), live s unitPLZ = true → portReady s p = true → p = 96 ∨ p = 97 →
    nextQueue s p = (some q, u) → sealNonce u (p - 96) = (true, v) → readyRef v q = some r → frameOf v r.fid = some f →
    ∃ t g slot words before after, exec (.egressSchedule p) s = .next t
      ∧ t.outs = before ++ .ring (p - 96) g f.bad slot words :: after ∧ v.outs <+: before ∧ after.length ≤ 2
      ∧ (g.enc = true ∨ g.clr = true) ∧ queueRefs t q = (queueRefs v q).erase r ∧ ∀ k, k ≠ q → queueRefs t k = queueRefs v k)
  ∧ (∀ (s u v : State) (p q : Nat), live s unitPLZ = true → portReady s p = true → p = 96 ∨ p = 97 →
    nextQueue s p = (some q, u) → sealNonce u (p - 96) = (false, v) → exec (.egressSchedule p) s = .next v)
  ∧ (∀ (s : State) (q : Nat) (r : QRef) (rs : List QRef) (f : PlzFrame), live s unitPLZ = true → q < 1024 → q ≠ 773 →
    q ≠ 781 → queueRefs s q = r :: rs → frameOf s r.fid = some f → frameAge s f < resLimit s →
    exec (.residencyCheck q) s = .next s)
  ∧ (∀ (s : State) (q : Nat) (r : QRef) (f : PlzFrame), live s unitPLZ = true → q < 1024 → q ≠ 773 → q ≠ 781 →
    queueRefs s q = [r] → frameOf s r.fid = some f → resLimit s ≤ frameAge s f →
    ∃ t, exec (.residencyCheck q) s = .next t ∧ queueRefs t q = [] ∧ getF t (F.PLZ_Q_DEPTH_LAST_REASON q) = 5
      ∧ ∀ k, k ≠ q → queueRefs t k = queueRefs s k)
  ∧ (∀ s : State, live s unitPLZ = true → due s .age = true → getF s F.PLZ_LRN_CFG_AGE_S ≠ 0 →
    ∃ t, exec .ageingSweep s = .next t ∧ lookupKey .age t.timers = some (s.mono + getF s F.PLZ_LRN_CFG_AGE_S * 250000000)
      ∧ regsKept [F.PLZ_LRN_STAT_ENTRIES.key] s t ∧ t.plaza = s.plaza ∧ t.outs = s.outs
      ∧ (dynamicEntries s = [] → memKept s t))
  ∧ (∀ (s : State) (sel : Word), live s unitPLZ = true → ∃ t, exec (.learnFlush sel) s = .next t
      ∧ getF t F.PLZ_LRN_CTL_FLUSH = 0 ∧ getF t F.PLZ_LRN_CTL_PORT = bitsAt sel.toNat 1 7
      ∧ getF t F.PLZ_LRN_CTL_BY_PORT = bitsAt sel.toNat 8 1 ∧ getF t F.PLZ_LRN_CTL_VID = bitsAt sel.toNat 9 12
      ∧ getF t F.PLZ_LRN_CTL_BY_VID = bitsAt sel.toNat 21 1
      ∧ regsKept [F.PLZ_LRN_CTL_FLUSH.key, F.PLZ_LRN_STAT_ENTRIES.key] s t ∧ t.plaza = s.plaza
      ∧ ((∀ a ∈ dynamicEntries s, flushMatches s sel.toNat a = false) → memKept s t))
  ∧ ∀ s : State, live s unitPLZ = true → ∃ t, exec .captureResume s = .next t ∧ flag t F.PLZ_CAP_STAT_FULL = false
      ∧ getF t F.PLZ_CAP_STAT_WR_IDX = getF s F.PLZ_CAP_STAT_WR_IDX
      ∧ getF t F.PLZ_CAP_STAT_TRIG_LEFT = getF s F.PLZ_CAP_STAT_TRIG_LEFT
      ∧ regsKept [F.PLZ_CAP_STAT_FULL.key] s t ∧ memKept s t ∧ t.plaza = s.plaza ∧ t.outs = s.outs

/-- JUNCTION_MESSAGE_RECEIVE counts a message without a key, queues the run of a matching key on pipeline key mod 4,
counts it late where 64 runs wait, and discards it while EN is 0. LIST_RUN takes the run whose turn it is; its route
is skipped if not valid, counted with its error code, or done. EMISSION_HANDOVER counts and hands over an emission in
time, to a message queue under producer 4; a late one is only counted. RUN_LATE_DISCARD and TIMED_RUN_SKIP remove and
count late received and overtaken timed runs. (R178, R179, R188, R190, R193, R194, R200) -/
def Obligations.JunctionRuns : Prop :=
  (∀ (s : State) (m : JctMsg) (rest : List JctMsg), live s unitJCT = true → s.jct.inbox = m :: rest →
    flag s F.JCT_CFG_EN = false →
    exec .junctionMessageReceive s = .next (s.withJct { s.jct with inbox := rest }))
  ∧ (∀ (s : State) (m : JctMsg) (rest : List JctMsg), live s unitJCT = true → s.jct.inbox = m :: rest →
    flag s F.JCT_CFG_EN = true → s.flt.eccWords = [] → lookupMsg s m = none →
    ∃ t, exec .junctionMessageReceive s = .next t ∧ t.jct = { s.jct with inbox := rest } ∧ t.mem = s.mem
      ∧ regsKept [F.JCT_RX_NOKEY_COUNT.key] s t
      ∧ getF t F.JCT_RX_NOKEY_COUNT = (getF s F.JCT_RX_NOKEY_COUNT + 1) % 2 ^ 32)
  ∧ (∀ (s : State) (m : JctMsg) (rest : List JctMsg) (k : Nat), live s unitJCT = true → s.jct.inbox = m :: rest →
    flag s F.JCT_CFG_EN = true → s.flt.eccWords = [] → lookupMsg s m = some k → (pipeOf s (k % 4)).received.length < 64 →
    ∃ t run, exec .junctionMessageReceive s = .next t ∧ t.jct.inbox = rest ∧ t.jct.emissions = s.jct.emissions
      ∧ (∀ p, p < 4 → pipeOf t p = if p = k % 4 then { pipeOf s p with received := (pipeOf s p).received ++ [run] }
          else pipeOf s p)
      ∧ run.key = k ∧ run.first = (readKey s k).2.2.1 ∧ run.kind = m.kind ∧ run.msg = m ∧ run.queuedAt = s.mono
      ∧ run.routeBank = activeBank s 2 ∧ run.tplBank = activeBank s 3
      ∧ regsKept [F.JCT_RX_COUNT.key] s t ∧ t.mem = s.mem ∧ getF t F.JCT_RX_COUNT = (getF s F.JCT_RX_COUNT + 1) % 2 ^ 32)
  ∧ (∀ (s : State) (m : JctMsg) (rest : List JctMsg) (k : Nat), live s unitJCT = true → s.jct.inbox = m :: rest →
    flag s F.JCT_CFG_EN = true → s.flt.eccWords = [] → lookupMsg s m = some k → 64 ≤ (pipeOf s (k % 4)).received.length →
    ∃ t, exec .junctionMessageReceive s = .next t ∧ t.jct = { s.jct with inbox := rest } ∧ t.mem = s.mem
      ∧ getF t F.JCT_RX_LATE_COUNT = (getF s F.JCT_RX_LATE_COUNT + 1) % 2 ^ 32
      ∧ regsKept [F.JCT_RX_COUNT.key, F.JCT_RX_LATE_COUNT.key] s t)
  ∧ (∀ (s u : State) (p : Nat), live s unitJCT = true → p < 4 → takeRun (discardLate (skipTimed s p) p) p = (none, u) →
    exec (.listRun p) s = .next u)
  ∧ (∀ (s u : State) (p : Nat) (r : JctRun), live s unitJCT = true → p < 4 →
    takeRun (discardLate (skipTimed s p) p) p = (some r, u) → u.flt.eccWords = [] → (readRoute u r.routeBank r.first).last = true →
    ((readRoute u r.routeBank r.first).valid = false → exec (.listRun p) s = .next u)
    ∧ (∀ code, (readRoute u r.routeBank r.first).valid = true →
        routeError (incF u F.JCT_STEPS_COUNT) r (readRoute u r.routeBank r.first) [] = code → code ≠ 0 →
        ∃ t, exec (.listRun p) s = .next t ∧ t.mem = u.mem ∧ t.jct = u.jct
          ∧ getF t F.JCT_ERR_INFO_CODE = code ∧ getF t F.JCT_ERR_INFO_ROUTE = r.first % 2 ^ 14
          ∧ getF t F.JCT_STEPS_COUNT = (getF u F.JCT_STEPS_COUNT + 1) % 2 ^ 32
          ∧ getF t F.JCT_ROUTE_ERR_COUNT = (getF u F.JCT_ROUTE_ERR_COUNT + 1) % 2 ^ 32)
    ∧ ((readRoute u r.routeBank r.first).valid = true →
        routeError (incF u F.JCT_STEPS_COUNT) r (readRoute u r.routeBank r.first) [] = 0 →
        exec (.listRun p) s
          = .next (doRoute (incF u F.JCT_STEPS_COUNT) r r.first (readRoute u r.routeBank r.first) []).state))
  ∧ (∀ (s : State) (i : Nat) (e : Emission), s.jct.emissions[i]? = some e → live s unitJCT = true →
    emissionLate s e = false →
    exec (.emissionHandover i) s = .next (handOver (incF (takeEmission s i) F.JCT_EMIT_COUNT) e))
  ∧ (∀ (s : State) (i : Nat) (e : Emission), s.jct.emissions[i]? = some e → live s unitJCT = true →
    emissionLate s e = false → e.sink = 5 → mayProduce s e.dest 4 e.bytes.length = true →
    ∃ t, exec (.emissionHandover i) s = .next t ∧ t.jct.emissions = s.jct.emissions.eraseIdx i
      ∧ (queueOf t e.dest).msgs = (queueOf s e.dest).msgs
        ++ [⟨bitsAt e.arg.toNat 0 3, 4, (queueOf s e.dest).serial + 1, e.bytes⟩]
      ∧ regsKept [F.JCT_EMIT_COUNT.key] s t ∧ getF t F.JCT_EMIT_COUNT = (getF s F.JCT_EMIT_COUNT + 1) % 2 ^ 32)
  ∧ (∀ (s : State) (i : Nat) (e : Emission), s.jct.emissions[i]? = some e → emissionLate s e = true →
    ∃ t, exec (.emitLateDiscard i) s = .next t ∧ t.jct = { s.jct with emissions := s.jct.emissions.eraseIdx i }
      ∧ t.queues = s.queues ∧ t.mem = s.mem ∧ regsKept [F.JCT_EMIT_LATE_COUNT.key] s t
      ∧ getF t F.JCT_EMIT_LATE_COUNT = (getF s F.JCT_EMIT_LATE_COUNT + 1) % 2 ^ 32
      ∧ (live s unitJCT = true → exec (.emissionHandover i) s = .next t))
  ∧ (∀ (s : State) (p : Nat), live s unitJCT = true → p < 4 → ∃ t, exec (.runLateDiscard p) s = .next t
      ∧ (pipeOf t p).received = (pipeOf s p).received.filter (fun r => !runLate s r)
      ∧ (pipeOf t p).timed = (pipeOf s p).timed ∧ (∀ k, k < 4 → k ≠ p → pipeOf t k = pipeOf s k)
      ∧ t.jct.inbox = s.jct.inbox ∧ t.jct.emissions = s.jct.emissions ∧ t.mem = s.mem
      ∧ regsKept [F.JCT_RX_LATE_COUNT.key] s t ∧ getF t F.JCT_RX_LATE_COUNT
        = (getF s F.JCT_RX_LATE_COUNT + ((pipeOf s p).received.filter (runLate s)).length) % 2 ^ 32)
  ∧ ∀ (s : State) (p : Nat), live s unitJCT = true → p < 4 → ∃ t, exec (.timedRunSkip p) s = .next t
      ∧ (pipeOf t p).timed = (pipeOf s p).timed.filter (fun r => r.cycle = s.time.cycleNo)
      ∧ (pipeOf t p).received = (pipeOf s p).received ∧ (∀ k, k < 4 → k ≠ p → pipeOf t k = pipeOf s k) ∧ t.mem = s.mem
      ∧ ∀ k, getF t (F.JCT_OVR_COUNT k) = (getF s (F.JCT_OVR_COUNT k) + ((pipeOf s p).timed.filter (fun r =>
          decide (r.cycle ≠ s.time.cycleNo) && decide (r.key = k))).length) % 2 ^ 32

/-- A push opens under its length and priority if the credit allows it, takes data in order, and commits its message when
full; a wrong length or offset completes with ADDR_ERROR, another initiator's push or missing credit with
REFUSED_BUSY. POP takes the oldest message of the highest priority and returns its header and bytes, or zeros.
RELEASE, ABORT, QUEUE_FLUSH, PUSH_TIMEOUT discard; QUEUE_ENABLE starts an empty queue unless the pool or the credits
forbid it; QUEUE_DISABLE empties it. A hardware producer commits with credit and counts without it. A poll sample that posts
an event sets VALID and LAST_CODE; LAST takes its value only if it succeeded. (R202, R203, R204, R205, R206, R208, R209,
R211, R215, R218) -/
def Obligations.MessagesPushedAndPopped : Prop :=
  (∀ (s : State) (q : Nat) (who : Origin) (w : Word), mqReady s q = true → (queueOf s q).push = none →
    (4 ≤ bitsAt w.toNat 0 11 → bitsAt w.toNat 0 11 ≤ 1024 → mayProduce s q 0 (bitsAt w.toNat 0 11) = true →
      ∃ t, exec (.pushHdr q who w) s = .next t ∧ t.outs = s.outs ++ [.code codeOK] ∧ t.regs = s.regs ∧ t.mem = s.mem
        ∧ queueOf t q = { queueOf s q with push := some ⟨who, bitsAt w.toNat 0 11, bitsAt w.toNat 11 3, []⟩ }
        ∧ lookupKey (.push q) t.timers = some (s.mono + ticksMs) ∧ ∀ k, k ≠ q → queueOf t k = queueOf s k)
    ∧ ((bitsAt w.toNat 0 11 < 4 ∨ 1024 < bitsAt w.toNat 0 11) →
      exec (.pushHdr q who w) s = .next (output s (.code codeADDR_ERROR)))
    ∧ (4 ≤ bitsAt w.toNat 0 11 → bitsAt w.toNat 0 11 ≤ 1024 → mayProduce s q 0 (bitsAt w.toNat 0 11) = false →
      exec (.pushHdr q who w) s = .next (output s (.code codeREFUSED_BUSY))))
  ∧ (∀ (s : State) (q ofs : Nat) (who : Origin) (w : Word) (bs : List Byte) (p : MqPush), mqReady s q = true →
    (queueOf s q).push = some p → p.who ≠ who → bs ≠ [] →
    exec (.pushHdr q who w) s = .next (output s (.code codeREFUSED_BUSY))
    ∧ exec (.pushData q who ofs bs) s = .next (output s (.code codeREFUSED_BUSY)))
  ∧ (∀ (s : State) (q : Nat) (bs : List Byte) (p : MqPush), mqReady s q = true → (queueOf s q).push = some p → bs ≠ [] →
    ∃ t, exec (.pushData q p.who p.bytes.length bs) s = .next t ∧ t.outs = s.outs ++ [.code codeOK]
      ∧ t.regs = s.regs ∧ t.mem = s.mem
      ∧ (if p.len ≤ (p.bytes ++ bs).length then queueOf t q = { queueOf s q with
            push := none
            serial := (queueOf s q).serial + 1
            msgs := (queueOf s q).msgs ++ [⟨p.prio, 0, (queueOf s q).serial + 1, (p.bytes ++ bs).take p.len⟩] }
        else queueOf t q = { queueOf s q with push := some { p with bytes := p.bytes ++ bs } }
          ∧ lookupKey (.push q) t.timers = some (s.mono + ticksMs))
      ∧ ∀ k, k ≠ q → queueOf t k = queueOf s k)
  ∧ (∀ (s : State) (q ofs : Nat) (bs : List Byte) (p : MqPush), mqReady s q = true → (queueOf s q).push = some p →
    bs ≠ [] → ofs ≠ p.bytes.length → ∃ t, exec (.pushData q p.who ofs bs) s = .next t
      ∧ t.outs = s.outs ++ [.code codeADDR_ERROR] ∧ queueOf t q = { queueOf s q with push := none }
      ∧ getF t F.MQ_ABORTED_COUNT = (getF s F.MQ_ABORTED_COUNT + 1) % 2 ^ 32)
  ∧ (∀ (s : State) (q : Nat) (p : MqPush), (queueOf s q).push = some p →
    (due s (.push q) = true → ∃ t, exec (.pushTimeout q) s = .next t ∧ queueOf t q = { queueOf s q with push := none }
      ∧ running t (.push q) = false ∧ regsKept [F.MQ_ABORTED_COUNT.key] s t
      ∧ getF t F.MQ_ABORTED_COUNT = (getF s F.MQ_ABORTED_COUNT + 1) % 2 ^ 32)
    ∧ (mqReady s q = true → ∃ t, exec (.abort q) s = .next t ∧ queueOf t q = { queueOf s q with push := none }
      ∧ running t (.push q) = false ∧ regsKept [F.MQ_ABORTED_COUNT.key] s t
      ∧ getF t F.MQ_ABORTED_COUNT = (getF s F.MQ_ABORTED_COUNT + 1) % 2 ^ 32))
  ∧ (∀ (s : State) (q len : Nat), mqReady s q = true → getF s (F.MQ_Q_CFG_CONSUMER q) ≠ 1 →
    getF s (F.MQ_Q_CFG_CONSUMER q) ≠ 2 → 4 ≤ len → len ≤ 256 → len % 4 = 0 → s.flt.eccWords = [] →
    ∃ t, exec (.pop q len) s = .next t ∧ t.regs = s.regs ∧ t.mem = s.mem ∧ (∀ k, k ≠ q → queueOf t k = queueOf s k)
      ∧ match nextMsg (queueOf s q).msgs with
        | none => queueOf t q = { queueOf s q with held := none } ∧ t.outs = s.outs ++ [.read codeOK (List.replicate len 0)]
        | some m => queueOf t q = { queueOf s q with held := some m, msgs := (queueOf s q).msgs.erase m }
          ∧ t.outs = s.outs ++ [.read codeOK (padTo len (leBytes 4 (msgHeader m) ++ m.bytes))])
  ∧ (∀ (s : State) (q : Nat), mqReady s q = true →
    (∃ t, exec (.release q) s = .next t ∧ queueOf t q = { queueOf s q with held := none } ∧ t.regs = s.regs ∧ t.mem = s.mem
      ∧ ∀ k, k ≠ q → queueOf t k = queueOf s k)
    ∧ ∃ t, exec (.queueFlush q) s = .next t ∧ queueOf t q = { queueOf s q with held := none, msgs := [] }
      ∧ (∀ k, k ≠ q → queueOf t k = queueOf s k) ∧ regsKept [F.MQ_FLUSHED_COUNT.key] s t ∧ getF t F.MQ_FLUSHED_COUNT
        = (getF s F.MQ_FLUSHED_COUNT + ((queueOf s q).msgs.length + (queueOf s q).held.toList.length)) % 2 ^ 32)
  ∧ (∀ (s : State) (q : Nat) (w : Word), mqReady s q = true → flag s (F.MQ_Q_CFG_EN q) = false →
    (bitsAt w.toNat 13 15 ≤ unreserved s →
      ((upTo 4).map (fun k => if flag s (F.MQ_Q_PROD_VALID q k) then getF s (F.MQ_Q_PROD_CREDIT q k) else 0)).sum
        ≤ bitsAt w.toNat 13 15 →
      (bitsAt w.toNat 1 2 = 2 → bitsAt w.toNat 3 6 < s.ident.variant.engines) →
      ∃ t, exec (.queueEnable q w) s = .next t ∧ t.outs = s.outs ++ [.code codeOK] ∧ queueOf t q = MQueue.reset
        ∧ flag t (F.MQ_Q_CFG_EN q) = true ∧ getF t (F.MQ_Q_CFG_CAP q) = bitsAt w.toNat 13 15
        ∧ getF t (F.MQ_Q_CFG_CONSUMER q) = bitsAt w.toNat 1 2 ∧ regsKept [(F.MQ_Q_CFG_EN q).key] s t)
    ∧ (unreserved s < bitsAt w.toNat 13 15 →
      exec (.queueEnable q w) s = .next (output s (.code codeREFUSED_BUSY))))
  ∧ (∀ (s : State) (q : Nat), mqReady s q = true → flag s (F.MQ_Q_CFG_EN q) = true →
    ∃ t, exec (.queueDisable q) s = .next t ∧ t.outs = s.outs ++ [.code codeOK] ∧ flag t (F.MQ_Q_CFG_EN q) = false
      ∧ getF t (F.MQ_Q_CFG_CAP q) = getF s (F.MQ_Q_CFG_CAP q)
      ∧ (queueOf t q).msgs = [] ∧ (queueOf t q).held = none ∧ (queueOf t q).push = none
      ∧ regsKept [(F.MQ_Q_CFG_EN q).key, F.MQ_FLUSHED_COUNT.key, F.MQ_ABORTED_COUNT.key] s t)
  ∧ (∀ (s : State) (q prod prio : Nat) (bs : List Byte), q < 256 → prio < 8 → 4 ≤ bs.length → bs.length ≤ 1024 →
    1 ≤ prod → prod ≤ 7 →
    (mayProduce s q prod bs.length = true → ∃ t, exec (.messageProduce q prod prio bs) s = .next t ∧ t.regs = s.regs
      ∧ t.mem = s.mem ∧ (∀ k, k ≠ q → queueOf t k = queueOf s k)
      ∧ queueOf t q = { queueOf s q with
          serial := (queueOf s q).serial + 1
          msgs := (queueOf s q).msgs ++ [⟨prio, prod, (queueOf s q).serial + 1, bs⟩] })
    ∧ (mayProduce s q prod bs.length = false → exec (.messageProduce q prod prio bs) s = .next
        (if prod = 2 then s else if prod = 4 then incF s F.JCT_SINK_FULL_COUNT else incF s (F.MQ_Q_NOCRED_COUNT q))))
  ∧ (∀ (s : State) (q : Nat) (m : MqMsg), mqReady s q = true → live s unitARC = true → flag s (F.MQ_Q_CFG_EN q) = true →
    getF s (F.MQ_Q_CFG_CONSUMER q) = 2 → nextMsg (queueOf s q).msgs = some m → s.flt.eccWords = [] →
    ((m.bytes.length % 4 ≠ 0 ∨ 32 < m.bytes.length) →
      exec (.mqArcadeDeliver q) s = .next (incF (dropNext s q m) (F.MQ_Q_NOCRED_COUNT q)))
    ∧ (m.bytes.length % 4 = 0 → m.bytes.length ≤ 32 → ∀ t, pushWords s (getF s (F.MQ_Q_CFG_ENGINE q)) (wordsOf 8 m.bytes) = some t →
      exec (.mqArcadeDeliver q) s = .next (dropNext t q m))
    ∧ (m.bytes.length % 4 = 0 → m.bytes.length ≤ 32 → pushWords s (getF s (F.MQ_Q_CFG_ENGINE q)) (wordsOf 8 m.bytes) = none →
      exec (.mqArcadeDeliver q) s = .next s))
  ∧ (∀ (s : State) (e : Nat) (p : PollSample), s.txn.polled.find? (fun p => p.entry = e) = some p → live s unitMQ = true →
    p.code = codeOK → bitAt (pollWord s e 8) 0 = false → p.value < 2 ^ 64 →
    mayProduce s (bitsAt (pollWord s e 0) 8 8) 2 24 = true → s.flt.eccWords = [] →
    ∃ t, exec (.pollSampleComplete e) s = .next t ∧ t.txn.polled = s.txn.polled.erase p ∧ t.regs = s.regs
      ∧ memNat t (pollAddr e + 24) 8 = p.value ∧ bitAt (pollWord t e 8) 0 = true ∧ memKeptBut (pollAddr e) 64 s t
      ∧ bitsAt (pollWord t e 8) 1 4 = codeOK
      ∧ (queueOf t (bitsAt (pollWord s e 0) 8 8)).msgs = (queueOf s (bitsAt (pollWord s e 0) 8 8)).msgs
        ++ [⟨bitsAt (pollWord s e 0) 16 3, 2, (queueOf s (bitsAt (pollWord s e 0) 8 8)).serial + 1,
          pollEvent e codeOK ((pollWord s e 11 + 1) % 65536) p.at_ p.value 0 true false⟩])
  ∧ (∀ (s : State) (e : Nat) (p : PollSample), s.txn.polled.find? (fun p => p.entry = e) = some p → live s unitMQ = true →
    p.code ≠ codeOK → p.code < 16 → p.code ≠ bitsAt (pollWord s e 8) 1 4 →
    mayProduce s (bitsAt (pollWord s e 0) 8 8) 2 24 = true → s.flt.eccWords = [] →
    ∃ t, exec (.pollSampleComplete e) s = .next t ∧ t.regs = s.regs ∧ bitAt (pollWord t e 8) 0 = true
      ∧ bitsAt (pollWord t e 8) 1 4 = p.code ∧ memNat t (pollAddr e + 24) 8 = memNat s (pollAddr e + 24) 8
      ∧ memKeptBut (pollAddr e) 64 s t
      ∧ (queueOf t (bitsAt (pollWord s e 0) 8 8)).msgs = (queueOf s (bitsAt (pollWord s e 0) 8 8)).msgs
        ++ [⟨bitsAt (pollWord s e 0) 16 3, 2, (queueOf s (bitsAt (pollWord s e 0) 8 8)).serial + 1,
          pollEvent e p.code ((pollWord s e 11 + 1) % 65536) p.at_ 0 0 false true⟩])
  ∧ ∀ (s : State) (e : Nat) (p : PollSample), s.txn.polled.find? (fun p => p.entry = e) = some p → live s unitMQ = false →
    exec (.pollSampleComplete e) s = .next (pollBusy (s.withTxn { s.txn with polled := s.txn.polled.erase p }) e)

/-- EN = 1 with a bad bit timing is refused and sets TIMING_BAD; otherwise CFG takes effect at a frame boundary, at once
where the channel takes no part in the bus (log entry 23), and the channel is offline until it has integrated. An FD
frame is an error to a channel with FD_EN = 0; its effect on REC is taken from ISO 11898-1 (log entry 24). A frame
enters ring A of a channel without filters, or is counted as lost where the ring is full. TXREQ makes idle buffers
Pending; TXCAN cancels Pending ones; the winner becomes Active; an attempt leaves it Sent, Pending or Cancelled, and
Junction content that waits for buffer 31 then becomes Pending. Errors raise TEC and REC by ISO 11898-1; above 255 the channel is bus-off; recovery clears both. (R222, R225, R226, R233, R234, R235,
R236, R237, R238, R240) -/
def Obligations.BusChannels : Prop :=
  (∀ (s : State) (c : Nat) (w : Word), live s unitBUS = true → hasBus s c = true → badTiming s c (w.getLsbD 6) = true →
    ∃ t, exec (.busChannelEnable c w) s = .next t ∧ t.outs = s.outs ++ [.code codeREFUSED_BUSY]
      ∧ flag t (F.BUS_CH_STAT_TIMING_BAD c) = true ∧ regsKept [(F.BUS_CH_STAT_STATE c).key] s t ∧ t.pendFb = s.pendFb)
  ∧ (∀ (s : State) (c : Nat) (w : Word), live s unitBUS = true → hasBus s c = true → badTiming s c (w.getLsbD 6) = false →
    flag s (F.BUS_CH_CFG_EN c) = false → (busCh s c).active = none →
    ∃ t, exec (.busChannelEnable c w) s = .next t ∧ t.outs = s.outs ++ [.code codeOK]
      ∧ flag t (F.BUS_CH_CFG_EN c) = true ∧ bitsAt (regWord t (F.BUS_CH_CFG_EN c).key).toNat 1 31 = bitsAt w.toNat 1 7
      ∧ getF t (F.BUS_CH_STAT_STATE c) = (if getF s (F.BUS_CH_STAT_STATE c) = busOff then busOff else busOffline)
      ∧ regsKept [(F.BUS_CH_CFG_EN c).key, (F.BUS_CH_STAT_STATE c).key] s t ∧ memKept s t)
  ∧ (∀ (s : State) (c : Nat), live s unitBUS = true → hasBus s c = true → flag s (F.BUS_CH_CFG_EN c) = true →
    assoc (F.BUS_CH_CFG_EN c).key s.pendFb = none →
    (busOn s c = false → (busCh s c).active = none →
      ∃ t, exec (.busChannelDisable c) s = .next t ∧ t.outs = s.outs ++ [.code codeOK] ∧ flag t (F.BUS_CH_CFG_EN c) = false
        ∧ getF t (F.BUS_CH_STAT_STATE c) = (if getF s (F.BUS_CH_STAT_STATE c) = busOff then busOff else busOffline)
        ∧ (∀ b, bufState t c b = bufState s c b) ∧ regsKept [(F.BUS_CH_CFG_EN c).key, (F.BUS_CH_STAT_STATE c).key] s t)
    ∧ (busOn s c = true → ∃ t m w, exec (.busChannelDisable c) s = .next t ∧ t.outs = s.outs ++ [.code codeOK]
        ∧ assoc (F.BUS_CH_CFG_EN c).key t.pendFb = some (m, w) ∧ m.getLsbD 0 = true ∧ w.getLsbD 0 = false
        ∧ regsKept [] s t))
  ∧ (∀ (s : State) (c : Nat) (m w : Word), hasBus s c = true → flag s (F.BUS_CH_CFG_EN c) = true →
    assoc (F.BUS_CH_CFG_EN c).key s.pendFb = some (m, w) → w.getLsbD 0 = false → (busCh s c).active = none →
    ∃ t, exec (.fbCommit unitBUS c) s = .next t ∧ regWord t (F.BUS_CH_CFG_EN c).key = w
      ∧ assoc (F.BUS_CH_CFG_EN c).key t.pendFb = none
      ∧ getF t (F.BUS_CH_STAT_STATE c) = (if getF s (F.BUS_CH_STAT_STATE c) = busOff then busOff else busOffline)
      ∧ (∀ b, bufState t c b = bufState s c b) ∧ regsKept [(F.BUS_CH_CFG_EN c).key, (F.BUS_CH_STAT_STATE c).key] s t)
  ∧ (∀ (s : State) (c age : Nat) (f : CanFrame), busOn s c = true → f.fdf = true → flag s (F.BUS_CH_CFG_FD_EN c) = false →
    f.len ≤ 64 → restricted s c = false → getF s (F.BUS_CH_STAT_TEC c) ≤ 255 →
    ∃ t, exec (.busFrameReceive c ⟨f, age⟩) s = .next t ∧ t.outs = s.outs ++ [.canError c] ∧ t.mem = s.mem
      ∧ getF t (F.BUS_CH_STAT_REC c) = min 255 (getF s (F.BUS_CH_STAT_REC c) + 1)
      ∧ getF t (F.BUS_CH_ERR_RX_COUNT c) = (getF s (F.BUS_CH_ERR_RX_COUNT c) + 1) % 2 ^ 32)
  ∧ (∀ (s : State) (c age : Nat) (f : CanFrame), busOn s c = true → (f.fdf = true → flag s (F.BUS_CH_CFG_FD_EN c) = true) →
    f.len ≤ 64 → exec (.busFrameReceive c ⟨f, age⟩) s = .next (commitBus (receiveCan s c f age) c)
      ∧ getF (receiveCan s c f age) (F.BUS_CH_RX_FRAMES_COUNT c) = (getF s (F.BUS_CH_RX_FRAMES_COUNT c) + 1) % 2 ^ 32
      ∧ (isPriv s c = false → getF s (F.BUS_CH_STAT_TEC c) ≤ 255 →
        getF s (F.BUS_CH_RXA_WR c) < getF s (F.BUS_CH_RXCFG_NA c) → getF s (F.BUS_CH_RXA_RD c) < getF s (F.BUS_CH_RXCFG_NA c) →
        let esz := if flag s (F.BUS_CH_CFG_ESIZE c) then 72 else 16
        let a := busRam c + 0x900 + esz * getF s (F.BUS_CH_RXA_WR c)
        let next := (getF s (F.BUS_CH_RXA_WR c) + 1) % getF s (F.BUS_CH_RXCFG_NA c)
        if next = getF s (F.BUS_CH_RXA_RD c) then
          getF (receiveCan s c f age) (F.BUS_CH_RX_OVF_A_COUNT c) = (getF s (F.BUS_CH_RX_OVF_A_COUNT c) + 1) % 2 ^ 32
            ∧ memKept s (receiveCan s c f age)
        else getF (receiveCan s c f age) (F.BUS_CH_RXA_WR c) = next
          ∧ memRead (receiveCan s c f age) a 4 = leBytes 4 (entryWord0 f) ∧ memKeptBut a esz s (receiveCan s c f age)))
  ∧ (∀ (s : State) (c : Nat) (bufs : Word), live s unitBUS = true → hasBus s c = true →
    if flag s (F.BUS_CH_CFG_JTX c) = true ∧ bufs.getLsbD 31 = true then
      exec (.txRequest c bufs) s = .next (output s (.code codeREFUSED_BUSY))
        ∧ exec (.txCancel c bufs) s = .next (output s (.code codeREFUSED_BUSY))
    else (∃ t, exec (.txRequest c bufs) s = .next t ∧ t.outs = s.outs ++ [.code codeOK] ∧ t.mem = s.mem
        ∧ ∀ b, b < 32 → bufState t c b = (if bufs.getLsbD b = true ∧ bufLive s c b = false then bufPending else bufState s c b)
          ∧ (bufs.getLsbD b = true → bufLive s c b = false → bitF t (F.BUS_CH_TXREQ_BUFS c) b = true))
      ∧ ∃ t, exec (.txCancel c bufs) s = .next t ∧ t.outs = s.outs ++ [.code codeOK] ∧ t.mem = s.mem
        ∧ ∀ b, b < 32 → bufState t c b
            = (if bufs.getLsbD b = true ∧ bufState s c b = bufPending then bufCancelled else bufState s c b)
          ∧ (bufs.getLsbD b = true → bufState s c b = bufActive → bitF t (F.BUS_CH_TXCAN_BUFS c) b = true))
  ∧ (∀ (s : State) (c : Nat), busOn s c = true → restricted s c = false → (busCh s c).active = none →
    s.flt.eccWords = [] →
    (bestBuf s c = none → exec (.busArbitration c) s = .next s)
    ∧ (∀ b, bestBuf s c = some b → frameFits s c (bufFrame s c b) = true → ∃ t, exec (.busArbitration c) s = .next t
        ∧ (busCh t c).active = some b ∧ bufState t c b = bufActive ∧ t.mem = s.mem ∧ t.outs = s.outs
        ∧ getF t (F.BUS_CH_TXSTAT_ATTEMPTS c b) = min 65535 (getF s (F.BUS_CH_TXSTAT_ATTEMPTS c b) + 1)
        ∧ regsKept [(F.BUS_CH_TXSTAT_STATE c b).key] s t)
    ∧ ∀ b, bestBuf s c = some b → frameFits s c (bufFrame s c b) = false →
        exec (.busArbitration c) s = .next (chooseBuf (incF (leaveBuf s c b bufFormatError) (F.BUS_CH_TX_FMT_COUNT c)) c 31))
  ∧ (∀ (s : State) (c b : Nat) (how : TxEnd), hasBus s c = true → b < 32 → (busCh s c).active = some b →
    (busCh s c).jtxWait = none → getF s (F.BUS_CH_STAT_TEC c) ≤ 255 → s.flt.eccWords = [] → ∃ t, exec (.txAttemptEnd c how) s = .next t
      ∧ (busCh t c).active = none ∧ t.mem = s.mem
      ∧ match how with
        | .sent => bufState t c b = bufSent ∧ t.outs = s.outs ++ [.can c (bufFrame s c b)]
          ∧ getF t (F.BUS_CH_TX_FRAMES_COUNT c) = (getF s (F.BUS_CH_TX_FRAMES_COUNT c) + 1) % 2 ^ 32
          ∧ getF t (F.BUS_CH_STAT_TEC c) = getF s (F.BUS_CH_STAT_TEC c) - 1
        | .arbLost => bufState t c b = (if bitF s (F.BUS_CH_TXCAN_BUFS c) b then bufCancelled else bufPending) ∧ t.outs = s.outs
          ∧ getF t (F.BUS_CH_ARB_LOST_COUNT c) = (getF s (F.BUS_CH_ARB_LOST_COUNT c) + 1) % 2 ^ 32
        | .error => bufState t c b = (if bitF s (F.BUS_CH_TXCAN_BUFS c) b then bufCancelled else bufPending) ∧ t.outs = s.outs
          ∧ getF t (F.BUS_CH_ARB_LOST_COUNT c) = getF s (F.BUS_CH_ARB_LOST_COUNT c))
  ∧ (∀ (s : State) (c : Nat) (how : TxEnd) (j : JtxWait), hasBus s c = true → (busCh s c).active = some 31 →
    (busCh s c).jtxWait = some j → getF s (F.BUS_CH_STAT_TEC c) ≤ 255 → s.flt.eccWords = [] →
    ∃ t, exec (.txAttemptEnd c how) s = .next t ∧ (busCh t c).active = none ∧ (busCh t c).jtxWait = none
      ∧ bufState t c 31 = bufPending ∧ memRead t (bufAddr c 31) 4 = leBytes 4 (bitsAt j.arg.toNat 0 30)
      ∧ memKeptBut (bufAddr c 31) 72 s t)
  ∧ (∀ (s : State) (c : Nat) (kind : CanErr) (place : CanPlace), busOn s c = true → restricted s c = false →
    kind ≠ .protocolException →
    let n := if kind = .stuff ∧ place = .arbitration then 0
      else if kind = .ack ∧ getF s (F.BUS_CH_STAT_STATE c) = busPassive ∧ place ≠ .afterFlag then 0 else 8
    ∃ t, exec (.busError c kind true place) s = .next t
      ∧ getF t (F.BUS_CH_STAT_TEC c) = min 256 (getF s (F.BUS_CH_STAT_TEC c) + n)
      ∧ (if place = .run then t.outs = s.outs ∧ getF t (F.BUS_CH_STAT_LEC c) = getF s (F.BUS_CH_STAT_LEC c)
          ∧ getF t (F.BUS_CH_ERR_TX_COUNT c) = getF s (F.BUS_CH_ERR_TX_COUNT c)
        else t.outs = s.outs ++ [.canError c] ∧ getF t (F.BUS_CH_STAT_LEC c) = lecCode kind
          ∧ getF t (F.BUS_CH_ERR_TX_COUNT c) = (getF s (F.BUS_CH_ERR_TX_COUNT c) + 1) % 2 ^ 32)
      ∧ (if 255 < getF s (F.BUS_CH_STAT_TEC c) + n then getF t (F.BUS_CH_STAT_STATE c) = busOff
          ∧ (busCh t c).active = none ∧ (busCh t c).recovering = flag s (F.BUS_CH_CFG_AUTO_RECOVER c)
          ∧ (∀ b, b < 31 → (busCh s c).active = some b →
            bufState t c b = if bitF s (F.BUS_CH_TXCAN_BUFS c) b then bufCancelled else bufPending)
        else getF t (F.BUS_CH_STAT_STATE c) = (if 127 < getF s (F.BUS_CH_STAT_TEC c) + n ∨ 127 < getF s (F.BUS_CH_STAT_REC c)
          then busPassive else busActive)))
  ∧ (∀ (s : State) (c : Nat) (kind : CanErr) (place : CanPlace), busOn s c = true → restricted s c = false →
    kind ≠ .protocolException → getF s (F.BUS_CH_STAT_TEC c) ≤ 255 →
    ∃ t, exec (.busError c kind false place) s = .next t
      ∧ getF t (F.BUS_CH_STAT_LEC c) = (if place = .run then getF s (F.BUS_CH_STAT_LEC c) else lecCode kind)
      ∧ getF t (F.BUS_CH_STAT_REC c) = min 255 (getF s (F.BUS_CH_STAT_REC c)
        + (match place with | .frame => 1 | .arbitration => 1 | .flag => 8 | .afterFlag => 9 | .run => 8))
      ∧ getF t (F.BUS_CH_STAT_TEC c) = getF s (F.BUS_CH_STAT_TEC c) ∧ t.mem = s.mem
      ∧ regsKept [(F.BUS_CH_STAT_STATE c).key, (F.BUS_CH_ERR_RX_COUNT c).key] s t)
  ∧ (∀ (s : State) (c : Nat), live s unitBUS = true → hasBus s c = true → getF s (F.BUS_CH_STAT_STATE c) = busOff →
    (∃ t, exec (.recover c) s = .next t ∧ (busCh t c).recovering = true ∧ flag t (F.BUS_CH_CTL_RECOVER c) = true
      ∧ regsKept [(F.BUS_CH_CTL_RECOVER c).key] s t ∧ t.mem = s.mem)
    ∧ ((busCh s c).recovering = true → ∃ t, exec (.busRecoveryComplete c) s = .next t ∧ (busCh t c).recovering = false
      ∧ getF t (F.BUS_CH_STAT_TEC c) = 0 ∧ getF t (F.BUS_CH_STAT_REC c) = 0 ∧ flag t (F.BUS_CH_CTL_RECOVER c) = false
      ∧ getF t (F.BUS_CH_STAT_STATE c) = (if flag s (F.BUS_CH_CFG_EN c) then busActive else busOffline)
      ∧ regsKept [(F.BUS_CH_STAT_STATE c).key, (F.BUS_CH_CTL_RECOVER c).key] s t ∧ t.mem = s.mem))
  ∧ (∀ (s : State) (c : Nat), live s unitBUS = true → hasBus s c = true → flag s (F.BUS_CH_CFG_EN c) = true →
    getF s (F.BUS_CH_STAT_STATE c) = busOffline → getF s (F.BUS_CH_STAT_TEC c) ≤ 255 →
    ∃ t, exec (.busIntegrationComplete c) s = .next t ∧ busOn t c = true ∧ t.mem = s.mem ∧ t.outs = s.outs
      ∧ getF t (F.BUS_CH_STAT_STATE c) = (if 127 < getF s (F.BUS_CH_STAT_TEC c) ∨ 127 < getF s (F.BUS_CH_STAT_REC c)
          then busPassive else busActive) ∧ regsKept [(F.BUS_CH_STAT_STATE c).key] s t)
  ∧ ∀ (s : State) (c b : Nat), live s unitBUS = true → hasBus s c = true → b < 32 → bufLive s c b = true →
    flag s (F.BUS_CH_TXSTAT_STARVED c b) = false → getF s (F.BUS_CH_STARVE_STARVE_US c) ≠ 0 →
    getF s (F.BUS_CH_STARVE_STARVE_US c) ≤ bufAge s c b →
    ∃ t, exec (.bufferStarved c b) s = .next t ∧ flag t (F.BUS_CH_TXSTAT_STARVED c b) = true
      ∧ bitF t (F.BUS_CH_STARVE_SEEN_BUFS c) b = true ∧ bufState t c b = bufState s c b ∧ t.mem = s.mem
      ∧ getF t (F.BUS_CH_STARVE_CNT_COUNT c) = (getF s (F.BUS_CH_STARVE_CNT_COUNT c) + 1) % 2 ^ 32
      ∧ (flag s (F.BUS_CH_NOTE_STARVE c) = false → t.queues = s.queues)

/-- A row whose shifter operation cannot act stalls the engine and changes nothing else; any other row counts X, and goes
to the branch target, the loop start or the next row. EN starts an engine from Off, in Armed for START 1 and 2, and
its fall puts it in Off. HALT keeps the state for RESUME, which an engine marked dirty refuses; RESTART starts an
engine that is not Off, alone or in its group. A flush empties a FIFO; TX_PUSH is taken whole or refused; RX_POP takes
the oldest word; an engine that the part has not answers UNIT_ABSENT. (R2, R243, R244, R246, R250, R251, R252, R255, R256,
R258, R260) -/
def Obligations.ArcadeEngines : Prop :=
  (∀ (s : State) (e : Nat) (ext : BitVec 192), live s unitARC = true → hasEngine s e = true →
    (engineOf s e).state = .running ∨ (engineOf s e).state = .stalled → engineClockDue s e = true → s.flt.eccWords = [] →
    let u := (tickEngine s e).withPins { s.pins with gioExt := ext }
    let row := rowWord u e
    (shifterOp u e row ext = none → ∃ t, exec (.engineRowExecute e ext) s = .next t
      ∧ engineOf t e = { engineOf u e with state := .stalled } ∧ t.mem = s.mem ∧ regsKept [(F.ARC_E_STALL_COUNT e).key] s t
      ∧ getF t (F.ARC_E_STALL_COUNT e) = (getF s (F.ARC_E_STALL_COUNT e) + 1) % 2 ^ 32)
    ∧ ∀ v, shifterOp u e row ext = some v → (engineOf v e).loopPend = none →
      let w := drivePins (counters v e row) e row
      ∃ t, exec (.engineRowExecute e ext) s = .next t ∧ (engineOf t e).state = .running
        ∧ (engineOf t e).row = (if rowCondition w e row ext = true then bitsAt row 32 6
            else if (engineOf v e).row = getF v (F.ARC_E_CFG_LOOP_END e) then getF v (F.ARC_E_CFG_LOOP_START e)
            else ((engineOf v e).row + 1) % 64)
        ∧ (engineOf t e).x = counterOp (bitsAt row 24 2) (engineOf v e).x (regWord v (F.ARC_E_XA_VALUE e).key)
            (regWord v (F.ARC_E_XB_VALUE e).key)
        ∧ (engineOf t e).txf = (engineOf v e).txf ∧ (engineOf t e).rxf = (engineOf v e).rxf ∧ t.regs = v.regs ∧ t.mem = v.mem)
  ∧ (∀ (s : State) (e : Nat), live s unitARC = true → hasEngine s e = true → (engineOf s e).state = .off →
    ∃ t, exec (.engineEnable e) s = .next t ∧ t.outs = s.outs ++ [.code codeOK] ∧ flag t (F.ARC_E_CTL_EN e) = true
      ∧ (engineOf t e).state = (if getF s (F.ARC_E_CFG_START e) = 1 ∨ getF s (F.ARC_E_CFG_START e) = 2 then .armed else .running)
      ∧ (engineOf t e).row = getF s (F.ARC_E_CFG_ENTRY e) ∧ (engineOf t e).dsrLeft = 0 ∧ (engineOf t e).gtrHave = 0
      ∧ (engineOf t e).x = regWord s (F.ARC_E_XA_VALUE e).key ∧ (engineOf t e).y = regWord s (F.ARC_E_YA_VALUE e).key
      ∧ (∀ k, k ≠ e → engineOf t k = engineOf s k) ∧ t.mem = s.mem)
  ∧ (∀ (s : State) (e : Nat), live s unitARC = true → hasEngine s e = true → (engineOf s e).state ≠ .off →
    flag s (F.ARC_E_CTL_EN e) = true →
    (∃ t, exec (.engineDisable e) s = .next t ∧ (engineOf t e).state = .off ∧ (engineOf t e).loopPend = none
      ∧ flag t (F.ARC_E_CTL_EN e) = false ∧ (engineOf t e).txf = (engineOf s e).txf ∧ (engineOf t e).rxf = (engineOf s e).rxf
      ∧ (∀ k, k ≠ e → engineOf t k = engineOf s k) ∧ t.mem = s.mem)
    ∧ (∃ t, exec (.halt e) s = .next t ∧ t.outs = s.outs ++ [.code codeOK]
      ∧ engineOf t e = (if (engineOf s e).state.enabled = true
          then { passForced (engineOf s e) with state := .halted, haltedFrom := (engineOf s e).state } else engineOf s e)
      ∧ (passForced (engineOf s e)).acc = (if (engineOf s e).force then 0 else (engineOf s e).acc)
      ∧ (∀ k, k ≠ e → engineOf t k = engineOf s k) ∧ regsKept [] s t)
    ∧ (∃ t, exec (.resume e) s = .next t
      ∧ (engineOf t e).state = (if (engineOf s e).state = .halted ∧ (engineOf s e).dirty = false
          then (engineOf s e).haltedFrom else (engineOf s e).state)
      ∧ (engineOf t e).row = (engineOf s e).row ∧ (∀ k, k ≠ e → engineOf t k = engineOf s k)
      ∧ ((engineOf s e).state = .halted → (engineOf s e).dirty = true →
          flag t F.ARC_ERR_RESUME_REFUSED = true ∧ getF t F.ARC_ERR_ENGINE = e % 64))
    ∧ (∃ t, exec (.restart e) s = .next t ∧ (engineOf t e).row = getF s (F.ARC_E_CFG_ENTRY e)
      ∧ (engineOf t e).state = (if getF s (F.ARC_E_CFG_START e) = 1 ∨ getF s (F.ARC_E_CFG_START e) = 2 then .armed else .running)
      ∧ (∀ k, k ≠ e → engineOf t k = engineOf s k))
    ∧ (∃ t, exec (.flushTx e) s = .next t ∧ engineOf t e = { engineOf s e with txf := [] } ∧ regsKept [] s t ∧ t.mem = s.mem)
    ∧ ∃ t, exec (.flushRx e) s = .next t ∧ engineOf t e = { engineOf s e with rxf := [] } ∧ regsKept [] s t ∧ t.mem = s.mem)
  ∧ (∀ (s : State) (n : Nat) (es : BitVec 8), live s unitARC = true → n < s.ident.variant.arcades →
    ∃ t, exec (.arcadeGroupRestart n es) s = .next t ∧ t.outs = s.outs ++ [.code codeOK] ∧ ∀ m, m < 8 →
      if es.getLsbD m = true ∧ (engineOf s (8 * n + m)).state ≠ .off then
        (engineOf t (8 * n + m)).row = getF s (F.ARC_E_CFG_ENTRY (8 * n + m)) ∧ (engineOf t (8 * n + m)).dirty = false
      else engineOf t (8 * n + m) = engineOf s (8 * n + m))
  ∧ (∀ (s : State) (e ofs : Nat) (bs : List Byte), live s unitARC = true → hasEngine s e = true →
    ofs % 4 = 0 → bs.length % 4 = 0 → bs ≠ [] → ofs + bs.length ≤ 32 →
    ∃ t, exec (.txPush e ofs bs) s = .next t ∧ t.mem = s.mem
      ∧ if (engineOf s e).txf.length + (wordsOf 8 bs).length ≤ txCap s e then
          t.outs = s.outs ++ [.code codeOK] ∧ engineOf t e = { engineOf s e with txf := (engineOf s e).txf ++ wordsOf 8 bs }
          ∧ getF t (F.ARC_E_TX_WORDS_COUNT e) = (getF s (F.ARC_E_TX_WORDS_COUNT e) + (wordsOf 8 bs).length) % 2 ^ 32
        else t.outs = s.outs ++ [.code codeREFUSED_BUSY] ∧ t.engines = s.engines ∧ flag t F.ARC_ERR_PUSH_REFUSED = true)
  ∧ (∀ (s : State) (e : Nat), live s unitARC = true → hasEngine s e = true → flag s (F.ARC_E_CFG_RX_JCT e) = false →
    ((engineOf s e).rxf = [] → exec (.rxPop e 8) s
      = .next (output (twinNote s (.rxPop e)) (.read codeOK (List.replicate 8 0))))
    ∧ ∀ w ws, (engineOf s e).rxf = w :: ws → s.flt.eccWords = [] → ∃ t, exec (.rxPop e 8) s = .next t
      ∧ engineOf t e = { engineOf s e with rxf := ws } ∧ t.regs = s.regs ∧ t.mem = s.mem
      ∧ t.outs = s.outs ++ [.read codeOK (leBytes 4 (2 ^ 31 + (ws.length + 1)) ++ leBytes 4 w.toNat)])
  ∧ (∀ (s : State) (e ofs len : Nat) (bs : List Byte), live s unitARC = true → hasEngine s e = true →
    ((ofs % 4 ≠ 0 ∨ bs.length % 4 ≠ 0 ∨ bs = [] ∨ 32 < ofs + bs.length) →
      exec (.txPush e ofs bs) s = .next (output s (.code codeALIGN_ERROR)))
    ∧ (len ≠ 8 → exec (.rxPop e len) s = .next (output s (.read codeALIGN_ERROR (List.replicate len 0))))
    ∧ (flag s (F.ARC_E_CFG_RX_JCT e) = true →
      exec (.rxPop e 8) s = .next (output s (.read codeACCESS_DENIED (List.replicate 8 0)))))
  ∧ ∀ (s : State) (e ofs len : Nat) (bs : List Byte), live s unitARC = true → s.ident.variant.engines ≤ e →
    exec (.txPush e ofs bs) s = .next (output s (.code codeUNIT_ABSENT))
    ∧ exec (.rxPop e len) s = .next (output s (.read codeUNIT_ABSENT (List.replicate len 0)))

/-- A program row of a running engine is LOCKED; in Off or Halted it is stored, and a Halted engine becomes dirty. A write
of an engine's configuration has the effect and the code of its register: SHIFT of an enabled engine is refused when
it would change. Loop bounds written are stored in Off and wait otherwise, whatever values they have. PIN_SET, PIN_CLEAR and PIN_TOGGLE change the
output levels of their group alone. (R259, R261, R262, R265, R269) -/
def Obligations.ArcadeConfiguration : Prop :=
  (∀ (s : State) (e row : Nat) (w : BitVec 64), live s unitARC = true → hasEngine s e = true → row < 64 →
    ((engineOf s e).state.enabled = true → ∃ t, exec (.programRowWrite e row w) s = .next t ∧ t.mem = s.mem
      ∧ t.outs = s.outs ++ [.code codeLOCKED] ∧ t.engines = s.engines ∧ flag t F.ARC_ERR_PROG_BUSY = true)
    ∧ ((engineOf s e).state.enabled = false → ∃ t, exec (.programRowWrite e row w) s = .next t
      ∧ t.outs = s.outs ++ [.code codeOK] ∧ memNat t (keyOf unitARC (0x10000 + 0x200 * e + 8 * row)) 8 = w.toNat
      ∧ memKeptBut (keyOf unitARC (0x10000 + 0x200 * e + 8 * row)) 8 s t ∧ t.regs = s.regs
      ∧ (engineOf t e).state = (engineOf s e).state ∧ (engineOf t e).row = (engineOf s e).row
      ∧ ((engineOf s e).state = .halted → (engineOf t e).dirty = true)))
  ∧ (∀ (s : State) (e off : Nat) (w : Word), live s unitARC = true → hasEngine s e = true → off < 0x38 → off % 4 = 0 →
    let r := writeEngineConfig s e off w.toNat
    ∃ t, exec (.engineConfigWrite e off w) s = .next t ∧ t.outs = r.1.outs ++ [.code r.2] ∧ t.regs = r.1.regs
      ∧ t.engines = r.1.engines ∧ t.mem = r.1.mem ∧ t.jct = r.1.jct)
  ∧ (∀ (s : State) (e : Nat) (w : Word), live s unitARC = true → hasEngine s e = true → (engineOf s e).state.enabled = true →
    regWord s (F.ARC_E_SHIFT_LOAD_BITS e).key ≠ BitVec.ofNat 32 (w.toNat % 2 ^ 16) →
    exec (.engineConfigWrite e 8 w) s = .next (output s (.code codeREFUSED_BUSY)))
  ∧ (∀ (s : State) (e : Nat) (w : Word), live s unitARC = true → hasEngine s e = true →
    ∃ t, exec (.engineConfigWrite e 0x18 w) s = .next t ∧ regWord t (F.ARC_E_XA_VALUE e).key = w
      ∧ regsKept [(F.ARC_E_XA_VALUE e).key] s t ∧ t.engines = s.engines ∧ t.mem = s.mem)
  ∧ (∀ (s : State) (e : Nat) (a b : BitVec 6), live s unitARC = true → hasEngine s e = true →
    (regWord s (F.ARC_E_CFG_ENTRY e).key).toNat < 2 ^ 30 →
    ∃ t, exec (.loopBoundsWrite e a b) s = .next t ∧ t.outs = s.outs ++ [.code codeOK]
      ∧ regsKept [(F.ARC_E_CFG_ENTRY e).key] s t ∧ t.mem = s.mem ∧ getF t (F.ARC_E_CFG_ENTRY e) = getF s (F.ARC_E_CFG_ENTRY e)
      ∧ if (engineOf s e).state = .off then
          getF t (F.ARC_E_CFG_LOOP_START e) = a.toNat ∧ getF t (F.ARC_E_CFG_LOOP_END e) = b.toNat
        else (engineOf t e).loopPend = some (a.toNat, b.toNat)
          ∧ getF t (F.ARC_E_CFG_LOOP_START e) = getF s (F.ARC_E_CFG_LOOP_START e)
          ∧ getF t (F.ARC_E_CFG_LOOP_END e) = getF s (F.ARC_E_CFG_LOOP_END e))
  ∧ ∀ (s : State) (g : Nat) (w : Word), live s unitPIN = true → g < 6 →
    (∃ t, exec (.pinSet g w) s = .next t ∧ t.outs = s.outs ++ [.code codeOK] ∧ t.mem = s.mem
      ∧ regWord t (F.PIN_OUT_PINS g).key = regWord s (F.PIN_OUT_PINS g).key ||| w ∧ regsKept [(F.PIN_OUT_PINS g).key] s t)
    ∧ (∃ t, exec (.pinClear g w) s = .next t ∧ t.outs = s.outs ++ [.code codeOK] ∧ t.mem = s.mem
      ∧ regWord t (F.PIN_OUT_PINS g).key = regWord s (F.PIN_OUT_PINS g).key &&& ~~~w ∧ regsKept [(F.PIN_OUT_PINS g).key] s t)
    ∧ ∃ t, exec (.pinToggle g w) s = .next t ∧ t.outs = s.outs ++ [.code codeOK] ∧ t.mem = s.mem
      ∧ regWord t (F.PIN_OUT_PINS g).key = regWord s (F.PIN_OUT_PINS g).key ^^^ w ∧ regsKept [(F.PIN_OUT_PINS g).key] s t

/-- STEP moves a base once by its signed offset and leaves the other bases; a base the servo owns and a base already
stepped refuse it, and TB2 is not stepped. ARM gives the step back and clears VALID, TB0 going Free. Reports go out
every 1 ms and not by a broken port. A link report gives the link delay; the servo keeps RATE within 500 ppm; without
reports of a peer that is locked or Master TB0 goes from Locked to Holdover. A report of the TB1 source sets TB1 once. The 3 ms for TB1 reports is the
model's choice (log entry 27). (R270, R274, R277, R279, R281) -/
def Obligations.TimeBasesAndReports : Prop :=
  (∀ (s : State) (n : Nat), live s unitTIM = true → n < 4 → n ≠ 2 →
    (servoOwned s n = true → exec (.step n) s = .next (output s (.code codeREFUSED_BUSY)))
    ∧ (servoOwned s n = false → flag s (F.TIM_TB_STAT_STEPPED n) = true → exec (.step n) s
        = .next (output (setFlag s (F.TIM_TB_STAT_STEP_REFUSED n) true) (.code codeREFUSED_BUSY)))
    ∧ (servoOwned s n = false → flag s (F.TIM_TB_STAT_STEPPED n) = false → ∃ t, exec (.step n) s = .next t
        ∧ t.outs = s.outs ++ [.code codeOK] ∧ flag t (F.TIM_TB_STAT_STEPPED n) = true
        ∧ (t.tb n : Int) = ((s.tb n : Int) + stepOffset s n) % (baseModulus : Int) ∧ (∀ k, k < 4 → k ≠ n → t.tb k = s.tb k)
        ∧ regsKept [(F.TIM_TB_STAT_STEPPED n).key] s t ∧ t.mem = s.mem)
    ∧ ∃ t, exec (.arm n) s = .next t ∧ flag t (F.TIM_TB_STAT_STEPPED n) = false ∧ flag t (F.TIM_TB_STAT_VALID n) = false
        ∧ (n = 0 → tb0State t = tbFree) ∧ (n = 1 → t.time.tb1Following = false) ∧ t.time.bases = s.time.bases
        ∧ regsKept [(F.TIM_TB_STAT_STEPPED n).key] s t ∧ t.mem = s.mem)
  ∧ (∀ s : State, live s unitTIM = true → ∃ t u, exec (.step 2) s = .next t ∧ t.time = s.time ∧ t.regs = s.regs
      ∧ exec (.arm 2) s = .next u ∧ u.time = s.time ∧ u.regs = s.regs)
  ∧ (∀ (s : State) (p : Nat), live s unitTIM = true → live s unitRNG = true → p < 2 → buState s p = buUp →
    flag s (F.RNG_PORT_STAT_FR p) = false → due s (.linkReport p) = true →
    let u := startTimer (closeAverage s p) (.linkReport p) ticksMs
    exec (.linkReportSend p) s
        = .next (if broken s 0 && broken s 1 then incF u F.RNG_ADD_DROP_COUNT
          else if broken s p then u else addOnPort u p (timeFrame u 0 p 1 (linkPayload u p)))
      ∧ (portSt u p).numA = 0 ∧ (portSt u p).lastNumA = (portSt s p).numA
      ∧ lookupKey (.linkReport p) u.timers = some (s.mono + ticksMs))
  ∧ (∀ s : State, takeTime s 0 = none → exec .linkReportReceive s = .next s)
  ∧ (∀ (s u : State) (l : LocalFrame) (a : Int), takeTime s 0 = some (l, u) → live u unitTIM = true →
    flag u (F.RNG_PORT_STAT_FR l.port) = false → l.port < 2 → (portSt u l.port).lastA = some a →
    ofBe ((l.frame.payload.drop 8).take 2) ≠ 0 → getF u F.TIM_TB0_SYNC_MASTER = 0 →
    ∃ t, exec .linkReportReceive s = .next t ∧ t.time = s.time ∧ t.mem = s.mem
      ∧ regsKept [(F.TIM_PORT_DELAY_VALUE l.port).key] s t
      ∧ getF t (F.TIM_PORT_DELAY_VALUE l.port) = unsignedOf 32 (max 0 ((a + signed 64 (ofBe (l.frame.payload.take 8))) / 2)))
  ∧ (∀ (s u : State) (l : LocalFrame), takeTime s 0 = some (l, u) → live u unitTIM = true →
    flag u (F.RNG_PORT_STAT_FR l.port) = false → ((portSt u l.port).lastA = none ∨ ofBe ((l.frame.payload.drop 8).take 2) = 0) →
    getF u F.TIM_TB0_SYNC_MASTER ≠ 0 → tb0State u ≠ tbMaster → getF u F.TIM_TB0_SYNC_UPSTREAM = l.port →
    flag u F.TIM_TB0_CFG_SERVO = true →
    ((l.frame.payload.getD 10 0).getLsbD 0 = true →
      exec .linkReportReceive s = .next (startTimer u .upstream (3 * ticksMs)))
    ∧ ((l.frame.payload.getD 10 0).getLsbD 0 = false → tb0State u = tbLocked →
      ∃ t, exec .linkReportReceive s = .next t ∧ tb0State t = tbHoldover ∧ regsKept [(F.TIM_TB_STAT_STATE 0).key] s t))
  ∧ (∀ (s : State) (b : Nat), live s unitTIM = true → b < 2 → servoOwned s b = true → due s (.servo b) = true →
    ∃ t, exec (.servoUpdate b) s = .next t ∧ t.time = s.time ∧ t.mem = s.mem
      ∧ lookupKey (.servo b) t.timers = some (s.mono + ticksMs) ∧ regsKept [(F.TIM_TB_RATE_RATE b).key] s t
      ∧ (getF t (F.TIM_TB_RATE_RATE b) = getF s (F.TIM_TB_RATE_RATE b) ∨
        (-2147483 ≤ signed 32 (getF t (F.TIM_TB_RATE_RATE b)) ∧ signed 32 (getF t (F.TIM_TB_RATE_RATE b)) ≤ 2147483)))
  ∧ (∀ s : State, live s unitTIM = true → due s .upstream = true →
    (tb0State s = tbLocked → flag s F.TIM_TB0_CFG_SERVO = true → ∃ t, exec .upstreamReportTimeout s = .next t
      ∧ tb0State t = tbHoldover ∧ running t .upstream = false ∧ regsKept [(F.TIM_TB_STAT_STATE 0).key] s t ∧ t.mem = s.mem)
    ∧ (tb0State s ≠ tbLocked → exec .upstreamReportTimeout s = .next (stopTimer s .upstream)))
  ∧ (∀ s : State, live s unitTIM = true → live s unitRNG = true → isTb1Source s = true → due s .tb1Send = true →
    exec .tb1ReportSend s = .next (addOnPort (startTimer s .tb1Send ticksMs) 0 (timeFrame s 1 0 255 (tb1Payload s))))
  ∧ (∀ (s u : State) (l : LocalFrame) (k n : Nat) (sd : Bool), takeTime s 1 = some (l, u) → live u unitTIM = true →
    tb1SourceKey u = some (k, n, sd) → l.frame.srcNode.toNat = n → l.frame.side = sd → isTb1Source u = false →
    ∃ t, exec .tb1ReportReceive s = .next t ∧ t.time.tb1Following = true
      ∧ t.time.tb1Offset = some (reportedOffset l.frame.payload) ∧ flag t (F.TIM_TB_STAT_STEPPED 1) = true
      ∧ lookupKey .tb1Report t.timers = some (s.mono + 3 * ticksMs) ∧ t.tb 0 = s.tb 0 ∧ t.tb 2 = s.tb 2 ∧ t.tb 3 = s.tb 3
      ∧ (if flag s (F.TIM_TB_STAT_STEPPED 1) then t.tb 1 = s.tb 1
        else (t.tb 1 : Int) = ((s.tb 0 : Int) + reportedOffset l.frame.payload) % (baseModulus : Int)))
  ∧ ∀ s : State, due s .tb1Report = true → exec .tb1ReportTimeout s = .next (stopTimer s .tb1Report)

/-- Arming a disabled comparator clears ARMED; a one-shot is armed for its time, late if that has passed, a periodic one
for a time to come, a cycle-relative one for its time of the running cycle if that lies ahead. A firing counts, disarms a one-shot, and has its output: nothing, a pin set, cleared or toggled
unless an engine owns it, or the capture trigger. A capture of a selected edge outside a window raises SEQ and WR and
stores the time of its base; one outside its open window is only counted. (R168, R265, R286, R287, R288, R289) -/
def Obligations.TriggersAndCaptures : Prop :=
  (∀ (s : State) (k : Nat), live s unitTIM = true → k < 64 →
    (trgEnabled s k = false → ∃ t, exec (.triggerArm k) s = .next t ∧ flag t (F.TIM_TRG_STAT_ARMED k) = false
      ∧ t.time = s.time ∧ regsKept [(F.TIM_TRG_STAT_ARMED k).key] s t ∧ t.mem = s.mem)
    ∧ (trgEnabled s k = true → getF s (F.TIM_TRG_CFG_MODE k) = 0 → ∃ t, exec (.triggerArm k) s = .next t
      ∧ flag t (F.TIM_TRG_STAT_ARMED k) = true ∧ assoc k t.time.trgNext = some (trgCmp s k)
      ∧ (trgCmp s k ≤ s.tb (getF s (F.TIM_TRG_CFG_BASE k)) → flag t (F.TIM_TRG_STAT_LATE k) = true)
      ∧ regsKept [(F.TIM_TRG_STAT_ARMED k).key] s t ∧ t.time.bases = s.time.bases)
    ∧ (trgEnabled s k = true → getF s (F.TIM_TRG_CFG_MODE k) = 1 → ∃ t n, exec (.triggerArm k) s = .next t
      ∧ flag t (F.TIM_TRG_STAT_ARMED k) = true ∧ assoc k t.time.trgNext = some n
      ∧ s.tb (getF s (F.TIM_TRG_CFG_BASE k)) < n ∧ trgCmp s k ≤ n ∧ (n - trgCmp s k) % trgStep s k = 0)
    ∧ (trgEnabled s k = true → getF s (F.TIM_TRG_CFG_MODE k) = 2 → ∃ t, exec (.triggerArm k) s = .next t
      ∧ flag t (F.TIM_TRG_STAT_ARMED k) = true ∧ assoc k t.time.trgNext
        = if trgPeriod s k < s.time.cycleLen * 2 ^ 32
            ∧ tickTime s.mono < tickTime s.time.lastBoundary + trgPeriod s k then
          some (tickTime s.time.lastBoundary + trgPeriod s k) else none))
  ∧ (∀ (s : State) (k : Nat) (codes : List (BitVec 16)), k < 64 → trgDue s k = true →
    exec (.triggerFire k codes) s = .next (triggerOutput (fireTrigger (oweCaptures s k) k) k codes)
      ∧ (getF s (F.TIM_TRG_CFG_OUT k) = 0 → ∃ t, exec (.triggerFire k codes) s = .next t ∧ t.mem = s.mem ∧ t.outs = s.outs
        ∧ getF t (F.TIM_TRG_STAT_FIRED k) = (getF s (F.TIM_TRG_STAT_FIRED k) + 1) % 2 ^ 16
        ∧ (getF s (F.TIM_TRG_CFG_MODE k) = 0 → flag t (F.TIM_TRG_STAT_ARMED k) = false ∧ assoc k t.time.trgNext = none)
        ∧ regsKept [(F.TIM_TRG_STAT_FIRED k).key, (F.TIM_TRG_MISSED_COUNT k).key] s t)
      ∧ (getF s (F.TIM_TRG_CFG_OUT k) = 7 → live s unitPLZ = true → flag s F.PLZ_CAP_CFG_EN = true →
        getF s F.PLZ_CAP_CFG_TRIG_COUNT ≠ 0 → ∃ t, exec (.triggerFire k codes) s = .next t
          ∧ getF t F.PLZ_CAP_STAT_TRIG_LEFT = getF s F.PLZ_CAP_CFG_TRIG_COUNT % 2 ^ 12)
      ∧ ∀ g, getF s (F.TIM_TRG_CFG_OUT k) = 3 ∨ getF s (F.TIM_TRG_CFG_OUT k) = 4 ∨ getF s (F.TIM_TRG_CFG_OUT k) = 5 →
        getF s (F.TIM_TRG_CFG_GIO k) = g → g < 192 → live s unitPIN = true → ∃ t, exec (.triggerFire k codes) s = .next t
          ∧ bitF t (F.PIN_OUT_PINS (g / 32)) (g % 32)
            = if flag s (F.PIN_GIO_CFG_OWNER g) then bitF s (F.PIN_OUT_PINS (g / 32)) (g % 32)
              else if getF s (F.TIM_TRG_CFG_OUT k) = 3 then true else if getF s (F.TIM_TRG_CFG_OUT k) = 4 then false
              else !bitF s (F.PIN_OUT_PINS (g / 32)) (g % 32))
  ∧ ∀ (s : State) (k : Nat) (pad : Bool), live s unitTIM = true → k < 64 → flag s (F.TIM_CAP_CFG_EN k) = true →
    flag s (F.TIM_CAP_CFG_SRC k) = false →
    let g := getF s (F.TIM_CAP_CFG_INDEX k)
    let rising := pad != flag s (F.PIN_GIO_CFG_INV g)
    let t0 := s.tb (getF s (F.TIM_CAP_CFG_BASE k))
    let i := getF s (F.TIM_CAP_STAT_WR k)
    ((192 ≤ g ∨ edgeSelected (getF s (F.TIM_CAP_CFG_EDGE k)) rising = false) → exec (.captureEvent k pad) s = .next s)
    ∧ (g < 192 → edgeSelected (getF s (F.TIM_CAP_CFG_EDGE k)) rising = true → flag s (F.TIM_CAP_CFG_WIN_EN k) = false →
      ∃ t, exec (.captureEvent k pad) s = .next t
        ∧ getF t (F.TIM_CAP_STAT_SEQ k) = (getF s (F.TIM_CAP_STAT_SEQ k) + 1) % 2 ^ 16
        ∧ getF t (F.TIM_CAP_STAT_WR k) = (i + 1) % 4
        ∧ getWords t (F.TIM_CAP_SLOT_TIME k i 0).key 3 = tripleOf t0
        ∧ flag t (F.TIM_CAP_SLOT_TAG_RISE k i) = rising
        ∧ getF t (F.TIM_CAP_SLOT_TAG_SEQ k i) = (getF s (F.TIM_CAP_STAT_SEQ k) + 1) % 2 ^ 16
        ∧ t.time = s.time ∧ t.mem = s.mem)
    ∧ (g < 192 → edgeSelected (getF s (F.TIM_CAP_CFG_EDGE k)) rising = true → flag s (F.TIM_CAP_CFG_WIN_EN k) = true →
      ofTriple (getWords s (F.TIM_CAP_CLOSE_TIME k 0).key 3) / 2 ^ 24 ≤ t0 / 2 ^ 24 →
      exec (.captureEvent k pad) s = .next (incF s (F.TIM_CAP_OUTWIN_COUNT k)))

/-- Each of the ten operations queues its OP in a slot that is neither Queued nor running, behind those already queued,
and is REFUSED_BUSY otherwise. The oldest Queued descriptor waits while the hold slots it needs are taken, ends with
the result its checks give, or runs, in Pass 1 for a long GCM decryption. A refused key ends it KEY_REFUSED; a wrong
GCM tag ends it with result 1 and nothing written; CMAC leaves its tag in IV; UNWRAP_RING loads the RING root. (R297,
R299, R310, R312, R314, R315, R316) -/
def Obligations.DescriptorsQueuedAndRun : Prop :=
  (∀ (s : State) (d : Nat) (ctl : Word), live s unitCIP = true → d < 16 →
    ∀ p ∈ [(Instr.gcmEncrypt d ctl, 5), (Instr.gcmDecrypt d ctl, 6), (Instr.cbcEncrypt d ctl, 0), (Instr.cbcDecrypt d ctl, 1),
      (Instr.cfbEncrypt d ctl, 2), (Instr.cfbDecrypt d ctl, 3), (Instr.ctr d ctl, 4), (Instr.cmacGenerate d ctl, 8),
      (Instr.cmacVerify d ctl, 9), (Instr.unwrapRing d ctl, 10)],
    (dBusy s d = true → exec p.1 s = .next (output s (.code codeREFUSED_BUSY)))
    ∧ (dBusy s d = false → ∃ t, exec p.1 s = .next t ∧ t.outs = s.outs ++ [.code codeOK] ∧ dState t d = 1 ∧ dOp t d = p.2
      ∧ bitsAt (regWord t (F.CIP_D_CTL_OP d).key).toNat 4 24 = bitsAt ctl.toNat 4 24
      ∧ t.cip.order = s.cip.order ++ [d] ∧ assoc d t.cip.writer = some true
      ∧ regsKept [(F.CIP_D_CTL_OP d).key, (F.CIP_D_STAT_STATE d).key] s t ∧ t.mem = s.mem))
  ∧ (∀ (s : State) (d : Nat) (rest : List Nat), live s unitCIP = true → s.cip.order = d :: rest → d < 16 →
    getF s (F.CIP_D_CTL_SRC_KIND d) ≠ 2 →
    let len := getF s (F.CIP_D_LEN_LEN d)
    (startError s d len = 0 → wantsHold s d len = true → 4 ≤ s.cip.hold.length → exec .descriptorStart s = .next s)
    ∧ (startError s d len ≠ 0 → ∃ t, exec .descriptorStart s = .next t ∧ dState t d = 4
      ∧ getF t (F.CIP_D_STAT_RESULT d) = startError s d len ∧ bitF t F.CIP_DONE_DONE d = true ∧ d ∉ t.cip.order
      ∧ t.mem = s.mem ∧ t.outs = s.outs ∧ regsKept [(F.CIP_D_STAT_STATE d).key, F.CIP_DONE_DONE.key] s t)
    ∧ (startError s d len = 0 → (wantsHold s d len = true → s.cip.hold.length < 4) → wantsNonce s d = false →
      wantsRandom s d = false → ∃ t, exec .descriptorStart s = .next t
      ∧ dState t d = (if dOp s d = 6 ∧ 16384 < len then 2 else 3) ∧ d ∉ t.cip.order
      ∧ t.cip.hold = (if wantsHold s d len then s.cip.hold ++ [d] else s.cip.hold) ∧ t.mem = s.mem
      ∧ regsKept [(F.CIP_D_STAT_STATE d).key, F.CIP_DERIVE_COUNT.key] s t))
  ∧ (∀ (s u : State) (d : Nat) (key : List Nat), live s unitCIP = true → d < 16 → dState s d = 2 → s.upd.actSlot ≠ some d →
    s.flt.eccWords = [] → descriptorKey s d = some (key, u) →
    (gcmTagOk (cipJob u d key) = true → exec (.pass1Complete d) s = .next (setF u (F.CIP_D_STAT_STATE d) 3))
    ∧ (gcmTagOk (cipJob u d key) = false → ∃ t, exec (.pass1Complete d) s = .next t ∧ dState t d = 4
      ∧ getF t (F.CIP_D_STAT_RESULT d) = 1 ∧ t.mem = s.mem ∧ t.outs = s.outs
      ∧ getF t F.CIP_TAG_FAIL_COUNT = (getF s F.CIP_TAG_FAIL_COUNT + 1) % 2 ^ 32))
  ∧ (∀ (s : State) (d : Nat), live s unitCIP = true → d < 16 → dState s d = 3 → s.upd.actSlot ≠ some d →
    (getF s (F.CIP_D_CTL_DST_KIND d) = 1 → dOp s d < 7 → nvmWritable s = true) →
    exec (.descriptorComplete d) s = .next (runDescriptor s d)
    ∧ (descriptorKey s d = none → ∃ t, exec (.descriptorComplete d) s = .next t ∧ dState t d = 4
      ∧ getF t (F.CIP_D_STAT_RESULT d) = 3 ∧ t.mem = s.mem)
    ∧ ∀ key u, descriptorKey s d = some (key, u) → s.flt.eccWords = [] →
      (dOp s d = 6 → (cipJob u d key).data.length ≤ 16384 → gcmTagOk (cipJob u d key) = false →
        ∃ t, exec (.descriptorComplete d) s = .next t ∧ dState t d = 4 ∧ getF t (F.CIP_D_STAT_RESULT d) = 1
          ∧ t.mem = s.mem ∧ t.plaza = s.plaza)
      ∧ (dOp s d = 8 → ∃ t, exec (.descriptorComplete d) s = .next t ∧ dState t d = 4 ∧ getF t (F.CIP_D_STAT_RESULT d) = 0
          ∧ (ivBytes t d).take (tagLen s d) = (ivBytes (setIv u d ((cmac key (cipJob u d key).data).take (tagLen s d))) d).take (tagLen s d)
          ∧ t.mem = s.mem)
      ∧ (dOp s d = 10 → gcmTagOk (cipJob u d key) = true → ∃ t, exec (.descriptorComplete d) s = .next t ∧ dState t d = 4
          ∧ getF t (F.CIP_D_STAT_RESULT d) = 0 ∧ t.mem = s.mem ∧ t.cip.ringRoot
            = some (bytesKey (gcmCrypt key ((cipJob u d key).iv.take 12) (cipJob u d key).data))))

/-- CACHE_FLUSH leaves only the pinned entries. LGEN_NEXT raises the local generation and gives every local slot a counter
of 0 and a limit of 2^20, waits while NVM may not be written, and has no effect at the last generation. Key registers
accept writes only where they are live and no descriptor names them. A completed reservation raises the slot's limit
by 2^20. An entropy failure is recorded and counted. (R296, R299, R300, R306, R307, R309) -/
def Obligations.KeysNoncesEntropy : Prop :=
  (∀ s : State, live s unitCIP = true → ∃ t, exec .cacheFlush s = .next t
    ∧ t.cip = { s.cip with cache := s.cip.cache.filter (cachePinned s) } ∧ t.regs = s.regs ∧ t.mem = s.mem)
  ∧ (∀ s : State, live s unitCIP = true → getF s F.CIP_LGEN_LGEN ≠ 2 ^ 28 - 1 →
    (nvmWritable s = true → ∃ t, exec .lgenNext s = .next t ∧ getF t F.CIP_LGEN_LGEN = getF s F.CIP_LGEN_LGEN + 1
      ∧ flag t F.CIP_CTL_LGEN_NEXT = false ∧ (∀ n, n < 16 → nctr t (2 + n) = 0 ∧ nlim t (2 + n) = 2 ^ 20)
      ∧ (∀ n, n < 2 → nctr t n = nctr s n ∧ nlim t n = nlim s n) ∧ (∀ k ∈ t.cip.exhausted, k < 2)
      ∧ getF t F.CIP_NONCE_REC_COUNT = (getF s F.CIP_NONCE_REC_COUNT + 16) % 2 ^ 32)
    ∧ (nvmWritable s = false → ∃ t, exec .lgenNext s = .next t ∧ getF t F.CIP_LGEN_LGEN = getF s F.CIP_LGEN_LGEN
      ∧ t.cip = { s.cip with lgenBusy := true } ∧ flag t F.CIP_CTL_LGEN_NEXT = true ∧ t.mem = s.mem))
  ∧ (∀ s : State, live s unitCIP = true → getF s F.CIP_LGEN_LGEN = 2 ^ 28 - 1 → ∃ t, exec .lgenNext s = .next t
    ∧ getF t F.CIP_LGEN_LGEN = 2 ^ 28 - 1 ∧ t.cip = { s.cip with lgenBusy := false }
    ∧ regsKept [F.CIP_CTL_LGEN_NEXT.key] s t ∧ t.mem = s.mem)
  ∧ (∀ (s : State) (k w : Nat) (v : Word), live s unitCIP = true → k < 8 → w < 8 →
    (keyRegsLive s = false → exec (.keyRegisterWrite k w v) s = .next (output s (.code codeACCESS_DENIED)))
    ∧ (keyRegsLive s = true → keyRegNamed s k = true →
      exec (.keyRegisterWrite k w v) s = .next (output s (.code codeREFUSED_BUSY)))
    ∧ (keyRegsLive s = true → keyRegNamed s k = false → ∃ t, exec (.keyRegisterWrite k w v) s = .next t
      ∧ t.outs = s.outs ++ [.code codeOK] ∧ assoc (8 * k + w) t.cip.keyRegs = some v
      ∧ (∀ j, j ≠ 8 * k + w → assoc j t.cip.keyRegs = assoc j s.cip.keyRegs) ∧ t.regs = s.regs ∧ t.mem = s.mem))
  ∧ (∀ (s : State) (slot : Nat), live s unitCIP = true → s.cip.reserving.contains slot = true → nvmWritable s = true →
    slot < 18 → ∃ t, exec (.nonceReservationComplete slot) s = .next t ∧ nlim t slot = (nlim s slot + 2 ^ 20) % 2 ^ 64
      ∧ nctr t slot = nctr s slot ∧ slot ∉ t.cip.reserving
      ∧ getF t F.CIP_NONCE_REC_COUNT = (getF s F.CIP_NONCE_REC_COUNT + 1) % 2 ^ 32
      ∧ memKeptBut (nonceLogAddr s.cip.nonceSeq.toNat) 64 s t ∧ t.cip.nonceSeq = s.cip.nonceSeq + 1)
  ∧ ∀ s : State, live s unitCIP = true → ∃ t, exec .entropyFail s = .next t ∧ t.cip.entropyFailed = true
    ∧ getF t F.FLT_TOTAL_COUNT = (getF s F.FLT_TOTAL_COUNT + 1) % 2 ^ 32
    ∧ getF t (F.FLT_CLASS_CNT_COUNT 1) = (getF s (F.FLT_CLASS_CNT_COUNT 1) + 1) % 2 ^ 32
    ∧ getF t (F.FLT_UNIT_CNT_COUNT unitCIP) = (getF s (F.FLT_UNIT_CNT_COUNT unitCIP) + 1) % 2 ^ 32

/-- TWN_PEER high takes TWN_OE low, and of two claims side B's falls. TWN_PEER low starts a filter of 2 us; then a Standby
that still sees an Active peer only reports it, once, and a Single hub in service claims. The end of the wait makes a
NotReady hub Active. HANDOVER is taken, or refused with its reason; the former Active is Standby, or NotReady where it
releases its claim, once the last delta is acknowledged 3 us before the boundary, and too late an acknowledgement counts
a wait. Missed heartbeats or a missed boundary end the claim, by the planned path where the link is up and a boundary near.
HB restarts its count. RESYNC makes a Standby NotReady. A lost link does the same, and may let a NotReady hub take over.
(R319, R320, R321, R324, R331, R334, R335) -/
def Obligations.TwinInterlock : Prop :=
  (∀ s : State, s.ident.variant.hasTwn = true → ∃ t, exec .twnPeerRise s = .next t ∧ t.pins.twnPeer = true
    ∧ t.twin.oe = false ∧ running t .peerLow = false ∧ t.mem = s.mem
    ∧ t.twin.claim = (s.twin.claim && !s.dev.side)
    ∧ (s.twin.claim = true → s.dev.side = true →
      getF t F.TWN_CLAIM_YIELD_COUNT = (getF s F.TWN_CLAIM_YIELD_COUNT + 1) % 2 ^ F.TWN_CLAIM_YIELD_COUNT.width))
  ∧ (∀ s : State, s.pins.twnPeer = true → ∃ t, exec .twnPeerFall s = .next t ∧ t.pins.twnPeer = false
    ∧ lookupKey .peerLow t.timers = some (s.mono + 2 * ticksUs) ∧ t.twin = s.twin ∧ t.regs = s.regs ∧ t.mem = s.mem)
  ∧ (∀ s : State, peerLow s = true →
    (s.twin.role = .standby → s.twin.claim = false → s.twin.linkUp = true → s.twin.peerRole = 0 →
      ∃ t, exec .peerLowQualified s = .next t ∧ t.twin = { s.twin with pinFault := true }
      ∧ (s.twin.pinFault = false → getF t F.TWN_PEER_PIN_FAULT_COUNT
        = (getF s F.TWN_PEER_PIN_FAULT_COUNT + 1) % 2 ^ F.TWN_PEER_PIN_FAULT_COUNT.width)
      ∧ (s.twin.pinFault = true → t.regs = s.regs))
    ∧ (s.twin.role = .single → inService s = true → exec .peerLowQualified s
      = .next (s.withTwin { s.twin with pinFault := false, claim := true, oe := true }))
    ∧ (s.twin.role = .single → inService s = false → exec .peerLowQualified s
      = .next (s.withTwin { s.twin with pinFault := false })))
  ∧ (∀ s : State, due s .solo = true →
    (twinLive s = true → s.twin.role = .notReady → inService s = true → claimConditions s = true →
      exec .soloWaitExpiry s = .next (becomeActive (stopTimer s .solo))
      ∧ (s.txn.recorded = [] → ∃ t, exec .soloWaitExpiry s = .next t ∧ t.twin.role = .active ∧ t.twin.claim = true
        ∧ t.twin.oe = true ∧ t.txn = s.txn ∧ running t .solo = false ∧ t.mem = s.mem
        ∧ t.plaza = s.plaza ∧ ∀ q, headRef t q = (queueRefs t q).head?))
    ∧ (claimConditions s = false → exec .soloWaitExpiry s = .next (stopTimer s .solo)))
  ∧ (∀ s : State, live s unitTWN = true → ∃ t, exec .handover s = .next t ∧ t.twin.role = s.twin.role
    ∧ t.twin.claim = s.twin.claim ∧ flag t F.TWN_CTL_HANDOVER = decide (handoverRefusal s = 0)
    ∧ (handoverRefusal s = 0 → t.twin.handoverReq = true)
    ∧ (handoverRefusal s ≠ 0 → t.twin.handoverReq = s.twin.handoverReq ∧ flag t F.TWN_STAT_REFUSED = true
      ∧ getF t F.TWN_STAT_REFUSE_REASON = handoverRefusal s))
  ∧ (∀ s : State, twinLive s = true → s.twin.role = .active → s.twin.finalOut = true → toBoundary s ≤ 3 * ticksUs →
    ∃ t, exec .handoverRelease s = .next t
    ∧ (s.twin.finalAcked = true → t.twin.role = (if s.twin.releasing then .notReady else .standby) ∧ t.twin.claim = false
      ∧ t.twin.oe = false ∧ t.twin.served = some s.time.cycleNo ∧ t.txn.copied = s.txn.executed)
    ∧ (s.twin.finalAcked = false → toBoundary s < 1100 → t.twin = { s.twin with finalOut := false }
      ∧ getF t F.TWN_HANDOVER_WAIT_COUNT = (getF s F.TWN_HANDOVER_WAIT_COUNT + 1) % 2 ^ F.TWN_HANDOVER_WAIT_COUNT.width))
  ∧ (∀ s : State, twinLive s = true → s.twin.role = .active →
    (getF s F.TWN_CFG_HB_CYCLES ≠ 0 → getF s F.TWN_CFG_HB_CYCLES ≤ s.twin.hbCount → s.twin.hbSuspended = false →
      exec .heartbeatMissed s = .next (releaseClaim s))
    ∧ (s.time.lastBoundary + 3 * s.time.cycleLen / 4 ≤ s.mono → exec .boundaryWatchdog s = .next (releaseClaim s))
    ∧ (s.twin.linkUp = false ∨ boundaryNear s = false → (releaseClaim s).twin.role = .notReady
      ∧ (releaseClaim s).twin.claim = false ∧ (releaseClaim s).twin.oe = false)
    ∧ (s.twin.linkUp = true → boundaryNear s = true →
      releaseClaim s = s.withTwin { s.twin with handoverReq := true, releasing := true }))
  ∧ (∀ s : State, live s unitTWN = true →
    (∃ t, exec .hb s = .next t ∧ t.twin.hbCount = 0 ∧ t.twin.hbSuspended = false ∧ t.twin.role = s.twin.role
      ∧ t.twin.claim = s.twin.claim ∧ t.mem = s.mem)
    ∧ ∃ t, exec .resync s = .next t ∧ t.mem = s.mem ∧ t.twin.claim = s.twin.claim
      ∧ t.twin.role = (if s.twin.role = .standby then .notReady else s.twin.role)
      ∧ (s.twin.role = .standby ∨ s.twin.role = .notReady → flag t F.TWN_CTL_RESYNC = true))
  ∧ ∀ (s : State) (lost : Bool), s.twin.linkUp = true → (lost = true ∨ due s .twinKa = true) →
    (flag s F.TWN_CFG_COLD_EN = false ∨ peerLow s = false → ∃ t, exec (.twinLinkDown lost) s = .next t
      ∧ t.twin.linkUp = false ∧ t.twin.peerRole = 3 ∧ t.mem = s.mem
      ∧ if s.twin.role = .standby ∨ s.twin.role = .active ∧ s.twin.releasing = true then
          t.twin.role = .notReady ∧ (s.twin.role = .active → t.twin.claim = false ∧ t.twin.oe = false)
        else t.twin.role = s.twin.role ∧ t.twin.claim = s.twin.claim)
    ∧ (flag s F.TWN_CFG_COLD_EN = true → peerLow s = true → s.twin.role = .notReady → inService s = true →
      twinLive s = true → running s .solo = false → s.txn.recorded = [] → ∃ t, exec (.twinLinkDown lost) s = .next t
      ∧ t.twin.role = .active ∧ t.twin.claim = true ∧ t.twin.oe = true ∧ t.twin.linkUp = false
      ∧ getF t F.TWN_LAST_SWITCH_REASON = 3)

/-- A keepalive goes out every microsecond as the words of its frame; one received tells role, schema and the wish to
resynchronise, reports a peer that is Active while TWN_PEER is low, and restarts the 8 us; such a wish is answered with the snapshot's segments. A delta segment with a wrong CRC
is none; OVER makes a Standby NotReady; an incomplete delta is kept, a complete one acknowledged with its cycle and CRC-32,
and a FINAL one applied. An acknowledgement of the delta sent is noted, another is not. A snapshot segment is applied, the
last completing it. Departure records go out at 112 each microsecond; one received removes the frame it names from the head
of its shadow queue, or counts a miss. That an acknowledgement with another CRC-32 is none is the model's reading (log entry
203). (R326, R327, R329, R330, R337, log entry 203) -/
def Obligations.TwinLinkTraffic : Prop :=
  (∀ s : State, twinLive s = true → buState s 2 = buUp → due s .twinKaSend = true →
    let m := TwinMsg.keepalive (BitVec.ofNat 8 s.twin.role.code) (ownSchema s) (wantsResync s)
    ∃ t slot marks, exec .twinKeepaliveSend s = .next t ∧ t.regs = s.regs ∧ t.twin = s.twin ∧ t.mem = s.mem
    ∧ t.outs = s.outs
      ++ .twin m slot (frameWords (twinBody (ownSchema s) m ++ fcsBytes (twinBody (ownSchema s) m) false)) :: marks
    ∧ marks.length ≤ 2 ∧ lookupKey .twinKaSend t.timers = some (s.mono + ticksUs))
  ∧ (∀ (s : State) (role schema : BitVec 8) (resync : Bool), twinLive s = true → buState s 2 = buUp →
    (s.twin.role = .notReady → flag s F.TWN_CFG_COLD_EN = false) →
    ∃ t, exec (.twinKeepaliveReceive role schema resync) s = .next t ∧ t.twin.linkUp = true
    ∧ t.twin.peerRole = role.toNat % 4 ∧ t.twin.peerSchema = schema ∧ t.twin.peerResync = resync
    ∧ t.twin.role = s.twin.role ∧ t.twin.claim = s.twin.claim
    ∧ (s.twin.role ≠ .standby ∨ s.twin.pinFault = true → t.mem = s.mem)
    ∧ (s.twin.role = .standby → s.twin.pinFault = false → peerLow s = true → role.toNat % 4 = 0 →
      getF t F.TWN_PEER_PIN_FAULT_COUNT
        = (getF s F.TWN_PEER_PIN_FAULT_COUNT + 1) % 2 ^ F.TWN_PEER_PIN_FAULT_COUNT.width)
    ∧ lookupKey .twinKa t.timers = some (s.mono + 8 * ticksUs)
    ∧ (s.twin.role = .active → resync = true → s.twin.peerResync = false → schema = ownSchema s →
      flag t F.TWN_STAT_RESYNC_BUSY = true ∧ flag t F.TWN_STAT_SW_INHIBIT = true
      ∧ ∃ u sent, u.mem = s.mem ∧ u.queues = s.queues ∧ u.bus = s.bus ∧ u.txn = s.txn
        ∧ regsKept [F.TWN_STAT_RESYNC_BUSY.key, F.TWN_RESYNCS_COUNT.key] s u ∧ t.outs = s.outs ++ sent
        ∧ (sent.flatMap (fun e => match e with
            | .twin (.snapshot _ recs) _ _ => recs
            | _ => [])) = snapRecords u)
    ∧ (s.twin.role = .notReady → role.toNat % 4 = 0 → schema ≠ ownSchema s → getF t F.TWN_STAT_REFUSE_REASON = 4))
  ∧ (∀ (s : State) (seg : DeltaSeg), twinLive s = true → s.twin.linkUp = true →
    (s.twin.role = .standby ∨ s.twin.role = .notReady) →
    (seg.crcOk = false → exec (.deltaSegmentReceive seg) s = .next s)
    ∧ (seg.crcOk = true → seg.overBudget = true → ∃ t, exec (.deltaSegmentReceive seg) s = .next t
      ∧ t.twin = { s.twin with role := .notReady } ∧ t.regs = s.regs ∧ t.mem = s.mem)
    ∧ (seg.crcOk = true → seg.overBudget = false →
      let others := s.twin.rxDelta.filter (fun d => !(d.cycle = seg.cycle && d.index = seg.index))
      let u := s.withTwin { s.twin with rxDelta := others ++ [seg] }
      (deltaComplete u seg.cycle = false → exec (.deltaSegmentReceive seg) s = .next u)
      ∧ (deltaComplete u seg.cycle = true → seg.final = false → exec (.deltaSegmentReceive seg) s
        = .next (setF (sendTwin u (.ack seg.cycle (deltaCrc (ownSchema s) (deltaRecords u seg.cycle))))
          F.TWN_CYCLE_ACKED seg.cycle.toNat))
      ∧ (deltaComplete u seg.cycle = true → seg.final = true → ∃ t, exec (.deltaSegmentReceive seg) s = .next t
        ∧ t.twin.finalIn = some seg.cycle ∧ getF t F.TWN_CYCLE_SENT = seg.cycle.toNat)))
  ∧ (∀ (s : State) (cycle : BitVec 16) (crc : Word), twinLive s = true → s.twin.role = .active → s.twin.linkUp = true →
    (getF s F.TWN_CYCLE_SENT = cycle.toNat → s.twin.sentCrc = crc → ∃ t, exec (.deltaAckReceive cycle crc) s = .next t
      ∧ t.twin.unacked = false ∧ getF t F.TWN_CYCLE_ACKED = cycle.toNat ∧ getF t F.TWN_CYCLE_SENT = cycle.toNat
      ∧ t.mem = s.mem)
    ∧ (getF s F.TWN_CYCLE_SENT ≠ cycle.toNat ∨ s.twin.sentCrc ≠ crc → exec (.deltaAckReceive cycle crc) s = .next s))
  ∧ (∀ (s : State) (o : Nat) (last : Bool) (recs : List DeltaRec), twinLive s = true → wantsResync s = true →
    s.twin.peerSchema = ownSchema s →
    exec (.snapshotSegmentReceive o last recs) s = .next (receiveSnapshot s last recs)
    ∧ (receiveSnapshot s true []).twin.snapDone = true ∧ flag (receiveSnapshot s last []) F.TWN_STAT_RESYNC_BUSY = true
    ∧ flag (receiveSnapshot s last []) F.TWN_STAT_SW_INHIBIT = true
    ∧ flag (receiveSnapshot s last []) F.TWN_CTL_RESYNC = false)
  ∧ (∀ s : State, twinLive s = true → s.twin.role = .active → s.twin.linkUp = true →
    (running s .depart = false ∨ due s .depart = true) → ∃ t, exec .departureSend s = .next t ∧ t.regs = s.regs ∧ t.mem = s.mem
    ∧ t.plaza = { s.plaza with departed := s.plaza.departed.drop 112 }
    ∧ (s.plaza.departed = [] → t.outs = s.outs)
    ∧ (s.plaza.departed ≠ [] → ∃ slot words marks,
      t.outs = s.outs ++ .twin (.depart ((s.plaza.departed.take 112).map Prod.fst)) slot words :: marks ∧ marks.length ≤ 2)
    ∧ lookupKey .depart t.timers = some (s.mono + ticksUs))
  ∧ ∀ (s : State) (r : DepartRec), twinLive s = true → s.twin.linkUp = true → acting s = false →
    ((queueRefs s r.queue).filter QRef.shadow = [] → exec (.departureReceive [r]) s = .next (incF s F.TWN_DEPART_MISS_COUNT))
    ∧ ∀ (x : QRef) (rest : List QRef), (queueRefs s r.queue).filter QRef.shadow = x :: rest →
      refIs s (namedBy r r.queue) x = true → exec (.departureReceive [r]) s = .next (removeRef s r.queue x)

/-- EN takes a Disabled channel to Empty, or to Seated where its module is seated; seating does so later, and loss of the seat
takes it to Empty. The first waiting channel goes to
Precharge, at 90 % of the supply to Ramp, at its end to On or Limiting. A current above the breaker's value raises the
fault timer each microsecond and makes an On channel Limiting; eight microseconds at or below it lower it, and at 0
the channel is On. Timeout, breaker and comparator trip with their reasons; a trip leads to RetryWait while retries
are left, else to LatchedOff. PG qualifies and the retries are cleared in time. (R341, R342, R343, R344, R345, R346,
R349) -/
def Obligations.SlotChannels : Prop :=
  (∀ (s : State) (i : Nat), slotLive s i = true →
    (∃ t, exec (.slotEnable i) s = .next t ∧ flag t (F.PWR_SLOT_CFG_EN i) = true
      ∧ slotState t i = if slotState s i = slotDisabled then
          (if flag s (F.PWR_SLOT_STAT_SEATED i) then slotSeated else slotEmpty) else slotState s i)
    ∧ (∃ t, exec (.slotDisable i) s = .next t ∧ flag t (F.PWR_SLOT_CFG_EN i) = false ∧ slotState t i = slotDisabled
      ∧ (slotState s i ≠ slotDisabled → flag t (F.PWR_SLOT_STAT_GEN i) = false ∧ flag t (F.PWR_SLOT_STAT_PCH i) = false
        ∧ flag t (F.PWR_SLOT_STAT_PG i) = false))
    ∧ (∃ t, exec (.seatDebounceDone i) s = .next t ∧ flag t (F.PWR_SLOT_STAT_SEATED i) = true
      ∧ slotState t i = if slotState s i = slotEmpty then slotSeated else slotState s i)
    ∧ (startAllowed s = true → nextStart s = some i → ∃ t, exec (.powerUpStart i) s = .next t ∧ slotState t i = slotPrecharge
      ∧ flag t (F.PWR_SLOT_STAT_PCH i) = true ∧ flag t (F.PWR_SLOT_STAT_GEN i) = false ∧ t.power.lastStart = some s.mono
      ∧ (slotOf t i).waiting = false ∧ lookupKey (.precharge i) t.timers = some (s.mono + prechargeMs s i * ticksMs))
    ∧ (startAllowed s = false → exec (.powerUpStart i) s = .next s)
    ∧ (∀ vsns vin, slotState s i = slotPrecharge → 9 * vin ≤ 10 * vsns → ∃ t, exec (.prechargeComplete i vsns vin) s = .next t
      ∧ slotState t i = slotRamp ∧ flag t (F.PWR_SLOT_STAT_PCH i) = true ∧ flag t (F.PWR_SLOT_STAT_GEN i) = true
      ∧ lookupKey (.ramp i) t.timers = some (s.mono + rampMs s i * ticksMs))
    ∧ (slotState s i = slotPrecharge → due s (.precharge i) = true → ∃ t, exec (.prechargeTimeout i) s = .next t
      ∧ slotState t i = slotTripped ∧ slotReason t i = offPrechargeTimeout)
    ∧ (∀ vsns vin cur, slotState s i = slotRamp → due s (.ramp i) = true → ∃ t, exec (.rampEnd i vsns vin cur) s = .next t
      ∧ slotState t i = (if 98 * vin ≤ 100 * vsns ∧ cur ≤ slotIcb s i then slotOn else slotLimiting)
      ∧ flag t (F.PWR_SLOT_STAT_PCH i) = false ∧ flag t (F.PWR_SLOT_STAT_GEN i) = true)
    ∧ (∀ cur, slotRunning s i = true → ∃ t, exec (.monitorTick i cur) s = .next t
      ∧ (slotIcb s i < cur → (slotOf t i).faultTimer = (slotOf s i).faultTimer + 1 ∧ slotState t i = slotLimiting)
      ∧ (cur ≤ slotIcb s i → (slotOf s i).faultTimer = 0 → (slotOf t i).faultTimer = 0 ∧ slotState t i = slotOn)
      ∧ (∀ n, cur ≤ slotIcb s i → (slotOf s i).faultTimer = n + 1 → (slotOf s i).underCount = 7 →
        (slotOf t i).faultTimer = n ∧ (slotOf t i).underCount = 0 ∧ slotState t i = if n = 0 then slotOn else slotLimiting)
      ∧ (∀ n k, cur ≤ slotIcb s i → (slotOf s i).faultTimer = n + 1 → (slotOf s i).underCount = k → k < 7 →
        (slotOf t i).faultTimer = n + 1 ∧ (slotOf t i).underCount = k + 1 ∧ slotState t i = slotLimiting))
    ∧ (slotState s i = slotLimiting → slotTflt s i ≤ (slotOf s i).faultTimer → ∃ t, exec (.breaker i) s = .next t
      ∧ slotState t i = slotTripped ∧ slotReason t i = offBreaker ∧ (slotOf t i).faultTimer = 0)
    ∧ (slotState s i = slotTripped → ∃ t, exec (.tripResolve i) s = .next t ∧ slotReason t i = slotReason s i
      ∧ slotState t i = (if getF s (F.PWR_SLOT_STAT_RETRIES i) < getF s (F.PWR_SLOT_CFG_RETRY_MAX i)
          ∨ getF s (F.PWR_SLOT_CFG_RETRY_MAX i) = 255 then slotRetryWait else slotLatchedOff)
      ∧ (slotState t i = slotRetryWait →
        lookupKey (.retry i) t.timers = some (s.mono + max (2000 * ticksMs) (99 * (slotOf s i).onTime))))
    ∧ (slotState s i = slotRetryWait → due s (.retry i) = true → ∃ t, exec (.retryWaitExpiry i) s = .next t
      ∧ (slotOf t i).waiting = true ∧ running t (.retry i) = false ∧ t.regs = s.regs)
    ∧ (slotState s i = slotOn → (slotOf s i).faultTimer = 0 → due s (.pg i) = true → ∃ t, exec (.pgQualify i) s = .next t
      ∧ flag t (F.PWR_SLOT_STAT_PG i) = true ∧ regsKept [(F.PWR_SLOT_STAT_PG i).key] s t
      ∧ lookupKey (.retryReset i) t.timers = some (s.mono + 10000 * ticksMs))
    ∧ (slotState s i = slotOn → flag s (F.PWR_SLOT_STAT_PG i) = true → due s (.retryReset i) = true →
      ∃ t, exec (.retryCountReset i) s = .next t ∧ getF t (F.PWR_SLOT_STAT_RETRIES i) = 0
      ∧ regsKept [(F.PWR_SLOT_STAT_RETRIES i).key] s t ∧ t.power = s.power))
  ∧ ∀ (s : State) (i : Nat), i < s.ident.variant.slots → s.dev.unitsOut = true →
    (∃ t, exec (.seatLost i) s = .next t ∧ flag t (F.PWR_SLOT_STAT_SEATED i) = false ∧ getF t (F.PWR_SLOT_STAT_RETRIES i) = 0
      ∧ (slotState s i = slotDisabled → slotState t i = slotDisabled)
      ∧ (slotState s i ≠ slotDisabled → slotState t i = slotEmpty ∧ slotReason t i = offSeatLost
        ∧ flag t (F.PWR_SLOT_STAT_GEN i) = false ∧ flag t (F.PWR_SLOT_STAT_PCH i) = false))
    ∧ ∀ cur, slotPowered s i = true → 3 * slotIcb s i < cur → ∃ t, exec (.fast i cur) s = .next t
      ∧ slotState t i = slotTripped ∧ slotReason t i = offFast ∧ flag t (F.PWR_SLOT_STAT_GEN i) = false
      ∧ flag t (F.PWR_SLOT_STAT_PCH i) = false

/-- VIN takes its class: low it sheds every powered slot at once, near low it warns them; a second in range releases those
it shed. A warned slot turns off in time unless VIN has recovered; for Dormant those of higher PRIO values go first. A slot shed for the budget is released first by
PRIO. ON releases a slot and clears its retries; OFF sheds a powered one by warning and seats another. PFAIL_N low
inhibits NVM writes and lowers PFW_N of running slots until it is high; low VAUX inhibits too; the lift ends it. A
meter sample sets V, I and P of each slot from its codes; the scale of a code is the model's choice. (R263, R347,
R348, R349, R350, R351, R352, R353, R354) -/
def Obligations.SupplyBudgetAndMetering : Prop :=
  (∀ (s : State) (vin : Nat), live s unitPWR = true → ∃ t, exec (.vinStateChange vin) s = .next t
    ∧ getF t F.PWR_STAT_VIN_STATE = vinClass s vin ∧ getF t F.PWR_VIN_VALUE = vin % 2 ^ 32
    ∧ (getF s F.PWR_STAT_VIN_STATE ≠ vinClass s vin → ∀ i, i < s.ident.variant.slots → slotPowered s i = true →
      (vinClass s vin = 2 → slotState t i = slotShed ∧ slotReason t i = offShedUv)
      ∧ (vinClass s vin = 3 → slotState t i = slotShed ∧ slotReason t i = offVinOv)
      ∧ (vinClass s vin = 1 → (slotOf s i).planned = none → (slotOf t i).planned = some offShedUv
        ∧ flag t (F.PWR_SLOT_STAT_PFW i) = true ∧ slotState t i = slotState s i
        ∧ lookupKey (.planned i) t.timers = some (s.mono + pfwLead s * ticksMs))))
  ∧ (∀ s : State, live s unitPWR = true → due s .vinOk = true → ∃ t, exec .vinRestore s = .next t ∧ t.regs = s.regs
    ∧ ∀ i, i < s.ident.variant.slots → (slotOf t i).waiting = ((slotOf s i).waiting || (slotState s i = slotShed
      && (slotReason s i = offShedUv || slotReason s i = offVinOv))))
  ∧ (∀ (s : State) (i reason : Nat), slotLive s i = true → due s (.planned i) = true → (slotOf s i).planned = some reason →
    (turnOffTurn s i reason = false → exec (.warnedTurnOff i) s = .next s)
    ∧ (turnOffTurn s i reason = true → ∃ t, exec (.warnedTurnOff i) s = .next t ∧ (slotOf t i).planned = none
    ∧ (reason = offShedUv ∧ vinLimit s F.PWR_VIN_CFG_UV_WARN + 1000 < getF s F.PWR_VIN_VALUE →
      (slotOf t i).warned = false ∧ slotState t i = slotState s i)
    ∧ (¬ (reason = offShedUv ∧ vinLimit s F.PWR_VIN_CFG_UV_WARN + 1000 < getF s F.PWR_VIN_VALUE) → slotState t i = slotShed
      ∧ slotReason t i = reason % 16 ∧ flag t (F.PWR_SLOT_STAT_GEN i) = false
      ∧ getF t (F.PWR_SLOT_SHEDS_COUNT i) = (getF s (F.PWR_SLOT_SHEDS_COUNT i) + 1) % 2 ^ 32)))
  ∧ (∀ (s : State) (i : Nat), slotLive s i = true →
    (budgetShed s i = true → fitsBudget s i = true → due s (.budget i) = true →
      (∀ j, j < s.ident.variant.slots → budgetShed s j = true → fitsBudget s j = true → due s (.budget j) = true →
        getF s (F.PWR_SLOT_CFG_PRIO i) < getF s (F.PWR_SLOT_CFG_PRIO j)
          ∨ getF s (F.PWR_SLOT_CFG_PRIO i) = getF s (F.PWR_SLOT_CFG_PRIO j) ∧ i ≤ j) →
      ∃ t, exec (.budgetRestore i) s = .next t ∧ (slotOf t i).waiting = true ∧ running t (.budget i) = false ∧ t.regs = s.regs)
    ∧ (slotState s i = slotSeated ∨ slotState s i = slotShed ∨ slotState s i = slotLatchedOff → ∃ t, exec (.on i) s = .next t
      ∧ (slotOf t i).waiting = true ∧ (slotOf t i).manual = false)
    ∧ (∃ t, exec (.on i) s = .next t ∧ getF t (F.PWR_SLOT_STAT_RETRIES i) = 0 ∧ slotState t i = slotState s i)
    ∧ (slotState s i = slotSeated ∨ slotState s i = slotShed ∨ slotState s i = slotLatchedOff → ∃ t, exec (.off i) s = .next t
      ∧ (slotOf t i).waiting = false ∧ (slotOf t i).manual = true ∧ slotState t i = slotSeated)
    ∧ (slotPowered s i = true → (slotOf s i).planned = none → ∃ t, exec (.off i) s = .next t
      ∧ (slotOf t i).planned = some offShedCmd ∧ flag t (F.PWR_SLOT_STAT_PFW i) = true ∧ slotState t i = slotState s i
      ∧ lookupKey (.planned i) t.timers = some (s.mono + pfwLead s * ticksMs)))
  ∧ (∀ s : State, s.dev.unitsOut = true →
    (∃ t, exec .pfailAssert s = .next t ∧ flag t F.PWR_STAT_PFAIL = true ∧ flag t F.PWR_STAT_NVM_INHIBIT = true
      ∧ t.pins.pfailN = false ∧ t.odw.storing = false
      ∧ ∀ i, i < s.ident.variant.slots → slotRunning s i = true → flag t (F.PWR_SLOT_STAT_PFW i) = true)
    ∧ (∃ t, exec .pfailRelease s = .next t ∧ flag t F.PWR_STAT_PFAIL = false ∧ t.pins.pfailN = true
      ∧ (s.pins.vauxLow = false → lookupKey .nvmLift t.timers = some (s.mono + ticksMs))
      ∧ ∀ i, i < s.ident.variant.slots → flag t (F.PWR_SLOT_STAT_PFW i) = (slotOf s i).warned)
    ∧ ∃ t, exec .vauxLow s = .next t ∧ flag t F.PWR_STAT_NVM_INHIBIT = true ∧ t.pins.vauxLow = true ∧ t.odw.storing = false)
  ∧ (∀ s : State, s.pins.pfailN = true → flag s F.PWR_STAT_NVM_INHIBIT = true →
    (running s .nvmLift = false ∨ due s .nvmLift = true) → ∃ t, exec .nvmInhibitLift s = .next t
      ∧ flag t F.PWR_STAT_NVM_INHIBIT = false ∧ t.pins.vauxLow = false)
  ∧ (∀ (s : State) (codes : List (BitVec 16)), live s unitPWR = true → flag s F.PWR_SYNC_CFG_SYNC_EN = false →
    ∃ t, exec (.meterSample codes) s = .next t ∧ ∀ i, i < s.ident.variant.slots →
      getF t (F.PWR_SLOT_V_VALUE i) = scaleCode (codeAt codes (2 * i + 1)) (getF s (F.PWR_SLOT_SCALE_VSNS_FS i)) % 2 ^ 32
      ∧ getF t (F.PWR_SLOT_I_VALUE i) = scaleCode (codeAt codes (2 * i)) (getF s (F.PWR_SLOT_SCALE_ISNS_FS i)) % 2 ^ 32
      ∧ getF t (F.PWR_SLOT_P_VALUE i) = scaleCode (codeAt codes (2 * i + 1)) (getF s (F.PWR_SLOT_SCALE_VSNS_FS i))
          * scaleCode (codeAt codes (2 * i)) (getF s (F.PWR_SLOT_SCALE_ISNS_FS i)) / 1000 % 2 ^ 32)
  ∧ (∀ (s : State) (b : Nat), b < 6 → exec (.bankSupplyLoss b) s = .next (setFlag s (F.PIN_BANK_STAT_PRESENT b) false))
  ∧ (∀ (s : State) (seated : Bool), live s unitPWR = true → exec (.selfSeatChange seated) s
    = .next (setFlag s F.PWR_STAT_SELF_SEATED seated))
  ∧ ∀ (s : State) (t0 : Nat), live s unitPWR = true → flag s F.PWR_SYNC_CFG_SYNC_EN = true → s.power.syncFree = false →
    s.power.lastFiring = some t0 → t0 + 1000000 ≤ tbNs s 2 →
    exec .syncFiringLate s = .next (setFlag (s.withPower { s.power with syncFree := true }) F.PWR_STAT_SYNC_LATE true)

/-- A reported fault has the class and reaction of its code: a record only, the reaction of its unit, a hub restart or a
management restart; a reserved code has neither and stops. A logged fault counts in total, by class and by unit, and
unless it is suppressed its record stands at WR_IDX, which rises. Reaction 1 fences the unit and leaves Service for
Degraded. The ERR_N pulse ends in time. Injection works only with TESTMODE: it raises the fault, or arms bit flips for
the unit's next write; that a reserved code raises nothing is the model's choice (log entry 37). (R361, R362, R363,
R364, R366, R369, R371, R372, R415) -/
def Obligations.FaultsLoggedAndReacted : Prop :=
  (∀ (s : State) (code u : Nat) (i0 i1 : Word), live s unitFLT = true → u ≤ 0x10 →
    (faultInfo code = none → exec (.faultDetect code u i0 i1) s = .fault .reservedFaultCode)
    ∧ (∀ cls, faultInfo code = some (cls, .record) → exec (.faultDetect code u i0 i1) s = .next (recordFault s code u i0 i1))
    ∧ (∀ cls, faultInfo code = some (cls, .unit) → exec (.faultDetect code u i0 i1) s
      = .next (react (logFault s code cls (reactionCode s u) u i0 i1) u (reactionCode s u)))
    ∧ (∀ cls, faultInfo code = some (cls, .restart) → ∃ t, exec (.faultDetect code u i0 i1) s = .next t
      ∧ t.dev.state = .starting ∧ t.twin.claim = false ∧ t.twin.oe = false ∧ t.ident = s.ident)
    ∧ (∀ cls, faultInfo code = some (cls, .mgtRestart) → ∃ t, exec (.faultDetect code u i0 i1) s = .next t
      ∧ t.dev.mgtRestart = true ∧ t.dev.state = s.dev.state ∧ t.twin.claim = s.twin.claim))
  ∧ (∀ (s : State) (code cls r u : Nat) (i0 i1 : Word), cls < 3 → u ≤ 0x10 →
    let t := logFault s code cls r u i0 i1
    getF t F.FLT_TOTAL_COUNT = (getF s F.FLT_TOTAL_COUNT + 1) % 2 ^ 32
    ∧ getF t (F.FLT_CLASS_CNT_COUNT cls) = (getF s (F.FLT_CLASS_CNT_COUNT cls) + 1) % 2 ^ 32
    ∧ getF t (F.FLT_UNIT_CNT_COUNT u) = (getF s (F.FLT_UNIT_CNT_COUNT u) + 1) % 2 ^ 32
    ∧ (suppressed s code cls u i0 = true → getF t F.FLT_SUPPRESSED_COUNT = (getF s F.FLT_SUPPRESSED_COUNT + 1) % 2 ^ 32
      ∧ getF t F.FLT_LOG_STAT_WR_IDX = getF s F.FLT_LOG_STAT_WR_IDX ∧ t.mem = s.mem)
    ∧ (suppressed s code cls u i0 = false → getF t F.FLT_SUPPRESSED_COUNT = getF s F.FLT_SUPPRESSED_COUNT
      ∧ getF t F.FLT_LOG_STAT_WR_IDX = (getF s F.FLT_LOG_STAT_WR_IDX + 1) % 128
      ∧ memRead t (keyOf unitFLT 0x00010000 + 32 * getF s F.FLT_LOG_STAT_WR_IDX) 32
        = faultRecord s code cls r u i0.toNat i1.toNat)
    ∧ (getF s F.FLT_CFG_ERR_CLASS ≤ cls → t.flt.errPulse = true
      ∧ lookupKey .errPulse t.timers = some (s.mono + 16 * ticksUs)))
  ∧ (∀ (s : State) (u : Nat), live s u = true → unitReact s u = 1 → u < 17 → reactionCode s u = 1
    ∧ faultFenced (react s u 1) u = true ∧ fenceCode (react s u 1) u = some codeFENCED
    ∧ (s.dev.state = .service → (react s u 1).dev.state = .degraded))
  ∧ (∀ s : State, due s .errPulse = true → ∃ t, exec .errPulseEnd s = .next t ∧ t.flt = { s.flt with errPulse := false }
    ∧ running t .errPulse = false ∧ t.regs = s.regs ∧ t.mem = s.mem)
  ∧ ∀ (s : State) (code u : Nat), live s unitFLT = true → code < 256 → u < 32 →
    (s.dev.testmode = false → exec (.faultInject code u) s = .next s ∧ exec (.eccInject code u) s = .next s)
    ∧ (s.dev.testmode = true →
      (faultInfo code = none → ∃ t, exec (.faultInject code u) s = .next t ∧ regsKept [F.FLT_INJ_CTL_CODE.key] s t ∧ t.mem = s.mem)
      ∧ (∀ cls kind, faultInfo code = some (cls, kind) → u ≤ 0x10 → ∃ v, exec (.faultInject code u) s
          = .next (reportFault v code u cls kind (regWord s (F.FLT_INJ_INFO_INFO 0).key) (regWord s (F.FLT_INJ_INFO_INFO 1).key))
        ∧ regsKept [F.FLT_INJ_CTL_CODE.key] s v ∧ v = { s with regs := v.regs })
      ∧ ∃ t, exec (.eccInject code u) s = .next t ∧ regsKept [F.FLT_INJ_CTL_CODE.key] s t ∧ t.mem = s.mem
        ∧ assoc u t.flt.eccArm = some (if code = 2 ∨ code = 3 ∨ code = 9 then 2 else 1))

/-- A request is dropped, counted, answered with a code or served with its class; a repeat gets the kept response; a
served one has its effect and one response, kept 1 s, or for node 255 after its delay. READ gives the object's bytes
or the refusal, WRITE puts them, DESCRIBE the description, DISCOVER the identity. ADDR_READ and ADDR_WRITE need class
Service and 1 to 256 bytes. Sessions end after 1 s. Unknown opcodes get ADDR_ERROR; bad frames and ports not enabled
are counted; another version is ignored. ARP is answered only for the management address. (R374, R378, R382, R383,
R384, R385, R387, R388) -/
def Obligations.SundemRequests : Prop :=
  (∀ (s : State) (r : SunReq),
    ∀ p ∈ [(Instr.read r, 1, actRead r), (Instr.write r, 2, actWrite r), (Instr.describe r, 3, actDescribe r),
      (Instr.store r, 4, actStore r), (Instr.restore r, 5, actRestore r), (Instr.discover r, 6, actDiscover r),
      (Instr.addrRead r, 0x10, actAddr true r), (Instr.addrWrite r, 0x11, actAddr false r)],
    (gate s r p.2.1 = .drop → exec p.1 s = .next s)
    ∧ (gate s r p.2.1 = .notServed → exec p.1 s = .next (s.withOdw { s.odw with notServed := s.odw.notServed + 1 }))
    ∧ (gate s r p.2.1 = .busDropped → exec p.1 s = .next (s.withOdw { s.odw with busDropped := s.odw.busDropped + 1 }))
    ∧ (∀ c, gate s r p.2.1 = .code c → exec p.1 s = .next (answer s (responseTo r p.2.1 c false [])))
    ∧ (∀ cls k, gate s r p.2.1 = .serve cls → repeatOf s r p.2.1 = some k → exec p.1 s = .next (deliver s { k with src := r.src }))
    ∧ (∀ cls u rsp, gate s r p.2.1 = .serve cls → repeatOf s r p.2.1 = none → p.2.2 s cls = (u, some rsp) →
      exec p.1 s = .next (takeUartRate (answer u rsp)))
    ∧ ∀ cls u, gate s r p.2.1 = .serve cls → repeatOf s r p.2.1 = none → p.2.2 s cls = (u, none) → exec p.1 s = .next u)
  ∧ (∀ (s : State) (r : SunReq) (cls : Nat) (m : ObjMem), memberOf r.index r.sub = some m →
    (cls < m.rd → r.abort = false → actRead r s cls = (s, some (responseTo r 1 codeACCESS_DENIED false [])))
    ∧ (m.rd ≤ cls → objFence s r.index r.sub = none → r.abort = false → r.offset = 0 → r.len = 0 →
      valueSize s r.index r.sub m ≤ segmentMax r.src → ∃ t, actRead r s cls
        = (t, some (responseTo r 1 codeOK false (objSlice s r.index r.sub m 0 (valueSize s r.index r.sub m))))
        ∧ t.regs = s.regs ∧ t.mem = s.mem)
    ∧ (r.abort = false → r.more = false → r.offset = 0 →
      s.odw.sessions.find? (fun x => x.src = requester r.src && x.tid = r.tid) = none →
      (cls < m.wr → actWrite r s cls = (s, some (responseTo r 2 codeACCESS_DENIED false [])))
      ∧ (m.wr ≤ cls → objFence s r.index r.sub = none → actWrite r s cls
        = ((writeMember s (secureSource r.src) r.index r.sub 0 r.data m).1,
          some (responseTo r 2 (writeMember s (secureSource r.src) r.index r.sub 0 r.data m).2 false []))))
    ∧ (m.rd ≤ cls → actDescribe r s cls = (s, some (responseTo r 3 codeOK false
      (leBytes 1 m.type ++ leBytes 1 m.rd ++ leBytes 1 m.wr ++ leBytes 1 m.flags ++ leBytes 4 m.size
        ++ leBytes 1 (highestSub r.index) ++ [0, 0, 0])))))
  ∧ (∀ (s : State) (r : SunReq) (isRead : Bool) (cls : Nat),
    (cls < 3 → actAddr isRead r s cls = (s, some (responseTo r (if isRead then 0x10 else 0x11) codeACCESS_DENIED false [])))
    ∧ (3 ≤ cls → ((addrSpec r isRead).count = 0 ∨ 256 < (addrSpec r isRead).count) → actAddr isRead r s cls
      = (s, some (responseTo r (if isRead then 0x10 else 0x11) codeALIGN_ERROR false [])))
    ∧ (3 ≤ cls → 1 ≤ (addrSpec r isRead).count → (addrSpec r isRead).count ≤ 256 → actAddr isRead r s cls
      = (issueOrWait (s.withOdw { s.odw with addr := s.odw.addr ++ [r] }) .svc (addrSpec r isRead), none)))
  ∧ (∀ (s : State) (i : Nat) (r : SunRsp) (t : Nat), s.odw.delayed[i]? = some (r, t) →
    (t ≤ s.mono → odwRuns s = true → exec (.discoverResponseDelay i) s
      = .next (keepResponse (deliver (s.withOdw { s.odw with delayed := s.odw.delayed.eraseIdx i }) r) r))
    ∧ (s.mono < t → exec (.discoverResponseDelay i) s = .next s))
  ∧ (∀ (s : State) (i : Nat) (x : Session), s.odw.sessions[i]? = some x →
    (x.at_ + 1000 * ticksMs ≤ s.mono → exec (.sessionTimeout i) s
      = .next (s.withOdw { s.odw with sessions := s.odw.sessions.eraseIdx i }))
    ∧ (s.mono < x.at_ + 1000 * ticksMs → exec (.sessionTimeout i) s = .next s))
  ∧ (∀ s : State, exec .keptResponseExpiry s
    = .next (s.withOdw { s.odw with kept := s.odw.kept.filter (fun k => decide (s.mono < k.2)) }))
  ∧ (∀ (s : State) (r : SunReq),
    (odwRuns s = true → exec (.sundemUnservedRequest r .badFrame) s
      = .next (s.withOdw { s.odw with badFrames := s.odw.badFrames + 1 }))
    ∧ exec (.sundemUnservedRequest r .version) s = .next s
    ∧ (odwRuns s = true → classOf s r.src = none → exec (.sundemUnservedRequest r .portNotEnabled) s
      = .next (s.withOdw { s.odw with notServed := s.odw.notServed + 1 }))
    ∧ ∀ code cls, code ∉ [1, 2, 3, 4, 5, 6, 0x10, 0x11] → gate s r code = .serve cls → repeatOf s r code = none →
      exec (.sundemUnservedRequest r (.unknownOpcode code)) s
        = .next (takeUartRate (answer s (responseTo r code codeADDR_ERROR false []))))
  ∧ ∀ (s : State) (p : Nat) (mac : BitVec 48) (ip target : BitVec 32), odwRuns s = true → acting s = true →
    linkUp s p = true → bitAt (ofLe (objBytes s 0x1025 1)) p = true → target ≠ 0 →
    (target.toNat = ofLe (objBytes s 0x1041 0) → exec (.arpRequest p mac ip target) s
      = .next (output s (.arpReply p (BitVec.ofNat 48 (ofBe (padTo 6 (objBytes s 0x1040 0)))) target mac ip)))
    ∧ (target.toNat ≠ ofLe (objBytes s 0x1041 0) → exec (.arpRequest p mac ip target) s = .next s)

/-- While no cipher descriptor locks NVM: a served write of 0x1005 puts the node ID into NVM and into force at a later
boundary, 255 and times without NVM writes apart. 0x2020 takes only a secure source, 36 bytes and a writable NVM.
0x1030 changes the rate within its range, once its response is out. 0xB0F0 opens and closes the relay, and its timeout closes it. STORE is
refused while one runs, an update is Verifying or Armed, or NVM may not be written; its end writes the half that is
not the newest. RESTORE invalidates both halves. (R388, R389, R391, R393, R394, R420) -/
def Obligations.ObjectsWritten : Prop :=
  (∀ (s : State) (r : SunReq), r.abort = false → r.more = false → r.offset = 0 →
    s.odw.sessions.find? (fun x => x.src = requester r.src && x.tid = r.tid) = none →
    ∀ p ∈ [(Instr.nodeIdWrite r, 0x1005), (Instr.ringKeyLoad r, 0x2020), (Instr.serviceUartRate r, 0x1030),
      (Instr.recoveryRelay r, 0xB0F0)],
    ∀ cls m, gate s (writeOf r p.2) 2 = .serve cls → repeatOf s (writeOf r p.2) 2 = none → memberOf p.2 0 = some m →
      m.wr ≤ cls → objFence s p.2 0 = none → exec p.1 s
        = .next (takeUartRate (answer (writeMember s (secureSource r.src) p.2 0 0 r.data m).1
          (responseTo (writeOf r p.2) 2 (writeMember s (secureSource r.src) p.2 0 0 r.data m).2 false []))))
  ∧ (∀ (s : State) (secure : Bool) (b : Byte) (m : ObjMem), memberOf 0x1005 0 = some m → s.cip.locks = [] →
    (b.toNat ≠ 255 → nvmWritable s = true → ∃ t, writeMember s secure 0x1005 0 0 [b] m = (t, codeOK)
      ∧ t.dev.newNodeId = some b.toNat ∧ t.dev.nodeId = s.dev.nodeId ∧ nvmRead t nodeIdAt 1 = [b] ∧ t.regs = s.regs
      ∧ memKeptBut (nvmBase + nodeIdAt) 1 s t)
    ∧ (b.toNat = 255 → writeMember s secure 0x1005 0 0 [b] m = (s, codeADDR_ERROR))
    ∧ (b.toNat ≠ 255 → nvmWritable s = false → writeMember s secure 0x1005 0 0 [b] m = (s, codeREFUSED_BUSY)))
  ∧ (∀ (s : State) (bs : List Byte), (writeRingKey s false bs) = (s, codeACCESS_DENIED)
    ∧ (bs.length ≠ 36 → writeRingKey s true bs = (s, codeALIGN_ERROR))
    ∧ (bs.length = 36 → nvmWritable s = false → writeRingKey s true bs = (s, codeREFUSED_BUSY))
    ∧ (bs.length = 36 → nvmWritable s = true → s.cip.locks = [] → (writeRingKey s true bs).2 = codeOK
      ∧ (writeRingKey s true bs).1.regs = s.regs))
  ∧ (∀ (s : State) (secure : Bool) (w : Word) (m : ObjMem), memberOf 0x1030 0 = some m →
    (9600 ≤ w.toNat → w.toNat ≤ 3000000 → (writeMember s secure 0x1030 0 0 (leBytes 4 w.toNat) m).2 = codeOK
      ∧ (writeMember s secure 0x1030 0 0 (leBytes 4 w.toNat) m).1.odw.uartRate = s.odw.uartRate
      ∧ (takeUartRate (writeMember s secure 0x1030 0 0 (leBytes 4 w.toNat) m).1).odw.uartRate = w.toNat)
    ∧ (w.toNat < 9600 ∨ 3000000 < w.toNat → writeMember s secure 0x1030 0 0 (leBytes 4 w.toNat) m = (s, codeADDR_ERROR)))
  ∧ (∀ s : State, writeRelay s 0 = (closeRelay s, codeOK) ∧ (∀ p < 2, writeRelay s (p + 1) = (openRelay (closeRelay s) p, codeOK))
    ∧ (∀ v, 2 < v → writeRelay s v = (s, codeADDR_ERROR))
    ∧ (due s .relay = true → exec .recoveryRelayTimeout s = .next (closeRelay s)))
  ∧ (∀ s : State, (s.odw.storing = true ∨ s.upd.state = 3 ∨ s.upd.state = 5 ∨ nvmWritable s = false →
      startStore s = (s, codeREFUSED_BUSY))
    ∧ (s.odw.storing = false → s.upd.state ≠ 3 → s.upd.state ≠ 5 → nvmWritable s = true → 32 + (storeBody s).length ≤ halfSize →
      s.cip.locks = [] → (startStore s).2 = codeOK ∧ (startStore s).1.odw = { s.odw with storing := true } ∧ (startStore s).1.mem = s.mem)
    ∧ (s.odw.storing = false → nvmWritable s = true → s.cip.locks = [] → ∃ t, restoreStore s = (t, codeOK) ∧ newestHalf t = none ∧ t.regs = s.regs)
    ∧ (s.odw.storing = true → nvmWritable s = true → 32 + (storeBody s).length ≤ halfSize →
      ∃ t half seq, exec .storeComplete s = .next t ∧ t.odw.storing = false ∧ t.odw.storesDone = s.odw.storesDone + 1
      ∧ (newestHalf s).map (fun x => (1 - x.1, x.2.1 + 1)) = (if (newestHalf s).isSome then some (half, seq) else none)
      ∧ nvmRead t (halfAt half + 32) (storeBody s).length = storeBody s ∧ t.regs = s.regs)
    ∧ (s.odw.storing = true → nvmWritable s = false → exec .storeComplete s = .next (s.withOdw { s.odw with storing := false })))

/-- While no cipher descriptor locks NVM, each command acts in the states the spec names and is REFUSED_BUSY in the
others. BEGIN starts Receiving with no bytes, package bytes go to staging and raise the count, CLOSE starts
verification, whose first failed check makes the update Idle with its result, or Verified. ACTIVATE is refused with
result 12 or makes it Armed. A wrong image hash ends an activation; else the boot record names the new bank and the
management complex restarts. CONFIRM makes the bank Confirmed; the OTP counter only rises. That commands are refused
while NVM is inhibited is the model's choice (log entry 38). (R409, R410, R411, R412, R413, R414, R415) -/
def Obligations.FirmwareUpdate : Prop :=
  (∀ s : State, odwRuns s = true → s.cip.locks = [] →
    ((s.upd.state = 0 ∨ s.upd.state = 4 ∨ s.upd.state = 7) → nvmWritable s = true → ∃ t, exec .begin s = .next t
      ∧ t.outs = s.outs ++ [.code codeOK] ∧ t.upd.state = 1 ∧ t.upd.received = 0 ∧ headerValid t = false ∧ t.regs = s.regs)
    ∧ (s.upd.state ≠ 0 → s.upd.state ≠ 4 → s.upd.state ≠ 7 → exec .begin s = .next (output s (.code codeREFUSED_BUSY)))
    ∧ (s.upd.state = 1 → nvmWritable s = true → ∃ t, exec .close s = .next t ∧ t.outs = s.outs ++ [.code codeOK]
      ∧ t.upd = { s.upd with state := 3 } ∧ t.regs = s.regs ∧ memKeptBut (nvmBase + 0x400000) 64 s t)
    ∧ (s.upd.state ≠ 1 → exec .close s = .next (output s (.code codeREFUSED_BUSY)))
    ∧ (s.upd.state ≠ 4 → exec .activate s = .next (output s (.code codeREFUSED_BUSY)))
    ∧ (s.upd.state = 4 → activateRefused s = true → exec .activate s
      = .next (output (setUpd s 4 12) (.code codeREFUSED_BUSY)))
    ∧ (s.upd.state = 4 → activateRefused s = false → exec .activate s
      = .next (output (startActivation s) (.code codeOK)))
    ∧ (s.upd.state = 6 → nvmWritable s = true → ∃ t, exec .confirm s = .next t ∧ t.outs = s.outs ++ [.code codeOK]
      ∧ t.upd.state = 7 ∧ t.upd.result = 1 ∧ s.ident.otp ≤ t.ident.otp ∧ t.regs = s.regs)
    ∧ (s.upd.state ≠ 6 → exec .confirm s = .next (output s (.code codeREFUSED_BUSY)))
    ∧ ((s.upd.state = 1 ∨ s.upd.state = 4) → exec .abandon s
      = .next (output (s.withUpd { s.upd with state := 0 }) (.code codeOK)))
    ∧ (s.upd.state ≠ 1 → s.upd.state ≠ 4 → exec .abandon s = .next (output s (.code codeREFUSED_BUSY))))
  ∧ (∀ (s : State) (ofs : Nat) (bs : List Byte), odwRuns s = true → s.cip.locks = [] →
    (s.upd.state ≠ 1 → exec (.packageWrite ofs bs) s = .next (output s (.code codeREFUSED_BUSY)))
    ∧ (s.upd.state = 1 → maxPackage < ofs + bs.length → exec (.packageWrite ofs bs) s = .next (output s (.code codeALIGN_ERROR)))
    ∧ (s.upd.state = 1 → ofs + bs.length ≤ maxPackage → nvmWritable s = true → ∃ t, exec (.packageWrite ofs bs) s = .next t
      ∧ t.outs = s.outs ++ [.code codeOK] ∧ t.upd = { s.upd with received := max s.upd.received (ofs + bs.length) }
      ∧ nvmRead t (stagingAt + ofs) bs.length = bs ∧ memKeptBut (nvmBase + stagingAt + ofs) bs.length s t ∧ t.regs = s.regs))
  ∧ (∀ s : State, s.upd.state = 3 → nvmWritable s = true → odwRuns s = true →
    let r := verifyResult s (leWord (headerWord s) 1)
    ∃ t, exec .verifyComplete s = .next t ∧ t.upd = { s.upd with state := if r = 1 then 4 else 0, result := r } ∧ t.regs = s.regs
      ∧ (r ≠ 1 → headerValid t = false))
  ∧ (∀ s : State, s.upd.state = 5 → s.upd.hashing = true → nvmWritable s = true →
    let b := targetBank s
    (imageHashOk s b (bankManifest s b) = false → ∃ t, exec .activationHashDone s = .next t ∧ t.upd.state = 0
      ∧ t.upd.result = 10 ∧ t.upd.hashing = false ∧ t.dev = s.dev ∧ t.regs = s.regs)
    ∧ (imageHashOk s b (bankManifest s b) = true → s.dev.state ≠ .recovery → ∃ t, exec .activationHashDone s = .next t
      ∧ t.dev.mgtRestart = true ∧ t.dev.state = s.dev.state)
    ∧ (imageHashOk s b (bankManifest s b) = true → s.dev.state = .recovery → ∃ t, exec .activationHashDone s = .next t
      ∧ t.dev.state = .starting))
  ∧ ∀ (s u : State), s.dev.mgtRestart = true →
    (∀ b, romSteps s = (u, some b) → exec .managementRestartEnd s = .next (endManagementRestart u b))
    ∧ (romSteps s = (u, none) → ∃ t, exec .managementRestartEnd s = .next t ∧ t.dev.state = .recovery)

/-- From every state whose window memory is in canonical form, whatever command stands at the front of the queue, a step
that answers a next state leaves window memory in canonical form. No step changes the variant, the stepping, the UID,
the roots or the public key of the die, and none lowers its OTP counter. That memory is held in one canonical form is
the model's choice (log entry 2). (R1, R33, R397, R413) -/
def Obligations.StepKeepsMemoryAndDie : Prop :=
  (∀ s t : State, memoryCanonical s → step s = .next t → memoryCanonical t)
  ∧ ∀ s t : State, step s = .next t → diePreserved s t

/-- From every state in which TWN_OE is high only while the hub holds its claim, is in Service or Degraded and is Active
or Single, and on a part with twin control sees TWN_PEER low, a step of whatever command leaves it so: in every other
state and role TWN_OE is low, which gates the outputs towards the modules off. (R27) -/
def Obligations.StepKeepsOutputsGated : Prop :=
  ∀ s t : State, outputsGated s → step s = .next t → outputsGated t

/-- In the state after reset window memory is canonical and lists nothing, TWN_OE is low, no command waits, and the hub is
in Off. What unlisted memory reads is the model's choice (log entry 2). (R23, R27, R33) -/
def Obligations.ResetMeetsInvariants : Prop :=
  memoryCanonical State.reset ∧ outputsGated State.reset ∧ State.reset.mem = [] ∧ State.reset.twin.oe = false
    ∧ State.reset.pending = [] ∧ State.reset.dev.state = .off
end

