-- ==== Sys2Proof/Laws/LineCode.lean ====
section
/-! SUPPORT. Laws of the line code and of frames received as words: lengths, the scrambler's sequence, where a frame is
placed. -/

namespace Sys2Proof.Machine

@[simp] theorem length_wordBits (w : BitVec 64) : (wordBits w).length = 64 := by simp [wordBits]

@[simp] theorem length_scramble (st : Nat) (bs : List Bool) : (scramble st bs).1.length = bs.length := by
  induction bs generalizing st with
  | nil => rfl
  | cons b bs ih => simp [scramble, ih]

/-- The scrambler's sequence does not depend on what it scrambles (R88). -/
theorem scramble_end (st : Nat) (bs cs : List Bool) (h : bs.length = cs.length) : (scramble st bs).2 = (scramble st cs).2 := by
  induction bs generalizing st cs with
  | nil => cases cs <;> simp_all [scramble]
  | cons b bs ih =>
    cases cs with
    | nil => simp at h
    | cons c cs => exact ih _ cs (by simpa using h)

/-- Stuffing only inserts bits (R89). -/
theorem length_stuff (r : Run) (bs : List Bool) : bs.length ≤ (stuff r bs).1.length := by
  induction bs generalizing r with
  | nil => simp
  | cons b bs ih =>
    simp only [stuff]
    split
    · have := ih (!b, 1); simp only [List.length_cons]; omega
    · have := ih (r.next b); simp only [List.length_cons]; omega

/-- Destuffing only takes bits away, and finds at most one violation for each. -/
theorem length_destuff (r : Run) (bs : List Bool) :
    (destuff r bs).1.length ≤ bs.length ∧ (destuff r bs).1.length + (destuff r bs).2.1 ≤ bs.length := by
  induction bs generalizing r with
  | nil => simp [destuff]
  | cons b bs ih =>
    simp only [destuff]
    split
    · have hb : bit01 (b = r.1) ≤ 1 := by simp only [bit01]; split <;> omega
      obtain ⟨h, k⟩ := ih (b, 1)
      generalize destuff (b, 1) bs = d at h k ⊢
      obtain ⟨cs, v, e⟩ := d
      dsimp only at h k ⊢
      simp only [List.length_cons]
      exact ⟨by omega, by omega⟩
    · obtain ⟨h, k⟩ := ih (r.next b)
      generalize destuff (r.next b) bs = d at h k ⊢
      obtain ⟨cs, v, e⟩ := d
      dsimp only at h k ⊢
      simp only [List.length_cons]
      exact ⟨by omega, by omega⟩

/-- A frame begins at a free slot that is still to come, and leaves the slots behind it free (R90). -/
theorem placeFrame_next (tx : LineTx) (rate now n : Nat) :
    max tx.next (slotNow tx rate now) ≤ (placeFrame tx rate now n).1
      ∧ (placeFrame tx rate now n).2.1.start = tx.start
      ∧ max tx.next (slotNow tx rate now) + (if (placeFrame tx rate now n).2.2.isSome then 0 else n)
        ≤ (placeFrame tx rate now n).2.1.next := by
  simp only [placeFrame]
  generalize max tx.next (slotNow tx rate now) = a
  have h : a < (a / periodSlots + 1) * periodSlots := by
    have := Nat.div_add_mod a periodSlots
    have := Nat.mod_lt a (show 0 < periodSlots by decide)
    rw [Nat.add_mul, Nat.mul_comm]
    omega
  refine ⟨?_, ?_, ?_⟩ <;> (repeat' split) <;> simp_all <;> omega

/-- What a receiver reads has the length that the SOF word announces (R92, R113). -/
theorem length_rxBytes (words : List (BitVec 64)) :
    (rxBytes words).length = sofLength (words.headD 0).toNat := by
  simp [rxBytes, padTo]

end Sys2Proof.Machine
end

