-- ==== Sys2Proof/Laws/State.lean ====
section
/-! SUPPORT. One lemma per field and update of the state: what an update writes and what it leaves alone. -/

namespace Sys2Proof.Machine

@[simp] theorem State.withPending_pending (s : State) (x : List Instr) : (s.withPending x).pending = x := rfl
@[simp] theorem State.withPending_mono (s : State) (x : List Instr) : (s.withPending x).mono = s.mono := rfl
@[simp] theorem State.withPending_fresh (s : State) (x : List Instr) : (s.withPending x).fresh = s.fresh := rfl
@[simp] theorem State.withPending_ident (s : State) (x : List Instr) : (s.withPending x).ident = s.ident := rfl
@[simp] theorem State.withPending_dev (s : State) (x : List Instr) : (s.withPending x).dev = s.dev := rfl
@[simp] theorem State.withPending_pins (s : State) (x : List Instr) : (s.withPending x).pins = s.pins := rfl
@[simp] theorem State.withPending_aon (s : State) (x : List Instr) : (s.withPending x).aon = s.aon := rfl
@[simp] theorem State.withPending_regs (s : State) (x : List Instr) : (s.withPending x).regs = s.regs := rfl
@[simp] theorem State.withPending_pendCb (s : State) (x : List Instr) : (s.withPending x).pendCb = s.pendCb := rfl
@[simp] theorem State.withPending_pendFb (s : State) (x : List Instr) : (s.withPending x).pendFb = s.pendFb := rfl
@[simp] theorem State.withPending_pendMem (s : State) (x : List Instr) : (s.withPending x).pendMem = s.pendMem := rfl
@[simp] theorem State.withPending_mem (s : State) (x : List Instr) : (s.withPending x).mem = s.mem := rfl
@[simp] theorem State.withPending_timers (s : State) (x : List Instr) : (s.withPending x).timers = s.timers := rfl
@[simp] theorem State.withPending_outs (s : State) (x : List Instr) : (s.withPending x).outs = s.outs := rfl
@[simp] theorem State.withPending_time (s : State) (x : List Instr) : (s.withPending x).time = s.time := rfl
@[simp] theorem State.withPending_ring (s : State) (x : List Instr) : (s.withPending x).ring = s.ring := rfl
@[simp] theorem State.withPending_plaza (s : State) (x : List Instr) : (s.withPending x).plaza = s.plaza := rfl
@[simp] theorem State.withPending_jct (s : State) (x : List Instr) : (s.withPending x).jct = s.jct := rfl
@[simp] theorem State.withPending_queues (s : State) (x : List Instr) : (s.withPending x).queues = s.queues := rfl
@[simp] theorem State.withPending_bus (s : State) (x : List Instr) : (s.withPending x).bus = s.bus := rfl
@[simp] theorem State.withPending_engines (s : State) (x : List Instr) : (s.withPending x).engines = s.engines := rfl
@[simp] theorem State.withPending_txn (s : State) (x : List Instr) : (s.withPending x).txn = s.txn := rfl
@[simp] theorem State.withPending_drains (s : State) (x : List Instr) : (s.withPending x).drains = s.drains := rfl
@[simp] theorem State.withPending_cip (s : State) (x : List Instr) : (s.withPending x).cip = s.cip := rfl
@[simp] theorem State.withPending_twin (s : State) (x : List Instr) : (s.withPending x).twin = s.twin := rfl
@[simp] theorem State.withPending_power (s : State) (x : List Instr) : (s.withPending x).power = s.power := rfl
@[simp] theorem State.withPending_flt (s : State) (x : List Instr) : (s.withPending x).flt = s.flt := rfl
@[simp] theorem State.withPending_odw (s : State) (x : List Instr) : (s.withPending x).odw = s.odw := rfl
@[simp] theorem State.withPending_upd (s : State) (x : List Instr) : (s.withPending x).upd = s.upd := rfl
@[simp] theorem State.withMono_pending (s : State) (x : Nat) : (s.withMono x).pending = s.pending := rfl
@[simp] theorem State.withMono_mono (s : State) (x : Nat) : (s.withMono x).mono = x := rfl
@[simp] theorem State.withMono_fresh (s : State) (x : Nat) : (s.withMono x).fresh = s.fresh := rfl
@[simp] theorem State.withMono_ident (s : State) (x : Nat) : (s.withMono x).ident = s.ident := rfl
@[simp] theorem State.withMono_dev (s : State) (x : Nat) : (s.withMono x).dev = s.dev := rfl
@[simp] theorem State.withMono_pins (s : State) (x : Nat) : (s.withMono x).pins = s.pins := rfl
@[simp] theorem State.withMono_aon (s : State) (x : Nat) : (s.withMono x).aon = s.aon := rfl
@[simp] theorem State.withMono_regs (s : State) (x : Nat) : (s.withMono x).regs = s.regs := rfl
@[simp] theorem State.withMono_pendCb (s : State) (x : Nat) : (s.withMono x).pendCb = s.pendCb := rfl
@[simp] theorem State.withMono_pendFb (s : State) (x : Nat) : (s.withMono x).pendFb = s.pendFb := rfl
@[simp] theorem State.withMono_pendMem (s : State) (x : Nat) : (s.withMono x).pendMem = s.pendMem := rfl
@[simp] theorem State.withMono_mem (s : State) (x : Nat) : (s.withMono x).mem = s.mem := rfl
@[simp] theorem State.withMono_timers (s : State) (x : Nat) : (s.withMono x).timers = s.timers := rfl
@[simp] theorem State.withMono_outs (s : State) (x : Nat) : (s.withMono x).outs = s.outs := rfl
@[simp] theorem State.withMono_time (s : State) (x : Nat) : (s.withMono x).time = s.time := rfl
@[simp] theorem State.withMono_ring (s : State) (x : Nat) : (s.withMono x).ring = s.ring := rfl
@[simp] theorem State.withMono_plaza (s : State) (x : Nat) : (s.withMono x).plaza = s.plaza := rfl
@[simp] theorem State.withMono_jct (s : State) (x : Nat) : (s.withMono x).jct = s.jct := rfl
@[simp] theorem State.withMono_queues (s : State) (x : Nat) : (s.withMono x).queues = s.queues := rfl
@[simp] theorem State.withMono_bus (s : State) (x : Nat) : (s.withMono x).bus = s.bus := rfl
@[simp] theorem State.withMono_engines (s : State) (x : Nat) : (s.withMono x).engines = s.engines := rfl
@[simp] theorem State.withMono_txn (s : State) (x : Nat) : (s.withMono x).txn = s.txn := rfl
@[simp] theorem State.withMono_drains (s : State) (x : Nat) : (s.withMono x).drains = s.drains := rfl
@[simp] theorem State.withMono_cip (s : State) (x : Nat) : (s.withMono x).cip = s.cip := rfl
@[simp] theorem State.withMono_twin (s : State) (x : Nat) : (s.withMono x).twin = s.twin := rfl
@[simp] theorem State.withMono_power (s : State) (x : Nat) : (s.withMono x).power = s.power := rfl
@[simp] theorem State.withMono_flt (s : State) (x : Nat) : (s.withMono x).flt = s.flt := rfl
@[simp] theorem State.withMono_odw (s : State) (x : Nat) : (s.withMono x).odw = s.odw := rfl
@[simp] theorem State.withMono_upd (s : State) (x : Nat) : (s.withMono x).upd = s.upd := rfl
@[simp] theorem State.withFresh_pending (s : State) (x : Nat) : (s.withFresh x).pending = s.pending := rfl
@[simp] theorem State.withFresh_mono (s : State) (x : Nat) : (s.withFresh x).mono = s.mono := rfl
@[simp] theorem State.withFresh_fresh (s : State) (x : Nat) : (s.withFresh x).fresh = x := rfl
@[simp] theorem State.withFresh_ident (s : State) (x : Nat) : (s.withFresh x).ident = s.ident := rfl
@[simp] theorem State.withFresh_dev (s : State) (x : Nat) : (s.withFresh x).dev = s.dev := rfl
@[simp] theorem State.withFresh_pins (s : State) (x : Nat) : (s.withFresh x).pins = s.pins := rfl
@[simp] theorem State.withFresh_aon (s : State) (x : Nat) : (s.withFresh x).aon = s.aon := rfl
@[simp] theorem State.withFresh_regs (s : State) (x : Nat) : (s.withFresh x).regs = s.regs := rfl
@[simp] theorem State.withFresh_pendCb (s : State) (x : Nat) : (s.withFresh x).pendCb = s.pendCb := rfl
@[simp] theorem State.withFresh_pendFb (s : State) (x : Nat) : (s.withFresh x).pendFb = s.pendFb := rfl
@[simp] theorem State.withFresh_pendMem (s : State) (x : Nat) : (s.withFresh x).pendMem = s.pendMem := rfl
@[simp] theorem State.withFresh_mem (s : State) (x : Nat) : (s.withFresh x).mem = s.mem := rfl
@[simp] theorem State.withFresh_timers (s : State) (x : Nat) : (s.withFresh x).timers = s.timers := rfl
@[simp] theorem State.withFresh_outs (s : State) (x : Nat) : (s.withFresh x).outs = s.outs := rfl
@[simp] theorem State.withFresh_time (s : State) (x : Nat) : (s.withFresh x).time = s.time := rfl
@[simp] theorem State.withFresh_ring (s : State) (x : Nat) : (s.withFresh x).ring = s.ring := rfl
@[simp] theorem State.withFresh_plaza (s : State) (x : Nat) : (s.withFresh x).plaza = s.plaza := rfl
@[simp] theorem State.withFresh_jct (s : State) (x : Nat) : (s.withFresh x).jct = s.jct := rfl
@[simp] theorem State.withFresh_queues (s : State) (x : Nat) : (s.withFresh x).queues = s.queues := rfl
@[simp] theorem State.withFresh_bus (s : State) (x : Nat) : (s.withFresh x).bus = s.bus := rfl
@[simp] theorem State.withFresh_engines (s : State) (x : Nat) : (s.withFresh x).engines = s.engines := rfl
@[simp] theorem State.withFresh_txn (s : State) (x : Nat) : (s.withFresh x).txn = s.txn := rfl
@[simp] theorem State.withFresh_drains (s : State) (x : Nat) : (s.withFresh x).drains = s.drains := rfl
@[simp] theorem State.withFresh_cip (s : State) (x : Nat) : (s.withFresh x).cip = s.cip := rfl
@[simp] theorem State.withFresh_twin (s : State) (x : Nat) : (s.withFresh x).twin = s.twin := rfl
@[simp] theorem State.withFresh_power (s : State) (x : Nat) : (s.withFresh x).power = s.power := rfl
@[simp] theorem State.withFresh_flt (s : State) (x : Nat) : (s.withFresh x).flt = s.flt := rfl
@[simp] theorem State.withFresh_odw (s : State) (x : Nat) : (s.withFresh x).odw = s.odw := rfl
@[simp] theorem State.withFresh_upd (s : State) (x : Nat) : (s.withFresh x).upd = s.upd := rfl
@[simp] theorem State.withIdent_pending (s : State) (x : Ident) : (s.withIdent x).pending = s.pending := rfl
@[simp] theorem State.withIdent_mono (s : State) (x : Ident) : (s.withIdent x).mono = s.mono := rfl
@[simp] theorem State.withIdent_fresh (s : State) (x : Ident) : (s.withIdent x).fresh = s.fresh := rfl
@[simp] theorem State.withIdent_ident (s : State) (x : Ident) : (s.withIdent x).ident = x := rfl
@[simp] theorem State.withIdent_dev (s : State) (x : Ident) : (s.withIdent x).dev = s.dev := rfl
@[simp] theorem State.withIdent_pins (s : State) (x : Ident) : (s.withIdent x).pins = s.pins := rfl
@[simp] theorem State.withIdent_aon (s : State) (x : Ident) : (s.withIdent x).aon = s.aon := rfl
@[simp] theorem State.withIdent_regs (s : State) (x : Ident) : (s.withIdent x).regs = s.regs := rfl
@[simp] theorem State.withIdent_pendCb (s : State) (x : Ident) : (s.withIdent x).pendCb = s.pendCb := rfl
@[simp] theorem State.withIdent_pendFb (s : State) (x : Ident) : (s.withIdent x).pendFb = s.pendFb := rfl
@[simp] theorem State.withIdent_pendMem (s : State) (x : Ident) : (s.withIdent x).pendMem = s.pendMem := rfl
@[simp] theorem State.withIdent_mem (s : State) (x : Ident) : (s.withIdent x).mem = s.mem := rfl
@[simp] theorem State.withIdent_timers (s : State) (x : Ident) : (s.withIdent x).timers = s.timers := rfl
@[simp] theorem State.withIdent_outs (s : State) (x : Ident) : (s.withIdent x).outs = s.outs := rfl
@[simp] theorem State.withIdent_time (s : State) (x : Ident) : (s.withIdent x).time = s.time := rfl
@[simp] theorem State.withIdent_ring (s : State) (x : Ident) : (s.withIdent x).ring = s.ring := rfl
@[simp] theorem State.withIdent_plaza (s : State) (x : Ident) : (s.withIdent x).plaza = s.plaza := rfl
@[simp] theorem State.withIdent_jct (s : State) (x : Ident) : (s.withIdent x).jct = s.jct := rfl
@[simp] theorem State.withIdent_queues (s : State) (x : Ident) : (s.withIdent x).queues = s.queues := rfl
@[simp] theorem State.withIdent_bus (s : State) (x : Ident) : (s.withIdent x).bus = s.bus := rfl
@[simp] theorem State.withIdent_engines (s : State) (x : Ident) : (s.withIdent x).engines = s.engines := rfl
@[simp] theorem State.withIdent_txn (s : State) (x : Ident) : (s.withIdent x).txn = s.txn := rfl
@[simp] theorem State.withIdent_drains (s : State) (x : Ident) : (s.withIdent x).drains = s.drains := rfl
@[simp] theorem State.withIdent_cip (s : State) (x : Ident) : (s.withIdent x).cip = s.cip := rfl
@[simp] theorem State.withIdent_twin (s : State) (x : Ident) : (s.withIdent x).twin = s.twin := rfl
@[simp] theorem State.withIdent_power (s : State) (x : Ident) : (s.withIdent x).power = s.power := rfl
@[simp] theorem State.withIdent_flt (s : State) (x : Ident) : (s.withIdent x).flt = s.flt := rfl
@[simp] theorem State.withIdent_odw (s : State) (x : Ident) : (s.withIdent x).odw = s.odw := rfl
@[simp] theorem State.withIdent_upd (s : State) (x : Ident) : (s.withIdent x).upd = s.upd := rfl
@[simp] theorem State.withDev_pending (s : State) (x : Dev) : (s.withDev x).pending = s.pending := rfl
@[simp] theorem State.withDev_mono (s : State) (x : Dev) : (s.withDev x).mono = s.mono := rfl
@[simp] theorem State.withDev_fresh (s : State) (x : Dev) : (s.withDev x).fresh = s.fresh := rfl
@[simp] theorem State.withDev_ident (s : State) (x : Dev) : (s.withDev x).ident = s.ident := rfl
@[simp] theorem State.withDev_dev (s : State) (x : Dev) : (s.withDev x).dev = x := rfl
@[simp] theorem State.withDev_pins (s : State) (x : Dev) : (s.withDev x).pins = s.pins := rfl
@[simp] theorem State.withDev_aon (s : State) (x : Dev) : (s.withDev x).aon = s.aon := rfl
@[simp] theorem State.withDev_regs (s : State) (x : Dev) : (s.withDev x).regs = s.regs := rfl
@[simp] theorem State.withDev_pendCb (s : State) (x : Dev) : (s.withDev x).pendCb = s.pendCb := rfl
@[simp] theorem State.withDev_pendFb (s : State) (x : Dev) : (s.withDev x).pendFb = s.pendFb := rfl
@[simp] theorem State.withDev_pendMem (s : State) (x : Dev) : (s.withDev x).pendMem = s.pendMem := rfl
@[simp] theorem State.withDev_mem (s : State) (x : Dev) : (s.withDev x).mem = s.mem := rfl
@[simp] theorem State.withDev_timers (s : State) (x : Dev) : (s.withDev x).timers = s.timers := rfl
@[simp] theorem State.withDev_outs (s : State) (x : Dev) : (s.withDev x).outs = s.outs := rfl
@[simp] theorem State.withDev_time (s : State) (x : Dev) : (s.withDev x).time = s.time := rfl
@[simp] theorem State.withDev_ring (s : State) (x : Dev) : (s.withDev x).ring = s.ring := rfl
@[simp] theorem State.withDev_plaza (s : State) (x : Dev) : (s.withDev x).plaza = s.plaza := rfl
@[simp] theorem State.withDev_jct (s : State) (x : Dev) : (s.withDev x).jct = s.jct := rfl
@[simp] theorem State.withDev_queues (s : State) (x : Dev) : (s.withDev x).queues = s.queues := rfl
@[simp] theorem State.withDev_bus (s : State) (x : Dev) : (s.withDev x).bus = s.bus := rfl
@[simp] theorem State.withDev_engines (s : State) (x : Dev) : (s.withDev x).engines = s.engines := rfl
@[simp] theorem State.withDev_txn (s : State) (x : Dev) : (s.withDev x).txn = s.txn := rfl
@[simp] theorem State.withDev_drains (s : State) (x : Dev) : (s.withDev x).drains = s.drains := rfl
@[simp] theorem State.withDev_cip (s : State) (x : Dev) : (s.withDev x).cip = s.cip := rfl
@[simp] theorem State.withDev_twin (s : State) (x : Dev) : (s.withDev x).twin = s.twin := rfl
@[simp] theorem State.withDev_power (s : State) (x : Dev) : (s.withDev x).power = s.power := rfl
@[simp] theorem State.withDev_flt (s : State) (x : Dev) : (s.withDev x).flt = s.flt := rfl
@[simp] theorem State.withDev_odw (s : State) (x : Dev) : (s.withDev x).odw = s.odw := rfl
@[simp] theorem State.withDev_upd (s : State) (x : Dev) : (s.withDev x).upd = s.upd := rfl
@[simp] theorem State.withPins_pending (s : State) (x : Pins) : (s.withPins x).pending = s.pending := rfl
@[simp] theorem State.withPins_mono (s : State) (x : Pins) : (s.withPins x).mono = s.mono := rfl
@[simp] theorem State.withPins_fresh (s : State) (x : Pins) : (s.withPins x).fresh = s.fresh := rfl
@[simp] theorem State.withPins_ident (s : State) (x : Pins) : (s.withPins x).ident = s.ident := rfl
@[simp] theorem State.withPins_dev (s : State) (x : Pins) : (s.withPins x).dev = s.dev := rfl
@[simp] theorem State.withPins_pins (s : State) (x : Pins) : (s.withPins x).pins = x := rfl
@[simp] theorem State.withPins_aon (s : State) (x : Pins) : (s.withPins x).aon = s.aon := rfl
@[simp] theorem State.withPins_regs (s : State) (x : Pins) : (s.withPins x).regs = s.regs := rfl
@[simp] theorem State.withPins_pendCb (s : State) (x : Pins) : (s.withPins x).pendCb = s.pendCb := rfl
@[simp] theorem State.withPins_pendFb (s : State) (x : Pins) : (s.withPins x).pendFb = s.pendFb := rfl
@[simp] theorem State.withPins_pendMem (s : State) (x : Pins) : (s.withPins x).pendMem = s.pendMem := rfl
@[simp] theorem State.withPins_mem (s : State) (x : Pins) : (s.withPins x).mem = s.mem := rfl
@[simp] theorem State.withPins_timers (s : State) (x : Pins) : (s.withPins x).timers = s.timers := rfl
@[simp] theorem State.withPins_outs (s : State) (x : Pins) : (s.withPins x).outs = s.outs := rfl
@[simp] theorem State.withPins_time (s : State) (x : Pins) : (s.withPins x).time = s.time := rfl
@[simp] theorem State.withPins_ring (s : State) (x : Pins) : (s.withPins x).ring = s.ring := rfl
@[simp] theorem State.withPins_plaza (s : State) (x : Pins) : (s.withPins x).plaza = s.plaza := rfl
@[simp] theorem State.withPins_jct (s : State) (x : Pins) : (s.withPins x).jct = s.jct := rfl
@[simp] theorem State.withPins_queues (s : State) (x : Pins) : (s.withPins x).queues = s.queues := rfl
@[simp] theorem State.withPins_bus (s : State) (x : Pins) : (s.withPins x).bus = s.bus := rfl
@[simp] theorem State.withPins_engines (s : State) (x : Pins) : (s.withPins x).engines = s.engines := rfl
@[simp] theorem State.withPins_txn (s : State) (x : Pins) : (s.withPins x).txn = s.txn := rfl
@[simp] theorem State.withPins_drains (s : State) (x : Pins) : (s.withPins x).drains = s.drains := rfl
@[simp] theorem State.withPins_cip (s : State) (x : Pins) : (s.withPins x).cip = s.cip := rfl
@[simp] theorem State.withPins_twin (s : State) (x : Pins) : (s.withPins x).twin = s.twin := rfl
@[simp] theorem State.withPins_power (s : State) (x : Pins) : (s.withPins x).power = s.power := rfl
@[simp] theorem State.withPins_flt (s : State) (x : Pins) : (s.withPins x).flt = s.flt := rfl
@[simp] theorem State.withPins_odw (s : State) (x : Pins) : (s.withPins x).odw = s.odw := rfl
@[simp] theorem State.withPins_upd (s : State) (x : Pins) : (s.withPins x).upd = s.upd := rfl
@[simp] theorem State.withAon_pending (s : State) (x : Aon) : (s.withAon x).pending = s.pending := rfl
@[simp] theorem State.withAon_mono (s : State) (x : Aon) : (s.withAon x).mono = s.mono := rfl
@[simp] theorem State.withAon_fresh (s : State) (x : Aon) : (s.withAon x).fresh = s.fresh := rfl
@[simp] theorem State.withAon_ident (s : State) (x : Aon) : (s.withAon x).ident = s.ident := rfl
@[simp] theorem State.withAon_dev (s : State) (x : Aon) : (s.withAon x).dev = s.dev := rfl
@[simp] theorem State.withAon_pins (s : State) (x : Aon) : (s.withAon x).pins = s.pins := rfl
@[simp] theorem State.withAon_aon (s : State) (x : Aon) : (s.withAon x).aon = x := rfl
@[simp] theorem State.withAon_regs (s : State) (x : Aon) : (s.withAon x).regs = s.regs := rfl
@[simp] theorem State.withAon_pendCb (s : State) (x : Aon) : (s.withAon x).pendCb = s.pendCb := rfl
@[simp] theorem State.withAon_pendFb (s : State) (x : Aon) : (s.withAon x).pendFb = s.pendFb := rfl
@[simp] theorem State.withAon_pendMem (s : State) (x : Aon) : (s.withAon x).pendMem = s.pendMem := rfl
@[simp] theorem State.withAon_mem (s : State) (x : Aon) : (s.withAon x).mem = s.mem := rfl
@[simp] theorem State.withAon_timers (s : State) (x : Aon) : (s.withAon x).timers = s.timers := rfl
@[simp] theorem State.withAon_outs (s : State) (x : Aon) : (s.withAon x).outs = s.outs := rfl
@[simp] theorem State.withAon_time (s : State) (x : Aon) : (s.withAon x).time = s.time := rfl
@[simp] theorem State.withAon_ring (s : State) (x : Aon) : (s.withAon x).ring = s.ring := rfl
@[simp] theorem State.withAon_plaza (s : State) (x : Aon) : (s.withAon x).plaza = s.plaza := rfl
@[simp] theorem State.withAon_jct (s : State) (x : Aon) : (s.withAon x).jct = s.jct := rfl
@[simp] theorem State.withAon_queues (s : State) (x : Aon) : (s.withAon x).queues = s.queues := rfl
@[simp] theorem State.withAon_bus (s : State) (x : Aon) : (s.withAon x).bus = s.bus := rfl
@[simp] theorem State.withAon_engines (s : State) (x : Aon) : (s.withAon x).engines = s.engines := rfl
@[simp] theorem State.withAon_txn (s : State) (x : Aon) : (s.withAon x).txn = s.txn := rfl
@[simp] theorem State.withAon_drains (s : State) (x : Aon) : (s.withAon x).drains = s.drains := rfl
@[simp] theorem State.withAon_cip (s : State) (x : Aon) : (s.withAon x).cip = s.cip := rfl
@[simp] theorem State.withAon_twin (s : State) (x : Aon) : (s.withAon x).twin = s.twin := rfl
@[simp] theorem State.withAon_power (s : State) (x : Aon) : (s.withAon x).power = s.power := rfl
@[simp] theorem State.withAon_flt (s : State) (x : Aon) : (s.withAon x).flt = s.flt := rfl
@[simp] theorem State.withAon_odw (s : State) (x : Aon) : (s.withAon x).odw = s.odw := rfl
@[simp] theorem State.withAon_upd (s : State) (x : Aon) : (s.withAon x).upd = s.upd := rfl
@[simp] theorem State.withRegs_pending (s : State) (x : List (Nat × Word)) : (s.withRegs x).pending = s.pending := rfl
@[simp] theorem State.withRegs_mono (s : State) (x : List (Nat × Word)) : (s.withRegs x).mono = s.mono := rfl
@[simp] theorem State.withRegs_fresh (s : State) (x : List (Nat × Word)) : (s.withRegs x).fresh = s.fresh := rfl
@[simp] theorem State.withRegs_ident (s : State) (x : List (Nat × Word)) : (s.withRegs x).ident = s.ident := rfl
@[simp] theorem State.withRegs_dev (s : State) (x : List (Nat × Word)) : (s.withRegs x).dev = s.dev := rfl
@[simp] theorem State.withRegs_pins (s : State) (x : List (Nat × Word)) : (s.withRegs x).pins = s.pins := rfl
@[simp] theorem State.withRegs_aon (s : State) (x : List (Nat × Word)) : (s.withRegs x).aon = s.aon := rfl
@[simp] theorem State.withRegs_regs (s : State) (x : List (Nat × Word)) : (s.withRegs x).regs = x := rfl
@[simp] theorem State.withRegs_pendCb (s : State) (x : List (Nat × Word)) : (s.withRegs x).pendCb = s.pendCb := rfl
@[simp] theorem State.withRegs_pendFb (s : State) (x : List (Nat × Word)) : (s.withRegs x).pendFb = s.pendFb := rfl
@[simp] theorem State.withRegs_pendMem (s : State) (x : List (Nat × Word)) : (s.withRegs x).pendMem = s.pendMem := rfl
@[simp] theorem State.withRegs_mem (s : State) (x : List (Nat × Word)) : (s.withRegs x).mem = s.mem := rfl
@[simp] theorem State.withRegs_timers (s : State) (x : List (Nat × Word)) : (s.withRegs x).timers = s.timers := rfl
@[simp] theorem State.withRegs_outs (s : State) (x : List (Nat × Word)) : (s.withRegs x).outs = s.outs := rfl
@[simp] theorem State.withRegs_time (s : State) (x : List (Nat × Word)) : (s.withRegs x).time = s.time := rfl
@[simp] theorem State.withRegs_ring (s : State) (x : List (Nat × Word)) : (s.withRegs x).ring = s.ring := rfl
@[simp] theorem State.withRegs_plaza (s : State) (x : List (Nat × Word)) : (s.withRegs x).plaza = s.plaza := rfl
@[simp] theorem State.withRegs_jct (s : State) (x : List (Nat × Word)) : (s.withRegs x).jct = s.jct := rfl
@[simp] theorem State.withRegs_queues (s : State) (x : List (Nat × Word)) : (s.withRegs x).queues = s.queues := rfl
@[simp] theorem State.withRegs_bus (s : State) (x : List (Nat × Word)) : (s.withRegs x).bus = s.bus := rfl
@[simp] theorem State.withRegs_engines (s : State) (x : List (Nat × Word)) : (s.withRegs x).engines = s.engines := rfl
@[simp] theorem State.withRegs_txn (s : State) (x : List (Nat × Word)) : (s.withRegs x).txn = s.txn := rfl
@[simp] theorem State.withRegs_drains (s : State) (x : List (Nat × Word)) : (s.withRegs x).drains = s.drains := rfl
@[simp] theorem State.withRegs_cip (s : State) (x : List (Nat × Word)) : (s.withRegs x).cip = s.cip := rfl
@[simp] theorem State.withRegs_twin (s : State) (x : List (Nat × Word)) : (s.withRegs x).twin = s.twin := rfl
@[simp] theorem State.withRegs_power (s : State) (x : List (Nat × Word)) : (s.withRegs x).power = s.power := rfl
@[simp] theorem State.withRegs_flt (s : State) (x : List (Nat × Word)) : (s.withRegs x).flt = s.flt := rfl
@[simp] theorem State.withRegs_odw (s : State) (x : List (Nat × Word)) : (s.withRegs x).odw = s.odw := rfl
@[simp] theorem State.withRegs_upd (s : State) (x : List (Nat × Word)) : (s.withRegs x).upd = s.upd := rfl
@[simp] theorem State.withPendCb_pending (s : State) (x : List CbWrite) : (s.withPendCb x).pending = s.pending := rfl
@[simp] theorem State.withPendCb_mono (s : State) (x : List CbWrite) : (s.withPendCb x).mono = s.mono := rfl
@[simp] theorem State.withPendCb_fresh (s : State) (x : List CbWrite) : (s.withPendCb x).fresh = s.fresh := rfl
@[simp] theorem State.withPendCb_ident (s : State) (x : List CbWrite) : (s.withPendCb x).ident = s.ident := rfl
@[simp] theorem State.withPendCb_dev (s : State) (x : List CbWrite) : (s.withPendCb x).dev = s.dev := rfl
@[simp] theorem State.withPendCb_pins (s : State) (x : List CbWrite) : (s.withPendCb x).pins = s.pins := rfl
@[simp] theorem State.withPendCb_aon (s : State) (x : List CbWrite) : (s.withPendCb x).aon = s.aon := rfl
@[simp] theorem State.withPendCb_regs (s : State) (x : List CbWrite) : (s.withPendCb x).regs = s.regs := rfl
@[simp] theorem State.withPendCb_pendCb (s : State) (x : List CbWrite) : (s.withPendCb x).pendCb = x := rfl
@[simp] theorem State.withPendCb_pendFb (s : State) (x : List CbWrite) : (s.withPendCb x).pendFb = s.pendFb := rfl
@[simp] theorem State.withPendCb_pendMem (s : State) (x : List CbWrite) : (s.withPendCb x).pendMem = s.pendMem := rfl
@[simp] theorem State.withPendCb_mem (s : State) (x : List CbWrite) : (s.withPendCb x).mem = s.mem := rfl
@[simp] theorem State.withPendCb_timers (s : State) (x : List CbWrite) : (s.withPendCb x).timers = s.timers := rfl
@[simp] theorem State.withPendCb_outs (s : State) (x : List CbWrite) : (s.withPendCb x).outs = s.outs := rfl
@[simp] theorem State.withPendCb_time (s : State) (x : List CbWrite) : (s.withPendCb x).time = s.time := rfl
@[simp] theorem State.withPendCb_ring (s : State) (x : List CbWrite) : (s.withPendCb x).ring = s.ring := rfl
@[simp] theorem State.withPendCb_plaza (s : State) (x : List CbWrite) : (s.withPendCb x).plaza = s.plaza := rfl
@[simp] theorem State.withPendCb_jct (s : State) (x : List CbWrite) : (s.withPendCb x).jct = s.jct := rfl
@[simp] theorem State.withPendCb_queues (s : State) (x : List CbWrite) : (s.withPendCb x).queues = s.queues := rfl
@[simp] theorem State.withPendCb_bus (s : State) (x : List CbWrite) : (s.withPendCb x).bus = s.bus := rfl
@[simp] theorem State.withPendCb_engines (s : State) (x : List CbWrite) : (s.withPendCb x).engines = s.engines := rfl
@[simp] theorem State.withPendCb_txn (s : State) (x : List CbWrite) : (s.withPendCb x).txn = s.txn := rfl
@[simp] theorem State.withPendCb_drains (s : State) (x : List CbWrite) : (s.withPendCb x).drains = s.drains := rfl
@[simp] theorem State.withPendCb_cip (s : State) (x : List CbWrite) : (s.withPendCb x).cip = s.cip := rfl
@[simp] theorem State.withPendCb_twin (s : State) (x : List CbWrite) : (s.withPendCb x).twin = s.twin := rfl
@[simp] theorem State.withPendCb_power (s : State) (x : List CbWrite) : (s.withPendCb x).power = s.power := rfl
@[simp] theorem State.withPendCb_flt (s : State) (x : List CbWrite) : (s.withPendCb x).flt = s.flt := rfl
@[simp] theorem State.withPendCb_odw (s : State) (x : List CbWrite) : (s.withPendCb x).odw = s.odw := rfl
@[simp] theorem State.withPendCb_upd (s : State) (x : List CbWrite) : (s.withPendCb x).upd = s.upd := rfl
@[simp] theorem State.withPendFb_pending (s : State) (x : List (Nat × (Word × Word))) : (s.withPendFb x).pending = s.pending := rfl
@[simp] theorem State.withPendFb_mono (s : State) (x : List (Nat × (Word × Word))) : (s.withPendFb x).mono = s.mono := rfl
@[simp] theorem State.withPendFb_fresh (s : State) (x : List (Nat × (Word × Word))) : (s.withPendFb x).fresh = s.fresh := rfl
@[simp] theorem State.withPendFb_ident (s : State) (x : List (Nat × (Word × Word))) : (s.withPendFb x).ident = s.ident := rfl
@[simp] theorem State.withPendFb_dev (s : State) (x : List (Nat × (Word × Word))) : (s.withPendFb x).dev = s.dev := rfl
@[simp] theorem State.withPendFb_pins (s : State) (x : List (Nat × (Word × Word))) : (s.withPendFb x).pins = s.pins := rfl
@[simp] theorem State.withPendFb_aon (s : State) (x : List (Nat × (Word × Word))) : (s.withPendFb x).aon = s.aon := rfl
@[simp] theorem State.withPendFb_regs (s : State) (x : List (Nat × (Word × Word))) : (s.withPendFb x).regs = s.regs := rfl
@[simp] theorem State.withPendFb_pendCb (s : State) (x : List (Nat × (Word × Word))) : (s.withPendFb x).pendCb = s.pendCb := rfl
@[simp] theorem State.withPendFb_pendFb (s : State) (x : List (Nat × (Word × Word))) : (s.withPendFb x).pendFb = x := rfl
@[simp] theorem State.withPendFb_pendMem (s : State) (x : List (Nat × (Word × Word))) : (s.withPendFb x).pendMem = s.pendMem := rfl
@[simp] theorem State.withPendFb_mem (s : State) (x : List (Nat × (Word × Word))) : (s.withPendFb x).mem = s.mem := rfl
@[simp] theorem State.withPendFb_timers (s : State) (x : List (Nat × (Word × Word))) : (s.withPendFb x).timers = s.timers := rfl
@[simp] theorem State.withPendFb_outs (s : State) (x : List (Nat × (Word × Word))) : (s.withPendFb x).outs = s.outs := rfl
@[simp] theorem State.withPendFb_time (s : State) (x : List (Nat × (Word × Word))) : (s.withPendFb x).time = s.time := rfl
@[simp] theorem State.withPendFb_ring (s : State) (x : List (Nat × (Word × Word))) : (s.withPendFb x).ring = s.ring := rfl
@[simp] theorem State.withPendFb_plaza (s : State) (x : List (Nat × (Word × Word))) : (s.withPendFb x).plaza = s.plaza := rfl
@[simp] theorem State.withPendFb_jct (s : State) (x : List (Nat × (Word × Word))) : (s.withPendFb x).jct = s.jct := rfl
@[simp] theorem State.withPendFb_queues (s : State) (x : List (Nat × (Word × Word))) : (s.withPendFb x).queues = s.queues := rfl
@[simp] theorem State.withPendFb_bus (s : State) (x : List (Nat × (Word × Word))) : (s.withPendFb x).bus = s.bus := rfl
@[simp] theorem State.withPendFb_engines (s : State) (x : List (Nat × (Word × Word))) : (s.withPendFb x).engines = s.engines := rfl
@[simp] theorem State.withPendFb_txn (s : State) (x : List (Nat × (Word × Word))) : (s.withPendFb x).txn = s.txn := rfl
@[simp] theorem State.withPendFb_drains (s : State) (x : List (Nat × (Word × Word))) : (s.withPendFb x).drains = s.drains := rfl
@[simp] theorem State.withPendFb_cip (s : State) (x : List (Nat × (Word × Word))) : (s.withPendFb x).cip = s.cip := rfl
@[simp] theorem State.withPendFb_twin (s : State) (x : List (Nat × (Word × Word))) : (s.withPendFb x).twin = s.twin := rfl
@[simp] theorem State.withPendFb_power (s : State) (x : List (Nat × (Word × Word))) : (s.withPendFb x).power = s.power := rfl
@[simp] theorem State.withPendFb_flt (s : State) (x : List (Nat × (Word × Word))) : (s.withPendFb x).flt = s.flt := rfl
@[simp] theorem State.withPendFb_odw (s : State) (x : List (Nat × (Word × Word))) : (s.withPendFb x).odw = s.odw := rfl
@[simp] theorem State.withPendFb_upd (s : State) (x : List (Nat × (Word × Word))) : (s.withPendFb x).upd = s.upd := rfl
@[simp] theorem State.withPendMem_pending (s : State) (x : List (Nat × Host.Cell)) : (s.withPendMem x).pending = s.pending := rfl
@[simp] theorem State.withPendMem_mono (s : State) (x : List (Nat × Host.Cell)) : (s.withPendMem x).mono = s.mono := rfl
@[simp] theorem State.withPendMem_fresh (s : State) (x : List (Nat × Host.Cell)) : (s.withPendMem x).fresh = s.fresh := rfl
@[simp] theorem State.withPendMem_ident (s : State) (x : List (Nat × Host.Cell)) : (s.withPendMem x).ident = s.ident := rfl
@[simp] theorem State.withPendMem_dev (s : State) (x : List (Nat × Host.Cell)) : (s.withPendMem x).dev = s.dev := rfl
@[simp] theorem State.withPendMem_pins (s : State) (x : List (Nat × Host.Cell)) : (s.withPendMem x).pins = s.pins := rfl
@[simp] theorem State.withPendMem_aon (s : State) (x : List (Nat × Host.Cell)) : (s.withPendMem x).aon = s.aon := rfl
@[simp] theorem State.withPendMem_regs (s : State) (x : List (Nat × Host.Cell)) : (s.withPendMem x).regs = s.regs := rfl
@[simp] theorem State.withPendMem_pendCb (s : State) (x : List (Nat × Host.Cell)) : (s.withPendMem x).pendCb = s.pendCb := rfl
@[simp] theorem State.withPendMem_pendFb (s : State) (x : List (Nat × Host.Cell)) : (s.withPendMem x).pendFb = s.pendFb := rfl
@[simp] theorem State.withPendMem_pendMem (s : State) (x : List (Nat × Host.Cell)) : (s.withPendMem x).pendMem = x := rfl
@[simp] theorem State.withPendMem_mem (s : State) (x : List (Nat × Host.Cell)) : (s.withPendMem x).mem = s.mem := rfl
@[simp] theorem State.withPendMem_timers (s : State) (x : List (Nat × Host.Cell)) : (s.withPendMem x).timers = s.timers := rfl
@[simp] theorem State.withPendMem_outs (s : State) (x : List (Nat × Host.Cell)) : (s.withPendMem x).outs = s.outs := rfl
@[simp] theorem State.withPendMem_time (s : State) (x : List (Nat × Host.Cell)) : (s.withPendMem x).time = s.time := rfl
@[simp] theorem State.withPendMem_ring (s : State) (x : List (Nat × Host.Cell)) : (s.withPendMem x).ring = s.ring := rfl
@[simp] theorem State.withPendMem_plaza (s : State) (x : List (Nat × Host.Cell)) : (s.withPendMem x).plaza = s.plaza := rfl
@[simp] theorem State.withPendMem_jct (s : State) (x : List (Nat × Host.Cell)) : (s.withPendMem x).jct = s.jct := rfl
@[simp] theorem State.withPendMem_queues (s : State) (x : List (Nat × Host.Cell)) : (s.withPendMem x).queues = s.queues := rfl
@[simp] theorem State.withPendMem_bus (s : State) (x : List (Nat × Host.Cell)) : (s.withPendMem x).bus = s.bus := rfl
@[simp] theorem State.withPendMem_engines (s : State) (x : List (Nat × Host.Cell)) : (s.withPendMem x).engines = s.engines := rfl
@[simp] theorem State.withPendMem_txn (s : State) (x : List (Nat × Host.Cell)) : (s.withPendMem x).txn = s.txn := rfl
@[simp] theorem State.withPendMem_drains (s : State) (x : List (Nat × Host.Cell)) : (s.withPendMem x).drains = s.drains := rfl
@[simp] theorem State.withPendMem_cip (s : State) (x : List (Nat × Host.Cell)) : (s.withPendMem x).cip = s.cip := rfl
@[simp] theorem State.withPendMem_twin (s : State) (x : List (Nat × Host.Cell)) : (s.withPendMem x).twin = s.twin := rfl
@[simp] theorem State.withPendMem_power (s : State) (x : List (Nat × Host.Cell)) : (s.withPendMem x).power = s.power := rfl
@[simp] theorem State.withPendMem_flt (s : State) (x : List (Nat × Host.Cell)) : (s.withPendMem x).flt = s.flt := rfl
@[simp] theorem State.withPendMem_odw (s : State) (x : List (Nat × Host.Cell)) : (s.withPendMem x).odw = s.odw := rfl
@[simp] theorem State.withPendMem_upd (s : State) (x : List (Nat × Host.Cell)) : (s.withPendMem x).upd = s.upd := rfl
@[simp] theorem State.withMem_pending (s : State) (x : List Host.Cell) : (s.withMem x).pending = s.pending := rfl
@[simp] theorem State.withMem_mono (s : State) (x : List Host.Cell) : (s.withMem x).mono = s.mono := rfl
@[simp] theorem State.withMem_fresh (s : State) (x : List Host.Cell) : (s.withMem x).fresh = s.fresh := rfl
@[simp] theorem State.withMem_ident (s : State) (x : List Host.Cell) : (s.withMem x).ident = s.ident := rfl
@[simp] theorem State.withMem_dev (s : State) (x : List Host.Cell) : (s.withMem x).dev = s.dev := rfl
@[simp] theorem State.withMem_pins (s : State) (x : List Host.Cell) : (s.withMem x).pins = s.pins := rfl
@[simp] theorem State.withMem_aon (s : State) (x : List Host.Cell) : (s.withMem x).aon = s.aon := rfl
@[simp] theorem State.withMem_regs (s : State) (x : List Host.Cell) : (s.withMem x).regs = s.regs := rfl
@[simp] theorem State.withMem_pendCb (s : State) (x : List Host.Cell) : (s.withMem x).pendCb = s.pendCb := rfl
@[simp] theorem State.withMem_pendFb (s : State) (x : List Host.Cell) : (s.withMem x).pendFb = s.pendFb := rfl
@[simp] theorem State.withMem_pendMem (s : State) (x : List Host.Cell) : (s.withMem x).pendMem = s.pendMem := rfl
@[simp] theorem State.withMem_mem (s : State) (x : List Host.Cell) : (s.withMem x).mem = x := rfl
@[simp] theorem State.withMem_timers (s : State) (x : List Host.Cell) : (s.withMem x).timers = s.timers := rfl
@[simp] theorem State.withMem_outs (s : State) (x : List Host.Cell) : (s.withMem x).outs = s.outs := rfl
@[simp] theorem State.withMem_time (s : State) (x : List Host.Cell) : (s.withMem x).time = s.time := rfl
@[simp] theorem State.withMem_ring (s : State) (x : List Host.Cell) : (s.withMem x).ring = s.ring := rfl
@[simp] theorem State.withMem_plaza (s : State) (x : List Host.Cell) : (s.withMem x).plaza = s.plaza := rfl
@[simp] theorem State.withMem_jct (s : State) (x : List Host.Cell) : (s.withMem x).jct = s.jct := rfl
@[simp] theorem State.withMem_queues (s : State) (x : List Host.Cell) : (s.withMem x).queues = s.queues := rfl
@[simp] theorem State.withMem_bus (s : State) (x : List Host.Cell) : (s.withMem x).bus = s.bus := rfl
@[simp] theorem State.withMem_engines (s : State) (x : List Host.Cell) : (s.withMem x).engines = s.engines := rfl
@[simp] theorem State.withMem_txn (s : State) (x : List Host.Cell) : (s.withMem x).txn = s.txn := rfl
@[simp] theorem State.withMem_drains (s : State) (x : List Host.Cell) : (s.withMem x).drains = s.drains := rfl
@[simp] theorem State.withMem_cip (s : State) (x : List Host.Cell) : (s.withMem x).cip = s.cip := rfl
@[simp] theorem State.withMem_twin (s : State) (x : List Host.Cell) : (s.withMem x).twin = s.twin := rfl
@[simp] theorem State.withMem_power (s : State) (x : List Host.Cell) : (s.withMem x).power = s.power := rfl
@[simp] theorem State.withMem_flt (s : State) (x : List Host.Cell) : (s.withMem x).flt = s.flt := rfl
@[simp] theorem State.withMem_odw (s : State) (x : List Host.Cell) : (s.withMem x).odw = s.odw := rfl
@[simp] theorem State.withMem_upd (s : State) (x : List Host.Cell) : (s.withMem x).upd = s.upd := rfl
@[simp] theorem State.withTimers_pending (s : State) (x : List (TimerId × Nat)) : (s.withTimers x).pending = s.pending := rfl
@[simp] theorem State.withTimers_mono (s : State) (x : List (TimerId × Nat)) : (s.withTimers x).mono = s.mono := rfl
@[simp] theorem State.withTimers_fresh (s : State) (x : List (TimerId × Nat)) : (s.withTimers x).fresh = s.fresh := rfl
@[simp] theorem State.withTimers_ident (s : State) (x : List (TimerId × Nat)) : (s.withTimers x).ident = s.ident := rfl
@[simp] theorem State.withTimers_dev (s : State) (x : List (TimerId × Nat)) : (s.withTimers x).dev = s.dev := rfl
@[simp] theorem State.withTimers_pins (s : State) (x : List (TimerId × Nat)) : (s.withTimers x).pins = s.pins := rfl
@[simp] theorem State.withTimers_aon (s : State) (x : List (TimerId × Nat)) : (s.withTimers x).aon = s.aon := rfl
@[simp] theorem State.withTimers_regs (s : State) (x : List (TimerId × Nat)) : (s.withTimers x).regs = s.regs := rfl
@[simp] theorem State.withTimers_pendCb (s : State) (x : List (TimerId × Nat)) : (s.withTimers x).pendCb = s.pendCb := rfl
@[simp] theorem State.withTimers_pendFb (s : State) (x : List (TimerId × Nat)) : (s.withTimers x).pendFb = s.pendFb := rfl
@[simp] theorem State.withTimers_pendMem (s : State) (x : List (TimerId × Nat)) : (s.withTimers x).pendMem = s.pendMem := rfl
@[simp] theorem State.withTimers_mem (s : State) (x : List (TimerId × Nat)) : (s.withTimers x).mem = s.mem := rfl
@[simp] theorem State.withTimers_timers (s : State) (x : List (TimerId × Nat)) : (s.withTimers x).timers = x := rfl
@[simp] theorem State.withTimers_outs (s : State) (x : List (TimerId × Nat)) : (s.withTimers x).outs = s.outs := rfl
@[simp] theorem State.withTimers_time (s : State) (x : List (TimerId × Nat)) : (s.withTimers x).time = s.time := rfl
@[simp] theorem State.withTimers_ring (s : State) (x : List (TimerId × Nat)) : (s.withTimers x).ring = s.ring := rfl
@[simp] theorem State.withTimers_plaza (s : State) (x : List (TimerId × Nat)) : (s.withTimers x).plaza = s.plaza := rfl
@[simp] theorem State.withTimers_jct (s : State) (x : List (TimerId × Nat)) : (s.withTimers x).jct = s.jct := rfl
@[simp] theorem State.withTimers_queues (s : State) (x : List (TimerId × Nat)) : (s.withTimers x).queues = s.queues := rfl
@[simp] theorem State.withTimers_bus (s : State) (x : List (TimerId × Nat)) : (s.withTimers x).bus = s.bus := rfl
@[simp] theorem State.withTimers_engines (s : State) (x : List (TimerId × Nat)) : (s.withTimers x).engines = s.engines := rfl
@[simp] theorem State.withTimers_txn (s : State) (x : List (TimerId × Nat)) : (s.withTimers x).txn = s.txn := rfl
@[simp] theorem State.withTimers_drains (s : State) (x : List (TimerId × Nat)) : (s.withTimers x).drains = s.drains := rfl
@[simp] theorem State.withTimers_cip (s : State) (x : List (TimerId × Nat)) : (s.withTimers x).cip = s.cip := rfl
@[simp] theorem State.withTimers_twin (s : State) (x : List (TimerId × Nat)) : (s.withTimers x).twin = s.twin := rfl
@[simp] theorem State.withTimers_power (s : State) (x : List (TimerId × Nat)) : (s.withTimers x).power = s.power := rfl
@[simp] theorem State.withTimers_flt (s : State) (x : List (TimerId × Nat)) : (s.withTimers x).flt = s.flt := rfl
@[simp] theorem State.withTimers_odw (s : State) (x : List (TimerId × Nat)) : (s.withTimers x).odw = s.odw := rfl
@[simp] theorem State.withTimers_upd (s : State) (x : List (TimerId × Nat)) : (s.withTimers x).upd = s.upd := rfl
@[simp] theorem State.withOuts_pending (s : State) (x : List OutEvent) : (s.withOuts x).pending = s.pending := rfl
@[simp] theorem State.withOuts_mono (s : State) (x : List OutEvent) : (s.withOuts x).mono = s.mono := rfl
@[simp] theorem State.withOuts_fresh (s : State) (x : List OutEvent) : (s.withOuts x).fresh = s.fresh := rfl
@[simp] theorem State.withOuts_ident (s : State) (x : List OutEvent) : (s.withOuts x).ident = s.ident := rfl
@[simp] theorem State.withOuts_dev (s : State) (x : List OutEvent) : (s.withOuts x).dev = s.dev := rfl
@[simp] theorem State.withOuts_pins (s : State) (x : List OutEvent) : (s.withOuts x).pins = s.pins := rfl
@[simp] theorem State.withOuts_aon (s : State) (x : List OutEvent) : (s.withOuts x).aon = s.aon := rfl
@[simp] theorem State.withOuts_regs (s : State) (x : List OutEvent) : (s.withOuts x).regs = s.regs := rfl
@[simp] theorem State.withOuts_pendCb (s : State) (x : List OutEvent) : (s.withOuts x).pendCb = s.pendCb := rfl
@[simp] theorem State.withOuts_pendFb (s : State) (x : List OutEvent) : (s.withOuts x).pendFb = s.pendFb := rfl
@[simp] theorem State.withOuts_pendMem (s : State) (x : List OutEvent) : (s.withOuts x).pendMem = s.pendMem := rfl
@[simp] theorem State.withOuts_mem (s : State) (x : List OutEvent) : (s.withOuts x).mem = s.mem := rfl
@[simp] theorem State.withOuts_timers (s : State) (x : List OutEvent) : (s.withOuts x).timers = s.timers := rfl
@[simp] theorem State.withOuts_outs (s : State) (x : List OutEvent) : (s.withOuts x).outs = x := rfl
@[simp] theorem State.withOuts_time (s : State) (x : List OutEvent) : (s.withOuts x).time = s.time := rfl
@[simp] theorem State.withOuts_ring (s : State) (x : List OutEvent) : (s.withOuts x).ring = s.ring := rfl
@[simp] theorem State.withOuts_plaza (s : State) (x : List OutEvent) : (s.withOuts x).plaza = s.plaza := rfl
@[simp] theorem State.withOuts_jct (s : State) (x : List OutEvent) : (s.withOuts x).jct = s.jct := rfl
@[simp] theorem State.withOuts_queues (s : State) (x : List OutEvent) : (s.withOuts x).queues = s.queues := rfl
@[simp] theorem State.withOuts_bus (s : State) (x : List OutEvent) : (s.withOuts x).bus = s.bus := rfl
@[simp] theorem State.withOuts_engines (s : State) (x : List OutEvent) : (s.withOuts x).engines = s.engines := rfl
@[simp] theorem State.withOuts_txn (s : State) (x : List OutEvent) : (s.withOuts x).txn = s.txn := rfl
@[simp] theorem State.withOuts_drains (s : State) (x : List OutEvent) : (s.withOuts x).drains = s.drains := rfl
@[simp] theorem State.withOuts_cip (s : State) (x : List OutEvent) : (s.withOuts x).cip = s.cip := rfl
@[simp] theorem State.withOuts_twin (s : State) (x : List OutEvent) : (s.withOuts x).twin = s.twin := rfl
@[simp] theorem State.withOuts_power (s : State) (x : List OutEvent) : (s.withOuts x).power = s.power := rfl
@[simp] theorem State.withOuts_flt (s : State) (x : List OutEvent) : (s.withOuts x).flt = s.flt := rfl
@[simp] theorem State.withOuts_odw (s : State) (x : List OutEvent) : (s.withOuts x).odw = s.odw := rfl
@[simp] theorem State.withOuts_upd (s : State) (x : List OutEvent) : (s.withOuts x).upd = s.upd := rfl
@[simp] theorem State.withTime_pending (s : State) (x : TimeSt) : (s.withTime x).pending = s.pending := rfl
@[simp] theorem State.withTime_mono (s : State) (x : TimeSt) : (s.withTime x).mono = s.mono := rfl
@[simp] theorem State.withTime_fresh (s : State) (x : TimeSt) : (s.withTime x).fresh = s.fresh := rfl
@[simp] theorem State.withTime_ident (s : State) (x : TimeSt) : (s.withTime x).ident = s.ident := rfl
@[simp] theorem State.withTime_dev (s : State) (x : TimeSt) : (s.withTime x).dev = s.dev := rfl
@[simp] theorem State.withTime_pins (s : State) (x : TimeSt) : (s.withTime x).pins = s.pins := rfl
@[simp] theorem State.withTime_aon (s : State) (x : TimeSt) : (s.withTime x).aon = s.aon := rfl
@[simp] theorem State.withTime_regs (s : State) (x : TimeSt) : (s.withTime x).regs = s.regs := rfl
@[simp] theorem State.withTime_pendCb (s : State) (x : TimeSt) : (s.withTime x).pendCb = s.pendCb := rfl
@[simp] theorem State.withTime_pendFb (s : State) (x : TimeSt) : (s.withTime x).pendFb = s.pendFb := rfl
@[simp] theorem State.withTime_pendMem (s : State) (x : TimeSt) : (s.withTime x).pendMem = s.pendMem := rfl
@[simp] theorem State.withTime_mem (s : State) (x : TimeSt) : (s.withTime x).mem = s.mem := rfl
@[simp] theorem State.withTime_timers (s : State) (x : TimeSt) : (s.withTime x).timers = s.timers := rfl
@[simp] theorem State.withTime_outs (s : State) (x : TimeSt) : (s.withTime x).outs = s.outs := rfl
@[simp] theorem State.withTime_time (s : State) (x : TimeSt) : (s.withTime x).time = x := rfl
@[simp] theorem State.withTime_ring (s : State) (x : TimeSt) : (s.withTime x).ring = s.ring := rfl
@[simp] theorem State.withTime_plaza (s : State) (x : TimeSt) : (s.withTime x).plaza = s.plaza := rfl
@[simp] theorem State.withTime_jct (s : State) (x : TimeSt) : (s.withTime x).jct = s.jct := rfl
@[simp] theorem State.withTime_queues (s : State) (x : TimeSt) : (s.withTime x).queues = s.queues := rfl
@[simp] theorem State.withTime_bus (s : State) (x : TimeSt) : (s.withTime x).bus = s.bus := rfl
@[simp] theorem State.withTime_engines (s : State) (x : TimeSt) : (s.withTime x).engines = s.engines := rfl
@[simp] theorem State.withTime_txn (s : State) (x : TimeSt) : (s.withTime x).txn = s.txn := rfl
@[simp] theorem State.withTime_drains (s : State) (x : TimeSt) : (s.withTime x).drains = s.drains := rfl
@[simp] theorem State.withTime_cip (s : State) (x : TimeSt) : (s.withTime x).cip = s.cip := rfl
@[simp] theorem State.withTime_twin (s : State) (x : TimeSt) : (s.withTime x).twin = s.twin := rfl
@[simp] theorem State.withTime_power (s : State) (x : TimeSt) : (s.withTime x).power = s.power := rfl
@[simp] theorem State.withTime_flt (s : State) (x : TimeSt) : (s.withTime x).flt = s.flt := rfl
@[simp] theorem State.withTime_odw (s : State) (x : TimeSt) : (s.withTime x).odw = s.odw := rfl
@[simp] theorem State.withTime_upd (s : State) (x : TimeSt) : (s.withTime x).upd = s.upd := rfl
@[simp] theorem State.withRing_pending (s : State) (x : Ring) : (s.withRing x).pending = s.pending := rfl
@[simp] theorem State.withRing_mono (s : State) (x : Ring) : (s.withRing x).mono = s.mono := rfl
@[simp] theorem State.withRing_fresh (s : State) (x : Ring) : (s.withRing x).fresh = s.fresh := rfl
@[simp] theorem State.withRing_ident (s : State) (x : Ring) : (s.withRing x).ident = s.ident := rfl
@[simp] theorem State.withRing_dev (s : State) (x : Ring) : (s.withRing x).dev = s.dev := rfl
@[simp] theorem State.withRing_pins (s : State) (x : Ring) : (s.withRing x).pins = s.pins := rfl
@[simp] theorem State.withRing_aon (s : State) (x : Ring) : (s.withRing x).aon = s.aon := rfl
@[simp] theorem State.withRing_regs (s : State) (x : Ring) : (s.withRing x).regs = s.regs := rfl
@[simp] theorem State.withRing_pendCb (s : State) (x : Ring) : (s.withRing x).pendCb = s.pendCb := rfl
@[simp] theorem State.withRing_pendFb (s : State) (x : Ring) : (s.withRing x).pendFb = s.pendFb := rfl
@[simp] theorem State.withRing_pendMem (s : State) (x : Ring) : (s.withRing x).pendMem = s.pendMem := rfl
@[simp] theorem State.withRing_mem (s : State) (x : Ring) : (s.withRing x).mem = s.mem := rfl
@[simp] theorem State.withRing_timers (s : State) (x : Ring) : (s.withRing x).timers = s.timers := rfl
@[simp] theorem State.withRing_outs (s : State) (x : Ring) : (s.withRing x).outs = s.outs := rfl
@[simp] theorem State.withRing_time (s : State) (x : Ring) : (s.withRing x).time = s.time := rfl
@[simp] theorem State.withRing_ring (s : State) (x : Ring) : (s.withRing x).ring = x := rfl
@[simp] theorem State.withRing_plaza (s : State) (x : Ring) : (s.withRing x).plaza = s.plaza := rfl
@[simp] theorem State.withRing_jct (s : State) (x : Ring) : (s.withRing x).jct = s.jct := rfl
@[simp] theorem State.withRing_queues (s : State) (x : Ring) : (s.withRing x).queues = s.queues := rfl
@[simp] theorem State.withRing_bus (s : State) (x : Ring) : (s.withRing x).bus = s.bus := rfl
@[simp] theorem State.withRing_engines (s : State) (x : Ring) : (s.withRing x).engines = s.engines := rfl
@[simp] theorem State.withRing_txn (s : State) (x : Ring) : (s.withRing x).txn = s.txn := rfl
@[simp] theorem State.withRing_drains (s : State) (x : Ring) : (s.withRing x).drains = s.drains := rfl
@[simp] theorem State.withRing_cip (s : State) (x : Ring) : (s.withRing x).cip = s.cip := rfl
@[simp] theorem State.withRing_twin (s : State) (x : Ring) : (s.withRing x).twin = s.twin := rfl
@[simp] theorem State.withRing_power (s : State) (x : Ring) : (s.withRing x).power = s.power := rfl
@[simp] theorem State.withRing_flt (s : State) (x : Ring) : (s.withRing x).flt = s.flt := rfl
@[simp] theorem State.withRing_odw (s : State) (x : Ring) : (s.withRing x).odw = s.odw := rfl
@[simp] theorem State.withRing_upd (s : State) (x : Ring) : (s.withRing x).upd = s.upd := rfl
@[simp] theorem State.withPlaza_pending (s : State) (x : Plaza) : (s.withPlaza x).pending = s.pending := rfl
@[simp] theorem State.withPlaza_mono (s : State) (x : Plaza) : (s.withPlaza x).mono = s.mono := rfl
@[simp] theorem State.withPlaza_fresh (s : State) (x : Plaza) : (s.withPlaza x).fresh = s.fresh := rfl
@[simp] theorem State.withPlaza_ident (s : State) (x : Plaza) : (s.withPlaza x).ident = s.ident := rfl
@[simp] theorem State.withPlaza_dev (s : State) (x : Plaza) : (s.withPlaza x).dev = s.dev := rfl
@[simp] theorem State.withPlaza_pins (s : State) (x : Plaza) : (s.withPlaza x).pins = s.pins := rfl
@[simp] theorem State.withPlaza_aon (s : State) (x : Plaza) : (s.withPlaza x).aon = s.aon := rfl
@[simp] theorem State.withPlaza_regs (s : State) (x : Plaza) : (s.withPlaza x).regs = s.regs := rfl
@[simp] theorem State.withPlaza_pendCb (s : State) (x : Plaza) : (s.withPlaza x).pendCb = s.pendCb := rfl
@[simp] theorem State.withPlaza_pendFb (s : State) (x : Plaza) : (s.withPlaza x).pendFb = s.pendFb := rfl
@[simp] theorem State.withPlaza_pendMem (s : State) (x : Plaza) : (s.withPlaza x).pendMem = s.pendMem := rfl
@[simp] theorem State.withPlaza_mem (s : State) (x : Plaza) : (s.withPlaza x).mem = s.mem := rfl
@[simp] theorem State.withPlaza_timers (s : State) (x : Plaza) : (s.withPlaza x).timers = s.timers := rfl
@[simp] theorem State.withPlaza_outs (s : State) (x : Plaza) : (s.withPlaza x).outs = s.outs := rfl
@[simp] theorem State.withPlaza_time (s : State) (x : Plaza) : (s.withPlaza x).time = s.time := rfl
@[simp] theorem State.withPlaza_ring (s : State) (x : Plaza) : (s.withPlaza x).ring = s.ring := rfl
@[simp] theorem State.withPlaza_plaza (s : State) (x : Plaza) : (s.withPlaza x).plaza = x := rfl
@[simp] theorem State.withPlaza_jct (s : State) (x : Plaza) : (s.withPlaza x).jct = s.jct := rfl
@[simp] theorem State.withPlaza_queues (s : State) (x : Plaza) : (s.withPlaza x).queues = s.queues := rfl
@[simp] theorem State.withPlaza_bus (s : State) (x : Plaza) : (s.withPlaza x).bus = s.bus := rfl
@[simp] theorem State.withPlaza_engines (s : State) (x : Plaza) : (s.withPlaza x).engines = s.engines := rfl
@[simp] theorem State.withPlaza_txn (s : State) (x : Plaza) : (s.withPlaza x).txn = s.txn := rfl
@[simp] theorem State.withPlaza_drains (s : State) (x : Plaza) : (s.withPlaza x).drains = s.drains := rfl
@[simp] theorem State.withPlaza_cip (s : State) (x : Plaza) : (s.withPlaza x).cip = s.cip := rfl
@[simp] theorem State.withPlaza_twin (s : State) (x : Plaza) : (s.withPlaza x).twin = s.twin := rfl
@[simp] theorem State.withPlaza_power (s : State) (x : Plaza) : (s.withPlaza x).power = s.power := rfl
@[simp] theorem State.withPlaza_flt (s : State) (x : Plaza) : (s.withPlaza x).flt = s.flt := rfl
@[simp] theorem State.withPlaza_odw (s : State) (x : Plaza) : (s.withPlaza x).odw = s.odw := rfl
@[simp] theorem State.withPlaza_upd (s : State) (x : Plaza) : (s.withPlaza x).upd = s.upd := rfl
@[simp] theorem State.withJct_pending (s : State) (x : Junction) : (s.withJct x).pending = s.pending := rfl
@[simp] theorem State.withJct_mono (s : State) (x : Junction) : (s.withJct x).mono = s.mono := rfl
@[simp] theorem State.withJct_fresh (s : State) (x : Junction) : (s.withJct x).fresh = s.fresh := rfl
@[simp] theorem State.withJct_ident (s : State) (x : Junction) : (s.withJct x).ident = s.ident := rfl
@[simp] theorem State.withJct_dev (s : State) (x : Junction) : (s.withJct x).dev = s.dev := rfl
@[simp] theorem State.withJct_pins (s : State) (x : Junction) : (s.withJct x).pins = s.pins := rfl
@[simp] theorem State.withJct_aon (s : State) (x : Junction) : (s.withJct x).aon = s.aon := rfl
@[simp] theorem State.withJct_regs (s : State) (x : Junction) : (s.withJct x).regs = s.regs := rfl
@[simp] theorem State.withJct_pendCb (s : State) (x : Junction) : (s.withJct x).pendCb = s.pendCb := rfl
@[simp] theorem State.withJct_pendFb (s : State) (x : Junction) : (s.withJct x).pendFb = s.pendFb := rfl
@[simp] theorem State.withJct_pendMem (s : State) (x : Junction) : (s.withJct x).pendMem = s.pendMem := rfl
@[simp] theorem State.withJct_mem (s : State) (x : Junction) : (s.withJct x).mem = s.mem := rfl
@[simp] theorem State.withJct_timers (s : State) (x : Junction) : (s.withJct x).timers = s.timers := rfl
@[simp] theorem State.withJct_outs (s : State) (x : Junction) : (s.withJct x).outs = s.outs := rfl
@[simp] theorem State.withJct_time (s : State) (x : Junction) : (s.withJct x).time = s.time := rfl
@[simp] theorem State.withJct_ring (s : State) (x : Junction) : (s.withJct x).ring = s.ring := rfl
@[simp] theorem State.withJct_plaza (s : State) (x : Junction) : (s.withJct x).plaza = s.plaza := rfl
@[simp] theorem State.withJct_jct (s : State) (x : Junction) : (s.withJct x).jct = x := rfl
@[simp] theorem State.withJct_queues (s : State) (x : Junction) : (s.withJct x).queues = s.queues := rfl
@[simp] theorem State.withJct_bus (s : State) (x : Junction) : (s.withJct x).bus = s.bus := rfl
@[simp] theorem State.withJct_engines (s : State) (x : Junction) : (s.withJct x).engines = s.engines := rfl
@[simp] theorem State.withJct_txn (s : State) (x : Junction) : (s.withJct x).txn = s.txn := rfl
@[simp] theorem State.withJct_drains (s : State) (x : Junction) : (s.withJct x).drains = s.drains := rfl
@[simp] theorem State.withJct_cip (s : State) (x : Junction) : (s.withJct x).cip = s.cip := rfl
@[simp] theorem State.withJct_twin (s : State) (x : Junction) : (s.withJct x).twin = s.twin := rfl
@[simp] theorem State.withJct_power (s : State) (x : Junction) : (s.withJct x).power = s.power := rfl
@[simp] theorem State.withJct_flt (s : State) (x : Junction) : (s.withJct x).flt = s.flt := rfl
@[simp] theorem State.withJct_odw (s : State) (x : Junction) : (s.withJct x).odw = s.odw := rfl
@[simp] theorem State.withJct_upd (s : State) (x : Junction) : (s.withJct x).upd = s.upd := rfl
@[simp] theorem State.withQueues_pending (s : State) (x : List (Nat × MQueue)) : (s.withQueues x).pending = s.pending := rfl
@[simp] theorem State.withQueues_mono (s : State) (x : List (Nat × MQueue)) : (s.withQueues x).mono = s.mono := rfl
@[simp] theorem State.withQueues_fresh (s : State) (x : List (Nat × MQueue)) : (s.withQueues x).fresh = s.fresh := rfl
@[simp] theorem State.withQueues_ident (s : State) (x : List (Nat × MQueue)) : (s.withQueues x).ident = s.ident := rfl
@[simp] theorem State.withQueues_dev (s : State) (x : List (Nat × MQueue)) : (s.withQueues x).dev = s.dev := rfl
@[simp] theorem State.withQueues_pins (s : State) (x : List (Nat × MQueue)) : (s.withQueues x).pins = s.pins := rfl
@[simp] theorem State.withQueues_aon (s : State) (x : List (Nat × MQueue)) : (s.withQueues x).aon = s.aon := rfl
@[simp] theorem State.withQueues_regs (s : State) (x : List (Nat × MQueue)) : (s.withQueues x).regs = s.regs := rfl
@[simp] theorem State.withQueues_pendCb (s : State) (x : List (Nat × MQueue)) : (s.withQueues x).pendCb = s.pendCb := rfl
@[simp] theorem State.withQueues_pendFb (s : State) (x : List (Nat × MQueue)) : (s.withQueues x).pendFb = s.pendFb := rfl
@[simp] theorem State.withQueues_pendMem (s : State) (x : List (Nat × MQueue)) : (s.withQueues x).pendMem = s.pendMem := rfl
@[simp] theorem State.withQueues_mem (s : State) (x : List (Nat × MQueue)) : (s.withQueues x).mem = s.mem := rfl
@[simp] theorem State.withQueues_timers (s : State) (x : List (Nat × MQueue)) : (s.withQueues x).timers = s.timers := rfl
@[simp] theorem State.withQueues_outs (s : State) (x : List (Nat × MQueue)) : (s.withQueues x).outs = s.outs := rfl
@[simp] theorem State.withQueues_time (s : State) (x : List (Nat × MQueue)) : (s.withQueues x).time = s.time := rfl
@[simp] theorem State.withQueues_ring (s : State) (x : List (Nat × MQueue)) : (s.withQueues x).ring = s.ring := rfl
@[simp] theorem State.withQueues_plaza (s : State) (x : List (Nat × MQueue)) : (s.withQueues x).plaza = s.plaza := rfl
@[simp] theorem State.withQueues_jct (s : State) (x : List (Nat × MQueue)) : (s.withQueues x).jct = s.jct := rfl
@[simp] theorem State.withQueues_queues (s : State) (x : List (Nat × MQueue)) : (s.withQueues x).queues = x := rfl
@[simp] theorem State.withQueues_bus (s : State) (x : List (Nat × MQueue)) : (s.withQueues x).bus = s.bus := rfl
@[simp] theorem State.withQueues_engines (s : State) (x : List (Nat × MQueue)) : (s.withQueues x).engines = s.engines := rfl
@[simp] theorem State.withQueues_txn (s : State) (x : List (Nat × MQueue)) : (s.withQueues x).txn = s.txn := rfl
@[simp] theorem State.withQueues_drains (s : State) (x : List (Nat × MQueue)) : (s.withQueues x).drains = s.drains := rfl
@[simp] theorem State.withQueues_cip (s : State) (x : List (Nat × MQueue)) : (s.withQueues x).cip = s.cip := rfl
@[simp] theorem State.withQueues_twin (s : State) (x : List (Nat × MQueue)) : (s.withQueues x).twin = s.twin := rfl
@[simp] theorem State.withQueues_power (s : State) (x : List (Nat × MQueue)) : (s.withQueues x).power = s.power := rfl
@[simp] theorem State.withQueues_flt (s : State) (x : List (Nat × MQueue)) : (s.withQueues x).flt = s.flt := rfl
@[simp] theorem State.withQueues_odw (s : State) (x : List (Nat × MQueue)) : (s.withQueues x).odw = s.odw := rfl
@[simp] theorem State.withQueues_upd (s : State) (x : List (Nat × MQueue)) : (s.withQueues x).upd = s.upd := rfl
@[simp] theorem State.withBus_pending (s : State) (x : List (Nat × BusCh)) : (s.withBus x).pending = s.pending := rfl
@[simp] theorem State.withBus_mono (s : State) (x : List (Nat × BusCh)) : (s.withBus x).mono = s.mono := rfl
@[simp] theorem State.withBus_fresh (s : State) (x : List (Nat × BusCh)) : (s.withBus x).fresh = s.fresh := rfl
@[simp] theorem State.withBus_ident (s : State) (x : List (Nat × BusCh)) : (s.withBus x).ident = s.ident := rfl
@[simp] theorem State.withBus_dev (s : State) (x : List (Nat × BusCh)) : (s.withBus x).dev = s.dev := rfl
@[simp] theorem State.withBus_pins (s : State) (x : List (Nat × BusCh)) : (s.withBus x).pins = s.pins := rfl
@[simp] theorem State.withBus_aon (s : State) (x : List (Nat × BusCh)) : (s.withBus x).aon = s.aon := rfl
@[simp] theorem State.withBus_regs (s : State) (x : List (Nat × BusCh)) : (s.withBus x).regs = s.regs := rfl
@[simp] theorem State.withBus_pendCb (s : State) (x : List (Nat × BusCh)) : (s.withBus x).pendCb = s.pendCb := rfl
@[simp] theorem State.withBus_pendFb (s : State) (x : List (Nat × BusCh)) : (s.withBus x).pendFb = s.pendFb := rfl
@[simp] theorem State.withBus_pendMem (s : State) (x : List (Nat × BusCh)) : (s.withBus x).pendMem = s.pendMem := rfl
@[simp] theorem State.withBus_mem (s : State) (x : List (Nat × BusCh)) : (s.withBus x).mem = s.mem := rfl
@[simp] theorem State.withBus_timers (s : State) (x : List (Nat × BusCh)) : (s.withBus x).timers = s.timers := rfl
@[simp] theorem State.withBus_outs (s : State) (x : List (Nat × BusCh)) : (s.withBus x).outs = s.outs := rfl
@[simp] theorem State.withBus_time (s : State) (x : List (Nat × BusCh)) : (s.withBus x).time = s.time := rfl
@[simp] theorem State.withBus_ring (s : State) (x : List (Nat × BusCh)) : (s.withBus x).ring = s.ring := rfl
@[simp] theorem State.withBus_plaza (s : State) (x : List (Nat × BusCh)) : (s.withBus x).plaza = s.plaza := rfl
@[simp] theorem State.withBus_jct (s : State) (x : List (Nat × BusCh)) : (s.withBus x).jct = s.jct := rfl
@[simp] theorem State.withBus_queues (s : State) (x : List (Nat × BusCh)) : (s.withBus x).queues = s.queues := rfl
@[simp] theorem State.withBus_bus (s : State) (x : List (Nat × BusCh)) : (s.withBus x).bus = x := rfl
@[simp] theorem State.withBus_engines (s : State) (x : List (Nat × BusCh)) : (s.withBus x).engines = s.engines := rfl
@[simp] theorem State.withBus_txn (s : State) (x : List (Nat × BusCh)) : (s.withBus x).txn = s.txn := rfl
@[simp] theorem State.withBus_drains (s : State) (x : List (Nat × BusCh)) : (s.withBus x).drains = s.drains := rfl
@[simp] theorem State.withBus_cip (s : State) (x : List (Nat × BusCh)) : (s.withBus x).cip = s.cip := rfl
@[simp] theorem State.withBus_twin (s : State) (x : List (Nat × BusCh)) : (s.withBus x).twin = s.twin := rfl
@[simp] theorem State.withBus_power (s : State) (x : List (Nat × BusCh)) : (s.withBus x).power = s.power := rfl
@[simp] theorem State.withBus_flt (s : State) (x : List (Nat × BusCh)) : (s.withBus x).flt = s.flt := rfl
@[simp] theorem State.withBus_odw (s : State) (x : List (Nat × BusCh)) : (s.withBus x).odw = s.odw := rfl
@[simp] theorem State.withBus_upd (s : State) (x : List (Nat × BusCh)) : (s.withBus x).upd = s.upd := rfl
@[simp] theorem State.withEngines_pending (s : State) (x : List (Nat × Engine)) : (s.withEngines x).pending = s.pending := rfl
@[simp] theorem State.withEngines_mono (s : State) (x : List (Nat × Engine)) : (s.withEngines x).mono = s.mono := rfl
@[simp] theorem State.withEngines_fresh (s : State) (x : List (Nat × Engine)) : (s.withEngines x).fresh = s.fresh := rfl
@[simp] theorem State.withEngines_ident (s : State) (x : List (Nat × Engine)) : (s.withEngines x).ident = s.ident := rfl
@[simp] theorem State.withEngines_dev (s : State) (x : List (Nat × Engine)) : (s.withEngines x).dev = s.dev := rfl
@[simp] theorem State.withEngines_pins (s : State) (x : List (Nat × Engine)) : (s.withEngines x).pins = s.pins := rfl
@[simp] theorem State.withEngines_aon (s : State) (x : List (Nat × Engine)) : (s.withEngines x).aon = s.aon := rfl
@[simp] theorem State.withEngines_regs (s : State) (x : List (Nat × Engine)) : (s.withEngines x).regs = s.regs := rfl
@[simp] theorem State.withEngines_pendCb (s : State) (x : List (Nat × Engine)) : (s.withEngines x).pendCb = s.pendCb := rfl
@[simp] theorem State.withEngines_pendFb (s : State) (x : List (Nat × Engine)) : (s.withEngines x).pendFb = s.pendFb := rfl
@[simp] theorem State.withEngines_pendMem (s : State) (x : List (Nat × Engine)) : (s.withEngines x).pendMem = s.pendMem := rfl
@[simp] theorem State.withEngines_mem (s : State) (x : List (Nat × Engine)) : (s.withEngines x).mem = s.mem := rfl
@[simp] theorem State.withEngines_timers (s : State) (x : List (Nat × Engine)) : (s.withEngines x).timers = s.timers := rfl
@[simp] theorem State.withEngines_outs (s : State) (x : List (Nat × Engine)) : (s.withEngines x).outs = s.outs := rfl
@[simp] theorem State.withEngines_time (s : State) (x : List (Nat × Engine)) : (s.withEngines x).time = s.time := rfl
@[simp] theorem State.withEngines_ring (s : State) (x : List (Nat × Engine)) : (s.withEngines x).ring = s.ring := rfl
@[simp] theorem State.withEngines_plaza (s : State) (x : List (Nat × Engine)) : (s.withEngines x).plaza = s.plaza := rfl
@[simp] theorem State.withEngines_jct (s : State) (x : List (Nat × Engine)) : (s.withEngines x).jct = s.jct := rfl
@[simp] theorem State.withEngines_queues (s : State) (x : List (Nat × Engine)) : (s.withEngines x).queues = s.queues := rfl
@[simp] theorem State.withEngines_bus (s : State) (x : List (Nat × Engine)) : (s.withEngines x).bus = s.bus := rfl
@[simp] theorem State.withEngines_engines (s : State) (x : List (Nat × Engine)) : (s.withEngines x).engines = x := rfl
@[simp] theorem State.withEngines_txn (s : State) (x : List (Nat × Engine)) : (s.withEngines x).txn = s.txn := rfl
@[simp] theorem State.withEngines_drains (s : State) (x : List (Nat × Engine)) : (s.withEngines x).drains = s.drains := rfl
@[simp] theorem State.withEngines_cip (s : State) (x : List (Nat × Engine)) : (s.withEngines x).cip = s.cip := rfl
@[simp] theorem State.withEngines_twin (s : State) (x : List (Nat × Engine)) : (s.withEngines x).twin = s.twin := rfl
@[simp] theorem State.withEngines_power (s : State) (x : List (Nat × Engine)) : (s.withEngines x).power = s.power := rfl
@[simp] theorem State.withEngines_flt (s : State) (x : List (Nat × Engine)) : (s.withEngines x).flt = s.flt := rfl
@[simp] theorem State.withEngines_odw (s : State) (x : List (Nat × Engine)) : (s.withEngines x).odw = s.odw := rfl
@[simp] theorem State.withEngines_upd (s : State) (x : List (Nat × Engine)) : (s.withEngines x).upd = s.upd := rfl
@[simp] theorem State.withTxn_pending (s : State) (x : Txn) : (s.withTxn x).pending = s.pending := rfl
@[simp] theorem State.withTxn_mono (s : State) (x : Txn) : (s.withTxn x).mono = s.mono := rfl
@[simp] theorem State.withTxn_fresh (s : State) (x : Txn) : (s.withTxn x).fresh = s.fresh := rfl
@[simp] theorem State.withTxn_ident (s : State) (x : Txn) : (s.withTxn x).ident = s.ident := rfl
@[simp] theorem State.withTxn_dev (s : State) (x : Txn) : (s.withTxn x).dev = s.dev := rfl
@[simp] theorem State.withTxn_pins (s : State) (x : Txn) : (s.withTxn x).pins = s.pins := rfl
@[simp] theorem State.withTxn_aon (s : State) (x : Txn) : (s.withTxn x).aon = s.aon := rfl
@[simp] theorem State.withTxn_regs (s : State) (x : Txn) : (s.withTxn x).regs = s.regs := rfl
@[simp] theorem State.withTxn_pendCb (s : State) (x : Txn) : (s.withTxn x).pendCb = s.pendCb := rfl
@[simp] theorem State.withTxn_pendFb (s : State) (x : Txn) : (s.withTxn x).pendFb = s.pendFb := rfl
@[simp] theorem State.withTxn_pendMem (s : State) (x : Txn) : (s.withTxn x).pendMem = s.pendMem := rfl
@[simp] theorem State.withTxn_mem (s : State) (x : Txn) : (s.withTxn x).mem = s.mem := rfl
@[simp] theorem State.withTxn_timers (s : State) (x : Txn) : (s.withTxn x).timers = s.timers := rfl
@[simp] theorem State.withTxn_outs (s : State) (x : Txn) : (s.withTxn x).outs = s.outs := rfl
@[simp] theorem State.withTxn_time (s : State) (x : Txn) : (s.withTxn x).time = s.time := rfl
@[simp] theorem State.withTxn_ring (s : State) (x : Txn) : (s.withTxn x).ring = s.ring := rfl
@[simp] theorem State.withTxn_plaza (s : State) (x : Txn) : (s.withTxn x).plaza = s.plaza := rfl
@[simp] theorem State.withTxn_jct (s : State) (x : Txn) : (s.withTxn x).jct = s.jct := rfl
@[simp] theorem State.withTxn_queues (s : State) (x : Txn) : (s.withTxn x).queues = s.queues := rfl
@[simp] theorem State.withTxn_bus (s : State) (x : Txn) : (s.withTxn x).bus = s.bus := rfl
@[simp] theorem State.withTxn_engines (s : State) (x : Txn) : (s.withTxn x).engines = s.engines := rfl
@[simp] theorem State.withTxn_txn (s : State) (x : Txn) : (s.withTxn x).txn = x := rfl
@[simp] theorem State.withTxn_drains (s : State) (x : Txn) : (s.withTxn x).drains = s.drains := rfl
@[simp] theorem State.withTxn_cip (s : State) (x : Txn) : (s.withTxn x).cip = s.cip := rfl
@[simp] theorem State.withTxn_twin (s : State) (x : Txn) : (s.withTxn x).twin = s.twin := rfl
@[simp] theorem State.withTxn_power (s : State) (x : Txn) : (s.withTxn x).power = s.power := rfl
@[simp] theorem State.withTxn_flt (s : State) (x : Txn) : (s.withTxn x).flt = s.flt := rfl
@[simp] theorem State.withTxn_odw (s : State) (x : Txn) : (s.withTxn x).odw = s.odw := rfl
@[simp] theorem State.withTxn_upd (s : State) (x : Txn) : (s.withTxn x).upd = s.upd := rfl
@[simp] theorem State.withDrains_pending (s : State) (x : List Drain) : (s.withDrains x).pending = s.pending := rfl
@[simp] theorem State.withDrains_mono (s : State) (x : List Drain) : (s.withDrains x).mono = s.mono := rfl
@[simp] theorem State.withDrains_fresh (s : State) (x : List Drain) : (s.withDrains x).fresh = s.fresh := rfl
@[simp] theorem State.withDrains_ident (s : State) (x : List Drain) : (s.withDrains x).ident = s.ident := rfl
@[simp] theorem State.withDrains_dev (s : State) (x : List Drain) : (s.withDrains x).dev = s.dev := rfl
@[simp] theorem State.withDrains_pins (s : State) (x : List Drain) : (s.withDrains x).pins = s.pins := rfl
@[simp] theorem State.withDrains_aon (s : State) (x : List Drain) : (s.withDrains x).aon = s.aon := rfl
@[simp] theorem State.withDrains_regs (s : State) (x : List Drain) : (s.withDrains x).regs = s.regs := rfl
@[simp] theorem State.withDrains_pendCb (s : State) (x : List Drain) : (s.withDrains x).pendCb = s.pendCb := rfl
@[simp] theorem State.withDrains_pendFb (s : State) (x : List Drain) : (s.withDrains x).pendFb = s.pendFb := rfl
@[simp] theorem State.withDrains_pendMem (s : State) (x : List Drain) : (s.withDrains x).pendMem = s.pendMem := rfl
@[simp] theorem State.withDrains_mem (s : State) (x : List Drain) : (s.withDrains x).mem = s.mem := rfl
@[simp] theorem State.withDrains_timers (s : State) (x : List Drain) : (s.withDrains x).timers = s.timers := rfl
@[simp] theorem State.withDrains_outs (s : State) (x : List Drain) : (s.withDrains x).outs = s.outs := rfl
@[simp] theorem State.withDrains_time (s : State) (x : List Drain) : (s.withDrains x).time = s.time := rfl
@[simp] theorem State.withDrains_ring (s : State) (x : List Drain) : (s.withDrains x).ring = s.ring := rfl
@[simp] theorem State.withDrains_plaza (s : State) (x : List Drain) : (s.withDrains x).plaza = s.plaza := rfl
@[simp] theorem State.withDrains_jct (s : State) (x : List Drain) : (s.withDrains x).jct = s.jct := rfl
@[simp] theorem State.withDrains_queues (s : State) (x : List Drain) : (s.withDrains x).queues = s.queues := rfl
@[simp] theorem State.withDrains_bus (s : State) (x : List Drain) : (s.withDrains x).bus = s.bus := rfl
@[simp] theorem State.withDrains_engines (s : State) (x : List Drain) : (s.withDrains x).engines = s.engines := rfl
@[simp] theorem State.withDrains_txn (s : State) (x : List Drain) : (s.withDrains x).txn = s.txn := rfl
@[simp] theorem State.withDrains_drains (s : State) (x : List Drain) : (s.withDrains x).drains = x := rfl
@[simp] theorem State.withDrains_cip (s : State) (x : List Drain) : (s.withDrains x).cip = s.cip := rfl
@[simp] theorem State.withDrains_twin (s : State) (x : List Drain) : (s.withDrains x).twin = s.twin := rfl
@[simp] theorem State.withDrains_power (s : State) (x : List Drain) : (s.withDrains x).power = s.power := rfl
@[simp] theorem State.withDrains_flt (s : State) (x : List Drain) : (s.withDrains x).flt = s.flt := rfl
@[simp] theorem State.withDrains_odw (s : State) (x : List Drain) : (s.withDrains x).odw = s.odw := rfl
@[simp] theorem State.withDrains_upd (s : State) (x : List Drain) : (s.withDrains x).upd = s.upd := rfl
@[simp] theorem State.withCip_pending (s : State) (x : Cipher) : (s.withCip x).pending = s.pending := rfl
@[simp] theorem State.withCip_mono (s : State) (x : Cipher) : (s.withCip x).mono = s.mono := rfl
@[simp] theorem State.withCip_fresh (s : State) (x : Cipher) : (s.withCip x).fresh = s.fresh := rfl
@[simp] theorem State.withCip_ident (s : State) (x : Cipher) : (s.withCip x).ident = s.ident := rfl
@[simp] theorem State.withCip_dev (s : State) (x : Cipher) : (s.withCip x).dev = s.dev := rfl
@[simp] theorem State.withCip_pins (s : State) (x : Cipher) : (s.withCip x).pins = s.pins := rfl
@[simp] theorem State.withCip_aon (s : State) (x : Cipher) : (s.withCip x).aon = s.aon := rfl
@[simp] theorem State.withCip_regs (s : State) (x : Cipher) : (s.withCip x).regs = s.regs := rfl
@[simp] theorem State.withCip_pendCb (s : State) (x : Cipher) : (s.withCip x).pendCb = s.pendCb := rfl
@[simp] theorem State.withCip_pendFb (s : State) (x : Cipher) : (s.withCip x).pendFb = s.pendFb := rfl
@[simp] theorem State.withCip_pendMem (s : State) (x : Cipher) : (s.withCip x).pendMem = s.pendMem := rfl
@[simp] theorem State.withCip_mem (s : State) (x : Cipher) : (s.withCip x).mem = s.mem := rfl
@[simp] theorem State.withCip_timers (s : State) (x : Cipher) : (s.withCip x).timers = s.timers := rfl
@[simp] theorem State.withCip_outs (s : State) (x : Cipher) : (s.withCip x).outs = s.outs := rfl
@[simp] theorem State.withCip_time (s : State) (x : Cipher) : (s.withCip x).time = s.time := rfl
@[simp] theorem State.withCip_ring (s : State) (x : Cipher) : (s.withCip x).ring = s.ring := rfl
@[simp] theorem State.withCip_plaza (s : State) (x : Cipher) : (s.withCip x).plaza = s.plaza := rfl
@[simp] theorem State.withCip_jct (s : State) (x : Cipher) : (s.withCip x).jct = s.jct := rfl
@[simp] theorem State.withCip_queues (s : State) (x : Cipher) : (s.withCip x).queues = s.queues := rfl
@[simp] theorem State.withCip_bus (s : State) (x : Cipher) : (s.withCip x).bus = s.bus := rfl
@[simp] theorem State.withCip_engines (s : State) (x : Cipher) : (s.withCip x).engines = s.engines := rfl
@[simp] theorem State.withCip_txn (s : State) (x : Cipher) : (s.withCip x).txn = s.txn := rfl
@[simp] theorem State.withCip_drains (s : State) (x : Cipher) : (s.withCip x).drains = s.drains := rfl
@[simp] theorem State.withCip_cip (s : State) (x : Cipher) : (s.withCip x).cip = x := rfl
@[simp] theorem State.withCip_twin (s : State) (x : Cipher) : (s.withCip x).twin = s.twin := rfl
@[simp] theorem State.withCip_power (s : State) (x : Cipher) : (s.withCip x).power = s.power := rfl
@[simp] theorem State.withCip_flt (s : State) (x : Cipher) : (s.withCip x).flt = s.flt := rfl
@[simp] theorem State.withCip_odw (s : State) (x : Cipher) : (s.withCip x).odw = s.odw := rfl
@[simp] theorem State.withCip_upd (s : State) (x : Cipher) : (s.withCip x).upd = s.upd := rfl
@[simp] theorem State.withTwin_pending (s : State) (x : Twin) : (s.withTwin x).pending = s.pending := rfl
@[simp] theorem State.withTwin_mono (s : State) (x : Twin) : (s.withTwin x).mono = s.mono := rfl
@[simp] theorem State.withTwin_fresh (s : State) (x : Twin) : (s.withTwin x).fresh = s.fresh := rfl
@[simp] theorem State.withTwin_ident (s : State) (x : Twin) : (s.withTwin x).ident = s.ident := rfl
@[simp] theorem State.withTwin_dev (s : State) (x : Twin) : (s.withTwin x).dev = s.dev := rfl
@[simp] theorem State.withTwin_pins (s : State) (x : Twin) : (s.withTwin x).pins = s.pins := rfl
@[simp] theorem State.withTwin_aon (s : State) (x : Twin) : (s.withTwin x).aon = s.aon := rfl
@[simp] theorem State.withTwin_regs (s : State) (x : Twin) : (s.withTwin x).regs = s.regs := rfl
@[simp] theorem State.withTwin_pendCb (s : State) (x : Twin) : (s.withTwin x).pendCb = s.pendCb := rfl
@[simp] theorem State.withTwin_pendFb (s : State) (x : Twin) : (s.withTwin x).pendFb = s.pendFb := rfl
@[simp] theorem State.withTwin_pendMem (s : State) (x : Twin) : (s.withTwin x).pendMem = s.pendMem := rfl
@[simp] theorem State.withTwin_mem (s : State) (x : Twin) : (s.withTwin x).mem = s.mem := rfl
@[simp] theorem State.withTwin_timers (s : State) (x : Twin) : (s.withTwin x).timers = s.timers := rfl
@[simp] theorem State.withTwin_outs (s : State) (x : Twin) : (s.withTwin x).outs = s.outs := rfl
@[simp] theorem State.withTwin_time (s : State) (x : Twin) : (s.withTwin x).time = s.time := rfl
@[simp] theorem State.withTwin_ring (s : State) (x : Twin) : (s.withTwin x).ring = s.ring := rfl
@[simp] theorem State.withTwin_plaza (s : State) (x : Twin) : (s.withTwin x).plaza = s.plaza := rfl
@[simp] theorem State.withTwin_jct (s : State) (x : Twin) : (s.withTwin x).jct = s.jct := rfl
@[simp] theorem State.withTwin_queues (s : State) (x : Twin) : (s.withTwin x).queues = s.queues := rfl
@[simp] theorem State.withTwin_bus (s : State) (x : Twin) : (s.withTwin x).bus = s.bus := rfl
@[simp] theorem State.withTwin_engines (s : State) (x : Twin) : (s.withTwin x).engines = s.engines := rfl
@[simp] theorem State.withTwin_txn (s : State) (x : Twin) : (s.withTwin x).txn = s.txn := rfl
@[simp] theorem State.withTwin_drains (s : State) (x : Twin) : (s.withTwin x).drains = s.drains := rfl
@[simp] theorem State.withTwin_cip (s : State) (x : Twin) : (s.withTwin x).cip = s.cip := rfl
@[simp] theorem State.withTwin_twin (s : State) (x : Twin) : (s.withTwin x).twin = x := rfl
@[simp] theorem State.withTwin_power (s : State) (x : Twin) : (s.withTwin x).power = s.power := rfl
@[simp] theorem State.withTwin_flt (s : State) (x : Twin) : (s.withTwin x).flt = s.flt := rfl
@[simp] theorem State.withTwin_odw (s : State) (x : Twin) : (s.withTwin x).odw = s.odw := rfl
@[simp] theorem State.withTwin_upd (s : State) (x : Twin) : (s.withTwin x).upd = s.upd := rfl
@[simp] theorem State.withPower_pending (s : State) (x : Power) : (s.withPower x).pending = s.pending := rfl
@[simp] theorem State.withPower_mono (s : State) (x : Power) : (s.withPower x).mono = s.mono := rfl
@[simp] theorem State.withPower_fresh (s : State) (x : Power) : (s.withPower x).fresh = s.fresh := rfl
@[simp] theorem State.withPower_ident (s : State) (x : Power) : (s.withPower x).ident = s.ident := rfl
@[simp] theorem State.withPower_dev (s : State) (x : Power) : (s.withPower x).dev = s.dev := rfl
@[simp] theorem State.withPower_pins (s : State) (x : Power) : (s.withPower x).pins = s.pins := rfl
@[simp] theorem State.withPower_aon (s : State) (x : Power) : (s.withPower x).aon = s.aon := rfl
@[simp] theorem State.withPower_regs (s : State) (x : Power) : (s.withPower x).regs = s.regs := rfl
@[simp] theorem State.withPower_pendCb (s : State) (x : Power) : (s.withPower x).pendCb = s.pendCb := rfl
@[simp] theorem State.withPower_pendFb (s : State) (x : Power) : (s.withPower x).pendFb = s.pendFb := rfl
@[simp] theorem State.withPower_pendMem (s : State) (x : Power) : (s.withPower x).pendMem = s.pendMem := rfl
@[simp] theorem State.withPower_mem (s : State) (x : Power) : (s.withPower x).mem = s.mem := rfl
@[simp] theorem State.withPower_timers (s : State) (x : Power) : (s.withPower x).timers = s.timers := rfl
@[simp] theorem State.withPower_outs (s : State) (x : Power) : (s.withPower x).outs = s.outs := rfl
@[simp] theorem State.withPower_time (s : State) (x : Power) : (s.withPower x).time = s.time := rfl
@[simp] theorem State.withPower_ring (s : State) (x : Power) : (s.withPower x).ring = s.ring := rfl
@[simp] theorem State.withPower_plaza (s : State) (x : Power) : (s.withPower x).plaza = s.plaza := rfl
@[simp] theorem State.withPower_jct (s : State) (x : Power) : (s.withPower x).jct = s.jct := rfl
@[simp] theorem State.withPower_queues (s : State) (x : Power) : (s.withPower x).queues = s.queues := rfl
@[simp] theorem State.withPower_bus (s : State) (x : Power) : (s.withPower x).bus = s.bus := rfl
@[simp] theorem State.withPower_engines (s : State) (x : Power) : (s.withPower x).engines = s.engines := rfl
@[simp] theorem State.withPower_txn (s : State) (x : Power) : (s.withPower x).txn = s.txn := rfl
@[simp] theorem State.withPower_drains (s : State) (x : Power) : (s.withPower x).drains = s.drains := rfl
@[simp] theorem State.withPower_cip (s : State) (x : Power) : (s.withPower x).cip = s.cip := rfl
@[simp] theorem State.withPower_twin (s : State) (x : Power) : (s.withPower x).twin = s.twin := rfl
@[simp] theorem State.withPower_power (s : State) (x : Power) : (s.withPower x).power = x := rfl
@[simp] theorem State.withPower_flt (s : State) (x : Power) : (s.withPower x).flt = s.flt := rfl
@[simp] theorem State.withPower_odw (s : State) (x : Power) : (s.withPower x).odw = s.odw := rfl
@[simp] theorem State.withPower_upd (s : State) (x : Power) : (s.withPower x).upd = s.upd := rfl
@[simp] theorem State.withFlt_pending (s : State) (x : FaultSt) : (s.withFlt x).pending = s.pending := rfl
@[simp] theorem State.withFlt_mono (s : State) (x : FaultSt) : (s.withFlt x).mono = s.mono := rfl
@[simp] theorem State.withFlt_fresh (s : State) (x : FaultSt) : (s.withFlt x).fresh = s.fresh := rfl
@[simp] theorem State.withFlt_ident (s : State) (x : FaultSt) : (s.withFlt x).ident = s.ident := rfl
@[simp] theorem State.withFlt_dev (s : State) (x : FaultSt) : (s.withFlt x).dev = s.dev := rfl
@[simp] theorem State.withFlt_pins (s : State) (x : FaultSt) : (s.withFlt x).pins = s.pins := rfl
@[simp] theorem State.withFlt_aon (s : State) (x : FaultSt) : (s.withFlt x).aon = s.aon := rfl
@[simp] theorem State.withFlt_regs (s : State) (x : FaultSt) : (s.withFlt x).regs = s.regs := rfl
@[simp] theorem State.withFlt_pendCb (s : State) (x : FaultSt) : (s.withFlt x).pendCb = s.pendCb := rfl
@[simp] theorem State.withFlt_pendFb (s : State) (x : FaultSt) : (s.withFlt x).pendFb = s.pendFb := rfl
@[simp] theorem State.withFlt_pendMem (s : State) (x : FaultSt) : (s.withFlt x).pendMem = s.pendMem := rfl
@[simp] theorem State.withFlt_mem (s : State) (x : FaultSt) : (s.withFlt x).mem = s.mem := rfl
@[simp] theorem State.withFlt_timers (s : State) (x : FaultSt) : (s.withFlt x).timers = s.timers := rfl
@[simp] theorem State.withFlt_outs (s : State) (x : FaultSt) : (s.withFlt x).outs = s.outs := rfl
@[simp] theorem State.withFlt_time (s : State) (x : FaultSt) : (s.withFlt x).time = s.time := rfl
@[simp] theorem State.withFlt_ring (s : State) (x : FaultSt) : (s.withFlt x).ring = s.ring := rfl
@[simp] theorem State.withFlt_plaza (s : State) (x : FaultSt) : (s.withFlt x).plaza = s.plaza := rfl
@[simp] theorem State.withFlt_jct (s : State) (x : FaultSt) : (s.withFlt x).jct = s.jct := rfl
@[simp] theorem State.withFlt_queues (s : State) (x : FaultSt) : (s.withFlt x).queues = s.queues := rfl
@[simp] theorem State.withFlt_bus (s : State) (x : FaultSt) : (s.withFlt x).bus = s.bus := rfl
@[simp] theorem State.withFlt_engines (s : State) (x : FaultSt) : (s.withFlt x).engines = s.engines := rfl
@[simp] theorem State.withFlt_txn (s : State) (x : FaultSt) : (s.withFlt x).txn = s.txn := rfl
@[simp] theorem State.withFlt_drains (s : State) (x : FaultSt) : (s.withFlt x).drains = s.drains := rfl
@[simp] theorem State.withFlt_cip (s : State) (x : FaultSt) : (s.withFlt x).cip = s.cip := rfl
@[simp] theorem State.withFlt_twin (s : State) (x : FaultSt) : (s.withFlt x).twin = s.twin := rfl
@[simp] theorem State.withFlt_power (s : State) (x : FaultSt) : (s.withFlt x).power = s.power := rfl
@[simp] theorem State.withFlt_flt (s : State) (x : FaultSt) : (s.withFlt x).flt = x := rfl
@[simp] theorem State.withFlt_odw (s : State) (x : FaultSt) : (s.withFlt x).odw = s.odw := rfl
@[simp] theorem State.withFlt_upd (s : State) (x : FaultSt) : (s.withFlt x).upd = s.upd := rfl
@[simp] theorem State.withOdw_pending (s : State) (x : Odw) : (s.withOdw x).pending = s.pending := rfl
@[simp] theorem State.withOdw_mono (s : State) (x : Odw) : (s.withOdw x).mono = s.mono := rfl
@[simp] theorem State.withOdw_fresh (s : State) (x : Odw) : (s.withOdw x).fresh = s.fresh := rfl
@[simp] theorem State.withOdw_ident (s : State) (x : Odw) : (s.withOdw x).ident = s.ident := rfl
@[simp] theorem State.withOdw_dev (s : State) (x : Odw) : (s.withOdw x).dev = s.dev := rfl
@[simp] theorem State.withOdw_pins (s : State) (x : Odw) : (s.withOdw x).pins = s.pins := rfl
@[simp] theorem State.withOdw_aon (s : State) (x : Odw) : (s.withOdw x).aon = s.aon := rfl
@[simp] theorem State.withOdw_regs (s : State) (x : Odw) : (s.withOdw x).regs = s.regs := rfl
@[simp] theorem State.withOdw_pendCb (s : State) (x : Odw) : (s.withOdw x).pendCb = s.pendCb := rfl
@[simp] theorem State.withOdw_pendFb (s : State) (x : Odw) : (s.withOdw x).pendFb = s.pendFb := rfl
@[simp] theorem State.withOdw_pendMem (s : State) (x : Odw) : (s.withOdw x).pendMem = s.pendMem := rfl
@[simp] theorem State.withOdw_mem (s : State) (x : Odw) : (s.withOdw x).mem = s.mem := rfl
@[simp] theorem State.withOdw_timers (s : State) (x : Odw) : (s.withOdw x).timers = s.timers := rfl
@[simp] theorem State.withOdw_outs (s : State) (x : Odw) : (s.withOdw x).outs = s.outs := rfl
@[simp] theorem State.withOdw_time (s : State) (x : Odw) : (s.withOdw x).time = s.time := rfl
@[simp] theorem State.withOdw_ring (s : State) (x : Odw) : (s.withOdw x).ring = s.ring := rfl
@[simp] theorem State.withOdw_plaza (s : State) (x : Odw) : (s.withOdw x).plaza = s.plaza := rfl
@[simp] theorem State.withOdw_jct (s : State) (x : Odw) : (s.withOdw x).jct = s.jct := rfl
@[simp] theorem State.withOdw_queues (s : State) (x : Odw) : (s.withOdw x).queues = s.queues := rfl
@[simp] theorem State.withOdw_bus (s : State) (x : Odw) : (s.withOdw x).bus = s.bus := rfl
@[simp] theorem State.withOdw_engines (s : State) (x : Odw) : (s.withOdw x).engines = s.engines := rfl
@[simp] theorem State.withOdw_txn (s : State) (x : Odw) : (s.withOdw x).txn = s.txn := rfl
@[simp] theorem State.withOdw_drains (s : State) (x : Odw) : (s.withOdw x).drains = s.drains := rfl
@[simp] theorem State.withOdw_cip (s : State) (x : Odw) : (s.withOdw x).cip = s.cip := rfl
@[simp] theorem State.withOdw_twin (s : State) (x : Odw) : (s.withOdw x).twin = s.twin := rfl
@[simp] theorem State.withOdw_power (s : State) (x : Odw) : (s.withOdw x).power = s.power := rfl
@[simp] theorem State.withOdw_flt (s : State) (x : Odw) : (s.withOdw x).flt = s.flt := rfl
@[simp] theorem State.withOdw_odw (s : State) (x : Odw) : (s.withOdw x).odw = x := rfl
@[simp] theorem State.withOdw_upd (s : State) (x : Odw) : (s.withOdw x).upd = s.upd := rfl
@[simp] theorem State.withUpd_pending (s : State) (x : Update) : (s.withUpd x).pending = s.pending := rfl
@[simp] theorem State.withUpd_mono (s : State) (x : Update) : (s.withUpd x).mono = s.mono := rfl
@[simp] theorem State.withUpd_fresh (s : State) (x : Update) : (s.withUpd x).fresh = s.fresh := rfl
@[simp] theorem State.withUpd_ident (s : State) (x : Update) : (s.withUpd x).ident = s.ident := rfl
@[simp] theorem State.withUpd_dev (s : State) (x : Update) : (s.withUpd x).dev = s.dev := rfl
@[simp] theorem State.withUpd_pins (s : State) (x : Update) : (s.withUpd x).pins = s.pins := rfl
@[simp] theorem State.withUpd_aon (s : State) (x : Update) : (s.withUpd x).aon = s.aon := rfl
@[simp] theorem State.withUpd_regs (s : State) (x : Update) : (s.withUpd x).regs = s.regs := rfl
@[simp] theorem State.withUpd_pendCb (s : State) (x : Update) : (s.withUpd x).pendCb = s.pendCb := rfl
@[simp] theorem State.withUpd_pendFb (s : State) (x : Update) : (s.withUpd x).pendFb = s.pendFb := rfl
@[simp] theorem State.withUpd_pendMem (s : State) (x : Update) : (s.withUpd x).pendMem = s.pendMem := rfl
@[simp] theorem State.withUpd_mem (s : State) (x : Update) : (s.withUpd x).mem = s.mem := rfl
@[simp] theorem State.withUpd_timers (s : State) (x : Update) : (s.withUpd x).timers = s.timers := rfl
@[simp] theorem State.withUpd_outs (s : State) (x : Update) : (s.withUpd x).outs = s.outs := rfl
@[simp] theorem State.withUpd_time (s : State) (x : Update) : (s.withUpd x).time = s.time := rfl
@[simp] theorem State.withUpd_ring (s : State) (x : Update) : (s.withUpd x).ring = s.ring := rfl
@[simp] theorem State.withUpd_plaza (s : State) (x : Update) : (s.withUpd x).plaza = s.plaza := rfl
@[simp] theorem State.withUpd_jct (s : State) (x : Update) : (s.withUpd x).jct = s.jct := rfl
@[simp] theorem State.withUpd_queues (s : State) (x : Update) : (s.withUpd x).queues = s.queues := rfl
@[simp] theorem State.withUpd_bus (s : State) (x : Update) : (s.withUpd x).bus = s.bus := rfl
@[simp] theorem State.withUpd_engines (s : State) (x : Update) : (s.withUpd x).engines = s.engines := rfl
@[simp] theorem State.withUpd_txn (s : State) (x : Update) : (s.withUpd x).txn = s.txn := rfl
@[simp] theorem State.withUpd_drains (s : State) (x : Update) : (s.withUpd x).drains = s.drains := rfl
@[simp] theorem State.withUpd_cip (s : State) (x : Update) : (s.withUpd x).cip = s.cip := rfl
@[simp] theorem State.withUpd_twin (s : State) (x : Update) : (s.withUpd x).twin = s.twin := rfl
@[simp] theorem State.withUpd_power (s : State) (x : Update) : (s.withUpd x).power = s.power := rfl
@[simp] theorem State.withUpd_flt (s : State) (x : Update) : (s.withUpd x).flt = s.flt := rfl
@[simp] theorem State.withUpd_odw (s : State) (x : Update) : (s.withUpd x).odw = s.odw := rfl
@[simp] theorem State.withUpd_upd (s : State) (x : Update) : (s.withUpd x).upd = x := rfl

end Sys2Proof.Machine
end

