-- ==== Sys2Proof/Laws/Memory.lean ====
section
/-! SUPPORT. Laws of keyed lists and of window memory: what a write leaves at every address, and that every operation on
memory keeps its canonical form. -/

namespace Sys2Proof.Machine

set_option Elab.async false

/-! ### Keyed lists -/

@[simp] theorem assoc_put_same {α : Type} (k : Nat) (v : α) (l : List (Nat × α)) : assoc k (put k v l) = some v := by
  induction l with
  | nil => simp [put, assoc]
  | cons p t ih =>
    obtain ⟨j, w⟩ := p
    simp only [put]
    split
    · simp [assoc]
    · split
      · simp [assoc]
      · simp [assoc, *]

theorem assoc_put_other {α : Type} {j k : Nat} (v : α) (l : List (Nat × α)) (h : j ≠ k) :
    assoc j (put k v l) = assoc j l := by
  induction l with
  | nil => simp [put, assoc, Ne.symm h]
  | cons p t ih =>
    obtain ⟨i, w⟩ := p
    simp only [put]
    split
    · rename_i hi
      subst hi
      simp [assoc, Ne.symm h]
    · split
      · simp [assoc, Ne.symm h]
      · simp [assoc, ih]

theorem assoc_put {α : Type} (j k : Nat) (v : α) (l : List (Nat × α)) :
    assoc j (put k v l) = if j = k then some v else assoc j l := by
  by_cases h : j = k
  · subst h; simp
  · simp [h, assoc_put_other v l h]

theorem assoc_filter {α : Type} (j : Nat) (p : Nat → Bool) (l : List (Nat × α)) :
    assoc j (l.filter (fun c => p c.1)) = if p j then assoc j l else none := by
  induction l with
  | nil => simp [assoc]
  | cons c t ih =>
    obtain ⟨i, w⟩ := c
    by_cases hi : i = j
    · subst hi
      by_cases hp : p i <;> simp [assoc, hp, ih]
    · by_cases hp : p i <;> simp [assoc, hp, ih, hi]

theorem assoc_erase {α : Type} (j k : Nat) (l : List (Nat × α)) :
    assoc j (erase k l) = if j = k then none else assoc j l := by
  have h := assoc_filter j (fun x => x != k) l
  simp only [erase, h]
  by_cases hk : j = k <;> simp [hk]

/-! ### The canonical form -/

/-- A list in canonical form, said over its parts. -/
theorem Memory.wf_cons (a : Nat) (b : Byte) (t : List Host.Cell) :
    Memory.wf ((a, b) :: t) = true ↔ b ≠ 0 ∧ (∀ c ∈ t, a < c.1) ∧ Memory.wf t = true := by
  induction t generalizing a b with
  | nil => simp [Memory.wf]
  | cons c t ih =>
    obtain ⟨a', b'⟩ := c
    rw [show Memory.wf ((a, b) :: (a', b') :: t) = (b != 0 && decide (a < a') && Memory.wf ((a', b') :: t)) from rfl]
    have := ih a' b'
    simp only [Bool.and_eq_true, bne_iff_ne, decide_eq_true_eq, List.mem_cons, this]
    constructor
    · rintro ⟨⟨hb, ha⟩, hb', hm, hw⟩
      refine ⟨hb, ?_, hb', hm, hw⟩
      rintro c (rfl | hc)
      · exact ha
      · exact Nat.lt_trans ha (hm c hc)
    · rintro ⟨hb, hm, hb', hm', hw⟩
      exact ⟨⟨hb, hm _ (Or.inl rfl)⟩, hb', hm', hw⟩

theorem Memory.wf_nil : Memory.wf [] = true := rfl

/-- Leaving out bytes keeps the canonical form. -/
theorem Memory.wf_filter (p : Host.Cell → Bool) (m : List Host.Cell) (h : Memory.wf m = true) :
    Memory.wf (m.filter p) = true := by
  induction m with
  | nil => rfl
  | cons c t ih =>
    obtain ⟨a, b⟩ := c
    obtain ⟨hb, ha, ht⟩ := (Memory.wf_cons a b t).1 h
    by_cases hp : p (a, b) = true
    · rw [List.filter_cons_of_pos hp]
      exact (Memory.wf_cons a b _).2 ⟨hb, fun c hc => ha c (List.mem_of_mem_filter hc), ih ht⟩
    · rw [List.filter_cons_of_neg hp]
      exact ih ht

theorem Memory.wf_erase (k : Nat) (m : List Host.Cell) (h : Memory.wf m = true) : Memory.wf (erase k m) = true :=
  Memory.wf_filter _ m h

theorem mem_put_key {α : Type} {k : Nat} {v : α} {l : List (Nat × α)} {c : Nat × α} (h : c ∈ put k v l) :
    c = (k, v) ∨ c ∈ l := by
  induction l with
  | nil => simpa [put] using h
  | cons p t ih =>
    obtain ⟨j, w⟩ := p
    simp only [put] at h
    split at h
    · rcases List.mem_cons.1 h with h | h
      · exact Or.inl h
      · exact Or.inr (List.mem_cons_of_mem _ h)
    · split at h
      · rcases List.mem_cons.1 h with h | h
        · exact Or.inl h
        · exact Or.inr h
      · rcases List.mem_cons.1 h with h | h
        · exact Or.inr (h ▸ List.mem_cons_self)
        · rcases ih h with h | h
          · exact Or.inl h
          · exact Or.inr (List.mem_cons_of_mem _ h)

theorem Memory.wf_put (k : Nat) (b : Byte) (m : List Host.Cell) (hb : b ≠ 0) (h : Memory.wf m = true) :
    Memory.wf (put k b m) = true := by
  induction m with
  | nil => exact (Memory.wf_cons k b []).2 ⟨hb, by simp, rfl⟩
  | cons c t ih =>
    obtain ⟨j, w⟩ := c
    obtain ⟨hw, hj, ht⟩ := (Memory.wf_cons j w t).1 h
    simp only [put]
    split
    · rename_i hjk
      subst hjk
      exact (Memory.wf_cons j b t).2 ⟨hb, hj, ht⟩
    · split
      · rename_i hne hlt
        refine (Memory.wf_cons k b _).2 ⟨hb, ?_, h⟩
        rintro c hc
        rcases List.mem_cons.1 hc with rfl | hc
        · exact hlt
        · exact Nat.lt_trans hlt (hj c hc)
      · rename_i hne hge
        refine (Memory.wf_cons j w _).2 ⟨hw, ?_, ih ht⟩
        intro c hc
        rcases mem_put_key hc with rfl | hc
        · show j < k
          omega
        · exact hj c hc

theorem Memory.wf_set (m : List Host.Cell) (a : Nat) (b : Byte) (h : Memory.wf m = true) :
    Memory.wf (Memory.set m a b) = true := by
  simp only [Memory.set]
  split
  · exact Memory.wf_erase a m h
  · rename_i hb
    exact Memory.wf_put a b m hb h

theorem Memory.wf_write (m : List Host.Cell) (a : Nat) (bs : List Byte) (h : Memory.wf m = true) :
    Memory.wf (Memory.write m a bs) = true := by
  induction bs generalizing m a with
  | nil => exact h
  | cons b bs ih => exact ih _ _ (Memory.wf_set m a b h)

/-- Every write of window memory keeps its canonical form. -/
theorem memWrite_wf (s : State) (a : Nat) (bs : List Byte) (h : Memory.wf s.mem = true) :
    Memory.wf (memWrite s a bs).mem = true := Memory.wf_write s.mem a bs h

theorem memPut_wf (s : State) (a n v : Nat) (h : Memory.wf s.mem = true) : Memory.wf (memPut s a n v).mem = true :=
  memWrite_wf s a _ h

/-- Reset memory has the canonical form. -/
theorem reset_mem_wf : Memory.wf State.reset.mem = true := rfl

/-! ### What a write leaves at every address -/

theorem getD_assoc_set (m : List Host.Cell) (a c : Nat) (b : Byte) :
    (assoc c (Memory.set m a b)).getD 0 = if c = a then b else (assoc c m).getD 0 := by
  simp only [Memory.set]
  split
  · rename_i hb
    subst hb
    rw [assoc_erase]
    by_cases h : c = a <;> simp [h]
  · rw [assoc_put]
    by_cases h : c = a <;> simp [h]

theorem getD_assoc_write (m : List Host.Cell) (a c : Nat) (bs : List Byte) :
    (assoc c (Memory.write m a bs)).getD 0
      = if a ≤ c ∧ c < a + bs.length then bs.getD (c - a) 0 else (assoc c m).getD 0 := by
  induction bs generalizing m a with
  | nil => simp [Memory.write]
  | cons b bs ih =>
    rw [Memory.write, ih, getD_assoc_set]
    by_cases h1 : c = a
    · subst h1
      simp
    · by_cases h2 : a + 1 ≤ c ∧ c < a + 1 + bs.length
      · have h3 : a ≤ c ∧ c < a + (b :: bs).length := by simp only [List.length_cons]; omega
        rw [if_pos h2, if_pos h3, show c - a = (c - (a + 1)) + 1 by omega, List.getD_cons_succ]
      · have h3 : ¬(a ≤ c ∧ c < a + (b :: bs).length) := by simp only [List.length_cons]; omega
        rw [if_neg h2, if_neg h3, if_neg h1]

/-- Everything a write of window memory does to its bytes. -/
theorem memByte_memWrite (s : State) (a c : Nat) (bs : List Byte) :
    memByte (memWrite s a bs) c = if a ≤ c ∧ c < a + bs.length then bs.getD (c - a) 0 else memByte s c :=
  getD_assoc_write s.mem a c bs

theorem memByte_memWrite_outside (s : State) (a c : Nat) (bs : List Byte) (h : c < a ∨ a + bs.length ≤ c) :
    memByte (memWrite s a bs) c = memByte s c := by
  rw [memByte_memWrite, if_neg (by omega)]

theorem memByte_congr {s t : State} (h : t.mem = s.mem) (a : Nat) : memByte t a = memByte s a := by
  simp only [memByte, h]

theorem memRead_congr {s t : State} (n a : Nat) (h : ∀ c, a ≤ c → c < a + n → memByte t c = memByte s c) :
    memRead t a n = memRead s a n := by
  induction n generalizing a with
  | zero => rfl
  | succ n ih =>
    simp only [memRead]
    rw [h a (Nat.le_refl _) (by omega), ih (a + 1) (fun c h1 h2 => h c (by omega) (by omega))]

@[simp] theorem memRead_length (s : State) (a n : Nat) : (memRead s a n).length = n := by
  induction n generalizing a with
  | zero => rfl
  | succ n ih => simp [memRead, ih]

/-- A read after a write of the same bytes gives what was written. -/
theorem memRead_memWrite (s : State) (a : Nat) (bs : List Byte) : memRead (memWrite s a bs) a bs.length = bs := by
  have key : ∀ (n i : Nat), i + n = bs.length → memRead (memWrite s a bs) (a + i) n = bs.drop i := by
    intro n
    induction n with
    | zero => intro i h; simp [memRead, List.drop_eq_nil_of_le (show bs.length ≤ i by omega)]
    | succ n ih =>
      intro i h
      have hi : i < bs.length := by omega
      simp only [memRead]
      rw [memByte_memWrite, if_pos ⟨by omega, by omega⟩, show a + i - a = i by omega,
        show a + i + 1 = a + (i + 1) by omega, ih (i + 1) (by omega), List.drop_eq_getElem_cons hi]
      simp [List.getD_eq_getElem?_getD, hi]
  simpa using key bs.length 0 (by omega)

@[simp] theorem leBytes_length (n v : Nat) : (leBytes n v).length = n := by
  induction n generalizing v with
  | zero => rfl
  | succ n ih => simp [leBytes, ih]

/-- Numbers and their little-endian bytes. -/
theorem ofLe_leBytes (n v : Nat) : ofLe (leBytes n v) = v % 256 ^ n := by
  induction n generalizing v with
  | zero => simp [leBytes, ofLe, Nat.mod_one]
  | succ n ih =>
    have h8 : (2 : Nat) ^ 8 = 256 := by decide
    have hp : 256 ^ (n + 1) = 256 * 256 ^ n := Nat.pow_succ'
    rw [leBytes, ofLe, ih, BitVec.toNat_ofNat, h8, hp, Nat.mod_mul]

/-- A number read back from where it was put. -/
theorem memNat_memPut (s : State) (a n v : Nat) : memNat (memPut s a n v) a n = v % 256 ^ n := by
  have h := memRead_memWrite s a (leBytes n v)
  rw [leBytes_length] at h
  rw [memNat, memPut, h, ofLe_leBytes]

/-! ### Words with injected errors (R372) -/

theorem eccTouch_clean (s : State) (a n : Nat) (h : s.flt.eccWords = []) : eccTouch s a n = s := by
  simp [eccTouch, eccHits, h]

theorem wf_lostWords (s : State) (hits : List (Nat × Nat)) (m : List Host.Cell) (h : Memory.wf m = true) :
    Memory.wf (hits.foldl (fun m w => if w.2 < 2 ∨ 0x40 ≤ unitOfKey (4 * w.1) then m
      else Memory.write m (4 * w.1) (freeWord s w.1)) m) = true := by
  induction hits generalizing m with
  | nil => exact h
  | cons w t ih =>
    rw [List.foldl_cons]
    apply ih
    split
    · exact h
    · exact Memory.wf_write m _ _ h

theorem eccTouch_wf (s : State) (a n : Nat) (h : Memory.wf s.mem = true) : Memory.wf (eccTouch s a n).mem = true := by
  by_cases e : eccHits s a n = []
  · simpa [eccTouch, e] using h
  · simpa [eccTouch, e] using wf_lostWords s (eccHits s a n) s.mem h

/-- A read that may find injected errors changes window memory, the marks and the count of free values, and nothing
else. -/
theorem eccTouch_frame (s : State) (a n : Nat) :
    eccTouch s a n = { s with mem := (eccTouch s a n).mem, fresh := (eccTouch s a n).fresh, flt := (eccTouch s a n).flt } := by
  by_cases e : eccHits s a n = [] <;> simp [eccTouch, e, State.withMem, State.withFresh, State.withFlt]

theorem touchAll_clean (s : State) (rs : List (Nat × Nat)) (h : s.flt.eccWords = []) : touchAll s rs = s := by
  unfold touchAll
  induction rs with
  | nil => rfl
  | cons r t ih => rw [List.foldl_cons, eccTouch_clean s _ _ h, ih]

theorem fifoShift_clean (s : State) (e : Nat) (rx : Bool) (n : Nat) (h : s.flt.eccWords = []) : fifoShift s e rx n = s := by
  simp [fifoShift, h]

/-- With no word in error the words at the front of a FIFO are read as they are. -/
theorem fifoTake_clean (s : State) (e : Nat) (rx : Bool) (ws : List Word) (h : s.flt.eccWords = []) :
    fifoTake s e rx ws = (ws, s) := by
  have hs : ((upTo ws.length).zip ws).map Prod.snd = ws := by simp [upTo, List.map_snd_zip]
  simp [fifoTake, eccHits, eccTouch_clean, fifoShift_clean, h, hs]

end Sys2Proof.Machine
end

