-- ==== Sys2Proof/Laws/Registers.lean ====
section
/-! SUPPORT. Laws of the register file, of fields and of bits: what a write of a word or a field leaves in every word and
in every field. -/

namespace Sys2Proof.Machine

/-! ### Bits -/

theorem testBit_mul_pow (n k i : Nat) : (n * 2 ^ k).testBit i = (decide (k ≤ i) && n.testBit (i - k)) := by
  rw [← Nat.shiftLeft_eq, Nat.testBit_shiftLeft]

theorem insertBits_eq_or (w lo width n : Nat) :
    insertBits w lo width n
      = (w % 2 ^ lo ||| (n % 2 ^ width) <<< lo) ||| (w / 2 ^ (lo + width)) <<< (lo + width) := by
  have h1 : w % 2 ^ lo < 2 ^ lo := Nat.mod_lt _ (Nat.two_pow_pos _)
  have h2 : n % 2 ^ width < 2 ^ width := Nat.mod_lt _ (Nat.two_pow_pos _)
  have h3 : w % 2 ^ lo ||| (n % 2 ^ width) <<< lo = w % 2 ^ lo + (n % 2 ^ width) * 2 ^ lo := by
    rw [Nat.or_comm, ← Nat.shiftLeft_add_eq_or_of_lt h1, Nat.shiftLeft_eq, Nat.add_comm]
  have h4 : w % 2 ^ lo + (n % 2 ^ width) * 2 ^ lo < 2 ^ (lo + width) := by
    rw [Nat.pow_add]
    calc w % 2 ^ lo + (n % 2 ^ width) * 2 ^ lo < 2 ^ lo + (n % 2 ^ width) * 2 ^ lo := by omega
      _ = 2 ^ lo * (n % 2 ^ width + 1) := by ring
      _ ≤ 2 ^ lo * 2 ^ width := Nat.mul_le_mul_left _ h2
  rw [h3, Nat.or_comm, ← Nat.shiftLeft_add_eq_or_of_lt h4, Nat.shiftLeft_eq, insertBits, Nat.add_comm]

/-- Each bit of a word with bits replaced. -/
theorem testBit_insertBits (w lo width n i : Nat) :
    (insertBits w lo width n).testBit i
      = if lo ≤ i ∧ i < lo + width then n.testBit (i - lo) else w.testBit i := by
  rw [insertBits_eq_or]
  simp only [Nat.testBit_or, Nat.testBit_shiftLeft, Nat.testBit_mod_two_pow, Nat.testBit_div_two_pow]
  by_cases h1 : i < lo
  · simp [h1, show ¬ lo ≤ i by omega, show ¬ lo + width ≤ i by omega]
  · by_cases h2 : i < lo + width
    · simp [h1, h2, show lo ≤ i by omega, show ¬ lo + width ≤ i by omega, show i - lo < width by omega]
    · simp [h1, h2, show lo + width ≤ i by omega, show ¬ i - lo < width by omega,
        show i - (lo + width) + (lo + width) = i by omega]

theorem testBit_bitsAt (n lo width i : Nat) :
    (bitsAt n lo width).testBit i = (decide (i < width) && n.testBit (lo + i)) := by
  simp [bitsAt, Nat.testBit_mod_two_pow, Nat.testBit_shiftRight]

theorem insertBits_lt {w lo width n : Nat} (hw : w < 2 ^ 32) (h : lo + width ≤ 32) :
    insertBits w lo width n < 2 ^ 32 := by
  apply Nat.lt_pow_two_of_testBit
  intro i hi
  rw [testBit_insertBits, if_neg (by omega)]
  exact Nat.testBit_lt_two_pow (Nat.lt_of_lt_of_le hw (Nat.pow_le_pow_right (by omega) hi))

/-- A field read where it was written. -/
theorem bitsAt_insertBits_same (w lo width n : Nat) : bitsAt (insertBits w lo width n) lo width = n % 2 ^ width := by
  apply Nat.eq_of_testBit_eq
  intro i
  rw [testBit_bitsAt, testBit_insertBits, Nat.testBit_mod_two_pow]
  by_cases h : i < width
  · simp [h]
  · simp [h]

/-- A field read beside the one that was written. -/
theorem bitsAt_insertBits_disjoint (w lo width n lo' width' : Nat) (h : lo' + width' ≤ lo ∨ lo + width ≤ lo') :
    bitsAt (insertBits w lo width n) lo' width' = bitsAt w lo' width' := by
  apply Nat.eq_of_testBit_eq
  intro i
  rw [testBit_bitsAt, testBit_bitsAt, testBit_insertBits]
  by_cases hi : i < width'
  · rw [if_neg (by omega)]
  · simp [hi]

/-! ### Words -/

theorem regWord_setWord (s : State) (k j : Nat) (w : Word) :
    regWord (setWord s k w) j = if j = k then w else regWord s j := by
  simp only [regWord, setWord, State.withRegs, assoc_put]
  split <;> simp

@[simp] theorem regWord_setWord_same (s : State) (k : Nat) (w : Word) : regWord (setWord s k w) k = w := by
  simp [regWord_setWord]

theorem regWord_setWord_other (s : State) {k j : Nat} (w : Word) (h : j ≠ k) :
    regWord (setWord s k w) j = regWord s j := by
  simp [regWord_setWord, h]

/-- A register reads by the register file and the part alone. -/
theorem regWord_congr {s t : State} (h : t.regs = s.regs) (hv : t.ident.variant = s.ident.variant) (k : Nat) :
    regWord t k = regWord s k := by
  simp only [regWord, h, hv]

theorem getF_congr {s t : State} {f : Fld} (h : regWord t f.key = regWord s f.key) : getF t f = getF s f := by
  simp only [getF, h]

/-! ### Fields -/

/-- The word a field write leaves, and every other word as it was. -/
theorem regWord_setF (s : State) (f : Fld) (n k : Nat) :
    regWord (setF s f n) k
      = if k = f.key then BitVec.ofNat 32 (insertBits (regWord s f.key).toNat f.lo f.width n) else regWord s k :=
  regWord_setWord s f.key k _

theorem toNat_regWord_setF (s : State) (f : Fld) (n : Nat) (h : f.lo + f.width ≤ 32) :
    (regWord (setF s f n) f.key).toNat = insertBits (regWord s f.key).toNat f.lo f.width n := by
  rw [regWord_setF, if_pos rfl, BitVec.toNat_ofNat, Nat.mod_eq_of_lt (insertBits_lt (BitVec.isLt _) h)]

/-- A field reads as written, modulo its width. -/
theorem getF_setF_same (s : State) (f : Fld) (n : Nat) (h : f.lo + f.width ≤ 32) :
    getF (setF s f n) f = n % 2 ^ f.width := by
  rw [getF, toNat_regWord_setF s f n h, bitsAt_insertBits_same]

/-- A field of another register, or one beside it, is left alone. -/
theorem getF_setF_other (s : State) (f g : Fld) (n : Nat) (h : f.lo + f.width ≤ 32)
    (hd : g.key ≠ f.key ∨ g.lo + g.width ≤ f.lo ∨ f.lo + f.width ≤ g.lo) : getF (setF s f n) g = getF s g := by
  by_cases hk : g.key = f.key
  · have hd' : g.lo + g.width ≤ f.lo ∨ f.lo + f.width ≤ g.lo := by
      rcases hd with hd | hd
      · exact absurd hk hd
      · exact hd
    rw [getF, hk, toNat_regWord_setF s f n h, bitsAt_insertBits_disjoint _ _ _ _ _ _ hd', getF, hk]
  · exact getF_congr (by rw [regWord_setF, if_neg hk])

theorem getF_lt (s : State) (f : Fld) : getF s f < 2 ^ f.width := Nat.mod_lt _ (Nat.two_pow_pos _)

theorem flag_setFlag_same (s : State) (f : Fld) (b : Bool) (h : f.lo + f.width ≤ 32) (hw : f.width = 1) :
    flag (setFlag s f b) f = b := by
  rw [flag, setFlag, getF_setF_same s f _ h, hw]
  cases b <;> rfl

/-! ### Frames: each operation changes the part it names -/

theorem setWord_frame (s : State) (k : Nat) (w : Word) : setWord s k w = { s with regs := put k w s.regs } := rfl
theorem setF_frame (s : State) (f : Fld) (n : Nat) : setF s f n = { s with regs := (setF s f n).regs } := rfl
theorem setFlag_frame (s : State) (f : Fld) (b : Bool) : setFlag s f b = { s with regs := (setFlag s f b).regs } := rfl
theorem addF_frame (s : State) (f : Fld) (k : Nat) : addF s f k = { s with regs := (addF s f k).regs } := rfl
theorem incF_frame (s : State) (f : Fld) : incF s f = { s with regs := (incF s f).regs } := rfl
theorem incSat_frame (s : State) (f : Fld) : incSat s f = { s with regs := (incSat s f).regs } := by
  unfold incSat
  split <;> rfl
theorem setBitF_frame (s : State) (f : Fld) (i : Nat) (b : Bool) :
    setBitF s f i b = { s with regs := (setBitF s f i b).regs } := rfl
theorem memWrite_frame (s : State) (a : Nat) (bs : List Byte) :
    memWrite s a bs = { s with mem := (memWrite s a bs).mem, flt := (memWrite s a bs).flt } := rfl
theorem startTimer_frame (s : State) (id : TimerId) (n : Nat) :
    startTimer s id n = { s with timers := (startTimer s id n).timers } := rfl
theorem stopTimer_frame (s : State) (id : TimerId) :
    stopTimer s id = { s with timers := (stopTimer s id).timers } := rfl
theorem output_frame (s : State) (e : OutEvent) : output s e = { s with outs := s.outs ++ [e] } := rfl

end Sys2Proof.Machine
end

