-- ==== Sys2Proof/Laws/Ops.lean ====
section
/-! SUPPORT. Laws of the other shared operations: timers, the parts of the state that an index names, fences, the notes
of the twin. -/

namespace Sys2Proof.Machine

/-! ### Lists under keys of any type -/

theorem lookupKey_replaceKey {κ α : Type} [DecidableEq κ] (k j : κ) (v : α) (l : List (κ × α)) :
    lookupKey j (replaceKey k v l) = if j = k then some v else lookupKey j l := by
  by_cases h : j = k
  · subst h
    simp [lookupKey, replaceKey]
  · have hk : ¬ k = j := fun e => h e.symm
    simp only [lookupKey, replaceKey, removeKey, List.find?_cons, hk, decide_false, h, if_false]
    congr 1
    induction l with
    | nil => rfl
    | cons p t ih =>
      by_cases hp : p.1 = k
      · simp [hp, hk, ih]
      · by_cases hj : p.1 = j
        · simp [hj, h]
        · simp [hp, hj, ih]

theorem lookupKey_removeKey {κ α : Type} [DecidableEq κ] (k j : κ) (l : List (κ × α)) :
    lookupKey j (removeKey k l) = if j = k then none else lookupKey j l := by
  by_cases h : j = k
  · subst h
    simp [lookupKey, removeKey]
  · have hk : ¬ k = j := fun e => h e.symm
    simp only [lookupKey, removeKey, h, if_false]
    congr 1
    induction l with
    | nil => rfl
    | cons p t ih =>
      by_cases hp : p.1 = k
      · simp [hp, hk, ih]
      · by_cases hj : p.1 = j
        · simp [hj, h]
        · simp [hp, hj, ih]

/-! ### Timers -/

/-- A started timer runs to its own deadline, and no other timer changes. -/
theorem lookup_startTimer (s : State) (id j : TimerId) (n : Nat) :
    lookupKey j (startTimer s id n).timers = if j = id then some (s.mono + n) else lookupKey j s.timers :=
  lookupKey_replaceKey id j _ s.timers

theorem lookup_stopTimer (s : State) (id j : TimerId) :
    lookupKey j (stopTimer s id).timers = if j = id then none else lookupKey j s.timers :=
  lookupKey_removeKey id j s.timers

theorem running_startTimer (s : State) (id j : TimerId) (n : Nat) :
    running (startTimer s id n) j = (decide (j = id) || running s j) := by
  simp only [running, lookup_startTimer]
  by_cases h : j = id <;> simp [h]

theorem running_stopTimer (s : State) (id j : TimerId) :
    running (stopTimer s id) j = (!decide (j = id) && running s j) := by
  simp only [running, lookup_stopTimer]
  by_cases h : j = id <;> simp [h]

/-- A timer just started is due at once exactly where it is given no time. -/
theorem due_startTimer_same (s : State) (id : TimerId) (n : Nat) : due (startTimer s id n) id = decide (n = 0) := by
  have h : lookupKey id (startTimer s id n).timers = some (s.mono + n) := by simp [lookup_startTimer]
  have hm : (startTimer s id n).mono = s.mono := rfl
  rw [due, h, hm]
  exact decide_eq_decide.2 (by omega)

theorem due_startTimer_other (s : State) {id j : TimerId} (n : Nat) (h : j ≠ id) :
    due (startTimer s id n) j = due s j := by
  simp only [due, lookup_startTimer, h, if_false]
  rfl

/-- A timer that is due runs. -/
theorem running_of_due {s : State} {id : TimerId} (h : due s id = true) : running s id = true := by
  simp only [due, running] at *
  split at h <;> simp_all

/-! ### Parts of the state by index -/

theorem queueOf_setQueue (s : State) (n m : Nat) (q : MQueue) :
    queueOf (setQueue s n q) m = if m = n then q else queueOf s m := by
  simp only [queueOf, setQueue, State.withQueues, assoc_put]
  split <;> rfl

theorem busCh_setBusCh (s : State) (n m : Nat) (b : BusCh) :
    busCh (setBusCh s n b) m = if m = n then b else busCh s m := by
  simp only [busCh, setBusCh, State.withBus, assoc_put]
  split <;> rfl

theorem engineOf_setEngine (s : State) (n m : Nat) (x : Engine) :
    engineOf (setEngine s n x) m = if m = n then x else engineOf s m := by
  simp only [engineOf, setEngine, State.withEngines, assoc_put]
  split <;> rfl

theorem slotOf_setSlot (s : State) (n m : Nat) (x : Slot) :
    slotOf (setSlot s n x) m = if m = n then x else slotOf s m := by
  simp only [slotOf, setSlot, State.withPower, assoc_put]
  split <;> rfl

theorem portSt_setPortSt (s : State) (n m : Nat) (p : PortSt) (hn : n < 3) (hm : m < 3) :
    portSt (setPortSt s n p) m = if m = n then p else portSt s m := by
  match n, m, hn, hm with
  | 0, 0, _, _ => rfl
  | 0, 1, _, _ => rfl
  | 0, 2, _, _ => rfl
  | 1, 0, _, _ => rfl
  | 1, 1, _, _ => rfl
  | 1, 2, _, _ => rfl
  | 2, 0, _, _ => rfl
  | 2, 1, _, _ => rfl
  | 2, 2, _, _ => rfl

/-! ### Fences -/

/-- Whether and how a unit refuses follows from the part, the device state and four registers of SYS. -/
theorem fenceCode_congr {s t : State} (hv : t.ident.variant = s.ident.variant) (hd : t.dev = s.dev)
    (h1 : regWord t F.SYS_UNIT_RST_RST.key = regWord s F.SYS_UNIT_RST_RST.key)
    (h2 : regWord t F.SYS_UNIT_INRST_UNITS.key = regWord s F.SYS_UNIT_INRST_UNITS.key)
    (h3 : regWord t F.SYS_UNIT_FENCE_FENCE.key = regWord s F.SYS_UNIT_FENCE_FENCE.key)
    (h4 : regWord t F.SYS_UNIT_FLTFENCE_UNITS.key = regWord s F.SYS_UNIT_FLTFENCE_UNITS.key) (u : Nat) :
    fenceCode t u = fenceCode s u := by
  have hr : inReset t u = inReset s u := by simp only [inReset, bitF, getF, h1, h2]
  have hs : softFenced t u = softFenced s u := by simp only [softFenced, h3]
  have hf : faultFenced t u = faultFenced s u := by simp only [faultFenced, bitF, getF, h4]
  rw [fenceCode, fenceCode, hv, hd, hr, hs, hf]

theorem live_iff (s : State) (u : Nat) : live s u = true ↔ fenceCode s u = none := by
  simp [live]

/-- A unit that runs is one the part has, in a hub whose units are out of reset. -/
theorem present_of_live {s : State} {u : Nat} (h : live s u = true) :
    unitAbsent s.ident.variant u = false ∧ s.dev.unitsOut = true ∧ inReset s u = false := by
  rw [live_iff, fenceCode] at h
  split at h
  · cases h
  · split at h
    · cases h
    · split at h
      · cases h
      · simp_all

/-! ### The notes of the twin -/

theorem twinNote_frame (s : State) (r : DeltaRec) : twinNote s r = { s with twin := (twinNote s r).twin } := by
  unfold twinNote
  split <;> rfl

/-- A note adds one record, and only where the hub is Active. -/
theorem twinNote_twin (s : State) (r : DeltaRec) :
    (twinNote s r).twin
      = if s.twin.role = .active then { s.twin with delta := s.twin.delta ++ [r] } else s.twin := by
  unfold twinNote
  split <;> rfl

end Sys2Proof.Machine
end

