-- ==== Sys2Proof/WellFormed.lean ====
section
/-! DEFINITION. Which commands are well formed: every operand within the range that the largest part gives it. What a
smaller part lacks of it, the command's meaning says. -/

namespace Sys2Proof

/-- A frame within the lengths of R109. -/
def RingFrame.wf (f : RingFrame) : Bool := decide (f.payload.length ≤ 9216)

/-- A CAN frame: a standard identifier has 11 bits, at most 64 data bytes, none in a remote frame, which FD lacks. -/
def CanFrame.wf (f : CanFrame) : Bool :=
  decide (f.len ≤ 64) && decide (f.data.length ≤ f.len) && (f.ide || decide (f.id.toNat < 2048)) && !(f.fdf && f.rtr)

/-- A request of 1 to 256 bytes (R41, R45) by one of the local initiators. -/
def TxnSpec.wf (t : TxnSpec) : Bool := decide (1 ≤ t.count) && decide (t.count ≤ 256) && decide (t.data.length ≤ 256)

/-- A source of window accesses: a station of the ring names its node and initiator in a byte each. -/
def Origin.wf : Origin → Bool
  | .ring n _ i => decide (n < 256) && decide (i < 256)
  | _ => true

/-- Whether an origin is one of the local initiators of R46. -/
def Origin.isLocal : Origin → Bool
  | .ring _ _ _ => false
  | _ => true

/-- A Sundem arrival within the part. -/
def SunSrc.wf : SunSrc → Bool
  | .ring n _ _ _ _ _ _ p => decide (n < 256) && decide (p < 2)
  | .udp p _ _ => decide (p < 96)
  | .bus c => decide (c < 16)
  | .uart => true
  | .spi => true

/-- A Sundem request whose fields fit the header of R381. -/
def SunReq.wf (r : SunReq) : Bool :=
  r.src.wf && decide (r.index < 65536) && decide (r.sub < 256) && decide (r.offset < 2 ^ 32) && decide (r.len ≤ 1024)
    && decide (r.data.length ≤ 1024)

/-- A delta segment: its index has 16 bits (R327). -/
def DeltaSeg.wf (d : DeltaSeg) : Bool := decide (d.index < 65536)

/-- The stream words of a frame: an SOF word, and no more words than a LENGTH of 16 bits asks for; its place among the words
after a marker (R90, R92). -/
def wordsOk (ws : List (BitVec 64)) (sofAt : Option Nat) : Bool :=
  decide (1 ≤ ws.length) && decide (ws.length ≤ 8193) && sofAt.all (fun n => decide (n < 8190))

def unitOk (u : Nat) : Bool := decide (u < 17)
def portOk (p : Nat) : Bool := decide (p < 3)
def ringPortOk (p : Nat) : Bool := decide (p < 2)
def accPortOk (p : Nat) : Bool := decide (p < 96)
def plazaPortOk (p : Nat) : Bool := decide (p < 104)
def plazaQueueOk (q : Nat) : Bool := decide (q < 1024)
def mqOk (q : Nat) : Bool := decide (q < 256)
def busOk (c : Nat) : Bool := decide (c < 16)
def engineOk (e : Nat) : Bool := decide (e < 64)
def slotOk (i : Nat) : Bool := decide (i < 12)
def requestOk (k : Nat) : Bool := decide (k < 128)
def nodeOk (n : Nat) : Bool := decide (n < 256)
def descOk (d : Nat) : Bool := decide (d < 16)
def pipeOk (p : Nat) : Bool := decide (p < 4)

/-- Well-formedness of a command. -/
def Instr.wf : Instr → Bool
  | .powerOnReset | .sysrstAssert | .ringJoinEnable | .ringReady | .fullService | .deviceRestart | .dormantRequest
  | .dormantEntryComplete | .nodeCycleBoundary | .heartbeatMissed | .boundaryWatchdog | .tagGrant | .txnReqReceive
  | .heldRequestAdmit | .txnRspReceive | .postFaultReceive | .commitDiscard | .announcementSend | .announcementReceive
  | .dupIdTimeout | .wrapNoticeReceive | .heal | .ageingSweep | .captureResume | .junctionMessageReceive
  | .linkReportReceive | .upstreamReportTimeout | .tb1ReportSend | .tb1ReportReceive | .descriptorStart | .cacheFlush
  | .lgenNext | .entropyFail | .twnPeerRise | .twnPeerFall | .peerLowQualified | .twinKeepaliveSend | .departureSend
  | .handover | .handoverRelease | .resync | .hb | .soloWaitExpiry | .vinRestore | .pfailAssert | .pfailRelease
  | .vauxLow | .nvmInhibitLift | .errPulseEnd | .keptResponseExpiry | .recoveryRelayTimeout | .begin | .close
  | .activate | .confirm | .abandon | .verifyComplete | .activationHashDone | .managementRestartEnd | .syncFiringLate
  | .tb1ReportTimeout | .storeComplete => true
  | .porstRelease _ _ _ _ _ | .sysrstRelease _ _ _ | .romBootComplete _ | .dormantWake _ _ | .commitHold _
  | .epochFlipRequest _ | .learnFlush _ | .twinKeepaliveReceive _ _ _ | .twinLinkDown _ | .deltaAckReceive _ _
  | .departureReceive _ | .selfSeatChange _ => true
  | .drainWindowEnd u i => unitOk u && decide (i < 14)
  | .unitResetComplete u | .unitReset u | .unitFenceSet u | .unitFenceLift u | .lockUnit u => unitOk u
  | .fbCommit u i => unitOk u && decide (i < 96)
  | .registerWrite u o _ => decide (u < 256) && decide (o < 2 ^ 32)
  | .rd k | .wrPosted k | .wrAck k | .rmwSet k | .rmwClr k | .rmwSwap k | .fence k | .fenceRelease k => requestOk k
  | .txnIssue who t => who.isLocal && t.wf
  | .txnTimeout t | .tagHoldoutEnd t => decide (t < 256)
  | .i2cTransferComplete b how d => decide (b < 16) && decide (how.lost ≤ 2) && decide (d.length ≤ 256)
  | .i2cStretchTimeout held => decide (held.bus < 16)
  | .mdioTransferComplete b _ _ => decide (b < 2)
  | .epochDrainComplete t => decide (t < 6)
  | .ringPortEnable p | .ringPortDisable p | .retrain p | .capTimeout p | .stepVerifyDone p | .stepFallback p
  | .frTrainComplete p | .frTrainTimeout p | .relockTimeout p | .relockDone p => portOk p
  | .markerReceive p l line _ _ => portOk p && decide (l < 2) && decide (64 ≤ line.length)
  | .capabilityWordReceive p _ => portOk p
  | .frCoeffRequest p l _ _ => portOk p && decide (l < 2)
  | .lossOfLock p _ => portOk p
  | .laneModeChange l _ => decide (l < 24)
  | .accessLinkUp p sp _ _ => accPortOk p && decide (sp < 4)
  | .accessLinkDown down => accPortOk down.port
  | .flushDone p | .holdExpiry p | .egressSchedule p => plazaPortOk p
  | .ringFrameReceive p ws sofAt => ringPortOk p && wordsOk ws sofAt
  | .ringFrameAdd f => f.wf
  | .reachTimeout n _ _ | .wrapHolddownExpiry n _ _ => nodeOk n
  | .keepaliveSend p | .maintenanceWrap p | .healReady p | .linkReportSend p => ringPortOk p
  | .keepaliveReceive p ws sofAt phase => ringPortOk p && wordsOk ws sofAt && decide (phase < 8)
  | .keepaliveTick p _ => ringPortOk p
  | .frameAdmit q p bs => plazaQueueOk q && plazaPortOk p && decide (bs.length ≤ 9216)
  | .residencyCheck q => plazaQueueOk q
  | .accessFrameReceive p bs _ _ | .pauseFrameReceive p bs => accPortOk p && decide (bs.length ≤ 9216)
  | .pauseExpiry p c => accPortOk p && decide (c < 8)
  | .pauseRefresh p => accPortOk p
  | .listRun p | .runLateDiscard p | .timedRunSkip p => pipeOk p
  | .emissionHandover _ | .emitLateDiscard _ | .discoverResponseDelay _ | .sessionTimeout _ => true
  | .pushHdr q who _ => mqOk q && who.wf
  | .pushData q who ofs bs => mqOk q && who.wf && decide (ofs < 1024) && decide (1 ≤ bs.length) && decide (bs.length ≤ 256)
  | .pushTimeout q | .release q | .abort q | .queueFlush q | .queueDisable q | .mqArcadeDeliver q => mqOk q
  | .pop q n => mqOk q && decide (n ≤ 256)
  | .queueEnable q _ => mqOk q
  | .messageProduce q k p bs =>
    mqOk q && decide (1 ≤ k) && decide (k < 8) && decide (p < 8) && decide (4 ≤ bs.length) && decide (bs.length ≤ 1024)
  | .pollSampleComplete e => decide (e < 256)
  | .busChannelEnable c _ | .txRequest c _ | .txCancel c _ => busOk c
  | .busChannelDisable c | .busArbitration c | .recover c | .busRecoveryComplete c | .busIntegrationComplete c => busOk c
  | .busFrameReceive c rx => busOk c && rx.frame.wf
  | .txAttemptEnd c _ => busOk c
  | .busError c _ _ _ => busOk c
  | .bufferStarved c b => busOk c && decide (b < 32)
  | .engineRowExecute e _ => engineOk e
  | .engineEnable e | .engineDisable e | .halt e | .resume e | .restart e | .flushTx e | .flushRx e => engineOk e
  | .arcadeGroupRestart n _ => decide (n < 8)
  | .txPush e ofs bs => engineOk e && decide (ofs < 32) && decide (1 ≤ bs.length) && decide (bs.length ≤ 32)
  | .rxPop e n => engineOk e && decide (n ≤ 256)
  | .programRowWrite e row _ => engineOk e && decide (row < 64)
  | .engineConfigWrite e o _ => engineOk e && decide (o < 0x38)
  | .loopBoundsWrite e _ _ => engineOk e
  | .pinSet g _ | .pinClear g _ | .pinToggle g _ => decide (g < 6)
  | .step n | .arm n => decide (n < 4)
  | .servoUpdate n => decide (n < 2)
  | .triggerArm k => decide (k < 64)
  | .triggerFire k codes => decide (k < 64) && decide (codes.length ≤ 64)
  | .captureEvent k _ => decide (k < 64)
  | .gcmEncrypt d _ | .gcmDecrypt d _ | .cbcEncrypt d _ | .cbcDecrypt d _ | .cfbEncrypt d _ | .cfbDecrypt d _
  | .ctr d _ | .cmacGenerate d _ | .cmacVerify d _ | .unwrapRing d _ => descOk d
  | .pass1Complete d | .descriptorComplete d => descOk d
  | .keyRegisterWrite k w _ => decide (k < 8) && decide (w < 8)
  | .nonceReservationComplete n => decide (n < 18)
  | .deltaSegmentReceive seg => seg.wf
  | .snapshotSegmentReceive o _ _ => decide (o < 2 ^ 32)
  | .slotEnable i | .slotDisable i | .seatDebounceDone i | .seatLost i | .powerUpStart i | .prechargeTimeout i
  | .breaker i | .tripResolve i | .retryWaitExpiry i | .pgQualify i | .retryCountReset i | .warnedTurnOff i
  | .budgetRestore i | .on i | .off i => slotOk i
  | .prechargeComplete i v w => slotOk i && decide (v < 2 ^ 20) && decide (w < 2 ^ 20)
  | .rampEnd i v w c => slotOk i && decide (v < 2 ^ 20) && decide (w < 2 ^ 20) && decide (c < 2 ^ 20)
  | .monitorTick i c | .fast i c => slotOk i && decide (c < 2 ^ 20)
  | .vinStateChange v => decide (v < 2 ^ 20)
  | .meterSample codes => decide (codes.length ≤ 64)
  | .faultDetect c u _ _ => decide (c < 256) && decide (u < 32)
  | .faultInject c u | .eccInject c u => decide (c < 256) && decide (u < 32)
  | .read r | .write r | .describe r | .store r | .restore r | .discover r | .addrRead r | .addrWrite r
  | .nodeIdWrite r | .ringKeyLoad r | .serviceUartRate r | .recoveryRelay r => r.wf
  | .arpRequest p _ _ _ => accPortOk p
  | .packageWrite ofs bs => decide (ofs < 2 ^ 32) && decide (bs.length ≤ 1024)
  | .badSof p w => portOk p && decide (w < 2 ^ 64)
  | .bankSupplyLoss b => decide (b < 6)
  | .sundemUnservedRequest r why => r.wf && (match why with
      | .unknownOpcode c => decide (c < 256)
      | _ => true)

end Sys2Proof
end

