-- ==== Sys2Proof/Laws/PerInstr.lean ====
section
/-! SUPPORT. The family WellFormed: a well-formed command names nothing beyond its range. One lemma per command. -/

namespace Sys2Proof.Laws

set_option Elab.async false

/-- The numbers by which a command names what it acts on (units, ports, queues, offsets, lengths) and its measured
values. Places in the model's own lists and a skew, which have no range, are not among them. -/
def numbers : Instr → List Nat
  | .drainWindowEnd unit island => [unit, island]
  | .unitResetComplete unit => [unit]
  | .fbCommit unit inst => [unit, inst]
  | .registerWrite unit off _ => [unit, off]
  | .rd k => [k]
  | .wrPosted k => [k]
  | .wrAck k => [k]
  | .rmwSet k => [k]
  | .rmwClr k => [k]
  | .rmwSwap k => [k]
  | .fence k => [k]
  | .fenceRelease k => [k]
  | .txnTimeout tag => [tag]
  | .tagHoldoutEnd tag => [tag]
  | .i2cTransferComplete bus how _ => [bus, how.lost]
  | .i2cStretchTimeout held => [held.bus]
  | .mdioTransferComplete bus _ _ => [bus]
  | .unitReset unit => [unit]
  | .unitFenceSet unit => [unit]
  | .unitFenceLift unit => [unit]
  | .lockUnit unit => [unit]
  | .epochDrainComplete table => [table]
  | .ringPortEnable port => [port]
  | .ringPortDisable port => [port]
  | .retrain port => [port]
  | .markerReceive port lane _ _ _ => [port, lane]
  | .capabilityWordReceive port _ => [port]
  | .capTimeout port => [port]
  | .stepVerifyDone port => [port]
  | .stepFallback port => [port]
  | .frCoeffRequest port lane _ _ => [port, lane]
  | .frTrainComplete port => [port]
  | .frTrainTimeout port => [port]
  | .lossOfLock port _ => [port]
  | .relockTimeout port => [port]
  | .relockDone port => [port]
  | .laneModeChange lane _ => [lane]
  | .accessLinkUp port speed _ _ => [port, speed]
  | .accessLinkDown down => [down.port]
  | .flushDone port => [port]
  | .holdExpiry port => [port]
  | .ringFrameReceive port _ _ => [port]
  | .reachTimeout node _ _ => [node]
  | .keepaliveSend port => [port]
  | .keepaliveReceive port _ _ phase => [port, phase]
  | .keepaliveTick port _ => [port]
  | .maintenanceWrap port => [port]
  | .wrapHolddownExpiry node _ _ => [node]
  | .healReady port => [port]
  | .frameAdmit queue inPort _ => [queue, inPort]
  | .egressSchedule port => [port]
  | .residencyCheck queue => [queue]
  | .accessFrameReceive port _ _ _ => [port]
  | .pauseFrameReceive port _ => [port]
  | .pauseExpiry port cls => [port, cls]
  | .pauseRefresh port => [port]
  | .listRun pipeline => [pipeline]
  | .runLateDiscard pipeline => [pipeline]
  | .timedRunSkip pipeline => [pipeline]
  | .pushHdr queue _ _ => [queue]
  | .pushData queue _ ofs _ => [queue, ofs]
  | .pushTimeout queue => [queue]
  | .pop queue len => [queue, len]
  | .release queue => [queue]
  | .abort queue => [queue]
  | .queueFlush queue => [queue]
  | .queueEnable queue _ => [queue]
  | .queueDisable queue => [queue]
  | .messageProduce queue producer prio _ => [queue, producer, prio]
  | .mqArcadeDeliver queue => [queue]
  | .pollSampleComplete entry => [entry]
  | .busChannelEnable ch _ => [ch]
  | .busChannelDisable ch => [ch]
  | .busFrameReceive ch _ => [ch]
  | .txRequest ch _ => [ch]
  | .txCancel ch _ => [ch]
  | .busArbitration ch => [ch]
  | .txAttemptEnd ch _ => [ch]
  | .busError ch _ _ _ => [ch]
  | .recover ch => [ch]
  | .busRecoveryComplete ch => [ch]
  | .bufferStarved ch buf => [ch, buf]
  | .engineRowExecute e _ => [e]
  | .engineEnable e => [e]
  | .engineDisable e => [e]
  | .halt e => [e]
  | .resume e => [e]
  | .restart e => [e]
  | .arcadeGroupRestart n _ => [n]
  | .flushTx e => [e]
  | .flushRx e => [e]
  | .txPush e ofs _ => [e, ofs]
  | .rxPop e len => [e, len]
  | .programRowWrite e row _ => [e, row]
  | .engineConfigWrite e off _ => [e, off]
  | .loopBoundsWrite e _ _ => [e]
  | .pinSet group _ => [group]
  | .pinClear group _ => [group]
  | .pinToggle group _ => [group]
  | .step base => [base]
  | .arm base => [base]
  | .linkReportSend port => [port]
  | .servoUpdate base => [base]
  | .triggerArm k => [k]
  | .triggerFire k _ => [k]
  | .captureEvent k _ => [k]
  | .gcmEncrypt d _ => [d]
  | .gcmDecrypt d _ => [d]
  | .cbcEncrypt d _ => [d]
  | .cbcDecrypt d _ => [d]
  | .cfbEncrypt d _ => [d]
  | .cfbDecrypt d _ => [d]
  | .ctr d _ => [d]
  | .cmacGenerate d _ => [d]
  | .cmacVerify d _ => [d]
  | .unwrapRing d _ => [d]
  | .pass1Complete d => [d]
  | .descriptorComplete d => [d]
  | .keyRegisterWrite k w _ => [k, w]
  | .nonceReservationComplete slot => [slot]
  | .snapshotSegmentReceive offset _ _ => [offset]
  | .slotEnable slot => [slot]
  | .slotDisable slot => [slot]
  | .seatDebounceDone slot => [slot]
  | .seatLost slot => [slot]
  | .powerUpStart slot => [slot]
  | .prechargeComplete slot vsns vin => [slot, vsns, vin]
  | .prechargeTimeout slot => [slot]
  | .rampEnd slot vsns vin current => [slot, vsns, vin, current]
  | .monitorTick slot current => [slot, current]
  | .breaker slot => [slot]
  | .fast slot current => [slot, current]
  | .tripResolve slot => [slot]
  | .retryWaitExpiry slot => [slot]
  | .pgQualify slot => [slot]
  | .retryCountReset slot => [slot]
  | .vinStateChange vin => [vin]
  | .warnedTurnOff slot => [slot]
  | .budgetRestore slot => [slot]
  | .on slot => [slot]
  | .off slot => [slot]
  | .faultDetect code unit _ _ => [code, unit]
  | .faultInject code unit => [code, unit]
  | .eccInject code unit => [code, unit]
  | .arpRequest port _ _ _ => [port]
  | .packageWrite ofs _ => [ofs]
  | .badSof port word => [port, word]
  | .bankSupplyLoss bank => [bank]
  | .busIntegrationComplete ch => [ch]
  | _ => []

/-- A well-formed command's numbers are below 2 to the 64. -/
def WellFormed.Statement (i : Instr) : Prop := i.wf = true → ∀ n ∈ numbers i, n < 2 ^ 64

theorem WellFormed.drainWindowEnd (unit : Nat) (island : Nat) :
    WellFormed.Statement (.drainWindowEnd unit island) := by
  intro h
  simp [Instr.wf, unitOk] at h
  simp [numbers]
  omega

theorem WellFormed.unitResetComplete (unit : Nat) : WellFormed.Statement (.unitResetComplete unit) := by
  intro h
  simp [Instr.wf, unitOk] at h
  simp [numbers]
  omega

theorem WellFormed.fbCommit (unit : Nat) (inst : Nat) : WellFormed.Statement (.fbCommit unit inst) := by
  intro h
  simp [Instr.wf, unitOk] at h
  simp [numbers]
  omega

theorem WellFormed.registerWrite (unit : Nat) (off : Nat) (w : Word) :
    WellFormed.Statement (.registerWrite unit off w) := by
  intro h
  simp [Instr.wf] at h
  simp [numbers]
  omega

theorem WellFormed.rd (k : Nat) : WellFormed.Statement (.rd k) := by
  intro h
  simp [Instr.wf, requestOk] at h
  simp [numbers]
  omega

theorem WellFormed.wrPosted (k : Nat) : WellFormed.Statement (.wrPosted k) := by
  intro h
  simp [Instr.wf, requestOk] at h
  simp [numbers]
  omega

theorem WellFormed.wrAck (k : Nat) : WellFormed.Statement (.wrAck k) := by
  intro h
  simp [Instr.wf, requestOk] at h
  simp [numbers]
  omega

theorem WellFormed.rmwSet (k : Nat) : WellFormed.Statement (.rmwSet k) := by
  intro h
  simp [Instr.wf, requestOk] at h
  simp [numbers]
  omega

theorem WellFormed.rmwClr (k : Nat) : WellFormed.Statement (.rmwClr k) := by
  intro h
  simp [Instr.wf, requestOk] at h
  simp [numbers]
  omega

theorem WellFormed.rmwSwap (k : Nat) : WellFormed.Statement (.rmwSwap k) := by
  intro h
  simp [Instr.wf, requestOk] at h
  simp [numbers]
  omega

theorem WellFormed.fence (k : Nat) : WellFormed.Statement (.fence k) := by
  intro h
  simp [Instr.wf, requestOk] at h
  simp [numbers]
  omega

theorem WellFormed.fenceRelease (k : Nat) : WellFormed.Statement (.fenceRelease k) := by
  intro h
  simp [Instr.wf, requestOk] at h
  simp [numbers]
  omega

theorem WellFormed.txnTimeout (tag : Nat) : WellFormed.Statement (.txnTimeout tag) := by
  intro h
  simp [Instr.wf] at h
  simp [numbers]
  omega

theorem WellFormed.tagHoldoutEnd (tag : Nat) : WellFormed.Statement (.tagHoldoutEnd tag) := by
  intro h
  simp [Instr.wf] at h
  simp [numbers]
  omega

theorem WellFormed.i2cTransferComplete (bus : Nat) (how : I2cEnd) (data : List Byte) :
    WellFormed.Statement (.i2cTransferComplete bus how data) := by
  intro h
  simp [Instr.wf] at h
  simp [numbers]
  omega

theorem WellFormed.i2cStretchTimeout (held : I2cHold) : WellFormed.Statement (.i2cStretchTimeout held) := by
  intro h
  simp [Instr.wf] at h
  simp [numbers]
  omega

theorem WellFormed.mdioTransferComplete (bus : Nat) (driven : Bool) (data : BitVec 16) :
    WellFormed.Statement (.mdioTransferComplete bus driven data) := by
  intro h
  simp [Instr.wf] at h
  simp [numbers]
  omega

theorem WellFormed.unitReset (unit : Nat) : WellFormed.Statement (.unitReset unit) := by
  intro h
  simp [Instr.wf, unitOk] at h
  simp [numbers]
  omega

theorem WellFormed.unitFenceSet (unit : Nat) : WellFormed.Statement (.unitFenceSet unit) := by
  intro h
  simp [Instr.wf, unitOk] at h
  simp [numbers]
  omega

theorem WellFormed.unitFenceLift (unit : Nat) : WellFormed.Statement (.unitFenceLift unit) := by
  intro h
  simp [Instr.wf, unitOk] at h
  simp [numbers]
  omega

theorem WellFormed.lockUnit (unit : Nat) : WellFormed.Statement (.lockUnit unit) := by
  intro h
  simp [Instr.wf, unitOk] at h
  simp [numbers]
  omega

theorem WellFormed.epochDrainComplete (table : Nat) : WellFormed.Statement (.epochDrainComplete table) := by
  intro h
  simp [Instr.wf] at h
  simp [numbers]
  omega

theorem WellFormed.ringPortEnable (port : Nat) : WellFormed.Statement (.ringPortEnable port) := by
  intro h
  simp [Instr.wf, portOk] at h
  simp [numbers]
  omega

theorem WellFormed.ringPortDisable (port : Nat) : WellFormed.Statement (.ringPortDisable port) := by
  intro h
  simp [Instr.wf, portOk] at h
  simp [numbers]
  omega

theorem WellFormed.retrain (port : Nat) : WellFormed.Statement (.retrain port) := by
  intro h
  simp [Instr.wf, portOk] at h
  simp [numbers]
  omega

theorem WellFormed.markerReceive (port : Nat) (lane : Nat) (line : List Bool) (atSlot : Bool) (skew : Nat) :
    WellFormed.Statement (.markerReceive port lane line atSlot skew) := by
  intro h
  simp [Instr.wf, portOk] at h
  simp [numbers]
  omega

theorem WellFormed.capabilityWordReceive (port : Nat) (w : BitVec 64) :
    WellFormed.Statement (.capabilityWordReceive port w) := by
  intro h
  simp [Instr.wf, portOk] at h
  simp [numbers]
  omega

theorem WellFormed.capTimeout (port : Nat) : WellFormed.Statement (.capTimeout port) := by
  intro h
  simp [Instr.wf, portOk] at h
  simp [numbers]
  omega

theorem WellFormed.stepVerifyDone (port : Nat) : WellFormed.Statement (.stepVerifyDone port) := by
  intro h
  simp [Instr.wf, portOk] at h
  simp [numbers]
  omega

theorem WellFormed.stepFallback (port : Nat) : WellFormed.Statement (.stepFallback port) := by
  intro h
  simp [Instr.wf, portOk] at h
  simp [numbers]
  omega

theorem WellFormed.frCoeffRequest (port : Nat) (lane : Nat) (tap : FrTap) (req : FrReq) :
    WellFormed.Statement (.frCoeffRequest port lane tap req) := by
  intro h
  simp [Instr.wf, portOk] at h
  simp [numbers]
  omega

theorem WellFormed.frTrainComplete (port : Nat) : WellFormed.Statement (.frTrainComplete port) := by
  intro h
  simp [Instr.wf, portOk] at h
  simp [numbers]
  omega

theorem WellFormed.frTrainTimeout (port : Nat) : WellFormed.Statement (.frTrainTimeout port) := by
  intro h
  simp [Instr.wf, portOk] at h
  simp [numbers]
  omega

theorem WellFormed.lossOfLock (port : Nat) (cause : LockCause) : WellFormed.Statement (.lossOfLock port cause) := by
  intro h
  simp [Instr.wf, portOk] at h
  simp [numbers]
  omega

theorem WellFormed.relockTimeout (port : Nat) : WellFormed.Statement (.relockTimeout port) := by
  intro h
  simp [Instr.wf, portOk] at h
  simp [numbers]
  omega

theorem WellFormed.relockDone (port : Nat) : WellFormed.Statement (.relockDone port) := by
  intro h
  simp [Instr.wf, portOk] at h
  simp [numbers]
  omega

theorem WellFormed.laneModeChange (lane : Nat) (mode : BitVec 3) :
    WellFormed.Statement (.laneModeChange lane mode) := by
  intro h
  simp [Instr.wf] at h
  simp [numbers]
  omega

theorem WellFormed.accessLinkUp (port : Nat) (speed : Nat) (fullDuplex : Bool) (peerPause : BitVec 2) :
    WellFormed.Statement (.accessLinkUp port speed fullDuplex peerPause) := by
  intro h
  simp [Instr.wf, accPortOk] at h
  simp [numbers]
  omega

theorem WellFormed.accessLinkDown (down : LinkDown) :
    WellFormed.Statement (.accessLinkDown down) := by
  intro h
  simp [Instr.wf, accPortOk] at h
  simp [numbers]
  omega

theorem WellFormed.flushDone (port : Nat) : WellFormed.Statement (.flushDone port) := by
  intro h
  simp [Instr.wf, plazaPortOk] at h
  simp [numbers]
  omega

theorem WellFormed.holdExpiry (port : Nat) : WellFormed.Statement (.holdExpiry port) := by
  intro h
  simp [Instr.wf, plazaPortOk] at h
  simp [numbers]
  omega

theorem WellFormed.ringFrameReceive (port : Nat) (words : List (BitVec 64)) (sofAt : Option Nat) :
    WellFormed.Statement (.ringFrameReceive port words sofAt) := by
  intro h
  simp [Instr.wf, ringPortOk] at h
  simp [numbers]
  omega

theorem WellFormed.reachTimeout (node : Nat) (side : Bool) (west : Bool) :
    WellFormed.Statement (.reachTimeout node side west) := by
  intro h
  simp [Instr.wf, nodeOk] at h
  simp [numbers]
  omega

theorem WellFormed.keepaliveSend (port : Nat) : WellFormed.Statement (.keepaliveSend port) := by
  intro h
  simp [Instr.wf, ringPortOk] at h
  simp [numbers]
  omega

theorem WellFormed.keepaliveReceive (port : Nat) (words : List (BitVec 64)) (sofAt : Option Nat) (phase : Nat) :
    WellFormed.Statement (.keepaliveReceive port words sofAt phase) := by
  intro h
  simp [Instr.wf, ringPortOk] at h
  simp [numbers]
  omega

theorem WellFormed.keepaliveTick (port : Nat) (wordSeen : Bool) :
    WellFormed.Statement (.keepaliveTick port wordSeen) := by
  intro h
  simp [Instr.wf, ringPortOk] at h
  simp [numbers]
  omega

theorem WellFormed.maintenanceWrap (port : Nat) : WellFormed.Statement (.maintenanceWrap port) := by
  intro h
  simp [Instr.wf, ringPortOk] at h
  simp [numbers]
  omega

theorem WellFormed.wrapHolddownExpiry (node : Nat) (side : Bool) (west : Bool) :
    WellFormed.Statement (.wrapHolddownExpiry node side west) := by
  intro h
  simp [Instr.wf, nodeOk] at h
  simp [numbers]
  omega

theorem WellFormed.healReady (port : Nat) : WellFormed.Statement (.healReady port) := by
  intro h
  simp [Instr.wf, ringPortOk] at h
  simp [numbers]
  omega

theorem WellFormed.frameAdmit (queue : Nat) (inPort : Nat) (bytes : List Byte) :
    WellFormed.Statement (.frameAdmit queue inPort bytes) := by
  intro h
  simp [Instr.wf, plazaPortOk, plazaQueueOk] at h
  simp [numbers]
  omega

theorem WellFormed.egressSchedule (port : Nat) : WellFormed.Statement (.egressSchedule port) := by
  intro h
  simp [Instr.wf, plazaPortOk] at h
  simp [numbers]
  omega

theorem WellFormed.residencyCheck (queue : Nat) : WellFormed.Statement (.residencyCheck queue) := by
  intro h
  simp [Instr.wf, plazaQueueOk] at h
  simp [numbers]
  omega

theorem WellFormed.accessFrameReceive (port : Nat) (bytes : List Byte) (fcsOk : Bool) (line : LineEnd) :
    WellFormed.Statement (.accessFrameReceive port bytes fcsOk line) := by
  intro h
  simp [Instr.wf, accPortOk] at h
  simp [numbers]
  omega

theorem WellFormed.pauseFrameReceive (port : Nat) (bytes : List Byte) :
    WellFormed.Statement (.pauseFrameReceive port bytes) := by
  intro h
  simp [Instr.wf, accPortOk] at h
  simp [numbers]
  omega

theorem WellFormed.pauseExpiry (port : Nat) (cls : Nat) : WellFormed.Statement (.pauseExpiry port cls) := by
  intro h
  simp [Instr.wf, accPortOk] at h
  simp [numbers]
  omega

theorem WellFormed.pauseRefresh (port : Nat) : WellFormed.Statement (.pauseRefresh port) := by
  intro h
  simp [Instr.wf, accPortOk] at h
  simp [numbers]
  omega

theorem WellFormed.listRun (pipeline : Nat) : WellFormed.Statement (.listRun pipeline) := by
  intro h
  simp [Instr.wf, pipeOk] at h
  simp [numbers]
  omega

theorem WellFormed.runLateDiscard (pipeline : Nat) : WellFormed.Statement (.runLateDiscard pipeline) := by
  intro h
  simp [Instr.wf, pipeOk] at h
  simp [numbers]
  omega

theorem WellFormed.timedRunSkip (pipeline : Nat) : WellFormed.Statement (.timedRunSkip pipeline) := by
  intro h
  simp [Instr.wf, pipeOk] at h
  simp [numbers]
  omega

theorem WellFormed.pushHdr (queue : Nat) (who : Origin) (w : Word) : WellFormed.Statement (.pushHdr queue who w) := by
  intro h
  simp [Instr.wf, mqOk] at h
  simp [numbers]
  omega

theorem WellFormed.pushData (queue : Nat) (who : Origin) (ofs : Nat) (bytes : List Byte) :
    WellFormed.Statement (.pushData queue who ofs bytes) := by
  intro h
  simp [Instr.wf, mqOk] at h
  simp [numbers]
  omega

theorem WellFormed.pushTimeout (queue : Nat) : WellFormed.Statement (.pushTimeout queue) := by
  intro h
  simp [Instr.wf, mqOk] at h
  simp [numbers]
  omega

theorem WellFormed.pop (queue : Nat) (len : Nat) : WellFormed.Statement (.pop queue len) := by
  intro h
  simp [Instr.wf, mqOk] at h
  simp [numbers]
  omega

theorem WellFormed.release (queue : Nat) : WellFormed.Statement (.release queue) := by
  intro h
  simp [Instr.wf, mqOk] at h
  simp [numbers]
  omega

theorem WellFormed.abort (queue : Nat) : WellFormed.Statement (.abort queue) := by
  intro h
  simp [Instr.wf, mqOk] at h
  simp [numbers]
  omega

theorem WellFormed.queueFlush (queue : Nat) : WellFormed.Statement (.queueFlush queue) := by
  intro h
  simp [Instr.wf, mqOk] at h
  simp [numbers]
  omega

theorem WellFormed.queueEnable (queue : Nat) (w : Word) : WellFormed.Statement (.queueEnable queue w) := by
  intro h
  simp [Instr.wf, mqOk] at h
  simp [numbers]
  omega

theorem WellFormed.queueDisable (queue : Nat) : WellFormed.Statement (.queueDisable queue) := by
  intro h
  simp [Instr.wf, mqOk] at h
  simp [numbers]
  omega

theorem WellFormed.messageProduce (queue : Nat) (producer : Nat) (prio : Nat) (bytes : List Byte) :
    WellFormed.Statement (.messageProduce queue producer prio bytes) := by
  intro h
  simp [Instr.wf, mqOk] at h
  simp [numbers]
  omega

theorem WellFormed.mqArcadeDeliver (queue : Nat) : WellFormed.Statement (.mqArcadeDeliver queue) := by
  intro h
  simp [Instr.wf, mqOk] at h
  simp [numbers]
  omega

theorem WellFormed.pollSampleComplete (entry : Nat) : WellFormed.Statement (.pollSampleComplete entry) := by
  intro h
  simp [Instr.wf] at h
  simp [numbers]
  omega

theorem WellFormed.busChannelEnable (ch : Nat) (w : Word) : WellFormed.Statement (.busChannelEnable ch w) := by
  intro h
  simp [Instr.wf, busOk] at h
  simp [numbers]
  omega

theorem WellFormed.busChannelDisable (ch : Nat) : WellFormed.Statement (.busChannelDisable ch) := by
  intro h
  simp [Instr.wf, busOk] at h
  simp [numbers]
  omega

theorem WellFormed.busFrameReceive (ch : Nat) (rx : CanRx) :
    WellFormed.Statement (.busFrameReceive ch rx) := by
  intro h
  simp [Instr.wf, busOk] at h
  simp [numbers]
  omega

theorem WellFormed.txRequest (ch : Nat) (bufs : Word) : WellFormed.Statement (.txRequest ch bufs) := by
  intro h
  simp [Instr.wf, busOk] at h
  simp [numbers]
  omega

theorem WellFormed.txCancel (ch : Nat) (bufs : Word) : WellFormed.Statement (.txCancel ch bufs) := by
  intro h
  simp [Instr.wf, busOk] at h
  simp [numbers]
  omega

theorem WellFormed.busArbitration (ch : Nat) : WellFormed.Statement (.busArbitration ch) := by
  intro h
  simp [Instr.wf, busOk] at h
  simp [numbers]
  omega

theorem WellFormed.txAttemptEnd (ch : Nat) (how : TxEnd) : WellFormed.Statement (.txAttemptEnd ch how) := by
  intro h
  simp [Instr.wf, busOk] at h
  simp [numbers]
  omega

theorem WellFormed.busError (ch : Nat) (kind : CanErr) (transmitting : Bool) (place : CanPlace) :
    WellFormed.Statement (.busError ch kind transmitting place) := by
  intro h
  simp [Instr.wf, busOk] at h
  simp [numbers]
  omega

theorem WellFormed.recover (ch : Nat) : WellFormed.Statement (.recover ch) := by
  intro h
  simp [Instr.wf, busOk] at h
  simp [numbers]
  omega

theorem WellFormed.busRecoveryComplete (ch : Nat) : WellFormed.Statement (.busRecoveryComplete ch) := by
  intro h
  simp [Instr.wf, busOk] at h
  simp [numbers]
  omega

theorem WellFormed.bufferStarved (ch : Nat) (buf : Nat) : WellFormed.Statement (.bufferStarved ch buf) := by
  intro h
  simp [Instr.wf, busOk] at h
  simp [numbers]
  omega

theorem WellFormed.engineRowExecute (e : Nat) (ext : BitVec 192) :
    WellFormed.Statement (.engineRowExecute e ext) := by
  intro h
  simp [Instr.wf, engineOk] at h
  simp [numbers]
  omega

theorem WellFormed.engineEnable (e : Nat) : WellFormed.Statement (.engineEnable e) := by
  intro h
  simp [Instr.wf, engineOk] at h
  simp [numbers]
  omega

theorem WellFormed.engineDisable (e : Nat) : WellFormed.Statement (.engineDisable e) := by
  intro h
  simp [Instr.wf, engineOk] at h
  simp [numbers]
  omega

theorem WellFormed.halt (e : Nat) : WellFormed.Statement (.halt e) := by
  intro h
  simp [Instr.wf, engineOk] at h
  simp [numbers]
  omega

theorem WellFormed.resume (e : Nat) : WellFormed.Statement (.resume e) := by
  intro h
  simp [Instr.wf, engineOk] at h
  simp [numbers]
  omega

theorem WellFormed.restart (e : Nat) : WellFormed.Statement (.restart e) := by
  intro h
  simp [Instr.wf, engineOk] at h
  simp [numbers]
  omega

theorem WellFormed.arcadeGroupRestart (n : Nat) (engines : BitVec 8) :
    WellFormed.Statement (.arcadeGroupRestart n engines) := by
  intro h
  simp [Instr.wf] at h
  simp [numbers]
  omega

theorem WellFormed.flushTx (e : Nat) : WellFormed.Statement (.flushTx e) := by
  intro h
  simp [Instr.wf, engineOk] at h
  simp [numbers]
  omega

theorem WellFormed.flushRx (e : Nat) : WellFormed.Statement (.flushRx e) := by
  intro h
  simp [Instr.wf, engineOk] at h
  simp [numbers]
  omega

theorem WellFormed.txPush (e : Nat) (ofs : Nat) (bytes : List Byte) : WellFormed.Statement (.txPush e ofs bytes) := by
  intro h
  simp [Instr.wf, engineOk] at h
  simp [numbers]
  omega

theorem WellFormed.rxPop (e : Nat) (len : Nat) : WellFormed.Statement (.rxPop e len) := by
  intro h
  simp [Instr.wf, engineOk] at h
  simp [numbers]
  omega

theorem WellFormed.programRowWrite (e : Nat) (row : Nat) (w : BitVec 64) :
    WellFormed.Statement (.programRowWrite e row w) := by
  intro h
  simp [Instr.wf, engineOk] at h
  simp [numbers]
  omega

theorem WellFormed.engineConfigWrite (e : Nat) (off : Nat) (w : Word) :
    WellFormed.Statement (.engineConfigWrite e off w) := by
  intro h
  simp [Instr.wf, engineOk] at h
  simp [numbers]
  omega

theorem WellFormed.loopBoundsWrite (e : Nat) (first : BitVec 6) (last : BitVec 6) :
    WellFormed.Statement (.loopBoundsWrite e first last) := by
  intro h
  simp [Instr.wf, engineOk] at h
  simp [numbers]
  omega

theorem WellFormed.pinSet (group : Nat) (w : Word) : WellFormed.Statement (.pinSet group w) := by
  intro h
  simp [Instr.wf] at h
  simp [numbers]
  omega

theorem WellFormed.pinClear (group : Nat) (w : Word) : WellFormed.Statement (.pinClear group w) := by
  intro h
  simp [Instr.wf] at h
  simp [numbers]
  omega

theorem WellFormed.pinToggle (group : Nat) (w : Word) : WellFormed.Statement (.pinToggle group w) := by
  intro h
  simp [Instr.wf] at h
  simp [numbers]
  omega

theorem WellFormed.step (base : Nat) : WellFormed.Statement (.step base) := by
  intro h
  simp [Instr.wf] at h
  simp [numbers]
  omega

theorem WellFormed.arm (base : Nat) : WellFormed.Statement (.arm base) := by
  intro h
  simp [Instr.wf] at h
  simp [numbers]
  omega

theorem WellFormed.linkReportSend (port : Nat) : WellFormed.Statement (.linkReportSend port) := by
  intro h
  simp [Instr.wf, ringPortOk] at h
  simp [numbers]
  omega

theorem WellFormed.servoUpdate (base : Nat) : WellFormed.Statement (.servoUpdate base) := by
  intro h
  simp [Instr.wf] at h
  simp [numbers]
  omega

theorem WellFormed.triggerArm (k : Nat) : WellFormed.Statement (.triggerArm k) := by
  intro h
  simp [Instr.wf] at h
  simp [numbers]
  omega

theorem WellFormed.triggerFire (k : Nat) (codes : List (BitVec 16)) :
    WellFormed.Statement (.triggerFire k codes) := by
  intro h
  simp [Instr.wf] at h
  simp [numbers]
  omega

theorem WellFormed.captureEvent (k : Nat) (risingPad : Bool) : WellFormed.Statement (.captureEvent k risingPad) := by
  intro h
  simp [Instr.wf] at h
  simp [numbers]
  omega

theorem WellFormed.gcmEncrypt (d : Nat) (ctl : Word) : WellFormed.Statement (.gcmEncrypt d ctl) := by
  intro h
  simp [Instr.wf, descOk] at h
  simp [numbers]
  omega

theorem WellFormed.gcmDecrypt (d : Nat) (ctl : Word) : WellFormed.Statement (.gcmDecrypt d ctl) := by
  intro h
  simp [Instr.wf, descOk] at h
  simp [numbers]
  omega

theorem WellFormed.cbcEncrypt (d : Nat) (ctl : Word) : WellFormed.Statement (.cbcEncrypt d ctl) := by
  intro h
  simp [Instr.wf, descOk] at h
  simp [numbers]
  omega

theorem WellFormed.cbcDecrypt (d : Nat) (ctl : Word) : WellFormed.Statement (.cbcDecrypt d ctl) := by
  intro h
  simp [Instr.wf, descOk] at h
  simp [numbers]
  omega

theorem WellFormed.cfbEncrypt (d : Nat) (ctl : Word) : WellFormed.Statement (.cfbEncrypt d ctl) := by
  intro h
  simp [Instr.wf, descOk] at h
  simp [numbers]
  omega

theorem WellFormed.cfbDecrypt (d : Nat) (ctl : Word) : WellFormed.Statement (.cfbDecrypt d ctl) := by
  intro h
  simp [Instr.wf, descOk] at h
  simp [numbers]
  omega

theorem WellFormed.ctr (d : Nat) (ctl : Word) : WellFormed.Statement (.ctr d ctl) := by
  intro h
  simp [Instr.wf, descOk] at h
  simp [numbers]
  omega

theorem WellFormed.cmacGenerate (d : Nat) (ctl : Word) : WellFormed.Statement (.cmacGenerate d ctl) := by
  intro h
  simp [Instr.wf, descOk] at h
  simp [numbers]
  omega

theorem WellFormed.cmacVerify (d : Nat) (ctl : Word) : WellFormed.Statement (.cmacVerify d ctl) := by
  intro h
  simp [Instr.wf, descOk] at h
  simp [numbers]
  omega

theorem WellFormed.unwrapRing (d : Nat) (ctl : Word) : WellFormed.Statement (.unwrapRing d ctl) := by
  intro h
  simp [Instr.wf, descOk] at h
  simp [numbers]
  omega

theorem WellFormed.pass1Complete (d : Nat) : WellFormed.Statement (.pass1Complete d) := by
  intro h
  simp [Instr.wf, descOk] at h
  simp [numbers]
  omega

theorem WellFormed.descriptorComplete (d : Nat) : WellFormed.Statement (.descriptorComplete d) := by
  intro h
  simp [Instr.wf, descOk] at h
  simp [numbers]
  omega

theorem WellFormed.keyRegisterWrite (k : Nat) (w : Nat) (v : Word) :
    WellFormed.Statement (.keyRegisterWrite k w v) := by
  intro h
  simp [Instr.wf] at h
  simp [numbers]
  omega

theorem WellFormed.nonceReservationComplete (slot : Nat) : WellFormed.Statement (.nonceReservationComplete slot) := by
  intro h
  simp [Instr.wf] at h
  simp [numbers]
  omega

theorem WellFormed.snapshotSegmentReceive (offset : Nat) (last : Bool) (recs : List DeltaRec) :
    WellFormed.Statement (.snapshotSegmentReceive offset last recs) := by
  intro h
  simp [Instr.wf] at h
  simp [numbers]
  omega

theorem WellFormed.slotEnable (slot : Nat) : WellFormed.Statement (.slotEnable slot) := by
  intro h
  simp [Instr.wf, slotOk] at h
  simp [numbers]
  omega

theorem WellFormed.slotDisable (slot : Nat) : WellFormed.Statement (.slotDisable slot) := by
  intro h
  simp [Instr.wf, slotOk] at h
  simp [numbers]
  omega

theorem WellFormed.seatDebounceDone (slot : Nat) : WellFormed.Statement (.seatDebounceDone slot) := by
  intro h
  simp [Instr.wf, slotOk] at h
  simp [numbers]
  omega

theorem WellFormed.seatLost (slot : Nat) : WellFormed.Statement (.seatLost slot) := by
  intro h
  simp [Instr.wf, slotOk] at h
  simp [numbers]
  omega

theorem WellFormed.powerUpStart (slot : Nat) : WellFormed.Statement (.powerUpStart slot) := by
  intro h
  simp [Instr.wf, slotOk] at h
  simp [numbers]
  omega

theorem WellFormed.prechargeComplete (slot : Nat) (vsns : Nat) (vin : Nat) :
    WellFormed.Statement (.prechargeComplete slot vsns vin) := by
  intro h
  simp [Instr.wf, slotOk] at h
  simp [numbers]
  omega

theorem WellFormed.prechargeTimeout (slot : Nat) : WellFormed.Statement (.prechargeTimeout slot) := by
  intro h
  simp [Instr.wf, slotOk] at h
  simp [numbers]
  omega

theorem WellFormed.rampEnd (slot : Nat) (vsns : Nat) (vin : Nat) (current : Nat) :
    WellFormed.Statement (.rampEnd slot vsns vin current) := by
  intro h
  simp [Instr.wf, slotOk] at h
  simp [numbers]
  omega

theorem WellFormed.monitorTick (slot : Nat) (current : Nat) : WellFormed.Statement (.monitorTick slot current) := by
  intro h
  simp [Instr.wf, slotOk] at h
  simp [numbers]
  omega

theorem WellFormed.breaker (slot : Nat) : WellFormed.Statement (.breaker slot) := by
  intro h
  simp [Instr.wf, slotOk] at h
  simp [numbers]
  omega

theorem WellFormed.fast (slot : Nat) (current : Nat) : WellFormed.Statement (.fast slot current) := by
  intro h
  simp [Instr.wf, slotOk] at h
  simp [numbers]
  omega

theorem WellFormed.tripResolve (slot : Nat) : WellFormed.Statement (.tripResolve slot) := by
  intro h
  simp [Instr.wf, slotOk] at h
  simp [numbers]
  omega

theorem WellFormed.retryWaitExpiry (slot : Nat) : WellFormed.Statement (.retryWaitExpiry slot) := by
  intro h
  simp [Instr.wf, slotOk] at h
  simp [numbers]
  omega

theorem WellFormed.pgQualify (slot : Nat) : WellFormed.Statement (.pgQualify slot) := by
  intro h
  simp [Instr.wf, slotOk] at h
  simp [numbers]
  omega

theorem WellFormed.retryCountReset (slot : Nat) : WellFormed.Statement (.retryCountReset slot) := by
  intro h
  simp [Instr.wf, slotOk] at h
  simp [numbers]
  omega

theorem WellFormed.vinStateChange (vin : Nat) : WellFormed.Statement (.vinStateChange vin) := by
  intro h
  simp [Instr.wf] at h
  simp [numbers]
  omega

theorem WellFormed.warnedTurnOff (slot : Nat) : WellFormed.Statement (.warnedTurnOff slot) := by
  intro h
  simp [Instr.wf, slotOk] at h
  simp [numbers]
  omega

theorem WellFormed.budgetRestore (slot : Nat) : WellFormed.Statement (.budgetRestore slot) := by
  intro h
  simp [Instr.wf, slotOk] at h
  simp [numbers]
  omega

theorem WellFormed.on (slot : Nat) : WellFormed.Statement (.on slot) := by
  intro h
  simp [Instr.wf, slotOk] at h
  simp [numbers]
  omega

theorem WellFormed.off (slot : Nat) : WellFormed.Statement (.off slot) := by
  intro h
  simp [Instr.wf, slotOk] at h
  simp [numbers]
  omega

theorem WellFormed.faultDetect (code : Nat) (unit : Nat) (info0 : Word) (info1 : Word) :
    WellFormed.Statement (.faultDetect code unit info0 info1) := by
  intro h
  simp [Instr.wf] at h
  simp [numbers]
  omega

theorem WellFormed.faultInject (code : Nat) (unit : Nat) : WellFormed.Statement (.faultInject code unit) := by
  intro h
  simp [Instr.wf] at h
  simp [numbers]
  omega

theorem WellFormed.eccInject (code : Nat) (unit : Nat) : WellFormed.Statement (.eccInject code unit) := by
  intro h
  simp [Instr.wf] at h
  simp [numbers]
  omega

theorem WellFormed.arpRequest (port : Nat) (senderMac : BitVec 48) (senderIp : BitVec 32) (targetIp : BitVec 32) :
    WellFormed.Statement (.arpRequest port senderMac senderIp targetIp) := by
  intro h
  simp [Instr.wf, accPortOk] at h
  simp [numbers]
  omega

theorem WellFormed.packageWrite (ofs : Nat) (bytes : List Byte) : WellFormed.Statement (.packageWrite ofs bytes) := by
  intro h
  simp [Instr.wf] at h
  simp [numbers]
  omega

theorem WellFormed.badSof (port : Nat) (word : Nat) : WellFormed.Statement (.badSof port word) := by
  intro h
  simp [Instr.wf, portOk] at h
  simp [numbers]
  omega

theorem WellFormed.bankSupplyLoss (bank : Nat) : WellFormed.Statement (.bankSupplyLoss bank) := by
  intro h
  simp [Instr.wf] at h
  simp [numbers]
  omega

theorem WellFormed.busIntegrationComplete (ch : Nat) : WellFormed.Statement (.busIntegrationComplete ch) := by
  intro h
  simp [Instr.wf, busOk] at h
  simp [numbers]
  omega

end Sys2Proof.Laws
end

