-- ==== Sys2Proof/Tests/Slice0.lean ====
section
/-! SUPPORT. Tests of the model. First, small states and what they meet; then, for each statement that has hypotheses, a
state and operands that meet them all, clause by clause; then ill-formed commands, one for each check; last, single
commands whose results are worked out by hand from the spec or from the standard that the spec names. -/

namespace Sys2Proof.Tests

open Sys2Proof Sys2Proof.Machine

set_option Elab.async false

/-! ### Small states -/

/-- A state meets a condition. -/
abbrev Meets (s : State) (p : State → Bool) : Prop := p s = true

/-- The state a command leaves. -/
def after (c : Instr) (s : State) : State :=
  match exec c s with
  | .next t => t
  | .fault _ => s
  | .refused _ => s

/-- A command's outcome is a next state that meets a condition. -/
abbrev Runs (c : Instr) (s : State) (p : State → Bool) : Prop :=
  (match exec c s with
    | .next t => p t
    | .fault _ => false
    | .refused _ => false) = true

/-- Station 1 in Service. -/
def up : State :=
  State.reset.withDev { Dev.reset with state := .service, stage := .ringReady, unitsOut := true, nodeId := 1 }

/-- Station 1 in Service, Single. -/
def alone : State := up.withTwin { Twin.reset with role := .single }

/-- A timer that is due. -/
def timed (s : State) (id : TimerId) : State := startTimer s id 0

/-- The hub in another device state. -/
def inState (d : DeviceState) (g : BootStage) : State :=
  State.reset.withDev { Dev.reset with state := d, stage := g }

/-- A ring frame with nothing in it. -/
def blank : RingFrame where
  type := 1
  cls := 3
  cm := false
  epoch := false
  enc := false
  copyDone := false
  side := false
  wrapped := false
  clr := false
  destNode := 2
  srcNode := 3
  seq := 0
  hopLimit := 255
  destUnit := 0
  typeSpecific := 0
  tsOrTxn := 0
  payload := []

/-- A request of the management complex. -/
def req : Request where
  local_ := true
  who := .mgt
  node := 1
  side := false
  tag := 7
  initiator := 1
  op := .rd
  addr := 0
  x := false
  ts := false
  wide := false
  prefetch := false
  count := 4
  data := []
  port := 0
  clr := false
  inside := false
  waiting := false
  serial := 0
  seq := 0
  bcast := false

/-- Its tag. -/
def tagOf (r : Request) : TagEntry := ⟨r.tag, r.who, r.op, r.addr, r.count, r.wide, none, r.serial⟩

/-- A hub with these requests in its buffer, each with its tag. -/
def withReqs (s : State) (rs : List Request) : State :=
  s.withTxn { s.txn with reqs := rs, tags := rs.map tagOf }

/-- The address of an offset of a unit of this station. -/
def addrOf (unit off : Nat) : BitVec 48 := BitVec.ofNat 48 (unit * 2 ^ 32 + off)

/-- A frame that Plaza holds. -/
def held : PlzFrame where
  fid := 0
  cells := [0]
  body := .eth (List.replicate 60 1)
  inPort := 95
  cls := 0
  cm := false
  epochMac := false
  epochRmap := false
  ptp := false
  ct := false
  bad := false
  vid := 1
  destNode := 0
  outPort := 92
  arrival := 0
  stamp := 0
  ptpStamp := 0
  ingressSeq := 0
  seen := false

/-- A queue's reference to frame n of one cell. -/
def ref (n : Nat) (shadow : Bool) : QRef := ⟨n, 1, shadow, false, none⟩

/-! ### Hypotheses that states meet: start-up and units -/

theorem witness_step : (up.withPending [.heal]).pending = [.heal] ∧ up.pending = [] ∧ up.flt.eccFound = [] := by decide +kernel

theorem witness_systemReset : Meets up (fun s => s.dev.state ≠ .off ∧ s.dev.state ≠ .dead ∧ s.aon.counting = false)
    ∧ Meets (up.withAon { up.aon with counting := true }) (fun s => s.dev.state ≠ .off ∧ s.aon.counting = true)
    ∧ Meets (inState .dead .none) (fun s => s.dev.state = .dead) ∧ Meets State.reset (fun s => s.dev.state = .off) := by
  decide +kernel

/-- The level of SYSRST_N noted as low. -/
def lowReset (s : State) : State := s.withDev { s.dev with sysrstLow := true }

theorem witness_starts : Meets State.reset (fun s => s.dev.state = .off ∧ s.dev.sysrstLow = false)
    ∧ Meets (lowReset State.reset) (fun s => s.dev.state = .off ∧ s.dev.sysrstLow = true)
    ∧ Meets (lowReset up) (fun s => s.dev.sysrstLow = true ∧ s.dev.state ≠ .dead ∧ s.dev.state ≠ .off)
    ∧ Meets (lowReset (inState .dead .none)) (fun s => s.dev.sysrstLow = true ∧ s.dev.state = .dead)
    ∧ Meets (lowReset (inState .dormant .none)) (fun s => s.dev.state = .dormant ∧ s.dev.sysrstLow = true)
    ∧ Meets (up.withOdw { up.odw with pendingCmd := 1 }) (fun s => s.odw.pendingCmd = 1)
    ∧ Meets ((inState .dormant .none).withAon { State.reset.aon with mask := 0x80 }) (fun s => s.dev.state = .dormant
        ∧ ((0x80 : BitVec 8) &&& (s.aon.mask ||| 0x10) ≠ 0 ∨ false = true))
    ∧ Meets (inState .dormant .none) (fun s => (0x10 : BitVec 8) &&& (s.aon.mask ||| 0x10) ≠ 0) := by decide +kernel

/-- ROM steps that find no bank; an image that waits for its ports; the later steps. -/
theorem witness_boot : Meets (inState .starting .rom) (fun s => s.dev.state = .starting ∧ s.dev.stage = .rom
        ∧ (romSteps s).2 = none)
    ∧ Meets (timed (inState .starting .image) .ringJoin) (fun s => s.dev.stage = .image ∧ due s .ringJoin = true)
    ∧ Meets (inState .starting .joined) (fun s => s.dev.state = .starting ∧ s.dev.stage = .joined)
    ∧ Meets (startTimer (inState .starting .image) .ringJoin 1) (fun s => due s .ringJoin = false)
    ∧ Meets (inState .starting .ringReady) (fun s => s.dev.state = .starting ∧ s.dev.stage = .ringReady
        ∧ getF s F.SYS_UNIT_FLTFENCE_UNITS = 0)
    ∧ Meets (setBitF (inState .starting .ringReady) F.SYS_UNIT_FLTFENCE_UNITS unitODW true) (fun s =>
        s.dev.stage = .ringReady ∧ getF s F.SYS_UNIT_FLTFENCE_UNITS ≠ 0) := by
  decide +kernel

/-- A manifest (R407) for an empty image, and a signature over it: with r and s the hash of the manifest z itself, the
verification of FIPS 186-4 adds the base point and the public key, which is chosen to give a point with x = z. -/
def manifest : List Byte :=
  beBytes 4 0x564D4E31 ++ beBytes 4 0x72160700 ++ List.replicate 72 0
    ++ beBytes 32 0xe3b0c44298fc1c149afbf4c8996fb92427ae41e4649b934ca495991b7852b855 ++ List.replicate 143 0 ++ [3]
def signature : Nat := 0x4ee06d7bcafd59bd26a691b3cb0655b12e8cbef97af31ce0e6263e4a50975678

/-- A hub whose bank A holds that image. -/
def banked : State :=
  let s := (inState .starting .rom).withIdent { State.reset.ident with
    pubX := 0xa532b5b122389972940dfb0c0883bf86da13f30b2cca9256d094f68a6fbc3149
    pubY := 0x7184eefc0c4081fcc1a2e331661d5e18fbe85dc0f08fd22fcbdd84ce538469c5 }
  memWrite s (nvmBase + bankHeader 0) (manifest ++ beBytes 32 signature ++ beBytes 32 signature)

theorem witness_bootBank : Meets banked (fun s => s.dev.state = .starting ∧ s.dev.stage = .rom
    ∧ (romSteps s).2 = some 0) := by decide +kernel

theorem witness_dormant : Meets (up.withUpd { up.upd with state := 5 }) (fun s => inService s = true
        ∧ s.dev.sysrstLow = false ∧ s.dev.dormantPending = false ∧ s.odw.pendingCmd ≠ 2 ∧ dormantRefused s = true)
    ∧ Meets (up.withOdw { up.odw with pendingCmd := 2 }) (fun s => inService s = true ∧ s.dev.sysrstLow = false
        ∧ s.dev.dormantPending = false ∧ (s.odw.pendingCmd = 2 ∨ dormantRefused s = false))
    ∧ Meets (withReqs (alone.withDev { up.dev with dormantPending := true }) [req]) (fun s => s.dev.dormantPending = true
        ∧ s.odw.storing = false ∧ acting s = true ∧ (slotIds s).any (slotPowered s) = false
        ∧ s.txn.reqs ≠ [] ∧ poweringDown s = false)
    ∧ Meets (alone.withDev { up.dev with dormantPending := true }) (fun s => s.dev.dormantPending = true
        ∧ s.odw.storing = false ∧ acting s = true ∧ (slotIds s).any (slotPowered s) = false ∧ s.txn.reqs = [])
    ∧ Meets (withReqs (up.withDev { up.dev with dormantPending := true, powerDown := 0x1FFFE }) [req]) (fun s =>
        acting s = false ∧ s.txn.reqs ≠ [] ∧ poweringDown s = true ∧ windowsRun s = false) := by decide +kernel

/-- What the statement about register writes asks of a register, a word and a hub in which its unit runs. -/
def plainWrite (s : State) (u off w : Nat) : Bool :=
  live s u && !filterOffset u off && !absentAt s u off &&
    match regAt (keyOf u off) with
    | some (d, idx) => hasInst s d.pres idx
        && (hookWrite s .mgt d u off (keyOf u off) w).isNone
        && decide (∀ f ∈ d.fields, f.lo + f.width ≤ 32)
        && decide (d.fields.Pairwise (fun f g => f.lo + f.width ≤ g.lo ∨ g.lo + g.width ≤ f.lo))
    | none => false

/-- PLZ_SQ127_CFG; PIN_GIO191_CFG under a lock; a register of a channel that the part lacks; an unmapped offset. -/
theorem witness_registerWrite : plainWrite up unitPLZ (offOfKey (F.PLZ_SQ_CFG_PORT 127).key) 0xFFFFFFFF = true
    ∧ plainWrite (setBitF up F.SYS_LOCK_LOCK unitPIN true) unitPIN (offOfKey (F.PIN_GIO_CFG_OWNER 191).key) 0 = true
    ∧ fenceCode State.reset unitPLZ = some codeRESET_DURING
    ∧ Meets (up.withIdent { up.ident with variant := .gk7208 }) (fun s => live s unitBUS = true
        ∧ absentAt s unitBUS (offOfKey (F.BUS_CH_CFG_EN 15).key) = true
        ∧ (match regAt (F.BUS_CH_CFG_EN 15).key with
          | some (d, idx) => !hasInst s d.pres idx
          | none => false) = true)
    ∧ Meets up (fun s => live s unitSYS = true ∧ absentAt s unitSYS 0xFFFC = false
        ∧ regAt (keyOf unitSYS 0xFFFC) = none) := by decide +kernel

/-- The MAC of a port that the lane's mode does not use is absent, at an unlisted offset too. -/
theorem witness_absentMac : Meets (setF up (F.ACC_LANE_CFG_MODE 23) 1) (fun s => live s unitACC = true
    ∧ absentAt s unitACC (offOfKey (F.ACC_MAC_CFG_EN 95).key + 0x3C) = true
    ∧ regAt (keyOf unitACC (offOfKey (F.ACC_MAC_CFG_EN 95).key + 0x3C)) = none
    ∧ absentAt s unitACC (offOfKey (F.ACC_MAC_CFG_EN 92).key) = false) := by decide +kernel

theorem witness_commitControl : Meets up (fun s => live s unitSYS = true
        ∧ (0x3F : BitVec 6).toNat &&& getF s F.SYS_EPOCH_STAT_DRAINING = 0)
    ∧ Meets (setBitF up F.SYS_EPOCH_STAT_DRAINING 5 true) (fun s => live s unitSYS = true
        ∧ (0x20 : BitVec 6).toNat &&& getF s F.SYS_EPOCH_STAT_DRAINING ≠ 0) := by decide +kernel

/-- A boundary just due, and one a tick too early. -/
theorem witness_boundary : Meets (up.withMono 5000) (fun s => s.dev.unitsOut = true ∧ basesRun s = true
        ∧ boundaryAt s = some 5000 ∧ s.time.cycleLen ∈ [5000, 10000, 20000, 25000, 50000, 100000]
        ∧ s.time.lastBoundary ≤ s.mono)
    ∧ Meets (up.withMono 4999) (fun s => boundaryAt s = none)
    ∧ Meets (setTb0State ((up.withMono 2600).withTime { up.time with bases := ⟨200 * 2 ^ 32, 0, 0, 0⟩ }) tbLocked) (fun s =>
        tb0Locked s = true ∧ boundaryAt s = none)
    ∧ Meets ((setTb0State up tbLocked).withMono 2500) (fun s => tb0Locked s = true ∧ boundaryAt s = some 2500) := by
  decide +kernel

/-- A hub with pending copies of the two masks of port 95 and of a bus channel. -/
def copies : State :=
  up.withPendFb [((F.TIM_PTP_EN_PORTS 2).key, (0x80000000, 0x80000000)), ((F.BUS_CH_CFG_EN 15).key, (1, 1))]

theorem witness_commit : ([(1, (1, 1)), (2, (2, 2))] : List (Nat × (Word × Word))).map Prod.fst = [1, 2]
    ∧ ([1, 2] : List Nat).Nodup
    ∧ Meets (setFlag (up.withDev { up.dev with unitsOut := false }) F.SYS_COMMIT_CTL_HOLD true) (fun s =>
        twinLive s = false ∧ pinMismatch s = false ∧ s.dev.newNodeId = none ∧ holding s = true)
    ∧ Meets ((up.withTime { up.time with lastBoundary := 5 }).withPendCb [⟨4, 7, 1, 1⟩, ⟨5, 7, 2, 2⟩]) (fun s =>
        dueCb s = [(7, (1, 1))]) ∧ (mergeCb [⟨4, 7, 1, 1⟩, ⟨5, 7, 3, 2⟩]) = [(7, (3, 2))]
    ∧ Meets copies (fun s => assoc (F.TIM_PTP_EN_PORTS 2).key s.pendFb = some (0x80000000, 0x80000000)
        ∧ 95 < s.ident.variant.accPorts ∧ hasBus s 15 = true) := by decide +kernel

theorem witness_epochFlip : Meets (setBitF up F.SYS_EPOCH_CMD_FLIP 5 true) (fun s => holding s = false
        ∧ (getF s F.SYS_EPOCH_CMD_FLIP).testBit (4 + 1) = true)
    ∧ Meets (setFlag up F.SYS_COMMIT_CTL_HOLD true) (fun s => holding s = true)
    ∧ Meets (setBitF up F.SYS_EPOCH_STAT_DRAINING 3 true) (fun s => bitF s F.SYS_EPOCH_STAT_DRAINING 3 = true
        ∧ bankDrained s 3 = true)
    ∧ Meets (up.withJct { up.jct with emissions := [⟨0, 0, 0, 0, [], false, 0, true, true⟩] })
        (fun s => bankDrained s 3 = false) := by decide +kernel

theorem witness_unitFences : Meets up (fun s => live s unitSYS = true ∧ canFence s unitODW = true ∧ inReset s unitODW = false
        ∧ canFence s unitFLT = false ∧ canFence s unitSYS = false)
    ∧ Meets (up.withDrains [⟨unitRNG, 5, false, none⟩]) (fun s =>
        s.drains.find? (fun x => x.unit = unitRNG && x.island = 5 && x.ended.isNone) = some ⟨unitRNG, 5, false, none⟩
        ∧ heldAt s unitRNG 5 = [])
    ∧ Meets (timed (up.withDrains [⟨unitRNG, 5, false, none⟩]) (.drain unitRNG 5)) (fun s => due s (.drain unitRNG 5) = true)
    ∧ Meets (setBitF up F.SYS_UNIT_INRST_UNITS unitODW true) (fun s => bitF s F.SYS_UNIT_INRST_UNITS unitODW = true)
    ∧ Meets (setBitF up F.SYS_UNIT_FLTFENCE_UNITS unitODW true) (fun s => faultFenced s unitODW = true
        ∧ canFence s unitODW = true) := by decide +kernel

/-! ### Hypotheses that states meet: transactions -/

/-- A read of SYS_ID, one of a fenced unit's register, and the three RMW of a register of PIN. -/
theorem witness_reads : Meets (withReqs up [{ req with addr := addrOf unitSYS 0 }]) (fun s =>
        requestAt s 0 .rd = some { req with addr := addrOf unitSYS 0 } ∧ accessCode s { req with addr := addrOf unitSYS 0 } 4 = none
        ∧ (s.txn.tags.find? (fun x => x.tag = req.tag)).isSome = true ∧ s.odw.addr = [])
    ∧ Meets (withReqs up [{ req with addr := addrOf unitSYS 0xFFFC }]) (fun s =>
        requestAt s 0 .rd = some { req with addr := addrOf unitSYS 0xFFFC }
        ∧ accessCode s { req with addr := addrOf unitSYS 0xFFFC } 4 = none) := by decide +kernel

theorem witness_refused : Meets (withReqs State.reset []) (fun s => s.odw.addr = [])
    ∧ Meets (withReqs up [{ req with addr := addrOf 0x11 0 }]) (fun s =>
        requestAt s 0 .rd = some { req with addr := addrOf 0x11 0 }
        ∧ accessCode s { req with addr := addrOf 0x11 0 } 4 = some codeADDR_ERROR)
    ∧ Meets (withReqs up [{ req with op := .rmwSet, wide := true, addr := addrOf unitPIN 4 }]) (fun s =>
        requestAt s 0 .rmwSet = some { req with op := .rmwSet, wide := true, addr := addrOf unitPIN 4 }
        ∧ accessCode s { req with op := .rmwSet, wide := true, addr := addrOf unitPIN 4 } 8 = some codeALIGN_ERROR) := by
  decide +kernel

/-- Writes of PIN_OUT0 and of the two refused addresses. -/
def wr (op : TxnOp) (a : BitVec 48) : Request := { req with op := op, addr := a, data := [1, 2, 3, 4] }

theorem witness_writes : Meets (withReqs up [wr .wrAck (addrOf unitPIN 0)]) (fun s =>
        requestAt s 0 .wrAck = some (wr .wrAck (addrOf unitPIN 0)) ∧ accessCode s (wr .wrAck (addrOf unitPIN 0)) 4 = none
        ∧ inBridge s unitPIN 0 = false ∧ 0 < (writeTarget s (wr .wrAck (addrOf unitPIN 0))).1.txn.reqs.length)
    ∧ Meets (withReqs up [wr .wrPosted (addrOf unitPIN 0)]) (fun s =>
        requestAt s 0 .wrPosted = some (wr .wrPosted (addrOf unitPIN 0))
        ∧ (writeTarget s (wr .wrPosted (addrOf unitPIN 0))).2 = codeOK
        ∧ 0 < (writeTarget s (wr .wrPosted (addrOf unitPIN 0))).1.txn.reqs.length)
    ∧ Meets (withReqs up [wr .wrPosted (addrOf 0xFF 0)]) (fun s =>
        requestAt s 0 .wrPosted = some (wr .wrPosted (addrOf 0xFF 0))
        ∧ accessCode s (wr .wrPosted (addrOf 0xFF 0)) 4 = some codeADDR_ERROR ∧ flag s F.SYS_PFL_CFG_MQ_EN = false)
    ∧ Meets (withReqs up [{ wr .wrPosted (addrOf 0xFF 0) with local_ := false, who := .ring 2 false 1, node := 2 }]) (fun s =>
        (requestAt s 0 .wrPosted).isSome = true) := by decide +kernel

theorem witness_rmw : Meets (withReqs up [{ wr .rmwSet (addrOf unitPIN 0) with wide := true }]) (fun s =>
        requestAt s 0 .rmwSet = some { wr .rmwSet (addrOf unitPIN 0) with wide := true }
        ∧ accessCode s { wr .rmwSet (addrOf unitPIN 0) with wide := true } 8 = none
        ∧ (readAt s unitPIN 0 8 false).2.2 = codeOK)
    ∧ Meets (withReqs up [wr .rmwSwap (addrOf unitSYS 0)]) (fun s =>
        (requestAt s 0 .rmwSwap).isSome = true ∧ (readAt s unitSYS 0 4 false).2.2 = codeOK) := by decide +kernel

/-- A fence of a ring station that has waited, and one behind a request of its own source. -/
def fenceOf (n : Nat) : Request := { req with local_ := false, who := .ring n true 1, node := n, side := true, op := .fence }

theorem witness_fences : Meets (withReqs up [fenceOf 2]) (fun s => s.txn.reqs[0]? = some (fenceOf 2) ∧ txnRuns s = true)
    ∧ Meets (withReqs up [{ fenceOf 2 with op := .rd }, { fenceOf 2 with waiting := true }]) (fun s =>
        s.txn.reqs[1]? = some { fenceOf 2 with waiting := true } ∧ { fenceOf 2 with op := .rd } ∈ s.txn.reqs.take 1
        ∧ sameSource { fenceOf 2 with op := .rd } { fenceOf 2 with waiting := true } = true)
    ∧ Meets (withReqs up [{ fenceOf 2 with waiting := true }]) (fun s =>
        s.txn.reqs[0]? = some { fenceOf 2 with waiting := true } ∧ mayExecute s 0 { fenceOf 2 with waiting := true } = true) := by
  decide +kernel

/-- A hub with one tag free, and one with none. -/
def oneTag : State := up.withTxn { up.txn with holdout := upTo 255 }
def noTag : State := up.withTxn { up.txn with holdout := upTo 256 }

/-- A read of four bytes. -/
def spec : TxnSpec := ⟨.rd, 0, false, false, false, false, 4, []⟩

theorem oneTag_free : freeTags oneTag = [255] ∧ freeTags noTag = [] := by decide +kernel

theorem witness_issue : pickTag oneTag .mgt = some 255 ∧ pickTag noTag .pol = none
    ∧ Meets oneTag (fun s => txnRuns s = true ∧ (∀ e ∈ s.txn.tags, e.tag ≠ 255) ∧ s.odw.addr = [] ∧ s.txn.waiting = []
        ∧ targetsSelf s spec = true ∧ targetsSelf s { spec with addr := BitVec.ofNat 48 (2 * 2 ^ 40) } = false
        ∧ nodeOfAddr spec.addr = 0 ∧ { spec with x := true, ts := true }.ts ≠ s.dev.side)
    ∧ nodeOfAddr (BitVec.ofNat 48 (255 * 2 ^ 40)) = 255 ∧ isReserved spec.op = false := by
  have hl : tagLimit oneTag .mgt ≠ 0 := by decide +kernel
  refine ⟨?_, ?_, by decide +kernel, by decide +kernel, by decide +kernel⟩
  · rw [pickTag]
    simp only [oneTag_free.1]
    have : tagsOf oneTag .mgt = 0 := by decide +kernel
    simp [this, hl, Nat.mod_one]
  · simp [pickTag, oneTag_free.2]

/-- A waiting request that finds no tag waits on. -/
theorem witness_waiting : (grantWaiting (noTag.withTxn { noTag.txn with waiting := [(.svc, spec)] })).txn.waiting.any
    (fun w => w.1 = .svc) = true := by decide +kernel

theorem witness_tagGrant : Meets (oneTag.withTxn { oneTag.txn with waiting := [(.svc, spec)] }) (fun s =>
    txnRuns s = true ∧ s.txn.waiting = [(.svc, spec)]) := by decide +kernel

/-- A request of node 2 for this hub: a read of one byte, tag 5, of initiator 1, number 9. -/
def reqFrame : LocalFrame :=
  ⟨0, 0, { blank with type := 3, destNode := 1, srcNode := 2, typeSpecific := 9 * 2 ^ 16
                      tsOrTxn := 5 * 2 ^ 56 + 1 * 2 ^ 48 }⟩

/-- A hub that holds it. -/
def asked (s : State) (l : LocalFrame) : State := s.withRing { s.ring with heldReq := [l] }

theorem witness_ringRequests : Meets (asked alone reqFrame) (fun s => txnRuns s = true ∧ s.ring.heldReq = [reqFrame]
        ∧ s.ring.waitReq = [] ∧ reqFrame.frame.destNode ≠ 255
        ∧ requestsHeld s < 128 ∧ executes s (requestOf reqFrame) = true ∧ isReserved (requestOf reqFrame).op = false
        ∧ reqFrame.frame.destUnit.toNat = unitOfAddr (requestOf reqFrame).addr ∧ reqFrame.frame.clr = false
        ∧ (seqRxOf s 2 false).own = none)
    ∧ Meets (asked up reqFrame) (fun s => requestRoom s = true ∧ executes s (requestOf reqFrame) = false)
    ∧ Meets (asked alone { reqFrame with frame := { reqFrame.frame with clr := true } }) (fun s => openRing s = false
        ∧ executes s (requestOf reqFrame) = true ∧ (seqRxOf s 2 false).own = none)
    ∧ Meets (((List.range 32).foldl (fun (t : State) n => t.withPlaza { t.plaza with
            frames := t.plaza.frames ++ [{ held with fid := n, cells := [], body := .eth [], inPort := 98 }] })
          (up.withTxn { up.txn with reqs := List.replicate 128 (fenceOf 2), refusals := upTo 32 }))) (fun s =>
        requestRoom s = false)
    ∧ Meets (setSeqRx (asked alone reqFrame) { seqRxOf alone 2 false with own := some 0x800A }) (fun s =>
        (seqRxOf s 2 false).own = some 0x800A ∧ ((9 : BitVec 16) - 0x800A).toNat < 32768) := by decide +kernel

/-- A response to tag 7 of the management complex, and a posted fault of initiator 4. -/
def rspFrame : LocalFrame :=
  ⟨0, 0, { blank with type := 4, destNode := 1, srcNode := 2, tsOrTxn := 7 * 2 ^ 56 + 1 * 2 ^ 48, payload := [1, 2, 3, 4] }⟩
def pflFrame : LocalFrame := ⟨0, 0, { blank with type := 9, destNode := 1, srcNode := 2, tsOrTxn := 4 * 2 ^ 48 }⟩
def told (s : State) (l : LocalFrame) : State := s.withRing { s.ring with held := [l] }

theorem witness_responses : Meets (told (withReqs up [req]) rspFrame) (fun s =>
        s.ring.held.find? (fun x => x.frame.type = tyTXN_RSP) = some rspFrame ∧ txnRuns s = true
        ∧ forThisSide s rspFrame.frame = true ∧ s.odw.addr = []
        ∧ s.txn.tags.find? (fun x => x.tag = bitsAt rspFrame.frame.tsOrTxn.toNat 56 8
          && initiatorOf x.who = bitsAt rspFrame.frame.tsOrTxn.toNat 48 8
          && x.addr.toNat = bitsAt rspFrame.frame.tsOrTxn.toNat 0 48) = some (tagOf req)
        ∧ (∀ x ∈ s.txn.tags, x.tag = req.tag → x = tagOf req))
    ∧ Meets (told up rspFrame) (fun s => s.txn.tags.find? (fun x => x.tag = 7) = none
        ∧ forThisSide s rspFrame.frame = true)
    ∧ Meets (told (up.withDev { up.dev with side := true }) rspFrame) (fun s => forThisSide s rspFrame.frame = false)
    ∧ Meets (told up pflFrame) (fun s => s.ring.held.find? (fun x => x.frame.type = tyPOST_FAULT) = some pflFrame
        ∧ forThisSide s pflFrame.frame = true ∧ flag s F.SYS_PFL_CFG_MQ_EN = false) := by decide +kernel

theorem witness_timeouts : Meets (timed (withReqs up [req]) (.txn 7)) (fun s =>
        s.txn.tags.find? (fun x => x.tag = 7) = some (tagOf req) ∧ due s (.txn 7) = true ∧ s.odw.addr = [])
    ∧ Meets (startTimer up (.txn 255) 1) (fun s => due s (.txn 255) = false)
    ∧ Meets (timed (up.withTxn { up.txn with holdout := [255] }) (.holdout 255)) (fun s => due s (.holdout 255) = true)
    ∧ Meets up (fun s => due s (.holdout 0) = false) := by decide +kernel

/-- A transfer on I2C bus 15, and ones on MDIO bus 1: clause-22 reads and writes. -/
def i2cReq : Request := { req with addr := addrOf unitI2B (2 ^ 30 + 15 * 2 ^ 26), waiting := true }
def mdioReq (op : TxnOp) : Request := { req with op := op, addr := addrOf unitI2B (2 ^ 31 + 2 ^ 29), count := 2, waiting := true }

theorem witness_bridge : (onBus (withReqs up [i2cReq]) 15).isSome = true ∧ (onBus (withReqs up [mdioReq .rd]) 17).isSome = true
    ∧ (onBus (withReqs up [mdioReq .wrAck]) 17).isSome = true := by decide +kernel

/-! ### Hypotheses that states meet: lanes and links -/

/-- A ring port in a state of bring-up. -/
def port (p st : Nat) : State := setBuState up p st

theorem witness_bringUp : Meets up (fun s => live s unitRNG = true ∧ hasPort s 2 = true ∧ buState s 2 = buDown
        ∧ portsAllowed s = true)
    ∧ Meets (timed (port 2 buCap) (.cap 2)) (fun s => hasPort s 2 = true ∧ buState s 2 = buCap ∧ due s (.cap 2) = true)
    ∧ Meets (timed (port 0 buRelock) (.relock 0)) (fun s => buState s 0 = buRelock ∧ due s (.relock 0) = true)
    ∧ Meets (port 0 buRelock) (fun s => live s unitRNG = true ∧ buState s 0 = buRelock ∧ due s (.relock 0) = false)
    ∧ Meets (timed (timed (port 1 buFrTrain) (.frTrain 1)) (.verify 1)) (fun s => live s unitRNG = true
        ∧ buState s 1 = buFrTrain ∧ due s (.frTrain 1) = true ∧ due s (.verify 1) = true)
    ∧ Meets (startTimer (port 1 buFrTrain) (.verify 1) 1) (fun s => due s (.verify 1) = false)
    ∧ Meets (port 2 buUp) (fun s => live s unitRNG = true ∧ hasPort s 2 = true ∧ buState s 2 = buUp)
    ∧ Meets (timed (timed (port 1 buStep) (.stepLimit 1)) (.verify 1)) (fun s => buState s 1 = buStep
        ∧ due s (.stepLimit 1) = true ∧ due s (.verify 1) = true ∧ (portSt s 1).falling = false ∧ peerCapState s 1 < 3) := by
  decide +kernel

/-- A lane with lock at its first marker period. -/
def synced : LaneRx := { LaneRx.reset with good := 3, lastCount := some 0 }

/-- A port in Cap with word lock. -/
def capped (p : Nat) : State :=
  let s := port p buCap
  setPortSt s p { portSt s p with lane0 := synced, lane1 := synced }

/-- Capability words: of the twin link, of version 0, and of a native peer of node 2. -/
def capTwin : BitVec 64 := withCrc8 (0xCA9B * 2 ^ 48 + 2 ^ 44 + 2 ^ 38)
def capOld : BitVec 64 := withCrc8 (0xCA9B * 2 ^ 48)
def capPeer : BitVec 64 := withCrc8 (0xCA9B * 2 ^ 48 + 2 ^ 44 + 2 * 2 ^ 28)

theorem witness_capability : Meets (capped 0) (fun s => live s unitRNG = true ∧ hasPort s 0 = true ∧ wordLock s 0 = true
        ∧ buState s 0 = buCap ∧ bitsAt capTwin.toNat 48 16 = 0xCA9B ∧ crc8Ok capTwin.toNat = true
        ∧ capTwin.getLsbD 38 ≠ decide (0 = 2))
    ∧ Meets (setFlag (capped 1) (F.RNG_PORT_CFG_FR_ALLOW 1) false) (fun s => wordLock s 1 = true ∧ buState s 1 = buCap
        ∧ crc8Ok capOld.toNat = true ∧ bitsAt capOld.toNat 44 4 = 0 ∧ flag s (F.RNG_PORT_CFG_FR_ALLOW 1) = false)
    ∧ Meets (timed (capped 1) (.cap 1)) (fun s => due s (.cap 1) = true) := by decide +kernel

/-- The line bits of a marker with a COUNT, and of one whose CRC-8 is wrong. -/
def markerLine (lane count : Nat) : List Bool := (stuff (false, 0) (wordBits (markerWord lane 0 count))).1
def badLine : List Bool := (stuff (false, 0) (wordBits (markerWord 1 0 5 ^^^ 1))).1

/-- What lane 1 of a port makes of a marker. -/
def heard (s : State) (p : Nat) (line : List Bool) (at_ : Bool) : State :=
  let l := laneRx s p 1
  let d := destuff l.run (line.map (fun b => b != bitF s (F.RNG_PORT_CFG_RX_POL p) 1))
  setLaneRx s p 1 { laneAfter l (bitsAt (lastWord d.1).toNat 8 12) at_ with run := d.2.2 }

/-- Port 0 in a state with lane 0 at COUNT 7 of a slot and lane 1 one marker before it. -/
def uneven (st : Nat) : State :=
  setPortSt (port 0 st) 0 { portSt (port 0 st) 0 with lane0 := { synced with slot := 1, lastCount := some 7 }, lane1 := synced }

theorem witness_lineCode : ((true, 39) : Run).2 < 40
    ∧ (destuff (false, 0) (markerLine 1 5)).1.length = 64 ∧ isMarker (lastWord (destuff (false, 0) (markerLine 1 5)).1).toNat = true
    ∧ isMarker (lastWord (destuff (false, 0) badLine).1).toNat = false
    ∧ (destuff (false, 0) (List.replicate 64 false)).1.length < 64 := by decide +kernel

theorem witness_placing : (7944 : Nat) ≤ periodFrames ∧ (⟨0, 8189, 7944⟩ : LineTx).used ≤ periodFrames := by decide

theorem witness_markers : Meets (port 0 buCap) (fun s => live s unitRNG = true ∧ hasPort s 0 = true ∧ buState s 0 ≠ buDown
        ∧ (laneRx s 0 1).good < 3 ∧ (laneRx s 0 1).run = (false, 0) ∧ bitF s (F.RNG_PORT_CFG_RX_POL 0) 1 = false
        ∧ countsDiffer (heard s 0 (markerLine 1 5) true) 0 = false)
    ∧ Meets (uneven buUp) (fun s => (laneRx s 0 1).good = 3 ∧ buState s 0 = buUp
        ∧ countsDiffer (heard s 0 (markerLine 1 1) true) 0 = true)
    ∧ Meets (uneven buCap) (fun s => buState s 0 ≠ buUp ∧ wordLock (heard s 0 (markerLine 1 7) true) 0 = true
        ∧ countsDiffer (heard s 0 (markerLine 1 7) true) 0 = false)
    ∧ Meets (capped 0) (fun s => wordLock s 0 = true ∧ (portSt s 0).ended = false ∧ bitsAt capPeer.toNat 48 16 = 0xCA9B
        ∧ crc8Ok capPeer.toNat = true ∧ capPeer.getLsbD 38 = decide (0 = 2) ∧ bitsAt capPeer.toNat 44 4 ≠ 0
        ∧ bitsAt capPeer.toNat 24 4 = 0 ∧ (portSt s 0).ownState = 0)
    ∧ wordAllowed (1 % 2 ^ 64) = false ∧ Meets (port 1 buFrTrain) (fun s => buState s 1 = buFrTrain) := by decide +kernel

/-- Access port 92, the first of lane 23, with its link up and its MAC enabled. -/
def linked (mode : Nat) : State :=
  setFlag (setBitF (setF up (F.ACC_LANE_CFG_MODE 23) mode) (F.ACC_LANE_STAT_LINK 23) 0 true) (F.ACC_MAC_CFG_EN 92) true

theorem witness_accessLinks : Meets up (fun s => live s unitACC = true ∧ 23 < s.ident.variant.accLanes
        ∧ laneMode s 23 ≠ (3 : BitVec 3).toNat)
    ∧ Meets (setPortState up 95 psHold) (fun s => 95 < s.ident.variant.accPorts ∧ portState s 95 = psHold ∧ portState s 0 = psDown)
    ∧ Meets (linked 4) (fun s => portInMode s 92 = true ∧ modeSpeed (laneMode s 23) 2 = false
        ∧ modeSpeed (laneMode s 23) 3 = true ∧ flag s (F.ACC_MAC_CFG_EN 92) = true ∧ portState s 92 = psDown)
    ∧ Meets (setPortState (linked 4) 92 psUp) (fun s => 92 < s.ident.variant.accPorts ∧ portState s 92 = psUp)
    ∧ Meets (setPortState (linked 4) 92 psFlushing) (fun s => portState s 92 = psFlushing)
    ∧ Meets (setPortState up 103 psFlushing) (fun s => portState s 103 = psFlushing)
    ∧ Meets (timed (setPortState up 95 psHold) (.hold 95)) (fun s => portState s 95 = psHold ∧ due s (.hold 95) = true) := by
  decide +kernel

/-! ### Hypotheses that states meet: the ring -/

/-- The own station's frame, one for this node from itself, one for it, a broadcast, one for another at its last hop. -/
theorem witness_frameTable : Meets up (fun s => s.dev.nodeId ≠ 0 ∧ s.dev.nodeId < 255 ∧ flag s F.RNG_STAT_DUP_ID = false
    ∧ fromSelf s { blank with srcNode := 1 } = true
    ∧ fromSelf s { blank with srcNode := 1, destNode := 1, side := true } = false
    ∧ fromSelf s { blank with destNode := 1 } = false ∧ reservedType { blank with destNode := 1 } = false
    ∧ fromSelf s { blank with destNode := 255 } = false ∧ fromSelf s { blank with hopLimit := 1 } = false
    ∧ reservedType blank = false ∧ reservedType { blank with type := 10 } = true ∧ fromSelf s { blank with type := 10 } = false) := by decide +kernel

/-- A hub with both ring ports in Up, and one that holds port 1 broken. -/
def cutting : State := setBuState (port 1 buUp) 0 buUp
def breakPort (s : State) (p : Nat) : State := setBitF s F.RNG_STAT_BROKEN p true

/-- The words of a frame sent in clear. -/
def words (f : RingFrame) (stomp : Bool) : List (BitVec 64) := frameWords (frameBytes up 1 f stomp)

/-- A frame that may leave while it arrives: two cells. -/
def twoCells : RingFrame := { blank with hopLimit := 2, payload := List.replicate 201 0 }

theorem witness_framesSent : blank.enc = false ∧ flag up (F.RNG_PORT_STAT_ENC 1) = false ∧ takesFrame up 1 (words blank false) none = false
    ∧ Meets (port 1 buUp) (fun s => takesFrame s 1 (words blank true) none = true
        ∧ (readWords s 1 (words blank true)).cause = some (F.RNG_PORT_STOMPED_COUNT 1) ∧ broken s 1 = false
        ∧ isKeepalive (readWords s 1 (words blank true)).frame = false ∧ 24 + blank.payload.length + 32 ≤ 256)
    ∧ Meets (breakPort (port 1 buUp) 1) (fun s => takesFrame s 1 (words blank true) none = true ∧ broken s 1 = true
        ∧ (readWords s 1 (words blank true)).cause = some (F.RNG_PORT_STOMPED_COUNT 1)) := by decide +kernel

/-- A bad frame whose copy leaves by the other port, whatever has been counted of it. -/
theorem witness_cutThrough : Meets cutting (fun s => takesFrame s 1 (words twoCells true) none = true
    ∧ (readWords s 1 (words twoCells true)).cause = some (F.RNG_PORT_STOMPED_COUNT 1) ∧ broken s 1 = false ∧ broken s 0 = false
    ∧ forwardsTransit s = true ∧ (readWords s 1 (words twoCells true)).frame = twoCells
    ∧ (let f := { twoCells with clr := true }
      let h := { f with hopLimit := 1 }
      (verdictOf s f).forward = some h ∧ (verdictOf s f).copy = false
      ∧ leavesEarly (captureFrame (incF (dropIngress s 6) (F.RNG_PORT_STOMPED_COUNT 1)) (ringStored s f 97 0) [(1023, 0, 6)])
          (ringStored s h 97 0) ⟨ringQueue 0 3 .transit, false, 0, false, none⟩ = true)) := by decide +kernel

theorem witness_framesReceived : Meets (port 1 buUp) (fun s =>
        let f := (readWords s 1 (words { blank with hopLimit := 1 } false)).frame
        takesFrame s 1 (words { blank with hopLimit := 1 } false) none = true ∧ isKeepalive f = false
        ∧ (readWords s 1 (words { blank with hopLimit := 1 } false)).cause = none ∧ broken s 1 = false ∧ s.ring.relayPort = none
        ∧ fromSelf s f = false ∧ forUnassigned s f = false ∧ reservedType f = false
        ∧ f.destNode.toNat ≠ s.dev.nodeId ∧ f.destNode ≠ 255 ∧ f.hopLimit.toNat ≤ 1)
    ∧ Meets (breakPort (port 1 buUp) 1) (fun s => takesFrame s 1 (words blank false) none = true ∧ broken s 1 = true
        ∧ (readWords s 1 (words blank false)).cause = none ∧ s.ring.relayPort ≠ some 1)
    ∧ Meets up (fun s => isKeepalive (readWords s 1 (words { blank with type := 7 } false)).frame = true) := by
  decide +kernel

theorem witness_added : Meets (setFlag up (F.RNG_DMAP_BLOCK 0 254) true) (fun s => live s unitRNG = true
        ∧ actsUnassigned s = false ∧ flag s (F.RNG_DMAP_BLOCK (dmapBank s) 254) = true)
    ∧ Meets (setBitF (setBitF up F.RNG_STAT_BROKEN 0 true) F.RNG_STAT_BROKEN 1 true) (fun s => actsUnassigned s = false
        ∧ flag s (F.RNG_DMAP_BLOCK (dmapBank s) 2) = false ∧ broken s 0 = true ∧ broken s 1 = true)
    ∧ Meets (up.withDev { up.dev with nodeId := 0 }) (fun s => actsUnassigned s = true ∧ mayAddUnassigned blank = false)
    ∧ Meets up (fun s => live s unitRNG = true ∧ actsUnassigned s = false ∧ blockedNode s 2 = false ∧ isAnnouncement blank = false
        ∧ broken s 0 = false ∧ broken s 1 = false ∧ blank.cls ≠ 7 ∧ 254 ≠ s.dev.nodeId
        ∧ getF s (F.RNG_DMAP_DIR (dmapBank s) 254) = 0 ∧ hopsTo s 254 true = none ∧ hopsTo s 254 false = none) := by
  decide +kernel

/-- An entry of the ring map: node 2 side B, one hop East, three West. -/
def entry (node : Nat) : RingEntry where
  node := node
  side := true
  reachE := true
  reachW := true
  hopsE := 1
  hopsW := 3
  role := 0
  flags := 0
  uid := 9
  lastUs := 0
  copied := 0
  c7Acc := 0
  c7Dup := 0
  gaps := 0
  lastSeqE := none
  lastSeqW := none
  lastAllE := none
  lastAllW := none
  prio := 0
  tbFlags := 0
  masterNode := 0
  masterSide := false
  tb1Prio := 0
  masterHops := 0

/-- A hub that knows these entries. -/
def mapped (s : State) (es : List RingEntry) : State := s.withRing { s.ring with map := es }

theorem witness_directions : Meets (mapped up [entry 2]) (fun s => hopsTo s 2 false = some 1 ∧ hopsTo s 2 true = some 3)
    ∧ Meets (mapped up [{ entry 2 with reachE := false }]) (fun s => hopsTo s 2 false = none ∧ hopsTo s 2 true ≠ none) := by
  decide +kernel

/-- Numbers around the highest, 5: one ahead, the last of the ahead ones, the 64th back, the first too old, the opposite. -/
theorem witness_class7 : 0 < ((6 : BitVec 16) - 5).toNat ∧ ((0x8004 : BitVec 16) - 5).toNat < 32768
    ∧ ((5 : BitVec 16) - 0xFFC6).toNat < 64 ∧ 64 ≤ ((5 : BitVec 16) - 0xFFC5).toNat
    ∧ ((5 : BitVec 16) - 0x8005).toNat ≤ 32768 ∧ (class7Check (some (5, 1)) 6).1 = 0 ∧ (0xFFC6 : BitVec 16) ≠ 5 := by decide +kernel

/-- Announcements of node 2, of an unassigned hub, and of a hub with this one's node and another unit ID. -/
def announce (src : BitVec 8) : LocalFrame :=
  ⟨1, 0, { blank with type := 7, srcNode := src, typeSpecific := 2 ^ 44, hopLimit := 254, payload := beBytes 8 9 }⟩

theorem witness_ringMap : Meets (told up (announce 2)) (fun s =>
        s.ring.held.find? (fun x => isAnnouncement x.frame) = some (announce 2) ∧ live s unitRNG = true
        ∧ isOwn s 2 false = false ∧ findEntry s 2 false = none ∧ running s (.holddown 2 false true) = false)
    ∧ Meets (told up (announce 0)) (fun s => s.ring.held.find? (fun x => isAnnouncement x.frame) = some (announce 0)
        ∧ isOwn s 0 false = false)
    ∧ Meets (told up (announce 1)) (fun s => isOwn s 1 false = true
        ∧ BitVec.ofNat 64 (ofBe ((announce 1).frame.payload.take 8)) ≠ s.ident.uid)
    ∧ Meets (timed (mapped up [{ entry 255 with reachE := false }]) (.reach 255 true true)) (fun s =>
        due s (.reach 255 true true) = true ∧ findEntry s 255 true = some { entry 255 with reachE := false })
    ∧ Meets (timed (mapped up [entry 2]) (.reach 2 true false)) (fun s => due s (.reach 2 true false) = true
        ∧ (findEntry s 2 true).isSome = true)
    ∧ Meets (timed (timed up .dupId) .announce) (fun s => due s .dupId = true ∧ live s unitRNG = true
        ∧ s.dev.stage = .ringReady ∧ due s .announce = true) := by decide +kernel

/-- A keepalive as words: of a peer that is broken or not; encrypted under the zero key, by counter 0 or with a wrong tag. -/
def ka (state : Nat) : RingFrame :=
  { blank with type := 7, cls := 6, hopLimit := 1, typeSpecific := BitVec.ofNat 48 (state * 2 ^ 40), payload := beBytes 8 0 }
def sealed_ (key : BitVec 256) : State :=
  setFlag (setPortSt (port 0 buUp) 0 { portSt up 0 with keys := some ⟨key, 0, key, 0, 0⟩ }) (F.RNG_PORT_STAT_ENC 0) true
def sealedKa (key : BitVec 256) : List (BitVec 64) := frameWords (frameBytes (sealed_ key) 0 { ka 0 with enc := true } false)

theorem witness_keepalives : Meets (timed (timed (port 1 buUp) (.ka 1)) (.kaTick 1)) (fun s => live s unitRNG = true
        ∧ stationRuns s = true ∧ buState s 1 = buUp ∧ due s (.ka 1) = true ∧ flag s (F.RNG_PORT_STAT_ENC 1) = false
        ∧ broken s 1 = false ∧ due s (.kaTick 1) = true ∧ (portSt s 1).kaSeen = false ∧ (portSt s 1).kaMissed + 1 < kaMissLimit s
        ∧ takesFrame s 1 (words (ka 0) false) none = true ∧ isKeepalive (readWords s 1 (words (ka 0) false)).frame = true
        ∧ (readWords s 1 (words (ka 0) false)).cause = none
        ∧ tsBits (readWords s 1 (words (ka 0) false)).frame 40 4 ≠ 1
        ∧ tsBits (readWords s 1 (words (ka 1) false)).frame 40 4 = 1 ∧ (portSt s 1).portState = 0)
    ∧ Meets (let s := timed (port 0 buUp) (.kaTick 0); setPortSt s 0 { portSt s 0 with kaMissed := kaMissLimit s - 1 }) (fun s =>
        kaMissLimit s ≤ (portSt s 0).kaMissed + 1 ∧ due s (.kaTick 0) = true ∧ (portSt s 0).kaSeen = false)
    ∧ Meets (let s := timed (port 0 buUp) (.kaTick 0); setPortSt s 0 { portSt s 0 with kaSeen := true }) (fun s =>
        (portSt s 0).kaSeen = true ∧ due s (.kaTick 0) = true) := by decide +kernel

theorem witness_sealedKeepalives : Meets (sealed_ 0) (fun s => flag s (F.RNG_PORT_STAT_ENC 0) = true ∧ broken s 0 = false
    ∧ takesFrame s 0 (sealedKa 0) none = true ∧ isKeepalive (readWords s 0 (sealedKa 0)).frame = true
    ∧ (readWords s 0 (sealedKa 0)).cause = none ∧ (readWords s 0 (sealedKa 0)).counter = 0 ∧ (portSt s 0).rxExpect ≤ 0
    ∧ (readWords s 0 (sealedKa 1)).cause = some (F.RNG_PORT_TAG_FAIL_COUNT 0)) := by decide +kernel

/-- WRAP notices of node 2 side B: event 1, and event 0 for its port East. -/
def wrap (event : Nat) : RingFrame := { blank with type := 8, srcNode := 2, side := true, typeSpecific := BitVec.ofNat 48 (event * 2 ^ 45) }

theorem witness_wraps : Meets up (fun s => live s unitRNG = true ∧ broken s 1 = false)
    ∧ Meets (told up ⟨0, 0, wrap 1⟩) (fun s => s.ring.held.find? (fun x => x.frame.type = tyWRAP) = some ⟨0, 0, wrap 1⟩
        ∧ tsBits (wrap 1) 45 2 = 1)
    ∧ Meets (holdDown up (255, true, true) (2, true, false)) (fun s => running s (.holddown 255 true true) = true
        ∧ ((255, true, true), ((wrap 1).srcNode.toNat, (wrap 1).side, decide (tsBits (wrap 1) 47 1 = 1))) ∈ s.ring.heldDown)
    ∧ Meets (mapped up [entry 2, { entry 3 with hopsE := 2 }]) (fun s => tsBits (wrap 0) 45 2 ≠ 1
        ∧ findEntry s (wrap 0).srcNode.toNat (wrap 0).side = some (entry 2)
        ∧ (s.ring.map.map (fun e => (e.node, e.side))).Nodup ∧ { entry 3 with hopsE := 2 } ∈ s.ring.map ∧ isOwn s 3 true = false)
    ∧ Meets (timed up (.holddown 255 true true)) (fun s => due s (.holddown 255 true true) = true)
    ∧ Meets (timed (setBitF (port 1 buUp) F.RNG_STAT_BROKEN 1 true) (.healHold 1)) (fun s => broken s 1 = true
        ∧ buState s 1 = buUp ∧ due s (.healHold 1) = true ∧ heldBroken s 1 = false) := by decide +kernel

/-! ### Hypotheses that states meet: Plaza -/

/-- A hub in which queue `q` holds that frame. -/
def queued (s : State) (q : Nat) (f : PlzFrame) : State :=
  s.withPlaza { s.plaza with frames := [f], nextFid := 1, queues := [(q, [ref 0 false])] }

theorem witness_admission : Meets (setPortState up 92 psUp) (fun s => live s unitPLZ = true
        ∧ frameOf s s.plaza.nextFid = none ∧ admitReason s (8 * 92) 0 = 0 ∧ cellsFit s (8 * 92) 0 (cellsFor 60) = true)
    ∧ Meets up (fun s => frameOf s s.plaza.nextFid = none ∧ admitReason s (8 * 92) 0 ≠ 0
        ∧ queuePort s 1023 = getF s (F.PLZ_SQ_CFG_PORT 191)) := by decide +kernel

/-- Frames as they arrive: too short, untagged, a PAUSE. -/
def short : List Byte := List.replicate 59 0
def plain : List Byte := List.replicate 60 0
def pause (quanta : Nat) : List Byte := List.replicate 12 0 ++ beBytes 2 0x8808 ++ beBytes 2 1 ++ beBytes 2 quanta ++ List.replicate 42 0

theorem witness_access : Meets (linked 4) (fun s => live s unitPLZ = true ∧ linkUp s 92 = true ∧ short.length + 4 < 64
        ∧ 64 ≤ plain.length + 4 ∧ plain.length + 4 ≤ maxLen s 92 ∧ isPause plain = false ∧ (splitTag plain).1 = none)
    ∧ Meets (setFlag (linked 4) (F.ACC_MAC_VLAN_ACCEPT_UNTAGGED 92) false) (fun s => linkUp s 92 = true
        ∧ flag s (F.ACC_MAC_VLAN_ACCEPT_UNTAGGED 92) = false)
    ∧ Meets (setFlag (linked 4) (F.ACC_MAC_CFG_RX_PAUSE_EN 92) true) (fun s => linkUp s 92 = true ∧ beAt (pause 5) 14 2 = 1
        ∧ flag s (F.ACC_MAC_CFG_PFC_EN 92) = false ∧ flag s (F.ACC_MAC_CFG_RX_PAUSE_EN 92) = true)
    ∧ Meets (timed (timed up (.pause 95 6)) (.pauseTx 95 8)) (fun s => due s (.pause 95 6) = true
        ∧ (upTo 9).all (fun k => due s (.pauseTx 95 k) == decide (k = 8)) = true ∧ pauseWanted s 95 8 = false)
    ∧ Meets (setF (timed up (.pauseTx 95 0)) (F.PLZ_PORT_STAT_XOFF_TX 95) 1) (fun s => pauseWanted s 95 0 = true
        ∧ (upTo 9).all (fun k => due s (.pauseTx 95 k) == decide (k = 0)) = true)
    ∧ Meets (setF (timed up (.pauseTx 95 8)) (F.PLZ_PORT_STAT_XOFF_TX 95) 1) (fun s => pauseWanted s 95 8 = true)
    ∧ Meets up (fun s => (upTo 9).all (fun k => !due s (.pauseTx 95 k))) := by decide +kernel

/-- A bad frame long enough to leave while it arrives, and the port it leaves by. -/
theorem witness_accessCutOff : Meets (setPortState (setBitF (setFlag (linked 3) (F.ACC_MAC_CFG_EN 93) true)
      (F.ACC_LANE_STAT_LINK 23) 1 true) 93 psUp) (fun s =>
    eligibleEarly s 92 93 = true ∧ leavesEarly s { held with body := .eth (List.replicate 300 0), inPort := 92 }
      ⟨8 * 93, false, 0, false, none⟩ = true) := by decide +kernel

/-- Access port 92 and ring port West with a frame to send, in class 7, 6 and 0. -/
theorem witness_service : Meets (queued (setPortState (linked 4) 92 psUp) (8 * 92 + 7) { held with cls := 7 }) (fun s =>
        nextInClass s 92 7 = some (8 * 92 + 7) ∧ portReady s 92 = true ∧ (nextQueue s 92).1 = some (8 * 92 + 7)
        ∧ readyRef (nextQueue s 92).2 (8 * 92 + 7) = some (ref 0 false) ∧ (frameOf (nextQueue s 92).2 0).isSome = true)
    ∧ Meets (queued (setPortState (linked 4) 92 psUp) (8 * 92 + 6) { held with cls := 6 }) (fun s =>
        nextInClass s 92 7 = none ∧ nextInClass s 92 6 = some (8 * 92 + 6))
    ∧ Meets (setPortState (linked 4) 92 psUp) (fun s => live s unitPLZ = true ∧ portReady s 92 = true
        ∧ (nextQueue s 92).1 = none)
    ∧ Meets (queued (port 1 buUp) (8 * 97 + 7) { held with cls := 7, body := .ring blank, outPort := 97 }) (fun s =>
        portReady s 97 = true ∧ (nextQueue s 97).1 = some (8 * 97 + 7) ∧ (sealNonce (nextQueue s 97).2 1).1 = true
        ∧ readyRef (sealNonce (nextQueue s 97).2 1).2 (8 * 97 + 7) = some (ref 0 false)
        ∧ (frameOf (sealNonce (nextQueue s 97).2 1).2 0).isSome = true) := by decide +kernel

/-- A ring port that may not seal: its segment is encrypted and its nonces are used up. -/
def unsealed : State :=
  queued (setFlag ((port 1 buUp).withCip { Cipher.reset with exhausted := [1] }) (F.RNG_PORT_STAT_ENC 1) true) (8 * 97 + 7)
    { held with cls := 7, body := .ring blank, outPort := 97 }

theorem witness_sealNonce : Meets unsealed (fun s => portReady s 97 = true ∧ (nextQueue s 97).1 = some (8 * 97 + 7)
    ∧ (sealNonce (nextQueue s 97).2 1).1 = false) := by decide +kernel

theorem witness_residency : Meets (queued up 1023 held) (fun s => live s unitPLZ = true ∧ queueRefs s 1023 = [ref 0 false]
        ∧ frameOf s 0 = some held ∧ frameAge s held < resLimit s)
    ∧ Meets (queued (up.withTime { up.time with bases := ⟨0, 0, 10000000 * 2 ^ 32, 0⟩ }) 1023 held) (fun s =>
        frameOf s 0 = some held ∧ resLimit s ≤ frameAge s held)
    ∧ Meets (timed up .age) (fun s => due s .age = true ∧ getF s F.PLZ_LRN_CFG_AGE_S ≠ 0 ∧ dynamicEntries s = []) := by
  decide +kernel

/-! ### Hypotheses that states meet: the Junction and the message queues -/

/-- The Junction on, with a message of a bus frame and an emission for message queue 255. -/
def jctMsg : JctMsg := ⟨1, 0, 0x123, false, [1, 2], 0⟩
def jctUp : State := setFlag up F.JCT_CFG_EN true
def withMsg (s : State) : State := s.withJct { s.jct with inbox := [jctMsg] }

/-- The key entry of that message with first route 5. -/
def keyed : State :=
  memPut (withMsg jctUp) (keyAddr (activeBank jctUp 2) (4 * jctBucket 1 0 0x123 + 3)) 8 (1 + 5 * 2 ^ 11 + 0x123 * 2 ^ 32)

theorem witness_junctionMessages : Meets (withMsg (setFlag up F.JCT_CFG_EN false)) (fun s => live s unitJCT = true
        ∧ s.jct.inbox = [jctMsg] ∧ flag s F.JCT_CFG_EN = false)
    ∧ Meets (withMsg jctUp) (fun s => flag s F.JCT_CFG_EN = true ∧ s.flt.eccWords = [] ∧ lookupMsg s jctMsg = none)
    ∧ Meets keyed (fun s => s.flt.eccWords = [] ∧ lookupMsg s jctMsg = some (4 * jctBucket 1 0 0x123 + 3)
        ∧ (pipeOf s ((4 * jctBucket 1 0 0x123 + 3) % 4)).received.length < 64)
    ∧ Meets (setPipe keyed 3 ⟨[], List.replicate 64 ⟨0, 0, 1, jctMsg, false, false, 0, 0⟩, true⟩) (fun s =>
        lookupMsg s jctMsg = some (4 * jctBucket 1 0 0x123 + 3)
        ∧ 64 ≤ (pipeOf s ((4 * jctBucket 1 0 0x123 + 3) % 4)).received.length) := by decide +kernel

/-- A run of route 5, which is the last of its list. -/
def jctRun : JctRun := ⟨3, 5, 1, jctMsg, false, false, 0, 0⟩
def running5 (w0 : Nat) : State := memPut (setPipe jctUp 3 ⟨[], [jctRun], true⟩) (routeAddr false 5) 8 w0

/-- What the pipeline takes, and what its route says. -/
def took (s : State) (p : Route → Bool) : Bool :=
  match takeRun (discardLate (skipTimed s 3) 3) 3 with
  | (some r, u) => r = jctRun && u.flt.eccWords.isEmpty && (readRoute u r.routeBank r.first).last && p (readRoute u r.routeBank r.first)
      && decide ((readRoute u r.routeBank r.first).valid = false
        ∨ routeError (incF u F.JCT_STEPS_COUNT) r (readRoute u r.routeBank r.first) [] < 8)
  | (none, _) => false

theorem witness_listRun : took (running5 (2 ^ 27)) (fun r => !r.valid) = true ∧ took (running5 (2 ^ 27 + 1)) Route.valid = true
    ∧ Meets jctUp (fun s => live s unitJCT = true ∧ (takeRun (discardLate (skipTimed s 3) 3) 3).1 = none) := by decide +kernel

/-- An emission that came at tick 0, for message queue 255. -/
def emission : Emission := ⟨5, 255, 0, 0, [1, 2, 3, 4], true, 0, false, false⟩

/-- Message queue 255 on, with slot 3 for a producer. -/
def queueOn (prod consumer : Nat) : State :=
  let s := setFlag (setF up (F.MQ_Q_CFG_CONSUMER 255) consumer) (F.MQ_Q_CFG_EN 255) true
  setFlag (setF (setF s (F.MQ_Q_PROD_PRODUCER 255 3) prod) (F.MQ_Q_PROD_CREDIT 255 3) 33) (F.MQ_Q_PROD_VALID 255 3) true

def emitting (s : State) : State := s.withJct { s.jct with emissions := [emission] }

theorem witness_emissions : Meets (emitting (queueOn 4 0)) (fun s => s.jct.emissions[0]? = some emission ∧ live s unitJCT = true
        ∧ emissionLate s emission = false ∧ mayProduce s 255 4 4 = true)
    ∧ Meets (emitting (up.withMono 1001)) (fun s => emissionLate s emission = true) := by decide +kernel

theorem witness_pushes : Meets (queueOn 0 0) (fun s => mqReady s 255 = true ∧ (queueOf s 255).push = none
        ∧ bitsAt (1024 : Word).toNat 0 11 = 1024 ∧ mayProduce s 255 0 1024 = true ∧ bitsAt (3 : Word).toNat 0 11 < 4)
    ∧ Meets (queueOn 7 0) (fun s => mayProduce s 255 0 1024 = false)
    ∧ Meets (timed (setQueue (queueOn 0 0) 255 { MQueue.reset with push := some ⟨.mgt, 8, 7, [1]⟩ }) (.push 255)) (fun s =>
        mqReady s 255 = true ∧ (queueOf s 255).push = some ⟨.mgt, 8, 7, [1]⟩ ∧ Origin.mgt ≠ Origin.ring 2 false 1
        ∧ due s (.push 255) = true ∧ ([1] : List Byte) ≠ [] ∧ 8 ≠ ([1] : List Byte).length) := by decide +kernel

/-- A queue with messages of two priorities, for software, and for an Arcade engine. -/
def filled (consumer : Nat) (bs : List Byte) : State :=
  setQueue (queueOn 1 consumer) 255 { MQueue.reset with msgs := [⟨0, 1, 1, bs⟩, ⟨7, 1, 2, bs⟩] }

theorem witness_pops : Meets (filled 0 [1, 2, 3, 4]) (fun s => mqReady s 255 = true ∧ getF s (F.MQ_Q_CFG_CONSUMER 255) ≠ 1
        ∧ getF s (F.MQ_Q_CFG_CONSUMER 255) ≠ 2 ∧ flag s (F.MQ_Q_CFG_EN 255) = true ∧ s.flt.eccWords = [])
    ∧ Meets up (fun s => mqReady s 0 = true ∧ flag s (F.MQ_Q_CFG_EN 0) = false ∧ bitsAt (0x1FFF : Word).toNat 13 15 ≤ unreserved s
        ∧ ((upTo 4).map (fun k => if flag s (F.MQ_Q_PROD_VALID 0 k) then getF s (F.MQ_Q_PROD_CREDIT 0 k) else 0)).sum
            ≤ bitsAt (0x1 : Word).toNat 13 15
        ∧ bitsAt (0x1 : Word).toNat 1 2 ≠ 2 ∧ unreserved s < bitsAt (0xFFFFFFFF : Word).toNat 13 15)
    ∧ Meets (queueOn 7 0) (fun s => mayProduce s 255 7 1024 = true ∧ mayProduce s 255 1 4 = false) := by decide +kernel

theorem witness_arcadeSink : Meets (filled 2 [1, 2, 3, 4]) (fun s => mqReady s 255 = true ∧ live s unitARC = true
        ∧ getF s (F.MQ_Q_CFG_CONSUMER 255) = 2 ∧ nextMsg (queueOf s 255).msgs = some ⟨7, 1, 2, [1, 2, 3, 4]⟩
        ∧ s.flt.eccWords = [] ∧ (pushWords s (getF s (F.MQ_Q_CFG_ENGINE 255)) (wordsOf 8 [1, 2, 3, 4])).isSome = true)
    ∧ Meets (filled 2 [1, 2, 3, 4, 5]) (fun s => nextMsg (queueOf s 255).msgs = some ⟨7, 1, 2, [1, 2, 3, 4, 5]⟩)
    ∧ Meets (setEngine (filled 2 [1, 2, 3, 4]) 0 { Engine.reset with txf := List.replicate 8 0 }) (fun s =>
        pushWords s (getF s (F.MQ_Q_CFG_ENGINE 255)) (wordsOf 8 [1, 2, 3, 4]) = none) := by decide +kernel

theorem witness_poll : Meets (memPut ((queueOn 2 0).withTxn { up.txn with polled := [⟨255, 0, 2 ^ 64 - 1, 0⟩] }) (pollAddr 255) 4
      (255 * 2 ^ 8)) (fun s => s.txn.polled.find? (fun p => p.entry = 255) = some ⟨255, 0, 2 ^ 64 - 1, 0⟩
        ∧ live s unitMQ = true ∧ s.flt.eccWords = [] ∧ bitAt (pollWord s 255 8) 0 = false
        ∧ mayProduce s (bitsAt (pollWord s 255 0) 8 8) 2 24 = true)
    ∧ Meets (memPut ((queueOn 2 0).withTxn { up.txn with polled := [⟨255, 15, 0, 0⟩] }) (pollAddr 255) 4 (255 * 2 ^ 8)) (fun s =>
        s.txn.polled.find? (fun p => p.entry = 255) = some ⟨255, 15, 0, 0⟩ ∧ (15 : Nat) ≠ codeOK
        ∧ 15 ≠ bitsAt (pollWord s 255 8) 1 4 ∧ s.flt.eccWords = []
        ∧ mayProduce s (bitsAt (pollWord s 255 0) 8 8) 2 24 = true)
    ∧ Meets (setBitF (up.withTxn { up.txn with polled := [⟨255, 0, 0, 0⟩] }) F.SYS_UNIT_FLTFENCE_UNITS unitMQ true) (fun s =>
        s.txn.polled.find? (fun p => p.entry = 255) = some ⟨255, 0, 0, 0⟩ ∧ live s unitMQ = false) := by decide +kernel

/-! ### Hypotheses that states meet: bus channels -/

/-- Channel 15 on, in a state; its identifier filter list belongs to channels 0 and 1 alone. -/
def busUp (st : Nat) : State := setF (setFlag alone (F.BUS_CH_CFG_EN 15) true) (F.BUS_CH_STAT_STATE 15) st

/-- A classical frame. -/
def can : CanFrame := ⟨0x123, false, false, false, false, false, 2, [1, 2]⟩

/-- Channel 15 with a bit rate of 1 Mb/s: 80 quanta. -/
def rated : State :=
  let s := setF (setF (setF alone (F.BUS_CH_NBT_BRP 15) 0) (F.BUS_CH_NBT_TSEG1 15) 60) (F.BUS_CH_NBT_TSEG2 15) 17
  let s := setF (setF s (F.BUS_CH_DBT_DTSEG1 15) 10) (F.BUS_CH_DBT_DTSEG2 15) 5
  setF (setF s (F.BUS_CH_NBT_SJW 15) 17) (F.BUS_CH_DBT_DSJW 15) 5

theorem witness_busEnable : Meets rated (fun s => live s unitBUS = true ∧ hasBus s 15 = true ∧ badTiming s 15 false = false
        ∧ flag s (F.BUS_CH_CFG_EN 15) = false ∧ (busCh s 15).active = none)
    ∧ Meets (setF rated (F.BUS_CH_NBT_TSEG2 15) 16) (fun s => badTiming s 15 false = true)
    ∧ Meets (busUp busOffline) (fun s => flag s (F.BUS_CH_CFG_EN 15) = true ∧ getF s (F.BUS_CH_STAT_STATE 15) = busOffline
        ∧ assoc (F.BUS_CH_CFG_EN 15).key s.pendFb = none ∧ (busCh s 15).active = none
        ∧ getF s (F.BUS_CH_STAT_TEC 15) ≤ 255 ∧ busOn s 15 = false)
    ∧ Meets (busUp busActive) (fun s => live s unitBUS = true ∧ flag s (F.BUS_CH_CFG_EN 15) = true
        ∧ assoc (F.BUS_CH_CFG_EN 15).key s.pendFb = none ∧ busOn s 15 = true)
    ∧ Meets ((busUp busActive).withPendFb [((F.BUS_CH_CFG_EN 15).key, (0xFFFFFFFF, 2))]) (fun s => hasBus s 15 = true
        ∧ flag s (F.BUS_CH_CFG_EN 15) = true ∧ assoc (F.BUS_CH_CFG_EN 15).key s.pendFb = some (0xFFFFFFFF, 2)
        ∧ (2 : Word).getLsbD 0 = false ∧ (busCh s 15).active = none) := by decide +kernel

theorem witness_busReceive : Meets (setF (busUp busActive) (F.BUS_CH_RXCFG_NA 15) 2) (fun s => busOn s 15 = true
        ∧ can.fdf = false ∧ can.len ≤ 64 ∧ isPriv s 15 = false ∧ getF s (F.BUS_CH_STAT_TEC 15) ≤ 255
        ∧ getF s (F.BUS_CH_RXA_WR 15) < getF s (F.BUS_CH_RXCFG_NA 15) ∧ getF s (F.BUS_CH_RXA_RD 15) < getF s (F.BUS_CH_RXCFG_NA 15))
    ∧ Meets (setF (busUp busActive) (F.BUS_CH_RXCFG_NA 15) 1) (fun s =>
        (getF s (F.BUS_CH_RXA_WR 15) + 1) % getF s (F.BUS_CH_RXCFG_NA 15) = getF s (F.BUS_CH_RXA_RD 15))
    ∧ Meets (setFlag (busUp busActive) (F.BUS_CH_CFG_FD_EN 15) false) (fun s => busOn s 15 = true
        ∧ flag s (F.BUS_CH_CFG_FD_EN 15) = false
        ∧ { can with fdf := true, len := 64 }.fdf = true ∧ { can with fdf := true, len := 64 }.len ≤ 64 ∧ restricted s 15 = false
        ∧ getF s (F.BUS_CH_STAT_TEC 15) ≤ 255) := by decide +kernel

/-- A channel with buffer 31 in a state. -/
def buffered (st : Nat) : State := setF (busUp busActive) (F.BUS_CH_TXSTAT_STATE 15 31) st

theorem witness_busTransmit : Meets (buffered bufPending) (fun s => busOn s 15 = true ∧ restricted s 15 = false
        ∧ (busCh s 15).active = none ∧ s.flt.eccWords = [] ∧ bestBuf s 15 = some 31 ∧ frameFits s 15 (bufFrame s 15 31) = true
        ∧ bufState s 15 31 = bufPending ∧ bufLive s 15 31 = true)
    ∧ Meets (memPut (buffered bufPending) (bufAddr 15 31) 8 (9 * 2 ^ 32)) (fun s => bestBuf s 15 = some 31
        ∧ frameFits s 15 (bufFrame s 15 31) = false)
    ∧ Meets (busUp busActive) (fun s => bestBuf s 15 = none)
    ∧ Meets (setFlag (busUp busActive) (F.BUS_CH_CFG_JTX 15) true) (fun s => flag s (F.BUS_CH_CFG_JTX 15) = true
        ∧ (0x80000000 : Word).getLsbD 31 = true)
    ∧ Meets (setBusCh (buffered bufActive) 15 { BusCh.reset with active := some 31 }) (fun s => hasBus s 15 = true
        ∧ (busCh s 15).active = some 31 ∧ (busCh s 15).jtxWait = none ∧ getF s (F.BUS_CH_STAT_TEC 15) ≤ 255
        ∧ s.flt.eccWords = [])
    ∧ Meets (setBusCh (buffered bufActive) 15 { BusCh.reset with active := some 31, jtxWait := some ⟨0, []⟩ }) (fun s =>
        hasBus s 15 = true ∧ (busCh s 15).active = some 31 ∧ (busCh s 15).jtxWait = some ⟨0, []⟩
        ∧ getF s (F.BUS_CH_STAT_TEC 15) ≤ 255 ∧ s.flt.eccWords = [])
    ∧ Meets ((setF (buffered bufPending) (F.BUS_CH_STARVE_STARVE_US 15) 1).withTime
        { up.time with bases := ⟨0, 0, 1000 * 2 ^ 32, 0⟩ } |>.withBus [(15, { BusCh.reset with ageStart := [(31, 0)] })]) (fun s =>
        bufLive s 15 31 = true ∧ flag s (F.BUS_CH_TXSTAT_STARVED 15 31) = false ∧ getF s (F.BUS_CH_STARVE_STARVE_US 15) ≠ 0
        ∧ getF s (F.BUS_CH_STARVE_STARVE_US 15) ≤ bufAge s 15 31) := by decide +kernel

theorem witness_busErrors : Meets (setF (busUp busActive) (F.BUS_CH_STAT_TEC 15) 248) (fun s => busOn s 15 = true
        ∧ restricted s 15 = false ∧ CanErr.ack ≠ .protocolException ∧ getF s (F.BUS_CH_STAT_STATE 15) ≠ busPassive
        ∧ getF s (F.BUS_CH_STAT_TEC 15) ≤ 255 ∧ 255 < getF s (F.BUS_CH_STAT_TEC 15) + 8)
    ∧ Meets (setBusCh (setF (setF (busUp busPassive) (F.BUS_CH_STAT_TEC 15) 248) (F.BUS_CH_TXSTAT_STATE 15 30) bufActive) 15
        { BusCh.reset with active := some 30 }) (fun s => busOn s 15 = true ∧ restricted s 15 = false
        ∧ getF s (F.BUS_CH_STAT_STATE 15) = busPassive ∧ (busCh s 15).active = some 30)
    ∧ Meets (setBusCh (busUp busOff) 15 { BusCh.reset with recovering := true }) (fun s => live s unitBUS = true
        ∧ hasBus s 15 = true ∧ getF s (F.BUS_CH_STAT_STATE 15) = busOff ∧ (busCh s 15).recovering = true) := by decide +kernel

/-! ### Hypotheses that states meet: Arcades and pins -/

/-- Engine 63 in a state, and with a program row. -/
def engine (st : EngState) : State := setEngine (setFlag up (F.ARC_E_CTL_EN 63) true) 63 { Engine.reset with state := st }
def rowed (st : EngState) (w : Nat) : State := (memPut (engine st) (keyOf unitARC (0x10000 + 0x200 * 63)) 8 w).withMono 100000

/-- What the statement about rows asks: an engine clock due, and what the shifter operation answers. -/
def shifts (s : State) (acts : Bool) : Bool :=
  let u := (tickEngine s 63).withPins { s.pins with gioExt := 0 }
  s.flt.eccWords.isEmpty && live s unitARC && hasEngine s 63 && engineClockDue s 63 && match shifterOp u 63 (rowWord u 63) 0 with
    | some v => acts && (engineOf v 63).loopPend.isNone
    | none => !acts

theorem witness_engineRows : shifts (rowed .running 0) true = true ∧ shifts (rowed .stalled (3 * 2 ^ 16)) false = true := by
  decide +kernel

theorem witness_engines : Meets up (fun s => live s unitARC = true ∧ hasEngine s 63 = true ∧ (engineOf s 63).state = .off
        ∧ 7 < s.ident.variant.arcades ∧ (engineOf s 63).rxf = [] ∧ flag s (F.ARC_E_CFG_RX_JCT 63) = false)
    ∧ Meets (engine .halted) (fun s => (engineOf s 63).state ≠ .off ∧ flag s (F.ARC_E_CTL_EN 63) = true
        ∧ (engineOf s 63).state.enabled = false)
    ∧ Meets (setEngine up 63 { Engine.reset with state := .halted, haltedFrom := .running, dirty := true, force := true }) (fun s =>
        (engineOf s 63).state = .halted ∧ (engineOf s 63).dirty = true ∧ (engineOf s 63).force = true)
    ∧ Meets (engine .armed) (fun s => (engineOf s 63).state.enabled = true
        ∧ regWord s (F.ARC_E_SHIFT_LOAD_BITS 63).key ≠ BitVec.ofNat 32 ((0xFFFF : Word).toNat % 2 ^ 16)
        ∧ (regWord s (F.ARC_E_CFG_ENTRY 63).key).toNat < 2 ^ 30)
    ∧ Meets (setFlag up (F.ARC_E_CFG_RX_JCT 63) true) (fun s => live s unitARC = true ∧ hasEngine s 63 = true
        ∧ flag s (F.ARC_E_CFG_RX_JCT 63) = true ∧ s.ident.variant.engines ≤ 64)
    ∧ Meets (setEngine up 63 { Engine.reset with rxf := [5, 6] }) (fun s => (engineOf s 63).rxf = [5, 6] ∧ s.flt.eccWords = []
        ∧ live s unitPIN = true) := by decide +kernel

/-! ### Hypotheses that states meet: time -/

theorem witness_steps : Meets up (fun s => live s unitTIM = true ∧ servoOwned s 3 = false ∧ flag s (F.TIM_TB_STAT_STEPPED 3) = false)
    ∧ Meets (setFlag up (F.TIM_TB_STAT_STEPPED 3) true) (fun s => servoOwned s 3 = false
        ∧ flag s (F.TIM_TB_STAT_STEPPED 3) = true)
    ∧ Meets (up.withTime { up.time with tb1Following := true }) (fun s => servoOwned s 1 = true) := by decide +kernel

/-- TIME frames: a link report of node 2 on port East, and a TB1 report. -/
def report (sub : Nat) : LocalFrame :=
  ⟨0, 0, { blank with type := 6, srcNode := 2, typeSpecific := BitVec.ofNat 48 (sub * 2 ^ 44), payload := beBytes 8 100 ++ beBytes 8 (2 ^ 64 - 1) }⟩

/-- A link report with no sample, from a peer that is neither locked nor Master. -/
def mute : LocalFrame := ⟨0, 0, { (report 0).frame with payload := List.replicate 16 0 }⟩

/-- The time unit as the servo owns TB0. -/
def lockedTb0 : State := setF (setFlag up F.TIM_TB0_CFG_SERVO true) (F.TIM_TB_STAT_STATE 0) tbLocked

theorem witness_reports : Meets (timed (port 1 buUp) (.linkReport 1)) (fun s => live s unitTIM = true ∧ live s unitRNG = true
        ∧ buState s 1 = buUp ∧ flag s (F.RNG_PORT_STAT_FR 1) = false ∧ due s (.linkReport 1) = true)
    ∧ Meets (timed (breakPort (breakPort (port 1 buUp) 1) 0) (.linkReport 1)) (fun s => buState s 1 = buUp
        ∧ due s (.linkReport 1) = true ∧ broken s 0 = true ∧ broken s 1 = true)
    ∧ Meets up (fun s => (takeTime s 0).isNone = true)
    ∧ Meets (setF (told lockedTb0 (report 0)) F.TIM_TB0_SYNC_MASTER 2) (fun s => (takeTime s 0).isSome = true
        ∧ (portSt s 0).lastA = none ∧ flag s (F.RNG_PORT_STAT_FR 0) = false ∧ getF s F.TIM_TB0_SYNC_MASTER ≠ 0
        ∧ tb0State s = tbLocked ∧ getF s F.TIM_TB0_SYNC_UPSTREAM = 0 ∧ flag s F.TIM_TB0_CFG_SERVO = true
        ∧ ((report 0).frame.payload.getD 10 0).getLsbD 0 = true)
    ∧ Meets (setF (told lockedTb0 mute) F.TIM_TB0_SYNC_MASTER 2) (fun s => takeTime s 0
          = some (mute, s.withRing { s.ring with held := [] })
        ∧ ofBe ((mute.frame.payload.drop 8).take 2) = 0 ∧ (mute.frame.payload.getD 10 0).getLsbD 0 = false)
    ∧ Meets (let s := told up (report 0); setPortSt s 0 { portSt s 0 with lastA := some 5 }) (fun s =>
        (takeTime s 0).isSome = true ∧ flag s (F.RNG_PORT_STAT_FR 0) = false ∧ (portSt s 0).lastA = some 5
        ∧ ofBe (((report 0).frame.payload.drop 8).take 2) ≠ 0 ∧ getF s F.TIM_TB0_SYNC_MASTER = 0)
    ∧ Meets (timed (timed lockedTb0 (.servo 0)) .upstream) (fun s => servoOwned s 0 = true ∧ due s (.servo 0) = true
        ∧ due s .upstream = true ∧ tb0State s = tbLocked ∧ flag s F.TIM_TB0_CFG_SERVO = true)
    ∧ Meets (timed up .upstream) (fun s => due s .upstream = true ∧ tb0State s ≠ tbLocked)
    ∧ Meets (timed (setFlag up F.TIM_TB1_CFG_SRC true) .tb1Send) (fun s => isTb1Source s = true ∧ due s .tb1Send = true)
    ∧ Meets (told (mapped up [{ entry 2 with side := false, tbFlags := 4 }]) (report 1)) (fun s =>
        (takeTime s 1).isSome = true ∧ tb1SourceKey s = some (0, 2, false) ∧ isTb1Source s = false)
    ∧ Meets (timed up .tb1Report) (fun s => due s .tb1Report = true) := by decide +kernel

/-- Comparator 63 on, in a mode, with an output; capture channel 63 on GIO191 for both edges. -/
def trigger (mode out : Nat) : State :=
  setFlag (setF (setF up (F.TIM_TRG_CFG_MODE 63) mode) (F.TIM_TRG_CFG_OUT 63) out) (F.TIM_TRG_CFG_EN 63) true
def armed63 (s : State) : State :=
  (setFlag s (F.TIM_TRG_STAT_ARMED 63) true).withTime { s.time with trgNext := [(63, 0)] }
def capture (edge : Nat) (win : Bool) : State :=
  setFlag (setF (setF (setFlag up (F.TIM_CAP_CFG_EN 63) true) (F.TIM_CAP_CFG_INDEX 63) 191) (F.TIM_CAP_CFG_EDGE 63) edge)
    (F.TIM_CAP_CFG_WIN_EN 63) win

theorem witness_triggers : Meets up (fun s => live s unitTIM = true ∧ trgEnabled s 63 = false)
    ∧ Meets (trigger 0 0) (fun s => trgEnabled s 63 = true ∧ getF s (F.TIM_TRG_CFG_MODE 63) = 0
        ∧ trgCmp s 63 ≤ s.tb (getF s (F.TIM_TRG_CFG_BASE 63)))
    ∧ Meets (trigger 1 0) (fun s => trgEnabled s 63 = true ∧ getF s (F.TIM_TRG_CFG_MODE 63) = 1)
    ∧ Meets (trigger 2 0) (fun s => trgEnabled s 63 = true ∧ getF s (F.TIM_TRG_CFG_MODE 63) = 2)
    ∧ Meets (armed63 (trigger 0 0)) (fun s => trgDue s 63 = true ∧ getF s (F.TIM_TRG_CFG_OUT 63) = 0)
    ∧ Meets (armed63 (setF (setFlag (trigger 0 7) F.PLZ_CAP_CFG_EN true) F.PLZ_CAP_CFG_TRIG_COUNT 1)) (fun s =>
        trgDue s 63 = true ∧ getF s (F.TIM_TRG_CFG_OUT 63) = 7 ∧ live s unitPLZ = true ∧ flag s F.PLZ_CAP_CFG_EN = true
        ∧ getF s F.PLZ_CAP_CFG_TRIG_COUNT ≠ 0)
    ∧ Meets (armed63 (setF (trigger 0 5) (F.TIM_TRG_CFG_GIO 63) 191)) (fun s => trgDue s 63 = true
        ∧ getF s (F.TIM_TRG_CFG_OUT 63) = 5 ∧ getF s (F.TIM_TRG_CFG_GIO 63) = 191 ∧ live s unitPIN = true) := by decide +kernel

theorem witness_captures : Meets (capture 3 false) (fun s => live s unitTIM = true ∧ flag s (F.TIM_CAP_CFG_EN 63) = true
        ∧ flag s (F.TIM_CAP_CFG_SRC 63) = false ∧ getF s (F.TIM_CAP_CFG_INDEX 63) = 191
        ∧ edgeSelected (getF s (F.TIM_CAP_CFG_EDGE 63)) true = true ∧ flag s (F.TIM_CAP_CFG_WIN_EN 63) = false)
    ∧ Meets (capture 0 false) (fun s => edgeSelected (getF s (F.TIM_CAP_CFG_EDGE 63)) false = false)
    ∧ Meets (capture 3 true) (fun s => flag s (F.TIM_CAP_CFG_WIN_EN 63) = true
        ∧ ofTriple (getWords s (F.TIM_CAP_CLOSE_TIME 63 0).key 3) / 2 ^ 24
          ≤ s.tb (getF s (F.TIM_CAP_CFG_BASE 63)) / 2 ^ 24) := by decide +kernel

/-! ### Hypotheses that states meet: the cipher engine -/

/-- The hub while Starting, when key registers may be used, with descriptor 15 set up: operation, key register 0, length. -/
def coder (op len state : Nat) : State :=
  let s := up.withDev { up.dev with state := .starting }
  let s := setF (setF (setF s (F.CIP_D_CTL_OP 15) op) (F.CIP_D_CTL_KSRC 15) 3) (F.CIP_D_CTL_DST_KIND 15) (if op = 10 then 3 else 0)
  (setF (setF (setF s (F.CIP_D_CTL_SRC_KIND 15) 1) (F.CIP_D_LEN_LEN 15) len) (F.CIP_D_STAT_STATE 15) state).withCip
    { Cipher.reset with order := if state = 1 then [15] else [] }

theorem witness_descriptorQueued : Meets (coder 5 0 3) (fun s => live s unitCIP = true ∧ dBusy s 15 = true)
    ∧ Meets (coder 5 0 4) (fun s => dBusy s 15 = false) := by decide +kernel

theorem witness_descriptorStart : Meets (coder 1 32 1) (fun s => live s unitCIP = true ∧ s.cip.order = [15]
        ∧ getF s (F.CIP_D_CTL_SRC_KIND 15) ≠ 2 ∧ startError s 15 32 = 0 ∧ wantsHold s 15 32 = false ∧ wantsNonce s 15 = false
        ∧ wantsRandom s 15 = false)
    ∧ Meets ((coder 6 16384 1).withCip { Cipher.reset with order := [15], hold := [0, 1, 2, 3] }) (fun s =>
        startError s 15 16384 = 0 ∧ wantsHold s 15 16384 = true ∧ 4 ≤ s.cip.hold.length)
    ∧ Meets (coder 7 32 1) (fun s => startError s 15 32 ≠ 0)
    ∧ Meets (coder 6 16385 1) (fun s => startError s 15 16385 = 0 ∧ wantsHold s 15 16385 = false) := by decide +kernel

/-- An empty GCM message under the all-zero key with its tag, test case 1 of the GCM specification that SP 800-38D names. -/
def tagged (op state : Nat) : State := memWrite (coder op 0 state) nvmBase (beBytes 16 0x58e2fccefa7e3061367f1d57a4e7455a)

/-- What the statement about running descriptors asks, with the tag as it is. -/
def keyAndTag (s : State) (good : Bool) : Bool :=
  match descriptorKey s 15 with
  | some (key, u) => decide ((cipJob u 15 key).data.length ≤ 16384) && gcmTagOk (cipJob u 15 key) == good
  | none => false

theorem witness_descriptorRun : Meets (tagged 6 3) (fun s => dState s 15 = 3 ∧ s.upd.actSlot ≠ some 15 ∧ dOp s 15 = 6
        ∧ (getF s (F.CIP_D_CTL_DST_KIND 15) = 1 → dOp s 15 < 7 → nvmWritable s = true)
        ∧ s.flt.eccWords = [] ∧ keyAndTag s true = true)
    ∧ Meets (coder 6 0 3) (fun s => s.flt.eccWords = [] ∧ keyAndTag s false = true)
    ∧ Meets (tagged 6 2) (fun s => dState s 15 = 2 ∧ s.flt.eccWords = [] ∧ keyAndTag s true = true)
    ∧ Meets (coder 6 0 2) (fun s => s.flt.eccWords = [] ∧ keyAndTag s false = true)
    ∧ Meets (coder 8 0 3) (fun s => dState s 15 = 3 ∧ dOp s 15 = 8 ∧ s.flt.eccWords = [] ∧ (descriptorKey s 15).isSome = true)
    ∧ Meets (tagged 10 3) (fun s => dState s 15 = 3 ∧ dOp s 15 = 10 ∧ s.flt.eccWords = []
        ∧ keyAndTag s true = true)
    ∧ Meets ((coder 6 0 3).withDev up.dev) (fun s => dState s 15 = 3 ∧ (descriptorKey s 15).isNone = true) := by decide +kernel

theorem witness_keys : Meets up (fun s => live s unitCIP = true ∧ nvmWritable s = true ∧ getF s F.CIP_LGEN_LGEN ≠ 2 ^ 28 - 1
        ∧ keyRegsLive s = false)
    ∧ Meets (setFlag (setF up F.CIP_LGEN_LGEN (2 ^ 28 - 1)) F.PWR_STAT_NVM_INHIBIT true) (fun s =>
        getF s F.CIP_LGEN_LGEN = 2 ^ 28 - 1 ∧ nvmWritable s = false)
    ∧ Meets (coder 5 0 1) (fun s => keyRegsLive s = true ∧ keyRegNamed s 0 = true ∧ keyRegNamed s 7 = false)
    ∧ Meets (up.withCip { up.cip with reserving := [17] }) (fun s => s.cip.reserving.contains 17 = true) := by decide +kernel

/-! ### Hypotheses that states meet: the twin -/

/-- A hub in a role, with its link up to a peer in a role. -/
def paired (role : Role) (peer : Nat) : State :=
  up.withTwin { Twin.reset with role := role, linkUp := true, peerRole := peer }

/-- TWN_PEER low for its 2 us. -/
def peerOff (s : State) : State := timed s .peerLow

theorem witness_twinPins : Meets ((up.withPins { up.pins with twnPeer := true }).withTwin { up.twin with claim := true }) (fun s =>
        s.ident.variant.hasTwn = true ∧ s.pins.twnPeer = true ∧ s.twin.claim = true)
    ∧ Meets (up.withDev { up.dev with side := true }) (fun s => s.dev.side = true)
    ∧ Meets (peerOff (paired .standby 0)) (fun s => peerLow s = true ∧ s.twin.role = .standby ∧ s.twin.claim = false
        ∧ s.twin.linkUp = true ∧ s.twin.peerRole = 0 ∧ s.twin.pinFault = false)
    ∧ Meets ((peerOff (paired .standby 0)).withTwin { (paired .standby 0).twin with pinFault := true }) (fun s =>
        peerLow s = true ∧ s.twin.claim = false ∧ s.twin.pinFault = true)
    ∧ Meets (peerOff alone) (fun s => peerLow s = true ∧ s.twin.role = .single ∧ inService s = true)
    ∧ Meets (peerOff ((inState .starting .none).withTwin alone.twin)) (fun s => peerLow s = true ∧ s.twin.role = .single
        ∧ inService s = false)
    ∧ Meets (timed (peerOff up) .solo) (fun s => due s .solo = true ∧ twinLive s = true ∧ s.twin.role = .notReady
        ∧ inService s = true ∧ claimConditions s = true ∧ s.txn.recorded = [])
    ∧ Meets (timed up .solo) (fun s => due s .solo = true ∧ claimConditions s = false) := by decide +kernel

theorem witness_handover : Meets (paired .active 1) (fun s => live s unitTWN = true ∧ handoverRefusal s = 0)
    ∧ Meets (paired .active 2) (fun s => handoverRefusal s ≠ 0)
    ∧ Meets (((paired .active 1).withTwin { (paired .active 1).twin with finalOut := true, finalAcked := true }).withMono 3500)
        (fun s => twinLive s = true ∧ s.twin.role = .active ∧ s.twin.finalOut = true ∧ toBoundary s = 3 * ticksUs
          ∧ s.twin.finalAcked = true)
    ∧ Meets (((paired .active 1).withTwin { (paired .active 1).twin with finalOut := true }).withMono 3901)
        (fun s => s.twin.finalAcked = false ∧ toBoundary s < 1100) := by decide +kernel

theorem witness_claimEnds : Meets (setF (paired .active 2) F.TWN_CFG_HB_CYCLES 1 |>.withTwin
        { (paired .active 2).twin with hbCount := 1 }) (fun s => twinLive s = true ∧ s.twin.role = .active
        ∧ getF s F.TWN_CFG_HB_CYCLES ≠ 0 ∧ getF s F.TWN_CFG_HB_CYCLES ≤ s.twin.hbCount ∧ s.twin.hbSuspended = false
        ∧ boundaryNear s = false)
    ∧ Meets ((paired .active 1).withMono 7500) (fun s => s.time.lastBoundary + 3 * s.time.cycleLen / 4 ≤ s.mono)
    ∧ Meets ((paired .active 1).withMono 3500) (fun s => s.twin.linkUp = true ∧ boundaryNear s = true)
    ∧ Meets (timed (paired .standby 0) .twinKa) (fun s => s.twin.linkUp = true ∧ due s .twinKa = true
        ∧ s.twin.role = .standby)
    ∧ Meets ((paired .active 1).withTwin { (paired .active 1).twin with releasing := true }) (fun s => s.twin.linkUp = true
        ∧ s.twin.role = .active ∧ s.twin.releasing = true ∧ peerLow s = false)
    ∧ Meets (setFlag (paired .standby 0) F.TWN_CFG_COLD_EN false) (fun s => flag s F.TWN_CFG_COLD_EN = false)
    ∧ Meets (setFlag (peerOff (paired .notReady 0)) F.TWN_CFG_COLD_EN true) (fun s => flag s F.TWN_CFG_COLD_EN = true
        ∧ peerLow s = true ∧ s.twin.role = .notReady ∧ inService s = true ∧ twinLive s = true ∧ running s .solo = false
        ∧ s.txn.recorded = [] ∧ s.twin.linkUp = true) := by decide +kernel

/-- A delta segment that is the whole delta of cycle 65535. -/
def seg (final last : Bool) : DeltaSeg := ⟨final, false, last, 0xFFFF, 0, true, []⟩

/-- A hub with its twin link in Up. -/
def linkedTwin (role : Role) (peer : Nat) : State := (setBuState up 2 buUp).withTwin (paired role peer).twin

theorem witness_twinTraffic : Meets (setFlag (timed (linkedTwin .notReady 0) .twinKaSend) F.TWN_CFG_COLD_EN false) (fun s =>
        twinLive s = true ∧ buState s 2 = buUp ∧ due s .twinKaSend = true ∧ s.twin.role = .notReady
        ∧ flag s F.TWN_CFG_COLD_EN = false ∧ (1 : Byte) ≠ ownSchema s
        ∧ (4 : Byte).toNat % 4 = 0)
    ∧ Meets (linkedTwin .active 2) (fun s => s.twin.role = .active ∧ s.twin.peerResync = false ∧ (0 : Byte) = ownSchema s)
    ∧ Meets (peerOff (linkedTwin .standby 1)) (fun s => twinLive s = true ∧ buState s 2 = buUp ∧ s.twin.role = .standby
        ∧ s.twin.pinFault = false ∧ peerLow s = true)
    ∧ Meets (linkedTwin .standby 0) (fun s => s.twin.linkUp = true ∧ s.twin.role = .standby
        ∧ deltaComplete (s.withTwin { s.twin with rxDelta := [seg true true] }) 0xFFFF = true
        ∧ deltaComplete (s.withTwin { s.twin with rxDelta := [seg false false] }) 0xFFFF = false)
    ∧ Meets (setF (linkedTwin .active 1) F.TWN_CYCLE_SENT 0xFFFF) (fun s => s.twin.role = .active ∧ s.twin.linkUp = true
        ∧ getF s F.TWN_CYCLE_SENT = (0xFFFF : BitVec 16).toNat ∧ getF s F.TWN_CYCLE_SENT ≠ (0 : BitVec 16).toNat
        ∧ s.twin.sentCrc = 0 ∧ s.twin.sentCrc ≠ 1 ∧ running s .depart = false ∧ s.plaza.departed = [])
    ∧ Meets ((linkedTwin .active 1).withPlaza { Plaza.reset with departed := [(departIdentity 1023 held, 0)] }) (fun s =>
        s.plaza.departed ≠ [])
    ∧ Meets (linkedTwin .notReady 0) (fun s => wantsResync s = true ∧ s.twin.peerSchema = ownSchema s) := by decide +kernel

/-- A shadow queue of two frames. -/
def shadowed : State :=
  (queued (paired .standby 0) 1023 held).withPlaza { Plaza.reset with
    frames := [held, { held with fid := 1, ingressSeq := 1 }]
    queues := [(1023, [ref 0 true, ref 1 true])] }

theorem witness_departures : Meets shadowed (fun s => twinLive s = true ∧ s.twin.linkUp = true ∧ acting s = false
        ∧ (queueRefs s 1023).filter QRef.shadow = [ref 0 true, ref 1 true]
        ∧ refIs s (namedBy (departIdentity 1023 held) 1023) (ref 0 true) = true)
    ∧ Meets (paired .standby 0) (fun s => (queueRefs s 1023).filter QRef.shadow = []) := by decide +kernel

/-! ### Hypotheses that states meet: slot power -/

/-- Slot 11 enabled in a state, with the module seated and the hub's own seat closed. -/
def slot (st : Nat) : State :=
  setF (setFlag (setFlag (setFlag up F.PWR_STAT_SELF_SEATED true) (F.PWR_SLOT_CFG_EN 11) true) (F.PWR_SLOT_STAT_SEATED 11) true)
    (F.PWR_SLOT_STAT_STATE 11) st

def slotWith (st : Nat) (x : Slot) : State := setSlot (slot st) 11 x

theorem witness_slots : Meets (slot slotDisabled) (fun s => slotLive s 11 = true ∧ slotState s 11 = slotDisabled)
    ∧ Meets (slotWith slotSeated { Slot.reset with waiting := true }) (fun s => startAllowed s = true ∧ nextStart s = some 11)
    ∧ Meets up (fun s => startAllowed s = false)
    ∧ Meets (timed (slot slotPrecharge) (.precharge 11)) (fun s => slotState s 11 = slotPrecharge ∧ due s (.precharge 11) = true
        ∧ 9 * 24000 ≤ 10 * 21600 ∧ slotPowered s 11 = true ∧ 3 * slotIcb s 11 < 48001)
    ∧ Meets (timed (slot slotRamp) (.ramp 11)) (fun s => slotState s 11 = slotRamp ∧ due s (.ramp 11) = true)
    ∧ Meets (slotWith slotLimiting { Slot.reset with faultTimer := 1, underCount := 7 }) (fun s => slotRunning s 11 = true
        ∧ 0 ≤ slotIcb s 11 ∧ (slotOf s 11).faultTimer = 0 + 1 ∧ (slotOf s 11).underCount = 7)
    ∧ Meets (slotWith slotLimiting { Slot.reset with faultTimer := 65536 }) (fun s => slotState s 11 = slotLimiting
        ∧ slotTflt s 11 ≤ (slotOf s 11).faultTimer ∧ (slotOf s 11).underCount < 7) := by decide +kernel

theorem witness_slots2 : Meets (slot slotTripped) (fun s => slotLive s 11 = true ∧ slotState s 11 = slotTripped)
    ∧ Meets (timed (slot slotRetryWait) (.retry 11)) (fun s => slotState s 11 = slotRetryWait ∧ due s (.retry 11) = true)
    ∧ Meets (timed (timed (setFlag (slot slotOn) (F.PWR_SLOT_STAT_PG 11) true) (.pg 11)) (.retryReset 11)) (fun s =>
        slotState s 11 = slotOn ∧ (slotOf s 11).faultTimer = 0 ∧ due s (.pg 11) = true
        ∧ flag s (F.PWR_SLOT_STAT_PG 11) = true ∧ due s (.retryReset 11) = true)
    ∧ Meets (slot slotOn) (fun s => 11 < s.ident.variant.slots ∧ s.dev.unitsOut = true ∧ slotState s 11 ≠ slotDisabled) := by
  decide +kernel

theorem witness_supply : Meets (slot slotOn) (fun s => live s unitPWR = true ∧ vinClass s 0 = 2 ∧ vinClass s 1000000 = 3
        ∧ vinClass s (vinLimit s F.PWR_VIN_CFG_UV_OFF) = 1 ∧ getF s F.PWR_STAT_VIN_STATE = 0 ∧ slotPowered s 11 = true
        ∧ (slotOf s 11).planned = none)
    ∧ Meets (timed (setF (slot slotShed) (F.PWR_SLOT_STAT_REASON 11) offShedUv) .vinOk) (fun s => due s .vinOk = true)
    ∧ Meets (timed (slotWith slotOn { Slot.reset with planned := some offShedUv }) (.planned 11)) (fun s => slotLive s 11 = true
        ∧ due s (.planned 11) = true ∧ (slotOf s 11).planned = some offShedUv
        ∧ ¬ (vinLimit s F.PWR_VIN_CFG_UV_WARN + 1000 < getF s F.PWR_VIN_VALUE))
    ∧ Meets (slotWith slotOn { Slot.reset with planned := some offDormant }) (fun s => turnOffTurn s 11 offDormant = true
        ∧ turnOffTurn s 10 offDormant = false ∧ turnOffTurn s 11 offShedUv = true)
    ∧ Meets (setF (slot slotOn) F.PWR_VIN_VALUE 48000) (fun s => vinLimit s F.PWR_VIN_CFG_UV_WARN + 1000 < getF s F.PWR_VIN_VALUE)
    ∧ Meets (timed (setF (slot slotShed) (F.PWR_SLOT_STAT_REASON 11) offShedBudget) (.budget 11)) (fun s => slotLive s 11 = true
        ∧ budgetShed s 11 = true ∧ fitsBudget s 11 = true ∧ due s (.budget 11) = true
        ∧ (upTo 11).all (fun j => !budgetShed s j) = true)
    ∧ Meets (slot slotLatchedOff) (fun s => slotState s 11 = slotLatchedOff) := by decide +kernel

theorem witness_inhibit : Meets (setFlag up F.PWR_STAT_NVM_INHIBIT true) (fun s => s.pins.pfailN = true
        ∧ flag s F.PWR_STAT_NVM_INHIBIT = true ∧ running s .nvmLift = false ∧ s.pins.vauxLow = false)
    ∧ Meets up (fun s => flag s F.PWR_SYNC_CFG_SYNC_EN = false ∧ live s unitPWR = true)
    ∧ Meets ((setFlag up F.PWR_SYNC_CFG_SYNC_EN true).withPower { up.power with lastFiring := some 0 } |>.withTime
        { up.time with bases := ⟨0, 0, 1000000 * 2 ^ 32, 0⟩ }) (fun s => flag s F.PWR_SYNC_CFG_SYNC_EN = true
        ∧ s.power.syncFree = false ∧ s.power.lastFiring = some 0 ∧ 0 + 1000000 ≤ tbNs s 2) := by decide +kernel

/-! ### Hypotheses that states meet: faults, the dictionary, the update -/

theorem witness_faults : Meets up (fun s => live s unitFLT = true ∧ faultInfo 0xFF = none ∧ faultInfo 0x01 = some (0, .record)
        ∧ faultInfo 0x02 = some (1, .unit) ∧ faultInfo 0x03 = some (2, .restart) ∧ faultInfo 0x09 = some (1, .mgtRestart)
        ∧ s.dev.testmode = false ∧ suppressed s 1 0 unitODW 0 = false)
    ∧ Meets (setF up (F.FLT_UNIT_CFG_REACT unitODW) 1) (fun s => live s unitODW = true ∧ unitReact s unitODW = 1
        ∧ s.dev.state = .service)
    ∧ Meets ((setF up F.FLT_CFG_CORR_HOLD_MS 1).withFlt { up.flt with corrLast := [((1, unitODW, 0), 0)] }) (fun s =>
        suppressed s 1 0 unitODW 0 = true)
    ∧ Meets (timed up .errPulse) (fun s => due s .errPulse = true)
    ∧ Meets (up.withDev { up.dev with testmode := true }) (fun s => live s unitFLT = true ∧ s.dev.testmode = true) := by
  decide +kernel

/-- A request at the service UART. -/
def ask (index : Nat) : SunReq := ⟨.uart, 1, false, false, index, 0, 0, 0, 0, []⟩

theorem witness_gates : gate State.reset (ask 0x1000) 1 = .drop
    ∧ gate alone { ask 0x1000 with src := .udp 95 0 0 } 1 = .notServed
    ∧ gate (setBitF up F.SYS_UNIT_FLTFENCE_UNITS unitODW true) (ask 0x1000) 1 = .code codeFENCED
    ∧ gate up (ask 0x1000) 1 = .serve 3 ∧ repeatOf up (ask 0x1000) 1 = none
    ∧ (repeatOf (up.withOdw { up.odw with kept := [(responseTo (ask 0x1000) 1 0 false [], 1)] }) (ask 0x1000) 1).isSome = true
    ∧ (actRead (ask 0x1000) up 3).2.isSome = true ∧ (actAddr true { ask 0 with len := 4 } up 3).2 = none := by decide +kernel

/-- A channel that serves Sundem while its buffer 30 still waits to leave. -/
def busAsked : State :=
  (setF (busUp busActive) (F.BUS_CH_TXSTAT_STATE 15 30) bufPending).withOdw { up.odw with objs := [((0x1025, 2), [0, 0x80])] }

theorem witness_gateBus : gate busAsked { ask 0x1000 with src := .bus 15 } 1 = .busDropped := by decide +kernel

theorem witness_members : (memberOf 0x1000 0).isSome = true ∧ (memberOf 0x1000 0).any (fun m => 0 ≤ m.rd ∧ 0 < m.wr) = true
    ∧ objFence up 0x1000 0 = none
    ∧ (memberOf 0x1000 0).any (fun m => decide (valueSize up 0x1000 0 m ≤ segmentMax .uart)) = true
    ∧ (memberOf 0x1005 0).any (fun m => m.wr ≤ 3) = true ∧ (memberOf 0x2020 0).any (fun m => m.wr ≤ 3) = true
    ∧ (memberOf 0x1030 0).any (fun m => m.wr ≤ 3) = true ∧ (memberOf 0xB0F0 0).any (fun m => m.wr ≤ 3) = true
    ∧ objFence up 0x1005 0 = none ∧ objFence up 0x2020 0 = none ∧ objFence up 0x1030 0 = none ∧ objFence up 0xB0F0 0 = none := by
  decide +kernel

theorem witness_sundem : Meets (up.withOdw { up.odw with delayed := [(responseTo (ask 0) 6 0 false [], 0)] }) (fun s =>
        s.odw.delayed[0]? = some (responseTo (ask 0) 6 0 false [], 0) ∧ odwRuns s = true)
    ∧ Meets ((up.withOdw { up.odw with sessions := [⟨.uart, 1, 0, 0, [], 0⟩] }).withMono (1000 * ticksMs)) (fun s =>
        s.odw.sessions[0]? = some ⟨.uart, 1, 0, 0, [], 0⟩ ∧ 0 + 1000 * ticksMs ≤ s.mono)
    ∧ Meets up (fun s => classOf s (.udp 95 0 0) = none
        ∧ s.odw.sessions.find? (fun x => x.src = requester (ask 0).src && x.tid = (ask 0).tid) = none)
    ∧ Meets (((linked 4).withTwin alone.twin).withOdw { up.odw with objs := [((0x1025, 1), leBytes 12 (2 ^ 92))] }) (fun s =>
        odwRuns s = true ∧ acting s = true ∧ linkUp s 92 = true ∧ bitAt (ofLe (objBytes s 0x1025 1)) 92 = true) := by decide +kernel

theorem witness_stores : Meets up (fun s => s.odw.storing = false ∧ s.upd.state ≠ 3 ∧ s.upd.state ≠ 5 ∧ nvmWritable s = true
        ∧ 32 + (storeBody s).length ≤ halfSize ∧ s.cip.locks = [])
    ∧ Meets (up.withOdw { up.odw with storing := true }) (fun s => s.odw.storing = true ∧ nvmWritable s = true)
    ∧ Meets (setFlag up F.PWR_STAT_NVM_INHIBIT true) (fun s => nvmWritable s = false)
    ∧ Meets (timed up .relay) (fun s => due s .relay = true) := by decide +kernel

/-- The update in a state. -/
def upd (st : Nat) : State := up.withUpd { up.upd with state := st }

theorem witness_update : Meets (upd 4) (fun s => odwRuns s = true ∧ s.cip.locks = [] ∧ nvmWritable s = true
        ∧ activateRefused s = false)
    ∧ Meets ((upd 4).withOdw { up.odw with storing := true }) (fun s => activateRefused s = true)
    ∧ Meets (upd 1) (fun s => 1838864 ≤ maxPackage ∧ maxPackage < 1838864 + 1 ∧ s.upd.state = 1)
    ∧ Meets (upd 3) (fun s => s.upd.state = 3 ∧ nvmWritable s = true ∧ odwRuns s = true)
    ∧ Meets ((upd 5).withUpd { up.upd with state := 5, hashing := true }) (fun s => s.upd.hashing = true ∧ s.upd.state = 5
        ∧ imageHashOk s (targetBank s) (bankManifest s (targetBank s)) = false) := by decide +kernel

/-- Bank A, the target of a hub in Recovery, and bank B, that of a hub in Service, with the empty image of the manifest. -/
def hashed (bank : Nat) (d : DeviceState) : State :=
  memWrite (((upd 5).withUpd { up.upd with state := 5, hashing := true }).withDev { up.dev with state := d })
    (nvmBase + bankHeader bank) manifest

theorem witness_activation : Meets (hashed 0 .recovery) (fun s => s.dev.state = .recovery ∧ nvmWritable s = true
        ∧ imageHashOk s (targetBank s) (bankManifest s (targetBank s)) = true)
    ∧ Meets (hashed 1 .service) (fun s => s.dev.state ≠ .recovery
        ∧ imageHashOk s (targetBank s) (bankManifest s (targetBank s)) = true)
    ∧ Meets (up.withDev { up.dev with mgtRestart := true }) (fun s => s.dev.mgtRestart = true ∧ (romSteps s).2 = none) := by
  decide +kernel

theorem witness_activationRestart : Meets (banked.withDev { up.dev with mgtRestart := true }) (fun s =>
    s.dev.mgtRestart = true ∧ (romSteps s).2 = some 0) := by decide +kernel

/-! ### Hypotheses that states meet: the invariants -/

theorem witness_invariants : memoryCanonical banked ∧ outputsGated up ∧ outputsGated (alone.withTwin
      { alone.twin with claim := true, oe := true }) := by
  refine ⟨?_, ?_, ?_⟩
  · show Memory.wf banked.mem = true
    decide +kernel
  · intro h
    exact absurd h (by decide)
  · intro _
    decide +kernel

/-! ### Ill-formed commands: one for each check -/

/-- A command is ill-formed while another of its shape is not. -/
abbrev Refuses (bad good : Instr) : Prop := bad.wf = false ∧ good.wf = true

theorem test_wf_units : Refuses (.drainWindowEnd 17 0) (.drainWindowEnd 16 13) ∧ Refuses (.drainWindowEnd 0 14) .heal
    ∧ Refuses (.unitReset 17) (.unitReset 16) ∧ Refuses (.fbCommit 17 0) (.fbCommit 3 95) ∧ Refuses (.fbCommit 3 96) .heal
    ∧ Refuses (.registerWrite 256 0 0) (.registerWrite 255 (2 ^ 32 - 1) 0) ∧ Refuses (.registerWrite 0 (2 ^ 32) 0) .heal
    ∧ Refuses (.epochDrainComplete 6) (.epochDrainComplete 5) := by decide +kernel

theorem test_wf_requests : Refuses (.rd 128) (.rd 127) ∧ Refuses (.txnIssue (.ring 1 false 1) spec) (.txnIssue .mgt spec)
    ∧ Refuses (.txnIssue .mgt { spec with count := 0 }) .heal ∧ Refuses (.txnIssue .mgt { spec with count := 257 }) .heal
    ∧ Refuses (.txnIssue .mgt { spec with data := List.replicate 257 0 }) .heal ∧ Refuses (.txnTimeout 256) (.tagHoldoutEnd 255)
    ∧ Refuses (.i2cTransferComplete 16 ⟨.done, 0⟩ []) (.i2cTransferComplete 15 ⟨.done, 2⟩ [])
    ∧ Refuses (.i2cTransferComplete 0 ⟨.done, 3⟩ []) .heal ∧ Refuses (.i2cTransferComplete 0 ⟨.done, 0⟩ (List.replicate 257 0)) .heal
    ∧ Refuses (.i2cStretchTimeout ⟨16, 0⟩) (.i2cStretchTimeout ⟨15, 0⟩)
    ∧ Refuses (.mdioTransferComplete 2 true 0) (.mdioTransferComplete 1 true 0) := by decide +kernel

theorem test_wf_ports : Refuses (.ringPortEnable 3) (.ringPortEnable 2) ∧ Refuses (.markerReceive 3 0 badLine true 0) .heal
    ∧ Refuses (.markerReceive 0 2 badLine true 0) (.markerReceive 2 1 badLine true 0)
    ∧ Refuses (.markerReceive 0 0 (List.replicate 63 true) true 0) .heal ∧ Refuses (.capabilityWordReceive 3 0) .heal
    ∧ Refuses (.frCoeffRequest 3 0 .main .hold) .heal ∧ Refuses (.frCoeffRequest 0 2 .main .hold) .heal
    ∧ Refuses (.lossOfLock 3 .los) (.lossOfLock 2 .los) ∧ Refuses (.laneModeChange 24 0) (.laneModeChange 23 0)
    ∧ Refuses (.accessLinkUp 96 0 true 0) (.accessLinkUp 95 3 true 0) ∧ Refuses (.accessLinkUp 0 4 true 0) .heal
    ∧ Refuses (.accessLinkDown ⟨96, .cdr, 0⟩) (.accessLinkDown ⟨95, .cdr, 0⟩) ∧ Refuses (.flushDone 104) (.flushDone 103)
    ∧ Refuses (.badSof 3 0) (.badSof 2 0) ∧ Refuses (.badSof 0 (2 ^ 64)) .heal := by decide +kernel

/-- A frame with a payload one byte too long. -/
def long : RingFrame := { blank with payload := List.replicate 9217 0 }

theorem test_wf_ring : Refuses (.ringFrameReceive 2 (words blank false) none) (.ringFrameReceive 1 (words blank false) none)
    ∧ Refuses (.ringFrameReceive 0 [] none) .heal ∧ Refuses (.ringFrameReceive 0 (List.replicate 8194 0) none) .heal
    ∧ Refuses (.ringFrameReceive 0 (words blank false) (some 8190)) (.ringFrameReceive 0 (words blank false) (some 8189))
    ∧ Refuses (.ringFrameAdd long) (.ringFrameAdd blank) ∧ Refuses (.reachTimeout 256 true true) (.reachTimeout 255 true true)
    ∧ Refuses (.keepaliveSend 2) (.keepaliveSend 1) ∧ Refuses (.keepaliveReceive 2 (words blank false) none 0) .heal
    ∧ Refuses (.keepaliveReceive 0 [] none 0) .heal
    ∧ Refuses (.keepaliveReceive 0 (words blank false) none 8) (.keepaliveReceive 0 (words blank false) none 7)
    ∧ Refuses (.keepaliveTick 2 true) (.keepaliveTick 1 true) := by
  decide +kernel

theorem test_wf_plaza : Refuses (.frameAdmit 1024 0 []) (.frameAdmit 1023 103 []) ∧ Refuses (.frameAdmit 0 104 []) .heal
    ∧ Refuses (.frameAdmit 0 0 (List.replicate 9217 0)) .heal ∧ Refuses (.residencyCheck 1024) (.residencyCheck 1023)
    ∧ Refuses (.accessFrameReceive 96 [] true ⟨false, 0⟩) (.accessFrameReceive 95 [] true ⟨false, 0⟩)
    ∧ Refuses (.pauseFrameReceive 0 (List.replicate 9217 0)) .heal ∧ Refuses (.pauseExpiry 96 0) .heal
    ∧ Refuses (.pauseExpiry 0 8) (.pauseExpiry 95 7) ∧ Refuses (.pauseRefresh 96) (.pauseRefresh 95) := by decide +kernel

theorem test_wf_queues : Refuses (.listRun 4) (.listRun 3) ∧ Refuses (.pushHdr 256 .mgt 0) (.pushHdr 255 .mgt 0)
    ∧ Refuses (.pushHdr 0 (.ring 256 true 1) 0) .heal ∧ Refuses (.pushHdr 0 (.ring 1 true 256) 0) (.pushHdr 0 (.ring 255 true 255) 0)
    ∧ Refuses (.pushData 256 .mgt 0 [0]) .heal ∧ Refuses (.pushData 0 (.ring 256 true 1) 0 [0]) .heal
    ∧ Refuses (.pushData 0 .mgt 1024 [0]) (.pushData 0 .mgt 1023 [0]) ∧ Refuses (.pushData 0 .mgt 0 []) .heal
    ∧ Refuses (.pushData 0 .mgt 0 (List.replicate 257 0)) .heal ∧ Refuses (.pop 256 0) .heal ∧ Refuses (.pop 0 257) (.pop 255 256)
    ∧ Refuses (.queueEnable 256 0) .heal ∧ Refuses (.release 256) (.release 255)
    ∧ Refuses (.messageProduce 0 0 0 [1, 2, 3, 4]) (.messageProduce 255 7 7 [1, 2, 3, 4])
    ∧ Refuses (.messageProduce 0 8 0 [1, 2, 3, 4]) .heal ∧ Refuses (.messageProduce 0 1 8 [1, 2, 3, 4]) .heal
    ∧ Refuses (.messageProduce 0 1 0 [1, 2, 3]) .heal ∧ Refuses (.messageProduce 256 1 0 [1, 2, 3, 4]) .heal
    ∧ Refuses (.messageProduce 0 1 0 (List.replicate 1025 0)) .heal ∧ Refuses (.pollSampleComplete 256) (.pollSampleComplete 255) := by
  decide +kernel

theorem test_wf_bus : Refuses (.txRequest 16 0) (.txRequest 15 0) ∧ Refuses (.recover 16) (.recover 15)
    ∧ Refuses (.busFrameReceive 16 ⟨can, 0⟩) (.busFrameReceive 15 ⟨can, 0⟩) ∧ Refuses (.busFrameReceive 0 ⟨{ can with len := 65 }, 0⟩) .heal
    ∧ Refuses (.busFrameReceive 0 ⟨{ can with len := 1 }, 0⟩) .heal ∧ Refuses (.busFrameReceive 0 ⟨{ can with id := 2048 }, 0⟩) .heal
    ∧ Refuses (.busFrameReceive 0 ⟨{ can with fdf := true, rtr := true }, 0⟩) .heal ∧ Refuses (.txAttemptEnd 16 .sent) .heal
    ∧ Refuses (.busError 16 .ack true .frame) .heal ∧ Refuses (.bufferStarved 16 0) .heal
    ∧ Refuses (.bufferStarved 0 32) (.bufferStarved 15 31) := by decide +kernel

theorem test_wf_arcade : Refuses (.engineRowExecute 64 0) (.engineRowExecute 63 0) ∧ Refuses (.halt 64) (.halt 63)
    ∧ Refuses (.arcadeGroupRestart 8 0) (.arcadeGroupRestart 7 0) ∧ Refuses (.txPush 64 0 [0]) .heal
    ∧ Refuses (.txPush 0 32 [0]) (.txPush 63 31 [0]) ∧ Refuses (.txPush 0 0 []) .heal
    ∧ Refuses (.txPush 0 0 (List.replicate 33 0)) .heal ∧ Refuses (.rxPop 64 0) .heal ∧ Refuses (.rxPop 0 257) (.rxPop 63 256)
    ∧ Refuses (.programRowWrite 64 0 0) .heal ∧ Refuses (.programRowWrite 0 64 0) (.programRowWrite 63 63 0)
    ∧ Refuses (.engineConfigWrite 64 0 0) .heal ∧ Refuses (.engineConfigWrite 0 0x38 0) (.engineConfigWrite 63 0x37 0)
    ∧ Refuses (.loopBoundsWrite 64 0 0) (.loopBoundsWrite 63 0 0) ∧ Refuses (.pinSet 6 0) (.pinSet 5 0) := by decide +kernel

theorem test_wf_timeAndCipher : Refuses (.step 4) (.step 3) ∧ Refuses (.servoUpdate 2) (.servoUpdate 1)
    ∧ Refuses (.triggerArm 64) (.triggerArm 63) ∧ Refuses (.triggerFire 64 []) .heal
    ∧ Refuses (.triggerFire 0 (List.replicate 65 0)) (.triggerFire 63 (List.replicate 64 0))
    ∧ Refuses (.captureEvent 64 true) (.captureEvent 63 true) ∧ Refuses (.ctr 16 0) (.ctr 15 0)
    ∧ Refuses (.pass1Complete 16) (.pass1Complete 15) ∧ Refuses (.keyRegisterWrite 8 0 0) .heal
    ∧ Refuses (.keyRegisterWrite 0 8 0) (.keyRegisterWrite 7 7 0)
    ∧ Refuses (.nonceReservationComplete 18) (.nonceReservationComplete 17) := by decide +kernel

theorem test_wf_twinAndPower : Refuses (.deltaSegmentReceive { seg true true with index := 65536 }) (.deltaSegmentReceive (seg true true))
    ∧ Refuses (.snapshotSegmentReceive (2 ^ 32) true []) (.snapshotSegmentReceive 0 true []) ∧ Refuses (.on 12) (.on 11)
    ∧ Refuses (.prechargeComplete 12 0 0) .heal ∧ Refuses (.prechargeComplete 0 (2 ^ 20) 0) .heal
    ∧ Refuses (.prechargeComplete 0 0 (2 ^ 20)) (.prechargeComplete 11 0 0) ∧ Refuses (.rampEnd 12 0 0 0) .heal
    ∧ Refuses (.rampEnd 0 (2 ^ 20) 0 0) .heal ∧ Refuses (.rampEnd 0 0 (2 ^ 20) 0) .heal
    ∧ Refuses (.rampEnd 0 0 0 (2 ^ 20)) (.rampEnd 11 0 0 0) ∧ Refuses (.monitorTick 12 0) .heal
    ∧ Refuses (.fast 0 (2 ^ 20)) (.fast 11 0) ∧ Refuses (.vinStateChange (2 ^ 20)) (.vinStateChange 0)
    ∧ Refuses (.meterSample (List.replicate 65 0)) (.meterSample []) ∧ Refuses (.bankSupplyLoss 6) (.bankSupplyLoss 5) := by
  decide +kernel

theorem test_wf_faultsAndObjects : Refuses (.faultDetect 256 0 0 0) (.faultDetect 255 31 0 0) ∧ Refuses (.faultDetect 0 32 0 0) .heal
    ∧ Refuses (.faultInject 256 0) (.faultInject 255 0) ∧ Refuses (.eccInject 0 32) (.eccInject 0 31)
    ∧ Refuses (.read (ask 65536)) (.read (ask 65535)) ∧ Refuses (.read { ask 0 with sub := 256 }) .heal
    ∧ Refuses (.read { ask 0 with offset := 2 ^ 32 }) .heal ∧ Refuses (.read { ask 0 with len := 1025 }) .heal
    ∧ Refuses (.write { ask 0 with data := List.replicate 1025 0 }) .heal
    ∧ Refuses (.read { ask 0 with src := .ring 256 true 0 true true true true 0 }) .heal
    ∧ Refuses (.read { ask 0 with src := .ring 0 true 0 true true true true 2 }) .heal
    ∧ Refuses (.read { ask 0 with src := .udp 96 0 0 }) .heal ∧ Refuses (.read { ask 0 with src := .bus 16 }) .heal
    ∧ Refuses (.arpRequest 96 0 0 0) (.arpRequest 95 0 0 0) ∧ Refuses (.packageWrite (2 ^ 32) []) (.packageWrite 0 [])
    ∧ Refuses (.packageWrite 0 (List.replicate 1025 0)) .heal ∧ Refuses (.sundemUnservedRequest (ask 0) (.unknownOpcode 256)) .heal
    ∧ Refuses (.sundemUnservedRequest (ask 65536) .version) (.sundemUnservedRequest (ask 0) .version) := by decide +kernel

/-! ### Values that the standards give -/

/-- AES-128 of FIPS 197, appendix C.1. -/
theorem test_aes : aesEnc (beNats 16 0x000102030405060708090a0b0c0d0e0f) (beNats 16 0x00112233445566778899aabbccddeeff)
    = beNats 16 0x69c4e0d86a7b0430d8cdb78070b4c55a := by decide +kernel

/-- SHA-256 of "abc", FIPS 180-4. -/
theorem test_sha256 : sha256 [0x61, 0x62, 0x63]
    = beNats 32 0xba7816bf8f01cfea414140de5dae2223b00361a396177a9cb410ff61f20015ad := by decide +kernel

/-- CMAC under AES-128 of the empty message, SP 800-38B example 1. -/
theorem test_cmac : cmac (beNats 16 0x2b7e151628aed2a6abf7158809cf4f3c) [] = beNats 16 0xbb1d6929e95937287fa37d129b756746 := by
  decide +kernel

/-- Test case 2 of the GCM specification: one block of zeros. -/
theorem test_gcm : gcmCrypt (beNats 16 0) (beNats 12 0) (beNats 16 0) = beNats 16 0x0388dace60b6a392f328c2b971b2fe78
    ∧ gcmTag (beNats 16 0) (beNats 12 0) [] (beNats 16 0x0388dace60b6a392f328c2b971b2fe78)
      = beNats 16 0xab6e47d42cec13bdf53a67b21257bddf := by decide +kernel

/-- The check value of IEEE 802.3's CRC-32 over the nine digits. -/
theorem test_crc32 : crc32 ([0x31, 0x32, 0x33, 0x34, 0x35, 0x36, 0x37, 0x38, 0x39] : List Byte) = 0xCBF43926 := by decide +kernel

/-- The check values over the nine digits of the two other polynomials of R92 with their initial values: CRC-16/CCITT from
0xFFFF, CRC-8 from 0. -/
theorem test_crc16_crc8 : crc16 ([0x31, 0x32, 0x33, 0x34, 0x35, 0x36, 0x37, 0x38, 0x39] : List Byte) = 0x29B1
    ∧ crc8 ([0x31, 0x32, 0x33, 0x34, 0x35, 0x36, 0x37, 0x38, 0x39] : List Byte) = 0xF4 := by decide +kernel

/-- The first bits of R88's sequence, by hand from bits 23 to 30 of the seed of lane 0. -/
theorem test_scramble : (scramble (laneSeed 0) (List.replicate 5 false)).1 = [true, true, true, false, false] := by decide +kernel

/-- One bit after 40 identical ones (R89), and its removal, with a violation where it has the value of the run. -/
theorem test_stuff : (stuff (false, 0) (List.replicate 41 false)).1 = List.replicate 40 false ++ [true, false]
    ∧ destuff (false, 0) (List.replicate 42 false) = (List.replicate 41 false, 1, (false, 2)) := by decide +kernel

/-- A frame of 28 bytes ends in zero bytes up to its fourth word (R92). -/
theorem test_frameWords : (frameWords (List.replicate 28 0xFF)).map (fun w => bitsAt w.toNat 0 32)
    = [28 * 65536 + crc16 [0, 28], 0xFFFFFFFF, 0xFFFFFFFF, 0xFFFFFFFF, 0] := by decide +kernel

end Sys2Proof.Tests
end

/-! # Proofs: every command keeps window memory canonical and the die as it is -/

namespace Sys2Proof.Machine

/-- What no command may break: canonical memory stays canonical, and the die of `t` is the one of `s`, its OTP
counter no lower. -/
structure Keeps (s t : State) : Prop where
  mem : memoryCanonical s → memoryCanonical t
  die : diePreserved s t

/-- Whatever an operation that may decline answers, its state keeps memory and die. -/
def KeepsSome {α : Type} (s : State) (st : α → State) (o : Option α) : Prop := ∀ x, o = some x → Keeps s (st x)

/-- The next state that a command answers, if it answers one, keeps memory and die. -/
def KeepsNext (s : State) (r : Result) : Prop := ∀ t, r = .next t → Keeps s t

section
variable {s t u : State} {α β : Type}

/-! ### Choices, folds and answers -/

protected theorem Keeps.refl (s : State) : Keeps s s := ⟨id, Nat.le_refl _, rfl⟩

protected theorem Keeps.ite {c : Prop} {_ : Decidable c} {a b : State} (ha : Keeps s a) (hb : Keeps s b) :
    Keeps s (if c then a else b) := by
  split
  · exact ha
  · exact hb

/-- A step taken in one case only, from the state of the other case. -/
protected theorem Keeps.when {c : Prop} {_ : Decidable c} {a : State} (h : Keeps s t) (ha : Keeps s t → Keeps s a) :
    Keeps s (if c then a else t) := .ite (ha h) h

protected theorem Keeps.unless {c : Prop} {_ : Decidable c} {b : State} (h : Keeps s t) (hb : Keeps s t → Keeps s b) :
    Keeps s (if c then t else b) := .ite h (hb h)

protected theorem Keeps.iteFst {c : Prop} {_ : Decidable c} {a b : State × β} (ha : Keeps s a.1) (hb : Keeps s b.1) :
    Keeps s (if c then a else b).1 := by
  split
  · exact ha
  · exact hb

protected theorem Keeps.iteSnd {c : Prop} {_ : Decidable c} {a b : β × State} (ha : Keeps s a.2) (hb : Keeps s b.2) :
    Keeps s (if c then a else b).2 := by
  split
  · exact ha
  · exact hb

protected theorem Keeps.of_fst {p : State × β} {b : β} (h : Keeps s p.1) (e : p = (u, b)) : Keeps s u := by
  subst e
  exact h

protected theorem Keeps.of_snd {p : β × State} {b : β} (h : Keeps s p.2) (e : p = (b, u)) : Keeps s u := by
  subst e
  exact h

protected theorem Keeps.foldl {f : State → α → State} {l : List α} (h : Keeps s t)
    (hf : ∀ v x, Keeps s v → Keeps s (f v x)) : Keeps s (l.foldl f t) := by
  induction l generalizing t with
  | nil => exact h
  | cons x l ih => exact ih (hf t x h)

protected theorem Keeps.foldlFst {f : State × β → α → State × β} {l : List α} {p : State × β} (h : Keeps s p.1)
    (hf : ∀ q x, Keeps s q.1 → Keeps s (f q x).1) : Keeps s (l.foldl f p).1 := by
  induction l generalizing p with
  | nil => exact h
  | cons x l ih => exact ih (hf p x h)

protected theorem KeepsSome.none {st : α → State} : KeepsSome s st Option.none := fun _ e => nomatch e

protected theorem KeepsSome.some {st : α → State} {x : α} (h : Keeps s (st x)) : KeepsSome s st (some x) := fun _ e => by
  cases e
  exact h

/-- An answer with a code beside the state. -/
protected theorem KeepsSome.withCode {b : β} (h : Keeps s t) : KeepsSome s Prod.fst (some (t, b)) := .some h

protected theorem KeepsSome.ite {c : Prop} {_ : Decidable c} {st : α → State} {a b : Option α} (ha : KeepsSome s st a)
    (hb : KeepsSome s st b) : KeepsSome s st (if c then a else b) := by
  split
  · exact ha
  · exact hb

protected theorem KeepsSome.map {st : α → State} {st' : β → State} {f : α → β} {o : Option α} (h : KeepsSome s st o)
    (hf : ∀ x, Keeps s (st x) → Keeps s (st' (f x))) : KeepsSome s st' (o.map f) := by
  cases o with
  | none => exact .none
  | some x => exact .some (hf x (h x rfl))

protected theorem KeepsSome.getD {st : α → State} {o : Option α} {d : α} (h : KeepsSome s st o) (hd : Keeps s (st d)) :
    Keeps s (st (o.getD d)) := by
  cases o with
  | none => exact hd
  | some x => exact h x rfl

protected theorem KeepsNext.next (h : Keeps s t) : KeepsNext s (.next t) := fun _ e => by
  cases e
  exact h

protected theorem KeepsNext.fault {r : Fault} : KeepsNext s (.fault r) := fun _ e => nomatch e


/-! ### Updates of one part of the state -/

protected theorem Keeps.withPending {x} (h : Keeps s t) : Keeps s (t.withPending x) := ⟨h.mem, h.die⟩

protected theorem Keeps.withMono {x} (h : Keeps s t) : Keeps s (t.withMono x) := ⟨h.mem, h.die⟩

protected theorem Keeps.withFresh {x} (h : Keeps s t) : Keeps s (t.withFresh x) := ⟨h.mem, h.die⟩

/-- Leaving bytes out of window memory keeps its canonical form. -/
protected theorem Keeps.of_filter {p} (h : Keeps s t) (hm : u.mem = t.mem.filter p) (hi : u.ident = t.ident) :
    Keeps s u := by
  refine ⟨fun hs => ?_, ?_⟩
  · rw [memoryCanonical, hm]
    exact Memory.wf_filter p _ (h.mem hs)
  · rw [diePreserved, hi]
    exact h.die

protected theorem Keeps.withDev {x} (h : Keeps s t) : Keeps s (t.withDev x) := ⟨h.mem, h.die⟩

protected theorem Keeps.withPins {x} (h : Keeps s t) : Keeps s (t.withPins x) := ⟨h.mem, h.die⟩

protected theorem Keeps.withAon {x} (h : Keeps s t) : Keeps s (t.withAon x) := ⟨h.mem, h.die⟩

protected theorem Keeps.withRegs {x} (h : Keeps s t) : Keeps s (t.withRegs x) := ⟨h.mem, h.die⟩

protected theorem Keeps.withPendCb {x} (h : Keeps s t) : Keeps s (t.withPendCb x) := ⟨h.mem, h.die⟩

protected theorem Keeps.withPendFb {x} (h : Keeps s t) : Keeps s (t.withPendFb x) := ⟨h.mem, h.die⟩

protected theorem Keeps.withPendMem {x} (h : Keeps s t) : Keeps s (t.withPendMem x) := ⟨h.mem, h.die⟩

protected theorem Keeps.withTimers {x} (h : Keeps s t) : Keeps s (t.withTimers x) := ⟨h.mem, h.die⟩

protected theorem Keeps.withOuts {x} (h : Keeps s t) : Keeps s (t.withOuts x) := ⟨h.mem, h.die⟩

protected theorem Keeps.withTime {x} (h : Keeps s t) : Keeps s (t.withTime x) := ⟨h.mem, h.die⟩

protected theorem Keeps.withRing {x} (h : Keeps s t) : Keeps s (t.withRing x) := ⟨h.mem, h.die⟩

protected theorem Keeps.withPlaza {x} (h : Keeps s t) : Keeps s (t.withPlaza x) := ⟨h.mem, h.die⟩

protected theorem Keeps.withJct {x} (h : Keeps s t) : Keeps s (t.withJct x) := ⟨h.mem, h.die⟩

protected theorem Keeps.withQueues {x} (h : Keeps s t) : Keeps s (t.withQueues x) := ⟨h.mem, h.die⟩

protected theorem Keeps.withBus {x} (h : Keeps s t) : Keeps s (t.withBus x) := ⟨h.mem, h.die⟩

protected theorem Keeps.withEngines {x} (h : Keeps s t) : Keeps s (t.withEngines x) := ⟨h.mem, h.die⟩

protected theorem Keeps.withTxn {x} (h : Keeps s t) : Keeps s (t.withTxn x) := ⟨h.mem, h.die⟩

protected theorem Keeps.withDrains {x} (h : Keeps s t) : Keeps s (t.withDrains x) := ⟨h.mem, h.die⟩

protected theorem Keeps.withCip {x} (h : Keeps s t) : Keeps s (t.withCip x) := ⟨h.mem, h.die⟩

protected theorem Keeps.withTwin {x} (h : Keeps s t) : Keeps s (t.withTwin x) := ⟨h.mem, h.die⟩

protected theorem Keeps.withPower {x} (h : Keeps s t) : Keeps s (t.withPower x) := ⟨h.mem, h.die⟩

protected theorem Keeps.withFlt {x} (h : Keeps s t) : Keeps s (t.withFlt x) := ⟨h.mem, h.die⟩

protected theorem Keeps.withOdw {x} (h : Keeps s t) : Keeps s (t.withOdw x) := ⟨h.mem, h.die⟩

protected theorem Keeps.withUpd {x} (h : Keeps s t) : Keeps s (t.withUpd x) := ⟨h.mem, h.die⟩

/-! ### Shared operations -/

protected theorem Keeps.setWord {key w} (h : Keeps s t) : Keeps s (setWord t key w) := h.withRegs

protected theorem Keeps.setF {f n} (h : Keeps s t) : Keeps s (setF t f n) := h.setWord

protected theorem Keeps.setFlag {f b} (h : Keeps s t) : Keeps s (setFlag t f b) := h.setF

protected theorem Keeps.addF {f k} (h : Keeps s t) : Keeps s (addF t f k) := h.setF

protected theorem Keeps.incF {f} (h : Keeps s t) : Keeps s (incF t f) := h.addF

protected theorem Keeps.incSat {f} (h : Keeps s t) : Keeps s (incSat t f) := .ite h.setF h

protected theorem Keeps.setBitF {f i b} (h : Keeps s t) : Keeps s (setBitF t f i b) := h.setF

protected theorem Keeps.setWords {key n v} (h : Keeps s t) : Keeps s (setWords t key n v) := by
  induction n generalizing t key v with
  | zero => exact h
  | succ n ih => exact ih h.setWord

protected theorem Keeps.memWrite {a bs} (h : Keeps s t) : Keeps s (memWrite t a bs) :=
  ⟨fun hs => memWrite_wf t a bs (h.mem hs), h.die⟩

protected theorem Keeps.eccTouch {a n} (h : Keeps s t) : Keeps s (eccTouch t a n) := by
  refine ⟨fun hs => eccTouch_wf t a n (h.mem hs), ?_⟩
  rw [eccTouch_frame]
  exact h.die

protected theorem Keeps.touchAll {rs} (h : Keeps s t) : Keeps s (touchAll t rs) := h.foldl fun _ _ h => h.eccTouch

protected theorem Keeps.memPut {a n v} (h : Keeps s t) : Keeps s (memPut t a n v) := h.memWrite

protected theorem Keeps.startTimer {id ticks} (h : Keeps s t) : Keeps s (startTimer t id ticks) := h.withTimers

protected theorem Keeps.ensureTimer {id ticks} (h : Keeps s t) : Keeps s (ensureTimer t id ticks) := by
  dsimp only [ensureTimer]
  split
  · exact h
  · exact h.startTimer

protected theorem Keeps.stopTimer {id} (h : Keeps s t) : Keeps s (stopTimer t id) := h.withTimers

protected theorem Keeps.output {e} (h : Keeps s t) : Keeps s (output t e) := h.withOuts

protected theorem Keeps.setPortSt {n p} (h : Keeps s t) : Keeps s (setPortSt t n p) := by
  dsimp only [setPortSt]
  split <;> exact h.withRing

protected theorem Keeps.setQueue {n q} (h : Keeps s t) : Keeps s (setQueue t n q) := h.withQueues

protected theorem Keeps.setBusCh {c b} (h : Keeps s t) : Keeps s (setBusCh t c b) := h.withBus

protected theorem Keeps.setEngine {e x} (h : Keeps s t) : Keeps s (setEngine t e x) := h.withEngines

protected theorem Keeps.setSlot {n x} (h : Keeps s t) : Keeps s (setSlot t n x) := h.withPower

protected theorem Keeps.twinNote {r} (h : Keeps s t) : Keeps s (twinNote t r) := .ite h.withTwin h

protected theorem Keeps.noteReg {u off w} (h : Keeps s t) : Keeps s (noteReg t u off w) := h.twinNote

protected theorem Keeps.noteWrite {u off w} {r : State × Nat} (h : Keeps s r.1) : Keeps s (noteWrite u off w r).1 :=
  .iteFst h.noteReg h

protected theorem Keeps.fifoShift {e rx n} (h : Keeps s t) : Keeps s (fifoShift t e rx n) := .ite h h.withFlt

protected theorem Keeps.fifoTake {e rx ws} (h : Keeps s t) : Keeps s (fifoTake t e rx ws).2 := h.eccTouch.fifoShift

/-! ### Message queues -/

protected theorem Keeps.commitMsg {n prio producer bytes} (h : Keeps s t) :
    Keeps s (commitMsg t n prio producer bytes) :=
  h.setQueue.withFlt

protected theorem Keeps.readMsg {n m} (h : Keeps s t) : Keeps s (readMsg t n m).2 := h.eccTouch

protected theorem Keeps.produce {n producer prio bytes} (h : Keeps s t) : Keeps s (produce t n producer prio bytes) :=
  .ite h.commitMsg h

protected theorem Keeps.produceCounted {n producer prio bytes} (h : Keeps s t) :
    Keeps s (produceCounted t n producer prio bytes) :=
  .ite h.commitMsg h.incF

protected theorem Keeps.releaseHeld {n} (h : Keeps s t) : Keeps s (releaseHeld t n) := h.setQueue

protected theorem Keeps.takeNext {n} (h : Keeps s t) : Keeps s (takeNext t n) := by
  dsimp only [takeNext]
  split
  · exact h.readMsg.setQueue
  · exact h

protected theorem Keeps.popQueue {n len} (h : Keeps s t) : Keeps s (popQueue t n len).1 :=
  h.releaseHeld.takeNext.twinNote

protected theorem Keeps.releaseQueue {n} (h : Keeps s t) : Keeps s (releaseQueue t n) := h.releaseHeld.twinNote

protected theorem Keeps.rewindPush {n} (h : Keeps s t) : Keeps s (rewindPush t n) := by
  dsimp only [rewindPush]
  split
  · exact h.setQueue.incF.stopTimer
  · exact h

protected theorem Keeps.pushHeader {n who w} (h : Keeps s t) : Keeps s (pushHeader t n who w).1 :=
  .iteFst h <| .iteFst h.rewindPush <| .iteFst h.rewindPush.setQueue.startTimer h.rewindPush

protected theorem Keeps.pushBytes {n who ofs bytes} (h : Keeps s t) : Keeps s (pushBytes t n who ofs bytes).1 := by
  dsimp only [pushBytes]
  split
  · exact h
  · exact .iteFst h <| .iteFst h.rewindPush <| .iteFst h.setQueue.stopTimer.commitMsg.twinNote h.setQueue.startTimer

protected theorem Keeps.flushQueue {n} (h : Keeps s t) : Keeps s (flushQueue t n) := h.setQueue.addF

protected theorem Keeps.disableQueue {n} (h : Keeps s t) : Keeps s (disableQueue t n) := h.rewindPush.flushQueue

protected theorem Keeps.writeQueueCfg {n w} (h : Keeps s t) : Keeps s (writeQueueCfg t n w).1 :=
  .iteFst (.iteFst h (h.setWord.when (·.disableQueue))) <| .iteFst (.iteFst h h.setWord.setQueue) h.setWord

protected theorem Keeps.writeQueueProd {n k w} (h : Keeps s t) : Keeps s (writeQueueProd t n k w).1 :=
  .iteFst h h.setWord

protected theorem Keeps.writeQueueCtl {n w} (h : Keeps s t) : Keeps s (writeQueueCtl t n w) :=
  ((Keeps.ite h.releaseQueue h).when (·.rewindPush)).when (·.flushQueue)

protected theorem Keeps.resetQueues (h : Keeps s t) : Keeps s (resetQueues t) := h.withQueues

protected theorem Keeps.rewindAll (h : Keeps s t) : Keeps s (rewindAll t) := h.foldl fun _ _ h => h.rewindPush

/-! ### Fault records -/

protected theorem Keeps.writeEventLog {record} (h : Keeps s t) : Keeps s (writeEventLog t record) :=
  h.memWrite.withFlt

protected theorem Keeps.eventLog {record} (h : Keeps s t) : Keeps s (eventLog t record) := .ite h.writeEventLog h

protected theorem Keeps.errPulse {cls} (h : Keeps s t) : Keeps s (errPulse t cls) :=
  .ite (h.withFlt.startTimer.when (·.setFlag)) h

protected theorem Keeps.countFault {cls unit} (h : Keeps s t) : Keeps s (countFault t cls unit) := h.incF.incF.incF

protected theorem Keeps.storeRecord {cls record} (h : Keeps s t) : Keeps s (storeRecord t cls record) :=
  h.memWrite.setF.when (·.produceCounted)

protected theorem Keeps.logFault {code cls reaction unit info0 info1} (h : Keeps s t) :
    Keeps s (logFault t code cls reaction unit info0 info1) :=
  (Keeps.ite h.countFault.incF ((h.countFault.storeRecord.when (·.withFlt)).when (·.eventLog))).errPulse

protected theorem Keeps.recordFault {code unit info0 info1} (h : Keeps s t) :
    Keeps s (recordFault t code unit info0 info1) := by
  dsimp only [recordFault]
  split
  · exact h.logFault
  · exact h

/-! ### Time bases -/

protected theorem Keeps.setBase {n t'} (h : Keeps s t) : Keeps s (setBase t n t') := h.withTime

protected theorem Keeps.tickBase {n} (h : Keeps s t) : Keeps s (tickBase t n) := h.setBase

protected theorem Keeps.tick (h : Keeps s t) : Keeps s (tick t) :=
  h.withMono.when (·.tickBase.tickBase.tickBase.tickBase)

protected theorem Keeps.moveBase {n off} (h : Keeps s t) : Keeps s (moveBase t n off) := h.setBase

protected theorem Keeps.setTb0State {st} (h : Keeps s t) : Keeps s (setTb0State t st) :=
  (Keeps.ite h.withTime h).setF.setFlag

protected theorem Keeps.stepBase {n} (h : Keeps s t) : Keeps s (stepBase t n).1 :=
  .iteFst h <| .iteFst h <| .iteFst h.setFlag (h.moveBase.setFlag.when (·.setFlag))

protected theorem Keeps.armBase {n} (h : Keeps s t) : Keeps s (armBase t n) :=
  .ite h <| .ite h.setFlag.setFlag.setTb0State (h.setFlag.setFlag.when (·.withTime))

protected theorem Keeps.writeTbCtl {n w} (h : Keeps s t) : Keeps s (writeTbCtl t n w).1 :=
  .iteFst ((Keeps.ite h.armBase h).stepBase) <| .ite h.armBase h

protected theorem Keeps.enterHoldover (h : Keeps s t) : Keeps s (enterHoldover t) := (Keeps.ite h.setF h).setTb0State

protected theorem Keeps.selectMaster (h : Keeps s t) : Keeps s (selectMaster t) := by
  dsimp only [selectMaster]
  split
  · exact h
  · split
    · exact h.setF.setF
    · split
      · exact h.setF.setFlag.setF.setTb0State.stopTimer
      · split
        · split
          · exact h.setF.setFlag.setF.setF.when (·.enterHoldover)
          · exact h.setF.setFlag.when (·.enterHoldover)
        · exact h.setF.setFlag.when (·.enterHoldover)

protected theorem Keeps.enterSlewing {o} (h : Keeps s t) : Keeps s (enterSlewing t o) := by
  unfold enterSlewing
  exact h.withTime.setF.setTb0State.recordFault

protected theorem Keeps.servoOffset {o} (h : Keeps s t) : Keeps s (servoOffset t o) :=
  .ite (.ite h.enterSlewing h.moveBase.setFlag.setTb0State) <| .ite (.ite h.enterSlewing h) <|
    .ite (.ite h.setTb0State h.enterSlewing) <| .ite h.setTb0State h.setF

protected theorem Keeps.servoReport {o peerOk} (h : Keeps s t) : Keeps s (servoReport t o peerOk) := by
  dsimp only [servoReport]
  split
  · exact h
  · split
    · split
      · exact h.startTimer
      · split
        · exact h.startTimer.when (·.enterHoldover)
        · split
          · exact h.startTimer.servoOffset
          · exact h.startTimer
    · split
      · exact h
      · split
        · exact .ite h.enterHoldover h
        · split
          · exact h.servoOffset
          · exact h

protected theorem Keeps.setFiring {k t'} (h : Keeps s t) : Keeps s (setFiring t k t') := h.withTime

protected theorem Keeps.armTrigger {k} (h : Keeps s t) : Keeps s (armTrigger t k) :=
  .ite h.setFlag <| .ite (h.setFlag.setFiring.when (·.setFlag)) <| .ite h.setFlag.setFiring h.setFlag.setFiring

protected theorem Keeps.armCycleTriggers (h : Keeps s t) : Keeps s (armCycleTriggers t) :=
  h.foldl fun _ _ h => by
    refine .ite ?_ h
    split
    · exact h.setFiring
    · exact h

protected theorem Keeps.fireTrigger {k} (h : Keeps s t) : Keeps s (fireTrigger t k) :=
  .ite h.addF.withTime.setFlag <| .ite h.addF.withTime.addF h.addF.withTime

protected theorem Keeps.storeCapture {k t' rising} (h : Keeps s t) : Keeps s (storeCapture t k t' rising) :=
  .ite h.incF (h.addF.setF.setWords.when (·.produceCounted))

/-! ### Plaza -/

protected theorem Keeps.setRefs {q l} (h : Keeps s t) : Keeps s (setRefs t q l) := h.withPlaza

protected theorem Keeps.writeCells {cs bytes} (h : Keeps s t) : Keeps s (writeCells t cs bytes) := by
  induction cs generalizing t bytes with
  | nil => exact h
  | cons c cs ih => exact ih h.memWrite

protected theorem Keeps.writeHeader {f} (h : Keeps s t) : Keeps s (writeHeader t f) := by
  dsimp only [writeHeader]
  split
  · exact h
  · exact .ite h h.memWrite

protected theorem Keeps.dropAt {q cls reason} (h : Keeps s t) : Keeps s (dropAt t q cls reason) :=
  h.incF.incF.setF.when (·.withPlaza)

protected theorem Keeps.dropIngress {reason} (h : Keeps s t) : Keeps s (dropIngress t reason) := h.incF

protected theorem Keeps.markFrame {q fid} (h : Keeps s t) : Keeps s (markFrame t q fid) := h.incF.incF.withPlaza

protected theorem Keeps.pushRef {t' fid n} (h : Keeps s t) : Keeps s (pushRef t t' fid n) := h.setRefs

protected theorem Keeps.storeFrame {f t'} (h : Keeps s t) : Keeps s (storeFrame t f t') :=
  h.withFresh.withPlaza.pushRef.writeCells

protected theorem Keeps.offerQueue {f t'} (h : Keeps s t) : Keeps s (offerQueue t f t') := by
  dsimp only [offerQueue]
  split
  · exact h.dropAt
  · split
    · split
      · exact h.pushRef.markFrame
      · exact h.storeFrame.markFrame
    · split
      · exact h.pushRef
      · exact h.storeFrame

protected theorem Keeps.captureRecord {f q depth cause reason} (h : Keeps s t) :
    Keeps s (captureRecord t f q depth cause reason) :=
  .ite ((Keeps.ite h.setFlag h).incF) <| .ite h.incF h.memWrite.setF.incF.withPlaza

protected theorem Keeps.sampleStep {f} (h : Keeps s t) : Keeps s (sampleStep t f).2 :=
  .iteSnd (.iteSnd h.withPlaza h.withPlaza) h

protected theorem Keeps.markSeen {fid} (h : Keeps s t) : Keeps s (markSeen t fid) := h.withPlaza

protected theorem Keeps.captureFrame {f ds} (h : Keeps s t) : Keeps s (captureFrame t f ds) := by
  dsimp only [captureFrame]
  split
  · split
    · exact (h.sampleStep.when (·.setF)).captureRecord.markSeen
    · split
      · exact h.sampleStep.setF.captureRecord.markSeen
      · split
        · exact h.sampleStep.captureRecord.markSeen
        · exact h.sampleStep
  · exact h

protected theorem Keeps.captureLoss {f q reason} (h : Keeps s t) : Keeps s (captureLoss t f q reason) :=
  .ite h.captureRecord.markSeen h

protected theorem Keeps.sendPause {p pfc prios quanta} (h : Keeps s t) : Keeps s (sendPause t p pfc prios quanta) :=
  h.output.incF

protected theorem Keeps.pauseTotal {p} (h : Keeps s t) : Keeps s (pauseTotal t p) :=
  .ite h.setF.sendPause.startTimer <| .ite h.setF.sendPause.stopTimer h

protected theorem Keeps.pauseClass {p c} (h : Keeps s t) : Keeps s (pauseClass t p c) :=
  .ite h.setBitF.sendPause.startTimer <| .ite h.setBitF.sendPause.stopTimer h

protected theorem Keeps.stopPauses {p} (h : Keeps s t) : Keeps s (stopPauses t p) :=
  h.setF.foldl fun _ _ h => h.stopTimer

protected theorem Keeps.pauseCheck {p} (h : Keeps s t) : Keeps s (pauseCheck t p) :=
  .ite h <| .ite (h.foldl fun _ _ h => h.pauseClass) <| .ite h.pauseTotal <| .ite h h.stopPauses

protected theorem Keeps.pauseMode {p pfc tx} (h : Keeps s t) : Keeps s (pauseMode t p pfc tx) :=
  .ite h h.stopPauses.pauseCheck

protected theorem Keeps.storeAndOffer {f targets} (h : Keeps s t) : Keeps s (storeAndOffer t f targets) := by
  dsimp only [storeAndOffer]
  split
  · exact (h.withPlaza.foldl fun _ _ h => h.offerQueue).writeHeader.captureFrame.pauseCheck
  · exact (h.withPlaza.foldl fun _ _ h => h.offerQueue).captureFrame.pauseCheck

protected theorem Keeps.enqueueFrame {f targets} (h : Keeps s t) : Keeps s (enqueueFrame t f targets) :=
  .ite h.storeAndOffer h

protected theorem Keeps.removeRef {q r} (h : Keeps s t) : Keeps s (removeRef t q r) := by
  dsimp only [removeRef]
  split
  · exact h.setRefs
  · exact .ite h.setRefs.withPlaza.pauseCheck h.setRefs.writeHeader

protected theorem Keeps.discardRef {q r reason} (h : Keeps s t) : Keeps s (discardRef t q r reason) := by
  dsimp only [discardRef]
  split
  · exact h.captureLoss.removeRef.dropAt
  · exact h.removeRef.dropAt

protected theorem Keeps.discardQueue {q reason} (h : Keeps s t) : Keeps s (discardQueue t q reason) :=
  h.foldl fun _ _ h => h.discardRef

protected theorem Keeps.handAt {p f give} (h : Keeps s t) (hg : ∀ v, Keeps s v → Keeps s (give v)) :
    Keeps s (handAt t p f give) := .ite (hg _ h.captureFrame) h.captureFrame.dropAt

/-! ### Claim, outputs and role of the twin -/

protected theorem Keeps.lowerClaim (h : Keeps s t) : Keeps s (lowerClaim t) := h.withTwin

protected theorem Keeps.setRole {r} (h : Keeps s t) : Keeps s (setRole t r) := h.withTwin

protected theorem Keeps.raiseClaim (h : Keeps s t) : Keeps s (raiseClaim t) := .ite h.withTwin h

protected theorem Keeps.leaveActive {r} (h : Keeps s t) : Keeps s (leaveActive t r) :=
  h.lowerClaim.setRole.setFlag.withTxn.withTwin

protected theorem Keeps.releaseClaim (h : Keeps s t) : Keeps s (releaseClaim t) :=
  .ite h <| .ite h.withTwin h.leaveActive

protected theorem Keeps.endResync (h : Keeps s t) : Keeps s (endResync t) := h.setFlag.setFlag.withTwin

protected theorem Keeps.twinLinkLost (h : Keeps s t) : Keeps s (twinLinkLost t) :=
  .ite h.withTwin.stopTimer.endResync.setRole (h.withTwin.stopTimer.endResync.when (·.leaveActive))

protected theorem Keeps.releaseIfPeerReady (h : Keeps s t) : Keeps s (releaseIfPeerReady t) := .ite h.releaseClaim h

/-! ### The station logic of the Crossing -/

protected theorem Keeps.countWrapStrip {f} (h : Keeps s t) : Keeps s (countWrapStrip t f) := .ite h h.incF

protected theorem Keeps.ringTarget {port k f sq} (h : Keeps s t) : Keeps s (ringTarget t port k f sq).2 :=
  .iteSnd h <| .iteSnd (.ite h h.incF) <| .iteSnd h h.countWrapStrip

protected theorem Keeps.enqueueRing {ts f inPort ptpStamp} (h : Keeps s t) :
    Keeps s (enqueueRing t ts f inPort ptpStamp) :=
  .ite h h.enqueueFrame

protected theorem Keeps.sendRing {port k f inPort ptpStamp} (h : Keeps s t) :
    Keeps s (sendRing t port k f inPort ptpStamp) := by
  dsimp only [sendRing]
  exact h.ringTarget.enqueueRing

protected theorem Keeps.nextSeq {node west} (h : Keeps s t) : Keeps s (nextSeq t node west).2 := h.withRing

protected theorem Keeps.addOnPort {port f} (h : Keeps s t) : Keeps s (addOnPort t port f) := h.withRing.sendRing

protected theorem Keeps.addPlan {port k f sq} (h : Keeps s t) : Keeps s (addPlan t port k f sq).2 := by
  dsimp only [addPlan]
  exact .iteSnd h <| .iteSnd h.incF <| .iteSnd h.incF <| .iteSnd h.withRing.ringTarget.ringTarget h.nextSeq.ringTarget

protected theorem Keeps.addFrameBy {port k f inPort ptpStamp} (h : Keeps s t) :
    Keeps s (addFrameBy t port k f inPort ptpStamp) := by
  dsimp only [addFrameBy]
  split
  · rename_i e
    exact (h.addPlan.of_snd e).enqueueRing
  · rename_i e
    exact h.addPlan.of_snd e

protected theorem Keeps.addFrame {k f inPort ptpStamp} (h : Keeps s t) : Keeps s (addFrame t k f inPort ptpStamp) :=
  h.addFrameBy

protected theorem Keeps.updateEntry {e} (h : Keeps s t) : Keeps s (updateEntry t e) := h.withRing

protected theorem Keeps.bumpMapGen (h : Keeps s t) : Keeps s (bumpMapGen t) := h.incF

protected theorem Keeps.sendWrapNotice {port event} (h : Keeps s t) : Keeps s (sendWrapNotice t port event) :=
  .ite h <| .ite h.withRing.addF h.withRing.addOnPort.addOnPort

protected theorem Keeps.relinkQueue {src dst} (h : Keeps s t) : Keeps s (relinkQueue t src dst) :=
  h.foldl fun _ _ h => by
    dsimp only
    split
    · exact .ite h.setRefs.setRefs h.removeRef.countWrapStrip
    · exact h

protected theorem Keeps.relinkPort {port} (h : Keeps s t) : Keeps s (relinkPort t port) :=
  ((h.foldl fun _ _ h => h.relinkQueue).foldl fun _ _ h => h.relinkQueue).relinkQueue

protected theorem Keeps.countSuspects {port} (h : Keeps s t) : Keeps s (countSuspects t port) := h.setPortSt.addF

protected theorem Keeps.loseHeal {port} (h : Keeps s t) : Keeps s (loseHeal t port) :=
  h.stopTimer.when (·.setPortSt.startTimer)

protected theorem Keeps.declareBroken {port} (h : Keeps s t) : Keeps s (declareBroken t port) :=
  .ite h <| .ite h.loseHeal ((h.countSuspects.incF.setBitF.setBitF.setPortSt.stopTimer.startTimer.unless
    (·.relinkPort)).sendWrapNotice.recordFault.when (·.releaseIfPeerReady))

protected theorem Keeps.unwrapPort {port} (h : Keeps s t) : Keeps s (unwrapPort t port) :=
  h.setBitF.setBitF.setPortSt.startTimer.sendWrapNotice

/-! ### The bridge -/

protected theorem Keeps.hitDynamic {a} (h : Keeps s t) : Keeps s (hitDynamic t a) := h.memPut

protected theorem Keeps.writeDynamic {a vid mac port node side} (h : Keeps s t) :
    Keeps s (writeDynamic t a vid mac port node side) :=
  h.memWrite.memPut.memPut

protected theorem Keeps.clearDynamic {a} (h : Keeps s t) : Keeps s (clearDynamic t a) := h.memWrite.setF

protected theorem Keeps.learnEntry {vid mac port node side} (h : Keeps s t) :
    Keeps s (learnEntry t vid mac port node side) := by
  dsimp only [learnEntry]
  split
  · exact .ite h.hitDynamic h.writeDynamic.incF
  · split
    · exact h.writeDynamic.addF
    · exact h.incF

protected theorem Keeps.learnSource {may vid mac port node side} (h : Keeps s t) :
    Keeps s (learnSource t may vid mac port node side) := by
  dsimp only [learnSource]
  split
  · exact h.learnEntry
  · split
    · exact h.hitDynamic
    · exact h

protected theorem Keeps.touchLookup {vid da} (h : Keeps s t) : Keeps s (touchLookup t vid da) :=
  h.eccTouch.eccTouch.eccTouch

protected theorem Keeps.lookupForward {vid da cls inPort fromRing bcast} (h : Keeps s t) :
    Keeps s (lookupForward t vid da cls inPort fromRing bcast).2 := by
  dsimp only [lookupForward]
  split
  · split <;> exact h.touchLookup
  · split
    · exact h.touchLookup
    · split
      · exact .iteSnd h.touchLookup.hitDynamic h.touchLookup.hitDynamic
      · exact h.touchLookup

protected theorem Keeps.ringPlaces {f bytes fw stamp} (h : Keeps s t) :
    Keeps s (ringPlaces t f bytes fw stamp).2 := by
  dsimp only [ringPlaces]
  split
  · exact h
  · split
    · split
      · rename_i e
        exact h.addPlan.of_snd e
      · rename_i e
        exact h.addPlan.of_snd e
    · exact h

protected theorem Keeps.portPlaces {vid len fw} (h : Keeps s t) : Keeps s (portPlaces t vid len fw).2 :=
  h.foldl fun _ _ h => h.dropIngress

protected theorem Keeps.forwardFrame {f bytes fw stamp} (h : Keeps s t) :
    Keeps s (forwardFrame t f bytes fw stamp) := by
  dsimp only [forwardFrame]
  exact .ite ((h.portPlaces.dropIngress.captureFrame.when (·.incF)).unless (·.enqueueFrame)) <|
    .ite h.portPlaces.ringPlaces.captureFrame h.portPlaces.ringPlaces.enqueueFrame

protected theorem Keeps.bridgeFromRing {port f} (h : Keeps s t) : Keeps s (bridgeFromRing t port f) := by
  dsimp only [bridgeFromRing]
  exact .ite h.dropIngress.captureFrame <| .ite h.learnSource.enqueueFrame h.learnSource.lookupForward.forwardFrame

/-! ### Port states and the lane table -/

protected theorem Keeps.loadEq {key lane idx} (h : Keeps s t) : Keeps s (loadEq t key lane idx) := h.setWord.setWord

protected theorem Keeps.setPortState {p st} (h : Keeps s t) : Keeps s (setPortState t p st) := h.setF

protected theorem Keeps.startFlush {p} (h : Keeps s t) : Keeps s (startFlush t p) :=
  (h.setPortState.stopTimer.foldl fun _ _ h => h.discardQueue).when fun h => h.foldl fun _ _ h => h.clearDynamic

protected theorem Keeps.portLinkLost {p} (h : Keeps s t) : Keeps s (portLinkLost t p) :=
  .ite h.startFlush <| .ite h.setPortState.stopTimer h

protected theorem Keeps.enterHold {p} (h : Keeps s t) : Keeps s (enterHold t p) := h.setPortState.startTimer

protected theorem Keeps.portLinkFound {p} (h : Keeps s t) : Keeps s (portLinkFound t p) := .ite h.enterHold h

protected theorem Keeps.changeMode {lane mode} (h : Keeps s t) : Keeps s (changeMode t lane mode) :=
  .ite ((h.setF.setWord.foldl fun _ _ h => h.startFlush).unless (·.loadEq)) h

/-! ### Access lanes -/

protected theorem Keeps.pauseRx {p c quanta} (h : Keeps s t) : Keeps s (pauseRx t p c quanta) :=
  .ite h <| .ite h.setBitF.stopTimer h.setBitF.startTimer

protected theorem Keeps.countGood {p bs} (h : Keeps s t) : Keeps s (countGood t p bs) := h.incF.addF

protected theorem Keeps.receivePause {p bs} (h : Keeps s t) : Keeps s (receivePause t p bs) :=
  .ite (h.countGood.incF.foldl fun _ _ h => h.pauseRx)
    (h.countGood.incF.when fun h => h.foldl fun _ _ h => .ite h.pauseRx h)

protected theorem Keeps.offerEthernet {bs} (h : Keeps s t) : Keeps s (offerEthernet t bs) := by
  dsimp only [offerEthernet]
  split
  · exact h
  · split
    · exact .ite h.withJct h.incF
    · exact h.incF

protected theorem Keeps.bridgeAccess {p tag bs} (h : Keeps s t) : Keeps s (bridgeAccess t p tag bs) := by
  dsimp only [bridgeAccess]
  exact .ite h.withPlaza.dropIngress.incF.captureFrame <| .ite (h.withPlaza.handAt fun _ h => h.offerEthernet)
    h.withPlaza.lookupForward.forwardFrame.learnSource

protected theorem Keeps.execFrameAdmit {q inPort bs} (h : Keeps s t) : KeepsNext s (execFrameAdmit q inPort bs t) :=
  .next (.ite h.enqueueFrame h)

protected theorem Keeps.dropOldHeads {q rs} (h : Keeps s t) : Keeps s (dropOldHeads q rs t) := by
  induction rs generalizing t with
  | nil => exact h
  | cons r rs ih =>
    rw [dropOldHeads]
    split
    · exact .ite (ih h.discardRef) h
    · exact h

protected theorem Keeps.refillRequests (h : Keeps s t) : Keeps s (refillRequests t) :=
  h.foldl fun _ _ h => .ite h.withRing h

protected theorem Keeps.dropHeldRequests {port} (h : Keeps s t) : Keeps s (dropHeldRequests t port) :=
  h.withRing.refillRequests

protected theorem Keeps.execResidencyCheck {q} (h : Keeps s t) : KeepsNext s (execResidencyCheck q t) :=
  .next (.ite ((Keeps.ite h.dropHeldRequests <| .ite h.dropHeldRequests h).dropOldHeads) h)

protected theorem Keeps.sweepDynamic (h : Keeps s t) : Keeps s (sweepDynamic t) :=
  h.foldl fun _ _ h => .ite h.memPut h.clearDynamic

protected theorem Keeps.execAgeingSweep (h : Keeps s t) : KeepsNext s (execAgeingSweep t) :=
  .next (.ite (h.startTimer.unless (·.sweepDynamic)) h)

protected theorem Keeps.writeLearnCtl {w} (h : Keeps s t) : Keeps s (writeLearnCtl t w) :=
  h.setWord.when fun h => h.foldl fun _ _ h => h.clearDynamic

protected theorem Keeps.execLearnFlush {sel} (h : Keeps s t) : KeepsNext s (execLearnFlush sel t) :=
  .next (.ite h.writeLearnCtl.noteReg h)

protected theorem Keeps.execPauseExpiry {p c} (h : Keeps s t) : KeepsNext s (execPauseExpiry p c t) :=
  .next (.ite h.setBitF.stopTimer h)

protected theorem Keeps.refreshPause {p c} (h : Keeps s t) : Keeps s (refreshPause t p c) :=
  .ite h.stopTimer ((Keeps.ite h.sendPause h.sendPause).startTimer)

protected theorem Keeps.execPauseRefresh {p} (h : Keeps s t) : KeepsNext s (execPauseRefresh p t) :=
  .next (h.foldl fun _ _ h => .ite h.refreshPause h)

protected theorem Keeps.execCaptureResume (h : Keeps s t) : KeepsNext s (execCaptureResume t) :=
  .next (.ite h.setFlag.noteReg h)

protected theorem Keeps.execLaneModeChange {lane mode} (h : Keeps s t) :
    KeepsNext s (execLaneModeChange lane mode t) :=
  .next (.ite h.changeMode.noteReg h)

protected theorem Keeps.accessUp {p speed full peerPause} (h : Keeps s t) :
    Keeps s (accessUp t p speed full peerPause) :=
  .ite h.incF (((h.setBitF.setF.setFlag.setFlag.when (·.setFlag)).when (·.setF)).when (·.portLinkFound))

protected theorem Keeps.execAccessLinkUp {p speed full peerPause} (h : Keeps s t) :
    KeepsNext s (execAccessLinkUp p speed full peerPause t) :=
  .next (.ite h.accessUp h)

protected theorem Keeps.dropLink {p} (h : Keeps s t) : Keeps s (dropLink t p) := h.setBitF.portLinkLost

protected theorem Keeps.laneLoss {lane how} (h : Keeps s t) : Keeps s (laneLoss t lane how) :=
  ((Keeps.ite h.setFlag h).when (·.setFlag)).unless (·.setFlag)

protected theorem Keeps.execAccessLinkDown {down} (h : Keeps s t) : KeepsNext s (execAccessLinkDown down t) :=
  .next (.ite (.ite (h.addF.laneLoss.foldl fun _ _ h => h.dropLink) h.addF.laneLoss.dropLink) h)

protected theorem Keeps.execFlushDone {p} (h : Keeps s t) : KeepsNext s (execFlushDone p t) :=
  .next (.ite (.ite (.ite h.enterHold h.setPortState) <| .ite h.setPortState h.setPortState) h)

protected theorem Keeps.execHoldExpiry {p} (h : Keeps s t) : KeepsNext s (execHoldExpiry p t) :=
  .next (.ite h.setPortState.stopTimer h)

/-! ### Keys, nonces and frames on the line -/

protected theorem Keeps.cacheInsert {e} (h : Keeps s t) : Keeps s (cacheInsert t e) := h.withCip

protected theorem Keeps.deriveKey {ksrc kreg ksize label context root} (h : Keeps s t) :
    Keeps s (deriveKey t ksrc kreg ksize label context root).2 := by
  dsimp only [deriveKey]
  split
  · exact h.withCip
  · exact h.incF.cacheInsert

protected theorem Keeps.descriptorKey {d} (h : Keeps s t) : KeepsSome s Prod.snd (descriptorKey t d) := by
  dsimp only [descriptorKey]
  split
  · exact .ite (.some h) .none
  · split
    · exact .none
    · exact .some h.deriveKey

protected theorem Keeps.cacheSegment {gen lower higher dir key} (h : Keeps s t) :
    Keeps s (cacheSegment t gen lower higher dir key) :=
  h.withCip.cacheInsert

protected theorem Keeps.setNctr {slot v} (h : Keeps s t) : Keeps s (setNctr t slot v) := h.setWords

protected theorem Keeps.setNlim {slot v} (h : Keeps s t) : Keeps s (setNlim t slot v) := h.setWords

protected theorem Keeps.startCounter {slot gen} (h : Keeps s t) : Keeps s (startCounter t slot gen) := by
  dsimp only [startCounter]
  split
  · exact .ite h.setNctr.setNlim h.setNctr.setNlim
  · exact h.setNctr.setNlim

protected theorem Keeps.countUnder {slot gen} (h : Keeps s t) : Keeps s (countUnder t slot gen) :=
  .ite h h.withCip.startCounter

protected theorem Keeps.resumeSlot {slot} (h : Keeps s t) : Keeps s (resumeSlot t slot) :=
  (Keeps.ite h.withCip h).startCounter

protected theorem Keeps.deriveSegment {port} (h : Keeps s t) : Keeps s (deriveSegment t port) := by
  dsimp only [deriveSegment]
  split
  · exact h
  · exact h.countUnder.setPortSt.cacheSegment.cacheSegment.addF

protected theorem Keeps.writeNonceRecord {slot gen ctx lim} (h : Keeps s t) :
    Keeps s (writeNonceRecord t slot gen ctx lim) :=
  h.memWrite.withCip.incF

protected theorem Keeps.startReservation {slot} (h : Keeps s t) : Keeps s (startReservation t slot) :=
  .ite h h.withCip

protected theorem Keeps.takeNonce {slot} (h : Keeps s t) : Keeps s (takeNonce t slot).2 := by
  rw [takeNonce]
  refine .iteSnd h (.iteSnd ?_ (.iteSnd h.startReservation ?_))
  · dsimp only
    exact h.withCip.recordFault
  · exact Keeps.when (h.setNctr.when (·.incF)) (·.startReservation)

protected theorem Keeps.sealNonce {port} (h : Keeps s t) : Keeps s (sealNonce t port).2 := by
  dsimp only [sealNonce]
  split
  · exact h
  · split
    · exact h
    · split
      · rename_i e
        exact h.takeNonce.of_snd e
      · rename_i e
        exact .iteSnd ((h.takeNonce.of_snd e).setPortSt.declareBroken) (h.takeNonce.of_snd e)

protected theorem Keeps.countWaits {f} (h : Keeps s t) : Keeps s (countWaits t f) := .ite h.withFresh.addF h

protected theorem Keeps.sendWords {port words event} (h : Keeps s t) : Keeps s (sendWords t port words event) := by
  dsimp only [sendWords]
  split
  · exact h.setPortSt.output.output.output
  · exact h.setPortSt.output

protected theorem Keeps.emitRing {port f stomp} (h : Keeps s t) : Keeps s (emitRing t port f stomp) := by
  unfold emitRing
  exact h.countWaits.sendWords

protected theorem Keeps.emitFrame {port f stomp} (h : Keeps s t) : Keeps s (emitFrame t port f stomp) :=
  h.setPortSt.emitRing

/-! ### Egress -/

protected theorem Keeps.settleSub {q} (h : Keeps s t) : Keeps s (settleSub t q) := h.withPlaza

protected theorem Keeps.settleAdded {port} (h : Keeps s t) : Keeps s (settleAdded t port) :=
  h.foldl fun _ _ h => h.withPlaza

protected theorem Keeps.chargeSub {q bytes} (h : Keeps s t) : Keeps s (chargeSub t q bytes) := .ite h.withPlaza h

protected theorem Keeps.setDeficit {p c d} (h : Keeps s t) : Keeps s (setDeficit t p c d) := h.withPlaza

protected theorem Keeps.advanceClass {p c} (h : Keeps s t) : Keeps s (advanceClass t p c) :=
  h.withPlaza.when (·.setDeficit)

protected theorem Keeps.roundRobin {p fuel} (h : Keeps s t) : Keeps s (roundRobin t p fuel).2 := by
  induction fuel generalizing t with
  | zero => exact h
  | succ fuel ih =>
    rw [roundRobin]
    split
    · exact .iteSnd h (ih h.advanceClass)
    · exact ih (h.when (·.setDeficit)).advanceClass

protected theorem Keeps.nextQueue {p} (h : Keeps s t) : Keeps s (nextQueue t p).2 := by
  dsimp only [nextQueue]
  split
  · exact h
  · split
    · exact h
    · exact .iteSnd h.roundRobin h

protected theorem Keeps.egressRecord {p bs} (h : Keeps s t) : Keeps s (egressRecord t p bs) := by
  dsimp only [egressRecord]
  split
  · exact h
  · exact .ite h.produceCounted h

protected theorem Keeps.sendAccess {p f} (h : Keeps s t) : Keeps s (sendAccess t p f) :=
  h.egressRecord.incF.addF.output

protected theorem Keeps.sendInternal {p f} (h : Keeps s t) : Keeps s (sendInternal t p f) := by
  dsimp only [sendInternal]
  exact .ite h.output <| .ite h.offerEthernet <| .ite h.output <| .ite h.lookupForward.forwardFrame h

protected theorem Keeps.noteDeparture {q f} (h : Keeps s t) : Keeps s (noteDeparture t q f) := .ite h.withPlaza h

protected theorem Keeps.chargeSend {p q f transitWaits} (h : Keeps s t) : Keeps s (chargeSend t p q f transitWaits) :=
  (Keeps.ite h.setDeficit h).withPlaza.chargeSub.when (·.withPlaza)

protected theorem Keeps.readFrame {f} (h : Keeps s t) : Keeps s (readFrame t f).2 :=
  .iteSnd h.touchAll h.touchAll.withPlaza

protected theorem Keeps.dequeueSend {p q} (h : Keeps s t) : Keeps s (dequeueSend t p q) := by
  dsimp only [dequeueSend]
  split
  · exact h
  · split
    · exact h
    · exact .ite ((h.readFrame.chargeSend.removeRef.noteDeparture.when (·.setDeficit)).sendAccess) <|
        .ite ((h.readFrame.chargeSend.removeRef.noteDeparture.when (·.setDeficit)).emitFrame)
        ((h.readFrame.chargeSend.removeRef.noteDeparture.when (·.setDeficit)).sendInternal)

protected theorem Keeps.serveEgress {p} (h : Keeps s t) : Keeps s (serveEgress t p) := by
  dsimp only [serveEgress]
  split
  · rename_i e
    exact h.nextQueue.of_snd e
  · split
    · split
      · rename_i e _ _ _ e2
        exact ((h.nextQueue.of_snd e).sealNonce.of_snd e2).dequeueSend
      · rename_i e _ _ _ e2
        exact (h.nextQueue.of_snd e).sealNonce.of_snd e2
    · rename_i e _
      exact (h.nextQueue.of_snd e).dequeueSend

protected theorem Keeps.execEgressSchedule {p} (h : Keeps s t) : KeepsNext s (execEgressSchedule p t) :=
  .next (.ite h.serveEgress h)

/-! ### Ingress -/

protected theorem Keeps.cutOff {f targets} (h : Keeps s t) : Keeps s (cutOff t f targets) := by
  dsimp only [cutOff]
  split
  · exact h
  · exact ((h.enqueueFrame.foldl fun _ _ h => h.serveEgress).when (·.incF)).foldl fun _ _ h => h.foldl fun _ _ h =>
      h.removeRef

protected theorem Keeps.loseFrame {f places} (h : Keeps s t) (hp : ∀ v, Keeps s v → Keeps s (places v).2) :
    Keeps s (loseFrame t f places) :=
  have h' := h.dropIngress.captureFrame
  .ite (hp _ h').cutOff h'

protected theorem Keeps.accessPlaces {f bs refused} (h : Keeps s t) : Keeps s (accessPlaces f bs refused t).2 := by
  dsimp only [accessPlaces]
  exact .iteSnd h <| .iteSnd h.lookupForward h.lookupForward.ringPlaces

protected theorem Keeps.badAccess {p bs} (h : Keeps s t) : Keeps s (badAccess t p bs) :=
  .ite (h.loseFrame fun _ h => h.accessPlaces) h

protected theorem Keeps.receiveAccess {p bs fcsOk truncated} (h : Keeps s t) :
    Keeps s (receiveAccess t p bs fcsOk truncated) :=
  .ite h.incF.badAccess <| .ite h.incF.badAccess <| .ite h.badAccess <| .ite h.receivePause h.countGood.bridgeAccess

protected theorem Keeps.execAccessFrameReceive {p bs fcsOk line} (h : Keeps s t) :
    KeepsNext s (execAccessFrameReceive p bs fcsOk line t) :=
  .next (.ite h.addF.receiveAccess h)

protected theorem Keeps.execPauseFrameReceive {p bs} (h : Keeps s t) : KeepsNext s (execPauseFrameReceive p bs t) :=
  .next (.ite h.receivePause h)

/-! ### The cipher engine -/

protected theorem Keeps.setIv {d bs} (h : Keeps s t) : Keeps s (setIv t d bs) := h.setWords

protected theorem Keeps.writeDescriptorCtl {d w mgt} (h : Keeps s t) : Keeps s (writeDescriptorCtl t d w mgt).1 :=
  .iteFst h <| .iteFst h.setWord.withCip.setWord.withCip h.setWord.withCip

protected theorem Keeps.finishDescriptor {d result} (h : Keeps s t) : Keeps s (finishDescriptor t d result) :=
  (Keeps.ite h.setF.setF.setBitF.incF (h.setF.setF.setBitF.when (·.incF))).withCip

protected theorem Keeps.abortDescriptors (h : Keeps s t) : Keeps s (abortDescriptors t) :=
  h.foldl fun _ _ h => .ite h.finishDescriptor h

protected theorem Keeps.zeroiseKeyRegs (h : Keeps s t) : Keeps s (zeroiseKeyRegs t) :=
  h.withCip.foldl fun _ _ h => .ite h.finishDescriptor h

protected theorem Keeps.writeOutput {d ofs bs} (h : Keeps s t) : Keeps s (writeOutput t d ofs bs) := by
  dsimp only [writeOutput]
  split
  · exact h.memWrite
  · exact h.memWrite
  · exact h.enqueueFrame
  · exact h

protected theorem Keeps.opCbcEncrypt {d j} (h : Keeps s t) : Keeps s (opCbcEncrypt t d j) :=
  h.setF.writeOutput.finishDescriptor

protected theorem Keeps.opCbcDecrypt {d j} (h : Keeps s t) : Keeps s (opCbcDecrypt t d j) :=
  (h.setF.unless (·.writeOutput)).finishDescriptor

protected theorem Keeps.opCfb {d j dec} (h : Keeps s t) : Keeps s (opCfb t d j dec) := h.writeOutput.finishDescriptor

protected theorem Keeps.opCtr {d j} (h : Keeps s t) : Keeps s (opCtr t d j) := h.writeOutput.finishDescriptor

protected theorem Keeps.opGcmEncrypt {d j} (h : Keeps s t) : Keeps s (opGcmEncrypt t d j) :=
  h.writeOutput.finishDescriptor

protected theorem Keeps.opGcmDecrypt {d j} (h : Keeps s t) : Keeps s (opGcmDecrypt t d j) :=
  .ite h.setF.writeOutput.finishDescriptor <| .ite h.writeOutput.finishDescriptor h.finishDescriptor

protected theorem Keeps.opCmac {d j verify} (h : Keeps s t) : Keeps s (opCmac t d j verify) :=
  .ite h.finishDescriptor h.setIv.finishDescriptor

protected theorem Keeps.opUnwrap {d j} (h : Keeps s t) : Keeps s (opUnwrap t d j) :=
  .ite h.withCip.finishDescriptor h.finishDescriptor

protected theorem Keeps.touchSource {d} (h : Keeps s t) : Keeps s (touchSource t d) := .ite h h.eccTouch.eccTouch

protected theorem Keeps.runDescriptor {d} (h : Keeps s t) : Keeps s (runDescriptor t d) := by
  dsimp only [runDescriptor]
  split
  · exact h.finishDescriptor
  · split
    · rename_i e _
      exact (h.descriptorKey _ e).touchSource.finishDescriptor
    · split
      · rename_i e _ _ _
        exact (h.descriptorKey _ e).touchSource.opCbcEncrypt
      · rename_i e _ _ _
        exact (h.descriptorKey _ e).touchSource.opCbcDecrypt
      · rename_i e _ _ _
        exact (h.descriptorKey _ e).touchSource.opCfb
      · rename_i e _ _ _
        exact (h.descriptorKey _ e).touchSource.opCfb
      · rename_i e _ _ _
        exact (h.descriptorKey _ e).touchSource.opCtr
      · rename_i e _ _ _
        exact (h.descriptorKey _ e).touchSource.opGcmEncrypt
      · rename_i e _ _ _
        exact (h.descriptorKey _ e).touchSource.opGcmDecrypt
      · rename_i e _ _ _
        exact (h.descriptorKey _ e).touchSource.opCmac
      · rename_i e _ _ _
        exact (h.descriptorKey _ e).touchSource.opCmac
      · rename_i e _ _ _
        exact (h.descriptorKey _ e).touchSource.opUnwrap
      · rename_i e _ _ _ _ _ _ _ _ _ _ _ _
        exact (h.descriptorKey _ e).touchSource.finishDescriptor

/-- Both states that the choice of an IV answers: the one to go on from, and the one to wait in. -/
protected theorem Keeps.startIv {d} (h : Keeps s t) : KeepsSome s id (startIv t d).1 ∧ Keeps s (startIv t d).2 := by
  dsimp only [startIv]
  split
  · split
    next e => exact ⟨.some (h.takeNonce.of_snd e).setIv, h.takeNonce.of_snd e⟩
    next e => exact ⟨.none, h.takeNonce.of_snd e⟩
  · split
    · exact ⟨.some h.withFresh.setIv, h⟩
    · exact ⟨.some h, h⟩

protected theorem Keeps.takeSourceFrame {d} (h : Keeps s t) : Keeps s (takeSourceFrame t d) := by
  dsimp only [takeSourceFrame]
  split
  · split
    · exact h.removeRef.withCip
    · exact h
  · exact h

protected theorem Keeps.beginDescriptor {d len} (h : Keeps s t) : Keeps s (beginDescriptor t d len) := by
  dsimp only [beginDescriptor]
  split
  · rename_i e
    exact (Keeps.ite ((h.takeSourceFrame.descriptorKey _ e).withCip) (h.takeSourceFrame.descriptorKey _
      e)).withCip.setF
  · exact (h.takeSourceFrame.when (·.withCip)).withCip.setF

protected theorem Keeps.startDescriptor {d} (h : Keeps s t) : Keeps s (startDescriptor t d) := by
  refine .ite h.finishDescriptor (.ite h ?_)
  split
  next e => exact (h.startIv.1 _ (by rw [e])).beginDescriptor
  next e => exact .ite (h.startIv.2.of_snd e).finishDescriptor (h.startIv.2.of_snd e)

protected theorem Keeps.queueOp {d op ctl} (h : Keeps s t) : Keeps s (queueOp t d op ctl) := by
  dsimp only [queueOp]
  exact .ite h.writeDescriptorCtl.noteWrite.output h.output

protected theorem Keeps.execGcmEncrypt {d ctl} (h : Keeps s t) : KeepsNext s (execGcmEncrypt d ctl t) :=
  .next h.queueOp

protected theorem Keeps.execGcmDecrypt {d ctl} (h : Keeps s t) : KeepsNext s (execGcmDecrypt d ctl t) :=
  .next h.queueOp

protected theorem Keeps.execCbcEncrypt {d ctl} (h : Keeps s t) : KeepsNext s (execCbcEncrypt d ctl t) :=
  .next h.queueOp

protected theorem Keeps.execCbcDecrypt {d ctl} (h : Keeps s t) : KeepsNext s (execCbcDecrypt d ctl t) :=
  .next h.queueOp

protected theorem Keeps.execCfbEncrypt {d ctl} (h : Keeps s t) : KeepsNext s (execCfbEncrypt d ctl t) :=
  .next h.queueOp

protected theorem Keeps.execCfbDecrypt {d ctl} (h : Keeps s t) : KeepsNext s (execCfbDecrypt d ctl t) :=
  .next h.queueOp

protected theorem Keeps.execCtr {d ctl} (h : Keeps s t) : KeepsNext s (execCtr d ctl t) := .next h.queueOp

protected theorem Keeps.execCmacGenerate {d ctl} (h : Keeps s t) : KeepsNext s (execCmacGenerate d ctl t) :=
  .next h.queueOp

protected theorem Keeps.execCmacVerify {d ctl} (h : Keeps s t) : KeepsNext s (execCmacVerify d ctl t) :=
  .next h.queueOp

protected theorem Keeps.execUnwrapRing {d ctl} (h : Keeps s t) : KeepsNext s (execUnwrapRing d ctl t) :=
  .next h.queueOp

protected theorem Keeps.execDescriptorStart (h : Keeps s t) : KeepsNext s (execDescriptorStart t) := by
  dsimp only [execDescriptorStart]
  split
  · split
    · exact .next h.startDescriptor
    · exact .next h
  · exact .next h

protected theorem Keeps.endPass1 {d} (h : Keeps s t) : Keeps s (endPass1 t d) := by
  dsimp only [endPass1]
  split
  · exact h.finishDescriptor
  · rename_i e
    exact .ite ((h.descriptorKey _ e).touchSource.setF) ((h.descriptorKey _ e).touchSource.finishDescriptor)

protected theorem Keeps.flushCache (h : Keeps s t) : Keeps s (flushCache t) := h.withCip

protected theorem Keeps.execCacheFlush (h : Keeps s t) : KeepsNext s (execCacheFlush t) :=
  .next (.ite h.flushCache.noteReg h)

protected theorem Keeps.nextLgen (h : Keeps s t) : Keeps s (nextLgen t) :=
  .ite h.withCip.setFlag <| .ite h.withCip.setFlag ((h.setF.withCip.foldl fun _ _ h =>
    h.writeNonceRecord.setNctr.setNlim).setFlag)

protected theorem Keeps.execLgenNext (h : Keeps s t) : KeepsNext s (execLgenNext t) :=
  .next (.ite h.nextLgen.noteReg h)

protected theorem Keeps.writeKeyReg {k w v} (h : Keeps s t) : Keeps s (writeKeyReg t k w v).1 :=
  .iteFst h <| .iteFst h h.withCip

protected theorem Keeps.execKeyRegisterWrite {k w v} (h : Keeps s t) :
    KeepsNext s (execKeyRegisterWrite k w v t) := by
  dsimp only [execKeyRegisterWrite]
  exact .next (.ite h.writeKeyReg.noteWrite.output h.output)

protected theorem Keeps.execNonceReservationComplete {slot} (h : Keeps s t) :
    KeepsNext s (execNonceReservationComplete slot t) :=
  .next (.ite h.writeNonceRecord.setNlim.withCip h)

protected theorem Keeps.execEntropyFail (h : Keeps s t) : KeepsNext s (execEntropyFail t) :=
  .next (.ite h.withCip.recordFault h)

/-! ### Ring and twin lanes -/

protected theorem Keeps.setBuState {p st} (h : Keeps s t) : Keeps s (setBuState t p st) := h.setF

protected theorem Keeps.buReason {p reason rate} (h : Keeps s t) : Keeps s (buReason t p reason rate) := h.setF.setF

protected theorem Keeps.dropLock {p} (h : Keeps s t) : Keeps s (dropLock t p) := h.setPortSt

protected theorem Keeps.restartTx {p} (h : Keeps s t) : Keeps s (restartTx t p) := h.setPortSt

protected theorem Keeps.stopBringup {p} (h : Keeps s t) : Keeps s (stopBringup t p) :=
  h.foldl fun _ _ h => h.stopTimer

protected theorem Keeps.showState {p st} (h : Keeps s t) : Keeps s (showState t p st) := h.setPortSt.output

protected theorem Keeps.loadPortEq {p rate} (h : Keeps s t) : Keeps s (loadPortEq t p rate) := h.loadEq.loadEq

protected theorem Keeps.leaveUp {p} (h : Keeps s t) : Keeps s (leaveUp t p) :=
  .ite (.ite h.twinLinkLost h.declareBroken) h

protected theorem Keeps.enterDown {p} (h : Keeps s t) : Keeps s (enterDown t p) :=
  h.leaveUp.stopBringup.setFlag.setFlag.setBuState.dropLock.setPortSt

protected theorem Keeps.settlePort {p} (h : Keeps s t) : Keeps s (settlePort t p) := .ite h.settleAdded h

protected theorem Keeps.enterCap {p} (h : Keeps s t) : Keeps s (enterCap t p) :=
  h.leaveUp.stopBringup.settlePort.setBuState.setF.setFlag.setFlag.setFlag.dropLock.setFlag.setPortSt.restartTx
    |>.loadPortEq.output.startTimer

protected theorem Keeps.startPort {p} (h : Keeps s t) : Keeps s (startPort t p) := .ite h.enterCap h

protected theorem Keeps.goUp {p} (h : Keeps s t) : Keeps s (goUp t p) :=
  .ite ((h.stopBringup.setBuState.setFlag.when (·.deriveSegment)).setPortSt.startTimer)
    ((h.stopBringup.setBuState.setFlag.when (·.deriveSegment)).setPortSt.ensureTimer.startTimer.startTimer)

protected theorem Keeps.switchRate {p rate} (h : Keeps s t) : Keeps s (switchRate t p rate) :=
  h.stopBringup.settlePort.setBuState.setF.dropLock.restartTx.loadPortEq.setPortSt.showState.startTimer

protected theorem Keeps.noteNoTable {p} (h : Keeps s t) : Keeps s (noteNoTable t p) := by
  dsimp only [noteNoTable]
  split
  · exact .ite h.buReason h
  · exact h

protected theorem Keeps.stepOn {p} (h : Keeps s t) : Keeps s (stepOn t p) := .ite h.switchRate h.goUp

protected theorem Keeps.setTaps {lane pre1 main post1} (h : Keeps s t) : Keeps s (setTaps t lane pre1 main post1) :=
  h.setF

protected theorem Keeps.presetTaps {lane} (h : Keeps s t) : Keeps s (presetTaps t lane) := h.setTaps

protected theorem Keeps.enterFrTrain {p} (h : Keeps s t) : Keeps s (enterFrTrain t p) :=
  h.stopBringup.setBuState.setF.setFlag.dropLock.restartTx.loadPortEq.presetTaps.presetTaps.output.output.startTimer

protected theorem Keeps.moveTap {lane tap up} (h : Keeps s t) : Keeps s (moveTap t lane tap up).1 :=
  .iteFst h.setTaps h

protected theorem Keeps.coeffRequest {lane tap req} (h : Keeps s t) : Keeps s (coeffRequest t lane tap req).1 := by
  dsimp only [coeffRequest]
  split
  · exact h.moveTap
  · exact h.moveTap
  · exact h
  · exact h.presetTaps
  · exact h.presetTaps

protected theorem Keeps.verifyError {p} (h : Keeps s t) : Keeps s (verifyError t p) := .ite h.startTimer h

protected theorem Keeps.loseLock {p} (h : Keeps s t) : Keeps s (loseLock t p) :=
  .ite h.incF.leaveUp.setBuState.dropLock.startTimer (h.incF.dropLock.when (·.stopTimer))

protected theorem Keeps.setLaneRx {p lane l} (h : Keeps s t) : Keeps s (setLaneRx t p lane l) := h.setPortSt

protected theorem Keeps.badMarker {p lane} (h : Keeps s t) : Keeps s (badMarker t p lane) :=
  .ite (.ite h.incF.verifyError.setLaneRx h.incF.verifyError.loseLock) h.incF.verifyError.setLaneRx

protected theorem Keeps.setLos {p b} (h : Keeps s t) : Keeps s (setLos t p b) := .ite h.withPins h

protected theorem Keeps.endAttemptWith {p reason rate} (h : Keeps s t) : Keeps s (endAttemptWith t p reason rate) :=
  h.buReason.setPortSt

protected theorem Keeps.goodMarker {p lane w atSlot skew} (h : Keeps s t) :
    Keeps s (goodMarker t p lane w atSlot skew) :=
  (h.setLaneRx.when (·.setFlag)).setPortSt.unless fun h => .ite h.verifyError.loseLock <|
    .ite (.ite h h.dropLock.stopTimer.endAttemptWith) (h.setF.when (·.ensureTimer))

protected theorem Keeps.setPortEn {p on} (h : Keeps s t) : Keeps s (setPortEn t p on) :=
  .ite h.setFlag.startPort (h.setFlag.unless (·.enterDown))

protected theorem Keeps.notePortCfg {p} (h : Keeps s t) : Keeps s (notePortCfg t p) := h.noteReg

protected theorem Keeps.execRingPortEnable {p} (h : Keeps s t) : KeepsNext s (execRingPortEnable p t) :=
  .next (.ite h.setPortEn.notePortCfg h)

protected theorem Keeps.execRingPortDisable {p} (h : Keeps s t) : KeepsNext s (execRingPortDisable p t) :=
  .next (.ite h.setPortEn.notePortCfg h)

protected theorem Keeps.retrainPort {p} (h : Keeps s t) : Keeps s (retrainPort t p) := .ite h.setFlag h.enterCap

protected theorem Keeps.execRetrain {p} (h : Keeps s t) : KeepsNext s (execRetrain p t) :=
  .next (.ite h.retrainPort.noteReg h)

protected theorem Keeps.execMarkerReceive {p lane line atSlot skew} (h : Keeps s t) :
    KeepsNext s (execMarkerReceive p lane line atSlot skew t) :=
  .next (.ite (.ite ((h.addF.setLaneRx.unless (·.verifyError)).setLos.goodMarker) ((h.addF.setLaneRx.unless
    (·.verifyError)).badMarker)) h)

protected theorem Keeps.capInCap {p w} (h : Keeps s t) : Keeps s (capInCap t p w) :=
  .ite h.setPortSt.endAttemptWith <| .ite h.endAttemptWith <| .ite h <|
    .ite (.ite h.enterFrTrain h.endAttemptWith) ((Keeps.ite h.showState.startTimer h).when
    (·.setPortSt.noteNoTable.stepOn))

protected theorem Keeps.capInStep {p w} (h : Keeps s t) : Keeps s (capInStep t p w) := .ite h.stepOn h

protected theorem Keeps.notePeer {p w} (h : Keeps s t) : Keeps s (notePeer t p w) := h.setF.setF.setFlag.setPortSt

protected theorem Keeps.execCapabilityWordReceive {p w} (h : Keeps s t) :
    KeepsNext s (execCapabilityWordReceive p w t) :=
  .next (.ite (.ite (.ite h.notePeer.capInCap h.notePeer.capInStep) h.verifyError) h)

protected theorem Keeps.failWith {p reason rate} (h : Keeps s t) : Keeps s (failWith t p reason rate) :=
  .ite h h.buReason

protected theorem Keeps.execCapTimeout {p} (h : Keeps s t) : KeepsNext s (execCapTimeout p t) :=
  .next (.ite h.failWith.enterCap h)

protected theorem Keeps.execStepVerifyDone {p} (h : Keeps s t) : KeepsNext s (execStepVerifyDone p t) :=
  .next (.ite (.ite h.stopTimer.setPortSt.showState.goUp (h.stopTimer.setPortSt.showState.when (·.stepOn))) h)

protected theorem Keeps.fallBack {p} (h : Keeps s t) : Keeps s (fallBack t p) :=
  h.incF.failWith.stopBringup.setF.dropLock.restartTx.loadPortEq.setPortSt.showState

protected theorem Keeps.execStepFallback {p} (h : Keeps s t) : KeepsNext s (execStepFallback p t) :=
  .next (.ite h.fallBack h)

protected theorem Keeps.execFrCoeffRequest {p lane tap req} (h : Keeps s t) :
    KeepsNext s (execFrCoeffRequest p lane tap req t) := by
  dsimp only [execFrCoeffRequest]
  exact .next (.ite h.coeffRequest.output h)

protected theorem Keeps.execFrTrainComplete {p} (h : Keeps s t) : KeepsNext s (execFrTrainComplete p t) :=
  .next (.ite h.goUp h)

protected theorem Keeps.execFrTrainTimeout {p} (h : Keeps s t) : KeepsNext s (execFrTrainTimeout p t) :=
  .next (.ite h.failWith.enterCap h)

protected theorem Keeps.execLossOfLock {p cause} (h : Keeps s t) : KeepsNext s (execLossOfLock p cause t) :=
  .next (.ite ((Keeps.ite h.setLos h).when (·.loseLock)) h)

protected theorem Keeps.execRelockTimeout {p} (h : Keeps s t) : KeepsNext s (execRelockTimeout p t) :=
  .next (.ite h.failWith.enterCap h)

protected theorem Keeps.execRelockDone {p} (h : Keeps s t) : KeepsNext s (execRelockDone p t) := .next (.ite h.goUp h)

protected theorem Keeps.execBadSof {p word} (h : Keeps s t) : KeepsNext s (execBadSof p word t) :=
  .next (.ite h.incF.verifyError.setPortSt h)

/-! ### The transaction engine -/

protected theorem Keeps.keepResponse {r} (h : Keeps s t) : Keeps s (keepResponse t r) := h.withOdw

protected theorem Keeps.answerAddr {e code data} (h : Keeps s t) : Keeps s (answerAddr t e code data) := by
  dsimp only [answerAddr]
  split
  · exact .ite h.withOdw.output.keepResponse h
  · exact h

protected theorem Keeps.completeTag {tag code data} (h : Keeps s t) : Keeps s (completeTag t tag code data) := by
  dsimp only [completeTag]
  split
  · exact h.incF
  · split
    · exact h.withTxn.stopTimer.withTxn
    · exact h.withTxn.stopTimer.output.answerAddr

protected theorem Keeps.logPostFault {tag initiator addr op code x ts} (h : Keeps s t) :
    Keeps s (logPostFault t tag initiator addr op code x ts) :=
  (h.memWrite.setF.incF.when (·.incF)).when (·.produceCounted)

protected theorem Keeps.sendResponse {r code data} (h : Keeps s t) : Keeps s (sendResponse t r code data) :=
  (Keeps.ite h.withTxn h).withTxn.addFrameBy

protected theorem Keeps.sendPostFault {r code} (h : Keeps s t) : Keeps s (sendPostFault t r code) :=
  h.withTxn.withTxn.addFrameBy

protected theorem Keeps.completeLocal {r code data} (h : Keeps s t) : Keeps s (completeLocal t r code data) :=
  .ite h.completeTag h.incF

protected theorem Keeps.noteExecuted {r} (h : Keeps s t) : Keeps s (noteExecuted t r) :=
  .ite h (h.withTxn.when (·.withTwin))

protected theorem Keeps.completeRequest {r code data} (h : Keeps s t) : Keeps s (completeRequest t r code data) :=
  .ite (.ite (h.noteExecuted.unless (·.logPostFault)) h.noteExecuted.completeLocal) <|
    .ite (h.noteExecuted.unless (·.sendPostFault)) h.noteExecuted.sendResponse

protected theorem Keeps.setSeqRx {e} (h : Keeps s t) : Keeps s (setSeqRx t e) := h.withTxn

protected theorem Keeps.trackResponse {node side n} (h : Keeps s t) : Keeps s (trackResponse t node side n) :=
  h.setSeqRx.when (·.incF)

protected theorem Keeps.sendRequest {who tag t'} (h : Keeps s t) : Keeps s (sendRequest t who tag t') :=
  h.withTxn.addFrame

protected theorem Keeps.launch {who tag x} (h : Keeps s t) : Keeps s (launch t who tag x) :=
  .ite h.completeRequest <| .ite (.ite h.completeRequest h.withTxn) h.sendRequest

protected theorem Keeps.launchPosted {who tag t'} (h : Keeps s t) : Keeps s (launchPosted t who tag t') :=
  h.launch.unless (·.withTxn)

protected theorem Keeps.tryIssue {who t' poll} (h : Keeps s t) : KeepsSome s id (tryIssue t who t' poll) := by
  dsimp only [tryIssue]
  split
  · exact .none
  · exact .ite (.some h.withFresh.launchPosted) <| .some h.withFresh.withTxn.startTimer.launch

protected theorem Keeps.grantTag {before rest} (h : Keeps s t) : Keeps s (grantTag t before rest) := by
  induction rest generalizing before with
  | nil => exact h
  | cons w rest ih =>
    rw [grantTag]
    split
    next e => exact h.withTxn.tryIssue _ e
    next => exact ih

protected theorem Keeps.grantWaiting (h : Keeps s t) : Keeps s (grantWaiting t) := h.foldl fun _ _ h => h.grantTag

protected theorem Keeps.issueOrWait {who x} (h : Keeps s t) : Keeps s (issueOrWait t who x) := by
  dsimp only [issueOrWait]
  split
  next e => exact KeepsSome.ite .none h.grantWaiting.tryIssue _ e
  next => exact h.grantWaiting.when (·.withTxn)

protected theorem Keeps.execTxnIssue {who t'} (h : Keeps s t) : KeepsNext s (execTxnIssue who t' t) :=
  .next (.ite h.issueOrWait h)

protected theorem Keeps.execTagGrant (h : Keeps s t) : KeepsNext s (execTagGrant t) := .next (.ite h.grantTag h)

protected theorem Keeps.execTxnTimeout {tag} (h : Keeps s t) : KeepsNext s (execTxnTimeout tag t) :=
  .next (.ite h.completeTag.withTxn.startTimer h)

protected theorem Keeps.execTagHoldoutEnd {tag} (h : Keeps s t) : KeepsNext s (execTagHoldoutEnd tag t) :=
  .next (.ite h.withTxn.stopTimer h)

protected theorem Keeps.refuseRequest {r} (h : Keeps s t) : Keeps s (refuseRequest t r) :=
  h.incF.completeRequest.withTxn

protected theorem Keeps.serveRequest {l} (h : Keeps s t) : Keeps s (serveRequest t l) :=
  .ite h.completeRequest <| .ite h.completeRequest <| .ite h.withTxn h.refuseRequest

protected theorem Keeps.takeRequest {l} (h : Keeps s t) : Keeps s (takeRequest t l) :=
  .ite ((h.setSeqRx.when (·.incF)).when (·.withTxn)) <| .ite ((h.setSeqRx.when (·.incF)).completeRequest)
    ((h.setSeqRx.when (·.incF)).serveRequest)

protected theorem Keeps.admitRequest (h : Keeps s t) : Keeps s (admitRequest t) := by
  dsimp only [admitRequest]
  split
  · exact h
  · exact .ite h.withRing.refillRequests.takeRequest h

protected theorem Keeps.execTxnReqReceive (h : Keeps s t) : KeepsNext s (execTxnReqReceive t) :=
  .next (.ite h.admitRequest h)

protected theorem Keeps.execHeldRequestAdmit (h : Keeps s t) : KeepsNext s (execHeldRequestAdmit t) :=
  .next (.ite h.admitRequest h)

protected theorem Keeps.takeHeld {ty} (h : Keeps s t) : KeepsSome s Prod.snd (takeHeld t ty) := by
  dsimp only [takeHeld]
  split
  · exact .some h.withRing
  · exact .none

protected theorem Keeps.matchResponse {f} (h : Keeps s t) : Keeps s (matchResponse t f) := by
  dsimp only [matchResponse]
  split
  · exact h.incF
  · exact .ite (.ite h.setSeqRx.completeTag h.completeTag) h.completeTag

protected theorem Keeps.execTxnRspReceive (h : Keeps s t) : KeepsNext s (execTxnRspReceive t) := by
  dsimp only [execTxnRspReceive]
  split
  · exact .next h
  · rename_i e
    exact .next (.ite ((h.takeHeld _ e).trackResponse.matchResponse) (h.takeHeld _ e))

protected theorem Keeps.execPostFaultReceive (h : Keeps s t) : KeepsNext s (execPostFaultReceive t) := by
  dsimp only [execPostFaultReceive]
  split
  · exact .next h
  · rename_i e
    exact .next (.ite ((h.takeHeld _ e).trackResponse.logPostFault) (h.takeHeld _ e))

/-! ### Frames received on ring ports -/

protected theorem Keeps.addOwnOnPort {port f} (h : Keeps s t) : Keeps s (addOwnOnPort t port f) :=
  .ite h.incF <| .ite h h.addOnPort

protected theorem Keeps.checkHeal {port} (h : Keeps s t) : Keeps s (checkHeal t port) := h.setPortSt

protected theorem Keeps.acceptKeepalive {port f rx} (h : Keeps s t) : Keeps s (acceptKeepalive t port f rx) :=
  ((h.setPortSt.when (·.declareBroken)).when (·.ensureTimer)).checkHeal

protected theorem Keeps.receiveKeepalive {port r phase} (h : Keeps s t) :
    Keeps s (receiveKeepalive t port r phase) := by
  dsimp only [receiveKeepalive]
  split
  · exact h.incF
  · split
    · exact h.incF
    · exact .ite ((Keeps.ite h.incF h).setPortSt.acceptKeepalive) h.acceptKeepalive

protected theorem Keeps.execKeepaliveReceive {port words sofAt phase} (h : Keeps s t) :
    KeepsNext s (execKeepaliveReceive port words sofAt phase t) :=
  .next (.ite (.ite h.countWaits.receiveKeepalive h) h)

protected theorem Keeps.recordClass7 {f} (h : Keeps s t) : Keeps s (recordClass7 t f).2 := by
  dsimp only [recordClass7]
  split
  · exact h.withRing
  · exact h

protected theorem Keeps.countCopy {port f k} (h : Keeps s t) : Keeps s (countCopy t port f k) := by
  dsimp only [countCopy]
  split
  · exact h
  · exact .ite h.updateEntry <| .ite h.updateEntry <| .ite h.updateEntry h.updateEntry

protected theorem Keeps.acceptCopy {port f} (h : Keeps s t) : Keeps s (acceptCopy t port f).2 := by
  dsimp only [acceptCopy]
  exact (Keeps.iteSnd h.recordClass7 h).countCopy

protected theorem Keeps.offerSignal {port f} (h : Keeps s t) : Keeps s (offerSignal t port f) :=
  h.handAt fun _ h => .ite h.withJct h

protected theorem Keeps.deliverFrame {port f} (h : Keeps s t) : Keeps s (deliverFrame t port f) :=
  .ite (.ite h.bridgeFromRing h) <| .ite h.offerSignal <| .ite h.withRing.refillRequests <|
    .ite (h.handAt fun _ h => h.output) <| .ite h h.withRing

protected theorem Keeps.copyFrame {port f} (h : Keeps s t) : Keeps s (copyFrame t port f) := by
  dsimp only [copyFrame]
  split
  · exact h.incF
  · split
    · rename_i e
      exact (h.acceptCopy.of_snd e).deliverFrame
    · rename_i e
      exact (h.acceptCopy.of_snd e).incF
    · rename_i e
      exact (h.acceptCopy.of_snd e).incF

protected theorem Keeps.requestReturned {f} (h : Keeps s t) : Keeps s (requestReturned t f) :=
  .ite h <| .ite h.logPostFault <| .ite h.completeTag h

protected theorem Keeps.localPlaces {p f} (h : Keeps s t) : Keeps s (localPlaces t p f).2 := by
  dsimp only [localPlaces]
  exact .iteSnd h h.lookupForward

protected theorem Keeps.badFrame {port f cause} (h : Keeps s t) : Keeps s (badFrame t port f cause) := by
  unfold badFrame
  extract_lets s₁ v s₂
  have h₂ : Keeps s s₂ := Keeps.loseFrame h.incF fun v hv => by
    split
    · exact .iteSnd hv.ringTarget hv
    · exact hv
  exact h₂.when fun h => .ite h.localPlaces.cutOff h

protected theorem Keeps.relayOut {f} (h : Keeps s t) : Keeps s (relayOut t f) := by
  dsimp only [relayOut]
  split
  · exact .ite h.emitFrame.startTimer h
  · exact h

protected theorem Keeps.relayIn {port f} (h : Keeps s t) : Keeps s (relayIn t port f) := .ite h.startTimer.sendRing h

protected theorem Keeps.carryFrame {port f} (h : Keeps s t) : Keeps s (carryFrame t port f) := by
  dsimp only [carryFrame]
  split
  · exact (((((Keeps.ite h.incF h).when (·.incF)).when (·.requestReturned)).when (·.copyFrame)).when
      (·.relayOut)).when (·.sendRing)
  · exact ((((Keeps.ite h.incF h).when (·.incF)).when (·.requestReturned)).when (·.copyFrame)).when (·.relayOut)

protected theorem Keeps.receiveRing {port r} (h : Keeps s t) : Keeps s (receiveRing t port r) := by
  dsimp only [receiveRing]
  split
  · exact h.receiveKeepalive
  · split
    · exact .ite h.setPortSt.incF h.setPortSt.badFrame
    · exact .ite h.setPortSt.relayIn h.setPortSt.carryFrame

protected theorem Keeps.execRingFrameReceive {port words sofAt} (h : Keeps s t) :
    KeepsNext s (execRingFrameReceive port words sofAt t) :=
  .next (.ite h.countWaits.receiveRing h)

protected theorem Keeps.execRingFrameAdd {f} (h : Keeps s t) : KeepsNext s (execRingFrameAdd f t) := .next h.addFrame

/-! ### The Crossing -/

protected theorem Keeps.execAnnouncementSend (h : Keeps s t) : KeepsNext s (execAnnouncementSend t) :=
  .next (.ite h.addOwnOnPort.addOwnOnPort.startTimer h)

protected theorem Keeps.duplicateSeen {uid} (h : Keeps s t) : Keeps s (duplicateSeen t uid) :=
  h.setFlag.startTimer.unless (·.recordFault)

protected theorem Keeps.enterAnnouncement {port f} (h : Keeps s t) : Keeps s (enterAnnouncement t port f) := by
  dsimp only [enterAnnouncement]
  split
  · exact (h.updateEntry.unless (·.bumpMapGen)).startTimer.when (·.setFlag)
  · exact h.withRing.bumpMapGen.startTimer.when (·.setFlag)

protected theorem Keeps.receiveAnnouncement {port f} (h : Keeps s t) : Keeps s (receiveAnnouncement t port f) :=
  (Keeps.ite h.duplicateSeen <| .ite h h.enterAnnouncement).selectMaster

protected theorem Keeps.execAnnouncementReceive (h : Keeps s t) : KeepsNext s (execAnnouncementReceive t) := by
  dsimp only [execAnnouncementReceive]
  split
  · exact .next (h.withRing.when (·.receiveAnnouncement))
  · exact .next h

protected theorem Keeps.forgetSource {node side} (h : Keeps s t) : Keeps s (forgetSource t node side) :=
  h.withRing.withTxn

protected theorem Keeps.removeEntry {node side} (h : Keeps s t) : Keeps s (removeEntry t node side) :=
  h.withRing.forgetSource

protected theorem Keeps.unreach {node side west} (h : Keeps s t) : Keeps s (unreach t node side west) := by
  dsimp only [unreach]
  split
  · exact h
  · exact .ite ((Keeps.ite h.setFlag h).unless (·.updateEntry.bumpMapGen)) ((Keeps.ite h.setFlag
      h).removeEntry.bumpMapGen)

protected theorem Keeps.execReachTimeout {node side west} (h : Keeps s t) :
    KeepsNext s (execReachTimeout node side west t) :=
  .next (.ite h.stopTimer.unreach.selectMaster h)

protected theorem Keeps.clearDupId (h : Keeps s t) : Keeps s (clearDupId t) := h.stopTimer.setFlag

protected theorem Keeps.execDupIdTimeout (h : Keeps s t) : KeepsNext s (execDupIdTimeout t) :=
  .next (.ite h.clearDupId.selectMaster h)

protected theorem Keeps.execKeepaliveSend {port} (h : Keeps s t) : KeepsNext s (execKeepaliveSend port t) := by
  dsimp only [execKeepaliveSend]
  split
  · split
    · rename_i e
      exact .next ((h.sealNonce.of_snd e).setPortSt.emitRing.startTimer)
    · rename_i e
      exact .next (h.sealNonce.of_snd e)
  · exact .next h

protected theorem Keeps.execKeepaliveTick {port wordSeen} (h : Keeps s t) :
    KeepsNext s (execKeepaliveTick port wordSeen t) :=
  .next (.ite (.ite h.startTimer.setPortSt (h.startTimer.setPortSt.incF.stopTimer.when (·.declareBroken))) h)

protected theorem Keeps.setWrap {port} (h : Keeps s t) : Keeps s (setWrap t port) := h.setFlag.declareBroken

protected theorem Keeps.noteRingCtl (h : Keeps s t) : Keeps s (noteRingCtl t) := h.noteReg

protected theorem Keeps.execMaintenanceWrap {port} (h : Keeps s t) : KeepsNext s (execMaintenanceWrap port t) :=
  .next (.ite h.setWrap.noteRingCtl h)

protected theorem Keeps.holdDown {key cause} (h : Keeps s t) : Keeps s (holdDown t key cause) := h.startTimer.withRing

protected theorem Keeps.endHolds {cause} (h : Keeps s t) : Keeps s (endHolds t cause) := h.withTimers.withRing

protected theorem Keeps.applyWrap {w west e} (h : Keeps s t) : Keeps s (applyWrap t w west e) :=
  (((Keeps.ite h.holdDown h).when (·.holdDown)).when (·.unreach)).when (·.unreach)

protected theorem Keeps.receiveWrap {f} (h : Keeps s t) : Keeps s (receiveWrap t f) := by
  dsimp only [receiveWrap]
  split
  · exact h.endHolds
  · split
    · exact h.foldl fun _ _ h => h.applyWrap
    · exact h

protected theorem Keeps.execWrapNoticeReceive (h : Keeps s t) : KeepsNext s (execWrapNoticeReceive t) := by
  dsimp only [execWrapNoticeReceive]
  split
  · rename_i e
    exact .next (.ite ((h.takeHeld _ e).receiveWrap.selectMaster) (h.takeHeld _ e))
  · exact .next h

protected theorem Keeps.execWrapHolddownExpiry {node side west} (h : Keeps s t) :
    KeepsNext s (execWrapHolddownExpiry node side west t) :=
  .next (.ite h.withRing.stopTimer h)

protected theorem Keeps.execHealReady {port} (h : Keeps s t) : KeepsNext s (execHealReady port t) :=
  .next (.ite h.stopTimer.setPortSt.startTimer.checkHeal h)

protected theorem Keeps.execHeal (h : Keeps s t) : KeepsNext s (execHeal t) := .next (.ite h.setFlag.noteRingCtl h)

protected theorem Keeps.unwrapPorts (h : Keeps s t) : Keeps s (unwrapPorts t) :=
  .ite (((Keeps.ite h.unwrapPort h).when (·.unwrapPort)).when (·.setFlag)) h

/-! ### Routes and list runs of the Junction -/

protected theorem Keeps.setSigStatus {n v} (h : Keeps s t) : Keeps s (setSigStatus t n v) := h.memPut

protected theorem Keeps.refreshSig {n} (h : Keeps s t) : Keeps s (refreshSig t n) := h.setSigStatus.memPut

protected theorem Keeps.writeSig {n y subst clamped ovf} (h : Keeps s t) :
    Keeps s (writeSig t n y subst clamped ovf) :=
  h.memPut.setSigStatus.memPut

protected theorem Keeps.readSig {n p} (h : Keeps s t) : Keeps s (readSig t n p).2 :=
  .iteSnd h <| .iteSnd h.setSigStatus.incF <| .iteSnd h h

protected theorem Keeps.resultOf {r p input} (h : Keeps s t) : Keeps s (resultOf t r p input).2 := by
  dsimp only [resultOf]
  split
  · exact .ite h.incF h
  · exact .iteSnd h h.incF

protected theorem Keeps.stepAlive {t' d bs} (h : Keeps s t) : Keeps s (stepAlive t t' d bs).2 := .iteSnd h.setF h

protected theorem Keeps.noteRouteError {route code} (h : Keeps s t) : Keeps s (noteRouteError t route code) :=
  h.incF.setF.setF

protected theorem Keeps.emit {run r bs} (h : Keeps s t) : Keeps s (emit t run r bs) := by
  dsimp only [emit]
  exact .ite h.stepAlive.incF h.stepAlive.withJct

protected theorem Keeps.writeResult {r o same} (h : Keeps s t) : Keeps s (writeResult t r o same) :=
  .ite h <| .ite h.refreshSig h.writeSig

protected theorem Keeps.passOn {run route r bufs y stop} (h₀ : Keeps s t) (h : Keeps s u) :
    Keeps s (passOn t u run route r bufs y stop).state := by
  unfold passOn
  extract_lets bs bs'
  split
  · split
    · exact h₀.noteRouteError
    · exact h.when (·.emit)
  · exact h

protected theorem Keeps.touchEnum {r x} (h : Keeps s t) : Keeps s (touchEnum t r x) := by
  dsimp only [touchEnum]
  split
  · exact .ite h.eccTouch h
  · exact h

protected theorem Keeps.doRoute {run route r bufs} (h : Keeps s t) : Keeps s (doRoute t run route r bufs).state := by
  have hs : Keeps s (if r.inSig then readSig t r.srcSig (readParams t run.routeBank r.param)
      else (extract r run.msg.bytes, t)).2 := .iteSnd h.readSig h
  dsimp only [doRoute]
  split
  next e => exact (hs.touchEnum.resultOf.of_snd e).when (·.setSigStatus)
  next e =>
    have hr := Keeps.of_snd hs.touchEnum.resultOf e
    split
    · exact hr.writeResult
    · exact h.passOn hr.writeResult

protected theorem Keeps.stepRoute {run route bufs} (h : Keeps s t) : Keeps s (stepRoute t run route bufs).state := by
  dsimp only [stepRoute]
  split
  · exact h
  · split
    · exact h.touchAll.incF.doRoute
    · exact h.touchAll.incF.noteRouteError

protected theorem Keeps.runList {run route bufs fuel} (h : Keeps s t) : Keeps s (runList t run route bufs fuel) := by
  induction fuel generalizing t route bufs with
  | zero => exact h.incF
  | succ fuel ih => exact .ite h.eccTouch.stepRoute (ih h.eccTouch.stepRoute)

protected theorem Keeps.setPipe {p x} (h : Keeps s t) : Keeps s (setPipe t p x) := by
  dsimp only [setPipe]
  split <;> exact h.withJct

protected theorem Keeps.queueTimed {k first kind} (h : Keeps s t) : Keeps s (queueTimed t k first kind) := h.setPipe

protected theorem Keeps.cyclicTick {n} (h : Keeps s t) : Keeps s (cyclicTick t n) :=
  .ite (h.eccTouch.foldl fun _ _ h => .ite h.queueTimed h) h

protected theorem Keeps.triggerTick {c} (h : Keeps s t) : Keeps s (triggerTick t c) :=
  .ite (h.eccTouch.foldl fun _ _ h => .ite h.queueTimed h) h

protected theorem Keeps.skipTimed {p} (h : Keeps s t) : Keeps s (skipTimed t p) :=
  h.setPipe.foldl fun _ _ h => h.incF

protected theorem Keeps.discardLate {p} (h : Keeps s t) : Keeps s (discardLate t p) := h.setPipe.addF

protected theorem Keeps.takeRun {p} (h : Keeps s t) : Keeps s (takeRun t p).2 := by
  dsimp only [takeRun]
  split
  · exact .iteSnd h.setPipe h.setPipe
  · exact h.setPipe
  · exact h.setPipe
  · exact h

protected theorem Keeps.acceptMsg {m} (h : Keeps s t) : Keeps s (acceptMsg t m) := by
  dsimp only [acceptMsg]
  split
  · exact h.eccTouch.incF
  · exact .ite h.eccTouch.incF.incF h.eccTouch.incF.setPipe

protected theorem Keeps.offerJct {m} (h : Keeps s t) : Keeps s (offerJct t m) := .ite h.withJct h

protected theorem Keeps.stopJunction (h : Keeps s t) : Keeps s (stopJunction t) := h.withJct.addF

/-! ### Arcade engines and pins -/

protected theorem Keeps.arcErr {f e} (h : Keeps s t) : Keeps s (arcErr t f e) := h.setFlag.setF

protected theorem Keeps.triggerPin {g out} (h : Keeps s t) : Keeps s (triggerPin t g out) := .ite h.setBitF h

protected theorem Keeps.pushWords {e ws} (h : Keeps s t) : KeepsSome s id (pushWords t e ws) :=
  .ite (.some h.withFlt.setEngine.addF) .none

protected theorem Keeps.offerWords {e fuel} (h : Keeps s t) : Keeps s (offerWords t e fuel) := by
  induction fuel generalizing t with
  | zero => exact h
  | succ fuel ih => exact .ite (ih h.fifoTake.setEngine.offerJct) h

protected theorem Keeps.deliverWord {e w} (h : Keeps s t) : KeepsSome s id (deliverWord t e w) :=
  .ite (.some h.withFlt.setEngine.incF.offerWords) <| .ite (.some h.fifoShift.incF.withFlt.setEngine.incF.offerWords)
    .none

protected theorem Keeps.txPush {e ofs bytes} (h : Keeps s t) : Keeps s (txPush t e ofs bytes).1 := by
  dsimp only [txPush]
  split
  · exact h
  · split
    · rename_i e
      exact (h.pushWords _ e).twinNote
    · exact h.arcErr

protected theorem Keeps.rxPop {e len} (h : Keeps s t) : Keeps s (rxPop t e len).1 := by
  dsimp only [rxPop]
  split
  · exact h
  · split
    · exact h
    · split
      · exact h.twinNote
      · exact h.fifoTake.setEngine.twinNote

protected theorem Keeps.flushTx {e} (h : Keeps s t) : Keeps s (flushTx t e) := h.setEngine

protected theorem Keeps.flushRx {e} (h : Keeps s t) : Keeps s (flushRx t e) := h.setEngine

protected theorem Keeps.tickEngine {e} (h : Keeps s t) : Keeps s (tickEngine t e) := h.setEngine

protected theorem Keeps.idlePins {e} (h : Keeps s t) : Keeps s (idlePins t e) := h.setEngine

protected theorem Keeps.applyBounds {e} (h : Keeps s t) : Keeps s (applyBounds t e) := by
  dsimp only [applyBounds]
  split
  · exact h.setEngine.setF.setF
  · exact h

protected theorem Keeps.startEngine {e byFiring} (h : Keeps s t) : Keeps s (startEngine t e byFiring) :=
  h.applyBounds.setEngine

protected theorem Keeps.restartEngine {e} (h : Keeps s t) : Keeps s (restartEngine t e) := .ite h h.startEngine

protected theorem Keeps.engineOff {e} (h : Keeps s t) : Keeps s (engineOff t e) := h.setEngine.idlePins

protected theorem Keeps.setEngineEn {e on} (h : Keeps s t) : Keeps s (setEngineEn t e on) :=
  .ite (h.setFlag.when (·.startEngine)) (h.setFlag.unless (·.applyBounds.engineOff))

protected theorem Keeps.haltEngine {e} (h : Keeps s t) : Keeps s (haltEngine t e) := .ite h.setEngine h

protected theorem Keeps.resumeEngine {e} (h : Keeps s t) : Keeps s (resumeEngine t e) :=
  .ite h <| .ite h.arcErr h.setEngine

protected theorem Keeps.writeEngineCtl {e w} (h : Keeps s t) : Keeps s (writeEngineCtl t e w) :=
  ((((h.setEngineEn.when (·.flushTx)).when (·.flushRx)).when (·.restartEngine)).when (·.resumeEngine)).when
    (·.haltEngine)

protected theorem Keeps.restartGroup {n w} (h : Keeps s t) : Keeps s (restartGroup t n w) :=
  h.foldl fun _ _ h => .ite h.restartEngine h

protected theorem Keeps.fireEngines {k} (h : Keeps s t) : Keeps s (fireEngines t k) :=
  .ite (h.foldl fun _ _ h => .ite h <| .ite h.setEngine <| .ite h.startEngine h) h

protected theorem Keeps.stopEngines (h : Keeps s t) : Keeps s (stopEngines t) := h.foldl fun _ _ h => h.haltEngine

protected theorem Keeps.resetEngines (h : Keeps s t) : Keeps s (resetEngines t) := h.withEngines

protected theorem Keeps.writeProgram {e off bytes} (h : Keeps s t) : Keeps s (writeProgram t e off bytes).1 :=
  .iteFst h.arcErr (h.memWrite.when (·.setEngine))

protected theorem Keeps.writeBounds {e a b} (h : Keeps s t) : Keeps s (writeBounds t e a b) :=
  .ite h.setF.setF h.setEngine

protected theorem Keeps.writeEngineCfg {e w} (h : Keeps s t) : Keeps s (writeEngineCfg t e w).1 :=
  .iteFst h (((h.setWord.when (·.setEngine)).when (·.flushTx.flushRx)).writeBounds.offerWords)

protected theorem Keeps.writeEngineFixed {e key w} (h : Keeps s t) : Keeps s (writeEngineFixed t e key w).1 :=
  .iteFst h ((h.setWord.when (·.setEngine)).when (·.idlePins))

protected theorem Keeps.writeEngineClk {e w} (h : Keeps s t) : Keeps s (writeEngineClk t e w) := h.setEngine.setWord

protected theorem Keeps.writeEngineConfig {e off w} (h : Keeps s t) : Keeps s (writeEngineConfig t e off w).1 :=
  .iteFst h.writeEngineCfg <| .iteFst h.writeEngineFixed <| .iteFst h.writeEngineFixed <|
    .iteFst h.writeEngineClk <| .iteFst (h.setWord.when (·.idlePins)) h.setWord

protected theorem Keeps.refill {e} (h : Keeps s t) : KeepsSome s id (refill t e) := by
  dsimp only [refill]
  split
  · exact .none
  · exact .some h.fifoTake.setEngine

protected theorem Keeps.sendBit {e} (h : Keeps s t) : Keeps s (sendBit t e) := h.setEngine

protected theorem Keeps.sendOp {e} (h : Keeps s t) : KeepsSome s id (sendOp t e) :=
  .ite (.some h.sendBit) (.ite (h.refill.map fun _ h => Keeps.sendBit h) (.some h.setEngine.arcErr))

protected theorem Keeps.deliverOp {e} (h : Keeps s t) : KeepsSome s id (deliverOp t e) :=
  h.deliverWord.map fun _ h => Keeps.setEngine h

protected theorem Keeps.takeOp {e bit} (h : Keeps s t) : KeepsSome s id (takeOp t e bit) :=
  .ite (.some h.arcErr) <| .ite h.setEngine.deliverOp <| .some h.setEngine

protected theorem Keeps.shifterOp {e row ext} (h : Keeps s t) : KeepsSome s id (shifterOp t e row ext) := by
  dsimp only [shifterOp]
  split
  · exact h.takeOp
  · exact h.sendOp
  · exact h.refill
  · exact h.deliverOp
  · exact .some h.setEngine
  · exact .some h.setEngine
  · exact .some h

protected theorem Keeps.counters {e row} (h : Keeps s t) : Keeps s (counters t e row) := h.setEngine

protected theorem Keeps.drivePins {e row} (h : Keeps s t) : Keeps s (drivePins t e row) := h.setEngine

protected theorem Keeps.nextRow {e row hit} (h : Keeps s t) : Keeps s (nextRow t e row hit) :=
  (Keeps.ite h.applyBounds h).setEngine

protected theorem Keeps.runRow {e ext} (h : Keeps s t) : Keeps s (runRow t e ext) := by
  dsimp only [runRow]
  split
  · exact h.incF.setEngine
  · rename_i e
    exact (h.shifterOp _ e).counters.drivePins.nextRow

protected theorem Keeps.execEngineRowExecute {e ext} (h : Keeps s t) : KeepsNext s (execEngineRowExecute e ext t) :=
  .next (.ite h.tickEngine.withPins.eccTouch.runRow h)

protected theorem Keeps.execTxPush {e ofs bytes} (h : Keeps s t) : KeepsNext s (execTxPush e ofs bytes t) := by
  dsimp only [execTxPush]
  split
  · exact .next h.output
  · exact .next h.txPush.output

protected theorem Keeps.execRxPop {e len} (h : Keeps s t) : KeepsNext s (execRxPop e len t) := by
  dsimp only [execRxPop]
  split
  · exact .next h.output
  · exact .next h.rxPop.output

/-! ### Bus channels -/

protected theorem Keeps.applyBusCfg {c w} (h : Keeps s t) : Keeps s (applyBusCfg t c w) :=
  h.setWord.unless fun h => .ite h h.setF

protected theorem Keeps.commitBus {c} (h : Keeps s t) : Keeps s (commitBus t c) := by
  dsimp only [commitBus]
  split
  · exact .ite h.withPendFb.applyBusCfg h
  · exact h

protected theorem Keeps.writeBusCfg {c w} (h : Keeps s t) : Keeps s (writeBusCfg t c w).1 :=
  .iteFst h.setFlag <| .iteFst h (h.setFlag.withPendFb.when (·.commitBus))

protected theorem Keeps.writeBusFixed {c key w} (h : Keeps s t) : Keeps s (writeBusFixed t c key w).1 :=
  .iteFst h h.setWord

protected theorem Keeps.noteBuf {c b} (h : Keeps s t) : Keeps s (noteBuf t c b) := .ite h h.setBusCh

protected theorem Keeps.setBufState {c b st} (h : Keeps s t) : Keeps s (setBufState t c b st) := h.setF.noteBuf

protected theorem Keeps.requestBuf {c b} (h : Keeps s t) : Keeps s (requestBuf t c b) :=
  .ite h h.setWord.noteBuf.setBitF.setBusCh

protected theorem Keeps.leaveBuf {c b st} (h : Keeps s t) : Keeps s (leaveBuf t c b st) :=
  h.setF.setBusCh.setBufState.setFlag.setBitF.setBitF

protected theorem Keeps.writeTxReq {c w} (h : Keeps s t) : Keeps s (writeTxReq t c w).1 :=
  .iteFst h (h.foldl fun _ _ h => .ite h.requestBuf h)

protected theorem Keeps.cancelBuf {c b} (h : Keeps s t) : Keeps s (cancelBuf t c b) :=
  .ite h.leaveBuf <| .ite h.setBitF h

protected theorem Keeps.writeTxCan {c w} (h : Keeps s t) : Keeps s (writeTxCan t c w).1 :=
  .iteFst h (h.foldl fun _ _ h => .ite h.cancelBuf h)

protected theorem Keeps.touchPending {c} (h : Keeps s t) : Keeps s (touchPending t c) :=
  h.foldl fun _ _ h => h.eccTouch

protected theorem Keeps.chooseBuf {c fuel} (h : Keeps s t) : Keeps s (chooseBuf t c fuel) := by
  induction fuel generalizing t with
  | zero => exact h
  | succ fuel ih =>
    rw [chooseBuf]
    split
    · exact h
    · exact .ite h.setBufState.incSat.setBusCh (ih h.leaveBuf.incF)

protected theorem Keeps.writeJtx {c j} (h : Keeps s t) : Keeps s (writeJtx t c j) := h.noteBuf.memWrite

protected theorem Keeps.emitToBus {c j} (h : Keeps s t) : Keeps s (emitToBus t c j) :=
  .ite h.incF <| .ite h.incF <| .ite h.writeJtx.incF <| .ite ((Keeps.ite h.incF h).setBusCh) h.writeJtx.requestBuf

protected theorem Keeps.releaseJtx {c} (h : Keeps s t) : Keeps s (releaseJtx t c) := by
  dsimp only [releaseJtx]
  split
  · exact .ite h.setBusCh.writeJtx.incF h.setBusCh.writeJtx.requestBuf
  · exact h

protected theorem Keeps.failAttempt {c b} (h : Keeps s t) : Keeps s (failAttempt t c b) :=
  (Keeps.ite h.setBusCh.leaveBuf h.setBusCh.setBufState).when (·.releaseJtx)

protected theorem Keeps.failActive {c} (h : Keeps s t) : Keeps s (failActive t c) := by
  dsimp only [failActive]
  split
  · exact h.failAttempt
  · exact h

protected theorem Keeps.enterBusOff {c} (h : Keeps s t) : Keeps s (enterBusOff t c) := by
  unfold enterBusOff
  exact h.failActive.setBusCh.setF.incF.recordFault

protected theorem Keeps.settleBus {c} (h : Keeps s t) : Keeps s (settleBus t c) := .ite h.enterBusOff h.setF

protected theorem Keeps.raiseTec {c n} (h : Keeps s t) : Keeps s (raiseTec t c n) := h.setF

protected theorem Keeps.raiseRec {c n} (h : Keeps s t) : Keeps s (raiseRec t c n) := h.setF

protected theorem Keeps.lowerRec {c} (h : Keeps s t) : Keeps s (lowerRec t c) := .ite h.withFresh.setF h.setF

protected theorem Keeps.protocolException {c} (h : Keeps s t) : Keeps s (protocolException t c) :=
  h.failActive.setF.setF

protected theorem Keeps.busErrorOp {c kind transmitting place} (h : Keeps s t) :
    Keeps s (busErrorOp t c kind transmitting place) :=
  ((Keeps.ite h h.setF.incF).unless fun h => .ite h.raiseTec h.raiseRec).settleBus

protected theorem Keeps.recoverBus {c} (h : Keeps s t) : Keeps s (recoverBus t c) := .ite h.setBusCh.setFlag h

protected theorem Keeps.measureTdc {c f} (h : Keeps s t) : Keeps s (measureTdc t c f) := .ite h.withFresh.setF h

protected theorem Keeps.busNote {c kind ringB idx word prio} (h : Keeps s t) :
    Keeps s (busNote t c kind ringB idx word prio) :=
  h.produceCounted

protected theorem Keeps.endAttempt {c b how} (h : Keeps s t) : Keeps s (endAttempt t c b how) := by
  dsimp only [endAttempt]
  split
  · exact (h.eccTouch.setBusCh.measureTdc.leaveBuf.incF.setF.output.when (·.releaseJtx)).settleBus
  · exact h.eccTouch.incF.failAttempt
  · exact h.eccTouch.measureTdc.failAttempt

protected theorem Keeps.writeBusRam {c off bytes} (h : Keeps s t) : Keeps s (writeBusRam t c off bytes).1 :=
  .iteFst h h.memWrite

protected theorem Keeps.touchFilter {c f idAge} (h : Keeps s t) : Keeps s (touchFilter t c f idAge) :=
  .ite h.eccTouch h

protected theorem Keeps.storeEntry {c f b jct bank hit elem} (h : Keeps s t) :
    Keeps s (storeEntry t c f b jct bank hit elem).1 :=
  .iteFst h.incF.setBusCh h.memWrite.setBusCh.setF

protected theorem Keeps.receiveCan {c f idAge} (h : Keeps s t) : Keeps s (receiveCan t c f idAge) := by
  unfold receiveCan
  extract_lets s₁ _ s₂ s₃ s₄
  have h₄ : Keeps s s₄ := Keeps.touchFilter (Keeps.unless h.incF.setBusCh (·.lowerRec.settleBus))
  clear_value s₄
  split
  extract_lets store ringB jct s₅
  have h₅ : Keeps s s₅ := h₄.when (·.incF)
  clear_value s₅
  split
  next s₆ idx e =>
  have h₆ : Keeps s s₆ := (Keeps.iteFst h₅.storeEntry h₅).of_fst e
  extract_lets s₇
  have h₇ : Keeps s s₇ := h₆.when (·.offerJct)
  split
  · exact Keeps.when (h₇.when (·.busNote)) (·.busNote)
  · exact h₇

protected theorem Keeps.checkStarved {c b} (h : Keeps s t) : Keeps s (checkStarved t c b) :=
  h.setFlag.when fun h => (h.setBitF.incF.when (·.busNote))

protected theorem Keeps.writeStarve {c w} (h : Keeps s t) : Keeps s (writeStarve t c w) :=
  h.setWord.foldl fun _ _ h => h.checkStarved

protected theorem Keeps.execBusChannelEnable {c w} (h : Keeps s t) : KeepsNext s (execBusChannelEnable c w t) := by
  dsimp only [execBusChannelEnable]
  exact .next (.ite h.writeBusCfg.noteWrite.output h)

protected theorem Keeps.execBusChannelDisable {c} (h : Keeps s t) : KeepsNext s (execBusChannelDisable c t) := by
  dsimp only [execBusChannelDisable]
  exact .next (.ite h.writeBusCfg.noteWrite.output h)

protected theorem Keeps.meetError {c kind transmitting place} (h : Keeps s t) :
    Keeps s (meetError t c kind transmitting place) :=
  (Keeps.ite h h.output).busErrorOp

protected theorem Keeps.execBusFrameReceive {c rx} (h : Keeps s t) : KeepsNext s (execBusFrameReceive c rx t) :=
  .next (.ite ((Keeps.ite h.meetError h.receiveCan).commitBus) h)

protected theorem Keeps.execTxRequest {c bufs} (h : Keeps s t) : KeepsNext s (execTxRequest c bufs t) := by
  dsimp only [execTxRequest]
  exact .next (.ite h.writeTxReq.noteWrite.output h)

protected theorem Keeps.execTxCancel {c bufs} (h : Keeps s t) : KeepsNext s (execTxCancel c bufs t) := by
  dsimp only [execTxCancel]
  exact .next (.ite h.writeTxCan.noteWrite.output h)

protected theorem Keeps.execBusArbitration {c} (h : Keeps s t) : KeepsNext s (execBusArbitration c t) :=
  .next (.ite h.touchPending.chooseBuf h)

protected theorem Keeps.execTxAttemptEnd {c how} (h : Keeps s t) : KeepsNext s (execTxAttemptEnd c how t) := by
  dsimp only [execTxAttemptEnd]
  split
  · exact .next (h.endAttempt.unless (·.commitBus))
  · exact .next h

protected theorem Keeps.execBusError {c kind transmitting place} (h : Keeps s t) :
    KeepsNext s (execBusError c kind transmitting place t) :=
  .next (.ite (.ite h.protocolException h.meetError) h)

protected theorem Keeps.execRecover {c} (h : Keeps s t) : KeepsNext s (execRecover c t) :=
  .next (.ite h.recoverBus.noteReg h)

protected theorem Keeps.execBusRecoveryComplete {c} (h : Keeps s t) : KeepsNext s (execBusRecoveryComplete c t) :=
  .next (.ite h.setBusCh.setF.setF.setFlag.setF h)

protected theorem Keeps.execBusIntegrationComplete {c} (h : Keeps s t) :
    KeepsNext s (execBusIntegrationComplete c t) :=
  .next (.ite h.settleBus h)

protected theorem Keeps.execBufferStarved {c b} (h : Keeps s t) : KeepsNext s (execBufferStarved c b t) :=
  .next (.ite h.checkStarved h)

/-! ### Commands of the message queues -/

protected theorem Keeps.popRead {q len prefetch} (h : Keeps s t) : Keeps s (popRead t q len prefetch).1 :=
  .iteFst h <| .iteFst h <| .iteFst h h.releaseHeld.takeNext.twinNote

protected theorem Keeps.execPushHdr {q who w} (h : Keeps s t) : KeepsNext s (execPushHdr q who w t) := by
  dsimp only [execPushHdr]
  exact .next (.ite h.pushHeader.output h)

protected theorem Keeps.execPushData {q who ofs bytes} (h : Keeps s t) :
    KeepsNext s (execPushData q who ofs bytes t) := by
  dsimp only [execPushData]
  exact .next (.ite h.pushBytes.output h)

protected theorem Keeps.execPushTimeout {q} (h : Keeps s t) : KeepsNext s (execPushTimeout q t) :=
  .next (.ite h.rewindPush h)

protected theorem Keeps.execPop {q len} (h : Keeps s t) : KeepsNext s (execPop q len t) := by
  dsimp only [execPop]
  exact .next (.ite h.popRead.output h)

protected theorem Keeps.noteQueueCtl {q w} (h : Keeps s t) : Keeps s (noteQueueCtl t q w) := h.noteReg

protected theorem Keeps.execRelease {q} (h : Keeps s t) : KeepsNext s (execRelease q t) :=
  .next (.ite h.writeQueueCtl.noteQueueCtl h)

protected theorem Keeps.execAbort {q} (h : Keeps s t) : KeepsNext s (execAbort q t) :=
  .next (.ite h.writeQueueCtl.noteQueueCtl h)

protected theorem Keeps.execQueueFlush {q} (h : Keeps s t) : KeepsNext s (execQueueFlush q t) :=
  .next (.ite h.writeQueueCtl.noteQueueCtl h)

protected theorem Keeps.execQueueEnable {q w} (h : Keeps s t) : KeepsNext s (execQueueEnable q w t) := by
  dsimp only [execQueueEnable]
  exact .next (.ite h.writeQueueCfg.noteWrite.output h)

protected theorem Keeps.execQueueDisable {q} (h : Keeps s t) : KeepsNext s (execQueueDisable q t) := by
  dsimp only [execQueueDisable]
  exact .next (.ite h.writeQueueCfg.noteWrite.output h)

protected theorem Keeps.execMessageProduce {q producer prio bytes} (h : Keeps s t) :
    KeepsNext s (execMessageProduce q producer prio bytes t) :=
  .next (.ite (.ite h.produceCounted <| .ite h.produce <| .ite (.ite h.commitMsg h.incF) h) h)

protected theorem Keeps.dropNext {q m} (h : Keeps s t) : Keeps s (dropNext t q m) := h.setQueue

protected theorem Keeps.execMqArcadeDeliver {q} (h : Keeps s t) : KeepsNext s (execMqArcadeDeliver q t) := by
  dsimp only [execMqArcadeDeliver]
  split
  · split
    · exact .next h
    · split
      · exact .next h.dropNext.incF
      · split
        · rename_i e
          exact .next ((h.readMsg.pushWords _ e).dropNext)
        · exact .next h
  · exact .next h

protected theorem Keeps.setPollWord {e i v} (h : Keeps s t) : Keeps s (setPollWord t e i v) := h.memPut

protected theorem Keeps.pollSkip {e} (h : Keeps s t) : Keeps s (pollSkip t e) := h.setPollWord

protected theorem Keeps.pollEntry {e} (h : Keeps s t) : Keeps s (pollEntry t e) := by
  dsimp only [pollEntry]
  split
  · exact h.pollSkip
  · split
    · exact .ite h h.withTxn
    · split
      · rename_i e
        exact (h.grantWaiting.tryIssue _ e).setPollWord
      · exact h.pollSkip

protected theorem Keeps.pollIssue {n} (h : Keeps s t) : Keeps s (pollIssue t n) :=
  .ite (h.eccTouch.foldl fun _ _ h => .ite h.pollEntry h) h

protected theorem Keeps.pollBusy {e} (h : Keeps s t) : Keeps s (pollBusy t e) := h.setPollWord

protected theorem Keeps.setLastCode {e code} (h : Keeps s t) : Keeps s (setLastCode t e code) := h.setPollWord

protected theorem Keeps.compareSample {p} (h : Keeps s t) : Keeps s (compareSample t p) :=
  .ite (.ite ((h.eccTouch.commitMsg.when (·.memPut)).setPollWord.setLastCode.setPollWord.setPollWord)
    h.eccTouch.pollSkip) h.eccTouch.setLastCode

protected theorem Keeps.execPollSampleComplete {e} (h : Keeps s t) : KeepsNext s (execPollSampleComplete e t) := by
  dsimp only [execPollSampleComplete]
  split
  · exact .next h
  · exact .next (h.withTxn.pollBusy.when (·.compareSample))

/-! ### Commands of the Junction -/

protected theorem Keeps.execJunctionMessageReceive (h : Keeps s t) : KeepsNext s (execJunctionMessageReceive t) := by
  dsimp only [execJunctionMessageReceive]
  split
  · split
    · exact .next (h.withJct.when (·.acceptMsg))
    · split
      · split
        · exact .next h.readMsg.dropNext.acceptMsg
        · exact .next h
      · exact .next h
  · exact .next h

protected theorem Keeps.execListRun {p} (h : Keeps s t) : KeepsNext s (execListRun p t) := by
  dsimp only [execListRun]
  split
  · split
    · rename_i e
      exact .next ((h.skipTimed.discardLate.takeRun.of_snd e).runList)
    · rename_i e
      exact .next (h.skipTimed.discardLate.takeRun.of_snd e)
  · exact .next h

protected theorem Keeps.execRunLateDiscard {p} (h : Keeps s t) : KeepsNext s (execRunLateDiscard p t) :=
  .next (.ite h.discardLate h)

protected theorem Keeps.execTimedRunSkip {p} (h : Keeps s t) : KeepsNext s (execTimedRunSkip p t) :=
  .next (.ite h.skipTimed h)

protected theorem Keeps.emitAccess {e} (h : Keeps s t) : Keeps s (emitAccess t e) := by
  dsimp only [emitAccess]
  exact .ite h.lookupForward.forwardFrame h

protected theorem Keeps.emitSignal {e} (h : Keeps s t) : Keeps s (emitSignal t e) := h.addFrame

protected theorem Keeps.handOver {e} (h : Keeps s t) : Keeps s (handOver t e) := by
  dsimp only [handOver]
  split
  · exact h.emitAccess
  · exact .ite h.emitToBus h
  · split
    next e => exact KeepsSome.ite h.pushWords .none _ e
    next => exact h.incF
  · exact h.emitSignal
  · exact .ite h.commitMsg h.incF

protected theorem Keeps.takeEmission {i} (h : Keeps s t) : Keeps s (takeEmission t i) := h.withJct

protected theorem Keeps.execEmissionHandover {i} (h : Keeps s t) : KeepsNext s (execEmissionHandover i t) := by
  dsimp only [execEmissionHandover]
  split
  · exact .next h
  · exact .next (.ite h <| .ite h.takeEmission.incF h.takeEmission.incF.handOver)

protected theorem Keeps.execEmitLateDiscard {i} (h : Keeps s t) : KeepsNext s (execEmitLateDiscard i t) := by
  dsimp only [execEmitLateDiscard]
  split
  · exact .next h
  · exact .next (.ite h.takeEmission.incF h)

/-! ### Slot power -/

protected theorem Keeps.updatePfw {i} (h : Keeps s t) : Keeps s (updatePfw t i) := h.setFlag

protected theorem Keeps.slotEvent {i old} (h : Keeps s t) : Keeps s (slotEvent t i old) := .ite h.produceCounted h

protected theorem Keeps.slotPins {i new} (h : Keeps s t) : Keeps s (slotPins t i new) :=
  h.setFlag.setFlag.unless (·.setFlag)

protected theorem Keeps.pgTimers {i new} (h : Keeps s t) : Keeps s (pgTimers t i new) :=
  h.stopTimer.stopTimer.when (·.startTimer)

protected theorem Keeps.changeSlot {i new reason} (h : Keeps s t) : Keeps s (changeSlot t i new reason) :=
  (h.setF.setF.slotPins.pgTimers.when (·.setSlot)).stopTimer.stopTimer.stopTimer.updatePfw.slotEvent

protected theorem Keeps.moveSlot {i new} (h : Keeps s t) : Keeps s (moveSlot t i new) := h.changeSlot

protected theorem Keeps.updateShedPending (h : Keeps s t) : Keeps s (updateShedPending t) := h.setFlag

protected theorem Keeps.dropPlan {i} (h : Keeps s t) : Keeps s (dropPlan t i) :=
  h.stopTimer.setSlot.updatePfw.updateShedPending

protected theorem Keeps.warnSlot {i reason} (h : Keeps s t) : Keeps s (warnSlot t i reason) := by
  dsimp only [warnSlot]
  split
  · exact h
  · exact h.setSlot.startTimer.updatePfw.updateShedPending

protected theorem Keeps.tripSlot {i reason} (h : Keeps s t) : Keeps s (tripSlot t i reason) := by
  unfold tripSlot
  exact h.dropPlan.setSlot.changeSlot.addF.recordFault

protected theorem Keeps.shedSlot {i reason} (h : Keeps s t) : Keeps s (shedSlot t i reason) :=
  h.stopTimer.setSlot.changeSlot.addF.updateShedPending

protected theorem Keeps.enableSlot {i} (h : Keeps s t) : Keeps s (enableSlot t i) :=
  .ite (h.setSlot.moveSlot.when (·.moveSlot)) h

protected theorem Keeps.disableSlot {i} (h : Keeps s t) : Keeps s (disableSlot t i) :=
  .ite h h.dropPlan.setSlot.moveSlot

protected theorem Keeps.slotEnChanged {i} (h : Keeps s t) : Keeps s (slotEnChanged t i) :=
  .ite h.enableSlot h.disableSlot

protected theorem Keeps.execSlotEnable {i} (h : Keeps s t) : KeepsNext s (execSlotEnable i t) :=
  .next (.ite h.setFlag.slotEnChanged h)

protected theorem Keeps.execSlotDisable {i} (h : Keeps s t) : KeepsNext s (execSlotDisable i t) :=
  .next (.ite h.setFlag.slotEnChanged h)

protected theorem Keeps.seatDone {i} (h : Keeps s t) : Keeps s (seatDone t i) := h.setFlag.when (·.moveSlot)

protected theorem Keeps.execSeatDebounceDone {i} (h : Keeps s t) : KeepsNext s (execSeatDebounceDone i t) :=
  .next (.ite h.seatDone h)

protected theorem Keeps.seatLost {i} (h : Keeps s t) : Keeps s (seatLost t i) :=
  h.setFlag.setF.unless (·.dropPlan.setSlot.changeSlot)

protected theorem Keeps.execSeatLost {i} (h : Keeps s t) : KeepsNext s (execSeatLost i t) := .next (.ite h.seatLost h)

protected theorem Keeps.execSelfSeatChange {seated} (h : Keeps s t) : KeepsNext s (execSelfSeatChange seated t) :=
  .next (.ite h.setFlag h)

protected theorem Keeps.startSlot {i} (h : Keeps s t) : Keeps s (startSlot t i) :=
  (Keeps.ite h.incSat h).setSlot.withPower.moveSlot.startTimer

protected theorem Keeps.execPowerUpStart {i} (h : Keeps s t) : KeepsNext s (execPowerUpStart i t) :=
  .next (.ite h.startSlot h)

protected theorem Keeps.rampSlot {i} (h : Keeps s t) : Keeps s (rampSlot t i) := h.moveSlot.startTimer

protected theorem Keeps.execPrechargeComplete {i vsns vin} (h : Keeps s t) :
    KeepsNext s (execPrechargeComplete i vsns vin t) :=
  .next (.ite h.rampSlot h)

protected theorem Keeps.execPrechargeTimeout {i} (h : Keeps s t) : KeepsNext s (execPrechargeTimeout i t) :=
  .next (.ite h.tripSlot h)

protected theorem Keeps.execRampEnd {i vsns vin current} (h : Keeps s t) :
    KeepsNext s (execRampEnd i vsns vin current t) :=
  .next (.ite h.moveSlot h)

protected theorem Keeps.tickFaultTimer {i current} (h : Keeps s t) : Keeps s (tickFaultTimer t i current) :=
  .ite h.setSlot <| .ite h.setSlot <| .ite h.setSlot h.setSlot

protected theorem Keeps.monitorTick {i current} (h : Keeps s t) : Keeps s (monitorTick t i current) :=
  .ite h.tickFaultTimer.moveSlot (h.tickFaultTimer.when (·.moveSlot))

protected theorem Keeps.execMonitorTick {i current} (h : Keeps s t) : KeepsNext s (execMonitorTick i current t) :=
  .next (.ite h.monitorTick h)

protected theorem Keeps.execBreaker {i} (h : Keeps s t) : KeepsNext s (execBreaker i t) := .next (.ite h.tripSlot h)

protected theorem Keeps.execFast {i current} (h : Keeps s t) : KeepsNext s (execFast i current t) :=
  .next (.ite h.tripSlot h)

protected theorem Keeps.resolveTrip {i} (h : Keeps s t) : Keeps s (resolveTrip t i) :=
  .ite h.moveSlot.startTimer h.moveSlot.recordFault

protected theorem Keeps.execTripResolve {i} (h : Keeps s t) : KeepsNext s (execTripResolve i t) :=
  .next (.ite h.resolveTrip h)

protected theorem Keeps.execRetryWaitExpiry {i} (h : Keeps s t) : KeepsNext s (execRetryWaitExpiry i t) :=
  .next (.ite h.stopTimer.setSlot h)

protected theorem Keeps.execPgQualify {i} (h : Keeps s t) : KeepsNext s (execPgQualify i t) :=
  .next (.ite h.stopTimer.setFlag.startTimer h)

protected theorem Keeps.execRetryCountReset {i} (h : Keeps s t) : KeepsNext s (execRetryCountReset i t) :=
  .next (.ite h.stopTimer.setF h)

protected theorem Keeps.noteVin {vin} (h : Keeps s t) : Keeps s (noteVin t vin) :=
  .ite h.setF.ensureTimer h.setF.stopTimer

protected theorem Keeps.changeVin {vin} (h : Keeps s t) : Keeps s (changeVin t vin) :=
  h.noteVin.unless fun h => h.setF.foldl fun _ _ h => .ite h <| .ite h.warnSlot <| .ite h.shedSlot <|
    .ite h.shedSlot h

protected theorem Keeps.execVinStateChange {vin} (h : Keeps s t) : KeepsNext s (execVinStateChange vin t) :=
  .next (.ite h.changeVin h)

protected theorem Keeps.restoreVin (h : Keeps s t) : Keeps s (restoreVin t) := h.foldl fun _ _ h => .ite h.setSlot h

protected theorem Keeps.execVinRestore (h : Keeps s t) : KeepsNext s (execVinRestore t) := .next (.ite h.restoreVin h)

protected theorem Keeps.warnedTurnOff {i reason} (h : Keeps s t) : Keeps s (warnedTurnOff t i reason) :=
  .ite h.dropPlan h.shedSlot

protected theorem Keeps.execWarnedTurnOff {i} (h : Keeps s t) : KeepsNext s (execWarnedTurnOff i t) := by
  dsimp only [execWarnedTurnOff]
  split
  · split
    · exact .next (.ite h.warnedTurnOff h)
    · exact .next h
  · exact .next h

protected theorem Keeps.setPsum (h : Keeps s t) : Keeps s (setPsum t) := h.setF

protected theorem Keeps.trackBudget (h : Keeps s t) : Keeps s (trackBudget t) :=
  h.foldl fun _ _ h => .ite h.ensureTimer h.stopTimer

protected theorem Keeps.shedEvaluate (h : Keeps s t) : Keeps s (shedEvaluate t) :=
  .ite h ((h.setPsum.unless fun h => (h.foldl fun _ _ h => h.setSlot.warnSlot)).trackBudget)

protected theorem Keeps.execBudgetRestore {i} (h : Keeps s t) : KeepsNext s (execBudgetRestore i t) :=
  .next (.ite h.stopTimer.setSlot h)

protected theorem Keeps.slotOnCmd {i} (h : Keeps s t) : Keeps s (slotOnCmd t i) := h.setF.when (·.setSlot.stopTimer)

protected theorem Keeps.slotOffCmd {i} (h : Keeps s t) : Keeps s (slotOffCmd t i) :=
  .ite h.setSlot.moveSlot <| .ite h.setSlot <| .ite h.warnSlot h

protected theorem Keeps.writeSlotCtl {i w} (h : Keeps s t) : Keeps s (writeSlotCtl t i w) :=
  .ite h.slotOffCmd <| .ite h.slotOnCmd h

protected theorem Keeps.execOn {i} (h : Keeps s t) : KeepsNext s (execOn i t) := .next (.ite h.writeSlotCtl.noteReg h)

protected theorem Keeps.execOff {i} (h : Keeps s t) : KeepsNext s (execOff i t) :=
  .next (.ite h.writeSlotCtl.noteReg h)

protected theorem Keeps.abandonWrites (h : Keeps s t) : Keeps s (abandonWrites t) := h.withOdw.withCip

protected theorem Keeps.assertPfail (h : Keeps s t) : Keeps s (assertPfail t) :=
  (h.withPins.setFlag.setFlag.abandonWrites.stopTimer.foldl fun _ _ h => h.updatePfw).when (·.releaseIfPeerReady)

protected theorem Keeps.execPfailAssert (h : Keeps s t) : KeepsNext s (execPfailAssert t) :=
  .next (.ite h.assertPfail h.withPins)

protected theorem Keeps.releasePfail (h : Keeps s t) : Keeps s (releasePfail t) :=
  (h.withPins.setFlag.foldl fun _ _ h => h.updatePfw).unless (·.startTimer)

protected theorem Keeps.execPfailRelease (h : Keeps s t) : KeepsNext s (execPfailRelease t) :=
  .next (.ite h.releasePfail h.withPins)

protected theorem Keeps.lowerVaux (h : Keeps s t) : Keeps s (lowerVaux t) :=
  h.withPins.stopTimer.setFlag.abandonWrites

protected theorem Keeps.execVauxLow (h : Keeps s t) : KeepsNext s (execVauxLow t) :=
  .next (.ite h.lowerVaux h.withPins)

protected theorem Keeps.liftInhibit (h : Keeps s t) : Keeps s (liftInhibit t) :=
  h.withPins.stopTimer.setFlag.when (·.nextLgen)

protected theorem Keeps.execNvmInhibitLift (h : Keeps s t) : KeepsNext s (execNvmInhibitLift t) :=
  .next (.ite h.liftInhibit h)

protected theorem Keeps.addEnergy {i p dt} (h : Keeps s t) : Keeps s (addEnergy t i p dt) := h.setSlot.setF

protected theorem Keeps.meterSlot {codes dt i} (h : Keeps s t) : Keeps s (meterSlot t codes dt i) :=
  h.setF.setF.setF.withPower.addEnergy

protected theorem Keeps.meterAll {codes dt} (h : Keeps s t) : Keeps s (meterAll t codes dt) :=
  (h.foldl fun _ _ h => h.meterSlot).noteVin.setPsum

protected theorem Keeps.execMeterSample {codes} (h : Keeps s t) : KeepsNext s (execMeterSample codes t) :=
  .next (.ite h.meterAll h)

protected theorem Keeps.snapCodes {codes} (h : Keeps s t) : Keeps s (snapCodes t codes) :=
  (h.foldl fun _ _ h => h.setF).setWords

protected theorem Keeps.adcFire {k codes} (h : Keeps s t) : Keeps s (adcFire t k codes) := by
  dsimp only [adcFire]
  split
  · exact h
  · split
    · exact h.withPower.snapCodes.withPower
    · exact .ite (h.withPower.snapCodes.withPower.unless (·.meterAll)) h.withPower.snapCodes.withPower.setFlag

protected theorem Keeps.execSyncFiringLate (h : Keeps s t) : KeepsNext s (execSyncFiringLate t) :=
  .next (.ite h.withPower.setFlag h)

protected theorem Keeps.fencePower (h : Keeps s t) : Keeps s (fencePower t) :=
  h.foldl fun _ _ h => .ite h.tripSlot h

protected theorem Keeps.recoverSlot {i seated v vin} (h : Keeps s t) : Keeps s (recoverSlot t i seated v vin) :=
  h.setSlot.setFlag.unless fun h => .ite h.moveSlot <| .ite h.moveSlot h.moveSlot

protected theorem Keeps.resetPower {pre} (h : Keeps s t) : Keeps s (resetPower pre t) :=
  h.withTimers.withPower.setFlag.setFlag.setFlag.foldl fun _ _ h => h.recoverSlot

protected theorem Keeps.execBankSupplyLoss {bank} (h : Keeps s t) : KeepsNext s (execBankSupplyLoss bank t) :=
  .next (.ite h.setFlag h)

/-! ### Commands of the time unit -/

protected theorem Keeps.takeTime {subtype} (h : Keeps s t) : KeepsSome s Prod.snd (takeTime t subtype) := by
  dsimp only [takeTime]
  split
  · exact .some h.withRing
  · exact .none

protected theorem Keeps.closeAverage {port} (h : Keeps s t) : Keeps s (closeAverage t port) := h.setPortSt

protected theorem Keeps.execLinkReportSend {port} (h : Keeps s t) : KeepsNext s (execLinkReportSend port t) :=
  .next (.ite h.closeAverage.startTimer.addOwnOnPort h)

protected theorem Keeps.receiveLink {port f} (h : Keeps s t) : Keeps s (receiveLink t port f) := by
  dsimp only [receiveLink]
  split
  · exact .ite h.setF h.setF.setF.withTime.servoReport
  · exact .ite h h.servoReport

protected theorem Keeps.execLinkReportReceive (h : Keeps s t) : KeepsNext s (execLinkReportReceive t) := by
  dsimp only [execLinkReportReceive]
  split
  · rename_i e
    exact .next (.ite ((h.takeTime _ e).receiveLink) (h.takeTime _ e))
  · exact .next h

protected theorem Keeps.servoAdjust {base} (h : Keeps s t) : Keeps s (servoAdjust t base) := by
  dsimp only [servoAdjust]
  split
  · split
    · exact .ite h.setF <| .ite h.setF h
    · exact h
  · split
    · exact h.setF
    · exact h

protected theorem Keeps.execServoUpdate {base} (h : Keeps s t) : KeepsNext s (execServoUpdate base t) :=
  .next (.ite h.servoAdjust.startTimer h)

protected theorem Keeps.execUpstreamReportTimeout (h : Keeps s t) : KeepsNext s (execUpstreamReportTimeout t) :=
  .next (.ite (h.stopTimer.when (·.enterHoldover)) h)

protected theorem Keeps.execTb1ReportSend (h : Keeps s t) : KeepsNext s (execTb1ReportSend t) :=
  .next (.ite h.startTimer.addOnPort h)

protected theorem Keeps.receiveTb1 {f} (h : Keeps s t) : Keeps s (receiveTb1 t f) :=
  h.withTime.startTimer.unless (·.setBase.setFlag)

protected theorem Keeps.execTb1ReportReceive (h : Keeps s t) : KeepsNext s (execTb1ReportReceive t) := by
  dsimp only [execTb1ReportReceive]
  split
  · split
    · rename_i e _ _ _ _ _
      exact .next (.ite ((h.takeTime _ e).receiveTb1) (h.takeTime _ e))
    · rename_i e _ _
      exact .next (h.takeTime _ e)
  · exact .next h

protected theorem Keeps.execTb1ReportTimeout (h : Keeps s t) : KeepsNext s (execTb1ReportTimeout t) :=
  .next (.ite h.stopTimer h)

protected theorem Keeps.execTriggerArm {k} (h : Keeps s t) : KeepsNext s (execTriggerArm k t) :=
  .next (.ite h.armTrigger h)

protected theorem Keeps.oweCaptures {k} (h : Keeps s t) : Keeps s (oweCaptures t k) :=
  h.foldl fun _ _ h => .ite h.withTime h

protected theorem Keeps.captureTrigger (h : Keeps s t) : Keeps s (captureTrigger t) := .ite h.setF h

protected theorem Keeps.triggerOutput {k codes} (h : Keeps s t) : Keeps s (triggerOutput t k codes) := by
  dsimp only [triggerOutput]
  split
  · exact h
  · exact h.output.adcFire
  · exact h.fireEngines
  · exact h.triggerTick
  · exact h.captureTrigger
  · exact h.triggerPin

protected theorem Keeps.execTriggerFire {k codes} (h : Keeps s t) : KeepsNext s (execTriggerFire k codes t) :=
  .next (.ite h.oweCaptures.fireTrigger.triggerOutput h)

protected theorem Keeps.captureGio {k risingPad} (h : Keeps s t) : Keeps s (captureGio t k risingPad) :=
  .ite h.storeCapture h

protected theorem Keeps.captureFiring {k} (h : Keeps s t) : Keeps s (captureFiring t k) := by
  dsimp only [captureFiring]
  split
  · exact h.withTime.storeCapture
  · exact h

protected theorem Keeps.execCaptureEvent {k risingPad} (h : Keeps s t) :
    KeepsNext s (execCaptureEvent k risingPad t) :=
  .next (.ite (.ite h.captureFiring h.captureGio) h)

protected theorem Keeps.fenceTime (h : Keeps s t) : Keeps s (fenceTime t) := .ite h.enterHoldover h

protected theorem Keeps.resetTime (h : Keeps s t) : Keeps s (resetTime t) := h.withTime.withTimers

/-! ### Twin control -/

protected theorem Keeps.replayRecorded (h : Keeps s t) : Keeps s (replayRecorded t) :=
  h.withTxn.foldl fun _ _ h => h.serveRequest

protected theorem Keeps.forgetChanged (h : Keeps s t) : Keeps s (forgetChanged t) := h.withBus

protected theorem Keeps.becomeActive (h : Keeps s t) : Keeps s (becomeActive t) :=
  h.stopTimer.setRole.raiseClaim.forgetChanged.withTwin.endResync.replayRecorded

protected theorem Keeps.noteSwitch {reason} (h : Keeps s t) : Keeps s (noteSwitch t reason) := h.setF.setF

protected theorem Keeps.switchOver (h : Keeps s t) : Keeps s (switchOver t) :=
  .ite h.becomeActive.noteSwitch.incF.recordFault h

protected theorem Keeps.coldTakeover (h : Keeps s t) : Keeps s (coldTakeover t) :=
  .ite h.becomeActive.noteSwitch.recordFault h

protected theorem Keeps.coldEnabled {pre} (h : Keeps s t) : Keeps s (coldEnabled pre t) := .ite h.coldTakeover h

protected theorem Keeps.claimYield (h : Keeps s t) : Keeps s (claimYield t) :=
  .ite (h.lowerClaim.incF.when (·.leaveActive)) h

protected theorem Keeps.checkPeerPin (h : Keeps s t) : Keeps s (checkPeerPin t) :=
  h.withTwin.when (·.incF.recordFault)

protected theorem Keeps.peerRise (h : Keeps s t) : Keeps s (peerRise t) :=
  h.withPins.stopTimer.stopTimer.checkPeerPin.when (·.withTwin.claimYield)

protected theorem Keeps.execTwnPeerRise (h : Keeps s t) : KeepsNext s (execTwnPeerRise t) := .next h.peerRise

protected theorem Keeps.execTwnPeerFall (h : Keeps s t) : KeepsNext s (execTwnPeerFall t) :=
  .next (.ite h.withPins.startTimer h)

protected theorem Keeps.peerLowQualified (h : Keeps s t) : Keeps s (peerLowQualified t) :=
  .ite (h.checkPeerPin.when (·.raiseClaim)) h.checkPeerPin.coldTakeover

protected theorem Keeps.execPeerLowQualified (h : Keeps s t) : KeepsNext s (execPeerLowQualified t) :=
  .next (.ite h.peerLowQualified h)

protected theorem Keeps.execSoloWaitExpiry (h : Keeps s t) : KeepsNext s (execSoloWaitExpiry t) :=
  .next (.ite (h.stopTimer.when (·.becomeActive)) h)

protected theorem Keeps.sendTwin {m} (h : Keeps s t) : Keeps s (sendTwin t m) := by
  unfold sendTwin
  exact h.sendWords

protected theorem Keeps.execTwinKeepaliveSend (h : Keeps s t) : KeepsNext s (execTwinKeepaliveSend t) :=
  .next (.ite h.sendTwin.startTimer h)

protected theorem Keeps.execTwinLinkDown {lockLost} (h : Keeps s t) : KeepsNext s (execTwinLinkDown lockLost t) :=
  .next (.ite h.twinLinkLost.coldTakeover h)

protected theorem Keeps.execDepartureSend (h : Keeps s t) : KeepsNext s (execDepartureSend t) :=
  .next (.ite (h.withPlaza.startTimer.unless (·.sendTwin)) h)

protected theorem Keeps.trimQueue {r} (h : Keeps s t) : Keeps s (trimQueue t r) :=
  .ite (h.foldl fun _ _ h => h.removeRef) ((h.foldl fun _ _ h => h.removeRef).incF)

protected theorem Keeps.execDepartureReceive {recs} (h : Keeps s t) : KeepsNext s (execDepartureReceive recs t) :=
  .next (.ite (h.foldl fun _ _ h => h.trimQueue) h)

protected theorem Keeps.requestHandover (h : Keeps s t) : Keeps s (requestHandover t) :=
  .ite h.withTwin.setFlag h.setFlag.setF.setFlag

protected theorem Keeps.requestResync (h : Keeps s t) : Keeps s (requestResync t) :=
  .ite h.setRole.endResync.setFlag h

protected theorem Keeps.heartbeat (h : Keeps s t) : Keeps s (heartbeat t) := h.withTwin.stopTimer.setFlag

protected theorem Keeps.writeTwinCtl {w} (h : Keeps s t) : Keeps s (writeTwinCtl t w) :=
  ((Keeps.ite h.heartbeat h).when (·.requestResync)).when (·.requestHandover)

protected theorem Keeps.execHeartbeatMissed (h : Keeps s t) : KeepsNext s (execHeartbeatMissed t) :=
  .next (.ite h.releaseClaim h)

protected theorem Keeps.execBoundaryWatchdog (h : Keeps s t) : KeepsNext s (execBoundaryWatchdog t) :=
  .next (.ite h.releaseClaim h)

protected theorem Keeps.giveOver (h : Keeps s t) : Keeps s (giveOver t) := h.leaveActive.withTwin

protected theorem Keeps.execHandoverRelease (h : Keeps s t) : KeepsNext s (execHandoverRelease t) :=
  .next (.ite (.ite h.giveOver <| .ite h.withTwin.incF h) h)

protected theorem Keeps.receiveAck {cycle crc} (h : Keeps s t) : Keeps s (receiveAck t cycle crc) :=
  .ite (h.withTwin.setF.when fun h => (h.withTwin.when (·.giveOver))) h

protected theorem Keeps.execDeltaAckReceive {cycle crc} (h : Keeps s t) :
    KeepsNext s (execDeltaAckReceive cycle crc t) :=
  .next (.ite h.receiveAck h)

/-! ### Fences and resets of units -/

protected theorem Keeps.startDrain {u reset} (h : Keeps s t) : Keeps s (startDrain t u reset) :=
  h.withTxn.foldl fun _ _ h => h.withDrains.startTimer

protected theorem Keeps.stopTransfer {r} (h : Keeps s t) : Keeps s (stopTransfer t r) := by
  dsimp only [stopTransfer]
  split
  · split
    · exact h.output
    · exact h
  · exact h

protected theorem Keeps.endRequests {rs code} (h : Keeps s t) : Keeps s (endRequests t rs code) :=
  h.foldl fun _ _ h => h.stopTransfer.withTxn.completeRequest

protected theorem Keeps.fenceEffects {u} (h : Keeps s t) : Keeps s (fenceEffects t u) :=
  .ite (h.declareBroken.declareBroken.foldl fun _ _ h => h.portLinkLost) <|
    .ite (h.foldl fun _ _ h => .ite h.enterDown h) <| .ite (h.foldl fun _ _ h => h.portLinkLost) <|
    .ite (h.stopJunction.foldl fun _ _ h => h.portLinkLost) <| .ite h.rewindAll <| .ite h.stopEngines <|
    .ite h.fenceTime <|
    .ite ((h.abortDescriptors.foldl fun _ _ h => h.portLinkLost).foldl fun _ _ h => .ite h.enterCap h) <| .ite (h.twinLinkLost.foldl fun _ _ h => h.portLinkLost) <| .ite h.fencePower <|
    .ite h.endRequests h

protected theorem Keeps.findLinks (h : Keeps s t) : Keeps s (findLinks t) :=
  h.foldl fun _ _ h => .ite h.portLinkFound h

protected theorem Keeps.startRing (h : Keeps s t) : Keeps s (startRing t) :=
  (Keeps.ite h.ensureTimer h).foldl fun _ _ h => h.startPort

protected theorem Keeps.unitBack {u} (h : Keeps s t) : Keeps s (unitBack t u) := by
  unfold unitBack
  extract_lets s₁
  have h₁ : Keeps s s₁ := h.foldl fun _ _ h => .ite h.setPortState h
  exact .ite h <| .ite h₁.findLinks <| .ite h₁.findLinks.startTimer <| .ite h₁.startRing <| h₁.when (·.selectMaster)

protected theorem Keeps.beginFence {u mark} (h : Keeps s t) (hm : ∀ v, Keeps s v → Keeps s (mark v)) :
    Keeps s (beginFence t u mark) := .ite (hm _ h) (hm _ h).fenceEffects.startDrain

protected theorem Keeps.setFenceBit {u b} (h : Keeps s t) : Keeps s (setFenceBit t u b) := h.setWord

protected theorem Keeps.fenceUnit {u} (h : Keeps s t) : Keeps s (fenceUnit t u) :=
  .ite (h.beginFence fun _ h => h.setFenceBit) h

protected theorem Keeps.liftFence {u} (h : Keeps s t) : Keeps s (liftFence t u) :=
  .ite (h.setFenceBit.when (·.withDrains.withTimers.unitBack)) h

protected theorem Keeps.faultFence {u} (h : Keeps s t) : Keeps s (faultFence t u) :=
  h.beginFence fun _ h => h.setBitF

protected theorem Keeps.resetTables {u} (h : Keeps s t) : Keeps s (resetTables t u) :=
  h.foldl fun _ _ h => h.setBitF.setBitF.setBitF.setBitF

protected theorem Keeps.resetRegisters {u} (h : Keeps s t) : Keeps s (resetRegisters t u) :=
  h.withRegs.withPendCb.withPendFb.withPendMem.setBitF

protected theorem Keeps.stopUnitTimers {u} (h : Keeps s t) : Keeps s (stopUnitTimers t u) := h.withTimers

protected theorem Keeps.resetParts {pre u} (h : Keeps s t) : Keeps s (resetParts pre t u) :=
  .ite h.withPlaza <| .ite h.withRing <| .ite h.withJct <| .ite h.resetQueues <| .ite h.withBus <|
    .ite h.resetEngines <| .ite h.resetTime <| .ite h.withCip <| .ite (h.foldl fun _ _ h => h.setFlag.setFlag) <|
    .ite h.withTwin <| .ite h.resetPower <| .ite h.withOdw h

protected theorem Keeps.clearUnit {u} (h : Keeps s t) : Keeps s (clearUnit t u) :=
  h.resetRegisters.stopUnitTimers.resetTables.resetParts

protected theorem Keeps.resetUnit {u} (h : Keeps s t) : Keeps s (resetUnit t u) := (Keeps.ite h h.clearUnit).setBitF

protected theorem Keeps.setRstBit {u b} (h : Keeps s t) : Keeps s (setRstBit t u b) := h.setWord

protected theorem Keeps.requestReset {u} (h : Keeps s t) : Keeps s (requestReset t u) :=
  .ite ((h.setRstBit.unless (·.fenceEffects)).startDrain) h

protected theorem Keeps.startCip (h : Keeps s t) : Keeps s (startCip t) := h.setF.foldl fun _ _ h => h.resumeSlot

protected theorem Keeps.completeReset {u} (h : Keeps s t) : Keeps s (completeReset t u) :=
  (((Keeps.ite h.clearUnit h).setBitF.setRstBit.setBitF.when (·.withDev.zeroiseKeyRegs)).when (·.startCip)).unitBack

protected theorem Keeps.execUnitResetComplete {u} (h : Keeps s t) : KeepsNext s (execUnitResetComplete u t) :=
  .next (.ite h.completeReset h)

/-! ### Restarts -/

protected theorem Keeps.clearIslands (h : Keeps s t) : Keeps s (clearIslands t) :=
  Keeps.setFlag (h.of_filter (p := fun c => decide (unitOfKey c.1 = unitNVM)) rfl rfl)

protected theorem Keeps.saveBases (h : Keeps s t) : Keeps s (saveBases t) := .ite h h.withAon

protected theorem Keeps.restoreBases (h : Keeps s t) : Keeps s (restoreBases t) :=
  .ite h.withAon.setBase.setBase.setBase.setBase h

protected theorem Keeps.startPeerFilter (h : Keeps s t) : Keeps s (startPeerFilter t) := .ite h h.startTimer

protected theorem Keeps.beginStarting (h : Keeps s t) : Keeps s (beginStarting t) :=
  h.withDev.startTimer.startPeerFilter

protected theorem Keeps.systemRestart (h : Keeps s t) : Keeps s (systemRestart t) :=
  h.saveBases.clearIslands.beginStarting

protected theorem Keeps.enterDead (h : Keeps s t) : Keeps s (enterDead t) := h.stopTimer.withDev

protected theorem Keeps.detectBanks {present v33} (h : Keeps s t) : Keeps s (detectBanks t present v33) :=
  h.foldl fun _ _ h => h.setFlag.setFlag

protected theorem Keeps.powerOff (h : Keeps s t) : Keeps s (powerOff t) :=
  h.withAon.clearIslands.withRegs.setFlag.withTime.withDev

protected theorem Keeps.execPowerOnReset (h : Keeps s t) : KeepsNext s (execPowerOnReset t) := .next h.powerOff

protected theorem Keeps.execPorstRelease {ok side testmode present v33} (h : Keeps s t) :
    KeepsNext s (execPorstRelease ok side testmode present v33 t) :=
  .next (.ite (.ite h.withDev.withDev <| .ite h.withDev.beginStarting.detectBanks h.withDev.beginStarting.enterDead)
    h)

protected theorem Keeps.execSysrstAssert (h : Keeps s t) : KeepsNext s (execSysrstAssert t) :=
  .next (.ite h.withDev h.saveBases.clearIslands.withDev)

protected theorem Keeps.execSysrstRelease {ok present v33} (h : Keeps s t) :
    KeepsNext s (execSysrstRelease ok present v33 t) :=
  .next (.ite (h.withDev.unless fun h => .ite h.lowerClaim.beginStarting.detectBanks
    h.lowerClaim.beginStarting.enterDead) h)

protected theorem Keeps.sameBanks {pre} (h : Keeps s t) : Keeps s (sameBanks pre t) :=
  h.foldl fun _ _ h => h.setFlag.setFlag

protected theorem Keeps.restartKeepingBanks (h : Keeps s t) : Keeps s (restartKeepingBanks t) :=
  h.systemRestart.sameBanks

protected theorem Keeps.execDeviceRestart (h : Keeps s t) : KeepsNext s (execDeviceRestart t) :=
  .next (.ite h.restartKeepingBanks h)

protected theorem Keeps.execDormantWake {changed wakeLow4} (h : Keeps s t) :
    KeepsNext s (execDormantWake changed wakeLow4 t) :=
  .next (.ite (h.withAon.unless (·.restartKeepingBanks)) h)

protected theorem Keeps.releaseMgtTags (h : Keeps s t) : Keeps s (releaseMgtTags t) :=
  h.withTxn.foldl fun _ _ h => h.stopTimer.startTimer

protected theorem Keeps.managementRestart (h : Keeps s t) : Keeps s (managementRestart t) := by
  have hm : Keeps s ((t.withDev { t.dev with mgtRestart := true, dormantPending := false }).withMem
      (t.mem.filter (fun c => decide (unitOfKey c.1 ≠ 0x20)))) := h.withDev.of_filter rfl rfl
  exact hm.withOdw.portLinkLost.releaseMgtTags.when (·.withTwin.startTimer)

protected theorem Keeps.turnOffSlots (h : Keeps s t) : Keeps s (turnOffSlots t) := h.foldl fun _ _ h => h.warnSlot

protected theorem Keeps.beginDormant (h : Keeps s t) : Keeps s (beginDormant t) :=
  .ite h.withDev.withOdw.requestHandover (h.withDev.withOdw.when (·.turnOffSlots))

protected theorem Keeps.execDormantRequest (h : Keeps s t) : KeepsNext s (execDormantRequest t) :=
  .next (.ite h <| .ite h.beginDormant <| .ite h.output h.output.beginDormant)

protected theorem Keeps.continueDormant (h : Keeps s t) : Keeps s (continueDormant t) := .ite h.turnOffSlots h

protected theorem Keeps.beginPowerDown (h : Keeps s t) : Keeps s (beginPowerDown t) :=
  h.withDev.foldl fun _ _ h => h.startDrain

protected theorem Keeps.enterDormant {mask} (h : Keeps s t) : Keeps s (enterDormant t mask) :=
  h.withAon.saveBases.endRequests.clearIslands.sameBanks.withDev

/-! ### Fault reactions -/

protected theorem Keeps.degrade (h : Keeps s t) : Keeps s (degrade t) := .ite h.withDev h

protected theorem Keeps.react {u code} (h : Keeps s t) : Keeps s (react t u code) :=
  .ite h.faultFence.degrade <| .ite h.faultFence.degrade.releaseClaim <|
    .ite h.withFlt.requestReset.degrade.setBitF h

protected theorem Keeps.keepFatal {record} (h : Keeps s t) : Keeps s (keepFatal t record) := h.setWords.setFlag

protected theorem Keeps.writePendingFatal (h : Keeps s t) : Keeps s (writePendingFatal t) :=
  .ite h.writeEventLog.setFlag h

protected theorem Keeps.fatalFault {code unit info0 info1} (h : Keeps s t) :
    Keeps s (fatalFault t code unit info0 info1) :=
  h.logFault.keepFatal.writePendingFatal.restartKeepingBanks.when (·.withFlt.startTimer)

protected theorem Keeps.reportFault {code unit cls kind info0 info1} (h : Keeps s t) :
    Keeps s (reportFault t code unit cls kind info0 info1) := by
  cases kind with
  | record => exact h.recordFault
  | unit => exact h.logFault.react
  | restart => exact h.fatalFault
  | mgtRestart => exact h.logFault.managementRestart

protected theorem Keeps.execFaultDetect {code unit info0 info1} (h : Keeps s t) :
    KeepsNext s (execFaultDetect code unit info0 info1 t) := by
  dsimp only [execFaultDetect]
  split
  · split
    · exact .next h.reportFault
    · exact .fault
  · exact .next h

protected theorem Keeps.execErrPulseEnd (h : Keeps s t) : KeepsNext s (execErrPulseEnd t) :=
  .next (.ite h.withFlt.stopTimer h)

protected theorem Keeps.injectFault {code unit} (h : Keeps s t) : Keeps s (injectFault t code unit) := by
  dsimp only [injectFault]
  split
  · split
    · exact h.reportFault
    · exact h
  · exact h

protected theorem Keeps.armEcc {code unit} (h : Keeps s t) : Keeps s (armEcc t code unit) := h.withFlt

protected theorem Keeps.injectGo {code unit ecc} (h : Keeps s t) : Keeps s (injectGo t code unit ecc) :=
  .ite h.setFlag.setF.setF.armEcc h.setFlag.setF.setF.injectFault

protected theorem Keeps.execFaultInject {code unit} (h : Keeps s t) : KeepsNext s (execFaultInject code unit t) :=
  .next (.ite h.injectGo h)

protected theorem Keeps.execEccInject {code unit} (h : Keeps s t) : KeepsNext s (execEccInject code unit t) :=
  .next (.ite h.injectGo h)

protected theorem Keeps.reportWord {w} (h : Keeps s t) : Keeps s (reportWord t w) := by
  dsimp only [reportWord]
  split
  · exact h.withFresh.reportFault
  · exact h

protected theorem Keeps.reportEcc (h : Keeps s t) : Keeps s (reportEcc t) :=
  h.withFlt.foldl fun _ _ h => h.reportWord

protected theorem Keeps.idle (h : Keeps s t) : Keeps s (idle t) := h.tick.reportEcc

protected theorem Keeps.reportHang {u done} (h : Keeps s t) : Keeps s (reportHang t u done) := .ite h h.reportFault

protected theorem Keeps.drained {u} (h : Keeps s t) : Keeps s (drained t u) :=
  .ite (h.withDrains.reportHang.when (·.resetUnit)) h

protected theorem Keeps.endWindow {d} (h : Keeps s t) : Keeps s (endWindow t d) :=
  h.endRequests.stopTimer.withDrains.drained

protected theorem Keeps.execDrainWindowEnd {unit island} (h : Keeps s t) :
    KeepsNext s (execDrainWindowEnd unit island t) := by
  dsimp only [execDrainWindowEnd]
  split
  · exact .next (.ite h.endWindow h)
  · exact .next h

/-! ### Firmware update -/

protected theorem Keeps.nvmPut {off bs} (h : Keeps s t) : Keeps s (nvmPut t off bs) := .ite h h.memWrite

protected theorem Keeps.writeBoot {bank trial starts version} (h : Keeps s t) :
    Keeps s (writeBoot t bank trial starts version) :=
  h.nvmPut

protected theorem Keeps.advanceOtp {i} (h : Keeps s t) : Keeps s (advanceOtp t i) := by
  obtain ⟨hle, hid⟩ := h.die
  refine ⟨h.mem, Nat.le_trans hle (Nat.le_max_left _ _), ?_⟩
  simp only [advanceOtp, State.withIdent_ident]
  rw [hid]

protected theorem Keeps.invalidateStaging (h : Keeps s t) : Keeps s (invalidateStaging t) := h.nvmPut.nvmPut

protected theorem Keeps.writeJournal {bank abandon done64} (h : Keeps s t) :
    Keeps s (writeJournal t bank abandon done64) :=
  h.nvmPut

protected theorem Keeps.setUpd {state result} (h : Keeps s t) : Keeps s (setUpd t state result) := h.withUpd

protected theorem Keeps.decryptImage {bank skip} (h : Keeps s t) : KeepsSome s id (decryptImage t bank skip) :=
  .ite (.some h.nvmPut) .none

protected theorem Keeps.journalPieces {bank first last} (h : Keeps s t) : Keeps s (journalPieces t bank first last) :=
  h.foldl fun _ _ h => h.writeJournal

protected theorem Keeps.abandonActivation {bank result} (h : Keeps s t) : Keeps s (abandonActivation t bank result) :=
  h.writeJournal.invalidateStaging.withUpd.setUpd

protected theorem Keeps.queueActivation {d bank} (h : Keeps s t) : Keeps s (queueActivation t d bank) :=
  h.setWord.setWord.setWord.setWord.setWord.setWord.setWords.setIv.writeDescriptorCtl

protected theorem Keeps.startActivation (h : Keeps s t) : Keeps s (startActivation t) := by
  dsimp only [startActivation]
  split
  · split
    · exact h.withUpd.nvmPut.writeJournal.queueActivation.withUpd
    · exact h.withUpd.nvmPut.writeJournal
  · split
    · rename_i e
      exact (h.withUpd.nvmPut.writeJournal.decryptImage _ e).journalPieces.withUpd
    · exact h.withUpd.nvmPut.writeJournal.abandonActivation

protected theorem Keeps.followActivation {d} (h : Keeps s t) : Keeps s (followActivation t d) :=
  .ite (.ite h.journalPieces.withUpd <| .ite h.abandonActivation h.withUpd) h

protected theorem Keeps.execPass1Complete {d} (h : Keeps s t) : KeepsNext s (execPass1Complete d t) :=
  .next (.ite h.endPass1.followActivation h)

protected theorem Keeps.execDescriptorComplete {d} (h : Keeps s t) : KeepsNext s (execDescriptorComplete d t) :=
  .next (.ite h.runDescriptor.followActivation h)

protected theorem Keeps.finishActivation {bank} (h : Keeps s t) : Keeps s (finishActivation t bank).1 :=
  .iteFst h.writeBoot.withUpd.setUpd h.abandonActivation

protected theorem Keeps.execActivationHashDone (h : Keeps s t) : KeepsNext s (execActivationHashDone t) := by
  dsimp only [execActivationHashDone]
  split
  · split
    · rename_i e
      exact .next (.ite ((h.finishActivation.of_fst e).restartKeepingBanks) ((h.finishActivation.of_fst
        e).managementRestart))
    · rename_i e
      exact .next (h.finishActivation.of_fst e)
  · exact .next h

protected theorem Keeps.updBegin (h : Keeps s t) : Keeps s (updBegin t).1 :=
  .iteFst h <| .iteFst h h.invalidateStaging.withUpd

protected theorem Keeps.updClose (h : Keeps s t) : Keeps s (updClose t).1 := .iteFst h <| .iteFst h h.nvmPut.withUpd

protected theorem Keeps.updActivate (h : Keeps s t) : Keeps s (updActivate t).1 :=
  .iteFst h <| .iteFst h.setUpd <| .iteFst h h.startActivation

protected theorem Keeps.updConfirm (h : Keeps s t) : Keeps s (updConfirm t).1 :=
  .iteFst h <| .iteFst h h.invalidateStaging.writeBoot.advanceOtp.withUpd

protected theorem Keeps.updAbandon (h : Keeps s t) : Keeps s (updAbandon t).1 := .iteFst h.withUpd h

protected theorem Keeps.updCommand {n} (h : Keeps s t) : Keeps s (updCommand t n).1 := by
  dsimp only [updCommand]
  split
  · exact h.updBegin
  · exact h.updClose
  · exact h.updActivate
  · exact h.updConfirm
  · exact h.updAbandon
  · exact h

protected theorem Keeps.updPackage {ofs bs} (h : Keeps s t) : Keeps s (updPackage t ofs bs).1 :=
  .iteFst h <| .iteFst h <| .iteFst h <| .iteFst h h.nvmPut.withUpd

protected theorem Keeps.updAnswer {r : State × Nat} (hr : Keeps s r.1) (h : Keeps s t) : Keeps s (updAnswer t r) :=
  .ite hr.output h.output

protected theorem Keeps.execBegin (h : Keeps s t) : KeepsNext s (execBegin t) := .next (h.updBegin.updAnswer h)

protected theorem Keeps.execClose (h : Keeps s t) : KeepsNext s (execClose t) := .next (h.updClose.updAnswer h)

protected theorem Keeps.execActivate (h : Keeps s t) : KeepsNext s (execActivate t) :=
  .next (h.updActivate.updAnswer h)

protected theorem Keeps.execConfirm (h : Keeps s t) : KeepsNext s (execConfirm t) := .next (h.updConfirm.updAnswer h)

protected theorem Keeps.execAbandon (h : Keeps s t) : KeepsNext s (execAbandon t) := .next (h.updAbandon.updAnswer h)

protected theorem Keeps.execPackageWrite {ofs bs} (h : Keeps s t) : KeepsNext s (execPackageWrite ofs bs t) :=
  .next (h.updPackage.updAnswer h)

protected theorem Keeps.execVerifyComplete (h : Keeps s t) : KeepsNext s (execVerifyComplete t) :=
  .next (.ite (.ite h.nvmPut.setUpd h.nvmPut.setUpd) h)

/-! ### Reads and writes of registers and windows -/

protected theorem Keeps.addCb {key mask w} (h : Keeps s t) : Keeps s (addCb t key mask w) := .ite h h.withPendCb

protected theorem Keeps.plainWrite {d key w} (h : Keeps s t) : Keeps s (plainWrite t d key w).1 :=
  h.setWord.addCb.withPendFb

protected theorem Keeps.resetUnits {w} (h : Keeps s t) : Keeps s (resetUnits t w) :=
  h.foldl fun _ _ h => .ite h.requestReset h

protected theorem Keeps.fenceUnits {w} (h : Keeps s t) : Keeps s (fenceUnits t w) :=
  h.foldl fun _ _ h => .ite h.liftFence <| .ite h h.fenceUnit

protected theorem Keeps.holdCommits {hold} (h : Keeps s t) : Keeps s (holdCommits t hold) :=
  h.setFlag.unless (·.setF)

protected theorem Keeps.discardCommits (h : Keeps s t) : Keeps s (discardCommits t) :=
  h.withPendCb.withPendMem.setF.setF

protected theorem Keeps.requestFlips {w} (h : Keeps s t) : Keeps s (requestFlips t w).1 := .iteFst h h.setF.setF

protected theorem Keeps.hookSYS {off w} (h : Keeps s t) : KeepsSome s Prod.fst (hookSYS t off w) :=
  .ite (.withCode h.resetUnits) <| .ite (.withCode h.fenceUnits) <|
    .ite (.withCode (h.holdCommits.when (·.discardCommits))) <| .ite (.some h.requestFlips) .none

protected theorem Keeps.hookPLZ {off w} (h : Keeps s t) : KeepsSome s Prod.fst (hookPLZ t off w) :=
  .ite (.withCode h.writeLearnCtl) <| .ite (.withCode h) .none

protected theorem Keeps.writePortCfg {d n key w} (h : Keeps s t) : Keeps s (writePortCfg t d n key w).1 :=
  h.setWord.addCb.withPendFb.unless (·.setPortEn)

protected theorem Keeps.writeRingCtl {w} (h : Keeps s t) : Keeps s (writeRingCtl t w) :=
  .ite ((Keeps.ite (.ite h <| .ite h.setWrap h.setFlag) <| .ite ((Keeps.ite h <|
    .ite h.setWrap h.setFlag).setWrap) ((Keeps.ite h <| .ite h.setWrap h.setFlag).setFlag)).setFlag) <|
    .ite (.ite h <| .ite h.setWrap h.setFlag) <| .ite ((Keeps.ite h <|
    .ite h.setWrap h.setFlag).setWrap) ((Keeps.ite h <| .ite h.setWrap h.setFlag).setFlag)

protected theorem Keeps.hookRNG {d off key w} (h : Keeps s t) : KeepsSome s Prod.fst (hookRNG t d off key w) := by
  dsimp only [hookRNG]
  split
  · exact .some h.writePortCfg
  · split
    · exact .withCode (.ite h.retrainPort h)
    · split
      · exact .withCode h.writeRingCtl
      · split
        · split
          · exact .withCode h
          · exact .none
        · exact .none

protected theorem Keeps.hookACC {d off key w} (h : Keeps s t) : KeepsSome s Prod.fst (hookACC t d off key w) :=
  .ite (.some h.changeMode.plainWrite) .none

protected theorem Keeps.hookMQ {off w} (h : Keeps s t) : KeepsSome s Prod.fst (hookMQ t off w) :=
  .ite (.ite (.some h.writeQueueCfg) <| .ite (.some h.writeQueueProd) <| .ite (.withCode h.writeQueueCtl) .none) .none

protected theorem Keeps.hookBUS {d off key w} (h : Keeps s t) : KeepsSome s Prod.fst (hookBUS t d off key w) :=
  .ite (.some h.writeBusCfg) <| .ite (.some h.writeBusFixed) <| .ite (.withCode (.ite h.recoverBus h)) <|
    .ite (.withCode h.writeStarve) <| .ite (.some h.writeTxReq) <| .ite (.some h.writeTxCan) .none

protected theorem Keeps.hookARC {off w} (h : Keeps s t) : KeepsSome s Prod.fst (hookARC t off w) :=
  .ite (.withCode h.restartGroup) <| .ite (.ite (.some h.writeEngineConfig) <|
    .ite (.withCode h.writeEngineCtl) .none) .none

protected theorem Keeps.writeTrigger {d k o key w} (h : Keeps s t) : Keeps s (writeTrigger t d k o key w).1 :=
  .ite h.setWord.addCb.withPendFb.armTrigger (h.setWord.addCb.withPendFb.when (·.setFiring))

protected theorem Keeps.hookTIM {d off key w} (h : Keeps s t) : KeepsSome s Prod.fst (hookTIM t d off key w) :=
  .ite (.ite (.ite (.withCode h) <| .ite (.withCode h) .none) <| .ite (.some h.writeTbCtl) .none) <|
    .ite (.some h.writeTrigger) .none

protected theorem Keeps.hookCIP {who d off key w} (h : Keeps s t) :
    KeepsSome s Prod.fst (hookCIP t who d off key w) :=
  .ite (.some h.plainWrite) <| .ite (.withCode ((Keeps.ite h.flushCache h).when (·.nextLgen))) <|
    .ite (.some h.writeKeyReg) <| .ite (.ite (.some h.writeDescriptorCtl) <| .ite (.withCode h) .none) .none

protected theorem Keeps.hookPWR {d off key w} (h : Keeps s t) : KeepsSome s Prod.fst (hookPWR t d off key w) :=
  .ite .none <| .ite (.withCode h.writeSlotCtl) <| .ite (.some h.setSlot.plainWrite) .none

protected theorem Keeps.hookFLT {d off key w} (h : Keeps s t) : KeepsSome s Prod.fst (hookFLT t d off key w) :=
  .ite (.withCode h) <| .ite (.ite (.withCode h) <| .withCode (h.setWord.addCb.withPendFb.when (·.injectGo))) .none

protected theorem Keeps.pinsSet {g w} (h : Keeps s t) : Keeps s (pinsSet t g w) := h.setWord

protected theorem Keeps.pinsClear {g w} (h : Keeps s t) : Keeps s (pinsClear t g w) := h.setWord

protected theorem Keeps.pinsToggle {g w} (h : Keeps s t) : Keeps s (pinsToggle t g w) := h.setWord

protected theorem Keeps.hookPIN {off w} (h : Keeps s t) : KeepsSome s Prod.fst (hookPIN t off w) :=
  .ite (.withCode h.pinsSet) <| .ite (.withCode h.pinsClear) <| .ite (.withCode h.pinsToggle) .none

protected theorem Keeps.hookWrite {who d u off key w} (h : Keeps s t) :
    KeepsSome s Prod.fst (hookWrite t who d u off key w) :=
  .ite h.hookSYS <| .ite h.hookPLZ <| .ite h.hookRNG <| .ite h.hookACC <| .ite h.hookMQ <| .ite h.hookBUS <|
  .ite h.hookARC <| .ite h.hookTIM <| .ite h.hookCIP <|
  .ite (.ite (.some h.writeTwinCtl) (.ite (.some h.plainWrite.coldEnabled) .none)) <|
  .ite h.hookPWR <| .ite h.hookFLT <| .ite h.hookPIN .none

protected theorem Keeps.readReg {u off} (h : Keeps s t) : Keeps s (readReg t u off).1 := by
  rw [readReg]
  refine .iteFst h (.iteFst h.eccTouch.reportEcc ?_)
  split
  · exact h
  · exact .iteFst h <| .iteFst h <| .iteFst h <| .iteFst h.setWords <| .iteFst h.setWord h

protected theorem Keeps.writeReg {who u off w} (h : Keeps s t) : Keeps s (writeReg t who u off w).1 := by
  rw [writeReg]
  refine .iteFst h (.iteFst ?_ ?_)
  · split
    split
    · exact h
    · exact Keeps.noteWrite h.memWrite
  · split
    · exact h
    · exact .iteFst h (Keeps.noteWrite (h.hookWrite.getD h.plainWrite))

protected theorem Keeps.readRegs {u off n} (h : Keeps s t) : Keeps s (readRegs t u off n).1 := by
  induction n generalizing t off with
  | zero => exact h
  | succ n ih => exact ih h.readReg

protected theorem Keeps.writeRegs {who u off ws} (h : Keeps s t) : Keeps s (writeRegs t who u off ws).1 := by
  induction ws generalizing t off with
  | nil => exact h
  | cons w ws ih => exact ih h.writeReg

protected theorem Keeps.readQueueWindow {q at_ len prefetch} (h : Keeps s t) :
    Keeps s (readQueueWindow t q at_ len prefetch).1 :=
  .iteFst (.iteFst h <| .iteFst h h.popRead) h

protected theorem Keeps.writeQueueWindow {who q at_ bs} (h : Keeps s t) :
    Keeps s (writeQueueWindow t who q at_ bs).1 :=
  .iteFst h.pushBytes <| .iteFst (.iteFst h.pushHeader h) <| .iteFst h h

protected theorem Keeps.readArcWindow {at_ len prefetch} (h : Keeps s t) :
    Keeps s (readArcWindow t at_ len prefetch).1 :=
  .iteFst h.eccTouch.reportEcc <| .iteFst h <| .iteFst (.iteFst h.rxPop h) h

protected theorem Keeps.writeArcWindow {at_ bs} (h : Keeps s t) : Keeps s (writeArcWindow t at_ bs).1 := by
  dsimp only [writeArcWindow]
  exact .iteFst (h.writeProgram.when (·.twinNote)) <| .iteFst h.txPush h

protected theorem Keeps.pendBytes {a bs} (h : Keeps s t) : Keeps s (pendBytes t a bs) := h.withPendMem

protected theorem Keeps.writeMemWindow {w a at_ bs} (h : Keeps s t) : Keeps s (writeMemWindow t w a at_ bs).1 := by
  dsimp only [writeMemWindow]
  split
  · exact h
  · exact h
  · exact h
  · exact h
  · exact h
  · exact .iteFst h <| .iteFst h <| .iteFst h.memWrite h.pendBytes
  · exact h.memWrite
  · exact h.writeBusRam
  · exact h.memWrite

protected theorem Keeps.readAt {u off len prefetch} (h : Keeps s t) : Keeps s (readAt t u off len prefetch).1 := by
  dsimp only [readAt]
  split
  · exact h
  · split
    · exact h
    · exact .iteFst h h.readRegs
    · exact .iteFst h h.readRegs
    · exact h.readQueueWindow
    · exact h.readArcWindow
    · exact h
    · exact h.eccTouch.reportEcc

protected theorem Keeps.writeAt {who u off bs} (h : Keeps s t) : Keeps s (writeAt t who u off bs).1 := by
  dsimp only [writeAt]
  split
  · exact h
  · split
    · exact h
    · exact .iteFst h h.writeRegs
    · exact .iteFst h h.writeRegs
    · exact h.writeQueueWindow
    · exact h.writeArcWindow
    · split
      · split
        · exact h.when (·.twinNote)
        · exact h.writeMemWindow.when (·.twinNote)
      · exact h.writeMemWindow.when (·.twinNote)

/-! ### The object dictionary -/

protected theorem Keeps.imageWrite {i ofs bs} (h : Keeps s t) : Keeps s (imageWrite t i ofs bs).1 := by
  dsimp only [imageWrite]
  split
  · exact .iteFst (.iteFst h h.writeRegs) <| .iteFst (.iteFst h h.memWrite.twinNote) h.writeAt
  · exact h

protected theorem Keeps.loadRingKey {atStart} (h : Keeps s t) : Keeps s (loadRingKey t atStart) := by
  dsimp only [loadRingKey]
  split
  · exact .ite (.ite h.withCip.setF h.withCip.addCb) h
  · exact h

protected theorem Keeps.writeRingKey {secure bs} (h : Keeps s t) : Keeps s (writeRingKey t secure bs).1 :=
  .iteFst h <| .iteFst h <| .iteFst h <| .iteFst h h.nvmPut.loadRingKey

protected theorem Keeps.openRelay {p} (h : Keeps s t) : Keeps s (openRelay t p) :=
  h.withRing.declareBroken.startTimer.retrainPort

protected theorem Keeps.closeRelay (h : Keeps s t) : Keeps s (closeRelay t) := by
  dsimp only [closeRelay]
  split
  · exact h.withRing.stopTimer.retrainPort
  · exact h

protected theorem Keeps.writeRelay {v} (h : Keeps s t) : Keeps s (writeRelay t v).1 :=
  .iteFst h.closeRelay <| .iteFst h.closeRelay.openRelay h

protected theorem Keeps.writeNodeId {v} (h : Keeps s t) : Keeps s (writeNodeId t v).1 :=
  .iteFst h <| .iteFst h <| .iteFst h h.nvmPut.withDev

protected theorem Keeps.writeDeviceCommand {v} (h : Keeps s t) : Keeps s (writeDeviceCommand t v).1 :=
  .iteFst h.withOdw <| .iteFst (.iteFst h h.withOdw) h

protected theorem Keeps.holdValue {i sub bs} (h : Keeps s t) : Keeps s (holdValue t i sub bs) := h.withOdw

protected theorem Keeps.takeUartRate (h : Keeps s t) : Keeps s (takeUartRate t) := h.withOdw

protected theorem Keeps.keepPersistent {i sub ofs bs} (h : Keeps s t) : Keeps s (keepPersistent t i sub ofs bs) :=
  h.withOdw

protected theorem Keeps.putValue {secure i sub bs} (h : Keeps s t) : Keeps s (putValue t secure i sub bs).1 := by
  dsimp only [putValue]
  split
  · exact h.writeNodeId
  · exact h.writeRingKey
  · exact h.updCommand
  · exact h.updPackage
  · exact h.writeRelay
  · exact h.writeDeviceCommand
  · split
    · exact .iteFst h.writeReg h
    · split
      · exact h.writeReg
      · exact .iteFst h h.holdValue

protected theorem Keeps.writeMember {secure i sub ofs bs m} (h : Keeps s t) :
    Keeps s (writeMember t secure i sub ofs bs m).1 := by
  dsimp only [writeMember]
  exact .iteFst h.updPackage <| .iteFst h <| .iteFst h ((Keeps.iteFst h.imageWrite h.putValue).when
    (·.keepPersistent))

protected theorem Keeps.writeObjects {cls at_ secure bs} (h : Keeps s t) :
    Keeps s (writeObjects t cls at_ secure bs).1 := by
  dsimp only [writeObjects]
  split
  · exact h
  · refine Keeps.takeUartRate (Keeps.foldlFst h fun q x hq => ?_)
    split
    · exact hq.writeMember
    · exact hq
    · exact hq

protected theorem Keeps.finishStore (h : Keeps s t) : Keeps s (finishStore t) :=
  .ite h.withOdw.withOdw h.withOdw.nvmPut.nvmPut.withOdw

protected theorem Keeps.startStore (h : Keeps s t) : Keeps s (startStore t).1 :=
  .iteFst h <| .iteFst h.withOdw <| .iteFst h h.withOdw.twinNote

protected theorem Keeps.restoreStore (h : Keeps s t) : Keeps s (restoreStore t).1 :=
  .iteFst h <| .iteFst h h.nvmPut.nvmPut

protected theorem Keeps.loadCopy {r} (h : Keeps s t) : Keeps s (loadCopy t r) := h.keepPersistent

protected theorem Keeps.loadCopies (h : Keeps s t) : Keeps s (loadCopies t) := by
  dsimp only [loadCopies]
  split
  · exact h.withOdw.withOdw
  · exact .ite h.withOdw.withOdw.withOdw ((h.withOdw.withOdw.foldl fun _ _ h => h.loadCopy).withOdw)

protected theorem Keeps.applyCopy {p} (h : Keeps s t) : Keeps s (applyCopy t p) := by
  dsimp only [applyCopy]
  split
  · exact .ite h <| .ite h.imageWrite h.putValue
  · exact h

protected theorem Keeps.loadSettings (h : Keeps s t) : Keeps s (loadSettings t) := by
  unfold loadSettings
  exact Keeps.takeUartRate ((h.loadCopies.foldl fun _ _ h => h.applyCopy).foldl fun _ _ h => h.applyCopy)

/-! ### The boot path -/

protected theorem Keeps.romConfirmed (h : Keeps s t) : Keeps s (romConfirmed t) := .ite h h.advanceOtp

protected theorem Keeps.romActivation (h : Keeps s t) : Keeps s (romActivation t) := by
  dsimp only [romActivation]
  split
  · exact h
  · split
    · exact h
    · split
      · exact h.withUpd.finishActivation
      · split
        · rename_i e
          exact (h.withUpd.decryptImage _ e).journalPieces.withUpd.finishActivation
        · exact h.withUpd.abandonActivation

protected theorem Keeps.romTrial (h : Keeps s t) : Keeps s (romTrial t) := by
  dsimp only [romTrial]
  split
  · exact .ite h <| .ite h.writeBoot <| .ite h.writeBoot.withUpd h
  · exact h

protected theorem Keeps.romBank (h : Keeps s t) : Keeps s (romBank t).1 := .iteFst h <| .iteFst (.ite h.writeBoot h) h

protected theorem Keeps.romSteps (h : Keeps s t) : Keeps s (romSteps t).1 :=
  h.romConfirmed.romActivation.romTrial.romBank

protected theorem Keeps.loadImage {bank} (h : Keeps s t) : Keeps s (loadImage t bank) := h.withDev.withUpd

protected theorem Keeps.loadLogSeqs (h : Keeps s t) : Keeps s (loadLogSeqs t) := by
  dsimp only [loadLogSeqs]
  split
  · split
    · exact h.withFlt.withCip
    · exact h.withCip
  · split
    · exact h.withFlt
    · exact h

protected theorem Keeps.samplePower (h : Keeps s t) : Keeps s (samplePower t) := h.setFlag.setFlag

protected theorem Keeps.unitsUp (h : Keeps s t) : Keeps s (unitsUp t) := h.foldl fun _ _ h => h.unitBack

protected theorem Keeps.startImage {bank} (h : Keeps s t) : Keeps s (startImage t bank) := by
  unfold startImage
  exact Keeps.loadSettings <| Keeps.unitsUp <| Keeps.when
    h.withDev.restoreBases.withTime.samplePower.loadLogSeqs.writePendingFatal.loadImage.withDev.loadRingKey
      (·.startCip)

protected theorem Keeps.enterRecovery (h : Keeps s t) : Keeps s (enterRecovery t) :=
  (h.withDev.restoreBases.withTime.samplePower.loadLogSeqs.writePendingFatal.when (·.startCip)).withUpd.unitsUp

protected theorem Keeps.execRomBootComplete {ok} (h : Keeps s t) : KeepsNext s (execRomBootComplete ok t) := by
  refine .next (.ite (.ite h.enterDead ?_) h)
  have hr := h.romSteps
  rcases e : romSteps t with ⟨u, _ | bank⟩
  · exact (hr.of_fst e).enterRecovery
  · exact (hr.of_fst e).startImage

protected theorem Keeps.execRingJoinEnable (h : Keeps s t) : KeepsNext s (execRingJoinEnable t) :=
  .next (.ite h.withDev.stopTimer.startRing h)

protected theorem Keeps.execRingReady (h : Keeps s t) : KeepsNext s (execRingReady t) :=
  .next (.ite h.withDev.startRing h)

protected theorem Keeps.startRole (h : Keeps s t) : Keeps s (startRole t) :=
  .ite (h.setRole.unless (·.startTimer)) h.setRole.raiseClaim

protected theorem Keeps.execFullService (h : Keeps s t) : KeepsNext s (execFullService t) :=
  .next (.ite h.withDev.zeroiseKeyRegs.startRole h)

protected theorem Keeps.reloadHeld (h : Keeps s t) : Keeps s (reloadHeld t) :=
  (h.withOdw.foldl fun _ _ h => h.applyCopy).takeUartRate

protected theorem Keeps.endManagementRestart {bank} (h : Keeps s t) : Keeps s (endManagementRestart t bank) := by
  unfold endManagementRestart
  exact h.withDev.loadImage.loadCopies.reloadHeld.unitBack.when (·.requestResync)

protected theorem Keeps.execManagementRestartEnd (h : Keeps s t) : KeepsNext s (execManagementRestartEnd t) := by
  refine .next (.ite ?_ h)
  have hr := h.romSteps
  rcases e : romSteps t with ⟨u, _ | bank⟩
  · exact (hr.of_fst e).restartKeepingBanks.enterRecovery
  · exact (hr.of_fst e).endManagementRestart

protected theorem Keeps.execDormantEntryComplete (h : Keeps s t) : KeepsNext s (execDormantEntryComplete t) :=
  .next (.ite h <| .ite h.beginPowerDown <| .ite h h.enterDormant)

/-! ### Requests at their target -/

protected theorem Keeps.finishRequest {k r code data} (h : Keeps s t) : Keeps s (finishRequest t k r code data) :=
  .ite h.withTxn.completeRequest h

protected theorem Keeps.markWaiting {k r} (h : Keeps s t) : Keeps s (markWaiting t k r) := h.withTxn

protected theorem Keeps.startTransfer {k r n} (h : Keeps s t) : Keeps s (startTransfer t k r n) := by
  dsimp only [startTransfer]
  split
  · exact h.finishRequest
  · split
    · exact h.finishRequest
    · exact .ite h.finishRequest <| .ite h.finishRequest h.markWaiting.output
    · exact .ite h.finishRequest h.markWaiting.output
    · exact .ite h.finishRequest h.markWaiting.output

protected theorem Keeps.execI2cTransferComplete {bus how data} (h : Keeps s t) :
    KeepsNext s (execI2cTransferComplete bus how data t) := by
  dsimp only [execI2cTransferComplete]
  split
  · split
    · exact .next ((Keeps.ite h h.addF).finishRequest)
    · exact .next ((Keeps.ite h h.addF).incF.finishRequest)
    · exact .next ((Keeps.ite h h.addF).incF.finishRequest)
    · exact .next ((Keeps.ite h h.addF).addF.finishRequest)
  · exact .next h

protected theorem Keeps.execI2cStretchTimeout {held} (h : Keeps s t) :
    KeepsNext s (execI2cStretchTimeout held t) := by
  dsimp only [execI2cStretchTimeout]
  split
  · exact .next h.incF.output.finishRequest
  · exact .next h

protected theorem Keeps.execMdioTransferComplete {bus driven data} (h : Keeps s t) :
    KeepsNext s (execMdioTransferComplete bus driven data t) := by
  dsimp only [execMdioTransferComplete]
  split
  · exact .next (.ite h.finishRequest h.finishRequest)
  · exact .next h

protected theorem Keeps.readTarget {r} (h : Keeps s t) : Keeps s (readTarget t r).1 := by
  rw [readTarget]
  generalize readObjects t _ _ _ = p
  obtain ⟨bs, c⟩ := p
  split
  next e =>
    split
    · exact (Keeps.iteFst h h.readAt).of_fst e
    · exact h

protected theorem Keeps.writeTarget {r} (h : Keeps s t) : Keeps s (writeTarget t r).1 :=
  .iteFst h.writeObjects h.writeAt

protected theorem Keeps.performRead {k r} (h : Keeps s t) : Keeps s (performRead t k r) := by
  dsimp only [performRead]
  split
  · exact h.finishRequest
  · exact .ite h.startTransfer h.readTarget.finishRequest

protected theorem Keeps.performWrite {k r} (h : Keeps s t) : Keeps s (performWrite t k r) := by
  dsimp only [performWrite]
  split
  · exact h.finishRequest
  · exact .ite h.startTransfer h.writeTarget.finishRequest

protected theorem Keeps.performRmw {k r} (h : Keeps s t) : Keeps s (performRmw t k r) := by
  dsimp only [performRmw]
  split
  · exact h.finishRequest
  · split
    · split
      · rename_i e _ _ e2
        exact ((h.readAt.of_fst e).writeAt.of_fst e2).finishRequest
      · exact h.finishRequest
    · exact h.finishRequest

protected theorem Keeps.execRd {k} (h : Keeps s t) : KeepsNext s (execRd k t) := by
  dsimp only [execRd]
  split
  · exact .next h.performRead
  · exact .next h

protected theorem Keeps.execWrPosted {k} (h : Keeps s t) : KeepsNext s (execWrPosted k t) := by
  dsimp only [execWrPosted]
  split
  · exact .next h.performWrite
  · exact .next h

protected theorem Keeps.execWrAck {k} (h : Keeps s t) : KeepsNext s (execWrAck k t) := by
  dsimp only [execWrAck]
  split
  · exact .next h.performWrite
  · exact .next h

protected theorem Keeps.execRmwSet {k} (h : Keeps s t) : KeepsNext s (execRmwSet k t) := by
  dsimp only [execRmwSet]
  split
  · exact .next h.performRmw
  · exact .next h

protected theorem Keeps.execRmwClr {k} (h : Keeps s t) : KeepsNext s (execRmwClr k t) := by
  dsimp only [execRmwClr]
  split
  · exact .next h.performRmw
  · exact .next h

protected theorem Keeps.execRmwSwap {k} (h : Keeps s t) : KeepsNext s (execRmwSwap k t) := by
  dsimp only [execRmwSwap]
  split
  · exact .next h.performRmw
  · exact .next h

protected theorem Keeps.execFence {k} (h : Keeps s t) : KeepsNext s (execFence k t) := by
  dsimp only [execFence]
  split
  · exact .next (.ite (.ite h.finishRequest h.markWaiting) h)
  · exact .next h

protected theorem Keeps.releaseFence {k r} (h : Keeps s t) : Keeps s (releaseFence t k r) :=
  .ite h.finishRequest h.setSeqRx.finishRequest

protected theorem Keeps.execFenceRelease {k} (h : Keeps s t) : KeepsNext s (execFenceRelease k t) := by
  dsimp only [execFenceRelease]
  split
  · exact .next (.ite h.releaseFence h)
  · exact .next h

/-! ### Deltas and snapshots -/

protected theorem Keeps.replayMem {u off bs} (h : Keeps s t) : Keeps s (replayMem t u off bs) := by
  dsimp only [replayMem]
  split
  · exact .ite h.memWrite h.writeAt
  · exact .ite h.memWrite h

protected theorem Keeps.replayReg {u off w} (h : Keeps s t) : Keeps s (replayReg t u off w) :=
  .ite h <| .ite h.memWrite h.writeReg

protected theorem Keeps.applyBuffer {c b st attempts age ram} (h : Keeps s t) :
    Keeps s (applyBuffer t c b st attempts age ram) :=
  .ite ((h.memWrite.setBufState.setF.unless (·.setFlag)).setBitF.setBusCh) ((h.memWrite.setBufState.setF.unless
    (·.setFlag)).setBitF.setBusCh.setF)

protected theorem Keeps.applyChannel {c tec recv st} (h : Keeps s t) : Keeps s (applyChannel t c tec recv st) :=
  h.setBusCh.setF.setF.setF

protected theorem Keeps.applySlot {i st reason retries waitMs energy} (h : Keeps s t) :
    Keeps s (applySlot t i st reason retries waitMs energy) :=
  ((Keeps.ite h h.changeSlot).setF.when (·.startTimer)).setF.setSlot

protected theorem Keeps.applyMac {i bs} (h : Keeps s t) : Keeps s (applyMac t i bs) := h.memWrite.setF

protected theorem Keeps.applyRecord {r} (h : Keeps s t) : Keeps s (applyRecord t r) := by
  cases r with
  | regWrite => exact h.replayReg
  | memWrite => exact h.replayMem
  | reqSeq => exact h.withTxn
  | mqPop => exact h.popQueue
  | mqRelease => exact h.releaseHeld
  | mqPush => exact .ite h.commitMsg h
  | txPush => exact h.pushWords.getD h
  | rxPop => exact h.fifoShift.setEngine
  | busBuffer => exact .ite h.applyBuffer h
  | busChannel => exact .ite h.applyChannel h
  | slot => exact .ite h.applySlot h
  | signal => exact h.memWrite
  | alive => exact h.setF
  | macEntry => exact h.applyMac
  | store => exact h.startStore
  | banks => exact h.setF
  | mqState => exact h.setQueue

protected theorem Keeps.applyRecords {rs} (h : Keeps s t) : Keeps s (applyRecords t rs) :=
  h.foldl fun _ _ h => h.applyRecord

protected theorem Keeps.applyDelta {cycle} (h : Keeps s t) : Keeps s (applyDelta t cycle) :=
  h.withTwin.applyRecords.setF

protected theorem Keeps.acceptDelta {seg} (h : Keeps s t) : Keeps s (acceptDelta t seg) :=
  .ite (h.sendTwin.setF.when (·.applyDelta.withTwin)) h

protected theorem Keeps.receiveSegment {seg} (h : Keeps s t) : Keeps s (receiveSegment t seg) :=
  .ite h <| .ite (.ite h.setRole h) h.withTwin.acceptDelta

protected theorem Keeps.execDeltaSegmentReceive {seg} (h : Keeps s t) : KeepsNext s (execDeltaSegmentReceive seg t) :=
  .next (.ite h.receiveSegment h)

protected theorem Keeps.sendSegments {offset l} (h : Keeps s t) : Keeps s (sendSegments t offset l) := by
  induction l generalizing t offset with
  | nil => exact h
  | cons rs l ih => exact ih h.sendTwin

protected theorem Keeps.startSnapshot (h : Keeps s t) : Keeps s (startSnapshot t) :=
  h.incF.setFlag.setFlag.sendSegments

protected theorem Keeps.receiveTwinKa {role schema resync} (h : Keeps s t) :
    Keeps s (receiveTwinKa t role schema resync) :=
  .ite (.ite ((h.withTwin.startTimer.when (·.stopTimer)).checkPeerPin.startSnapshot) ((h.withTwin.startTimer.when
    (·.stopTimer)).checkPeerPin.when (·.endResync))) <| .ite ((h.withTwin.startTimer.when
    (·.stopTimer)).checkPeerPin.setF) ((h.withTwin.startTimer.when (·.stopTimer)).checkPeerPin.unless
    (·.coldTakeover))

protected theorem Keeps.execTwinKeepaliveReceive {role schema resync} (h : Keeps s t) :
    KeepsNext s (execTwinKeepaliveReceive role schema resync t) :=
  .next (.ite h.receiveTwinKa h)

protected theorem Keeps.receiveSnapshot {last recs} (h : Keeps s t) : Keeps s (receiveSnapshot t last recs) :=
  (Keeps.ite h h.withTxn).setFlag.setFlag.setFlag.applyRecords.when (·.withTwin)

protected theorem Keeps.execSnapshotSegmentReceive {_offset last recs} (h : Keeps s t) :
    KeepsNext s (execSnapshotSegmentReceive _offset last recs t) :=
  .next (.ite h.receiveSnapshot h)

/-! ### The node-cycle boundary -/

protected theorem Keeps.takeLength (h : Keeps s t) : Keeps s (takeLength t) := .ite h.withTime h

protected theorem Keeps.openCycle (h : Keeps s t) : Keeps s (openCycle t) := h.takeLength.withTime

protected theorem Keeps.loseDelta {n} (h : Keeps s t) : Keeps s (loseDelta t n) :=
  h.withTwin.incF.unless (·.setRole)

protected theorem Keeps.takeDelta (h : Keeps s t) : Keeps s (takeDelta t) :=
  .ite h <| .ite (.ite h <| .ite h.applyDelta h.loseDelta) <| .ite ((Keeps.ite h.applyDelta h).when
    (·.endResync.setRole)) h

protected theorem Keeps.retuneAlpha {c} (h : Keeps s t) : Keeps s (retuneAlpha t c) :=
  .ite h <| .ite (.ite h.setF h) <| .ite (.ite h.setF h) h

protected theorem Keeps.retuneAll (h : Keeps s t) : Keeps s (retuneAll t) :=
  (h.foldl fun _ _ h => h.retuneAlpha).withPlaza

protected theorem Keeps.commitWord {p} (h : Keeps s t) : Keeps s (commitWord t p) := h.setWord

protected theorem Keeps.afterCommit {pre l} (h : Keeps s t) : Keeps s (afterCommit pre t l) := by
  unfold afterCommit
  extract_lets changed s₁ s₂ s₃ s₄
  have h₁ : Keeps s s₁ := h.foldl fun _ _ h => h.unless (·.slotEnChanged)
  have h₂ : Keeps s s₂ := h₁.when (·.selectMaster)
  have h₃ : Keeps s s₃ := h₂.unless (·.startTimer)
  have h₄ : Keeps s s₄ := h₃.foldl fun _ _ h => by
    split
    · exact .ite h h.setF
    · exact h
  exact h₄.when fun h => h.foldl fun _ _ h => .ite h.setPortSt.enterCap h

protected theorem Keeps.settleBuckets {l} (h : Keeps s t) : Keeps s (settleBuckets t l) :=
  (h.foldl fun _ _ h => .ite h.settleSub h).when (·.settleAdded.settleAdded)

protected theorem Keeps.commitAll (h : Keeps s t) : Keeps s (commitAll t) :=
  (((Keeps.ite h.setFlag h).settleBuckets.foldl fun _ _ h => h.commitWord).withPendCb.foldl fun _ _ h =>
    h.memWrite).withPendMem.afterCommit

protected theorem Keeps.takeNodeId (h : Keeps s t) : Keeps s (takeNodeId t) := by
  dsimp only [takeNodeId]
  split
  · exact h.withDev.unless (·.clearDupId.selectMaster)
  · exact h

protected theorem Keeps.orderOne (h : Keeps s t) : Keeps s (orderOne t) :=
  .ite h.takeDelta.checkPeerPin.retuneAll.takeNodeId.incSat h.takeDelta.checkPeerPin.retuneAll.takeNodeId.commitAll

protected theorem Keeps.orderTwo (h : Keeps s t) : Keeps s (orderTwo t) :=
  .ite h ((h.foldl fun _ _ h => .ite h.setBusCh h).setF.setF.setF.setF)

protected theorem Keeps.sendDelta {cycle final tooBig recs} (h : Keeps s t) :
    Keeps s (sendDelta t cycle final tooBig recs) :=
  h.withTwin.foldl fun _ _ h => h.sendTwin

protected theorem Keeps.dropHandover (h : Keeps s t) : Keeps s (dropHandover t) :=
  .ite h <| .ite h.leaveActive h.withTwin.setFlag

protected theorem Keeps.sendCycle (h : Keeps s t) : Keeps s (sendCycle t) :=
  .ite h ((h.setF.setF.setF.forgetChanged.withTwin.when (·.incF)).unless fun h => .ite h.sendDelta
    h.withTwin.sendDelta)

protected theorem Keeps.closeDelta (h : Keeps s t) : Keeps s (closeDelta t) :=
  .ite h ((Keeps.ite h.incF h).dropHandover.sendCycle)

protected theorem Keeps.orderFour (h : Keeps s t) : Keeps s (orderFour t) := h.switchOver.withTwin

protected theorem Keeps.orderSix (h : Keeps s t) : Keeps s (orderSix t) := h.cyclicTick.pollIssue.armCycleTriggers

protected theorem Keeps.countHeartbeat (h : Keeps s t) : Keeps s (countHeartbeat t) := h.setFlag.when (·.withTwin)

protected theorem Keeps.runBoundary {at_} (h : Keeps s t) : Keeps s (runBoundary t at_) :=
  h.withTime.orderOne.orderTwo.closeDelta.orderFour.shedEvaluate.countHeartbeat.continueDormant.openCycle
    |>.unwrapPorts.orderSix

protected theorem Keeps.execNodeCycleBoundary (h : Keeps s t) : KeepsNext s (execNodeCycleBoundary t) := by
  dsimp only [execNodeCycleBoundary]
  split
  · split
    · exact .next h.runBoundary
    · exact .next h
  · exact .next h

protected theorem Keeps.commitFb {key mask} (h : Keeps s t) : Keeps s (commitFb t key mask) := by
  dsimp only [commitFb]
  split
  · exact h.setWord.withPendFb
  · exact h

protected theorem Keeps.commitMac {p} (h : Keeps s t) : Keeps s (commitMac t p) :=
  h.commitFb.pauseMode.unless fun h => .ite h.portLinkLost h.portLinkFound

protected theorem Keeps.commitPtp {p} (h : Keeps s t) : Keeps s (commitPtp t p) := h.commitFb.commitFb

protected theorem Keeps.execFbCommit {unit inst} (h : Keeps s t) : KeepsNext s (execFbCommit unit inst t) :=
  .next (.ite h.commitBus <| .ite h.commitMac <| .ite h.commitPtp h)

protected theorem Keeps.execEpochDrainComplete {table} (h : Keeps s t) :
    KeepsNext s (execEpochDrainComplete table t) :=
  .next (.ite h.setBitF h)

/-! ### Sundem -/

protected theorem Keeps.answerRing {node side uid port r} (h : Keeps s t) :
    Keeps s (answerRing t node side uid port r) :=
  .ite h.addOnPort h.addFrame

protected theorem Keeps.answerBus {c r} (h : Keeps s t) : Keeps s (answerBus t c r) := h.withFresh.memWrite.requestBuf

protected theorem Keeps.deliver {r} (h : Keeps s t) : Keeps s (deliver t r) := by
  dsimp only [deliver]
  split
  · exact h.answerRing
  · exact h.answerBus
  · exact h.output
  · exact h.output
  · exact h.output

protected theorem Keeps.answer {r} (h : Keeps s t) : Keeps s (answer t r) := .ite h.withOdw h.deliver.keepResponse

protected theorem Keeps.serve {r opcode act} (h : Keeps s t) (ha : ∀ v cls, Keeps s v → Keeps s (act v cls).1) :
    Keeps s (serve t r opcode act) := by
  dsimp only [serve]
  split
  · exact h
  · exact h.withOdw
  · exact h.withOdw
  · exact h.answer
  · split
    · exact h.deliver
    · split
      next e => exact ((ha _ _ h).of_fst e).answer.takeUartRate
      next e => exact (ha _ _ h).of_fst e

protected theorem Keeps.readValue {r m} (h : Keeps s t) : Keeps s (readValue t r m).1 := by
  dsimp only [readValue]
  split
  · exact .ite h h.withOdw
  · exact .ite h.withOdw h

protected theorem Keeps.endSession {r} (h : Keeps s t) : Keeps s (endSession t r) := h.withOdw

protected theorem Keeps.actRead {r cls} (h : Keeps s t) : Keeps s (actRead r t cls).1 := by
  dsimp only [actRead]
  split
  · exact h.endSession
  · split
    · exact h.readValue
    · exact h
    · exact h

protected theorem Keeps.commitWrite {r cls ofs bs} (h : Keeps s t) : Keeps s (commitWrite t r cls ofs bs).1 := by
  dsimp only [commitWrite]
  split
  · exact h.writeMember
  · exact h
  · exact h

protected theorem Keeps.writeSegment {r cls x} (h : Keeps s t) : Keeps s (writeSegment t r cls x).1 :=
  .iteFst h.endSession <| .iteFst h.withOdw h.endSession.commitWrite

protected theorem Keeps.firstSegment {r cls} (h : Keeps s t) : Keeps s (firstSegment t r cls).1 := by
  dsimp only [firstSegment]
  split
  · split
    · exact h
    · exact .iteFst h h.withOdw
  · exact h.commitWrite

protected theorem Keeps.actWrite {r cls} (h : Keeps s t) : Keeps s (actWrite r t cls).1 := by
  dsimp only [actWrite]
  split
  · exact h.endSession
  · split
    · exact h.writeSegment
    · exact h.firstSegment

protected theorem Keeps.actDescribe {r cls} (h : Keeps s t) : Keeps s (actDescribe r t cls).1 := by
  dsimp only [actDescribe]
  split
  · exact h
  · exact .iteFst h h

protected theorem Keeps.actStore {r _cls} (h : Keeps s t) : Keeps s (actStore r t _cls).1 := by
  dsimp only [actStore]
  exact h.startStore

protected theorem Keeps.actRestore {r _cls} (h : Keeps s t) : Keeps s (actRestore r t _cls).1 := by
  dsimp only [actRestore]
  exact h.restoreStore

protected theorem Keeps.actDiscover {r _cls} (h : Keeps s t) : Keeps s (actDiscover r t _cls).1 := h

protected theorem Keeps.actAddr {isRead r cls} (h : Keeps s t) : Keeps s (actAddr isRead r t cls).1 :=
  .iteFst h <| .iteFst h h.withOdw.issueOrWait

protected theorem Keeps.actUnknown {opcode r _cls} (h : Keeps s t) : Keeps s (actUnknown opcode r t _cls).1 := h

protected theorem Keeps.execRead {r} (h : Keeps s t) : KeepsNext s (execRead r t) :=
  .next (h.serve fun _ _ h => h.actRead)

protected theorem Keeps.execWrite {r} (h : Keeps s t) : KeepsNext s (execWrite r t) :=
  .next (h.serve fun _ _ h => h.actWrite)

protected theorem Keeps.execDescribe {r} (h : Keeps s t) : KeepsNext s (execDescribe r t) :=
  .next (h.serve fun _ _ h => h.actDescribe)

protected theorem Keeps.execStore {r} (h : Keeps s t) : KeepsNext s (execStore r t) :=
  .next (h.serve fun _ _ h => h.actStore)

protected theorem Keeps.execRestore {r} (h : Keeps s t) : KeepsNext s (execRestore r t) :=
  .next (h.serve fun _ _ h => h.actRestore)

protected theorem Keeps.execDiscover {r} (h : Keeps s t) : KeepsNext s (execDiscover r t) :=
  .next (h.serve fun _ _ h => h.actDiscover)

protected theorem Keeps.execAddrRead {r} (h : Keeps s t) : KeepsNext s (execAddrRead r t) :=
  .next (h.serve fun _ _ h => h.actAddr)

protected theorem Keeps.execAddrWrite {r} (h : Keeps s t) : KeepsNext s (execAddrWrite r t) :=
  .next (h.serve fun _ _ h => h.actAddr)

protected theorem Keeps.execNodeIdWrite {r} (h : Keeps s t) : KeepsNext s (execNodeIdWrite r t) :=
  .next (h.serve fun _ _ h => h.actWrite)

protected theorem Keeps.execRingKeyLoad {r} (h : Keeps s t) : KeepsNext s (execRingKeyLoad r t) :=
  .next (h.serve fun _ _ h => h.actWrite)

protected theorem Keeps.execServiceUartRate {r} (h : Keeps s t) : KeepsNext s (execServiceUartRate r t) :=
  .next (h.serve fun _ _ h => h.actWrite)

protected theorem Keeps.execRecoveryRelay {r} (h : Keeps s t) : KeepsNext s (execRecoveryRelay r t) :=
  .next (h.serve fun _ _ h => h.actWrite)

protected theorem Keeps.execRecoveryRelayTimeout (h : Keeps s t) : KeepsNext s (execRecoveryRelayTimeout t) :=
  .next (.ite h.closeRelay h)

protected theorem Keeps.execDiscoverResponseDelay {i} (h : Keeps s t) :
    KeepsNext s (execDiscoverResponseDelay i t) := by
  dsimp only [execDiscoverResponseDelay]
  split
  · exact .next (.ite h.withOdw.deliver.keepResponse h)
  · exact .next h

protected theorem Keeps.execSessionTimeout {i} (h : Keeps s t) : KeepsNext s (execSessionTimeout i t) := by
  dsimp only [execSessionTimeout]
  split
  · exact .next (.ite h.withOdw h)
  · exact .next h

protected theorem Keeps.execKeptResponseExpiry (h : Keeps s t) : KeepsNext s (execKeptResponseExpiry t) :=
  .next h.withOdw

protected theorem Keeps.execStoreComplete (h : Keeps s t) : KeepsNext s (execStoreComplete t) :=
  .next (.ite (.ite h.finishStore h.withOdw) h)

protected theorem Keeps.execArpRequest {port senderMac senderIp targetIp} (h : Keeps s t) :
    KeepsNext s (execArpRequest port senderMac senderIp targetIp t) :=
  .next (.ite h.output h)

protected theorem Keeps.execSundemUnservedRequest {r why} (h : Keeps s t) :
    KeepsNext s (execSundemUnservedRequest r why t) := by
  dsimp only [execSundemUnservedRequest]
  split
  · exact .next (.ite h (h.serve fun _ _ h => h.actUnknown))
  · exact .next (.ite h.withOdw h)
  · exact .next h
  · exact .next (.ite h.withOdw h)

/-! ### Commands that stand for one register or window write -/

protected theorem Keeps.commandWrite {u off w} (h : Keeps s t) : Keeps s (commandWrite t u off w).1 := by
  dsimp only [commandWrite]
  split
  · exact h
  · split
    · exact h
    · split
      · exact h
      · split
        · exact h
        · split
          · exact h.writeReg
          · exact h.writeReg
          · exact h

protected theorem Keeps.writeCommand {u off w} (h : Keeps s t) : Keeps s (writeCommand t u off w) := by
  dsimp only [writeCommand]
  exact h.commandWrite.output

protected theorem Keeps.execRegisterWrite {u off w} (h : Keeps s t) : KeepsNext s (execRegisterWrite u off w t) :=
  .next h.writeCommand

protected theorem Keeps.execUnitReset {u} (h : Keeps s t) : KeepsNext s (execUnitReset u t) := .next h.writeCommand

protected theorem Keeps.execUnitFenceSet {u} (h : Keeps s t) : KeepsNext s (execUnitFenceSet u t) :=
  .next h.writeCommand

protected theorem Keeps.execUnitFenceLift {u} (h : Keeps s t) : KeepsNext s (execUnitFenceLift u t) :=
  .next h.writeCommand

protected theorem Keeps.execLockUnit {u} (h : Keeps s t) : KeepsNext s (execLockUnit u t) := .next h.writeCommand

protected theorem Keeps.execCommitHold {hold} (h : Keeps s t) : KeepsNext s (execCommitHold hold t) :=
  .next h.writeCommand

protected theorem Keeps.execCommitDiscard (h : Keeps s t) : KeepsNext s (execCommitDiscard t) := .next h.writeCommand

protected theorem Keeps.execEpochFlipRequest {flips} (h : Keeps s t) : KeepsNext s (execEpochFlipRequest flips t) :=
  .next h.writeCommand

protected theorem Keeps.engineWrite {e off w} (h : Keeps s t) : Keeps s (engineWrite t e off w) :=
  .ite h.writeCommand h.output

protected theorem Keeps.engineCommand {e bit} (h : Keeps s t) : Keeps s (engineCommand t e bit) := h.engineWrite

protected theorem Keeps.execEngineEnable {e} (h : Keeps s t) : KeepsNext s (execEngineEnable e t) :=
  .next h.engineWrite

protected theorem Keeps.execEngineDisable {e} (h : Keeps s t) : KeepsNext s (execEngineDisable e t) :=
  .next h.engineWrite

protected theorem Keeps.execHalt {e} (h : Keeps s t) : KeepsNext s (execHalt e t) := .next h.engineCommand

protected theorem Keeps.execResume {e} (h : Keeps s t) : KeepsNext s (execResume e t) := .next h.engineCommand

protected theorem Keeps.execRestart {e} (h : Keeps s t) : KeepsNext s (execRestart e t) := .next h.engineCommand

protected theorem Keeps.execFlushTx {e} (h : Keeps s t) : KeepsNext s (execFlushTx e t) := .next h.engineCommand

protected theorem Keeps.execFlushRx {e} (h : Keeps s t) : KeepsNext s (execFlushRx e t) := .next h.engineCommand

protected theorem Keeps.execArcadeGroupRestart {n engines} (h : Keeps s t) :
    KeepsNext s (execArcadeGroupRestart n engines t) :=
  .next (.ite h.writeCommand h.output)

protected theorem Keeps.execProgramRowWrite {e row w} (h : Keeps s t) :
    KeepsNext s (execProgramRowWrite e row w t) := by
  dsimp only [execProgramRowWrite]
  split
  · split
    · exact .next h.output
    · exact .next h.writeAt.output
  · exact .next h.output

protected theorem Keeps.execEngineConfigWrite {e off w} (h : Keeps s t) :
    KeepsNext s (execEngineConfigWrite e off w t) :=
  .next (.ite h.engineWrite h.output)

protected theorem Keeps.execLoopBoundsWrite {e first last} (h : Keeps s t) :
    KeepsNext s (execLoopBoundsWrite e first last t) :=
  .next h.engineWrite

protected theorem Keeps.pinCommand {base group w} (h : Keeps s t) : Keeps s (pinCommand t base group w) :=
  .ite h.writeCommand h.output

protected theorem Keeps.execPinSet {group w} (h : Keeps s t) : KeepsNext s (execPinSet group w t) :=
  .next h.pinCommand

protected theorem Keeps.execPinClear {group w} (h : Keeps s t) : KeepsNext s (execPinClear group w t) :=
  .next h.pinCommand

protected theorem Keeps.execPinToggle {group w} (h : Keeps s t) : KeepsNext s (execPinToggle group w t) :=
  .next h.pinCommand

protected theorem Keeps.baseCommand {base w} (h : Keeps s t) : Keeps s (baseCommand t base w) :=
  .ite h.writeCommand h.output

protected theorem Keeps.execStep {base} (h : Keeps s t) : KeepsNext s (execStep base t) := .next h.baseCommand

protected theorem Keeps.execArm {base} (h : Keeps s t) : KeepsNext s (execArm base t) := .next h.baseCommand

protected theorem Keeps.execHandover (h : Keeps s t) : KeepsNext s (execHandover t) := .next h.writeCommand

protected theorem Keeps.execResync (h : Keeps s t) : KeepsNext s (execResync t) := .next h.writeCommand

protected theorem Keeps.execHb (h : Keeps s t) : KeepsNext s (execHb t) := .next h.writeCommand

/-! ### Every command -/

protected theorem Keeps.exec {i} (h : Keeps s t) : KeepsNext s (exec i t) := by
  cases i with
  | powerOnReset => exact h.execPowerOnReset
  | porstRelease => exact h.execPorstRelease
  | sysrstAssert => exact h.execSysrstAssert
  | sysrstRelease => exact h.execSysrstRelease
  | romBootComplete => exact h.execRomBootComplete
  | ringJoinEnable => exact h.execRingJoinEnable
  | ringReady => exact h.execRingReady
  | fullService => exact h.execFullService
  | deviceRestart => exact h.execDeviceRestart
  | dormantRequest => exact h.execDormantRequest
  | dormantEntryComplete => exact h.execDormantEntryComplete
  | dormantWake => exact h.execDormantWake
  | drainWindowEnd => exact h.execDrainWindowEnd
  | unitResetComplete => exact h.execUnitResetComplete
  | nodeCycleBoundary => exact h.execNodeCycleBoundary
  | heartbeatMissed => exact h.execHeartbeatMissed
  | boundaryWatchdog => exact h.execBoundaryWatchdog
  | fbCommit => exact h.execFbCommit
  | registerWrite => exact h.execRegisterWrite
  | rd => exact h.execRd
  | wrPosted => exact h.execWrPosted
  | wrAck => exact h.execWrAck
  | rmwSet => exact h.execRmwSet
  | rmwClr => exact h.execRmwClr
  | rmwSwap => exact h.execRmwSwap
  | fence => exact h.execFence
  | fenceRelease => exact h.execFenceRelease
  | txnIssue => exact h.execTxnIssue
  | tagGrant => exact h.execTagGrant
  | txnReqReceive => exact h.execTxnReqReceive
  | heldRequestAdmit => exact h.execHeldRequestAdmit
  | txnRspReceive => exact h.execTxnRspReceive
  | postFaultReceive => exact h.execPostFaultReceive
  | txnTimeout => exact h.execTxnTimeout
  | tagHoldoutEnd => exact h.execTagHoldoutEnd
  | i2cTransferComplete => exact h.execI2cTransferComplete
  | i2cStretchTimeout => exact h.execI2cStretchTimeout
  | mdioTransferComplete => exact h.execMdioTransferComplete
  | unitReset => exact h.execUnitReset
  | unitFenceSet => exact h.execUnitFenceSet
  | unitFenceLift => exact h.execUnitFenceLift
  | lockUnit => exact h.execLockUnit
  | commitHold => exact h.execCommitHold
  | commitDiscard => exact h.execCommitDiscard
  | epochFlipRequest => exact h.execEpochFlipRequest
  | epochDrainComplete => exact h.execEpochDrainComplete
  | ringPortEnable => exact h.execRingPortEnable
  | ringPortDisable => exact h.execRingPortDisable
  | retrain => exact h.execRetrain
  | markerReceive => exact h.execMarkerReceive
  | capabilityWordReceive => exact h.execCapabilityWordReceive
  | capTimeout => exact h.execCapTimeout
  | stepVerifyDone => exact h.execStepVerifyDone
  | stepFallback => exact h.execStepFallback
  | frCoeffRequest => exact h.execFrCoeffRequest
  | frTrainComplete => exact h.execFrTrainComplete
  | frTrainTimeout => exact h.execFrTrainTimeout
  | lossOfLock => exact h.execLossOfLock
  | relockTimeout => exact h.execRelockTimeout
  | relockDone => exact h.execRelockDone
  | laneModeChange => exact h.execLaneModeChange
  | accessLinkUp => exact h.execAccessLinkUp
  | accessLinkDown => exact h.execAccessLinkDown
  | flushDone => exact h.execFlushDone
  | holdExpiry => exact h.execHoldExpiry
  | ringFrameReceive => exact h.execRingFrameReceive
  | ringFrameAdd => exact h.execRingFrameAdd
  | announcementSend => exact h.execAnnouncementSend
  | announcementReceive => exact h.execAnnouncementReceive
  | reachTimeout => exact h.execReachTimeout
  | dupIdTimeout => exact h.execDupIdTimeout
  | keepaliveSend => exact h.execKeepaliveSend
  | keepaliveReceive => exact h.execKeepaliveReceive
  | keepaliveTick => exact h.execKeepaliveTick
  | maintenanceWrap => exact h.execMaintenanceWrap
  | wrapNoticeReceive => exact h.execWrapNoticeReceive
  | wrapHolddownExpiry => exact h.execWrapHolddownExpiry
  | healReady => exact h.execHealReady
  | heal => exact h.execHeal
  | frameAdmit => exact h.execFrameAdmit
  | egressSchedule => exact h.execEgressSchedule
  | residencyCheck => exact h.execResidencyCheck
  | accessFrameReceive => exact h.execAccessFrameReceive
  | ageingSweep => exact h.execAgeingSweep
  | learnFlush => exact h.execLearnFlush
  | pauseFrameReceive => exact h.execPauseFrameReceive
  | pauseExpiry => exact h.execPauseExpiry
  | pauseRefresh => exact h.execPauseRefresh
  | captureResume => exact h.execCaptureResume
  | junctionMessageReceive => exact h.execJunctionMessageReceive
  | listRun => exact h.execListRun
  | emissionHandover => exact h.execEmissionHandover
  | emitLateDiscard => exact h.execEmitLateDiscard
  | runLateDiscard => exact h.execRunLateDiscard
  | timedRunSkip => exact h.execTimedRunSkip
  | pushHdr => exact h.execPushHdr
  | pushData => exact h.execPushData
  | pushTimeout => exact h.execPushTimeout
  | pop => exact h.execPop
  | release => exact h.execRelease
  | abort => exact h.execAbort
  | queueFlush => exact h.execQueueFlush
  | queueEnable => exact h.execQueueEnable
  | queueDisable => exact h.execQueueDisable
  | messageProduce => exact h.execMessageProduce
  | mqArcadeDeliver => exact h.execMqArcadeDeliver
  | pollSampleComplete => exact h.execPollSampleComplete
  | busChannelEnable => exact h.execBusChannelEnable
  | busChannelDisable => exact h.execBusChannelDisable
  | busFrameReceive => exact h.execBusFrameReceive
  | txRequest => exact h.execTxRequest
  | txCancel => exact h.execTxCancel
  | busArbitration => exact h.execBusArbitration
  | txAttemptEnd => exact h.execTxAttemptEnd
  | busError => exact h.execBusError
  | recover => exact h.execRecover
  | busRecoveryComplete => exact h.execBusRecoveryComplete
  | bufferStarved => exact h.execBufferStarved
  | engineRowExecute => exact h.execEngineRowExecute
  | engineEnable => exact h.execEngineEnable
  | engineDisable => exact h.execEngineDisable
  | halt => exact h.execHalt
  | resume => exact h.execResume
  | restart => exact h.execRestart
  | arcadeGroupRestart => exact h.execArcadeGroupRestart
  | flushTx => exact h.execFlushTx
  | flushRx => exact h.execFlushRx
  | txPush => exact h.execTxPush
  | rxPop => exact h.execRxPop
  | programRowWrite => exact h.execProgramRowWrite
  | engineConfigWrite => exact h.execEngineConfigWrite
  | loopBoundsWrite => exact h.execLoopBoundsWrite
  | pinSet => exact h.execPinSet
  | pinClear => exact h.execPinClear
  | pinToggle => exact h.execPinToggle
  | step => exact h.execStep
  | arm => exact h.execArm
  | linkReportSend => exact h.execLinkReportSend
  | linkReportReceive => exact h.execLinkReportReceive
  | servoUpdate => exact h.execServoUpdate
  | upstreamReportTimeout => exact h.execUpstreamReportTimeout
  | tb1ReportSend => exact h.execTb1ReportSend
  | tb1ReportReceive => exact h.execTb1ReportReceive
  | triggerArm => exact h.execTriggerArm
  | triggerFire => exact h.execTriggerFire
  | captureEvent => exact h.execCaptureEvent
  | gcmEncrypt => exact h.execGcmEncrypt
  | gcmDecrypt => exact h.execGcmDecrypt
  | cbcEncrypt => exact h.execCbcEncrypt
  | cbcDecrypt => exact h.execCbcDecrypt
  | cfbEncrypt => exact h.execCfbEncrypt
  | cfbDecrypt => exact h.execCfbDecrypt
  | ctr => exact h.execCtr
  | cmacGenerate => exact h.execCmacGenerate
  | cmacVerify => exact h.execCmacVerify
  | unwrapRing => exact h.execUnwrapRing
  | descriptorStart => exact h.execDescriptorStart
  | pass1Complete => exact h.execPass1Complete
  | descriptorComplete => exact h.execDescriptorComplete
  | cacheFlush => exact h.execCacheFlush
  | lgenNext => exact h.execLgenNext
  | keyRegisterWrite => exact h.execKeyRegisterWrite
  | nonceReservationComplete => exact h.execNonceReservationComplete
  | entropyFail => exact h.execEntropyFail
  | twnPeerRise => exact h.execTwnPeerRise
  | twnPeerFall => exact h.execTwnPeerFall
  | peerLowQualified => exact h.execPeerLowQualified
  | twinKeepaliveSend => exact h.execTwinKeepaliveSend
  | twinKeepaliveReceive => exact h.execTwinKeepaliveReceive
  | twinLinkDown => exact h.execTwinLinkDown
  | deltaSegmentReceive => exact h.execDeltaSegmentReceive
  | deltaAckReceive => exact h.execDeltaAckReceive
  | snapshotSegmentReceive offset => exact h.execSnapshotSegmentReceive (_offset := offset)
  | departureSend => exact h.execDepartureSend
  | departureReceive => exact h.execDepartureReceive
  | handover => exact h.execHandover
  | handoverRelease => exact h.execHandoverRelease
  | resync => exact h.execResync
  | hb => exact h.execHb
  | soloWaitExpiry => exact h.execSoloWaitExpiry
  | slotEnable => exact h.execSlotEnable
  | slotDisable => exact h.execSlotDisable
  | seatDebounceDone => exact h.execSeatDebounceDone
  | seatLost => exact h.execSeatLost
  | powerUpStart => exact h.execPowerUpStart
  | prechargeComplete => exact h.execPrechargeComplete
  | prechargeTimeout => exact h.execPrechargeTimeout
  | rampEnd => exact h.execRampEnd
  | monitorTick => exact h.execMonitorTick
  | breaker => exact h.execBreaker
  | fast => exact h.execFast
  | tripResolve => exact h.execTripResolve
  | retryWaitExpiry => exact h.execRetryWaitExpiry
  | pgQualify => exact h.execPgQualify
  | retryCountReset => exact h.execRetryCountReset
  | vinStateChange => exact h.execVinStateChange
  | vinRestore => exact h.execVinRestore
  | warnedTurnOff => exact h.execWarnedTurnOff
  | budgetRestore => exact h.execBudgetRestore
  | on => exact h.execOn
  | off => exact h.execOff
  | pfailAssert => exact h.execPfailAssert
  | pfailRelease => exact h.execPfailRelease
  | vauxLow => exact h.execVauxLow
  | nvmInhibitLift => exact h.execNvmInhibitLift
  | meterSample => exact h.execMeterSample
  | faultDetect => exact h.execFaultDetect
  | errPulseEnd => exact h.execErrPulseEnd
  | faultInject => exact h.execFaultInject
  | eccInject => exact h.execEccInject
  | read => exact h.execRead
  | write => exact h.execWrite
  | describe => exact h.execDescribe
  | store => exact h.execStore
  | restore => exact h.execRestore
  | discover => exact h.execDiscover
  | discoverResponseDelay => exact h.execDiscoverResponseDelay
  | addrRead => exact h.execAddrRead
  | addrWrite => exact h.execAddrWrite
  | sessionTimeout => exact h.execSessionTimeout
  | keptResponseExpiry => exact h.execKeptResponseExpiry
  | arpRequest => exact h.execArpRequest
  | nodeIdWrite => exact h.execNodeIdWrite
  | ringKeyLoad => exact h.execRingKeyLoad
  | serviceUartRate => exact h.execServiceUartRate
  | recoveryRelay => exact h.execRecoveryRelay
  | recoveryRelayTimeout => exact h.execRecoveryRelayTimeout
  | begin => exact h.execBegin
  | close => exact h.execClose
  | activate => exact h.execActivate
  | confirm => exact h.execConfirm
  | abandon => exact h.execAbandon
  | packageWrite => exact h.execPackageWrite
  | verifyComplete => exact h.execVerifyComplete
  | activationHashDone => exact h.execActivationHashDone
  | managementRestartEnd => exact h.execManagementRestartEnd
  | badSof => exact h.execBadSof
  | bankSupplyLoss => exact h.execBankSupplyLoss
  | selfSeatChange => exact h.execSelfSeatChange
  | syncFiringLate => exact h.execSyncFiringLate
  | tb1ReportTimeout => exact h.execTb1ReportTimeout
  | storeComplete => exact h.execStoreComplete
  | busIntegrationComplete => exact h.execBusIntegrationComplete
  | sundemUnservedRequest => exact h.execSundemUnservedRequest

/-! ### Every step -/

protected theorem Keeps.step (h : Keeps s t) : KeepsNext s (step t) := by
  dsimp only [step]
  split
  · exact .next h.idle
  · exact h.withPending.exec

end

/-- Settles O58: by `Keeps.step`, which goes through the operations that every command is made of. -/
theorem stepKeepsMemoryAndDie : Obligations.StepKeepsMemoryAndDie :=
  ⟨fun s t hs e => ((Keeps.refl s).step t e).mem hs, fun s t e => ((Keeps.refl s).step t e).die⟩

end Sys2Proof.Machine

/-! # Proofs: the reset state, the register map, register writes -/

namespace Sys2Proof.Machine

/-! ### The reset state and the register map -/

/-- Settles O3: the reset state lists no word, no byte and no record, so that each reads its default. -/
theorem resetState : Obligations.ResetState :=
  ⟨rfl, rfl, fun _ => rfl, rfl, rfl, rfl, rfl, rfl, rfl, rfl, fun _ => rfl, fun _ => rfl, fun _ => rfl, rfl, rfl,
    fun _ => rfl⟩

/-- Settles O9: by evaluation of the register map. -/
theorem registerFieldsDisjoint : Obligations.RegisterFieldsDisjoint := by
  unfold Obligations.RegisterFieldsDisjoint
  decide +kernel

/-! ### Register writes by command -/

theorem commandWrite_of_fenced {s : State} {u c : Nat} (hu : u ≤ 0x10) (hf : fenceCode s u = some c) (off w : Nat) :
    commandWrite s u off w = (s, c) := by
  rw [commandWrite, if_neg (by omega), hf]

/-- The first 64 KiB of a unit are its register block. -/
theorem placeOf_register {off : Nat} (ho : off < 0x10000) (v : Variant) (u : Nat) : placeOf v u off = .register :=
  if_pos ho

/-- A command's write at an aligned offset of the register block of a unit that runs is the write of that register. -/
theorem commandWrite_eq_writeReg {s : State} {u off : Nat} (hl : live s u = true) (hu : u ≤ 0x10) (ho : off < 0x10000)
    (ha : off % 4 = 0) (w : Nat) : commandWrite s u off w = writeReg s .mgt u off w := by
  rw [commandWrite, if_neg (by omega), (live_iff s u).1 hl, placeOf_register ho]
  by_cases hab : absentAt s u off = true
  · rw [writeReg, if_pos hab, if_pos hab]
  · rw [if_neg hab, if_neg (by omega)]

theorem commandWrite_of_absent {s : State} {u off : Nat} (hl : live s u = true) (hu : u ≤ 0x10)
    (hab : absentAt s u off = true) (w : Nat) : commandWrite s u off w = (s, codeUNIT_ABSENT) := by
  rw [commandWrite, if_neg (by omega), (live_iff s u).1 hl]
  simp only [hab, if_true]

/-- A write of what the hub has not is refused, its whole block being absent or not. -/
theorem writeReg_of_noInst {s : State} {u off : Nat} {d : RegDef} {idx : List Nat} (hf : filterOffset u off = false)
    (hr : regAt (keyOf u off) = some (d, idx)) (hi : hasInst s d.pres idx = false) (who : Origin) (w : Nat) :
    writeReg s who u off w = (s, codeUNIT_ABSENT) := by
  simp [writeReg, hf, hr, hi]

theorem writeReg_of_unmapped {s : State} {u off : Nat} (hab : absentAt s u off = false) (hf : filterOffset u off = false)
    (hr : regAt (keyOf u off) = none) (who : Origin) (w : Nat) : writeReg s who u off w = (s, codeOK) := by
  simp [writeReg, hab, hf, hr]

/-- REGISTER_WRITE hands out the code of its write. -/
theorem exec_registerWrite {s : State} {u off : Nat} {w : Word} {r : State × Nat}
    (h : commandWrite s u off w.toNat = r) : exec (.registerWrite u off w) s = .next (output r.1 (.code r.2)) := by
  change Host.Outcome.next (writeCommand s u off w.toNat) = _
  rw [writeCommand, h]

/-- Settles O11: the fence, the block, the register and its presence are asked in turn. -/
theorem fencedUnitRefusesWrite : Obligations.FencedUnitRefusesWrite := by
  refine ⟨fun s u off c w hu hf => ?fenced, fun s u off w hl hu hab => ?absent,
    fun s u off w d idx hl hu ho ha hf hr hi => ?noInst, fun s u off w hl hu ho ha hf hab hr => ?unmapped⟩
  case fenced => exact exec_registerWrite (commandWrite_of_fenced hu hf off _)
  case absent => exact exec_registerWrite (commandWrite_of_absent hl hu hab _)
  case noInst =>
    exact exec_registerWrite ((commandWrite_eq_writeReg hl hu ho ha _).trans (writeReg_of_noInst hf hr hi _ _))
  case unmapped =>
    exact exec_registerWrite ((commandWrite_eq_writeReg hl hu ho ha _).trans (writeReg_of_unmapped hab hf hr _ _))

/-! ### Bits of masks and merged words -/

@[simp] theorem testBit_mergeBits (old new mask i : Nat) :
    (mergeBits old new mask).testBit i = if mask.testBit i then new.testBit i else old.testBit i := by
  simp only [mergeBits, Nat.testBit_xor, Nat.testBit_and]
  cases mask.testBit i <;> simp

/-- A bit of the mask of the fields with a property, gathered from `m` on. -/
theorem testBit_foldl_fieldMask (p : FieldDef → Bool) (i : Nat) (l : List FieldDef) (m : Nat) :
    (l.foldl (fun m f => if p f then m ||| (2 ^ f.width - 1) * 2 ^ f.lo else m) m).testBit i
      = (m.testBit i || l.any (fun f => p f && decide (f.lo ≤ i ∧ i < f.lo + f.width))) := by
  induction l generalizing m with
  | nil => simp
  | cons f l ih =>
    rw [List.foldl_cons, ih, List.any_cons, ← Bool.or_assoc]
    congr 1
    cases p f with
    | false => simp
    | true =>
      simp only [if_true, Nat.testBit_or, testBit_mul_pow, Nat.testBit_two_pow_sub_one, Bool.true_and,
        ← Bool.decide_and]
      congr 2
      exact propext ⟨fun h => by omega, fun h => by omega⟩

theorem testBit_fieldMask (d : RegDef) (p : FieldDef → Bool) (i : Nat) :
    (fieldMask d p).testBit i = d.fields.any (fun f => p f && decide (f.lo ≤ i ∧ i < f.lo + f.width)) := by
  rw [fieldMask, testBit_foldl_fieldMask, Nat.zero_testBit, Bool.false_or]

/-- No two fields of a register share a bit. -/
def RegDef.apart (d : RegDef) : Prop :=
  d.fields.Pairwise (fun f g => f.lo + f.width ≤ g.lo ∨ g.lo + g.width ≤ f.lo)

theorem RegDef.apart.forall_of_ne {d : RegDef} (hd : d.apart) {f g : FieldDef} (hf : f ∈ d.fields) (hg : g ∈ d.fields)
    (e : f ≠ g) : f.lo + f.width ≤ g.lo ∨ g.lo + g.width ≤ f.lo :=
  haveI : Std.Symm fun f g : FieldDef => f.lo + f.width ≤ g.lo ∨ g.lo + g.width ≤ f.lo := ⟨fun _ _ => Or.symm⟩
  List.Pairwise.forall hd hf hg e

/-- Where fields do not overlap, the bit of a field is in the mask where the field has the property. -/
theorem testBit_fieldMask_of_mem {d : RegDef} (hd : d.apart) {f : FieldDef} (hf : f ∈ d.fields) {j : Nat}
    (hj : j < f.width) (p : FieldDef → Bool) : (fieldMask d p).testBit (f.lo + j) = p f := by
  rw [testBit_fieldMask, Bool.eq_iff_iff, List.any_eq_true]
  refine ⟨fun ⟨g, hg, h⟩ => ?_, fun h => ⟨f, hf, by simp [h, hj]⟩⟩
  simp only [Bool.and_eq_true, decide_eq_true_eq] at h
  obtain ⟨hp, hlo, hhi⟩ := h
  by_cases e : f = g
  · rwa [e]
  · have := hd.forall_of_ne hf hg e
    omega

/-- A bit that no field has is in no mask. -/
theorem testBit_fieldMask_of_reserved {d : RegDef} {i : Nat} (h : ∀ f ∈ d.fields, i < f.lo ∨ f.lo + f.width ≤ i)
    (p : FieldDef → Bool) : (fieldMask d p).testBit i = false := by
  rw [testBit_fieldMask, List.any_eq_false]
  intro f hf
  have := h f hf
  simp
  omega

/-! ### A write by the field types -/

/-- The fields that take a written value at once, where the unit is locked or not. -/
def FieldDef.takesNow (locked : Bool) (f : FieldDef) : Bool :=
  f.commit = .im && (f.ty = .rw || f.ty = .cnt || (f.ty = .lk && !locked))

/-- The fields whose written value waits for a commit point. -/
def FieldDef.waits (c : Commit) (f : FieldDef) : Bool := f.commit = c && f.ty = .rw

/-- Every bit of a register after a write: taken where its field takes it, then set by W1S, then cleared by W1C. -/
theorem getLsbD_plainWrite (s : State) (d : RegDef) (key w : Nat) {i : Nat} (hi : i < 32) :
    (regWord (plainWrite s d key w).1 key).getLsbD i
      = (((if (fieldMask d (·.takesNow (bitF s F.SYS_LOCK_LOCK (unitOfKey key)))).testBit i then w.testBit i
            else (regWord s key).getLsbD i)
          || (w.testBit i && (fieldMask d (·.ty = .w1s)).testBit i))
        && !(w.testBit i && (fieldMask d (·.ty = .w1c)).testBit i)) := by
  have hr (t : State) (m : Nat) (w : Nat) (x : List (Nat × (Word × Word))) :
      regWord ((addCb t key m w).withPendFb x) key = regWord t key := by
    unfold addCb
    split <;> rfl
  simp only [plainWrite, hr, regWord_setWord_same, BitVec.getLsbD_ofNat, hi, decide_true, Bool.true_and,
    testBit_mergeBits, Nat.testBit_or, Nat.testBit_and, Nat.zero_testBit, BitVec.testBit_toNat]
  cases w.testBit i && (fieldMask d (·.ty = .w1c)).testBit i
  · rw [Bool.not_false, Bool.and_true]
    rfl
  · simp

/-- A bit of a field after a write, by the field's access type alone. -/
theorem getLsbD_plainWrite_field (s : State) {d : RegDef} (hd : d.apart) {f : FieldDef} (hf : f ∈ d.fields)
    (hw : f.lo + f.width ≤ 32) {j : Nat} (hj : j < f.width) (key w : Nat) :
    (regWord (plainWrite s d key w).1 key).getLsbD (f.lo + j)
      = (((if f.takesNow (bitF s F.SYS_LOCK_LOCK (unitOfKey key)) then w.testBit (f.lo + j)
            else (regWord s key).getLsbD (f.lo + j))
          || (w.testBit (f.lo + j) && decide (f.ty = .w1s))) && !(w.testBit (f.lo + j) && decide (f.ty = .w1c))) := by
  rw [getLsbD_plainWrite s d key w (show f.lo + j < 32 by omega)]
  simp only [testBit_fieldMask_of_mem hd hf hj]

/-- Reserved bits ignore a write (R71). -/
theorem getLsbD_plainWrite_reserved (s : State) {d : RegDef} (key w : Nat) {i : Nat}
    (h : ∀ f ∈ d.fields, i < f.lo ∨ f.lo + f.width ≤ i) :
    (regWord (plainWrite s d key w).1 key).getLsbD i = (regWord s key).getLsbD i := by
  by_cases hi : i < 32
  · simp [getLsbD_plainWrite s d key w hi, testBit_fieldMask_of_reserved h]
  · simp [BitVec.getLsbD_of_ge _ i (Nat.le_of_not_lt hi)]

theorem regWord_plainWrite_other (s : State) (d : RegDef) {key k : Nat} (w : Nat) (h : k ≠ key) :
    regWord (plainWrite s d key w).1 k = regWord s k := by
  have hr (t : State) (m : Nat) (x : List (Nat × (Word × Word))) :
      regWord ((addCb t key m w).withPendFb x) k = regWord t k := by
    unfold addCb
    split <;> rfl
  simp only [plainWrite, hr, regWord_setWord_other _ _ h]

theorem plainWrite_frame (s : State) (d : RegDef) (key w : Nat) :
    (plainWrite s d key w).1 = { s with
      regs := (plainWrite s d key w).1.regs, pendCb := (plainWrite s d key w).1.pendCb,
      pendFb := (plainWrite s d key w).1.pendFb } := by
  unfold plainWrite addCb
  dsimp only
  split <;> rfl

/-- A mask with a bit set is not zero. -/
theorem ne_zero_of_testBit {n i : Nat} (h : n.testBit i = true) : n ≠ 0 := by
  rintro rfl
  simp at h

/-- A write of fields that commit at CB is listed as one write more (R76). -/
theorem plainWrite_pendCb (s : State) {d : RegDef} (key w : Nat) {i : Nat}
    (h : (fieldMask d (·.waits .cb)).testBit i = true) :
    (plainWrite s d key w).1.pendCb
      = s.pendCb ++ [⟨s.mono, key, BitVec.ofNat 32 (fieldMask d (·.waits .cb)), BitVec.ofNat 32 w⟩] := by
  change (addCb (setWord s key _) key (fieldMask d (·.waits .cb)) w).pendCb = _
  rw [addCb, if_neg (ne_zero_of_testBit h)]
  rfl

/-- The pending copy of a register takes the written bits beside those it has. -/
theorem assoc_pend (l : List (Nat × (Word × Word))) (key mask w j : Nat) :
    assoc j (pend l key mask w)
      = if mask ≠ 0 ∧ j = key then
          some (((assoc key l).getD (0, 0)).1 ||| BitVec.ofNat 32 mask,
            BitVec.ofNat 32 (mergeBits ((assoc key l).getD (0, 0)).2.toNat w mask))
        else assoc j l := by
  unfold pend
  by_cases hm : mask = 0
  · simp [hm]
  · simp [hm, assoc_put]

/-- A written bit stands in the pending copy. -/
theorem assoc_pend_bit (l : List (Nat × (Word × Word))) (key w : Nat) {mask i : Nat} (hi : i < 32)
    (h : mask.testBit i = true) :
    ∃ m v, assoc key (pend l key mask w) = some (m, v) ∧ m.getLsbD i = true ∧ v.getLsbD i = w.testBit i := by
  refine ⟨_, _, (assoc_pend l key mask w key).trans (if_pos ⟨ne_zero_of_testBit h, rfl⟩), ?_, ?_⟩
  · simp only [BitVec.getLsbD_or, BitVec.getLsbD_ofNat, h, hi, decide_true, Bool.and_self, Bool.or_true]
  · simp only [BitVec.getLsbD_ofNat, testBit_mergeBits, h, hi, decide_true, Bool.true_and, if_true]

theorem plainWrite_pendFb (s : State) (d : RegDef) (key w : Nat) :
    (plainWrite s d key w).1.pendFb = pend s.pendFb key (fieldMask d (·.waits .fb)) w := by
  unfold plainWrite addCb
  dsimp only
  split <;> rfl

/-- The LK fields differ from what is written exactly where one of their bits does. -/
theorem lockedBits_ne_zero_iff (d : RegDef) (old w : Word) :
    (old.toNat ^^^ w.toNat) &&& fieldMask d (·.ty = .lk) ≠ 0
      ↔ ∃ f ∈ d.fields, f.ty = .lk ∧ ∃ j < f.width, old.getLsbD (f.lo + j) ≠ w.getLsbD (f.lo + j) := by
  have bit (i : Nat) : ((old.toNat ^^^ w.toNat) &&& fieldMask d (·.ty = .lk)).testBit i = true
      ↔ old.getLsbD i ≠ w.getLsbD i ∧ ∃ f ∈ d.fields, f.ty = .lk ∧ f.lo ≤ i ∧ i < f.lo + f.width := by
    simp only [Nat.testBit_and, Nat.testBit_xor, BitVec.testBit_toNat, testBit_fieldMask, Bool.and_eq_true, bne_iff_ne,
      List.any_eq_true, decide_eq_true_eq]
  constructor
  · intro h
    obtain ⟨i, hi⟩ := Nat.exists_testBit_of_ne_zero h
    obtain ⟨hne, f, hf, hty, hlo, hhi⟩ := (bit i).1 hi
    refine ⟨f, hf, hty, i - f.lo, by omega, ?_⟩
    rwa [Nat.add_sub_of_le hlo]
  · rintro ⟨f, hf, hty, j, hj, hne⟩
    exact ne_zero_of_testBit ((bit _).2 ⟨hne, f, hf, hty, by omega, by omega⟩)

/-- LOCKED answers a write that would change an LK field of a locked unit (R75). -/
theorem plainWrite_code (s : State) (d : RegDef) (key : Nat) (w : Word) :
    (plainWrite s d key w.toNat).2
      = if bitF s F.SYS_LOCK_LOCK (unitOfKey key) = true ∧ (∃ f ∈ d.fields, f.ty = .lk ∧ ∃ j < f.width,
          (regWord s key).getLsbD (f.lo + j) ≠ w.getLsbD (f.lo + j)) then codeLOCKED else codeOK := by
  refine if_congr ?_ rfl rfl
  rw [← lockedBits_ne_zero_iff, Bool.and_eq_true, bne_iff_ne]

/-! ### A write that only its field types govern -/

theorem noteWrite_snd (u off w : Nat) (r : State × Nat) : (noteWrite u off w r).2 = r.2 := by
  unfold noteWrite
  split <;> rfl

theorem noteWrite_frame (u off w : Nat) (r : State × Nat) :
    (noteWrite u off w r).1 = { r.1 with twin := (noteWrite u off w r).1.twin } := by
  unfold noteWrite
  split
  · exact twinNote_frame _ _
  · rfl

/-- Without an effect of its own a present register is written by its field types, and the twin hears of it. -/
theorem writeReg_of_plain {s : State} {u off w : Nat} {d : RegDef} {idx : List Nat} {who : Origin}
    (hab : absentAt s u off = false) (hf : filterOffset u off = false) (hr : regAt (keyOf u off) = some (d, idx))
    (hi : hasInst s d.pres idx = true) (hk : hookWrite s who d u off (keyOf u off) w = none) :
    writeReg s who u off w = noteWrite u off w (plainWrite s d (keyOf u off) w) := by
  simp [writeReg, hab, hf, hr, hi, hk]

theorem unitOfKey_keyOf {off : Nat} (u : Nat) (h : off < 0x10000) : unitOfKey (keyOf u off) = u := by
  unfold unitOfKey keyOf
  omega

/-- What REGISTER_WRITE answers for a register that only its field types govern. -/
theorem exec_registerWrite_of_plain {s : State} {u off : Nat} {w : Word} {d : RegDef} {idx : List Nat}
    (hl : live s u = true) (hu : u ≤ 0x10) (ho : off < 0x10000) (ha : off % 4 = 0) (hab : absentAt s u off = false)
    (hf : filterOffset u off = false) (hr : regAt (keyOf u off) = some (d, idx)) (hi : hasInst s d.pres idx = true)
    (hk : hookWrite s .mgt d u off (keyOf u off) w.toNat = none) :
    ∃ t, exec (.registerWrite u off w) s = .next (output t (.code (plainWrite s d (keyOf u off) w.toNat).2))
      ∧ t = { (plainWrite s d (keyOf u off) w.toNat).1 with twin := t.twin } := by
  refine ⟨(noteWrite u off w.toNat (plainWrite s d (keyOf u off) w.toNat)).1, ?_, noteWrite_frame _ _ _ _⟩
  rw [exec_registerWrite ((commandWrite_eq_writeReg hl hu ho ha _).trans (writeReg_of_plain hab hf hr hi hk)),
    noteWrite_snd]

/-- Settles O10: bit by bit, with the mask of each kind of field. -/
theorem registerWriteByFieldTypes : Obligations.RegisterWriteByFieldTypes := by
  intro s u off w d idx hl hu ho ha hflt hr hab hi hk hw hd
  obtain ⟨t, hexec, ht⟩ := exec_registerWrite_of_plain hl hu ho ha hab hflt hr hi hk
  have hunit := unitOfKey_keyOf u ho
  clear hr hk
  generalize keyOf u off = key at *
  have hword (k : Nat) : regWord t k = regWord (plainWrite s d key w.toNat).1 k := by
    rw [ht]
    rfl
  refine ⟨_, hexec, ?frame, fun k hk => ?others, fun f hf j hj => ?field, fun j hj => ?reserved, ?code⟩
  case frame =>
    rw [ht, plainWrite_frame]
    rfl
  case others => exact (hword k).trans (regWord_plainWrite_other s d _ (by simpa using hk))
  case field =>
    have hnow := (congrArg (·.getLsbD (f.lo + j)) (hword key)).trans
      (getLsbD_plainWrite_field s hd hf (hw f hf) hj key w.toNat)
    rw [hunit, BitVec.testBit_toNat] at hnow
    have hlt : f.lo + j < 32 := by have := hw f hf; omega
    have hmask (c : Commit) (hty : f.ty = .rw) (hc : f.commit = c) :
        (fieldMask d (·.waits c)).testBit (f.lo + j) = true := by
      rw [testBit_fieldMask_of_mem hd hf hj]
      simp [FieldDef.waits, hty, hc]
    refine ⟨fun hty hc => ?rw, fun hty hc => ?cnt, fun hty hc => ⟨?cbNow, ?cb⟩, fun hty hc => ⟨?fbNow, ?fb⟩,
      fun hty => ?w1c, fun hty => ?w1s, fun hty hc => ?lk, ?held⟩
    case rw | cnt | cbNow | fbNow => exact hnow.trans (by simp [FieldDef.takesNow, hty, hc])
    case cb =>
      rw [ht]
      refine ⟨_, plainWrite_pendCb s key w.toNat (hmask .cb hty hc), rfl, rfl, ?_, ?_⟩
      · simp only [BitVec.getLsbD_ofNat, hmask .cb hty hc, hlt, decide_true, Bool.and_self]
      · rw [BitVec.ofNat_toNat, BitVec.setWidth_eq]
    case fb =>
      rw [ht]
      obtain ⟨m, v, hp, hm, hv⟩ := assoc_pend_bit s.pendFb key w.toNat hlt (hmask .fb hty hc)
      exact ⟨m, v, (congrArg (assoc key) (plainWrite_pendFb s d key _)).trans hp, hm, hv⟩
    case w1c | w1s => exact hnow.trans (by simp [FieldDef.takesNow, hty])
    case lk => exact hnow.trans (by cases bitF s F.SYS_LOCK_LOCK u <;> simp [FieldDef.takesNow, hty, hc])
    case held => rintro (hty | hty | hty) <;> exact hnow.trans (by simp [FieldDef.takesNow, hty])
  case reserved => exact (congrArg (·.getLsbD j) (hword key)).trans (getLsbD_plainWrite_reserved s key _ hj)
  case code =>
    rw [plainWrite_code, hunit, ht, plainWrite_frame]
    rfl

end Sys2Proof.Machine

/-! # Proofs: a local read of one register -/

namespace Sys2Proof.Machine

/-! ### Reading one register -/

theorem setWords_frame (s : State) (key n v : Nat) : setWords s key n v = { s with regs := (setWords s key n v).regs } := by
  induction n generalizing s key v with
  | zero => rfl
  | succ n ih => exact ih _ _ _

theorem readReg_frame (s : State) {u off : Nat} (h : filterOffset u off = false) :
    (readReg s u off).1 = { s with regs := (readReg s u off).1.regs } := by
  fun_cases readReg s u off
  case case2 hf _ => exact absurd h (by simp [hf])
  case case7 => exact setWords_frame _ _ _ _
  all_goals rfl

/-- Four bytes read at an aligned offset of a register block are one register's word in ascending byte order. -/
theorem readAt_word {s : State} {u off : Nat} (hab : absentAt s u off = false) (ho : off < 0x10000) (ha : off % 4 = 0)
    (prefetch : Bool) :
    readAt s u off 4 prefetch
      = ((readReg s u off).1, leBytes 4 (readReg s u off).2.1.toNat, (readReg s u off).2.2) := by
  have hc (c : Nat) : firstCode c codeOK = c := by
    unfold firstCode
    split <;> simp_all
  simp only [readAt, hab, placeOf_register ho, ha, Bool.false_eq_true, if_false, ne_eq, not_true_eq_false, or_self,
    readRegs, hc, List.append_nil, Nat.reduceMod, Nat.reduceDiv]


/-! ### The end of a local request -/

theorem requestAt_some {s : State} {k : Nat} {op : TxnOp} {r : Request} (h : requestAt s k op = some r) :
    s.txn.reqs[k]? = some r ∧ r.op = op := by
  unfold requestAt at h
  split at h
  next q hq =>
    split at h
    next hc =>
      cases h
      exact ⟨hq, hc.1⟩
    next => cases h
  next => cases h

theorem answerAddr_of_none {s : State} (h : s.odw.addr = []) (e : TagEntry) (code : Nat) (data : List Byte) :
    answerAddr s e code data = s := by
  simp [answerAddr, h]

/-- A tag that no poll holds completes at its initiator, where no ADDR request waits for it. -/
theorem completeTag_done {s : State} {tag code : Nat} {data : List Byte} {e : TagEntry}
    (he : s.txn.tags.find? (fun x => x.tag = tag) = some e) (hp : e.pollEntry = none) (ha : s.odw.addr = []) :
    completeTag s tag code data
      = output (stopTimer (s.withTxn { s.txn with tags := s.txn.tags.filter (fun x => x.tag ≠ tag) }) (.txn tag))
          (.done e.who tag code (responseData e.op e.count e.wide code data)) := by
  rw [completeTag, he]
  dsimp only
  rw [hp]
  exact answerAddr_of_none (by exact ha) _ _ _

/-- A local request that its target answers completes at the initiator that holds its tag. -/
theorem completeRequest_local {s : State} {r : Request} {code : Nat} {data : List Byte} {e : TagEntry}
    (hl : r.local_ = true) (hop : r.op ≠ .wrPosted) (he : s.txn.tags.find? (fun x => x.tag = r.tag) = some e)
    (hser : e.serial = r.serial) : completeRequest s r code data = completeTag s r.tag code data := by
  have hany : s.txn.tags.any (fun e => e.tag = r.tag && e.serial = r.serial) = true :=
    List.any_eq_true.2 ⟨e, List.mem_of_find?_eq_some he, by simpa [hser] using List.find?_some he⟩
  simp [completeRequest, noteExecuted, hl, hop, completeLocal, hany]

/-- The state in which a local request has left the buffer and its tag is free. -/
def localDone (s : State) (k : Nat) (r : Request) : State :=
  stopTimer (s.withTxn { s.txn with
    reqs := s.txn.reqs.eraseIdx k, tags := s.txn.tags.filter (fun x => x.tag ≠ r.tag) }) (.txn r.tag)

theorem finishRequest_local {s : State} {k : Nat} {r : Request} {code : Nat} {data : List Byte} {e : TagEntry}
    (hk : k < s.txn.reqs.length) (hl : r.local_ = true) (hop : r.op ≠ .wrPosted)
    (he : s.txn.tags.find? (fun x => x.tag = r.tag) = some e) (hser : e.serial = r.serial) (hp : e.pollEntry = none)
    (ha : s.odw.addr = []) :
    finishRequest s k r code data
      = output (localDone s k r) (.done e.who r.tag code (responseData e.op e.count e.wide code data)) := by
  rw [finishRequest, if_pos hk]
  exact (completeRequest_local hl hop (by exact he) hser).trans (completeTag_done (by exact he) hp (by exact ha))

theorem absentAt_of_accessCode {s : State} {r : Request} {n : Nat} (h : accessCode s r n = none) :
    absentAt s (unitOfAddr r.addr) (offOfAddr r.addr) = false := by
  unfold accessCode at h
  split at h
  · cases h
  · by_contra hab
    simp [Bool.eq_true_of_not_eq_false hab] at h

/-! ### A local read of one register -/

theorem inBridge_register {off : Nat} (ho : off < 0x10000) (s : State) (u : Nat) : inBridge s u off = false := by
  rw [inBridge, placeOf_register ho]

theorem inObjects_register {off : Nat} (ho : off < 0x10000) (s : State) (u : Nat) : inObjects s u off = false := by
  rw [inObjects, placeOf_register ho]

/-- A read that no rule refuses and no bridge takes ends with what its target answers. -/
theorem performRead_of_target {s : State} {k : Nat} {r : Request} (hacc : accessCode s r r.count = none)
    (hb : inBridge s (unitOfAddr r.addr) (offOfAddr r.addr) = false) :
    performRead s k r = finishRequest (readTarget s r).1 k r (readTarget s r).2.2 (readTarget s r).2.1 := by
  rw [performRead, hacc]
  exact if_neg (by simp [hb])

/-- Four bytes read at a register, or none with the code; of the state the register file alone may change. -/
theorem readTarget_word {s : State} {r : Request} (hab : absentAt s (unitOfAddr r.addr) (offOfAddr r.addr) = false)
    (ho : offOfAddr r.addr < 0x10000) (ha : offOfAddr r.addr % 4 = 0)
    (hf : filterOffset (unitOfAddr r.addr) (offOfAddr r.addr) = false) (hc : r.count = 4) :
    ∃ regs, readTarget s r = (s.withRegs regs,
      if (readReg s (unitOfAddr r.addr) (offOfAddr r.addr)).2.2 = codeOK then
        leBytes 4 (readReg s (unitOfAddr r.addr) (offOfAddr r.addr)).2.1.toNat else [],
      (readReg s (unitOfAddr r.addr) (offOfAddr r.addr)).2.2) := by
  have hread := readAt_word hab ho ha r.prefetch
  have hframe := readReg_frame s hf
  rw [readTarget, inObjects_register ho, hc]
  dsimp only
  rw [if_neg Bool.false_ne_true, hread, hframe]
  split
  · exact ⟨_, rfl⟩
  · exact ⟨s.regs, rfl⟩

theorem responseData_word (wide : Bool) (code n : Nat) :
    responseData .rd 4 wide code (if code = codeOK then leBytes 4 n else [])
      = if code = codeOK then leBytes 4 n else [0, 0, 0, 0] := by
  unfold responseData
  split
  · exact List.take_left' (leBytes_length 4 n)
  · rfl

/-- Settles O18: the word is read, and the request ends at its initiator. -/
theorem localRegisterRead : Obligations.LocalRegisterRead := by
  intro s k r e hreq hl hcount ho ha hflt hacc he hop hec hser hp haddr
  obtain ⟨hk, hrop⟩ := requestAt_some hreq
  have hexec : exec (.rd k) s = .next (performRead s k r) := by
    change Host.Outcome.next _ = _
    rw [hreq]
  obtain ⟨regs, hread⟩ := readTarget_word (absentAt_of_accessCode hacc) ho ha hflt hcount
  rw [performRead_of_target (hcount ▸ hacc) (inBridge_register ho s _), hread,
    finishRequest_local (s := s.withRegs regs) (List.getElem?_eq_some_iff.1 hk).1 hl (by simp [hrop]) he hser hp haddr,
    hop, hec, responseData_word] at hexec
  exact ⟨_, hexec, rfl, rfl, rfl, fun _ => rfl, rfl⟩

end Sys2Proof.Machine

/-! # Proofs: commits -/

namespace Sys2Proof.Machine

/-! ### Ascending lists of keys -/

/-- The keys of a list rise strictly, so that each is listed once. -/
def keysRise {α : Type} (l : List (Nat × α)) : Prop := (l.map Prod.fst).Pairwise (· < ·)

theorem mem_keys_put {α : Type} {k j : Nat} {v : α} {l : List (Nat × α)} (h : j ∈ (put k v l).map Prod.fst) :
    j = k ∨ j ∈ l.map Prod.fst := by
  induction l with
  | nil => exact .inl (by simpa [put] using h)
  | cons p t ih =>
    obtain ⟨i, w⟩ := p
    unfold put at h
    split at h
    · rcases List.mem_cons.1 h with h | h
      · exact .inl h
      · exact .inr (List.mem_cons_of_mem _ h)
    · split at h
      · rcases List.mem_cons.1 h with h | h
        · exact .inl h
        · exact .inr h
      · rcases List.mem_cons.1 h with h | h
        · exact .inr (h ▸ List.mem_cons_self)
        · exact (ih h).imp_right (List.mem_cons_of_mem _)

theorem keysRise_put {α : Type} (k : Nat) (v : α) {l : List (Nat × α)} (h : keysRise l) : keysRise (put k v l) := by
  induction l with
  | nil => exact List.pairwise_singleton _ _
  | cons p t ih =>
    obtain ⟨i, w⟩ := p
    obtain ⟨hi, ht⟩ := List.pairwise_cons.1 h
    unfold put
    split
    next e =>
      subst e
      exact h
    next hne =>
      split
      next hlt =>
        refine List.pairwise_cons.2 ⟨fun j hj => ?_, h⟩
        rcases List.mem_cons.1 hj with hj | hj
        · exact hj ▸ hlt
        · exact Nat.lt_trans hlt (hi j hj)
      next hlt =>
        refine List.pairwise_cons.2 ⟨fun j hj => ?_, ih ht⟩
        rcases mem_keys_put hj with e | hj
        · show i < j
          omega
        · exact hi j hj

/-! ### What the waiting CB writes amount to -/

theorem pend_keys {l : List (Nat × (Word × Word))} {key mask w j : Nat} (h : j ∈ (pend l key mask w).map Prod.fst) :
    j = key ∨ j ∈ l.map Prod.fst := by
  unfold pend at h
  split at h
  · exact .inr h
  · exact mem_keys_put h

theorem keysRise_pend {l : List (Nat × (Word × Word))} (h : keysRise l) (key mask w : Nat) :
    keysRise (pend l key mask w) := by
  unfold pend
  split
  · exact h
  · exact keysRise_put _ _ h

theorem mergeCb_concat (l : List CbWrite) (c : CbWrite) :
    mergeCb (l ++ [c]) = pend (mergeCb l) c.key c.mask.toNat c.value.toNat :=
  List.foldl_append ..

/-- Each key of the merged writes is the key of one of them. -/
theorem mergeCb_keys (l : List CbWrite) : ∀ j ∈ (mergeCb l).map Prod.fst, ∃ c ∈ l, c.key = j := by
  induction l using List.reverseRecOn with
  | nil => simp [mergeCb]
  | append_singleton l c ih =>
    intro j hj
    rw [mergeCb_concat] at hj
    rcases pend_keys hj with e | hj
    · exact ⟨c, by simp, e.symm⟩
    · obtain ⟨c', hc', e⟩ := ih j hj
      exact ⟨c', List.mem_append_left _ hc', e⟩

theorem keysRise_mergeCb (l : List CbWrite) : keysRise (mergeCb l) := by
  induction l using List.reverseRecOn with
  | nil => exact List.Pairwise.nil
  | append_singleton l c ih =>
    rw [mergeCb_concat]
    exact keysRise_pend ih _ _ _

/-- A later write of the same register settles its bits, and leaves the bits that it does not name. -/
theorem mergeCb_last (l : List CbWrite) (c : CbWrite) (j : Nat) (hc : c.mask ≠ 0) :
    ∃ m v, assoc c.key (mergeCb (l ++ [c])) = some (m, v)
      ∧ (c.mask.getLsbD j = true → m.getLsbD j = true ∧ v.getLsbD j = c.value.getLsbD j)
      ∧ (c.mask.getLsbD j = false → ∀ m' v', assoc c.key (mergeCb l) = some (m', v') →
        m.getLsbD j = m'.getLsbD j ∧ v.getLsbD j = v'.getLsbD j) := by
  have hmask : c.mask.toNat ≠ 0 := fun h => hc (BitVec.eq_of_toNat_eq h)
  have hget := (congrArg (assoc c.key) (mergeCb_concat l c)).trans
    ((assoc_pend (mergeCb l) c.key c.mask.toNat c.value.toNat c.key).trans (if_pos ⟨hmask, rfl⟩))
  refine ⟨_, _, hget, fun hj => ?_, fun hj m' v' h' => ?_⟩
  · have hlt : j < 32 := BitVec.lt_of_getLsbD hj
    simp only [BitVec.ofNat_toNat, BitVec.setWidth_eq, BitVec.getLsbD_or, hj, Bool.or_true, BitVec.getLsbD_ofNat, hlt,
      decide_true, Bool.true_and, testBit_mergeBits, BitVec.testBit_toNat, if_true, and_self]
  · rw [h', Option.getD_some]
    simp only [BitVec.ofNat_toNat, BitVec.setWidth_eq, BitVec.getLsbD_or, hj, Bool.or_false, BitVec.getLsbD_ofNat,
      testBit_mergeBits, BitVec.testBit_toNat, Bool.false_eq_true, if_false, true_and]
    by_cases hlt : j < 32
    · simp [hlt]
    · simp [hlt, BitVec.getLsbD_of_ge v' j (Nat.le_of_not_lt hlt)]

/-! ### Pending copies applied -/

/-- A word whose bits of a mask are taken from another. -/
theorem getLsbD_mergeBits (old new : Word) (mask j : Nat) :
    (BitVec.ofNat 32 (mergeBits old.toNat new.toNat mask)).getLsbD j
      = if mask.testBit j then new.getLsbD j else old.getLsbD j := by
  rw [BitVec.getLsbD_ofNat, testBit_mergeBits, BitVec.testBit_toNat, BitVec.testBit_toNat]
  by_cases h : j < 32
  · simp [h]
  · simp [h, BitVec.getLsbD_of_ge old j (Nat.le_of_not_lt h), BitVec.getLsbD_of_ge new j (Nat.le_of_not_lt h)]

theorem getLsbD_commitWord (s : State) (k : Nat) (m v : Word) (j : Nat) :
    (regWord (commitWord s (k, (m, v))) k).getLsbD j = if m.getLsbD j then v.getLsbD j else (regWord s k).getLsbD j := by
  rw [commitWord, regWord_setWord_same, getLsbD_mergeBits, BitVec.testBit_toNat]

theorem regWord_commitWord_other (s : State) {p : Nat × (Word × Word)} {k : Nat} (h : k ≠ p.1) :
    regWord (commitWord s p) k = regWord s k := regWord_setWord_other _ _ h

/-- A register without a pending copy holds. -/
theorem regWord_commitWords_other (s : State) (l : List (Nat × (Word × Word))) {k : Nat} (h : k ∉ l.map Prod.fst) :
    regWord (l.foldl commitWord s) k = regWord s k := by
  induction l generalizing s with
  | nil => rfl
  | cons p l ih =>
    obtain ⟨hp, hl⟩ := not_or.1 (mt List.mem_cons.2 h)
    exact (ih _ hl).trans (regWord_commitWord_other s hp)

/-- Each register with a pending copy has its masked bits from it. -/
theorem getLsbD_commitWords (s : State) {l : List (Nat × (Word × Word))} (hl : (l.map Prod.fst).Nodup) {k : Nat}
    {m v : Word} (h : (k, (m, v)) ∈ l) (j : Nat) :
    (regWord (l.foldl commitWord s) k).getLsbD j = if m.getLsbD j then v.getLsbD j else (regWord s k).getLsbD j := by
  induction l generalizing s with
  | nil => cases h
  | cons p l ih =>
    obtain ⟨hp, hl⟩ := List.nodup_cons.1 hl
    rcases List.mem_cons.1 h with e | h
    · subst e
      rw [List.foldl_cons, regWord_commitWords_other _ l hp, getLsbD_commitWord]
    · have hne : k ≠ p.1 := fun e => hp (e ▸ List.mem_map_of_mem h)
      rw [List.foldl_cons, ih _ hl h, regWord_commitWord_other s hne]

theorem mem_commitWords (s : State) (l : List (Nat × (Word × Word))) : (l.foldl commitWord s).mem = s.mem := by
  induction l generalizing s with
  | nil => rfl
  | cons p l ih => exact ih _

theorem regWord_commitFb {s : State} {key mask : Nat} {m v : Word} (h : assoc key s.pendFb = some (m, v)) :
    regWord (commitFb s key mask) key
      = BitVec.ofNat 32 (mergeBits (regWord s key).toNat v.toNat (m.toNat &&& mask)) := by
  rw [commitFb, h]
  exact regWord_setWord_same _ _ _

theorem getLsbD_commitFb {s : State} {key mask : Nat} {m v : Word} (h : assoc key s.pendFb = some (m, v)) (j : Nat) :
    (regWord (commitFb s key mask) key).getLsbD j
      = if m.getLsbD j && mask.testBit j then v.getLsbD j else (regWord s key).getLsbD j := by
  rw [regWord_commitFb h, getLsbD_mergeBits, Nat.testBit_and, BitVec.testBit_toNat]

theorem regWord_commitFb_other (s : State) {key k : Nat} (mask : Nat) (h : k ≠ key) :
    regWord (commitFb s key mask) k = regWord s k := by
  unfold commitFb
  split
  · exact regWord_setWord_other s _ h
  · rfl

theorem mem_commitFb (s : State) (key mask : Nat) : (commitFb s key mask).mem = s.mem := by
  unfold commitFb
  split <;> rfl

/-! ### The boundary's first order while HOLD is 1 -/

/-- A retuned class has another working alpha at most. -/
theorem retuneAlpha_cases (s : State) (c : Nat) :
    retuneAlpha s c = s ∨ ∃ n, retuneAlpha s c = setF s (F.PLZ_CLASS_STAT_ALPHA_NOW c) n := by
  fun_cases retuneAlpha s c
  case case2 | case4 => exact .inr ⟨_, rfl⟩
  all_goals exact .inl rfl

/-- The state that differs from `s` in Plaza's registers and record at most. -/
def plazaOnly (s t : State) : Prop :=
  t = { s with regs := t.regs, plaza := t.plaza } ∧ ∀ k < keyOf unitPLZ 0, regWord t k = regWord s k

theorem plazaOnly_retuneAlpha {s t : State} (h : plazaOnly s t) (c : Nat) : plazaOnly s (retuneAlpha t c) := by
  obtain ⟨ht, hk⟩ := h
  rcases retuneAlpha_cases t c with e | ⟨n, e⟩
  · rw [e]
    exact ⟨ht, hk⟩
  · rw [e]
    refine ⟨?_, fun k hlt => (regWord_setWord_other t _ ?_).trans (hk k hlt)⟩
    · rw [setF_frame, ht]
    · simp only [keyOf, unitPLZ, F.PLZ_CLASS_STAT_ALPHA_NOW] at *
      omega

theorem plazaOnly_retuneAll (s : State) : plazaOnly s (retuneAll s) := by
  have hfold (l : List Nat) (t : State) (h : plazaOnly s t) : plazaOnly s (l.foldl retuneAlpha t) := by
    induction l generalizing t with
    | nil => exact h
    | cons c l ih => exact ih _ (plazaOnly_retuneAlpha h c)
  obtain ⟨ht, hk⟩ := hfold (upTo 8) s ⟨rfl, fun _ _ => rfl⟩
  refine ⟨?_, hk⟩
  rw [retuneAll]
  dsimp only
  rw [ht]
  rfl

theorem takeNodeId_of_none {s : State} (h : s.dev.newNodeId = none) : takeNodeId s = s := by
  rw [takeNodeId, h]

theorem holding_congr {s t : State} (h : ∀ k < keyOf unitPLZ 0, regWord t k = regWord s k) : holding t = holding s := by
  have hw : regWord t F.SYS_COMMIT_CTL_HOLD.key = regWord s F.SYS_COMMIT_CTL_HOLD.key := h _ (by decide)
  simp only [holding, flag, getF_congr hw]

/-- Where neither a delta, the peer's pin nor a node ID waits for the boundary, its first order under HOLD counts the cycle
and applies no pending copy. -/
theorem orderOne_of_holding {s : State} (ht : twinLive s = false) (hp : pinMismatch s = false)
    (hn : s.dev.newNodeId = none) (hh : holding s = true) :
    ∃ t, orderOne s = incSat t F.SYS_COMMIT_STAT_HELD_CYCLES
      ∧ t = { s with regs := t.regs, plaza := t.plaza, twin := t.twin }
      ∧ ∀ k < keyOf unitPLZ 0, regWord t k = regWord s k := by
  have hdelta : takeDelta s = s := by simp [takeDelta, ht]
  have hpin : checkPeerPin s = s.withTwin { s.twin with pinFault := false } := by simp [checkPeerPin, hp]
  obtain ⟨hframe, hk⟩ := plazaOnly_retuneAll (s.withTwin { s.twin with pinFault := false })
  refine ⟨retuneAll (s.withTwin { s.twin with pinFault := false }), ?_, ?_, hk⟩
  · have hnode : (retuneAll (s.withTwin { s.twin with pinFault := false })).dev.newNodeId = none := by
      rw [hframe]
      exact hn
    rw [orderOne, hdelta, hpin, takeNodeId_of_none hnode]
    exact if_pos ((holding_congr hk).trans hh)
  · rw [hframe]
    rfl

/-- A counter that stops at its maximum. -/
theorem getF_incSat (s : State) (f : Fld) (h : f.lo + f.width ≤ 32) :
    getF (incSat s f) f = min (2 ^ f.width - 1) (getF s f + 1) := by
  have hlt := getF_lt s f
  unfold incSat
  split
  next hs => rw [getF_setF_same s f _ h, Nat.mod_eq_of_lt hs, Nat.min_eq_right (by omega)]
  next hs => rw [Nat.min_eq_left (by omega)]; omega

/-! ### FB commits by command -/

theorem exec_fbCommit_mac {s : State} {p : Nat} (hp : p < s.ident.variant.accPorts) :
    exec (.fbCommit unitACC p) s = .next (commitMac s p) := by
  change Host.Outcome.next _ = _
  rw [if_neg (fun h => absurd h.1 (by decide)), if_pos ⟨rfl, hp⟩]

theorem exec_fbCommit_ptp {s : State} {p : Nat} (hp : p < s.ident.variant.accPorts) :
    exec (.fbCommit unitTIM p) s = .next (commitPtp s p) := by
  change Host.Outcome.next _ = _
  rw [if_neg (fun h => absurd h.1 (by decide)), if_neg (fun h => absurd h.1 (by decide)), if_pos ⟨rfl, hp⟩]

theorem exec_fbCommit_bus {s : State} {c : Nat} (hc : hasBus s c = true) :
    exec (.fbCommit unitBUS c) s = .next (commitBus s c) := by
  change Host.Outcome.next _ = _
  rw [if_pos ⟨rfl, hc⟩]

/-- The two PTP masks of a group of ports are registers of their own. -/
theorem ptpKeys_ne (w : Nat) : (F.TIM_PTP_EN_PORTS w).key ≠ (F.TIM_PTP_TS2_PORTS w).key := by
  simp only [F.TIM_PTP_EN_PORTS, F.TIM_PTP_TS2_PORTS]
  omega

theorem regWord_commitPtp_other (s : State) (p : Nat) {k : Nat} (he : k ≠ (F.TIM_PTP_EN_PORTS (p / 32)).key)
    (ht : k ≠ (F.TIM_PTP_TS2_PORTS (p / 32)).key) : regWord (commitPtp s p) k = regWord s k :=
  (regWord_commitFb_other _ _ ht).trans (regWord_commitFb_other s _ he)

/-- Of the pending mask of ports only the port's own bit becomes active. -/
theorem getLsbD_commitPtp {s : State} {p : Nat} {m v : Word}
    (h : assoc (F.TIM_PTP_EN_PORTS (p / 32)).key s.pendFb = some (m, v)) (j : Nat) :
    (regWord (commitPtp s p) (F.TIM_PTP_EN_PORTS (p / 32)).key).getLsbD j
      = if m.getLsbD j && decide (j = p % 32) then v.getLsbD j
        else (regWord s (F.TIM_PTP_EN_PORTS (p / 32)).key).getLsbD j := by
  rw [commitPtp, regWord_commitFb_other _ _ (ptpKeys_ne _), getLsbD_commitFb h, Nat.testBit_two_pow]
  simp only [eq_comm]

/-- Settles O14: by the laws of the merged writes, of the copies applied and of the boundary's first order. -/
theorem commitAppliesPending : Obligations.CommitAppliesPending := by
  refine ⟨fun s p hp => ?due, fun l => (keysRise_mergeCb l).imp Nat.ne_of_lt, fun l c j hc => mergeCb_last l c j hc,
    fun s l hl => ⟨fun k m v h j => getLsbD_commitWords s hl h j, fun k hk => regWord_commitWords_other s l hk,
      mem_commitWords s l⟩,
    fun s ht hp hn hh => ?held, fun s key mask m v h j => getLsbD_commitFb h j, fun s p hp => exec_fbCommit_mac hp,
    fun s p hp => ⟨_, exec_fbCommit_ptp hp, fun k hk => ?ptpKept, fun a => ?ptpMem, fun m v h j _ => ?ptpBits⟩,
    fun s c hc => exec_fbCommit_bus hc⟩
  case due =>
    obtain ⟨c, hc, e⟩ := mergeCb_keys _ p.1 (List.mem_map_of_mem hp)
    obtain ⟨hmem, hat⟩ := List.mem_filter.1 hc
    exact ⟨c, hmem, e, of_decide_eq_true hat⟩
  case held =>
    obtain ⟨t, e, hframe, hk⟩ := orderOne_of_holding ht hp hn hh
    have hw : regWord t F.SYS_COMMIT_STAT_HELD_CYCLES.key = regWord s F.SYS_COMMIT_STAT_HELD_CYCLES.key := hk _ (by decide)
    rw [e]
    refine ⟨?_, ?_, ?_, (getF_incSat t _ (by decide)).trans (by rw [getF_congr hw]; rfl)⟩
    all_goals rw [incSat_frame, hframe]
  case ptpKept =>
    obtain ⟨he, ht⟩ : _ ∧ _ := by simpa using hk
    exact regWord_commitPtp_other s p he ht
  case ptpMem => rw [memByte, commitPtp, mem_commitFb, mem_commitFb, memByte]
  case ptpBits => exact getLsbD_commitPtp h j

end Sys2Proof.Machine

/-! # Proofs: Arcade engines -/

namespace Sys2Proof.Machine

/-! ### Fields -/

/-- Every register but that of the field keeps its word. -/
theorem regWord_setF_other (s : State) {f : Fld} (n : Nat) {k : Nat} (h : k ≠ f.key) :
    regWord (setF s f n) k = regWord s k := regWord_setWord_other s _ h

/-- A field written with its own value leaves its word. -/
theorem regWord_setF_self (s : State) {f : Fld} {n : Nat} (h : getF s f = n) (k : Nat) :
    regWord (setF s f n) k = regWord s k := by
  by_cases hk : k = f.key
  · subst hk
    refine BitVec.eq_of_getLsbD_eq fun i hi => ?_
    rw [regWord_setF, if_pos rfl, BitVec.getLsbD_ofNat, testBit_insertBits, ← h, getF, testBit_bitsAt]
    by_cases hin : f.lo ≤ i ∧ i < f.lo + f.width
    · rw [if_pos hin, Nat.add_sub_of_le hin.1]
      simp only [hi, show i - f.lo < f.width by omega, decide_true, Bool.true_and, BitVec.testBit_toNat]
    · simp only [hin, hi, decide_true, Bool.true_and, if_false, BitVec.testBit_toNat]
  · exact regWord_setF_other s n hk

/-- A field that fills its register reads as the whole word. -/
theorem ofNat_getF_whole (s : State) {f : Fld} (hlo : f.lo = 0) (hw : f.width = 32) :
    BitVec.ofNat 32 (getF s f) = regWord s f.key := by
  rw [getF, bitsAt, hlo, hw, Nat.shiftRight_zero, Nat.mod_eq_of_lt (BitVec.isLt _), BitVec.ofNat_toNat,
    BitVec.setWidth_eq]

/-! ### Engines and what leaves them alone -/

@[simp] theorem engineOf_setEngine_same (s : State) (e : Nat) (x : Engine) : engineOf (setEngine s e x) e = x := by
  rw [engineOf_setEngine, if_pos rfl]

theorem engineOf_setEngine_other (s : State) {e k : Nat} (x : Engine) (h : k ≠ e) :
    engineOf (setEngine s e x) k = engineOf s k := by
  rw [engineOf_setEngine, if_neg h]

@[simp] theorem engineOf_setF (s : State) (f : Fld) (n k : Nat) : engineOf (setF s f n) k = engineOf s k := rfl
@[simp] theorem engineOf_setFlag (s : State) (f : Fld) (b : Bool) (k : Nat) :
    engineOf (setFlag s f b) k = engineOf s k := rfl
@[simp] theorem engineOf_addF (s : State) (f : Fld) (n k : Nat) : engineOf (addF s f n) k = engineOf s k := rfl
@[simp] theorem engineOf_arcErr (s : State) (f : Fld) (e k : Nat) : engineOf (arcErr s f e) k = engineOf s k := rfl
@[simp] theorem regWord_setEngine (s : State) (e : Nat) (x : Engine) (k : Nat) :
    regWord (setEngine s e x) k = regWord s k := rfl
@[simp] theorem getF_setEngine (s : State) (e : Nat) (x : Engine) (f : Fld) : getF (setEngine s e x) f = getF s f := rfl

/-- Only registers and engines change. -/
def arcOnly (s t : State) : Prop := t = { s with regs := t.regs, engines := t.engines }

section
variable {s t : State}

protected theorem arcOnly.refl (s : State) : arcOnly s s := rfl

protected theorem arcOnly.setF (h : arcOnly s t) (f : Fld) (n : Nat) : arcOnly s (setF t f n) := by
  rw [arcOnly, setF_frame, h]

protected theorem arcOnly.setEngine (h : arcOnly s t) (e : Nat) (x : Engine) : arcOnly s (setEngine t e x) := by
  rw [arcOnly, h]
  rfl

protected theorem arcOnly.mem (h : arcOnly s t) : t.mem = s.mem := by rw [h]
protected theorem arcOnly.outs (h : arcOnly s t) : t.outs = s.outs := by rw [h]
protected theorem arcOnly.hasEngine (h : arcOnly s t) (e : Nat) : hasEngine t e = hasEngine s e := by
  rw [h]
  rfl

/-! ### Loop bounds and starts -/

protected theorem arcOnly.applyBounds (h : arcOnly s t) (e : Nat) : arcOnly s (applyBounds t e) := by
  unfold applyBounds
  split
  · exact ((h.setEngine e _).setF _ _).setF _ _
  · exact h

protected theorem arcOnly.startEngine (h : arcOnly s t) (e : Nat) (b : Bool) : arcOnly s (startEngine t e b) :=
  (h.applyBounds e).setEngine e _

protected theorem arcOnly.restartEngine (h : arcOnly s t) (e : Nat) : arcOnly s (restartEngine t e) := by
  unfold restartEngine
  split
  · exact h
  · exact h.startEngine e _

protected theorem arcOnly.engineOff (h : arcOnly s t) (e : Nat) : arcOnly s (engineOff t e) :=
  (h.setEngine e _).setEngine e _

protected theorem arcOnly.haltEngine (h : arcOnly s t) (e : Nat) : arcOnly s (haltEngine t e) := by
  unfold haltEngine
  dsimp only
  split
  · exact h.setEngine e _
  · exact h

protected theorem arcOnly.flushTx (h : arcOnly s t) (e : Nat) : arcOnly s (flushTx t e) := h.setEngine e _
protected theorem arcOnly.flushRx (h : arcOnly s t) (e : Nat) : arcOnly s (flushRx t e) := h.setEngine e _

protected theorem arcOnly.ite {c : Prop} {_ : Decidable c} {a b : State} (ha : arcOnly s a) (hb : arcOnly s b) :
    arcOnly s (if c then a else b) := by
  split
  · exact ha
  · exact hb

end

theorem engineOf_applyBounds_same (s : State) (e : Nat) :
    engineOf (applyBounds s e) e = { engineOf s e with loopPend := none } := by
  unfold applyBounds
  split
  · simp
  next h => rw [← h]

theorem engineOf_applyBounds_other (s : State) {e k : Nat} (h : k ≠ e) :
    engineOf (applyBounds s e) k = engineOf s k := by
  unfold applyBounds
  split
  · simp [engineOf_setEngine_other s _ h]
  · rfl

/-- Applying buffered bounds changes the two bounds of the engine alone. -/
theorem getF_applyBounds (s : State) (e : Nat) (f : Fld)
    (h : f.key ≠ (F.ARC_E_CFG_ENTRY e).key ∨ f.lo + f.width ≤ 6 ∨ 18 ≤ f.lo) :
    getF (applyBounds s e) f = getF s f := by
  unfold applyBounds
  split
  next a b _ =>
    have hend : f.key ≠ (F.ARC_E_CFG_LOOP_END e).key ∨ f.lo + f.width ≤ 12 ∨ 12 + 6 ≤ f.lo := by
      refine h.imp_right fun h => ?_
      omega
    have hstart : f.key ≠ (F.ARC_E_CFG_LOOP_START e).key ∨ f.lo + f.width ≤ 6 ∨ 6 + 6 ≤ f.lo := by
      refine h.imp_right fun h => ?_
      omega
    rw [getF_setF_other _ (F.ARC_E_CFG_LOOP_END e) f b (show 12 + 6 ≤ 32 by decide) hend,
      getF_setF_other _ (F.ARC_E_CFG_LOOP_START e) f a (show 6 + 6 ≤ 32 by decide) hstart, getF_setEngine]
  · rfl

theorem regWord_applyBounds_other (s : State) {e k : Nat} (h : k ≠ (F.ARC_E_CFG_ENTRY e).key) :
    regWord (applyBounds s e) k = regWord s k := by
  unfold applyBounds
  split
  · rw [regWord_setF_other _ (f := F.ARC_E_CFG_LOOP_END e) _ h, regWord_setF_other _ (f := F.ARC_E_CFG_LOOP_START e) _ h,
      regWord_setEngine]
  · rfl

/-- Whether a start leaves an engine Armed. -/
def startsArmed (s : State) (e : Nat) (byFiring : Bool) : Bool :=
  (getF s (F.ARC_E_CFG_START e) = 1 || getF s (F.ARC_E_CFG_START e) = 2) && !byFiring

/-- What an engine is after a start (R256). -/
def startedEngine (s : State) (e : Nat) (byFiring : Bool) : Engine :=
  { engineOf s e with
    loopPend := none
    state := if startsArmed s e byFiring then .armed else .running
    row := getF s (F.ARC_E_CFG_ENTRY e)
    dsr := 0, gtr := 0, dsrLeft := 0, gtrHave := 0, sbit := false, dirty := false
    x := regWord s (F.ARC_E_XA_VALUE e).key, y := regWord s (F.ARC_E_YA_VALUE e).key
    acc := 0, accAt := s.mono, force := !startsArmed s e byFiring, oldDiv := none }

theorem engineOf_startEngine_same (s : State) (e : Nat) (byFiring : Bool) :
    engineOf (startEngine s e byFiring) e = startedEngine s e byFiring := by
  have hstart : getF (applyBounds s e) (F.ARC_E_CFG_START e) = getF s (F.ARC_E_CFG_START e) :=
    getF_applyBounds s e _ (.inr (.inr (show 18 ≤ 28 by decide)))
  have hentry : getF (applyBounds s e) (F.ARC_E_CFG_ENTRY e) = getF s (F.ARC_E_CFG_ENTRY e) :=
    getF_applyBounds s e _ (.inr (.inl (show 0 + 6 ≤ 6 by decide)))
  have hx : regWord (applyBounds s e) (F.ARC_E_XA_VALUE e).key = regWord s (F.ARC_E_XA_VALUE e).key :=
    regWord_applyBounds_other s (by simp only [F.ARC_E_XA_VALUE, F.ARC_E_CFG_ENTRY]; omega)
  have hy : regWord (applyBounds s e) (F.ARC_E_YA_VALUE e).key = regWord s (F.ARC_E_YA_VALUE e).key :=
    regWord_applyBounds_other s (by simp only [F.ARC_E_YA_VALUE, F.ARC_E_CFG_ENTRY]; omega)
  have hm : (applyBounds s e).mono = s.mono := by rw [(arcOnly.refl s).applyBounds e]
  rw [startEngine, engineOf_setEngine_same]
  dsimp only
  rw [engineOf_applyBounds_same, hstart, hentry, ofNat_getF_whole _ (f := F.ARC_E_XA_VALUE e) rfl rfl,
    ofNat_getF_whole _ (f := F.ARC_E_YA_VALUE e) rfl rfl, hx, hy, hm]
  rfl

theorem engineOf_startEngine_other (s : State) {e k : Nat} (byFiring : Bool) (h : k ≠ e) :
    engineOf (startEngine s e byFiring) k = engineOf s k :=
  (engineOf_setEngine_other _ _ h).trans (engineOf_applyBounds_other s h)

/-! ### Commands that stand for a register write with an effect -/

/-- A write command that has been carried out: the twin hears of it, and the code goes out. -/
def answered (s : State) (r : DeltaRec) : State := output (twinNote s r) (.code codeOK)

theorem answered_frame (s : State) (r : DeltaRec) :
    answered s r = { s with outs := s.outs ++ [.code codeOK], twin := (twinNote s r).twin } := by
  rw [answered, twinNote_frame]
  rfl

@[simp] theorem answered_outs (s : State) (r : DeltaRec) : (answered s r).outs = s.outs ++ [.code codeOK] := by
  rw [answered_frame]

@[simp] theorem answered_mem (s : State) (r : DeltaRec) : (answered s r).mem = s.mem := by
  rw [answered_frame]

@[simp] theorem regWord_answered (s : State) (r : DeltaRec) (k : Nat) : regWord (answered s r) k = regWord s k := by
  rw [answered_frame]
  rfl

@[simp] theorem getF_answered (s : State) (r : DeltaRec) (f : Fld) : getF (answered s r) f = getF s f :=
  getF_congr (regWord_answered s r _)

@[simp] theorem flag_answered (s : State) (r : DeltaRec) (f : Fld) : flag (answered s r) f = flag s f := by
  simp only [flag, getF_answered]

@[simp] theorem engineOf_answered (s : State) (r : DeltaRec) (e : Nat) : engineOf (answered s r) e = engineOf s e := by
  rw [answered_frame]
  rfl

theorem noteWrite_ok (u off w : Nat) (t : State) :
    noteWrite u off w (t, codeOK) = (twinNote t (.regWrite u off (BitVec.ofNat 32 w)), codeOK) := if_pos rfl

theorem writeReg_of_hook {s t : State} {u off w : Nat} {d : RegDef} {idx : List Nat} {who : Origin}
    (hab : absentAt s u off = false) (hf : filterOffset u off = false) (hr : regAt (keyOf u off) = some (d, idx))
    (hi : hasInst s d.pres idx = true) (hk : hookWrite s who d u off (keyOf u off) w = some (t, codeOK)) :
    writeReg s who u off w = (twinNote t (.regWrite u off (BitVec.ofNat 32 w)), codeOK) := by
  rw [← noteWrite_ok]
  simp [writeReg, hab, hf, hr, hi, hk]

theorem writeCommand_of_write {s t : State} {u off w : Nat} {r : DeltaRec}
    (h : commandWrite s u off w = (twinNote t r, codeOK)) : writeCommand s u off w = answered t r := by
  rw [writeCommand, h]
  rfl

/-- A write of a present register whose effect is accepted is carried out. -/
theorem writeCommand_of_hook {s t : State} {u off w : Nat} {d : RegDef} {idx : List Nat} (hl : live s u = true)
    (hu : u ≤ 0x10) (ho : off < 0x10000) (ha : off % 4 = 0) (hab : absentAt s u off = false)
    (hf : filterOffset u off = false) (hr : regAt (keyOf u off) = some (d, idx)) (hi : hasInst s d.pres idx = true)
    (hk : hookWrite s .mgt d u off (keyOf u off) w = some (t, codeOK)) :
    writeCommand s u off w = answered t (.regWrite u off (BitVec.ofNat 32 w)) :=
  writeCommand_of_write ((commandWrite_eq_writeReg hl hu ho ha w).trans (writeReg_of_hook hab hf hr hi hk))

/-! ### The registers of the Arcades -/

/-- The offset of ARC_Ee_CTL. -/
def engineCtl (e : Nat) : Nat := 0x1000 + 0x80 * e + 0x38

theorem engine_lt {s : State} {e : Nat} (he : hasEngine s e = true) : e < 64 := by
  have hle : s.ident.variant.engines ≤ 64 := by cases s.ident.variant <;> decide
  exact Nat.lt_of_lt_of_le (of_decide_eq_true he) hle

/-- CTL is a register of each engine. -/
theorem regAt_engineCtl : ∀ e < 64,
    (regAt (keyOf unitARC (engineCtl e))).map (fun p => (p.1.pres, p.2)) = some (.engine, [e]) := by
  decide +kernel

theorem instBlocks_arc : instBlocks unitARC
    = [(0x10, 4, 8, .arcade), (0x1000, 0x80, 64, .engine), (0x10000, 0x200, 64, .engine), (0x18000, 0x40, 64, .engine)] :=
  rfl

theorem hasInst_engine (s : State) (e : Nat) : hasInst s .engine [e] = hasEngine s e := Bool.and_true _

theorem absentAt_engineCtl {s : State} {e : Nat} (he : hasEngine s e = true) :
    absentAt s unitARC (engineCtl e) = false := by
  have hlt := engine_lt he
  have hidx : (engineCtl e - 0x1000) / 0x80 = e := by
    unfold engineCtl
    omega
  have harc : ¬ engineCtl e < 0x10 + 4 * 8 := by unfold engineCtl; omega
  have hprog : ¬ 0x10000 ≤ engineCtl e := by unfold engineCtl; omega
  have hfifo : ¬ 0x18000 ≤ engineCtl e := by unfold engineCtl; omega
  simp only [absentAt, instBlocks_arc, List.any_cons, List.any_nil, harc, hprog, hfifo, decide_false, Bool.false_and,
    Bool.and_false, Bool.or_false, hidx, hasInst_engine, he, Bool.not_true]

theorem hookARC_engineCtl (s : State) {e : Nat} (h : e < 64) (w : Nat) :
    hookARC s (engineCtl e) w = some (writeEngineCtl s e w, codeOK) := by
  have hlo : ¬ (0x10 ≤ engineCtl e ∧ engineCtl e < 0x30) := by unfold engineCtl; omega
  have hin : 0x1000 ≤ engineCtl e ∧ engineCtl e < 0x3000 := by unfold engineCtl; omega
  have he : (engineCtl e - 0x1000) / 0x80 = e := by unfold engineCtl; omega
  have ho : engineCtl e % 0x80 = 0x38 := by unfold engineCtl; omega
  rw [hookARC, if_neg hlo, if_pos hin]
  dsimp only
  rw [he, ho]
  rfl

theorem hookWrite_arc (s : State) (who : Origin) (d : RegDef) (off key w : Nat) :
    hookWrite s who d unitARC off key w = hookARC s off w := rfl

theorem filterOffset_arc (off : Nat) : filterOffset unitARC off = false := rfl

/-- The write of CTL of an engine of the part is carried out. -/
theorem engineWrite_ctl {s : State} {e : Nat} (hl : live s unitARC = true) (he : hasEngine s e = true) (w : Nat) :
    ∃ r, engineWrite s e 0x38 w = answered (writeEngineCtl s e w) r := by
  have hlt := engine_lt he
  obtain ⟨⟨d, idx⟩, hr, hp⟩ := Option.map_eq_some_iff.1 (regAt_engineCtl e hlt)
  obtain ⟨hpres, hidx⟩ : d.pres = .engine ∧ idx = [e] := Prod.mk.inj hp
  have hi : hasInst s d.pres idx = true := by rw [hpres, hidx, hasInst_engine, he]
  refine ⟨_, (if_pos ⟨hlt, by decide⟩).trans (writeCommand_of_hook (off := engineCtl e) hl (by decide) ?_ ?_
    (absentAt_engineCtl he) (filterOffset_arc _) hr hi
    ((hookWrite_arc s .mgt d _ _ w).trans (hookARC_engineCtl s hlt w)))⟩
  · unfold engineCtl
    omega
  · unfold engineCtl
    omega

/-! ### The registers of the Arcades: a group's restart -/

theorem arcade_lt {s : State} {n : Nat} (h : n < s.ident.variant.arcades) : n < 8 := by
  have hle : s.ident.variant.arcades ≤ 8 := by cases s.ident.variant <;> decide
  exact Nat.lt_of_lt_of_le h hle

theorem regAt_arcadeRestart : ∀ n < 8,
    (regAt (keyOf unitARC (0x10 + 4 * n))).map (fun p => (p.1.pres, p.2)) = some (.arcade, [n]) := by
  decide +kernel

theorem hasInst_arcade (s : State) (n : Nat) : hasInst s .arcade [n] = decide (n < s.ident.variant.arcades) :=
  Bool.and_true _

theorem absentAt_arcadeRestart {s : State} {n : Nat} (h : n < s.ident.variant.arcades) :
    absentAt s unitARC (0x10 + 4 * n) = false := by
  have hlt := arcade_lt h
  have hidx : (0x10 + 4 * n - 0x10) / 4 = n := by omega
  have hblock : ¬ 0x1000 ≤ 0x10 + 4 * n := by omega
  have hprog : ¬ 0x10000 ≤ 0x10 + 4 * n := by omega
  have hfifo : ¬ 0x18000 ≤ 0x10 + 4 * n := by omega
  simp only [absentAt, instBlocks_arc, List.any_cons, List.any_nil, hblock, hprog, hfifo, decide_false, Bool.false_and,
    Bool.and_false, Bool.or_false, hidx, hasInst_arcade, h, decide_true, Bool.not_true]

theorem hookARC_arcadeRestart (s : State) {n : Nat} (h : n < 8) (w : Nat) :
    hookARC s (0x10 + 4 * n) w = some (restartGroup s n w, codeOK) := by
  have hn : (0x10 + 4 * n - 0x10) / 4 = n := by omega
  rw [hookARC, if_pos (by omega), hn]

theorem exec_arcadeGroupRestart {s : State} {n : Nat} (hl : live s unitARC = true) (h : n < s.ident.variant.arcades)
    (es : BitVec 8) :
    ∃ r, exec (.arcadeGroupRestart n es) s = .next (answered (restartGroup s n es.toNat) r) := by
  have hlt := arcade_lt h
  obtain ⟨⟨d, idx⟩, hr, hp⟩ := Option.map_eq_some_iff.1 (regAt_arcadeRestart n hlt)
  obtain ⟨hpres, hidx⟩ : d.pres = .arcade ∧ idx = [n] := Prod.mk.inj hp
  have hi : hasInst s d.pres idx = true := by rw [hpres, hidx, hasInst_arcade, decide_eq_true h]
  exact ⟨_, congrArg Host.Outcome.next ((if_pos hlt).trans (writeCommand_of_hook hl (by decide) (by omega) (by omega)
    (absentAt_arcadeRestart h) (filterOffset_arc _) hr hi
    ((hookWrite_arc s .mgt d _ _ _).trans (hookARC_arcadeRestart s hlt _))))⟩

/-! ### What a write of CTL does -/

/-- EN as it is: an engine that is on stays as it is. -/
theorem setEngineEn_of_on {s : State} {e : Nat} (h : (engineOf s e).state ≠ .off) :
    setEngineEn s e true = setFlag s (F.ARC_E_CTL_EN e) true := if_neg h

theorem setEngineEn_of_off {s : State} {e : Nat} (h : (engineOf s e).state = .off) :
    setEngineEn s e true = startEngine (setFlag s (F.ARC_E_CTL_EN e) true) e false := if_pos h

theorem setEngineEn_false {s : State} {e : Nat} (h : (engineOf s e).state ≠ .off) :
    setEngineEn s e false = engineOff (applyBounds (setFlag s (F.ARC_E_CTL_EN e) false) e) e := if_neg h

theorem writeEngineCtl_zero (s : State) (e : Nat) : writeEngineCtl s e 0 = setEngineEn s e false := rfl
theorem writeEngineCtl_en (s : State) (e : Nat) : writeEngineCtl s e 1 = setEngineEn s e true := rfl
theorem writeEngineCtl_halt (s : State) (e : Nat) :
    writeEngineCtl s e (withBit 1 1 true) = haltEngine (setEngineEn s e true) e := rfl
theorem writeEngineCtl_resume (s : State) (e : Nat) :
    writeEngineCtl s e (withBit 1 2 true) = resumeEngine (setEngineEn s e true) e := rfl
theorem writeEngineCtl_restart (s : State) (e : Nat) :
    writeEngineCtl s e (withBit 1 3 true) = restartEngine (setEngineEn s e true) e := rfl
theorem writeEngineCtl_flushTx (s : State) (e : Nat) :
    writeEngineCtl s e (withBit 1 4 true) = flushTx (setEngineEn s e true) e := rfl
theorem writeEngineCtl_flushRx (s : State) (e : Nat) :
    writeEngineCtl s e (withBit 1 5 true) = flushRx (setEngineEn s e true) e := rfl

/-- The state in which EN of an engine that is on has been written with the value it has. -/
def enKept (s : State) (e : Nat) : State := setFlag s (F.ARC_E_CTL_EN e) true

section
variable {s : State} {e : Nat}

theorem arcOnly_enKept (s : State) (e : Nat) : arcOnly s (enKept s e) := (arcOnly.refl s).setF _ _

@[simp] theorem engineOf_enKept (s : State) (e k : Nat) : engineOf (enKept s e) k = engineOf s k := rfl

theorem getF_of_flag {f : Fld} (h : flag s f = true) : getF s f = 1 := of_decide_eq_true h

theorem regWord_enKept (h : flag s (F.ARC_E_CTL_EN e) = true) (k : Nat) : regWord (enKept s e) k = regWord s k :=
  regWord_setF_self s (getF_of_flag h) k

/-- A command bit of CTL written beside EN as it is. -/
theorem engineCommand_ctl (hl : live s unitARC = true) (he : hasEngine s e = true)
    (h : flag s (F.ARC_E_CTL_EN e) = true) (bit : Nat) :
    ∃ r, engineCommand s e bit = answered (writeEngineCtl s e (withBit 1 bit true)) r := by
  rw [engineCommand, getF_of_flag h]
  exact engineWrite_ctl hl he _

/-! ### Halt, resume, restart, Off -/

theorem engineOf_haltEngine_same (s : State) (e : Nat) :
    engineOf (haltEngine s e) e = if (engineOf s e).state.enabled = true
      then { passForced (engineOf s e) with state := .halted, haltedFrom := (engineOf s e).state } else engineOf s e := by
  unfold haltEngine
  dsimp only
  split
  · exact engineOf_setEngine_same _ _ _
  · rfl

theorem engineOf_haltEngine_other (s : State) {k : Nat} (h : k ≠ e) : engineOf (haltEngine s e) k = engineOf s k := by
  unfold haltEngine
  dsimp only
  split
  · exact engineOf_setEngine_other _ _ h
  · rfl

theorem regWord_haltEngine (s : State) (e k : Nat) : regWord (haltEngine s e) k = regWord s k := by
  unfold haltEngine
  dsimp only
  split <;> rfl

theorem passForced_acc (x : Engine) : (passForced x).acc = if x.force then 0 else x.acc := by
  unfold passForced
  split <;> rfl

theorem catchUp_row (s : State) (e : Nat) (x : Engine) : (catchUp s e x).row = x.row := by
  unfold catchUp
  dsimp only
  split <;> rfl

/-- A resumed engine goes on where it was halted; one marked dirty, or not halted, stays as it is (R260). -/
theorem engineOf_resumeEngine_same (s : State) (e : Nat) :
    (engineOf (resumeEngine s e) e).state = (if (engineOf s e).state = .halted ∧ (engineOf s e).dirty = false
        then (engineOf s e).haltedFrom else (engineOf s e).state)
      ∧ (engineOf (resumeEngine s e) e).row = (engineOf s e).row := by
  unfold resumeEngine
  dsimp only
  by_cases hst : (engineOf s e).state = .halted
  · cases hd : (engineOf s e).dirty
    · simp [hst, catchUp_row]
    · simp [hst]
  · simp [hst]

theorem engineOf_resumeEngine_other (s : State) {k : Nat} (h : k ≠ e) :
    engineOf (resumeEngine s e) k = engineOf s k := by
  unfold resumeEngine
  dsimp only
  split
  · rfl
  · split
    · rfl
    · exact engineOf_setEngine_other _ _ h

/-- A flag of ARC_ERR stands with the engine that raised it. -/
theorem arcErr_shows (s : State) {f : Fld} (hlo : f.lo < 16) (hw : f.width = 1)
    (e : Nat) : flag (arcErr s f e) f = true ∧ getF (arcErr s f e) F.ARC_ERR_ENGINE = e % 64 := by
  constructor
  · have hbelow : f.lo + f.width ≤ 16 := by omega
    rw [arcErr, flag, getF_setF_other _ F.ARC_ERR_ENGINE f e (by decide) (.inr (.inl hbelow))]
    exact flag_setFlag_same s f true (by omega) hw
  · exact getF_setF_same _ _ _ (by decide)

theorem resumeEngine_of_dirty (hst : (engineOf s e).state = .halted) (hd : (engineOf s e).dirty = true) :
    resumeEngine s e = arcErr s F.ARC_ERR_RESUME_REFUSED e := by
  unfold resumeEngine
  simp [hst, hd]

theorem restartEngine_of_on (h : (engineOf s e).state ≠ .off) : restartEngine s e = startEngine s e false := if_neg h
theorem restartEngine_of_off (h : (engineOf s e).state = .off) : restartEngine s e = s := if_pos h

/-- A start looks at the engine, its CFG, XA and YA. -/
theorem startedEngine_congr {t : State} (he : engineOf t e = engineOf s e) (hm : t.mono = s.mono)
    (hc : regWord t (F.ARC_E_CFG_ENTRY e).key = regWord s (F.ARC_E_CFG_ENTRY e).key)
    (hx : regWord t (F.ARC_E_XA_VALUE e).key = regWord s (F.ARC_E_XA_VALUE e).key)
    (hy : regWord t (F.ARC_E_YA_VALUE e).key = regWord s (F.ARC_E_YA_VALUE e).key) (b : Bool) :
    startedEngine t e b = startedEngine s e b := by
  have hstart : getF t (F.ARC_E_CFG_START e) = getF s (F.ARC_E_CFG_START e) := getF_congr hc
  have hentry : getF t (F.ARC_E_CFG_ENTRY e) = getF s (F.ARC_E_CFG_ENTRY e) := getF_congr hc
  have harmed : startsArmed t e b = startsArmed s e b := by rw [startsArmed, startsArmed, hstart]
  rw [startedEngine, he, hm, harmed, hentry, hx, hy]
  rfl

theorem startedEngine_setEn (s : State) (e : Nat) (on b : Bool) :
    startedEngine (setFlag s (F.ARC_E_CTL_EN e) on) e b = startedEngine s e b := by
  have hw {f : Fld} (h : f.key ≠ (F.ARC_E_CTL_EN e).key) :
      regWord (setFlag s (F.ARC_E_CTL_EN e) on) f.key = regWord s f.key := regWord_setF_other s _ h
  refine startedEngine_congr (t := setFlag s (F.ARC_E_CTL_EN e) on) (engineOf_setFlag ..) rfl (hw ?_) (hw ?_) (hw ?_) b
  all_goals
    simp only [F.ARC_E_CTL_EN, F.ARC_E_CFG_ENTRY, F.ARC_E_XA_VALUE, F.ARC_E_YA_VALUE]
    omega

theorem startedEngine_state (s : State) (e : Nat) : (startedEngine s e false).state
    = if getF s (F.ARC_E_CFG_START e) = 1 ∨ getF s (F.ARC_E_CFG_START e) = 2 then .armed else .running := by
  simp [startedEngine, startsArmed]

theorem engineOf_engineOff_same (s : State) (e : Nat) :
    (engineOf (engineOff s e) e).state = .off ∧ (engineOf (engineOff s e) e).loopPend = none
      ∧ (engineOf (engineOff s e) e).txf = (engineOf s e).txf ∧ (engineOf (engineOff s e) e).rxf = (engineOf s e).rxf := by
  simp [engineOff, idlePins]

theorem engineOf_engineOff_other (s : State) {k : Nat} (h : k ≠ e) : engineOf (engineOff s e) k = engineOf s k :=
  (engineOf_setEngine_other _ _ h).trans (engineOf_setEngine_other _ _ h)

/-- EN of an engine stands apart from its CFG. -/
theorem flag_en_applyBounds (s : State) (e : Nat) :
    flag (applyBounds s e) (F.ARC_E_CTL_EN e) = flag s (F.ARC_E_CTL_EN e) := by
  rw [flag, flag, getF_applyBounds s e _ (.inl (by simp only [F.ARC_E_CTL_EN, F.ARC_E_CFG_ENTRY]; omega))]

theorem flag_engineOff (s : State) (e : Nat) (f : Fld) : flag (engineOff s e) f = flag s f := rfl

theorem flag_startEngine (s : State) (e : Nat) (b : Bool) (f : Fld) :
    flag (startEngine s e b) f = flag (applyBounds s e) f := rfl

theorem flag_en_set (s : State) (e : Nat) (b : Bool) :
    flag (setFlag s (F.ARC_E_CTL_EN e) b) (F.ARC_E_CTL_EN e) = b :=
  flag_setFlag_same s _ b (show 0 + 1 ≤ 32 by decide) rfl

/-! ### The commands of one engine -/

/-- ENGINE_ENABLE starts an engine that is Off. -/
theorem exec_engineEnable (hl : live s unitARC = true) (he : hasEngine s e = true) (hoff : (engineOf s e).state = .off) :
    ∃ r, exec (.engineEnable e) s
      = .next (answered (startEngine (setFlag s (F.ARC_E_CTL_EN e) true) e false) r) := by
  obtain ⟨r, h⟩ := engineWrite_ctl hl he 1
  exact ⟨r, congrArg Host.Outcome.next (h.trans (by rw [writeEngineCtl_en, setEngineEn_of_off hoff]))⟩

theorem exec_engineDisable (hl : live s unitARC = true) (he : hasEngine s e = true)
    (hon : (engineOf s e).state ≠ .off) : ∃ r, exec (.engineDisable e) s
      = .next (answered (engineOff (applyBounds (setFlag s (F.ARC_E_CTL_EN e) false) e) e) r) := by
  obtain ⟨r, h⟩ := engineWrite_ctl hl he 0
  exact ⟨r, congrArg Host.Outcome.next (h.trans (by rw [writeEngineCtl_zero, setEngineEn_false hon]))⟩

/-- A command bit given to an engine that is on acts on the engine as it stands. -/
theorem engineCommand_of_on (hl : live s unitARC = true) (he : hasEngine s e = true)
    (hen : flag s (F.ARC_E_CTL_EN e) = true) (hon : (engineOf s e).state ≠ .off) {bit : Nat}
    {act : State → Nat → State}
    (hact : writeEngineCtl s e (withBit 1 bit true) = act (setEngineEn s e true) e) :
    ∃ r, engineCommand s e bit = answered (act (enKept s e) e) r := by
  obtain ⟨r, h⟩ := engineCommand_ctl hl he hen bit
  exact ⟨r, h.trans (by rw [hact, setEngineEn_of_on hon]; rfl)⟩

end

/-! ### A group's restart -/

/-- An engine of a group is restarted where its bit is set. -/
def groupStep (n w : Nat) (t : State) (m : Nat) : State :=
  if bitAt w m && hasEngine t (8 * n + m) then restartEngine t (8 * n + m) else t

protected theorem arcOnly.groupStep {s t : State} (h : arcOnly s t) (n w m : Nat) : arcOnly s (groupStep n w t m) :=
  .ite (h.restartEngine _) h

protected theorem arcOnly.groupSteps {s t : State} (h : arcOnly s t) (n w : Nat) (l : List Nat) :
    arcOnly s (l.foldl (groupStep n w) t) := by
  induction l generalizing t with
  | nil => exact h
  | cons m l ih => exact ih (h.groupStep n w m)

theorem restartGroup_eq (s : State) (n w : Nat) : restartGroup s n w = (upTo 8).foldl (groupStep n w) s := rfl

/-- An engine and its CFG are as they were. -/
def engineKept (s t : State) (k : Nat) : Prop :=
  engineOf t k = engineOf s k ∧ regWord t (F.ARC_E_CFG_ENTRY k).key = regWord s (F.ARC_E_CFG_ENTRY k).key

theorem engineKept_startEngine {s t : State} {e k : Nat} (h : engineKept s t k) (hk : k ≠ e) (b : Bool) :
    engineKept s (startEngine t e b) k := by
  obtain ⟨he, hc⟩ := h
  refine ⟨(engineOf_startEngine_other t b hk).trans he, (regWord_applyBounds_other t ?_).trans hc⟩
  simp only [F.ARC_E_CFG_ENTRY]
  omega

theorem engineKept_groupStep {s t : State} {n w m j : Nat} (h : engineKept s t (8 * n + m)) (hj : m ≠ j) :
    engineKept s (groupStep n w t j) (8 * n + m) := by
  unfold groupStep restartEngine
  split
  · split
    · exact h
    · exact engineKept_startEngine h (by omega) _
  · exact h

theorem engineKept_groupSteps {s t : State} {n w m : Nat} {l : List Nat} (h : engineKept s t (8 * n + m)) (hm : m ∉ l) :
    engineKept s (l.foldl (groupStep n w) t) (8 * n + m) := by
  induction l generalizing t with
  | nil => exact h
  | cons j l ih =>
    obtain ⟨hj, hl⟩ := not_or.1 (mt List.mem_cons.2 hm)
    exact ih (engineKept_groupStep h hj) hl

/-- What becomes of an engine whose group is restarted. -/
def groupOutcome (s t : State) (w m k : Nat) : Prop :=
  if bitAt w m = true ∧ (engineOf s k).state ≠ .off then
    (engineOf t k).row = getF s (F.ARC_E_CFG_ENTRY k) ∧ (engineOf t k).dirty = false
  else engineOf t k = engineOf s k

theorem groupOutcome_congr {s t u : State} {w m k : Nat} (h : groupOutcome s t w m k) (he : engineOf u k = engineOf t k) :
    groupOutcome s u w m k := by
  unfold groupOutcome
  rwa [he]

theorem groupOutcome_groupStep {s t : State} {n w m : Nat} (h : engineKept s t (8 * n + m))
    (he : hasEngine t (8 * n + m) = true) : groupOutcome s (groupStep n w t m) w m (8 * n + m) := by
  obtain ⟨heng, hcfg⟩ := h
  have hentry : getF t (F.ARC_E_CFG_ENTRY (8 * n + m)) = getF s (F.ARC_E_CFG_ENTRY (8 * n + m)) := getF_congr hcfg
  unfold groupOutcome groupStep
  rw [he, Bool.and_true]
  by_cases hbit : bitAt w m = true
  · by_cases hoff : (engineOf s (8 * n + m)).state = .off
    · rw [if_neg (fun h => h.2 hoff), if_pos hbit, restartEngine_of_off (heng ▸ hoff), heng]
    · rw [if_pos ⟨hbit, hoff⟩, if_pos hbit, restartEngine_of_on (heng ▸ hoff), engineOf_startEngine_same]
      exact ⟨hentry, rfl⟩
  · rw [if_neg (fun h => hbit h.1), if_neg hbit, heng]

theorem groupOutcome_groupSteps {s t : State} {n w m : Nat} {l : List Nat} (hl : l.Nodup) (hm : m ∈ l)
    (h : engineKept s t (8 * n + m)) (he : hasEngine t (8 * n + m) = true) :
    groupOutcome s (l.foldl (groupStep n w) t) w m (8 * n + m) := by
  induction l generalizing t with
  | nil => cases hm
  | cons j l ih =>
    obtain ⟨hj, hl⟩ := List.nodup_cons.1 hl
    by_cases e : m = j
    · subst e
      exact groupOutcome_congr (groupOutcome_groupStep h he) (engineKept_groupSteps ⟨rfl, rfl⟩ hj).1
    · exact ih hl ((List.mem_cons.1 hm).resolve_left e) (engineKept_groupStep h e)
        ((((arcOnly.refl t).groupStep n w j).hasEngine _).trans he)

/-! ### Rows -/

theorem exec_engineRowExecute {s : State} {e : Nat} {ext : BitVec 192} (hl : live s unitARC = true)
    (he : hasEngine s e = true) (hst : (engineOf s e).state = .running ∨ (engineOf s e).state = .stalled)
    (hdue : engineClockDue s e = true) (hecc : s.flt.eccWords = []) :
    exec (.engineRowExecute e ext) s
      = .next (runRow ((tickEngine s e).withPins { s.pins with gioExt := ext }) e ext) := by
  change Host.Outcome.next _ = _
  rw [if_pos ⟨hl, he, hst, hdue⟩]
  exact congrArg (fun t => Host.Outcome.next (runRow t e ext)) (eccTouch_clean _ _ _ (by exact hecc))

theorem runRow_of_stall {s : State} {e : Nat} {ext : BitVec 192} (h : shifterOp s e (rowWord s e) ext = none) :
    runRow s e ext = setEngine (incF s (F.ARC_E_STALL_COUNT e)) e { engineOf s e with state := .stalled } := by
  rw [runRow]
  dsimp only
  rw [h]
  rfl

/-- The state in which a row has counted and driven its pins. -/
def rowMoved (v : State) (e row : Nat) : State := drivePins (counters v e row) e row

theorem runRow_of_shift {s v : State} {e : Nat} {ext : BitVec 192} (h : shifterOp s e (rowWord s e) ext = some v) :
    runRow s e ext = nextRow (rowMoved v e (rowWord s e)) e (rowWord s e)
      (rowCondition (rowMoved v e (rowWord s e)) e (rowWord s e) ext) := by
  rw [runRow]
  dsimp only
  rw [h]
  rfl

/-- A row counts X and leaves its place, the bounds and the FIFOs to the other steps. -/
theorem engineOf_rowMoved (v : State) (e row : Nat) :
    (engineOf (rowMoved v e row) e).x = counterOp (bitsAt row 24 2) (engineOf v e).x
        (regWord v (F.ARC_E_XA_VALUE e).key) (regWord v (F.ARC_E_XB_VALUE e).key)
      ∧ (engineOf (rowMoved v e row) e).row = (engineOf v e).row
      ∧ (engineOf (rowMoved v e row) e).loopPend = (engineOf v e).loopPend
      ∧ (engineOf (rowMoved v e row) e).txf = (engineOf v e).txf
      ∧ (engineOf (rowMoved v e row) e).rxf = (engineOf v e).rxf := by
  simp [rowMoved, drivePins, counters]

theorem applyBounds_of_none {s : State} {e : Nat} (h : (engineOf s e).loopPend = none) : applyBounds s e = s := by
  rw [applyBounds, h]

/-- The row after this one: the branch target, the loop start or the next one (R244). -/
def rowAfter (s : State) (e row : Nat) (hit : Bool) : Nat :=
  if hit = true then bitsAt row 32 6
  else if (engineOf s e).row = getF s (F.ARC_E_CFG_LOOP_END e) then getF s (F.ARC_E_CFG_LOOP_START e)
  else ((engineOf s e).row + 1) % 64

theorem nextRow_of_none {s : State} {e : Nat} (h : (engineOf s e).loopPend = none) (row : Nat) (hit : Bool) :
    nextRow s e row hit = setEngine s e { engineOf s e with row := rowAfter s e row hit, state := .running } := by
  unfold nextRow
  simp only [applyBounds_of_none h, ite_self]
  rfl

/-! ### FIFOs -/

theorem flag_output (s : State) (o : OutEvent) (f : Fld) : flag (output s o) f = flag s f := rfl

theorem engineCode_of_live {s : State} {e : Nat} (hl : live s unitARC = true) (he : hasEngine s e = true) :
    engineCode s e = none := by
  rw [engineCode, (live_iff s unitARC).1 hl, he]
  rfl

theorem engineCode_of_absent {s : State} {e : Nat} (hl : live s unitARC = true) (he : hasEngine s e = false) :
    engineCode s e = some codeUNIT_ABSENT := by
  rw [engineCode, (live_iff s unitARC).1 hl, he]
  rfl

section
variable {s : State} {e : Nat}

theorem exec_txPush (hl : live s unitARC = true) (he : hasEngine s e = true) {ofs : Nat} {bs : List Byte}
    {p : State × Nat} (h : txPush s e ofs bs = p) : exec (.txPush e ofs bs) s = .next (output p.1 (.code p.2)) := by
  change Host.Outcome.next _ = _
  rw [engineCode_of_live hl he, ← h]

theorem exec_rxPop (hl : live s unitARC = true) (he : hasEngine s e = true) {len : Nat}
    {p : State × List Byte × Nat} (h : rxPop s e len = p) :
    exec (.rxPop e len) s
      = .next (output p.1 (.read p.2.2 (if p.2.2 = codeOK then p.2.1 else List.replicate len 0))) := by
  change Host.Outcome.next _ = _
  rw [engineCode_of_live hl he, ← h]

theorem exec_rxPop_ok (hl : live s unitARC = true) (he : hasEngine s e = true) {len : Nat} {t : State} {bs : List Byte}
    (h : rxPop s e len = (t, bs, codeOK)) : exec (.rxPop e len) s = .next (output t (.read codeOK bs)) :=
  (exec_rxPop hl he h).trans (congrArg (fun x => Host.Outcome.next (output t (.read codeOK x))) (if_pos rfl))

/-- Words that fit enter the TX FIFO behind those it holds, and are counted (R252). -/
theorem pushWords_of_fits (he : hasEngine s e = true) {ws : List Word}
    (h : (engineOf s e).txf.length + ws.length ≤ txCap s e) :
    ∃ flt, pushWords s e ws = some (addF (setEngine (s.withFlt flt) e
      { engineOf s e with txf := (engineOf s e).txf ++ ws }) (F.ARC_E_TX_WORDS_COUNT e) ws.length) := by
  refine ⟨_, if_pos ?_⟩
  simp [he, h]

theorem pushWords_of_full {ws : List Word} (h : ¬ (engineOf s e).txf.length + ws.length ≤ txCap s e) :
    pushWords s e ws = none := by
  refine if_neg ?_
  simp [h]

theorem txPush_of_bad {ofs : Nat} {bs : List Byte}
    (h : ofs % 4 ≠ 0 ∨ bs.length % 4 ≠ 0 ∨ bs = [] ∨ 32 < ofs + bs.length) :
    txPush s e ofs bs = (s, codeALIGN_ERROR) := if_pos h

/-- A write of whole words within the window that the FIFO has room for. -/
theorem txPush_of_fits (he : hasEngine s e = true) {ofs : Nat} {bs : List Byte}
    (hb : ¬ (ofs % 4 ≠ 0 ∨ bs.length % 4 ≠ 0 ∨ bs = [] ∨ 32 < ofs + bs.length))
    (h : (engineOf s e).txf.length + (wordsOf 8 bs).length ≤ txCap s e) :
    ∃ r flt, txPush s e ofs bs = (twinNote (addF (setEngine (s.withFlt flt) e
      { engineOf s e with txf := (engineOf s e).txf ++ wordsOf 8 bs }) (F.ARC_E_TX_WORDS_COUNT e)
        (wordsOf 8 bs).length) r, codeOK) := by
  obtain ⟨flt, hp⟩ := pushWords_of_fits he h
  refine ⟨.txPush e (wordsOf 8 bs), flt, ?_⟩
  rw [txPush, if_neg hb]
  dsimp only
  rw [hp]

theorem txPush_of_full {ofs : Nat} {bs : List Byte}
    (hb : ¬ (ofs % 4 ≠ 0 ∨ bs.length % 4 ≠ 0 ∨ bs = [] ∨ 32 < ofs + bs.length))
    (h : ¬ (engineOf s e).txf.length + (wordsOf 8 bs).length ≤ txCap s e) :
    txPush s e ofs bs = (arcErr s F.ARC_ERR_PUSH_REFUSED e, codeREFUSED_BUSY) := by
  rw [txPush, if_neg hb]
  dsimp only
  rw [pushWords_of_full h]

theorem rxPop_of_len {len : Nat} (h : len ≠ 8) : rxPop s e len = (s, [], codeALIGN_ERROR) := if_pos h

theorem rxPop_of_jct (h : flag s (F.ARC_E_CFG_RX_JCT e) = true) : rxPop s e 8 = (s, [], codeACCESS_DENIED) := by
  rw [rxPop, if_neg (by decide), if_pos h]

theorem rxPop_of_empty (hj : flag s (F.ARC_E_CFG_RX_JCT e) = false) (h : (engineOf s e).rxf = []) :
    rxPop s e 8 = (twinNote s (.rxPop e), List.replicate 8 0, codeOK) := by
  rw [rxPop, if_neg (by decide), if_neg (by simp [hj])]
  dsimp only
  rw [h]

theorem rxPop_of_word (hj : flag s (F.ARC_E_CFG_RX_JCT e) = false) {w : Word} {ws : List Word}
    (h : (engineOf s e).rxf = w :: ws) (hecc : s.flt.eccWords = []) :
    rxPop s e 8 = (twinNote (setEngine s e { engineOf s e with rxf := ws }) (.rxPop e),
      leBytes 4 (2 ^ 31 + (ws.length + 1)) ++ leBytes 4 w.toNat, codeOK) := by
  rw [rxPop, if_neg (by decide), if_neg (by simp [hj])]
  dsimp only
  rw [h]
  dsimp only
  rw [fifoTake_clean s e true [w] hecc]
  rfl

end

/-! ### The statement about engines, by command -/

section
variable {s : State} {e : Nat}

theorem engineDisable_effect (hl : live s unitARC = true) (he : hasEngine s e = true)
    (hon : (engineOf s e).state ≠ .off) : ∃ t, exec (.engineDisable e) s = .next t ∧ (engineOf t e).state = .off
      ∧ (engineOf t e).loopPend = none ∧ flag t (F.ARC_E_CTL_EN e) = false ∧ (engineOf t e).txf = (engineOf s e).txf
      ∧ (engineOf t e).rxf = (engineOf s e).rxf ∧ (∀ k, k ≠ e → engineOf t k = engineOf s k) ∧ t.mem = s.mem := by
  obtain ⟨r, h⟩ := exec_engineDisable hl he hon
  have hpart : arcOnly s (engineOff (applyBounds (setFlag s (F.ARC_E_CTL_EN e) false) e) e) :=
    (((arcOnly.refl s).setF _ _).applyBounds e).engineOff e
  obtain ⟨hst, hpend, htx, hrx⟩ := engineOf_engineOff_same (applyBounds (setFlag s (F.ARC_E_CTL_EN e) false) e) e
  rw [engineOf_applyBounds_same] at htx hrx
  refine ⟨_, h, ?_, ?_, ?_, ?_, ?_, fun k hk => ?_, ?_⟩
  · rw [engineOf_answered, hst]
  · rw [engineOf_answered, hpend]
  · rw [flag_answered, flag_engineOff, flag_en_applyBounds, flag_en_set]
  · rw [engineOf_answered, htx, engineOf_setFlag]
  · rw [engineOf_answered, hrx, engineOf_setFlag]
  · rw [engineOf_answered, engineOf_engineOff_other _ hk, engineOf_applyBounds_other _ hk, engineOf_setFlag]
  · rw [answered_mem, hpart.mem]

theorem engineEnable_effect (hl : live s unitARC = true) (he : hasEngine s e = true)
    (hoff : (engineOf s e).state = .off) : ∃ t, exec (.engineEnable e) s = .next t
      ∧ t.outs = s.outs ++ [.code codeOK] ∧ flag t (F.ARC_E_CTL_EN e) = true
      ∧ engineOf t e = startedEngine s e false ∧ (∀ k, k ≠ e → engineOf t k = engineOf s k) ∧ t.mem = s.mem := by
  obtain ⟨r, h⟩ := exec_engineEnable hl he hoff
  have hpart : arcOnly s (startEngine (setFlag s (F.ARC_E_CTL_EN e) true) e false) :=
    ((arcOnly.refl s).setF _ _).startEngine e _
  refine ⟨_, h, ?_, ?_, ?_, fun k hk => ?_, ?_⟩
  · rw [answered_outs, hpart.outs]
  · rw [flag_answered, flag_startEngine, flag_en_applyBounds, flag_en_set]
  · rw [engineOf_answered, engineOf_startEngine_same, startedEngine_setEn]
  · rw [engineOf_answered, engineOf_startEngine_other _ _ hk, engineOf_setFlag]
  · rw [answered_mem, hpart.mem]

section
variable (hl : live s unitARC = true) (he : hasEngine s e = true) (hon : (engineOf s e).state ≠ .off)
  (hen : flag s (F.ARC_E_CTL_EN e) = true)
include hl he hon hen

theorem halt_effect : ∃ t, exec (.halt e) s = .next t ∧ t.outs = s.outs ++ [.code codeOK]
    ∧ engineOf t e = (if (engineOf s e).state.enabled = true
        then { passForced (engineOf s e) with state := .halted, haltedFrom := (engineOf s e).state } else engineOf s e)
    ∧ (∀ k, k ≠ e → engineOf t k = engineOf s k) ∧ regsKept [] s t := by
  obtain ⟨r, h⟩ := engineCommand_of_on hl he hen hon (writeEngineCtl_halt s e)
  refine ⟨_, congrArg Host.Outcome.next h, ?_, ?_, fun k hk => ?_, fun k _ => ?_⟩
  · rw [answered_outs, ((arcOnly_enKept s e).haltEngine e).outs]
  · rw [engineOf_answered, engineOf_haltEngine_same, engineOf_enKept]
  · rw [engineOf_answered, engineOf_haltEngine_other _ hk, engineOf_enKept]
  · rw [regWord_answered, regWord_haltEngine, regWord_enKept hen]

theorem resume_effect : ∃ t, exec (.resume e) s = .next t
    ∧ (engineOf t e).state = (if (engineOf s e).state = .halted ∧ (engineOf s e).dirty = false
        then (engineOf s e).haltedFrom else (engineOf s e).state)
    ∧ (engineOf t e).row = (engineOf s e).row ∧ (∀ k, k ≠ e → engineOf t k = engineOf s k)
    ∧ ((engineOf s e).state = .halted → (engineOf s e).dirty = true →
        flag t F.ARC_ERR_RESUME_REFUSED = true ∧ getF t F.ARC_ERR_ENGINE = e % 64) := by
  obtain ⟨r, h⟩ := engineCommand_of_on hl he hen hon (writeEngineCtl_resume s e)
  obtain ⟨hst, hrow⟩ := engineOf_resumeEngine_same (enKept s e) e
  refine ⟨_, congrArg Host.Outcome.next h, ?_, ?_, fun k hk => ?_, fun hh hd => ?_⟩
  · rw [engineOf_answered, hst, engineOf_enKept]
  · rw [engineOf_answered, hrow, engineOf_enKept]
  · rw [engineOf_answered, engineOf_resumeEngine_other _ hk, engineOf_enKept]
  · rw [flag_answered, getF_answered, resumeEngine_of_dirty (s := enKept s e) hh hd]
    exact arcErr_shows _ (by decide) rfl e

theorem restart_effect : ∃ t, exec (.restart e) s = .next t ∧ engineOf t e = startedEngine s e false
    ∧ (∀ k, k ≠ e → engineOf t k = engineOf s k) := by
  obtain ⟨r, h⟩ := engineCommand_of_on hl he hen hon (writeEngineCtl_restart s e)
  rw [restartEngine_of_on (by exact hon)] at h
  refine ⟨_, congrArg Host.Outcome.next h, ?_, fun k hk => ?_⟩
  · rw [engineOf_answered, engineOf_startEngine_same, enKept, startedEngine_setEn]
  · rw [engineOf_answered, engineOf_startEngine_other _ _ hk, engineOf_enKept]

theorem flushTx_effect : ∃ t, exec (.flushTx e) s = .next t ∧ engineOf t e = { engineOf s e with txf := [] }
    ∧ regsKept [] s t ∧ t.mem = s.mem := by
  obtain ⟨r, h⟩ := engineCommand_of_on hl he hen hon (writeEngineCtl_flushTx s e)
  refine ⟨_, congrArg Host.Outcome.next h, ?_, fun k _ => ?_, ?_⟩
  · rw [engineOf_answered, flushTx, engineOf_setEngine_same, engineOf_enKept]
  · rw [regWord_answered, flushTx, regWord_setEngine, regWord_enKept hen]
  · rw [answered_mem, ((arcOnly_enKept s e).flushTx e).mem]

theorem flushRx_effect : ∃ t, exec (.flushRx e) s = .next t ∧ engineOf t e = { engineOf s e with rxf := [] }
    ∧ regsKept [] s t ∧ t.mem = s.mem := by
  obtain ⟨r, h⟩ := engineCommand_of_on hl he hen hon (writeEngineCtl_flushRx s e)
  refine ⟨_, congrArg Host.Outcome.next h, ?_, fun k _ => ?_, ?_⟩
  · rw [engineOf_answered, flushRx, engineOf_setEngine_same, engineOf_enKept]
  · rw [regWord_answered, flushRx, regWord_setEngine, regWord_enKept hen]
  · rw [answered_mem, ((arcOnly_enKept s e).flushRx e).mem]

end
end

section
variable {s : State} {e : Nat} (hl : live s unitARC = true) (he : hasEngine s e = true)
include hl he

theorem txPush_effect {ofs : Nat} {bs : List Byte}
    (hb : ¬ (ofs % 4 ≠ 0 ∨ bs.length % 4 ≠ 0 ∨ bs = [] ∨ 32 < ofs + bs.length))
    (h : (engineOf s e).txf.length + (wordsOf 8 bs).length ≤ txCap s e) :
    ∃ t, exec (.txPush e ofs bs) s = .next t ∧ t.mem = s.mem ∧ t.outs = s.outs ++ [.code codeOK]
      ∧ engineOf t e = { engineOf s e with txf := (engineOf s e).txf ++ wordsOf 8 bs }
      ∧ getF t (F.ARC_E_TX_WORDS_COUNT e) = (getF s (F.ARC_E_TX_WORDS_COUNT e) + (wordsOf 8 bs).length) % 2 ^ 32 := by
  obtain ⟨r, flt, hp⟩ := txPush_of_fits he hb h
  refine ⟨answered _ r, exec_txPush hl he hp, answered_mem _ r, answered_outs _ r, ?_, ?_⟩
  · rw [engineOf_answered, engineOf_addF, engineOf_setEngine_same]
  · rw [getF_answered, addF, getF_setF_same _ (F.ARC_E_TX_WORDS_COUNT e) _ (show 0 + 32 ≤ 32 by decide)]
    rfl

theorem txPush_refusal {ofs : Nat} {bs : List Byte}
    (hb : ¬ (ofs % 4 ≠ 0 ∨ bs.length % 4 ≠ 0 ∨ bs = [] ∨ 32 < ofs + bs.length))
    (h : ¬ (engineOf s e).txf.length + (wordsOf 8 bs).length ≤ txCap s e) :
    ∃ t, exec (.txPush e ofs bs) s = .next t ∧ t.mem = s.mem ∧ t.outs = s.outs ++ [.code codeREFUSED_BUSY]
      ∧ t.engines = s.engines ∧ flag t F.ARC_ERR_PUSH_REFUSED = true := by
  obtain ⟨hflag, -⟩ := arcErr_shows s (f := F.ARC_ERR_PUSH_REFUSED) (by decide) rfl e
  exact ⟨_, exec_txPush hl he (txPush_of_full hb h), rfl, rfl, rfl, (flag_output _ _ _).trans hflag⟩

/-- An RX_POP that the twin hears of changes what it changes, and hands out its bytes. -/
theorem exec_rxPop_noted {len : Nat} {v : State} {r : DeltaRec} {bs : List Byte}
    (h : rxPop s e len = (twinNote v r, bs, codeOK)) : ∃ t, exec (.rxPop e len) s = .next t
      ∧ t = { v with outs := v.outs ++ [.read codeOK bs], twin := t.twin } := by
  refine ⟨_, exec_rxPop_ok hl he h, ?_⟩
  rw [twinNote_frame]
  rfl

theorem rxPop_effect (hj : flag s (F.ARC_E_CFG_RX_JCT e) = false) {w : Word} {ws : List Word}
    (h : (engineOf s e).rxf = w :: ws) (hecc : s.flt.eccWords = []) :
    ∃ t, exec (.rxPop e 8) s = .next t ∧ engineOf t e = { engineOf s e with rxf := ws } ∧ t.regs = s.regs
      ∧ t.mem = s.mem
      ∧ t.outs = s.outs ++ [.read codeOK (leBytes 4 (2 ^ 31 + (ws.length + 1)) ++ leBytes 4 w.toNat)] := by
  obtain ⟨t, hexec, ht⟩ := exec_rxPop_noted hl he (rxPop_of_word hj h hecc)
  refine ⟨t, hexec, ?_, ?_, ?_, ?_⟩
  all_goals rw [ht]
  · exact engineOf_setEngine_same s e _
  all_goals rfl

end

theorem exec_txPush_absent {s : State} {e : Nat} (hl : live s unitARC = true) (he : hasEngine s e = false) (ofs : Nat)
    (bs : List Byte) : exec (.txPush e ofs bs) s = .next (output s (.code codeUNIT_ABSENT)) := by
  change Host.Outcome.next _ = _
  rw [engineCode_of_absent hl he]

theorem exec_rxPop_absent {s : State} {e : Nat} (hl : live s unitARC = true) (he : hasEngine s e = false) (len : Nat) :
    exec (.rxPop e len) s = .next (output s (.read codeUNIT_ABSENT (List.replicate len 0))) := by
  change Host.Outcome.next _ = _
  rw [engineCode_of_absent hl he]

/-- Settles O44: each command by what its operation does with the engine. -/
theorem arcadeEngines : Obligations.ArcadeEngines := by
  refine ⟨fun s e ext hl he hst hdue hecc => ?row, fun s e hl he hoff => ?enable, fun s e hl he hon hen => ?on,
    fun s n es hl hn => ?group, fun s e ofs bs hl he ho hb hne hle => ?push, fun s e hl he hj => ?pop,
    fun s e ofs len bs hl he => ?refused, fun s e ofs len bs hl he => ?absent⟩
  case row =>
    intro u row
    have hexec := exec_engineRowExecute (ext := ext) hl he hst hdue hecc
    refine ⟨fun hsh => ?stall, fun v hsh hb => ?moves⟩
    case stall =>
      rw [runRow_of_stall hsh] at hexec
      refine ⟨_, hexec, engineOf_setEngine_same _ _ _, rfl, ?_, ?_⟩
      · intro k hk
        exact regWord_setF_other u _ (by simpa using hk)
      · exact getF_setF_same u _ _ (show 0 + 32 ≤ 32 by decide)
    case moves =>
      obtain ⟨hx, hrow, hpend, htx, hrx⟩ := engineOf_rowMoved v e row
      rw [runRow_of_shift hsh, nextRow_of_none (hpend.trans hb)] at hexec
      intro w
      refine ⟨_, hexec, ?_, ?_, ?_, ?_, ?_, rfl, rfl⟩
      all_goals rw [engineOf_setEngine_same]
      · rw [rowAfter, hrow]
        rfl
      · exact hx
      · exact htx
      · exact hrx
  case enable =>
    obtain ⟨t, h, houts, hen, heng, hother, hmem⟩ := engineEnable_effect hl he hoff
    refine ⟨t, h, houts, hen, ?_, ?_, ?_, ?_, ?_, ?_, hother, hmem⟩
    all_goals rw [heng]
    · exact startedEngine_state s e
    all_goals rfl
  case on =>
    refine ⟨engineDisable_effect hl he hon, ?halt, resume_effect hl he hon hen, ?restart, flushTx_effect hl he hon hen,
      flushRx_effect hl he hon hen⟩
    case halt =>
      obtain ⟨t, h, houts, heng, hother, hregs⟩ := halt_effect hl he hon hen
      exact ⟨t, h, houts, heng, passForced_acc _, hother, hregs⟩
    case restart =>
      obtain ⟨t, h, heng, hother⟩ := restart_effect hl he hon hen
      exact ⟨t, h, heng ▸ rfl, heng ▸ startedEngine_state s e, hother⟩
  case group =>
    obtain ⟨r, h⟩ := exec_arcadeGroupRestart hl hn es
    refine ⟨_, h, ?_, fun m hm => ?_⟩
    · rw [answered_outs, restartGroup_eq, ((arcOnly.refl s).groupSteps n es.toNat _).outs]
    · have he : hasEngine s (8 * n + m) = true := decide_eq_true (show 8 * n + m < 8 * _ by omega)
      have hout := groupOutcome_groupSteps (w := es.toNat) List.nodup_range (List.mem_range.2 hm) ⟨rfl, rfl⟩ he
      exact groupOutcome_congr hout (engineOf_answered _ r _)
  case push =>
    have hgood : ¬ (ofs % 4 ≠ 0 ∨ bs.length % 4 ≠ 0 ∨ bs = [] ∨ 32 < ofs + bs.length) := by
      rintro (h | h | h | h)
      · exact h ho
      · exact h hb
      · exact hne h
      · omega
    by_cases hfit : (engineOf s e).txf.length + (wordsOf 8 bs).length ≤ txCap s e
    · obtain ⟨t, h, hmem, heff⟩ := txPush_effect hl he hgood hfit
      exact ⟨t, h, hmem, by rwa [if_pos hfit]⟩
    · obtain ⟨t, h, hmem, heff⟩ := txPush_refusal hl he hgood hfit
      exact ⟨t, h, hmem, by rwa [if_neg hfit]⟩
  case pop =>
    exact ⟨fun hempty => exec_rxPop_ok hl he (rxPop_of_empty hj hempty),
      fun w ws hws hecc => rxPop_effect hl he hj hws hecc⟩
  case refused =>
    exact ⟨fun h => exec_txPush hl he (txPush_of_bad h), fun h => exec_rxPop hl he (rxPop_of_len h),
      fun h => exec_rxPop hl he (rxPop_of_jct h)⟩
  case absent =>
    have hno : hasEngine s e = false := decide_eq_false (Nat.not_lt.2 he)
    exact ⟨exec_txPush_absent hl hno ofs bs, exec_rxPop_absent hl hno len⟩

end Sys2Proof.Machine

/-! # Proofs: TWN_OE is high only as its interlock allows, after every step -/

namespace Sys2Proof.Machine

/-! ### What TWN_OE depends on -/

/-- What the rules of TWN_OE speak of (R27, R318, R319), and the mark of a snapshot that is through (R330), which lets a
NotReady hub be Standby. -/
structure Interlock where
  variant : Variant
  dev : Dev
  peerHigh : Bool
  role : Role
  claim : Bool
  oe : Bool
  snapDone : Bool

/-- The part of the interlock that is twin control's own. -/
def Twin.lock (x : Twin) : Role × Bool × Bool × Bool := (x.role, x.claim, x.oe, x.snapDone)

/-- The interlock of a hub. -/
def interlock (s : State) : Interlock :=
  ⟨s.ident.variant, s.dev, s.pins.twnPeer, s.twin.role, s.twin.claim, s.twin.oe, s.twin.snapDone⟩

/-- A property of the interlock, held by a hub. An operation that keeps every such property leaves the interlock as it
is. -/
def Holds (Q : Interlock → Prop) (s : State) : Prop := Q (interlock s)

/-- TWN_OE low. -/
def OeLow (i : Interlock) : Prop := i.oe = false

/-- `outputsGated` as a property of the interlock; with `g` a high TWN_OE also means that no snapshot is marked as
through, so that a delta which ends in role Standby finds TWN_OE low. -/
def Guarded (g : Bool) (i : Interlock) : Prop :=
  i.oe = true → i.claim = true ∧ (i.dev.state = .service ∨ i.dev.state = .degraded)
    ∧ (i.role = .active ∨ i.role = .single) ∧ (i.variant.hasTwn = true → i.peerHigh = false)
    ∧ (g = true → i.snapDone = false)

/-- Whatever an operation that may decline answers, the property holds of its state. -/
def HoldsSome {α : Type} (Q : Interlock → Prop) (st : α → State) (o : Option α) : Prop :=
  ∀ x, o = some x → Holds Q (st x)

/-- The property holds of the next state that a command answers, if it answers one. -/
def HoldsNext (Q : Interlock → Prop) (r : Result) : Prop := ∀ t, r = .next t → Holds Q t

section
variable {t u : State} {α β : Type} {Q : Interlock → Prop} {g : Bool}

/-! ### Choices, folds and answers -/

protected theorem Holds.ite {c : Prop} {_ : Decidable c} {a b : State} (ha : Holds Q a) (hb : Holds Q b) :
    Holds Q (if c then a else b) := by
  split
  · exact ha
  · exact hb

/-- A step taken in one case only, from the state of the other case. -/
protected theorem Holds.when {c : Prop} {_ : Decidable c} {a : State} (h : Holds Q t) (ha : Holds Q t → Holds Q a) :
    Holds Q (if c then a else t) := .ite (ha h) h

protected theorem Holds.unless {c : Prop} {_ : Decidable c} {b : State} (h : Holds Q t) (hb : Holds Q t → Holds Q b) :
    Holds Q (if c then t else b) := .ite h (hb h)

protected theorem Holds.iteFst {c : Prop} {_ : Decidable c} {a b : State × β} (ha : Holds Q a.1) (hb : Holds Q b.1) :
    Holds Q (if c then a else b).1 := by
  split
  · exact ha
  · exact hb

protected theorem Holds.iteSnd {c : Prop} {_ : Decidable c} {a b : β × State} (ha : Holds Q a.2) (hb : Holds Q b.2) :
    Holds Q (if c then a else b).2 := by
  split
  · exact ha
  · exact hb

protected theorem Holds.of_fst {p : State × β} {b : β} (h : Holds Q p.1) (e : p = (u, b)) : Holds Q u := by
  subst e
  exact h

protected theorem Holds.of_snd {p : β × State} {b : β} (h : Holds Q p.2) (e : p = (b, u)) : Holds Q u := by
  subst e
  exact h

protected theorem Holds.foldl {f : State → α → State} {l : List α} (h : Holds Q t)
    (hf : ∀ v x, Holds Q v → Holds Q (f v x)) : Holds Q (l.foldl f t) := by
  induction l generalizing t with
  | nil => exact h
  | cons x l ih => exact ih (hf t x h)

protected theorem Holds.foldlFst {f : State × β → α → State × β} {l : List α} {p : State × β} (h : Holds Q p.1)
    (hf : ∀ q x, Holds Q q.1 → Holds Q (f q x).1) : Holds Q (l.foldl f p).1 := by
  induction l generalizing p with
  | nil => exact h
  | cons x l ih => exact ih (hf p x h)

protected theorem HoldsSome.none {st : α → State} : HoldsSome Q st Option.none := fun _ e => nomatch e

protected theorem HoldsSome.some {st : α → State} {x : α} (h : Holds Q (st x)) : HoldsSome Q st (some x) :=
  fun _ e => by
  cases e
  exact h

/-- An answer with a code beside the state. -/
protected theorem HoldsSome.withCode {b : β} (h : Holds Q t) : HoldsSome Q Prod.fst (some (t, b)) := .some h

protected theorem HoldsSome.ite {c : Prop} {_ : Decidable c} {st : α → State} {a b : Option α} (ha : HoldsSome Q st a)
    (hb : HoldsSome Q st b) : HoldsSome Q st (if c then a else b) := by
  split
  · exact ha
  · exact hb

protected theorem HoldsSome.map {st : α → State} {st' : β → State} {f : α → β} {o : Option α} (h : HoldsSome Q st o)
    (hf : ∀ x, Holds Q (st x) → Holds Q (st' (f x))) : HoldsSome Q st' (o.map f) := by
  cases o with
  | none => exact .none
  | some x => exact .some (hf x (h x rfl))

protected theorem HoldsSome.getD {st : α → State} {o : Option α} {d : α} (h : HoldsSome Q st o) (hd : Holds Q (st d)) :
    Holds Q (st (o.getD d)) := by
  cases o with
  | none => exact hd
  | some x => exact h x rfl

protected theorem HoldsNext.next (h : Holds Q t) : HoldsNext Q (.next t) := fun _ e => by
  cases e
  exact h

protected theorem HoldsNext.fault {r : Fault} : HoldsNext Q (.fault r) := fun _ e => nomatch e

/-! ### Updates of one part of the state -/

protected theorem Holds.withPending {x} (h : Holds Q t) : Holds Q (t.withPending x) := h

protected theorem Holds.withMono {x} (h : Holds Q t) : Holds Q (t.withMono x) := h

protected theorem Holds.withFresh {x} (h : Holds Q t) : Holds Q (t.withFresh x) := h

protected theorem Holds.withMem {x} (h : Holds Q t) : Holds Q (t.withMem x) := h

/-- The device state, and so whether the hub is in service, is kept. -/
protected theorem Holds.withDev {x} (h : Holds (Guarded g) t) (e : x.state = t.dev.state) :
    Holds (Guarded g) (t.withDev x) := by
  dsimp only [Holds, Guarded, interlock, State.withDev]
  rw [e]
  exact h

protected theorem Holds.withPins {x} (h : Holds Q t) (e : x.twnPeer = t.pins.twnPeer) : Holds Q (t.withPins x) := by
  simp only [Holds, interlock, State.withPins, e]
  exact h

protected theorem Holds.withAon {x} (h : Holds Q t) : Holds Q (t.withAon x) := h

protected theorem Holds.withRegs {x} (h : Holds Q t) : Holds Q (t.withRegs x) := h

protected theorem Holds.withPendCb {x} (h : Holds Q t) : Holds Q (t.withPendCb x) := h

protected theorem Holds.withPendFb {x} (h : Holds Q t) : Holds Q (t.withPendFb x) := h

protected theorem Holds.withPendMem {x} (h : Holds Q t) : Holds Q (t.withPendMem x) := h

protected theorem Holds.withTimers {x} (h : Holds Q t) : Holds Q (t.withTimers x) := h

protected theorem Holds.withOuts {x} (h : Holds Q t) : Holds Q (t.withOuts x) := h

protected theorem Holds.withTime {x} (h : Holds Q t) : Holds Q (t.withTime x) := h

protected theorem Holds.withRing {x} (h : Holds Q t) : Holds Q (t.withRing x) := h

protected theorem Holds.withPlaza {x} (h : Holds Q t) : Holds Q (t.withPlaza x) := h

protected theorem Holds.withJct {x} (h : Holds Q t) : Holds Q (t.withJct x) := h

protected theorem Holds.withQueues {x} (h : Holds Q t) : Holds Q (t.withQueues x) := h

protected theorem Holds.withBus {x} (h : Holds Q t) : Holds Q (t.withBus x) := h

protected theorem Holds.withEngines {x} (h : Holds Q t) : Holds Q (t.withEngines x) := h

protected theorem Holds.withTxn {x} (h : Holds Q t) : Holds Q (t.withTxn x) := h

protected theorem Holds.withDrains {x} (h : Holds Q t) : Holds Q (t.withDrains x) := h

protected theorem Holds.withCip {x} (h : Holds Q t) : Holds Q (t.withCip x) := h

protected theorem Holds.withTwin {x} (h : Holds Q t) (e : x.lock = t.twin.lock) : Holds Q (t.withTwin x) := by
  simp only [Twin.lock, Prod.mk.injEq] at e
  obtain ⟨er, ec, eo, es⟩ := e
  simp only [Holds, interlock, State.withTwin, er, ec, eo, es]
  exact h

protected theorem Holds.withPower {x} (h : Holds Q t) : Holds Q (t.withPower x) := h

protected theorem Holds.withFlt {x} (h : Holds Q t) : Holds Q (t.withFlt x) := h

protected theorem Holds.withOdw {x} (h : Holds Q t) : Holds Q (t.withOdw x) := h

protected theorem Holds.withUpd {x} (h : Holds Q t) : Holds Q (t.withUpd x) := h

/-! ### Shared operations -/

protected theorem Holds.setWord {key w} (h : Holds Q t) : Holds Q (setWord t key w) := h.withRegs

protected theorem Holds.setF {f n} (h : Holds Q t) : Holds Q (setF t f n) := h.setWord

protected theorem Holds.setFlag {f b} (h : Holds Q t) : Holds Q (setFlag t f b) := h.setF

protected theorem Holds.addF {f k} (h : Holds Q t) : Holds Q (addF t f k) := h.setF

protected theorem Holds.incF {f} (h : Holds Q t) : Holds Q (incF t f) := h.addF

protected theorem Holds.incSat {f} (h : Holds Q t) : Holds Q (incSat t f) := .ite h.setF h

protected theorem Holds.setBitF {f i b} (h : Holds Q t) : Holds Q (setBitF t f i b) := h.setF

protected theorem Holds.setWords {key n v} (h : Holds Q t) : Holds Q (setWords t key n v) := by
  induction n generalizing t key v with
  | zero => exact h
  | succ n ih => exact ih h.setWord

protected theorem Holds.memWrite {a bs} (h : Holds Q t) : Holds Q (memWrite t a bs) := h

protected theorem Holds.eccTouch {a n} (h : Holds Q t) : Holds Q (eccTouch t a n) := by
  rw [eccTouch_frame]
  exact h

protected theorem Holds.touchAll {rs} (h : Holds Q t) : Holds Q (touchAll t rs) := h.foldl fun _ _ h => h.eccTouch

protected theorem Holds.memPut {a n v} (h : Holds Q t) : Holds Q (memPut t a n v) := h.memWrite

protected theorem Holds.startTimer {id ticks} (h : Holds Q t) : Holds Q (startTimer t id ticks) := h.withTimers

protected theorem Holds.ensureTimer {id ticks} (h : Holds Q t) : Holds Q (ensureTimer t id ticks) := by
  dsimp only [ensureTimer]
  split
  · exact h
  · exact h.startTimer

protected theorem Holds.stopTimer {id} (h : Holds Q t) : Holds Q (stopTimer t id) := h.withTimers

protected theorem Holds.output {e} (h : Holds Q t) : Holds Q (output t e) := h.withOuts

protected theorem Holds.setPortSt {n p} (h : Holds Q t) : Holds Q (setPortSt t n p) := by
  dsimp only [setPortSt]
  split <;> exact h.withRing

protected theorem Holds.setQueue {n q} (h : Holds Q t) : Holds Q (setQueue t n q) := h.withQueues

protected theorem Holds.setBusCh {c b} (h : Holds Q t) : Holds Q (setBusCh t c b) := h.withBus

protected theorem Holds.setEngine {e x} (h : Holds Q t) : Holds Q (setEngine t e x) := h.withEngines

protected theorem Holds.setSlot {n x} (h : Holds Q t) : Holds Q (setSlot t n x) := h.withPower

protected theorem Holds.twinNote {r} (h : Holds Q t) : Holds Q (twinNote t r) := .ite (h.withTwin (by rfl)) h

protected theorem Holds.noteReg {u off w} (h : Holds Q t) : Holds Q (noteReg t u off w) := h.twinNote

protected theorem Holds.noteWrite {u off w} {r : State × Nat} (h : Holds Q r.1) : Holds Q (noteWrite u off w r).1 :=
  .iteFst h.noteReg h

protected theorem Holds.fifoShift {e rx n} (h : Holds Q t) : Holds Q (fifoShift t e rx n) := .ite h h.withFlt

protected theorem Holds.fifoTake {e rx ws} (h : Holds Q t) : Holds Q (fifoTake t e rx ws).2 := h.eccTouch.fifoShift

/-! ### Message queues -/

protected theorem Holds.commitMsg {n prio producer bytes} (h : Holds Q t) :
    Holds Q (commitMsg t n prio producer bytes) :=
  h.setQueue.withFlt

protected theorem Holds.readMsg {n m} (h : Holds Q t) : Holds Q (readMsg t n m).2 := h.eccTouch

protected theorem Holds.produce {n producer prio bytes} (h : Holds Q t) : Holds Q (produce t n producer prio bytes) :=
  .ite h.commitMsg h

protected theorem Holds.produceCounted {n producer prio bytes} (h : Holds Q t) :
    Holds Q (produceCounted t n producer prio bytes) :=
  .ite h.commitMsg h.incF

protected theorem Holds.releaseHeld {n} (h : Holds Q t) : Holds Q (releaseHeld t n) := h.setQueue

protected theorem Holds.takeNext {n} (h : Holds Q t) : Holds Q (takeNext t n) := by
  dsimp only [takeNext]
  split
  · exact h.readMsg.setQueue
  · exact h

protected theorem Holds.popQueue {n len} (h : Holds Q t) : Holds Q (popQueue t n len).1 :=
  h.releaseHeld.takeNext.twinNote

protected theorem Holds.releaseQueue {n} (h : Holds Q t) : Holds Q (releaseQueue t n) := h.releaseHeld.twinNote

protected theorem Holds.rewindPush {n} (h : Holds Q t) : Holds Q (rewindPush t n) := by
  dsimp only [rewindPush]
  split
  · exact h.setQueue.incF.stopTimer
  · exact h

protected theorem Holds.pushHeader {n who w} (h : Holds Q t) : Holds Q (pushHeader t n who w).1 :=
  .iteFst h <| .iteFst h.rewindPush <| .iteFst h.rewindPush.setQueue.startTimer h.rewindPush

protected theorem Holds.pushBytes {n who ofs bytes} (h : Holds Q t) : Holds Q (pushBytes t n who ofs bytes).1 := by
  dsimp only [pushBytes]
  split
  · exact h
  · exact .iteFst h <| .iteFst h.rewindPush <| .iteFst h.setQueue.stopTimer.commitMsg.twinNote h.setQueue.startTimer

protected theorem Holds.flushQueue {n} (h : Holds Q t) : Holds Q (flushQueue t n) := h.setQueue.addF

protected theorem Holds.disableQueue {n} (h : Holds Q t) : Holds Q (disableQueue t n) := h.rewindPush.flushQueue

protected theorem Holds.writeQueueCfg {n w} (h : Holds Q t) : Holds Q (writeQueueCfg t n w).1 :=
  .iteFst (.iteFst h (h.setWord.when (·.disableQueue))) <| .iteFst (.iteFst h h.setWord.setQueue) h.setWord

protected theorem Holds.writeQueueProd {n k w} (h : Holds Q t) : Holds Q (writeQueueProd t n k w).1 :=
  .iteFst h h.setWord

protected theorem Holds.writeQueueCtl {n w} (h : Holds Q t) : Holds Q (writeQueueCtl t n w) :=
  ((Holds.ite h.releaseQueue h).when (·.rewindPush)).when (·.flushQueue)

protected theorem Holds.resetQueues (h : Holds Q t) : Holds Q (resetQueues t) := h.withQueues

protected theorem Holds.rewindAll (h : Holds Q t) : Holds Q (rewindAll t) := h.foldl fun _ _ h => h.rewindPush

/-! ### Fault records -/

protected theorem Holds.writeEventLog {record} (h : Holds Q t) : Holds Q (writeEventLog t record) :=
  h.memWrite.withFlt

protected theorem Holds.eventLog {record} (h : Holds Q t) : Holds Q (eventLog t record) := .ite h.writeEventLog h

protected theorem Holds.errPulse {cls} (h : Holds Q t) : Holds Q (errPulse t cls) :=
  .ite (h.withFlt.startTimer.when (·.setFlag)) h

protected theorem Holds.countFault {cls unit} (h : Holds Q t) : Holds Q (countFault t cls unit) := h.incF.incF.incF

protected theorem Holds.storeRecord {cls record} (h : Holds Q t) : Holds Q (storeRecord t cls record) :=
  h.memWrite.setF.when (·.produceCounted)

protected theorem Holds.logFault {code cls reaction unit info0 info1} (h : Holds Q t) :
    Holds Q (logFault t code cls reaction unit info0 info1) :=
  (Holds.ite h.countFault.incF ((h.countFault.storeRecord.when (·.withFlt)).when (·.eventLog))).errPulse

protected theorem Holds.recordFault {code unit info0 info1} (h : Holds Q t) :
    Holds Q (recordFault t code unit info0 info1) := by
  dsimp only [recordFault]
  split
  · exact h.logFault
  · exact h

/-! ### Time bases -/

protected theorem Holds.setBase {n t'} (h : Holds Q t) : Holds Q (setBase t n t') := h.withTime

protected theorem Holds.tickBase {n} (h : Holds Q t) : Holds Q (tickBase t n) := h.setBase

protected theorem Holds.tick (h : Holds Q t) : Holds Q (tick t) :=
  h.withMono.when (·.tickBase.tickBase.tickBase.tickBase)

protected theorem Holds.moveBase {n off} (h : Holds Q t) : Holds Q (moveBase t n off) := h.setBase

protected theorem Holds.setTb0State {st} (h : Holds Q t) : Holds Q (setTb0State t st) :=
  (Holds.ite h.withTime h).setF.setFlag

protected theorem Holds.stepBase {n} (h : Holds Q t) : Holds Q (stepBase t n).1 :=
  .iteFst h <| .iteFst h <| .iteFst h.setFlag (h.moveBase.setFlag.when (·.setFlag))

protected theorem Holds.armBase {n} (h : Holds Q t) : Holds Q (armBase t n) :=
  .ite h <| .ite h.setFlag.setFlag.setTb0State (h.setFlag.setFlag.when (·.withTime))

protected theorem Holds.writeTbCtl {n w} (h : Holds Q t) : Holds Q (writeTbCtl t n w).1 :=
  .iteFst ((Holds.ite h.armBase h).stepBase) <| .ite h.armBase h

protected theorem Holds.enterHoldover (h : Holds Q t) : Holds Q (enterHoldover t) := (Holds.ite h.setF h).setTb0State

protected theorem Holds.selectMaster (h : Holds Q t) : Holds Q (selectMaster t) := by
  dsimp only [selectMaster]
  split
  · exact h
  · split
    · exact h.setF.setF
    · split
      · exact h.setF.setFlag.setF.setTb0State.stopTimer
      · split
        · split
          · exact h.setF.setFlag.setF.setF.when (·.enterHoldover)
          · exact h.setF.setFlag.when (·.enterHoldover)
        · exact h.setF.setFlag.when (·.enterHoldover)

protected theorem Holds.enterSlewing {o} (h : Holds Q t) : Holds Q (enterSlewing t o) := by
  unfold enterSlewing
  exact h.withTime.setF.setTb0State.recordFault

protected theorem Holds.servoOffset {o} (h : Holds Q t) : Holds Q (servoOffset t o) :=
  .ite (.ite h.enterSlewing h.moveBase.setFlag.setTb0State) <| .ite (.ite h.enterSlewing h) <|
    .ite (.ite h.setTb0State h.enterSlewing) <| .ite h.setTb0State h.setF

protected theorem Holds.servoReport {o peerOk} (h : Holds Q t) : Holds Q (servoReport t o peerOk) := by
  dsimp only [servoReport]
  split
  · exact h
  · split
    · split
      · exact h.startTimer
      · split
        · exact h.startTimer.when (·.enterHoldover)
        · split
          · exact h.startTimer.servoOffset
          · exact h.startTimer
    · split
      · exact h
      · split
        · exact .ite h.enterHoldover h
        · split
          · exact h.servoOffset
          · exact h

protected theorem Holds.setFiring {k t'} (h : Holds Q t) : Holds Q (setFiring t k t') := h.withTime

protected theorem Holds.armTrigger {k} (h : Holds Q t) : Holds Q (armTrigger t k) :=
  .ite h.setFlag <| .ite (h.setFlag.setFiring.when (·.setFlag)) <| .ite h.setFlag.setFiring h.setFlag.setFiring

protected theorem Holds.armCycleTriggers (h : Holds Q t) : Holds Q (armCycleTriggers t) :=
  h.foldl fun _ _ h => by
    refine .ite ?_ h
    split
    · exact h.setFiring
    · exact h

protected theorem Holds.fireTrigger {k} (h : Holds Q t) : Holds Q (fireTrigger t k) :=
  .ite h.addF.withTime.setFlag <| .ite h.addF.withTime.addF h.addF.withTime

protected theorem Holds.storeCapture {k t' rising} (h : Holds Q t) : Holds Q (storeCapture t k t' rising) :=
  .ite h.incF (h.addF.setF.setWords.when (·.produceCounted))

/-! ### Plaza -/

protected theorem Holds.setRefs {q l} (h : Holds Q t) : Holds Q (setRefs t q l) := h.withPlaza

protected theorem Holds.writeCells {cs bytes} (h : Holds Q t) : Holds Q (writeCells t cs bytes) := by
  induction cs generalizing t bytes with
  | nil => exact h
  | cons c cs ih => exact ih h.memWrite

protected theorem Holds.writeHeader {f} (h : Holds Q t) : Holds Q (writeHeader t f) := by
  dsimp only [writeHeader]
  split
  · exact h
  · exact .ite h h.memWrite

protected theorem Holds.dropAt {q cls reason} (h : Holds Q t) : Holds Q (dropAt t q cls reason) :=
  h.incF.incF.setF.when (·.withPlaza)

protected theorem Holds.dropIngress {reason} (h : Holds Q t) : Holds Q (dropIngress t reason) := h.incF

protected theorem Holds.markFrame {q fid} (h : Holds Q t) : Holds Q (markFrame t q fid) := h.incF.incF.withPlaza

protected theorem Holds.pushRef {t' fid n} (h : Holds Q t) : Holds Q (pushRef t t' fid n) := h.setRefs

protected theorem Holds.storeFrame {f t'} (h : Holds Q t) : Holds Q (storeFrame t f t') :=
  h.withFresh.withPlaza.pushRef.writeCells

protected theorem Holds.offerQueue {f t'} (h : Holds Q t) : Holds Q (offerQueue t f t') := by
  dsimp only [offerQueue]
  split
  · exact h.dropAt
  · split
    · split
      · exact h.pushRef.markFrame
      · exact h.storeFrame.markFrame
    · split
      · exact h.pushRef
      · exact h.storeFrame

protected theorem Holds.captureRecord {f q depth cause reason} (h : Holds Q t) :
    Holds Q (captureRecord t f q depth cause reason) :=
  .ite ((Holds.ite h.setFlag h).incF) <| .ite h.incF h.memWrite.setF.incF.withPlaza

protected theorem Holds.sampleStep {f} (h : Holds Q t) : Holds Q (sampleStep t f).2 :=
  .iteSnd (.iteSnd h.withPlaza h.withPlaza) h

protected theorem Holds.markSeen {fid} (h : Holds Q t) : Holds Q (markSeen t fid) := h.withPlaza

protected theorem Holds.captureFrame {f ds} (h : Holds Q t) : Holds Q (captureFrame t f ds) := by
  dsimp only [captureFrame]
  split
  · split
    · exact (h.sampleStep.when (·.setF)).captureRecord.markSeen
    · split
      · exact h.sampleStep.setF.captureRecord.markSeen
      · split
        · exact h.sampleStep.captureRecord.markSeen
        · exact h.sampleStep
  · exact h

protected theorem Holds.captureLoss {f q reason} (h : Holds Q t) : Holds Q (captureLoss t f q reason) :=
  .ite h.captureRecord.markSeen h

protected theorem Holds.sendPause {p pfc prios quanta} (h : Holds Q t) : Holds Q (sendPause t p pfc prios quanta) :=
  h.output.incF

protected theorem Holds.pauseTotal {p} (h : Holds Q t) : Holds Q (pauseTotal t p) :=
  .ite h.setF.sendPause.startTimer <| .ite h.setF.sendPause.stopTimer h

protected theorem Holds.pauseClass {p c} (h : Holds Q t) : Holds Q (pauseClass t p c) :=
  .ite h.setBitF.sendPause.startTimer <| .ite h.setBitF.sendPause.stopTimer h

protected theorem Holds.stopPauses {p} (h : Holds Q t) : Holds Q (stopPauses t p) :=
  h.setF.foldl fun _ _ h => h.stopTimer

protected theorem Holds.pauseCheck {p} (h : Holds Q t) : Holds Q (pauseCheck t p) :=
  .ite h <| .ite (h.foldl fun _ _ h => h.pauseClass) <| .ite h.pauseTotal <| .ite h h.stopPauses

protected theorem Holds.pauseMode {p pfc tx} (h : Holds Q t) : Holds Q (pauseMode t p pfc tx) :=
  .ite h h.stopPauses.pauseCheck

protected theorem Holds.storeAndOffer {f targets} (h : Holds Q t) : Holds Q (storeAndOffer t f targets) := by
  dsimp only [storeAndOffer]
  split
  · exact (h.withPlaza.foldl fun _ _ h => h.offerQueue).writeHeader.captureFrame.pauseCheck
  · exact (h.withPlaza.foldl fun _ _ h => h.offerQueue).captureFrame.pauseCheck

protected theorem Holds.enqueueFrame {f targets} (h : Holds Q t) : Holds Q (enqueueFrame t f targets) :=
  .ite h.storeAndOffer h

protected theorem Holds.removeRef {q r} (h : Holds Q t) : Holds Q (removeRef t q r) := by
  dsimp only [removeRef]
  split
  · exact h.setRefs
  · exact .ite h.setRefs.withPlaza.pauseCheck h.setRefs.writeHeader

protected theorem Holds.discardRef {q r reason} (h : Holds Q t) : Holds Q (discardRef t q r reason) := by
  dsimp only [discardRef]
  split
  · exact h.captureLoss.removeRef.dropAt
  · exact h.removeRef.dropAt

protected theorem Holds.discardQueue {q reason} (h : Holds Q t) : Holds Q (discardQueue t q reason) :=
  h.foldl fun _ _ h => h.discardRef

protected theorem Holds.handAt {p f give} (h : Holds Q t) (hg : ∀ v, Holds Q v → Holds Q (give v)) :
    Holds Q (handAt t p f give) := .ite (hg _ h.captureFrame) h.captureFrame.dropAt

/-! ### Claim, outputs and role of the twin -/

/-! With TWN_OE low nothing is asked of the rest, so that role and device state may change. -/

protected theorem Holds.of_low (h : Holds OeLow t) : Holds (Guarded g) t := fun e => Bool.noConfusion (h.symm.trans e)

/-- `g` only adds to what is asked. -/
protected theorem Holds.weaken (h : Holds (Guarded g) t) : Holds (Guarded false) t := fun e => by
  obtain ⟨hc, hs, hr, hp, -⟩ := h e
  exact ⟨hc, hs, hr, hp, nofun⟩

protected theorem Holds.low_of_role (h : Holds (Guarded g) t) (hr : t.twin.role = .standby ∨ t.twin.role = .notReady) :
    Holds OeLow t :=
  Bool.eq_false_iff.2 fun e => by
    obtain ⟨-, -, ha | ha, -⟩ := h e <;> rcases hr with hr | hr <;> exact nomatch ha.symm.trans hr

protected theorem Holds.low_of_state (h : Holds (Guarded g) t) (hs : inService t = false) : Holds OeLow t :=
  Bool.eq_false_iff.2 fun e => by
    obtain ⟨-, hin, -⟩ := h e
    simp [inService] at hs
    exact hin.elim hs.1 hs.2

protected theorem Holds.lowSetRole {r} (h : Holds OeLow t) : Holds OeLow (setRole t r) := h

protected theorem Holds.lowWithDev {x} (h : Holds OeLow t) : Holds OeLow (t.withDev x) := h

theorem low_lowerClaim (t : State) : Holds OeLow (lowerClaim t) := rfl

theorem low_leaveActive (t : State) (r : Role) : Holds OeLow (leaveActive t r) := rfl

/-- An acting role may follow any role. -/
protected theorem Holds.takeRole {r} (h : Holds (Guarded g) t) (hr : r = .active ∨ r = .single) :
    Holds (Guarded g) (setRole t r) := fun e => by
  obtain ⟨hc, hs, -, hp⟩ := h e
  exact ⟨hc, hs, hr, hp⟩

/-- The one operation that raises TWN_OE asks for all that a high TWN_OE stands for. -/
protected theorem Holds.raiseClaim (h : Holds (Guarded false) t) : Holds (Guarded false) (raiseClaim t) := by
  unfold raiseClaim
  split
  next hlow =>
    intro e
    obtain ⟨hs, hr⟩ : inService t = true ∧ acting t = true := Bool.and_eq_true_iff.1 e
    have hs : t.dev.state = .service ∨ t.dev.state = .degraded := by simpa [inService] using hs
    have hr : t.twin.role = .active ∨ t.twin.role = .single := by simpa [acting] using hr
    refine ⟨rfl, hs, hr, fun hv => ?_, nofun⟩
    replace hv : t.ident.variant.hasTwn = true := hv
    simp only [hv, Bool.not_true, Bool.or_false, peerLow, Bool.and_eq_true, Bool.not_eq_true'] at hlow
    exact hlow.1
  next => exact h

protected theorem Holds.leaveActive {r} : Holds (Guarded g) (leaveActive t r) := (low_leaveActive t r).of_low

protected theorem Holds.releaseClaim (h : Holds (Guarded g) t) : Holds (Guarded g) (releaseClaim t) :=
  .ite h <| .ite (h.withTwin (by rfl)) .leaveActive

/-- The end of a resynchronisation takes the mark of its snapshot back. -/
protected theorem Holds.endResync (h : Holds (Guarded false) t) : Holds (Guarded g) (endResync t) := fun e => by
  obtain ⟨hc, hs, hr, hp, -⟩ := h e
  exact ⟨hc, hs, hr, hp, fun _ => rfl⟩

protected theorem Holds.lowEndResync (h : Holds OeLow t) : Holds OeLow (endResync t) := h

protected theorem Holds.twinLinkLost (h : Holds (Guarded g) t) : Holds (Guarded g) (twinLinkLost t) := by
  unfold twinLinkLost
  extract_lets _ s₁ s₂
  have h₁ : Holds (Guarded g) s₁ := h.withTwin (by rfl)
  have h₂ : Holds (Guarded g) s₂ := h₁.stopTimer.weaken.endResync
  split
  next hr => exact (h₂.low_of_role (.inl hr)).lowSetRole.of_low
  next => exact h₂.when fun _ => .leaveActive

protected theorem Holds.releaseIfPeerReady (h : Holds (Guarded g) t) : Holds (Guarded g) (releaseIfPeerReady t) :=
  .ite h.releaseClaim h

/-! ### The station logic of the Crossing -/

protected theorem Holds.countWrapStrip {f} (h : Holds Q t) : Holds Q (countWrapStrip t f) := .ite h h.incF

protected theorem Holds.ringTarget {port k f sq} (h : Holds Q t) : Holds Q (ringTarget t port k f sq).2 :=
  .iteSnd h <| .iteSnd (.ite h h.incF) <| .iteSnd h h.countWrapStrip

protected theorem Holds.enqueueRing {ts f inPort ptpStamp} (h : Holds Q t) :
    Holds Q (enqueueRing t ts f inPort ptpStamp) :=
  .ite h h.enqueueFrame

protected theorem Holds.sendRing {port k f inPort ptpStamp} (h : Holds Q t) :
    Holds Q (sendRing t port k f inPort ptpStamp) := by
  dsimp only [sendRing]
  exact h.ringTarget.enqueueRing

protected theorem Holds.nextSeq {node west} (h : Holds Q t) : Holds Q (nextSeq t node west).2 := h.withRing

protected theorem Holds.addOnPort {port f} (h : Holds Q t) : Holds Q (addOnPort t port f) := h.withRing.sendRing

protected theorem Holds.addPlan {port k f sq} (h : Holds Q t) : Holds Q (addPlan t port k f sq).2 := by
  dsimp only [addPlan]
  exact .iteSnd h <| .iteSnd h.incF <| .iteSnd h.incF <| .iteSnd h.withRing.ringTarget.ringTarget h.nextSeq.ringTarget

protected theorem Holds.addFrameBy {port k f inPort ptpStamp} (h : Holds Q t) :
    Holds Q (addFrameBy t port k f inPort ptpStamp) := by
  dsimp only [addFrameBy]
  split
  · rename_i e
    exact (h.addPlan.of_snd e).enqueueRing
  · rename_i e
    exact h.addPlan.of_snd e

protected theorem Holds.addFrame {k f inPort ptpStamp} (h : Holds Q t) : Holds Q (addFrame t k f inPort ptpStamp) :=
  h.addFrameBy

protected theorem Holds.updateEntry {e} (h : Holds Q t) : Holds Q (updateEntry t e) := h.withRing

protected theorem Holds.bumpMapGen (h : Holds Q t) : Holds Q (bumpMapGen t) := h.incF

protected theorem Holds.sendWrapNotice {port event} (h : Holds Q t) : Holds Q (sendWrapNotice t port event) :=
  .ite h <| .ite h.withRing.addF h.withRing.addOnPort.addOnPort

protected theorem Holds.relinkQueue {src dst} (h : Holds Q t) : Holds Q (relinkQueue t src dst) :=
  h.foldl fun _ _ h => by
    dsimp only
    split
    · exact .ite h.setRefs.setRefs h.removeRef.countWrapStrip
    · exact h

protected theorem Holds.relinkPort {port} (h : Holds Q t) : Holds Q (relinkPort t port) :=
  ((h.foldl fun _ _ h => h.relinkQueue).foldl fun _ _ h => h.relinkQueue).relinkQueue

protected theorem Holds.countSuspects {port} (h : Holds Q t) : Holds Q (countSuspects t port) := h.setPortSt.addF

protected theorem Holds.loseHeal {port} (h : Holds Q t) : Holds Q (loseHeal t port) :=
  h.stopTimer.when (·.setPortSt.startTimer)

protected theorem Holds.declareBroken {port} (h : Holds (Guarded g) t) : Holds (Guarded g) (declareBroken t port) :=
  .ite h <| .ite h.loseHeal ((h.countSuspects.incF.setBitF.setBitF.setPortSt.stopTimer.startTimer.unless
    (·.relinkPort)).sendWrapNotice.recordFault.when (·.releaseIfPeerReady))

protected theorem Holds.unwrapPort {port} (h : Holds Q t) : Holds Q (unwrapPort t port) :=
  h.setBitF.setBitF.setPortSt.startTimer.sendWrapNotice

/-! ### The bridge -/

protected theorem Holds.hitDynamic {a} (h : Holds Q t) : Holds Q (hitDynamic t a) := h.memPut

protected theorem Holds.writeDynamic {a vid mac port node side} (h : Holds Q t) :
    Holds Q (writeDynamic t a vid mac port node side) :=
  h.memWrite.memPut.memPut

protected theorem Holds.clearDynamic {a} (h : Holds Q t) : Holds Q (clearDynamic t a) := h.memWrite.setF

protected theorem Holds.learnEntry {vid mac port node side} (h : Holds Q t) :
    Holds Q (learnEntry t vid mac port node side) := by
  dsimp only [learnEntry]
  split
  · exact .ite h.hitDynamic h.writeDynamic.incF
  · split
    · exact h.writeDynamic.addF
    · exact h.incF

protected theorem Holds.learnSource {may vid mac port node side} (h : Holds Q t) :
    Holds Q (learnSource t may vid mac port node side) := by
  dsimp only [learnSource]
  split
  · exact h.learnEntry
  · split
    · exact h.hitDynamic
    · exact h

protected theorem Holds.touchLookup {vid da} (h : Holds Q t) : Holds Q (touchLookup t vid da) :=
  h.eccTouch.eccTouch.eccTouch

protected theorem Holds.lookupForward {vid da cls inPort fromRing bcast} (h : Holds Q t) :
    Holds Q (lookupForward t vid da cls inPort fromRing bcast).2 := by
  dsimp only [lookupForward]
  split
  · split <;> exact h.touchLookup
  · split
    · exact h.touchLookup
    · split
      · exact .iteSnd h.touchLookup.hitDynamic h.touchLookup.hitDynamic
      · exact h.touchLookup

protected theorem Holds.ringPlaces {f bytes fw stamp} (h : Holds Q t) :
    Holds Q (ringPlaces t f bytes fw stamp).2 := by
  dsimp only [ringPlaces]
  split
  · exact h
  · split
    · split
      · rename_i e
        exact h.addPlan.of_snd e
      · rename_i e
        exact h.addPlan.of_snd e
    · exact h

protected theorem Holds.portPlaces {vid len fw} (h : Holds Q t) : Holds Q (portPlaces t vid len fw).2 :=
  h.foldl fun _ _ h => h.dropIngress

protected theorem Holds.forwardFrame {f bytes fw stamp} (h : Holds Q t) :
    Holds Q (forwardFrame t f bytes fw stamp) := by
  dsimp only [forwardFrame]
  exact .ite ((h.portPlaces.dropIngress.captureFrame.when (·.incF)).unless (·.enqueueFrame)) <|
    .ite h.portPlaces.ringPlaces.captureFrame h.portPlaces.ringPlaces.enqueueFrame

protected theorem Holds.bridgeFromRing {port f} (h : Holds Q t) : Holds Q (bridgeFromRing t port f) := by
  dsimp only [bridgeFromRing]
  exact .ite h.dropIngress.captureFrame <| .ite h.learnSource.enqueueFrame h.learnSource.lookupForward.forwardFrame

/-! ### Port states and the lane table -/

protected theorem Holds.loadEq {key lane idx} (h : Holds Q t) : Holds Q (loadEq t key lane idx) := h.setWord.setWord

protected theorem Holds.setPortState {p st} (h : Holds Q t) : Holds Q (setPortState t p st) := h.setF

protected theorem Holds.startFlush {p} (h : Holds Q t) : Holds Q (startFlush t p) :=
  (h.setPortState.stopTimer.foldl fun _ _ h => h.discardQueue).when fun h => h.foldl fun _ _ h => h.clearDynamic

protected theorem Holds.portLinkLost {p} (h : Holds Q t) : Holds Q (portLinkLost t p) :=
  .ite h.startFlush <| .ite h.setPortState.stopTimer h

protected theorem Holds.enterHold {p} (h : Holds Q t) : Holds Q (enterHold t p) := h.setPortState.startTimer

protected theorem Holds.portLinkFound {p} (h : Holds Q t) : Holds Q (portLinkFound t p) := .ite h.enterHold h

protected theorem Holds.changeMode {lane mode} (h : Holds Q t) : Holds Q (changeMode t lane mode) :=
  .ite ((h.setF.setWord.foldl fun _ _ h => h.startFlush).unless (·.loadEq)) h

/-! ### Access lanes -/

protected theorem Holds.pauseRx {p c quanta} (h : Holds Q t) : Holds Q (pauseRx t p c quanta) :=
  .ite h <| .ite h.setBitF.stopTimer h.setBitF.startTimer

protected theorem Holds.countGood {p bs} (h : Holds Q t) : Holds Q (countGood t p bs) := h.incF.addF

protected theorem Holds.receivePause {p bs} (h : Holds Q t) : Holds Q (receivePause t p bs) :=
  .ite (h.countGood.incF.foldl fun _ _ h => h.pauseRx)
    (h.countGood.incF.when fun h => h.foldl fun _ _ h => .ite h.pauseRx h)

protected theorem Holds.offerEthernet {bs} (h : Holds Q t) : Holds Q (offerEthernet t bs) := by
  dsimp only [offerEthernet]
  split
  · exact h
  · split
    · exact .ite h.withJct h.incF
    · exact h.incF

protected theorem Holds.bridgeAccess {p tag bs} (h : Holds Q t) : Holds Q (bridgeAccess t p tag bs) := by
  dsimp only [bridgeAccess]
  exact .ite h.withPlaza.dropIngress.incF.captureFrame <| .ite (h.withPlaza.handAt fun _ h => h.offerEthernet)
    h.withPlaza.lookupForward.forwardFrame.learnSource

protected theorem Holds.execFrameAdmit {q inPort bs} (h : Holds Q t) : HoldsNext Q (execFrameAdmit q inPort bs t) :=
  .next (.ite h.enqueueFrame h)

protected theorem Holds.dropOldHeads {q rs} (h : Holds Q t) : Holds Q (dropOldHeads q rs t) := by
  induction rs generalizing t with
  | nil => exact h
  | cons r rs ih =>
    rw [dropOldHeads]
    split
    · exact .ite (ih h.discardRef) h
    · exact h

protected theorem Holds.refillRequests (h : Holds Q t) : Holds Q (refillRequests t) :=
  h.foldl fun _ _ h => .ite h.withRing h

protected theorem Holds.dropHeldRequests {port} (h : Holds Q t) : Holds Q (dropHeldRequests t port) :=
  h.withRing.refillRequests

protected theorem Holds.execResidencyCheck {q} (h : Holds Q t) : HoldsNext Q (execResidencyCheck q t) :=
  .next (.ite ((Holds.ite h.dropHeldRequests <| .ite h.dropHeldRequests h).dropOldHeads) h)

protected theorem Holds.sweepDynamic (h : Holds Q t) : Holds Q (sweepDynamic t) :=
  h.foldl fun _ _ h => .ite h.memPut h.clearDynamic

protected theorem Holds.execAgeingSweep (h : Holds Q t) : HoldsNext Q (execAgeingSweep t) :=
  .next (.ite (h.startTimer.unless (·.sweepDynamic)) h)

protected theorem Holds.writeLearnCtl {w} (h : Holds Q t) : Holds Q (writeLearnCtl t w) :=
  h.setWord.when fun h => h.foldl fun _ _ h => h.clearDynamic

protected theorem Holds.execLearnFlush {sel} (h : Holds Q t) : HoldsNext Q (execLearnFlush sel t) :=
  .next (.ite h.writeLearnCtl.noteReg h)

protected theorem Holds.execPauseExpiry {p c} (h : Holds Q t) : HoldsNext Q (execPauseExpiry p c t) :=
  .next (.ite h.setBitF.stopTimer h)

protected theorem Holds.refreshPause {p c} (h : Holds Q t) : Holds Q (refreshPause t p c) :=
  .ite h.stopTimer ((Holds.ite h.sendPause h.sendPause).startTimer)

protected theorem Holds.execPauseRefresh {p} (h : Holds Q t) : HoldsNext Q (execPauseRefresh p t) :=
  .next (h.foldl fun _ _ h => .ite h.refreshPause h)

protected theorem Holds.execCaptureResume (h : Holds Q t) : HoldsNext Q (execCaptureResume t) :=
  .next (.ite h.setFlag.noteReg h)

protected theorem Holds.execLaneModeChange {lane mode} (h : Holds Q t) :
    HoldsNext Q (execLaneModeChange lane mode t) :=
  .next (.ite h.changeMode.noteReg h)

protected theorem Holds.accessUp {p speed full peerPause} (h : Holds Q t) :
    Holds Q (accessUp t p speed full peerPause) :=
  .ite h.incF (((h.setBitF.setF.setFlag.setFlag.when (·.setFlag)).when (·.setF)).when (·.portLinkFound))

protected theorem Holds.execAccessLinkUp {p speed full peerPause} (h : Holds Q t) :
    HoldsNext Q (execAccessLinkUp p speed full peerPause t) :=
  .next (.ite h.accessUp h)

protected theorem Holds.dropLink {p} (h : Holds Q t) : Holds Q (dropLink t p) := h.setBitF.portLinkLost

protected theorem Holds.laneLoss {lane how} (h : Holds Q t) : Holds Q (laneLoss t lane how) :=
  ((Holds.ite h.setFlag h).when (·.setFlag)).unless (·.setFlag)

protected theorem Holds.execAccessLinkDown {down} (h : Holds Q t) : HoldsNext Q (execAccessLinkDown down t) :=
  .next (.ite (.ite (h.addF.laneLoss.foldl fun _ _ h => h.dropLink) h.addF.laneLoss.dropLink) h)

protected theorem Holds.execFlushDone {p} (h : Holds Q t) : HoldsNext Q (execFlushDone p t) :=
  .next (.ite (.ite (.ite h.enterHold h.setPortState) <| .ite h.setPortState h.setPortState) h)

protected theorem Holds.execHoldExpiry {p} (h : Holds Q t) : HoldsNext Q (execHoldExpiry p t) :=
  .next (.ite h.setPortState.stopTimer h)

/-! ### Keys, nonces and frames on the line -/

protected theorem Holds.cacheInsert {e} (h : Holds Q t) : Holds Q (cacheInsert t e) := h.withCip

protected theorem Holds.deriveKey {ksrc kreg ksize label context root} (h : Holds Q t) :
    Holds Q (deriveKey t ksrc kreg ksize label context root).2 := by
  dsimp only [deriveKey]
  split
  · exact h.withCip
  · exact h.incF.cacheInsert

protected theorem Holds.descriptorKey {d} (h : Holds Q t) : HoldsSome Q Prod.snd (descriptorKey t d) := by
  dsimp only [descriptorKey]
  split
  · exact .ite (.some h) .none
  · split
    · exact .none
    · exact .some h.deriveKey

protected theorem Holds.cacheSegment {gen lower higher dir key} (h : Holds Q t) :
    Holds Q (cacheSegment t gen lower higher dir key) :=
  h.withCip.cacheInsert

protected theorem Holds.setNctr {slot v} (h : Holds Q t) : Holds Q (setNctr t slot v) := h.setWords

protected theorem Holds.setNlim {slot v} (h : Holds Q t) : Holds Q (setNlim t slot v) := h.setWords

protected theorem Holds.startCounter {slot gen} (h : Holds Q t) : Holds Q (startCounter t slot gen) := by
  dsimp only [startCounter]
  split
  · exact .ite h.setNctr.setNlim h.setNctr.setNlim
  · exact h.setNctr.setNlim

protected theorem Holds.countUnder {slot gen} (h : Holds Q t) : Holds Q (countUnder t slot gen) :=
  .ite h h.withCip.startCounter

protected theorem Holds.resumeSlot {slot} (h : Holds Q t) : Holds Q (resumeSlot t slot) :=
  (Holds.ite h.withCip h).startCounter

protected theorem Holds.deriveSegment {port} (h : Holds Q t) : Holds Q (deriveSegment t port) := by
  dsimp only [deriveSegment]
  split
  · exact h
  · exact h.countUnder.setPortSt.cacheSegment.cacheSegment.addF

protected theorem Holds.writeNonceRecord {slot gen ctx lim} (h : Holds Q t) :
    Holds Q (writeNonceRecord t slot gen ctx lim) :=
  h.memWrite.withCip.incF

protected theorem Holds.startReservation {slot} (h : Holds Q t) : Holds Q (startReservation t slot) :=
  .ite h h.withCip

protected theorem Holds.takeNonce {slot} (h : Holds Q t) : Holds Q (takeNonce t slot).2 := by
  rw [takeNonce]
  refine .iteSnd h (.iteSnd ?_ (.iteSnd h.startReservation ?_))
  · dsimp only
    exact h.withCip.recordFault
  · exact Holds.when (h.setNctr.when (·.incF)) (·.startReservation)

protected theorem Holds.sealNonce {port} (h : Holds (Guarded g) t) : Holds (Guarded g) (sealNonce t port).2 := by
  dsimp only [sealNonce]
  split
  · exact h
  · split
    · exact h
    · split
      · rename_i e
        exact h.takeNonce.of_snd e
      · rename_i e
        exact .iteSnd ((h.takeNonce.of_snd e).setPortSt.declareBroken) (h.takeNonce.of_snd e)

protected theorem Holds.countWaits {f} (h : Holds Q t) : Holds Q (countWaits t f) := .ite h.withFresh.addF h

protected theorem Holds.sendWords {port words event} (h : Holds Q t) : Holds Q (sendWords t port words event) := by
  dsimp only [sendWords]
  split
  · exact h.setPortSt.output.output.output
  · exact h.setPortSt.output

protected theorem Holds.emitRing {port f stomp} (h : Holds Q t) : Holds Q (emitRing t port f stomp) := by
  unfold emitRing
  exact h.countWaits.sendWords

protected theorem Holds.emitFrame {port f stomp} (h : Holds Q t) : Holds Q (emitFrame t port f stomp) :=
  h.setPortSt.emitRing

/-! ### Egress -/

protected theorem Holds.settleSub {q} (h : Holds Q t) : Holds Q (settleSub t q) := h.withPlaza

protected theorem Holds.settleAdded {port} (h : Holds Q t) : Holds Q (settleAdded t port) :=
  h.foldl fun _ _ h => h.withPlaza

protected theorem Holds.chargeSub {q bytes} (h : Holds Q t) : Holds Q (chargeSub t q bytes) := .ite h.withPlaza h

protected theorem Holds.setDeficit {p c d} (h : Holds Q t) : Holds Q (setDeficit t p c d) := h.withPlaza

protected theorem Holds.advanceClass {p c} (h : Holds Q t) : Holds Q (advanceClass t p c) :=
  h.withPlaza.when (·.setDeficit)

protected theorem Holds.roundRobin {p fuel} (h : Holds Q t) : Holds Q (roundRobin t p fuel).2 := by
  induction fuel generalizing t with
  | zero => exact h
  | succ fuel ih =>
    rw [roundRobin]
    split
    · exact .iteSnd h (ih h.advanceClass)
    · exact ih (h.when (·.setDeficit)).advanceClass

protected theorem Holds.nextQueue {p} (h : Holds Q t) : Holds Q (nextQueue t p).2 := by
  dsimp only [nextQueue]
  split
  · exact h
  · split
    · exact h
    · exact .iteSnd h.roundRobin h

protected theorem Holds.egressRecord {p bs} (h : Holds Q t) : Holds Q (egressRecord t p bs) := by
  dsimp only [egressRecord]
  split
  · exact h
  · exact .ite h.produceCounted h

protected theorem Holds.sendAccess {p f} (h : Holds Q t) : Holds Q (sendAccess t p f) :=
  h.egressRecord.incF.addF.output

protected theorem Holds.sendInternal {p f} (h : Holds Q t) : Holds Q (sendInternal t p f) := by
  dsimp only [sendInternal]
  exact .ite h.output <| .ite h.offerEthernet <| .ite h.output <| .ite h.lookupForward.forwardFrame h

protected theorem Holds.noteDeparture {q f} (h : Holds Q t) : Holds Q (noteDeparture t q f) := .ite h.withPlaza h

protected theorem Holds.chargeSend {p q f transitWaits} (h : Holds Q t) : Holds Q (chargeSend t p q f transitWaits) :=
  (Holds.ite h.setDeficit h).withPlaza.chargeSub.when (·.withPlaza)

protected theorem Holds.readFrame {f} (h : Holds Q t) : Holds Q (readFrame t f).2 :=
  .iteSnd h.touchAll h.touchAll.withPlaza

protected theorem Holds.dequeueSend {p q} (h : Holds Q t) : Holds Q (dequeueSend t p q) := by
  dsimp only [dequeueSend]
  split
  · exact h
  · split
    · exact h
    · exact .ite ((h.readFrame.chargeSend.removeRef.noteDeparture.when (·.setDeficit)).sendAccess) <|
        .ite ((h.readFrame.chargeSend.removeRef.noteDeparture.when (·.setDeficit)).emitFrame)
        ((h.readFrame.chargeSend.removeRef.noteDeparture.when (·.setDeficit)).sendInternal)

protected theorem Holds.serveEgress {p} (h : Holds (Guarded g) t) : Holds (Guarded g) (serveEgress t p) := by
  dsimp only [serveEgress]
  split
  · rename_i e
    exact h.nextQueue.of_snd e
  · split
    · split
      · rename_i e _ _ _ e2
        exact ((h.nextQueue.of_snd e).sealNonce.of_snd e2).dequeueSend
      · rename_i e _ _ _ e2
        exact (h.nextQueue.of_snd e).sealNonce.of_snd e2
    · rename_i e _
      exact (h.nextQueue.of_snd e).dequeueSend

protected theorem Holds.execEgressSchedule {p} (h : Holds (Guarded g) t) :
    HoldsNext (Guarded g) (execEgressSchedule p t) :=
  .next (.ite h.serveEgress h)

/-! ### Ingress -/

protected theorem Holds.cutOff {f targets} (h : Holds (Guarded g) t) : Holds (Guarded g) (cutOff t f targets) := by
  dsimp only [cutOff]
  split
  · exact h
  · exact ((h.enqueueFrame.foldl fun _ _ h => h.serveEgress).when (·.incF)).foldl fun _ _ h => h.foldl fun _ _ h =>
      h.removeRef

protected theorem Holds.loseFrame {f places} (h : Holds (Guarded g) t)
    (hp : ∀ v, Holds (Guarded g) v → Holds (Guarded g) (places v).2) :
    Holds (Guarded g) (loseFrame t f places) :=
  have h' := h.dropIngress.captureFrame
  .ite (hp _ h').cutOff h'

protected theorem Holds.accessPlaces {f bs refused} (h : Holds Q t) : Holds Q (accessPlaces f bs refused t).2 := by
  dsimp only [accessPlaces]
  exact .iteSnd h <| .iteSnd h.lookupForward h.lookupForward.ringPlaces

protected theorem Holds.badAccess {p bs} (h : Holds (Guarded g) t) : Holds (Guarded g) (badAccess t p bs) :=
  .ite (h.loseFrame fun _ h => h.accessPlaces) h

protected theorem Holds.receiveAccess {p bs fcsOk truncated} (h : Holds (Guarded g) t) :
    Holds (Guarded g) (receiveAccess t p bs fcsOk truncated) :=
  .ite h.incF.badAccess <| .ite h.incF.badAccess <| .ite h.badAccess <| .ite h.receivePause h.countGood.bridgeAccess

protected theorem Holds.execAccessFrameReceive {p bs fcsOk line} (h : Holds (Guarded g) t) :
    HoldsNext (Guarded g) (execAccessFrameReceive p bs fcsOk line t) :=
  .next (.ite h.addF.receiveAccess h)

protected theorem Holds.execPauseFrameReceive {p bs} (h : Holds Q t) : HoldsNext Q (execPauseFrameReceive p bs t) :=
  .next (.ite h.receivePause h)

/-! ### The cipher engine -/

protected theorem Holds.setIv {d bs} (h : Holds Q t) : Holds Q (setIv t d bs) := h.setWords

protected theorem Holds.writeDescriptorCtl {d w mgt} (h : Holds Q t) : Holds Q (writeDescriptorCtl t d w mgt).1 :=
  .iteFst h <| .iteFst h.setWord.withCip.setWord.withCip h.setWord.withCip

protected theorem Holds.finishDescriptor {d result} (h : Holds Q t) : Holds Q (finishDescriptor t d result) :=
  (Holds.ite h.setF.setF.setBitF.incF (h.setF.setF.setBitF.when (·.incF))).withCip

protected theorem Holds.abortDescriptors (h : Holds Q t) : Holds Q (abortDescriptors t) :=
  h.foldl fun _ _ h => .ite h.finishDescriptor h

protected theorem Holds.zeroiseKeyRegs (h : Holds Q t) : Holds Q (zeroiseKeyRegs t) :=
  h.withCip.foldl fun _ _ h => .ite h.finishDescriptor h

protected theorem Holds.writeOutput {d ofs bs} (h : Holds Q t) : Holds Q (writeOutput t d ofs bs) := by
  dsimp only [writeOutput]
  split
  · exact h.memWrite
  · exact h.memWrite
  · exact h.enqueueFrame
  · exact h

protected theorem Holds.opCbcEncrypt {d j} (h : Holds Q t) : Holds Q (opCbcEncrypt t d j) :=
  h.setF.writeOutput.finishDescriptor

protected theorem Holds.opCbcDecrypt {d j} (h : Holds Q t) : Holds Q (opCbcDecrypt t d j) :=
  (h.setF.unless (·.writeOutput)).finishDescriptor

protected theorem Holds.opCfb {d j dec} (h : Holds Q t) : Holds Q (opCfb t d j dec) := h.writeOutput.finishDescriptor

protected theorem Holds.opCtr {d j} (h : Holds Q t) : Holds Q (opCtr t d j) := h.writeOutput.finishDescriptor

protected theorem Holds.opGcmEncrypt {d j} (h : Holds Q t) : Holds Q (opGcmEncrypt t d j) :=
  h.writeOutput.finishDescriptor

protected theorem Holds.opGcmDecrypt {d j} (h : Holds Q t) : Holds Q (opGcmDecrypt t d j) :=
  .ite h.setF.writeOutput.finishDescriptor <| .ite h.writeOutput.finishDescriptor h.finishDescriptor

protected theorem Holds.opCmac {d j verify} (h : Holds Q t) : Holds Q (opCmac t d j verify) :=
  .ite h.finishDescriptor h.setIv.finishDescriptor

protected theorem Holds.opUnwrap {d j} (h : Holds Q t) : Holds Q (opUnwrap t d j) :=
  .ite h.withCip.finishDescriptor h.finishDescriptor

protected theorem Holds.touchSource {d} (h : Holds Q t) : Holds Q (touchSource t d) := .ite h h.eccTouch.eccTouch

protected theorem Holds.runDescriptor {d} (h : Holds Q t) : Holds Q (runDescriptor t d) := by
  dsimp only [runDescriptor]
  split
  · exact h.finishDescriptor
  · split
    · rename_i e _
      exact (h.descriptorKey _ e).touchSource.finishDescriptor
    · split
      · rename_i e _ _ _
        exact (h.descriptorKey _ e).touchSource.opCbcEncrypt
      · rename_i e _ _ _
        exact (h.descriptorKey _ e).touchSource.opCbcDecrypt
      · rename_i e _ _ _
        exact (h.descriptorKey _ e).touchSource.opCfb
      · rename_i e _ _ _
        exact (h.descriptorKey _ e).touchSource.opCfb
      · rename_i e _ _ _
        exact (h.descriptorKey _ e).touchSource.opCtr
      · rename_i e _ _ _
        exact (h.descriptorKey _ e).touchSource.opGcmEncrypt
      · rename_i e _ _ _
        exact (h.descriptorKey _ e).touchSource.opGcmDecrypt
      · rename_i e _ _ _
        exact (h.descriptorKey _ e).touchSource.opCmac
      · rename_i e _ _ _
        exact (h.descriptorKey _ e).touchSource.opCmac
      · rename_i e _ _ _
        exact (h.descriptorKey _ e).touchSource.opUnwrap
      · rename_i e _ _ _ _ _ _ _ _ _ _ _ _
        exact (h.descriptorKey _ e).touchSource.finishDescriptor

/-- Both states that the choice of an IV answers: the one to go on from, and the one to wait in. -/
protected theorem Holds.startIv {d} (h : Holds Q t) : HoldsSome Q id (startIv t d).1 ∧ Holds Q (startIv t d).2 := by
  dsimp only [startIv]
  split
  · split
    next e => exact ⟨.some (h.takeNonce.of_snd e).setIv, h.takeNonce.of_snd e⟩
    next e => exact ⟨.none, h.takeNonce.of_snd e⟩
  · split
    · exact ⟨.some h.withFresh.setIv, h⟩
    · exact ⟨.some h, h⟩

protected theorem Holds.takeSourceFrame {d} (h : Holds Q t) : Holds Q (takeSourceFrame t d) := by
  dsimp only [takeSourceFrame]
  split
  · split
    · exact h.removeRef.withCip
    · exact h
  · exact h

protected theorem Holds.beginDescriptor {d len} (h : Holds Q t) : Holds Q (beginDescriptor t d len) := by
  dsimp only [beginDescriptor]
  split
  · rename_i e
    exact (Holds.ite ((h.takeSourceFrame.descriptorKey _ e).withCip) (h.takeSourceFrame.descriptorKey _
      e)).withCip.setF
  · exact (h.takeSourceFrame.when (·.withCip)).withCip.setF

protected theorem Holds.startDescriptor {d} (h : Holds Q t) : Holds Q (startDescriptor t d) := by
  refine .ite h.finishDescriptor (.ite h ?_)
  split
  next e => exact (h.startIv.1 _ (by rw [e])).beginDescriptor
  next e => exact .ite (h.startIv.2.of_snd e).finishDescriptor (h.startIv.2.of_snd e)

protected theorem Holds.queueOp {d op ctl} (h : Holds Q t) : Holds Q (queueOp t d op ctl) := by
  dsimp only [queueOp]
  exact .ite h.writeDescriptorCtl.noteWrite.output h.output

protected theorem Holds.execGcmEncrypt {d ctl} (h : Holds Q t) : HoldsNext Q (execGcmEncrypt d ctl t) :=
  .next h.queueOp

protected theorem Holds.execGcmDecrypt {d ctl} (h : Holds Q t) : HoldsNext Q (execGcmDecrypt d ctl t) :=
  .next h.queueOp

protected theorem Holds.execCbcEncrypt {d ctl} (h : Holds Q t) : HoldsNext Q (execCbcEncrypt d ctl t) :=
  .next h.queueOp

protected theorem Holds.execCbcDecrypt {d ctl} (h : Holds Q t) : HoldsNext Q (execCbcDecrypt d ctl t) :=
  .next h.queueOp

protected theorem Holds.execCfbEncrypt {d ctl} (h : Holds Q t) : HoldsNext Q (execCfbEncrypt d ctl t) :=
  .next h.queueOp

protected theorem Holds.execCfbDecrypt {d ctl} (h : Holds Q t) : HoldsNext Q (execCfbDecrypt d ctl t) :=
  .next h.queueOp

protected theorem Holds.execCtr {d ctl} (h : Holds Q t) : HoldsNext Q (execCtr d ctl t) := .next h.queueOp

protected theorem Holds.execCmacGenerate {d ctl} (h : Holds Q t) : HoldsNext Q (execCmacGenerate d ctl t) :=
  .next h.queueOp

protected theorem Holds.execCmacVerify {d ctl} (h : Holds Q t) : HoldsNext Q (execCmacVerify d ctl t) :=
  .next h.queueOp

protected theorem Holds.execUnwrapRing {d ctl} (h : Holds Q t) : HoldsNext Q (execUnwrapRing d ctl t) :=
  .next h.queueOp

protected theorem Holds.execDescriptorStart (h : Holds Q t) : HoldsNext Q (execDescriptorStart t) := by
  dsimp only [execDescriptorStart]
  split
  · split
    · exact .next h.startDescriptor
    · exact .next h
  · exact .next h

protected theorem Holds.endPass1 {d} (h : Holds Q t) : Holds Q (endPass1 t d) := by
  dsimp only [endPass1]
  split
  · exact h.finishDescriptor
  · rename_i e
    exact .ite ((h.descriptorKey _ e).touchSource.setF) ((h.descriptorKey _ e).touchSource.finishDescriptor)

protected theorem Holds.flushCache (h : Holds Q t) : Holds Q (flushCache t) := h.withCip

protected theorem Holds.execCacheFlush (h : Holds Q t) : HoldsNext Q (execCacheFlush t) :=
  .next (.ite h.flushCache.noteReg h)

protected theorem Holds.nextLgen (h : Holds Q t) : Holds Q (nextLgen t) :=
  .ite h.withCip.setFlag <| .ite h.withCip.setFlag ((h.setF.withCip.foldl fun _ _ h =>
    h.writeNonceRecord.setNctr.setNlim).setFlag)

protected theorem Holds.execLgenNext (h : Holds Q t) : HoldsNext Q (execLgenNext t) :=
  .next (.ite h.nextLgen.noteReg h)

protected theorem Holds.writeKeyReg {k w v} (h : Holds Q t) : Holds Q (writeKeyReg t k w v).1 :=
  .iteFst h <| .iteFst h h.withCip

protected theorem Holds.execKeyRegisterWrite {k w v} (h : Holds Q t) :
    HoldsNext Q (execKeyRegisterWrite k w v t) := by
  dsimp only [execKeyRegisterWrite]
  exact .next (.ite h.writeKeyReg.noteWrite.output h.output)

protected theorem Holds.execNonceReservationComplete {slot} (h : Holds Q t) :
    HoldsNext Q (execNonceReservationComplete slot t) :=
  .next (.ite h.writeNonceRecord.setNlim.withCip h)

protected theorem Holds.execEntropyFail (h : Holds Q t) : HoldsNext Q (execEntropyFail t) :=
  .next (.ite h.withCip.recordFault h)

/-! ### Ring and twin lanes -/

protected theorem Holds.setBuState {p st} (h : Holds Q t) : Holds Q (setBuState t p st) := h.setF

protected theorem Holds.buReason {p reason rate} (h : Holds Q t) : Holds Q (buReason t p reason rate) := h.setF.setF

protected theorem Holds.dropLock {p} (h : Holds Q t) : Holds Q (dropLock t p) := h.setPortSt

protected theorem Holds.restartTx {p} (h : Holds Q t) : Holds Q (restartTx t p) := h.setPortSt

protected theorem Holds.stopBringup {p} (h : Holds Q t) : Holds Q (stopBringup t p) :=
  h.foldl fun _ _ h => h.stopTimer

protected theorem Holds.showState {p st} (h : Holds Q t) : Holds Q (showState t p st) := h.setPortSt.output

protected theorem Holds.loadPortEq {p rate} (h : Holds Q t) : Holds Q (loadPortEq t p rate) := h.loadEq.loadEq

protected theorem Holds.leaveUp {p} (h : Holds (Guarded g) t) : Holds (Guarded g) (leaveUp t p) :=
  .ite (.ite h.twinLinkLost h.declareBroken) h

protected theorem Holds.enterDown {p} (h : Holds (Guarded g) t) : Holds (Guarded g) (enterDown t p) :=
  h.leaveUp.stopBringup.setFlag.setFlag.setBuState.dropLock.setPortSt

protected theorem Holds.settlePort {p} (h : Holds Q t) : Holds Q (settlePort t p) := .ite h.settleAdded h

protected theorem Holds.enterCap {p} (h : Holds (Guarded g) t) : Holds (Guarded g) (enterCap t p) :=
  h.leaveUp.stopBringup.settlePort.setBuState.setF.setFlag.setFlag.setFlag.dropLock.setFlag.setPortSt.restartTx
    |>.loadPortEq.output.startTimer

protected theorem Holds.startPort {p} (h : Holds (Guarded g) t) : Holds (Guarded g) (startPort t p) := .ite h.enterCap h

protected theorem Holds.goUp {p} (h : Holds Q t) : Holds Q (goUp t p) :=
  .ite ((h.stopBringup.setBuState.setFlag.when (·.deriveSegment)).setPortSt.startTimer)
    ((h.stopBringup.setBuState.setFlag.when (·.deriveSegment)).setPortSt.ensureTimer.startTimer.startTimer)

protected theorem Holds.switchRate {p rate} (h : Holds Q t) : Holds Q (switchRate t p rate) :=
  h.stopBringup.settlePort.setBuState.setF.dropLock.restartTx.loadPortEq.setPortSt.showState.startTimer

protected theorem Holds.noteNoTable {p} (h : Holds Q t) : Holds Q (noteNoTable t p) := by
  dsimp only [noteNoTable]
  split
  · exact .ite h.buReason h
  · exact h

protected theorem Holds.stepOn {p} (h : Holds Q t) : Holds Q (stepOn t p) := .ite h.switchRate h.goUp

protected theorem Holds.setTaps {lane pre1 main post1} (h : Holds Q t) : Holds Q (setTaps t lane pre1 main post1) :=
  h.setF

protected theorem Holds.presetTaps {lane} (h : Holds Q t) : Holds Q (presetTaps t lane) := h.setTaps

protected theorem Holds.enterFrTrain {p} (h : Holds Q t) : Holds Q (enterFrTrain t p) :=
  h.stopBringup.setBuState.setF.setFlag.dropLock.restartTx.loadPortEq.presetTaps.presetTaps.output.output.startTimer

protected theorem Holds.moveTap {lane tap up} (h : Holds Q t) : Holds Q (moveTap t lane tap up).1 :=
  .iteFst h.setTaps h

protected theorem Holds.coeffRequest {lane tap req} (h : Holds Q t) : Holds Q (coeffRequest t lane tap req).1 := by
  dsimp only [coeffRequest]
  split
  · exact h.moveTap
  · exact h.moveTap
  · exact h
  · exact h.presetTaps
  · exact h.presetTaps

protected theorem Holds.verifyError {p} (h : Holds Q t) : Holds Q (verifyError t p) := .ite h.startTimer h

protected theorem Holds.loseLock {p} (h : Holds (Guarded g) t) : Holds (Guarded g) (loseLock t p) :=
  .ite h.incF.leaveUp.setBuState.dropLock.startTimer (h.incF.dropLock.when (·.stopTimer))

protected theorem Holds.setLaneRx {p lane l} (h : Holds Q t) : Holds Q (setLaneRx t p lane l) := h.setPortSt

protected theorem Holds.badMarker {p lane} (h : Holds (Guarded g) t) : Holds (Guarded g) (badMarker t p lane) :=
  .ite (.ite h.incF.verifyError.setLaneRx h.incF.verifyError.loseLock) h.incF.verifyError.setLaneRx

protected theorem Holds.setLos {p b} (h : Holds Q t) : Holds Q (setLos t p b) := .ite (h.withPins (by rfl)) h

protected theorem Holds.endAttemptWith {p reason rate} (h : Holds Q t) : Holds Q (endAttemptWith t p reason rate) :=
  h.buReason.setPortSt

protected theorem Holds.goodMarker {p lane w atSlot skew} (h : Holds (Guarded g) t) :
    Holds (Guarded g) (goodMarker t p lane w atSlot skew) :=
  (h.setLaneRx.when (·.setFlag)).setPortSt.unless fun h => .ite h.verifyError.loseLock <|
    .ite (.ite h h.dropLock.stopTimer.endAttemptWith) (h.setF.when (·.ensureTimer))

protected theorem Holds.setPortEn {p on} (h : Holds (Guarded g) t) : Holds (Guarded g) (setPortEn t p on) :=
  .ite h.setFlag.startPort (h.setFlag.unless (·.enterDown))

protected theorem Holds.notePortCfg {p} (h : Holds Q t) : Holds Q (notePortCfg t p) := h.noteReg

protected theorem Holds.execRingPortEnable {p} (h : Holds (Guarded g) t) :
    HoldsNext (Guarded g) (execRingPortEnable p t) :=
  .next (.ite h.setPortEn.notePortCfg h)

protected theorem Holds.execRingPortDisable {p} (h : Holds (Guarded g) t) :
    HoldsNext (Guarded g) (execRingPortDisable p t) :=
  .next (.ite h.setPortEn.notePortCfg h)

protected theorem Holds.retrainPort {p} (h : Holds (Guarded g) t) : Holds (Guarded g) (retrainPort t p) :=
  .ite h.setFlag h.enterCap

protected theorem Holds.execRetrain {p} (h : Holds (Guarded g) t) : HoldsNext (Guarded g) (execRetrain p t) :=
  .next (.ite h.retrainPort.noteReg h)

protected theorem Holds.execMarkerReceive {p lane line atSlot skew} (h : Holds (Guarded g) t) :
    HoldsNext (Guarded g) (execMarkerReceive p lane line atSlot skew t) :=
  .next (.ite (.ite ((h.addF.setLaneRx.unless (·.verifyError)).setLos.goodMarker) ((h.addF.setLaneRx.unless
    (·.verifyError)).badMarker)) h)

protected theorem Holds.capInCap {p w} (h : Holds Q t) : Holds Q (capInCap t p w) :=
  .ite h.setPortSt.endAttemptWith <| .ite h.endAttemptWith <| .ite h <|
    .ite (.ite h.enterFrTrain h.endAttemptWith) ((Holds.ite h.showState.startTimer h).when
    (·.setPortSt.noteNoTable.stepOn))

protected theorem Holds.capInStep {p w} (h : Holds Q t) : Holds Q (capInStep t p w) := .ite h.stepOn h

protected theorem Holds.notePeer {p w} (h : Holds Q t) : Holds Q (notePeer t p w) := h.setF.setF.setFlag.setPortSt

protected theorem Holds.execCapabilityWordReceive {p w} (h : Holds Q t) :
    HoldsNext Q (execCapabilityWordReceive p w t) :=
  .next (.ite (.ite (.ite h.notePeer.capInCap h.notePeer.capInStep) h.verifyError) h)

protected theorem Holds.failWith {p reason rate} (h : Holds Q t) : Holds Q (failWith t p reason rate) :=
  .ite h h.buReason

protected theorem Holds.execCapTimeout {p} (h : Holds (Guarded g) t) : HoldsNext (Guarded g) (execCapTimeout p t) :=
  .next (.ite h.failWith.enterCap h)

protected theorem Holds.execStepVerifyDone {p} (h : Holds Q t) : HoldsNext Q (execStepVerifyDone p t) :=
  .next (.ite (.ite h.stopTimer.setPortSt.showState.goUp (h.stopTimer.setPortSt.showState.when (·.stepOn))) h)

protected theorem Holds.fallBack {p} (h : Holds Q t) : Holds Q (fallBack t p) :=
  h.incF.failWith.stopBringup.setF.dropLock.restartTx.loadPortEq.setPortSt.showState

protected theorem Holds.execStepFallback {p} (h : Holds Q t) : HoldsNext Q (execStepFallback p t) :=
  .next (.ite h.fallBack h)

protected theorem Holds.execFrCoeffRequest {p lane tap req} (h : Holds Q t) :
    HoldsNext Q (execFrCoeffRequest p lane tap req t) := by
  dsimp only [execFrCoeffRequest]
  exact .next (.ite h.coeffRequest.output h)

protected theorem Holds.execFrTrainComplete {p} (h : Holds Q t) : HoldsNext Q (execFrTrainComplete p t) :=
  .next (.ite h.goUp h)

protected theorem Holds.execFrTrainTimeout {p} (h : Holds (Guarded g) t) :
    HoldsNext (Guarded g) (execFrTrainTimeout p t) :=
  .next (.ite h.failWith.enterCap h)

protected theorem Holds.execLossOfLock {p cause} (h : Holds (Guarded g) t) :
    HoldsNext (Guarded g) (execLossOfLock p cause t) :=
  .next (.ite ((Holds.ite h.setLos h).when (·.loseLock)) h)

protected theorem Holds.execRelockTimeout {p} (h : Holds (Guarded g) t) :
    HoldsNext (Guarded g) (execRelockTimeout p t) :=
  .next (.ite h.failWith.enterCap h)

protected theorem Holds.execRelockDone {p} (h : Holds Q t) : HoldsNext Q (execRelockDone p t) := .next (.ite h.goUp h)

protected theorem Holds.execBadSof {p word} (h : Holds Q t) : HoldsNext Q (execBadSof p word t) :=
  .next (.ite h.incF.verifyError.setPortSt h)

/-! ### The transaction engine -/

protected theorem Holds.keepResponse {r} (h : Holds Q t) : Holds Q (keepResponse t r) := h.withOdw

protected theorem Holds.answerAddr {e code data} (h : Holds Q t) : Holds Q (answerAddr t e code data) := by
  dsimp only [answerAddr]
  split
  · exact .ite h.withOdw.output.keepResponse h
  · exact h

protected theorem Holds.completeTag {tag code data} (h : Holds Q t) : Holds Q (completeTag t tag code data) := by
  dsimp only [completeTag]
  split
  · exact h.incF
  · split
    · exact h.withTxn.stopTimer.withTxn
    · exact h.withTxn.stopTimer.output.answerAddr

protected theorem Holds.logPostFault {tag initiator addr op code x ts} (h : Holds Q t) :
    Holds Q (logPostFault t tag initiator addr op code x ts) :=
  (h.memWrite.setF.incF.when (·.incF)).when (·.produceCounted)

protected theorem Holds.sendResponse {r code data} (h : Holds Q t) : Holds Q (sendResponse t r code data) :=
  (Holds.ite h.withTxn h).withTxn.addFrameBy

protected theorem Holds.sendPostFault {r code} (h : Holds Q t) : Holds Q (sendPostFault t r code) :=
  h.withTxn.withTxn.addFrameBy

protected theorem Holds.completeLocal {r code data} (h : Holds Q t) : Holds Q (completeLocal t r code data) :=
  .ite h.completeTag h.incF

protected theorem Holds.noteExecuted {r} (h : Holds Q t) : Holds Q (noteExecuted t r) :=
  .ite h (h.withTxn.when (·.withTwin (by rfl)))

protected theorem Holds.completeRequest {r code data} (h : Holds Q t) : Holds Q (completeRequest t r code data) :=
  .ite (.ite (h.noteExecuted.unless (·.logPostFault)) h.noteExecuted.completeLocal) <|
    .ite (h.noteExecuted.unless (·.sendPostFault)) h.noteExecuted.sendResponse

protected theorem Holds.setSeqRx {e} (h : Holds Q t) : Holds Q (setSeqRx t e) := h.withTxn

protected theorem Holds.trackResponse {node side n} (h : Holds Q t) : Holds Q (trackResponse t node side n) :=
  h.setSeqRx.when (·.incF)

protected theorem Holds.sendRequest {who tag t'} (h : Holds Q t) : Holds Q (sendRequest t who tag t') :=
  h.withTxn.addFrame

protected theorem Holds.launch {who tag x} (h : Holds Q t) : Holds Q (launch t who tag x) :=
  .ite h.completeRequest <| .ite (.ite h.completeRequest h.withTxn) h.sendRequest

protected theorem Holds.launchPosted {who tag t'} (h : Holds Q t) : Holds Q (launchPosted t who tag t') :=
  h.launch.unless (·.withTxn)

protected theorem Holds.tryIssue {who t' poll} (h : Holds Q t) : HoldsSome Q id (tryIssue t who t' poll) := by
  dsimp only [tryIssue]
  split
  · exact .none
  · exact .ite (.some h.withFresh.launchPosted) <| .some h.withFresh.withTxn.startTimer.launch

protected theorem Holds.grantTag {before rest} (h : Holds Q t) : Holds Q (grantTag t before rest) := by
  induction rest generalizing before with
  | nil => exact h
  | cons w rest ih =>
    rw [grantTag]
    split
    next e => exact h.withTxn.tryIssue _ e
    next => exact ih

protected theorem Holds.grantWaiting (h : Holds Q t) : Holds Q (grantWaiting t) := h.foldl fun _ _ h => h.grantTag

protected theorem Holds.issueOrWait {who x} (h : Holds Q t) : Holds Q (issueOrWait t who x) := by
  dsimp only [issueOrWait]
  split
  next e => exact HoldsSome.ite .none h.grantWaiting.tryIssue _ e
  next => exact h.grantWaiting.when (·.withTxn)

protected theorem Holds.execTxnIssue {who t'} (h : Holds Q t) : HoldsNext Q (execTxnIssue who t' t) :=
  .next (.ite h.issueOrWait h)

protected theorem Holds.execTagGrant (h : Holds Q t) : HoldsNext Q (execTagGrant t) := .next (.ite h.grantTag h)

protected theorem Holds.execTxnTimeout {tag} (h : Holds Q t) : HoldsNext Q (execTxnTimeout tag t) :=
  .next (.ite h.completeTag.withTxn.startTimer h)

protected theorem Holds.execTagHoldoutEnd {tag} (h : Holds Q t) : HoldsNext Q (execTagHoldoutEnd tag t) :=
  .next (.ite h.withTxn.stopTimer h)

protected theorem Holds.refuseRequest {r} (h : Holds Q t) : Holds Q (refuseRequest t r) :=
  h.incF.completeRequest.withTxn

protected theorem Holds.serveRequest {l} (h : Holds Q t) : Holds Q (serveRequest t l) :=
  .ite h.completeRequest <| .ite h.completeRequest <| .ite h.withTxn h.refuseRequest

protected theorem Holds.takeRequest {l} (h : Holds Q t) : Holds Q (takeRequest t l) :=
  .ite ((h.setSeqRx.when (·.incF)).when (·.withTxn)) <| .ite ((h.setSeqRx.when (·.incF)).completeRequest)
    ((h.setSeqRx.when (·.incF)).serveRequest)

protected theorem Holds.admitRequest (h : Holds Q t) : Holds Q (admitRequest t) := by
  dsimp only [admitRequest]
  split
  · exact h
  · exact .ite h.withRing.refillRequests.takeRequest h

protected theorem Holds.execTxnReqReceive (h : Holds Q t) : HoldsNext Q (execTxnReqReceive t) :=
  .next (.ite h.admitRequest h)

protected theorem Holds.execHeldRequestAdmit (h : Holds Q t) : HoldsNext Q (execHeldRequestAdmit t) :=
  .next (.ite h.admitRequest h)

protected theorem Holds.takeHeld {ty} (h : Holds Q t) : HoldsSome Q Prod.snd (takeHeld t ty) := by
  dsimp only [takeHeld]
  split
  · exact .some h.withRing
  · exact .none

protected theorem Holds.matchResponse {f} (h : Holds Q t) : Holds Q (matchResponse t f) := by
  dsimp only [matchResponse]
  split
  · exact h.incF
  · exact .ite (.ite h.setSeqRx.completeTag h.completeTag) h.completeTag

protected theorem Holds.execTxnRspReceive (h : Holds Q t) : HoldsNext Q (execTxnRspReceive t) := by
  dsimp only [execTxnRspReceive]
  split
  · exact .next h
  · rename_i e
    exact .next (.ite ((h.takeHeld _ e).trackResponse.matchResponse) (h.takeHeld _ e))

protected theorem Holds.execPostFaultReceive (h : Holds Q t) : HoldsNext Q (execPostFaultReceive t) := by
  dsimp only [execPostFaultReceive]
  split
  · exact .next h
  · rename_i e
    exact .next (.ite ((h.takeHeld _ e).trackResponse.logPostFault) (h.takeHeld _ e))

/-! ### Frames received on ring ports -/

protected theorem Holds.addOwnOnPort {port f} (h : Holds Q t) : Holds Q (addOwnOnPort t port f) :=
  .ite h.incF <| .ite h h.addOnPort

protected theorem Holds.checkHeal {port} (h : Holds Q t) : Holds Q (checkHeal t port) := h.setPortSt

protected theorem Holds.acceptKeepalive {port f rx} (h : Holds (Guarded g) t) :
    Holds (Guarded g) (acceptKeepalive t port f rx) :=
  ((h.setPortSt.when (·.declareBroken)).when (·.ensureTimer)).checkHeal

protected theorem Holds.receiveKeepalive {port r phase} (h : Holds (Guarded g) t) :
    Holds (Guarded g) (receiveKeepalive t port r phase) := by
  dsimp only [receiveKeepalive]
  split
  · exact h.incF
  · split
    · exact h.incF
    · exact .ite ((Holds.ite h.incF h).setPortSt.acceptKeepalive) h.acceptKeepalive

protected theorem Holds.execKeepaliveReceive {port words sofAt phase} (h : Holds (Guarded g) t) :
    HoldsNext (Guarded g) (execKeepaliveReceive port words sofAt phase t) :=
  .next (.ite (.ite h.countWaits.receiveKeepalive h) h)

protected theorem Holds.recordClass7 {f} (h : Holds Q t) : Holds Q (recordClass7 t f).2 := by
  dsimp only [recordClass7]
  split
  · exact h.withRing
  · exact h

protected theorem Holds.countCopy {port f k} (h : Holds Q t) : Holds Q (countCopy t port f k) := by
  dsimp only [countCopy]
  split
  · exact h
  · exact .ite h.updateEntry <| .ite h.updateEntry <| .ite h.updateEntry h.updateEntry

protected theorem Holds.acceptCopy {port f} (h : Holds Q t) : Holds Q (acceptCopy t port f).2 := by
  dsimp only [acceptCopy]
  exact (Holds.iteSnd h.recordClass7 h).countCopy

protected theorem Holds.offerSignal {port f} (h : Holds Q t) : Holds Q (offerSignal t port f) :=
  h.handAt fun _ h => .ite h.withJct h

protected theorem Holds.deliverFrame {port f} (h : Holds Q t) : Holds Q (deliverFrame t port f) :=
  .ite (.ite h.bridgeFromRing h) <| .ite h.offerSignal <| .ite h.withRing.refillRequests <|
    .ite (h.handAt fun _ h => h.output) <| .ite h h.withRing

protected theorem Holds.copyFrame {port f} (h : Holds Q t) : Holds Q (copyFrame t port f) := by
  dsimp only [copyFrame]
  split
  · exact h.incF
  · split
    · rename_i e
      exact (h.acceptCopy.of_snd e).deliverFrame
    · rename_i e
      exact (h.acceptCopy.of_snd e).incF
    · rename_i e
      exact (h.acceptCopy.of_snd e).incF

protected theorem Holds.requestReturned {f} (h : Holds Q t) : Holds Q (requestReturned t f) :=
  .ite h <| .ite h.logPostFault <| .ite h.completeTag h

protected theorem Holds.localPlaces {p f} (h : Holds Q t) : Holds Q (localPlaces t p f).2 := by
  dsimp only [localPlaces]
  exact .iteSnd h h.lookupForward

protected theorem Holds.badFrame {port f cause} (h : Holds (Guarded g) t) :
    Holds (Guarded g) (badFrame t port f cause) := by
  unfold badFrame
  extract_lets s₁ v s₂
  have h₂ : Holds (Guarded g) s₂ := Holds.loseFrame h.incF fun v hv => by
    split
    · exact .iteSnd hv.ringTarget hv
    · exact hv
  exact h₂.when fun h => .ite h.localPlaces.cutOff h

protected theorem Holds.relayOut {f} (h : Holds Q t) : Holds Q (relayOut t f) := by
  dsimp only [relayOut]
  split
  · exact .ite h.emitFrame.startTimer h
  · exact h

protected theorem Holds.relayIn {port f} (h : Holds Q t) : Holds Q (relayIn t port f) := .ite h.startTimer.sendRing h

protected theorem Holds.carryFrame {port f} (h : Holds Q t) : Holds Q (carryFrame t port f) := by
  dsimp only [carryFrame]
  split
  · exact (((((Holds.ite h.incF h).when (·.incF)).when (·.requestReturned)).when (·.copyFrame)).when
      (·.relayOut)).when (·.sendRing)
  · exact ((((Holds.ite h.incF h).when (·.incF)).when (·.requestReturned)).when (·.copyFrame)).when (·.relayOut)

protected theorem Holds.receiveRing {port r} (h : Holds (Guarded g) t) : Holds (Guarded g) (receiveRing t port r) := by
  dsimp only [receiveRing]
  split
  · exact h.receiveKeepalive
  · split
    · exact .ite h.setPortSt.incF h.setPortSt.badFrame
    · exact .ite h.setPortSt.relayIn h.setPortSt.carryFrame

protected theorem Holds.execRingFrameReceive {port words sofAt} (h : Holds (Guarded g) t) :
    HoldsNext (Guarded g) (execRingFrameReceive port words sofAt t) :=
  .next (.ite h.countWaits.receiveRing h)

protected theorem Holds.execRingFrameAdd {f} (h : Holds Q t) : HoldsNext Q (execRingFrameAdd f t) := .next h.addFrame

/-! ### The Crossing -/

protected theorem Holds.execAnnouncementSend (h : Holds Q t) : HoldsNext Q (execAnnouncementSend t) :=
  .next (.ite h.addOwnOnPort.addOwnOnPort.startTimer h)

protected theorem Holds.duplicateSeen {uid} (h : Holds Q t) : Holds Q (duplicateSeen t uid) :=
  h.setFlag.startTimer.unless (·.recordFault)

protected theorem Holds.enterAnnouncement {port f} (h : Holds Q t) : Holds Q (enterAnnouncement t port f) := by
  dsimp only [enterAnnouncement]
  split
  · exact (h.updateEntry.unless (·.bumpMapGen)).startTimer.when (·.setFlag)
  · exact h.withRing.bumpMapGen.startTimer.when (·.setFlag)

protected theorem Holds.receiveAnnouncement {port f} (h : Holds Q t) : Holds Q (receiveAnnouncement t port f) :=
  (Holds.ite h.duplicateSeen <| .ite h h.enterAnnouncement).selectMaster

protected theorem Holds.execAnnouncementReceive (h : Holds Q t) : HoldsNext Q (execAnnouncementReceive t) := by
  dsimp only [execAnnouncementReceive]
  split
  · exact .next (h.withRing.when (·.receiveAnnouncement))
  · exact .next h

protected theorem Holds.forgetSource {node side} (h : Holds Q t) : Holds Q (forgetSource t node side) :=
  h.withRing.withTxn

protected theorem Holds.removeEntry {node side} (h : Holds Q t) : Holds Q (removeEntry t node side) :=
  h.withRing.forgetSource

protected theorem Holds.unreach {node side west} (h : Holds Q t) : Holds Q (unreach t node side west) := by
  dsimp only [unreach]
  split
  · exact h
  · exact .ite ((Holds.ite h.setFlag h).unless (·.updateEntry.bumpMapGen)) ((Holds.ite h.setFlag
      h).removeEntry.bumpMapGen)

protected theorem Holds.execReachTimeout {node side west} (h : Holds Q t) :
    HoldsNext Q (execReachTimeout node side west t) :=
  .next (.ite h.stopTimer.unreach.selectMaster h)

protected theorem Holds.clearDupId (h : Holds Q t) : Holds Q (clearDupId t) := h.stopTimer.setFlag

protected theorem Holds.execDupIdTimeout (h : Holds Q t) : HoldsNext Q (execDupIdTimeout t) :=
  .next (.ite h.clearDupId.selectMaster h)

protected theorem Holds.execKeepaliveSend {port} (h : Holds (Guarded g) t) :
    HoldsNext (Guarded g) (execKeepaliveSend port t) := by
  dsimp only [execKeepaliveSend]
  split
  · split
    · rename_i e
      exact .next ((h.sealNonce.of_snd e).setPortSt.emitRing.startTimer)
    · rename_i e
      exact .next (h.sealNonce.of_snd e)
  · exact .next h

protected theorem Holds.execKeepaliveTick {port wordSeen} (h : Holds (Guarded g) t) :
    HoldsNext (Guarded g) (execKeepaliveTick port wordSeen t) :=
  .next (.ite (.ite h.startTimer.setPortSt (h.startTimer.setPortSt.incF.stopTimer.when (·.declareBroken))) h)

protected theorem Holds.setWrap {port} (h : Holds (Guarded g) t) : Holds (Guarded g) (setWrap t port) :=
  h.setFlag.declareBroken

protected theorem Holds.noteRingCtl (h : Holds Q t) : Holds Q (noteRingCtl t) := h.noteReg

protected theorem Holds.execMaintenanceWrap {port} (h : Holds (Guarded g) t) :
    HoldsNext (Guarded g) (execMaintenanceWrap port t) :=
  .next (.ite h.setWrap.noteRingCtl h)

protected theorem Holds.holdDown {key cause} (h : Holds Q t) : Holds Q (holdDown t key cause) := h.startTimer.withRing

protected theorem Holds.endHolds {cause} (h : Holds Q t) : Holds Q (endHolds t cause) := h.withTimers.withRing

protected theorem Holds.applyWrap {w west e} (h : Holds Q t) : Holds Q (applyWrap t w west e) :=
  (((Holds.ite h.holdDown h).when (·.holdDown)).when (·.unreach)).when (·.unreach)

protected theorem Holds.receiveWrap {f} (h : Holds Q t) : Holds Q (receiveWrap t f) := by
  dsimp only [receiveWrap]
  split
  · exact h.endHolds
  · split
    · exact h.foldl fun _ _ h => h.applyWrap
    · exact h

protected theorem Holds.execWrapNoticeReceive (h : Holds Q t) : HoldsNext Q (execWrapNoticeReceive t) := by
  dsimp only [execWrapNoticeReceive]
  split
  · rename_i e
    exact .next (.ite ((h.takeHeld _ e).receiveWrap.selectMaster) (h.takeHeld _ e))
  · exact .next h

protected theorem Holds.execWrapHolddownExpiry {node side west} (h : Holds Q t) :
    HoldsNext Q (execWrapHolddownExpiry node side west t) :=
  .next (.ite h.withRing.stopTimer h)

protected theorem Holds.execHealReady {port} (h : Holds Q t) : HoldsNext Q (execHealReady port t) :=
  .next (.ite h.stopTimer.setPortSt.startTimer.checkHeal h)

protected theorem Holds.execHeal (h : Holds Q t) : HoldsNext Q (execHeal t) := .next (.ite h.setFlag.noteRingCtl h)

protected theorem Holds.unwrapPorts (h : Holds Q t) : Holds Q (unwrapPorts t) :=
  .ite (((Holds.ite h.unwrapPort h).when (·.unwrapPort)).when (·.setFlag)) h

/-! ### Routes and list runs of the Junction -/

protected theorem Holds.setSigStatus {n v} (h : Holds Q t) : Holds Q (setSigStatus t n v) := h.memPut

protected theorem Holds.refreshSig {n} (h : Holds Q t) : Holds Q (refreshSig t n) := h.setSigStatus.memPut

protected theorem Holds.writeSig {n y subst clamped ovf} (h : Holds Q t) :
    Holds Q (writeSig t n y subst clamped ovf) :=
  h.memPut.setSigStatus.memPut

protected theorem Holds.readSig {n p} (h : Holds Q t) : Holds Q (readSig t n p).2 :=
  .iteSnd h <| .iteSnd h.setSigStatus.incF <| .iteSnd h h

protected theorem Holds.resultOf {r p input} (h : Holds Q t) : Holds Q (resultOf t r p input).2 := by
  dsimp only [resultOf]
  split
  · exact .ite h.incF h
  · exact .iteSnd h h.incF

protected theorem Holds.stepAlive {t' d bs} (h : Holds Q t) : Holds Q (stepAlive t t' d bs).2 := .iteSnd h.setF h

protected theorem Holds.noteRouteError {route code} (h : Holds Q t) : Holds Q (noteRouteError t route code) :=
  h.incF.setF.setF

protected theorem Holds.emit {run r bs} (h : Holds Q t) : Holds Q (emit t run r bs) := by
  dsimp only [emit]
  exact .ite h.stepAlive.incF h.stepAlive.withJct

protected theorem Holds.writeResult {r o same} (h : Holds Q t) : Holds Q (writeResult t r o same) :=
  .ite h <| .ite h.refreshSig h.writeSig

protected theorem Holds.passOn {run route r bufs y stop} (h₀ : Holds Q t) (h : Holds Q u) :
    Holds Q (passOn t u run route r bufs y stop).state := by
  unfold passOn
  extract_lets bs bs'
  split
  · split
    · exact h₀.noteRouteError
    · exact h.when (·.emit)
  · exact h

protected theorem Holds.touchEnum {r x} (h : Holds Q t) : Holds Q (touchEnum t r x) := by
  dsimp only [touchEnum]
  split
  · exact .ite h.eccTouch h
  · exact h

protected theorem Holds.doRoute {run route r bufs} (h : Holds Q t) : Holds Q (doRoute t run route r bufs).state := by
  have hs : Holds Q (if r.inSig then readSig t r.srcSig (readParams t run.routeBank r.param)
      else (extract r run.msg.bytes, t)).2 := .iteSnd h.readSig h
  dsimp only [doRoute]
  split
  next e => exact (hs.touchEnum.resultOf.of_snd e).when (·.setSigStatus)
  next e =>
    have hr := Holds.of_snd hs.touchEnum.resultOf e
    split
    · exact hr.writeResult
    · exact h.passOn hr.writeResult

protected theorem Holds.stepRoute {run route bufs} (h : Holds Q t) : Holds Q (stepRoute t run route bufs).state := by
  dsimp only [stepRoute]
  split
  · exact h
  · split
    · exact h.touchAll.incF.doRoute
    · exact h.touchAll.incF.noteRouteError

protected theorem Holds.runList {run route bufs fuel} (h : Holds Q t) : Holds Q (runList t run route bufs fuel) := by
  induction fuel generalizing t route bufs with
  | zero => exact h.incF
  | succ fuel ih => exact .ite h.eccTouch.stepRoute (ih h.eccTouch.stepRoute)

protected theorem Holds.setPipe {p x} (h : Holds Q t) : Holds Q (setPipe t p x) := by
  dsimp only [setPipe]
  split <;> exact h.withJct

protected theorem Holds.queueTimed {k first kind} (h : Holds Q t) : Holds Q (queueTimed t k first kind) := h.setPipe

protected theorem Holds.cyclicTick {n} (h : Holds Q t) : Holds Q (cyclicTick t n) :=
  .ite (h.eccTouch.foldl fun _ _ h => .ite h.queueTimed h) h

protected theorem Holds.triggerTick {c} (h : Holds Q t) : Holds Q (triggerTick t c) :=
  .ite (h.eccTouch.foldl fun _ _ h => .ite h.queueTimed h) h

protected theorem Holds.skipTimed {p} (h : Holds Q t) : Holds Q (skipTimed t p) :=
  h.setPipe.foldl fun _ _ h => h.incF

protected theorem Holds.discardLate {p} (h : Holds Q t) : Holds Q (discardLate t p) := h.setPipe.addF

protected theorem Holds.takeRun {p} (h : Holds Q t) : Holds Q (takeRun t p).2 := by
  dsimp only [takeRun]
  split
  · exact .iteSnd h.setPipe h.setPipe
  · exact h.setPipe
  · exact h.setPipe
  · exact h

protected theorem Holds.acceptMsg {m} (h : Holds Q t) : Holds Q (acceptMsg t m) := by
  dsimp only [acceptMsg]
  split
  · exact h.eccTouch.incF
  · exact .ite h.eccTouch.incF.incF h.eccTouch.incF.setPipe

protected theorem Holds.offerJct {m} (h : Holds Q t) : Holds Q (offerJct t m) := .ite h.withJct h

protected theorem Holds.stopJunction (h : Holds Q t) : Holds Q (stopJunction t) := h.withJct.addF

/-! ### Arcade engines and pins -/

protected theorem Holds.arcErr {f e} (h : Holds Q t) : Holds Q (arcErr t f e) := h.setFlag.setF

protected theorem Holds.triggerPin {g out} (h : Holds Q t) : Holds Q (triggerPin t g out) := .ite h.setBitF h

protected theorem Holds.pushWords {e ws} (h : Holds Q t) : HoldsSome Q id (pushWords t e ws) :=
  .ite (.some h.withFlt.setEngine.addF) .none

protected theorem Holds.offerWords {e fuel} (h : Holds Q t) : Holds Q (offerWords t e fuel) := by
  induction fuel generalizing t with
  | zero => exact h
  | succ fuel ih => exact .ite (ih h.fifoTake.setEngine.offerJct) h

protected theorem Holds.deliverWord {e w} (h : Holds Q t) : HoldsSome Q id (deliverWord t e w) :=
  .ite (.some h.withFlt.setEngine.incF.offerWords) <| .ite (.some h.fifoShift.incF.withFlt.setEngine.incF.offerWords)
    .none

protected theorem Holds.txPush {e ofs bytes} (h : Holds Q t) : Holds Q (txPush t e ofs bytes).1 := by
  dsimp only [txPush]
  split
  · exact h
  · split
    · rename_i e
      exact (h.pushWords _ e).twinNote
    · exact h.arcErr

protected theorem Holds.rxPop {e len} (h : Holds Q t) : Holds Q (rxPop t e len).1 := by
  dsimp only [rxPop]
  split
  · exact h
  · split
    · exact h
    · split
      · exact h.twinNote
      · exact h.fifoTake.setEngine.twinNote

protected theorem Holds.flushTx {e} (h : Holds Q t) : Holds Q (flushTx t e) := h.setEngine

protected theorem Holds.flushRx {e} (h : Holds Q t) : Holds Q (flushRx t e) := h.setEngine

protected theorem Holds.tickEngine {e} (h : Holds Q t) : Holds Q (tickEngine t e) := h.setEngine

protected theorem Holds.idlePins {e} (h : Holds Q t) : Holds Q (idlePins t e) := h.setEngine

protected theorem Holds.applyBounds {e} (h : Holds Q t) : Holds Q (applyBounds t e) := by
  dsimp only [applyBounds]
  split
  · exact h.setEngine.setF.setF
  · exact h

protected theorem Holds.startEngine {e byFiring} (h : Holds Q t) : Holds Q (startEngine t e byFiring) :=
  h.applyBounds.setEngine

protected theorem Holds.restartEngine {e} (h : Holds Q t) : Holds Q (restartEngine t e) := .ite h h.startEngine

protected theorem Holds.engineOff {e} (h : Holds Q t) : Holds Q (engineOff t e) := h.setEngine.idlePins

protected theorem Holds.setEngineEn {e on} (h : Holds Q t) : Holds Q (setEngineEn t e on) :=
  .ite (h.setFlag.when (·.startEngine)) (h.setFlag.unless (·.applyBounds.engineOff))

protected theorem Holds.haltEngine {e} (h : Holds Q t) : Holds Q (haltEngine t e) := .ite h.setEngine h

protected theorem Holds.resumeEngine {e} (h : Holds Q t) : Holds Q (resumeEngine t e) :=
  .ite h <| .ite h.arcErr h.setEngine

protected theorem Holds.writeEngineCtl {e w} (h : Holds Q t) : Holds Q (writeEngineCtl t e w) :=
  ((((h.setEngineEn.when (·.flushTx)).when (·.flushRx)).when (·.restartEngine)).when (·.resumeEngine)).when
    (·.haltEngine)

protected theorem Holds.restartGroup {n w} (h : Holds Q t) : Holds Q (restartGroup t n w) :=
  h.foldl fun _ _ h => .ite h.restartEngine h

protected theorem Holds.fireEngines {k} (h : Holds Q t) : Holds Q (fireEngines t k) :=
  .ite (h.foldl fun _ _ h => .ite h <| .ite h.setEngine <| .ite h.startEngine h) h

protected theorem Holds.stopEngines (h : Holds Q t) : Holds Q (stopEngines t) := h.foldl fun _ _ h => h.haltEngine

protected theorem Holds.resetEngines (h : Holds Q t) : Holds Q (resetEngines t) := h.withEngines

protected theorem Holds.writeProgram {e off bytes} (h : Holds Q t) : Holds Q (writeProgram t e off bytes).1 :=
  .iteFst h.arcErr (h.memWrite.when (·.setEngine))

protected theorem Holds.writeBounds {e a b} (h : Holds Q t) : Holds Q (writeBounds t e a b) :=
  .ite h.setF.setF h.setEngine

protected theorem Holds.writeEngineCfg {e w} (h : Holds Q t) : Holds Q (writeEngineCfg t e w).1 :=
  .iteFst h (((h.setWord.when (·.setEngine)).when (·.flushTx.flushRx)).writeBounds.offerWords)

protected theorem Holds.writeEngineFixed {e key w} (h : Holds Q t) : Holds Q (writeEngineFixed t e key w).1 :=
  .iteFst h ((h.setWord.when (·.setEngine)).when (·.idlePins))

protected theorem Holds.writeEngineClk {e w} (h : Holds Q t) : Holds Q (writeEngineClk t e w) := h.setEngine.setWord

protected theorem Holds.writeEngineConfig {e off w} (h : Holds Q t) : Holds Q (writeEngineConfig t e off w).1 :=
  .iteFst h.writeEngineCfg <| .iteFst h.writeEngineFixed <| .iteFst h.writeEngineFixed <|
    .iteFst h.writeEngineClk <| .iteFst (h.setWord.when (·.idlePins)) h.setWord

protected theorem Holds.refill {e} (h : Holds Q t) : HoldsSome Q id (refill t e) := by
  dsimp only [refill]
  split
  · exact .none
  · exact .some h.fifoTake.setEngine

protected theorem Holds.sendBit {e} (h : Holds Q t) : Holds Q (sendBit t e) := h.setEngine

protected theorem Holds.sendOp {e} (h : Holds Q t) : HoldsSome Q id (sendOp t e) :=
  .ite (.some h.sendBit) (.ite (h.refill.map fun _ h => Holds.sendBit h) (.some h.setEngine.arcErr))

protected theorem Holds.deliverOp {e} (h : Holds Q t) : HoldsSome Q id (deliverOp t e) :=
  h.deliverWord.map fun _ h => Holds.setEngine h

protected theorem Holds.takeOp {e bit} (h : Holds Q t) : HoldsSome Q id (takeOp t e bit) :=
  .ite (.some h.arcErr) <| .ite h.setEngine.deliverOp <| .some h.setEngine

protected theorem Holds.shifterOp {e row ext} (h : Holds Q t) : HoldsSome Q id (shifterOp t e row ext) := by
  dsimp only [shifterOp]
  split
  · exact h.takeOp
  · exact h.sendOp
  · exact h.refill
  · exact h.deliverOp
  · exact .some h.setEngine
  · exact .some h.setEngine
  · exact .some h

protected theorem Holds.counters {e row} (h : Holds Q t) : Holds Q (counters t e row) := h.setEngine

protected theorem Holds.drivePins {e row} (h : Holds Q t) : Holds Q (drivePins t e row) := h.setEngine

protected theorem Holds.nextRow {e row hit} (h : Holds Q t) : Holds Q (nextRow t e row hit) :=
  (Holds.ite h.applyBounds h).setEngine

protected theorem Holds.runRow {e ext} (h : Holds Q t) : Holds Q (runRow t e ext) := by
  dsimp only [runRow]
  split
  · exact h.incF.setEngine
  · rename_i e
    exact (h.shifterOp _ e).counters.drivePins.nextRow

protected theorem Holds.execEngineRowExecute {e ext} (h : Holds Q t) : HoldsNext Q (execEngineRowExecute e ext t) :=
  .next (.ite (h.tickEngine.withPins (by rfl)).eccTouch.runRow h)

protected theorem Holds.execTxPush {e ofs bytes} (h : Holds Q t) : HoldsNext Q (execTxPush e ofs bytes t) := by
  dsimp only [execTxPush]
  split
  · exact .next h.output
  · exact .next h.txPush.output

protected theorem Holds.execRxPop {e len} (h : Holds Q t) : HoldsNext Q (execRxPop e len t) := by
  dsimp only [execRxPop]
  split
  · exact .next h.output
  · exact .next h.rxPop.output

/-! ### Bus channels -/

protected theorem Holds.applyBusCfg {c w} (h : Holds Q t) : Holds Q (applyBusCfg t c w) :=
  h.setWord.unless fun h => .ite h h.setF

protected theorem Holds.commitBus {c} (h : Holds Q t) : Holds Q (commitBus t c) := by
  dsimp only [commitBus]
  split
  · exact .ite h.withPendFb.applyBusCfg h
  · exact h

protected theorem Holds.writeBusCfg {c w} (h : Holds Q t) : Holds Q (writeBusCfg t c w).1 :=
  .iteFst h.setFlag <| .iteFst h (h.setFlag.withPendFb.when (·.commitBus))

protected theorem Holds.writeBusFixed {c key w} (h : Holds Q t) : Holds Q (writeBusFixed t c key w).1 :=
  .iteFst h h.setWord

protected theorem Holds.noteBuf {c b} (h : Holds Q t) : Holds Q (noteBuf t c b) := .ite h h.setBusCh

protected theorem Holds.setBufState {c b st} (h : Holds Q t) : Holds Q (setBufState t c b st) := h.setF.noteBuf

protected theorem Holds.requestBuf {c b} (h : Holds Q t) : Holds Q (requestBuf t c b) :=
  .ite h h.setWord.noteBuf.setBitF.setBusCh

protected theorem Holds.leaveBuf {c b st} (h : Holds Q t) : Holds Q (leaveBuf t c b st) :=
  h.setF.setBusCh.setBufState.setFlag.setBitF.setBitF

protected theorem Holds.writeTxReq {c w} (h : Holds Q t) : Holds Q (writeTxReq t c w).1 :=
  .iteFst h (h.foldl fun _ _ h => .ite h.requestBuf h)

protected theorem Holds.cancelBuf {c b} (h : Holds Q t) : Holds Q (cancelBuf t c b) :=
  .ite h.leaveBuf <| .ite h.setBitF h

protected theorem Holds.writeTxCan {c w} (h : Holds Q t) : Holds Q (writeTxCan t c w).1 :=
  .iteFst h (h.foldl fun _ _ h => .ite h.cancelBuf h)

protected theorem Holds.touchPending {c} (h : Holds Q t) : Holds Q (touchPending t c) :=
  h.foldl fun _ _ h => h.eccTouch

protected theorem Holds.chooseBuf {c fuel} (h : Holds Q t) : Holds Q (chooseBuf t c fuel) := by
  induction fuel generalizing t with
  | zero => exact h
  | succ fuel ih =>
    rw [chooseBuf]
    split
    · exact h
    · exact .ite h.setBufState.incSat.setBusCh (ih h.leaveBuf.incF)

protected theorem Holds.writeJtx {c j} (h : Holds Q t) : Holds Q (writeJtx t c j) := h.noteBuf.memWrite

protected theorem Holds.emitToBus {c j} (h : Holds Q t) : Holds Q (emitToBus t c j) :=
  .ite h.incF <| .ite h.incF <| .ite h.writeJtx.incF <| .ite ((Holds.ite h.incF h).setBusCh) h.writeJtx.requestBuf

protected theorem Holds.releaseJtx {c} (h : Holds Q t) : Holds Q (releaseJtx t c) := by
  dsimp only [releaseJtx]
  split
  · exact .ite h.setBusCh.writeJtx.incF h.setBusCh.writeJtx.requestBuf
  · exact h

protected theorem Holds.failAttempt {c b} (h : Holds Q t) : Holds Q (failAttempt t c b) :=
  (Holds.ite h.setBusCh.leaveBuf h.setBusCh.setBufState).when (·.releaseJtx)

protected theorem Holds.failActive {c} (h : Holds Q t) : Holds Q (failActive t c) := by
  dsimp only [failActive]
  split
  · exact h.failAttempt
  · exact h

protected theorem Holds.enterBusOff {c} (h : Holds Q t) : Holds Q (enterBusOff t c) := by
  unfold enterBusOff
  exact h.failActive.setBusCh.setF.incF.recordFault

protected theorem Holds.settleBus {c} (h : Holds Q t) : Holds Q (settleBus t c) := .ite h.enterBusOff h.setF

protected theorem Holds.raiseTec {c n} (h : Holds Q t) : Holds Q (raiseTec t c n) := h.setF

protected theorem Holds.raiseRec {c n} (h : Holds Q t) : Holds Q (raiseRec t c n) := h.setF

protected theorem Holds.lowerRec {c} (h : Holds Q t) : Holds Q (lowerRec t c) := .ite h.withFresh.setF h.setF

protected theorem Holds.protocolException {c} (h : Holds Q t) : Holds Q (protocolException t c) :=
  h.failActive.setF.setF

protected theorem Holds.busErrorOp {c kind transmitting place} (h : Holds Q t) :
    Holds Q (busErrorOp t c kind transmitting place) :=
  ((Holds.ite h h.setF.incF).unless fun h => .ite h.raiseTec h.raiseRec).settleBus

protected theorem Holds.recoverBus {c} (h : Holds Q t) : Holds Q (recoverBus t c) := .ite h.setBusCh.setFlag h

protected theorem Holds.measureTdc {c f} (h : Holds Q t) : Holds Q (measureTdc t c f) := .ite h.withFresh.setF h

protected theorem Holds.busNote {c kind ringB idx word prio} (h : Holds Q t) :
    Holds Q (busNote t c kind ringB idx word prio) :=
  h.produceCounted

protected theorem Holds.endAttempt {c b how} (h : Holds Q t) : Holds Q (endAttempt t c b how) := by
  dsimp only [endAttempt]
  split
  · exact (h.eccTouch.setBusCh.measureTdc.leaveBuf.incF.setF.output.when (·.releaseJtx)).settleBus
  · exact h.eccTouch.incF.failAttempt
  · exact h.eccTouch.measureTdc.failAttempt

protected theorem Holds.writeBusRam {c off bytes} (h : Holds Q t) : Holds Q (writeBusRam t c off bytes).1 :=
  .iteFst h h.memWrite

protected theorem Holds.touchFilter {c f idAge} (h : Holds Q t) : Holds Q (touchFilter t c f idAge) :=
  .ite h.eccTouch h

protected theorem Holds.storeEntry {c f b jct bank hit elem} (h : Holds Q t) :
    Holds Q (storeEntry t c f b jct bank hit elem).1 :=
  .iteFst h.incF.setBusCh h.memWrite.setBusCh.setF

protected theorem Holds.receiveCan {c f idAge} (h : Holds Q t) : Holds Q (receiveCan t c f idAge) := by
  unfold receiveCan
  extract_lets s₁ _ s₂ s₃ s₄
  have h₄ : Holds Q s₄ := Holds.touchFilter (Holds.unless h.incF.setBusCh (·.lowerRec.settleBus))
  clear_value s₄
  split
  extract_lets store ringB jct s₅
  have h₅ : Holds Q s₅ := h₄.when (·.incF)
  clear_value s₅
  split
  next s₆ idx e =>
  have h₆ : Holds Q s₆ := (Holds.iteFst h₅.storeEntry h₅).of_fst e
  extract_lets s₇
  have h₇ : Holds Q s₇ := h₆.when (·.offerJct)
  split
  · exact Holds.when (h₇.when (·.busNote)) (·.busNote)
  · exact h₇

protected theorem Holds.checkStarved {c b} (h : Holds Q t) : Holds Q (checkStarved t c b) :=
  h.setFlag.when fun h => (h.setBitF.incF.when (·.busNote))

protected theorem Holds.writeStarve {c w} (h : Holds Q t) : Holds Q (writeStarve t c w) :=
  h.setWord.foldl fun _ _ h => h.checkStarved

protected theorem Holds.execBusChannelEnable {c w} (h : Holds Q t) : HoldsNext Q (execBusChannelEnable c w t) := by
  dsimp only [execBusChannelEnable]
  exact .next (.ite h.writeBusCfg.noteWrite.output h)

protected theorem Holds.execBusChannelDisable {c} (h : Holds Q t) : HoldsNext Q (execBusChannelDisable c t) := by
  dsimp only [execBusChannelDisable]
  exact .next (.ite h.writeBusCfg.noteWrite.output h)

protected theorem Holds.meetError {c kind transmitting place} (h : Holds Q t) :
    Holds Q (meetError t c kind transmitting place) :=
  (Holds.ite h h.output).busErrorOp

protected theorem Holds.execBusFrameReceive {c rx} (h : Holds Q t) : HoldsNext Q (execBusFrameReceive c rx t) :=
  .next (.ite ((Holds.ite h.meetError h.receiveCan).commitBus) h)

protected theorem Holds.execTxRequest {c bufs} (h : Holds Q t) : HoldsNext Q (execTxRequest c bufs t) := by
  dsimp only [execTxRequest]
  exact .next (.ite h.writeTxReq.noteWrite.output h)

protected theorem Holds.execTxCancel {c bufs} (h : Holds Q t) : HoldsNext Q (execTxCancel c bufs t) := by
  dsimp only [execTxCancel]
  exact .next (.ite h.writeTxCan.noteWrite.output h)

protected theorem Holds.execBusArbitration {c} (h : Holds Q t) : HoldsNext Q (execBusArbitration c t) :=
  .next (.ite h.touchPending.chooseBuf h)

protected theorem Holds.execTxAttemptEnd {c how} (h : Holds Q t) : HoldsNext Q (execTxAttemptEnd c how t) := by
  dsimp only [execTxAttemptEnd]
  split
  · exact .next (h.endAttempt.unless (·.commitBus))
  · exact .next h

protected theorem Holds.execBusError {c kind transmitting place} (h : Holds Q t) :
    HoldsNext Q (execBusError c kind transmitting place t) :=
  .next (.ite (.ite h.protocolException h.meetError) h)

protected theorem Holds.execRecover {c} (h : Holds Q t) : HoldsNext Q (execRecover c t) :=
  .next (.ite h.recoverBus.noteReg h)

protected theorem Holds.execBusRecoveryComplete {c} (h : Holds Q t) : HoldsNext Q (execBusRecoveryComplete c t) :=
  .next (.ite h.setBusCh.setF.setF.setFlag.setF h)

protected theorem Holds.execBusIntegrationComplete {c} (h : Holds Q t) :
    HoldsNext Q (execBusIntegrationComplete c t) :=
  .next (.ite h.settleBus h)

protected theorem Holds.execBufferStarved {c b} (h : Holds Q t) : HoldsNext Q (execBufferStarved c b t) :=
  .next (.ite h.checkStarved h)

/-! ### Commands of the message queues -/

protected theorem Holds.popRead {q len prefetch} (h : Holds Q t) : Holds Q (popRead t q len prefetch).1 :=
  .iteFst h <| .iteFst h <| .iteFst h h.releaseHeld.takeNext.twinNote

protected theorem Holds.execPushHdr {q who w} (h : Holds Q t) : HoldsNext Q (execPushHdr q who w t) := by
  dsimp only [execPushHdr]
  exact .next (.ite h.pushHeader.output h)

protected theorem Holds.execPushData {q who ofs bytes} (h : Holds Q t) :
    HoldsNext Q (execPushData q who ofs bytes t) := by
  dsimp only [execPushData]
  exact .next (.ite h.pushBytes.output h)

protected theorem Holds.execPushTimeout {q} (h : Holds Q t) : HoldsNext Q (execPushTimeout q t) :=
  .next (.ite h.rewindPush h)

protected theorem Holds.execPop {q len} (h : Holds Q t) : HoldsNext Q (execPop q len t) := by
  dsimp only [execPop]
  exact .next (.ite h.popRead.output h)

protected theorem Holds.noteQueueCtl {q w} (h : Holds Q t) : Holds Q (noteQueueCtl t q w) := h.noteReg

protected theorem Holds.execRelease {q} (h : Holds Q t) : HoldsNext Q (execRelease q t) :=
  .next (.ite h.writeQueueCtl.noteQueueCtl h)

protected theorem Holds.execAbort {q} (h : Holds Q t) : HoldsNext Q (execAbort q t) :=
  .next (.ite h.writeQueueCtl.noteQueueCtl h)

protected theorem Holds.execQueueFlush {q} (h : Holds Q t) : HoldsNext Q (execQueueFlush q t) :=
  .next (.ite h.writeQueueCtl.noteQueueCtl h)

protected theorem Holds.execQueueEnable {q w} (h : Holds Q t) : HoldsNext Q (execQueueEnable q w t) := by
  dsimp only [execQueueEnable]
  exact .next (.ite h.writeQueueCfg.noteWrite.output h)

protected theorem Holds.execQueueDisable {q} (h : Holds Q t) : HoldsNext Q (execQueueDisable q t) := by
  dsimp only [execQueueDisable]
  exact .next (.ite h.writeQueueCfg.noteWrite.output h)

protected theorem Holds.execMessageProduce {q producer prio bytes} (h : Holds Q t) :
    HoldsNext Q (execMessageProduce q producer prio bytes t) :=
  .next (.ite (.ite h.produceCounted <| .ite h.produce <| .ite (.ite h.commitMsg h.incF) h) h)

protected theorem Holds.dropNext {q m} (h : Holds Q t) : Holds Q (dropNext t q m) := h.setQueue

protected theorem Holds.execMqArcadeDeliver {q} (h : Holds Q t) : HoldsNext Q (execMqArcadeDeliver q t) := by
  dsimp only [execMqArcadeDeliver]
  split
  · split
    · exact .next h
    · split
      · exact .next h.dropNext.incF
      · split
        · rename_i e
          exact .next ((h.readMsg.pushWords _ e).dropNext)
        · exact .next h
  · exact .next h

protected theorem Holds.setPollWord {e i v} (h : Holds Q t) : Holds Q (setPollWord t e i v) := h.memPut

protected theorem Holds.pollSkip {e} (h : Holds Q t) : Holds Q (pollSkip t e) := h.setPollWord

protected theorem Holds.pollEntry {e} (h : Holds Q t) : Holds Q (pollEntry t e) := by
  dsimp only [pollEntry]
  split
  · exact h.pollSkip
  · split
    · exact .ite h h.withTxn
    · split
      · rename_i e
        exact (h.grantWaiting.tryIssue _ e).setPollWord
      · exact h.pollSkip

protected theorem Holds.pollIssue {n} (h : Holds Q t) : Holds Q (pollIssue t n) :=
  .ite (h.eccTouch.foldl fun _ _ h => .ite h.pollEntry h) h

protected theorem Holds.pollBusy {e} (h : Holds Q t) : Holds Q (pollBusy t e) := h.setPollWord

protected theorem Holds.setLastCode {e code} (h : Holds Q t) : Holds Q (setLastCode t e code) := h.setPollWord

protected theorem Holds.compareSample {p} (h : Holds Q t) : Holds Q (compareSample t p) :=
  .ite (.ite ((h.eccTouch.commitMsg.when (·.memPut)).setPollWord.setLastCode.setPollWord.setPollWord)
    h.eccTouch.pollSkip) h.eccTouch.setLastCode

protected theorem Holds.execPollSampleComplete {e} (h : Holds Q t) : HoldsNext Q (execPollSampleComplete e t) := by
  dsimp only [execPollSampleComplete]
  split
  · exact .next h
  · exact .next (h.withTxn.pollBusy.when (·.compareSample))

/-! ### Commands of the Junction -/

protected theorem Holds.execJunctionMessageReceive (h : Holds Q t) : HoldsNext Q (execJunctionMessageReceive t) := by
  dsimp only [execJunctionMessageReceive]
  split
  · split
    · exact .next (h.withJct.when (·.acceptMsg))
    · split
      · split
        · exact .next h.readMsg.dropNext.acceptMsg
        · exact .next h
      · exact .next h
  · exact .next h

protected theorem Holds.execListRun {p} (h : Holds Q t) : HoldsNext Q (execListRun p t) := by
  dsimp only [execListRun]
  split
  · split
    · rename_i e
      exact .next ((h.skipTimed.discardLate.takeRun.of_snd e).runList)
    · rename_i e
      exact .next (h.skipTimed.discardLate.takeRun.of_snd e)
  · exact .next h

protected theorem Holds.execRunLateDiscard {p} (h : Holds Q t) : HoldsNext Q (execRunLateDiscard p t) :=
  .next (.ite h.discardLate h)

protected theorem Holds.execTimedRunSkip {p} (h : Holds Q t) : HoldsNext Q (execTimedRunSkip p t) :=
  .next (.ite h.skipTimed h)

protected theorem Holds.emitAccess {e} (h : Holds Q t) : Holds Q (emitAccess t e) := by
  dsimp only [emitAccess]
  exact .ite h.lookupForward.forwardFrame h

protected theorem Holds.emitSignal {e} (h : Holds Q t) : Holds Q (emitSignal t e) := h.addFrame

protected theorem Holds.handOver {e} (h : Holds Q t) : Holds Q (handOver t e) := by
  dsimp only [handOver]
  split
  · exact h.emitAccess
  · exact .ite h.emitToBus h
  · split
    next e => exact HoldsSome.ite h.pushWords .none _ e
    next => exact h.incF
  · exact h.emitSignal
  · exact .ite h.commitMsg h.incF

protected theorem Holds.takeEmission {i} (h : Holds Q t) : Holds Q (takeEmission t i) := h.withJct

protected theorem Holds.execEmissionHandover {i} (h : Holds Q t) : HoldsNext Q (execEmissionHandover i t) := by
  dsimp only [execEmissionHandover]
  split
  · exact .next h
  · exact .next (.ite h <| .ite h.takeEmission.incF h.takeEmission.incF.handOver)

protected theorem Holds.execEmitLateDiscard {i} (h : Holds Q t) : HoldsNext Q (execEmitLateDiscard i t) := by
  dsimp only [execEmitLateDiscard]
  split
  · exact .next h
  · exact .next (.ite h.takeEmission.incF h)

/-! ### Slot power -/

protected theorem Holds.updatePfw {i} (h : Holds Q t) : Holds Q (updatePfw t i) := h.setFlag

protected theorem Holds.slotEvent {i old} (h : Holds Q t) : Holds Q (slotEvent t i old) := .ite h.produceCounted h

protected theorem Holds.slotPins {i new} (h : Holds Q t) : Holds Q (slotPins t i new) :=
  h.setFlag.setFlag.unless (·.setFlag)

protected theorem Holds.pgTimers {i new} (h : Holds Q t) : Holds Q (pgTimers t i new) :=
  h.stopTimer.stopTimer.when (·.startTimer)

protected theorem Holds.changeSlot {i new reason} (h : Holds Q t) : Holds Q (changeSlot t i new reason) :=
  (h.setF.setF.slotPins.pgTimers.when (·.setSlot)).stopTimer.stopTimer.stopTimer.updatePfw.slotEvent

protected theorem Holds.moveSlot {i new} (h : Holds Q t) : Holds Q (moveSlot t i new) := h.changeSlot

protected theorem Holds.updateShedPending (h : Holds Q t) : Holds Q (updateShedPending t) := h.setFlag

protected theorem Holds.dropPlan {i} (h : Holds Q t) : Holds Q (dropPlan t i) :=
  h.stopTimer.setSlot.updatePfw.updateShedPending

protected theorem Holds.warnSlot {i reason} (h : Holds Q t) : Holds Q (warnSlot t i reason) := by
  dsimp only [warnSlot]
  split
  · exact h
  · exact h.setSlot.startTimer.updatePfw.updateShedPending

protected theorem Holds.tripSlot {i reason} (h : Holds Q t) : Holds Q (tripSlot t i reason) := by
  unfold tripSlot
  exact h.dropPlan.setSlot.changeSlot.addF.recordFault

protected theorem Holds.shedSlot {i reason} (h : Holds Q t) : Holds Q (shedSlot t i reason) :=
  h.stopTimer.setSlot.changeSlot.addF.updateShedPending

protected theorem Holds.enableSlot {i} (h : Holds Q t) : Holds Q (enableSlot t i) :=
  .ite (h.setSlot.moveSlot.when (·.moveSlot)) h

protected theorem Holds.disableSlot {i} (h : Holds Q t) : Holds Q (disableSlot t i) :=
  .ite h h.dropPlan.setSlot.moveSlot

protected theorem Holds.slotEnChanged {i} (h : Holds Q t) : Holds Q (slotEnChanged t i) :=
  .ite h.enableSlot h.disableSlot

protected theorem Holds.execSlotEnable {i} (h : Holds Q t) : HoldsNext Q (execSlotEnable i t) :=
  .next (.ite h.setFlag.slotEnChanged h)

protected theorem Holds.execSlotDisable {i} (h : Holds Q t) : HoldsNext Q (execSlotDisable i t) :=
  .next (.ite h.setFlag.slotEnChanged h)

protected theorem Holds.seatDone {i} (h : Holds Q t) : Holds Q (seatDone t i) := h.setFlag.when (·.moveSlot)

protected theorem Holds.execSeatDebounceDone {i} (h : Holds Q t) : HoldsNext Q (execSeatDebounceDone i t) :=
  .next (.ite h.seatDone h)

protected theorem Holds.seatLost {i} (h : Holds Q t) : Holds Q (seatLost t i) :=
  h.setFlag.setF.unless (·.dropPlan.setSlot.changeSlot)

protected theorem Holds.execSeatLost {i} (h : Holds Q t) : HoldsNext Q (execSeatLost i t) := .next (.ite h.seatLost h)

protected theorem Holds.execSelfSeatChange {seated} (h : Holds Q t) : HoldsNext Q (execSelfSeatChange seated t) :=
  .next (.ite h.setFlag h)

protected theorem Holds.startSlot {i} (h : Holds Q t) : Holds Q (startSlot t i) :=
  (Holds.ite h.incSat h).setSlot.withPower.moveSlot.startTimer

protected theorem Holds.execPowerUpStart {i} (h : Holds Q t) : HoldsNext Q (execPowerUpStart i t) :=
  .next (.ite h.startSlot h)

protected theorem Holds.rampSlot {i} (h : Holds Q t) : Holds Q (rampSlot t i) := h.moveSlot.startTimer

protected theorem Holds.execPrechargeComplete {i vsns vin} (h : Holds Q t) :
    HoldsNext Q (execPrechargeComplete i vsns vin t) :=
  .next (.ite h.rampSlot h)

protected theorem Holds.execPrechargeTimeout {i} (h : Holds Q t) : HoldsNext Q (execPrechargeTimeout i t) :=
  .next (.ite h.tripSlot h)

protected theorem Holds.execRampEnd {i vsns vin current} (h : Holds Q t) :
    HoldsNext Q (execRampEnd i vsns vin current t) :=
  .next (.ite h.moveSlot h)

protected theorem Holds.tickFaultTimer {i current} (h : Holds Q t) : Holds Q (tickFaultTimer t i current) :=
  .ite h.setSlot <| .ite h.setSlot <| .ite h.setSlot h.setSlot

protected theorem Holds.monitorTick {i current} (h : Holds Q t) : Holds Q (monitorTick t i current) :=
  .ite h.tickFaultTimer.moveSlot (h.tickFaultTimer.when (·.moveSlot))

protected theorem Holds.execMonitorTick {i current} (h : Holds Q t) : HoldsNext Q (execMonitorTick i current t) :=
  .next (.ite h.monitorTick h)

protected theorem Holds.execBreaker {i} (h : Holds Q t) : HoldsNext Q (execBreaker i t) := .next (.ite h.tripSlot h)

protected theorem Holds.execFast {i current} (h : Holds Q t) : HoldsNext Q (execFast i current t) :=
  .next (.ite h.tripSlot h)

protected theorem Holds.resolveTrip {i} (h : Holds Q t) : Holds Q (resolveTrip t i) :=
  .ite h.moveSlot.startTimer h.moveSlot.recordFault

protected theorem Holds.execTripResolve {i} (h : Holds Q t) : HoldsNext Q (execTripResolve i t) :=
  .next (.ite h.resolveTrip h)

protected theorem Holds.execRetryWaitExpiry {i} (h : Holds Q t) : HoldsNext Q (execRetryWaitExpiry i t) :=
  .next (.ite h.stopTimer.setSlot h)

protected theorem Holds.execPgQualify {i} (h : Holds Q t) : HoldsNext Q (execPgQualify i t) :=
  .next (.ite h.stopTimer.setFlag.startTimer h)

protected theorem Holds.execRetryCountReset {i} (h : Holds Q t) : HoldsNext Q (execRetryCountReset i t) :=
  .next (.ite h.stopTimer.setF h)

protected theorem Holds.noteVin {vin} (h : Holds Q t) : Holds Q (noteVin t vin) :=
  .ite h.setF.ensureTimer h.setF.stopTimer

protected theorem Holds.changeVin {vin} (h : Holds Q t) : Holds Q (changeVin t vin) :=
  h.noteVin.unless fun h => h.setF.foldl fun _ _ h => .ite h <| .ite h.warnSlot <| .ite h.shedSlot <|
    .ite h.shedSlot h

protected theorem Holds.execVinStateChange {vin} (h : Holds Q t) : HoldsNext Q (execVinStateChange vin t) :=
  .next (.ite h.changeVin h)

protected theorem Holds.restoreVin (h : Holds Q t) : Holds Q (restoreVin t) := h.foldl fun _ _ h => .ite h.setSlot h

protected theorem Holds.execVinRestore (h : Holds Q t) : HoldsNext Q (execVinRestore t) := .next (.ite h.restoreVin h)

protected theorem Holds.warnedTurnOff {i reason} (h : Holds Q t) : Holds Q (warnedTurnOff t i reason) :=
  .ite h.dropPlan h.shedSlot

protected theorem Holds.execWarnedTurnOff {i} (h : Holds Q t) : HoldsNext Q (execWarnedTurnOff i t) := by
  dsimp only [execWarnedTurnOff]
  split
  · split
    · exact .next (.ite h.warnedTurnOff h)
    · exact .next h
  · exact .next h

protected theorem Holds.setPsum (h : Holds Q t) : Holds Q (setPsum t) := h.setF

protected theorem Holds.trackBudget (h : Holds Q t) : Holds Q (trackBudget t) :=
  h.foldl fun _ _ h => .ite h.ensureTimer h.stopTimer

protected theorem Holds.shedEvaluate (h : Holds Q t) : Holds Q (shedEvaluate t) :=
  .ite h ((h.setPsum.unless fun h => (h.foldl fun _ _ h => h.setSlot.warnSlot)).trackBudget)

protected theorem Holds.execBudgetRestore {i} (h : Holds Q t) : HoldsNext Q (execBudgetRestore i t) :=
  .next (.ite h.stopTimer.setSlot h)

protected theorem Holds.slotOnCmd {i} (h : Holds Q t) : Holds Q (slotOnCmd t i) := h.setF.when (·.setSlot.stopTimer)

protected theorem Holds.slotOffCmd {i} (h : Holds Q t) : Holds Q (slotOffCmd t i) :=
  .ite h.setSlot.moveSlot <| .ite h.setSlot <| .ite h.warnSlot h

protected theorem Holds.writeSlotCtl {i w} (h : Holds Q t) : Holds Q (writeSlotCtl t i w) :=
  .ite h.slotOffCmd <| .ite h.slotOnCmd h

protected theorem Holds.execOn {i} (h : Holds Q t) : HoldsNext Q (execOn i t) := .next (.ite h.writeSlotCtl.noteReg h)

protected theorem Holds.execOff {i} (h : Holds Q t) : HoldsNext Q (execOff i t) :=
  .next (.ite h.writeSlotCtl.noteReg h)

protected theorem Holds.abandonWrites (h : Holds Q t) : Holds Q (abandonWrites t) := h.withOdw.withCip

protected theorem Holds.assertPfail (h : Holds (Guarded g) t) : Holds (Guarded g) (assertPfail t) :=
  ((h.withPins (by rfl)).setFlag.setFlag.abandonWrites.stopTimer.foldl fun _ _ h => h.updatePfw).when
    (·.releaseIfPeerReady)

protected theorem Holds.execPfailAssert (h : Holds (Guarded g) t) : HoldsNext (Guarded g) (execPfailAssert t) :=
  .next (.ite h.assertPfail (h.withPins (by rfl)))

protected theorem Holds.releasePfail (h : Holds Q t) : Holds Q (releasePfail t) :=
  ((h.withPins (by rfl)).setFlag.foldl fun _ _ h => h.updatePfw).unless (·.startTimer)

protected theorem Holds.execPfailRelease (h : Holds Q t) : HoldsNext Q (execPfailRelease t) :=
  .next (.ite h.releasePfail (h.withPins (by rfl)))

protected theorem Holds.lowerVaux (h : Holds Q t) : Holds Q (lowerVaux t) :=
  (h.withPins (by rfl)).stopTimer.setFlag.abandonWrites

protected theorem Holds.execVauxLow (h : Holds Q t) : HoldsNext Q (execVauxLow t) :=
  .next (.ite h.lowerVaux (h.withPins (by rfl)))

protected theorem Holds.liftInhibit (h : Holds Q t) : Holds Q (liftInhibit t) :=
  (h.withPins (by rfl)).stopTimer.setFlag.when (·.nextLgen)

protected theorem Holds.execNvmInhibitLift (h : Holds Q t) : HoldsNext Q (execNvmInhibitLift t) :=
  .next (.ite h.liftInhibit h)

protected theorem Holds.addEnergy {i p dt} (h : Holds Q t) : Holds Q (addEnergy t i p dt) := h.setSlot.setF

protected theorem Holds.meterSlot {codes dt i} (h : Holds Q t) : Holds Q (meterSlot t codes dt i) :=
  h.setF.setF.setF.withPower.addEnergy

protected theorem Holds.meterAll {codes dt} (h : Holds Q t) : Holds Q (meterAll t codes dt) :=
  (h.foldl fun _ _ h => h.meterSlot).noteVin.setPsum

protected theorem Holds.execMeterSample {codes} (h : Holds Q t) : HoldsNext Q (execMeterSample codes t) :=
  .next (.ite h.meterAll h)

protected theorem Holds.snapCodes {codes} (h : Holds Q t) : Holds Q (snapCodes t codes) :=
  (h.foldl fun _ _ h => h.setF).setWords

protected theorem Holds.adcFire {k codes} (h : Holds Q t) : Holds Q (adcFire t k codes) := by
  dsimp only [adcFire]
  split
  · exact h
  · split
    · exact h.withPower.snapCodes.withPower
    · exact .ite (h.withPower.snapCodes.withPower.unless (·.meterAll)) h.withPower.snapCodes.withPower.setFlag

protected theorem Holds.execSyncFiringLate (h : Holds Q t) : HoldsNext Q (execSyncFiringLate t) :=
  .next (.ite h.withPower.setFlag h)

protected theorem Holds.fencePower (h : Holds Q t) : Holds Q (fencePower t) :=
  h.foldl fun _ _ h => .ite h.tripSlot h

protected theorem Holds.recoverSlot {i seated v vin} (h : Holds Q t) : Holds Q (recoverSlot t i seated v vin) :=
  h.setSlot.setFlag.unless fun h => .ite h.moveSlot <| .ite h.moveSlot h.moveSlot

protected theorem Holds.resetPower {pre} (h : Holds Q t) : Holds Q (resetPower pre t) :=
  h.withTimers.withPower.setFlag.setFlag.setFlag.foldl fun _ _ h => h.recoverSlot

protected theorem Holds.execBankSupplyLoss {bank} (h : Holds Q t) : HoldsNext Q (execBankSupplyLoss bank t) :=
  .next (.ite h.setFlag h)

/-! ### Commands of the time unit -/

protected theorem Holds.takeTime {subtype} (h : Holds Q t) : HoldsSome Q Prod.snd (takeTime t subtype) := by
  dsimp only [takeTime]
  split
  · exact .some h.withRing
  · exact .none

protected theorem Holds.closeAverage {port} (h : Holds Q t) : Holds Q (closeAverage t port) := h.setPortSt

protected theorem Holds.execLinkReportSend {port} (h : Holds Q t) : HoldsNext Q (execLinkReportSend port t) :=
  .next (.ite h.closeAverage.startTimer.addOwnOnPort h)

protected theorem Holds.receiveLink {port f} (h : Holds Q t) : Holds Q (receiveLink t port f) := by
  dsimp only [receiveLink]
  split
  · exact .ite h.setF h.setF.setF.withTime.servoReport
  · exact .ite h h.servoReport

protected theorem Holds.execLinkReportReceive (h : Holds Q t) : HoldsNext Q (execLinkReportReceive t) := by
  dsimp only [execLinkReportReceive]
  split
  · rename_i e
    exact .next (.ite ((h.takeTime _ e).receiveLink) (h.takeTime _ e))
  · exact .next h

protected theorem Holds.servoAdjust {base} (h : Holds Q t) : Holds Q (servoAdjust t base) := by
  dsimp only [servoAdjust]
  split
  · split
    · exact .ite h.setF <| .ite h.setF h
    · exact h
  · split
    · exact h.setF
    · exact h

protected theorem Holds.execServoUpdate {base} (h : Holds Q t) : HoldsNext Q (execServoUpdate base t) :=
  .next (.ite h.servoAdjust.startTimer h)

protected theorem Holds.execUpstreamReportTimeout (h : Holds Q t) : HoldsNext Q (execUpstreamReportTimeout t) :=
  .next (.ite (h.stopTimer.when (·.enterHoldover)) h)

protected theorem Holds.execTb1ReportSend (h : Holds Q t) : HoldsNext Q (execTb1ReportSend t) :=
  .next (.ite h.startTimer.addOnPort h)

protected theorem Holds.receiveTb1 {f} (h : Holds Q t) : Holds Q (receiveTb1 t f) :=
  h.withTime.startTimer.unless (·.setBase.setFlag)

protected theorem Holds.execTb1ReportReceive (h : Holds Q t) : HoldsNext Q (execTb1ReportReceive t) := by
  dsimp only [execTb1ReportReceive]
  split
  · split
    · rename_i e _ _ _ _ _
      exact .next (.ite ((h.takeTime _ e).receiveTb1) (h.takeTime _ e))
    · rename_i e _ _
      exact .next (h.takeTime _ e)
  · exact .next h

protected theorem Holds.execTb1ReportTimeout (h : Holds Q t) : HoldsNext Q (execTb1ReportTimeout t) :=
  .next (.ite h.stopTimer h)

protected theorem Holds.execTriggerArm {k} (h : Holds Q t) : HoldsNext Q (execTriggerArm k t) :=
  .next (.ite h.armTrigger h)

protected theorem Holds.oweCaptures {k} (h : Holds Q t) : Holds Q (oweCaptures t k) :=
  h.foldl fun _ _ h => .ite h.withTime h

protected theorem Holds.captureTrigger (h : Holds Q t) : Holds Q (captureTrigger t) := .ite h.setF h

protected theorem Holds.triggerOutput {k codes} (h : Holds Q t) : Holds Q (triggerOutput t k codes) := by
  dsimp only [triggerOutput]
  split
  · exact h
  · exact h.output.adcFire
  · exact h.fireEngines
  · exact h.triggerTick
  · exact h.captureTrigger
  · exact h.triggerPin

protected theorem Holds.execTriggerFire {k codes} (h : Holds Q t) : HoldsNext Q (execTriggerFire k codes t) :=
  .next (.ite h.oweCaptures.fireTrigger.triggerOutput h)

protected theorem Holds.captureGio {k risingPad} (h : Holds Q t) : Holds Q (captureGio t k risingPad) :=
  .ite h.storeCapture h

protected theorem Holds.captureFiring {k} (h : Holds Q t) : Holds Q (captureFiring t k) := by
  dsimp only [captureFiring]
  split
  · exact h.withTime.storeCapture
  · exact h

protected theorem Holds.execCaptureEvent {k risingPad} (h : Holds Q t) :
    HoldsNext Q (execCaptureEvent k risingPad t) :=
  .next (.ite (.ite h.captureFiring h.captureGio) h)

protected theorem Holds.fenceTime (h : Holds Q t) : Holds Q (fenceTime t) := .ite h.enterHoldover h

protected theorem Holds.resetTime (h : Holds Q t) : Holds Q (resetTime t) := h.withTime.withTimers

/-! ### Twin control -/

protected theorem Holds.replayRecorded (h : Holds Q t) : Holds Q (replayRecorded t) :=
  h.withTxn.foldl fun _ _ h => h.serveRequest

protected theorem Holds.forgetChanged (h : Holds Q t) : Holds Q (forgetChanged t) := h.withBus

protected theorem Holds.becomeActive (h : Holds (Guarded g) t) : Holds (Guarded g) (becomeActive t) :=
  ((h.stopTimer.takeRole (.inl rfl)).weaken.raiseClaim.forgetChanged.withTwin (by rfl)).endResync.replayRecorded

protected theorem Holds.noteSwitch {reason} (h : Holds Q t) : Holds Q (noteSwitch t reason) := h.setF.setF

protected theorem Holds.switchOver (h : Holds (Guarded g) t) : Holds (Guarded g) (switchOver t) :=
  .ite h.becomeActive.noteSwitch.incF.recordFault h

protected theorem Holds.coldTakeover (h : Holds (Guarded g) t) : Holds (Guarded g) (coldTakeover t) :=
  .ite h.becomeActive.noteSwitch.recordFault h

protected theorem Holds.coldEnabled {pre} (h : Holds (Guarded g) t) : Holds (Guarded g) (coldEnabled pre t) :=
  .ite h.coldTakeover h

protected theorem Holds.claimYield (h : Holds (Guarded g) t) : Holds (Guarded g) (claimYield t) :=
  .ite ((low_lowerClaim t).of_low.incF.when fun _ => .leaveActive) h

protected theorem Holds.checkPeerPin (h : Holds Q t) : Holds Q (checkPeerPin t) :=
  (h.withTwin (by rfl)).when (·.incF.recordFault)

/-- Without twin control the rise changes nothing that TWN_OE depends on; with it TWN_OE falls. -/
protected theorem Holds.peerRise (h : Holds (Guarded g) t) : Holds (Guarded g) (peerRise t) := by
  have hw : Holds (fun i => i.variant.hasTwn = false → Guarded g i) (t.withPins { t.pins with twnPeer := true }) :=
    fun hv e => by
      obtain ⟨hc, hs, hr, -, hd⟩ := h e
      exact ⟨hc, hs, hr, fun ht => Bool.noConfusion (hv.symm.trans ht), hd⟩
  unfold peerRise
  extract_lets _ s₁
  have h₁ : Holds (fun i => i.variant.hasTwn = false → Guarded g i) s₁ := hw.stopTimer.stopTimer.checkPeerPin
  split
  next =>
    have hl : Holds OeLow (s₁.withTwin { s₁.twin with oe := false }) := rfl
    exact hl.of_low.claimYield
  next hv => exact h₁ (Bool.eq_false_iff.2 hv)

protected theorem Holds.execTwnPeerRise (h : Holds (Guarded g) t) : HoldsNext (Guarded g) (execTwnPeerRise t) :=
  .next h.peerRise

protected theorem Holds.execTwnPeerFall (h : Holds (Guarded g) t) : HoldsNext (Guarded g) (execTwnPeerFall t) := by
  have hw : Holds (Guarded g) (t.withPins { t.pins with twnPeer := false }) := fun e => by
    obtain ⟨hc, hs, hr, -, hd⟩ := h e
    exact ⟨hc, hs, hr, fun _ => rfl, hd⟩
  exact .next (.ite hw.startTimer h)

protected theorem Holds.peerLowQualified (h : Holds (Guarded false) t) : Holds (Guarded false) (peerLowQualified t) :=
  .ite (h.checkPeerPin.when (·.raiseClaim)) h.checkPeerPin.coldTakeover

protected theorem Holds.execPeerLowQualified (h : Holds (Guarded false) t) :
    HoldsNext (Guarded false) (execPeerLowQualified t) :=
  .next (.ite h.peerLowQualified h)

protected theorem Holds.execSoloWaitExpiry (h : Holds (Guarded g) t) : HoldsNext (Guarded g) (execSoloWaitExpiry t) :=
  .next (.ite (h.stopTimer.when (·.becomeActive)) h)

protected theorem Holds.sendTwin {m} (h : Holds Q t) : Holds Q (sendTwin t m) := by
  unfold sendTwin
  exact h.sendWords

protected theorem Holds.execTwinKeepaliveSend (h : Holds Q t) : HoldsNext Q (execTwinKeepaliveSend t) :=
  .next (.ite h.sendTwin.startTimer h)

protected theorem Holds.execTwinLinkDown {lockLost} (h : Holds (Guarded g) t) :
    HoldsNext (Guarded g) (execTwinLinkDown lockLost t) :=
  .next (.ite h.twinLinkLost.coldTakeover h)

protected theorem Holds.execDepartureSend (h : Holds Q t) : HoldsNext Q (execDepartureSend t) :=
  .next (.ite (h.withPlaza.startTimer.unless (·.sendTwin)) h)

protected theorem Holds.trimQueue {r} (h : Holds Q t) : Holds Q (trimQueue t r) :=
  .ite (h.foldl fun _ _ h => h.removeRef) ((h.foldl fun _ _ h => h.removeRef).incF)

protected theorem Holds.execDepartureReceive {recs} (h : Holds Q t) : HoldsNext Q (execDepartureReceive recs t) :=
  .next (.ite (h.foldl fun _ _ h => h.trimQueue) h)

protected theorem Holds.requestHandover (h : Holds Q t) : Holds Q (requestHandover t) :=
  .ite (h.withTwin (by rfl)).setFlag h.setFlag.setF.setFlag

protected theorem Holds.requestResync (h : Holds (Guarded g) t) : Holds (Guarded g) (requestResync t) := by
  unfold requestResync
  split
  next hr => exact (h.low_of_role hr).lowSetRole.of_low.endResync.setFlag
  next => exact h

protected theorem Holds.heartbeat (h : Holds Q t) : Holds Q (heartbeat t) := (h.withTwin (by rfl)).stopTimer.setFlag

protected theorem Holds.writeTwinCtl {w} (h : Holds (Guarded g) t) : Holds (Guarded g) (writeTwinCtl t w) :=
  ((Holds.ite h.heartbeat h).when (·.requestResync)).when (·.requestHandover)

protected theorem Holds.execHeartbeatMissed (h : Holds (Guarded g) t) : HoldsNext (Guarded g) (execHeartbeatMissed t) :=
  .next (.ite h.releaseClaim h)

protected theorem Holds.execBoundaryWatchdog (h : Holds (Guarded g) t) :
    HoldsNext (Guarded g) (execBoundaryWatchdog t) :=
  .next (.ite h.releaseClaim h)

protected theorem Holds.giveOver : Holds (Guarded g) (giveOver t) := Holds.leaveActive.withTwin (by rfl)

protected theorem Holds.execHandoverRelease (h : Holds (Guarded g) t) : HoldsNext (Guarded g) (execHandoverRelease t) :=
  .next (.ite (.ite .giveOver <| .ite (h.withTwin (by rfl)).incF h) h)

protected theorem Holds.receiveAck {cycle crc} (h : Holds (Guarded g) t) : Holds (Guarded g) (receiveAck t cycle crc) :=
  .ite ((h.withTwin (by rfl)).setF.when fun h => (h.withTwin (by rfl)).when fun _ => .giveOver) h

protected theorem Holds.execDeltaAckReceive {cycle crc} (h : Holds (Guarded g) t) :
    HoldsNext (Guarded g) (execDeltaAckReceive cycle crc t) :=
  .next (.ite h.receiveAck h)

/-! ### Fences and resets of units -/

protected theorem Holds.startDrain {u reset} (h : Holds Q t) : Holds Q (startDrain t u reset) :=
  h.withTxn.foldl fun _ _ h => h.withDrains.startTimer

protected theorem Holds.stopTransfer {r} (h : Holds Q t) : Holds Q (stopTransfer t r) := by
  dsimp only [stopTransfer]
  split
  · split
    · exact h.output
    · exact h
  · exact h

protected theorem Holds.endRequests {rs code} (h : Holds Q t) : Holds Q (endRequests t rs code) :=
  h.foldl fun _ _ h => h.stopTransfer.withTxn.completeRequest

protected theorem Holds.fenceEffects {u} (h : Holds (Guarded g) t) : Holds (Guarded g) (fenceEffects t u) :=
  .ite (h.declareBroken.declareBroken.foldl fun _ _ h => h.portLinkLost) <|
    .ite (h.foldl fun _ _ h => .ite h.enterDown h) <| .ite (h.foldl fun _ _ h => h.portLinkLost) <|
    .ite (h.stopJunction.foldl fun _ _ h => h.portLinkLost) <| .ite h.rewindAll <| .ite h.stopEngines <|
    .ite h.fenceTime <|
    .ite ((h.abortDescriptors.foldl fun _ _ h => h.portLinkLost).foldl fun _ _ h => .ite h.enterCap h) <|
    .ite (h.twinLinkLost.foldl fun _ _ h => h.portLinkLost) <| .ite h.fencePower <|
    .ite h.endRequests h

protected theorem Holds.findLinks (h : Holds Q t) : Holds Q (findLinks t) :=
  h.foldl fun _ _ h => .ite h.portLinkFound h

protected theorem Holds.startRing (h : Holds (Guarded g) t) : Holds (Guarded g) (startRing t) :=
  (Holds.ite h.ensureTimer h).foldl fun _ _ h => h.startPort

protected theorem Holds.unitBack {u} (h : Holds (Guarded g) t) : Holds (Guarded g) (unitBack t u) := by
  unfold unitBack
  extract_lets s₁
  have h₁ : Holds (Guarded g) s₁ := h.foldl fun _ _ h => .ite h.setPortState h
  exact .ite h <| .ite h₁.findLinks <| .ite h₁.findLinks.startTimer <| .ite h₁.startRing <| h₁.when (·.selectMaster)

protected theorem Holds.beginFence {u mark} (h : Holds (Guarded g) t)
    (hm : ∀ v, Holds (Guarded g) v → Holds (Guarded g) (mark v)) :
    Holds (Guarded g) (beginFence t u mark) := .ite (hm _ h) (hm _ h).fenceEffects.startDrain

protected theorem Holds.setFenceBit {u b} (h : Holds Q t) : Holds Q (setFenceBit t u b) := h.setWord

protected theorem Holds.fenceUnit {u} (h : Holds (Guarded g) t) : Holds (Guarded g) (fenceUnit t u) :=
  .ite (h.beginFence fun _ h => h.setFenceBit) h

protected theorem Holds.liftFence {u} (h : Holds (Guarded g) t) : Holds (Guarded g) (liftFence t u) :=
  .ite (h.setFenceBit.when (·.withDrains.withTimers.unitBack)) h

protected theorem Holds.faultFence {u} (h : Holds (Guarded g) t) : Holds (Guarded g) (faultFence t u) :=
  h.beginFence fun _ h => h.setBitF

protected theorem Holds.resetTables {u} (h : Holds Q t) : Holds Q (resetTables t u) :=
  h.foldl fun _ _ h => h.setBitF.setBitF.setBitF.setBitF

protected theorem Holds.resetRegisters {u} (h : Holds Q t) : Holds Q (resetRegisters t u) :=
  h.withRegs.withPendCb.withPendFb.withPendMem.setBitF

protected theorem Holds.stopUnitTimers {u} (h : Holds Q t) : Holds Q (stopUnitTimers t u) := h.withTimers

/-- TWN keeps its role, its claim and TWN_OE. -/
protected theorem Holds.resetTwin (h : Holds (Guarded g) t) :
    Holds (Guarded g) (t.withTwin { Twin.reset with role := t.twin.role, claim := t.twin.claim, oe := t.twin.oe }) :=
  fun e => by
    obtain ⟨hc, hs, hr, hp, -⟩ := h e
    exact ⟨hc, hs, hr, hp, fun _ => rfl⟩

protected theorem Holds.resetParts {pre u} (h : Holds (Guarded g) t) : Holds (Guarded g) (resetParts pre t u) :=
  .ite h.withPlaza <| .ite h.withRing <| .ite h.withJct <| .ite h.resetQueues <| .ite h.withBus <|
    .ite h.resetEngines <| .ite h.resetTime <| .ite h.withCip <| .ite (h.foldl fun _ _ h => h.setFlag.setFlag) <|
    .ite h.resetTwin <| .ite h.resetPower <| .ite h.withOdw h

protected theorem Holds.clearUnit {u} (h : Holds (Guarded g) t) : Holds (Guarded g) (clearUnit t u) :=
  h.resetRegisters.stopUnitTimers.resetTables.resetParts

protected theorem Holds.resetUnit {u} (h : Holds (Guarded g) t) : Holds (Guarded g) (resetUnit t u) :=
  (Holds.ite h h.clearUnit).setBitF

protected theorem Holds.setRstBit {u b} (h : Holds Q t) : Holds Q (setRstBit t u b) := h.setWord

protected theorem Holds.requestReset {u} (h : Holds (Guarded g) t) : Holds (Guarded g) (requestReset t u) :=
  .ite ((h.setRstBit.unless (·.fenceEffects)).startDrain) h

protected theorem Holds.startCip (h : Holds Q t) : Holds Q (startCip t) := h.setF.foldl fun _ _ h => h.resumeSlot

/-- Service and Degraded may follow any state. -/
protected theorem Holds.enterService {x} (h : Holds (Guarded g) t) (hx : x.state = .service ∨ x.state = .degraded) :
    Holds (Guarded g) (t.withDev x) := fun e => by
  obtain ⟨hc, -, hr⟩ := h e
  exact ⟨hc, hx, hr⟩

protected theorem Holds.completeReset {u} (h : Holds (Guarded g) t) : Holds (Guarded g) (completeReset t u) :=
  (((Holds.ite h.clearUnit h).setBitF.setRstBit.setBitF.when fun h => (h.enterService (.inl rfl)).zeroiseKeyRegs).when
    (·.startCip)).unitBack

protected theorem Holds.execUnitResetComplete {u} (h : Holds (Guarded g) t) :
    HoldsNext (Guarded g) (execUnitResetComplete u t) :=
  .next (.ite h.completeReset h)

/-! ### Restarts -/

theorem low_clearIslands (t : State) : Holds OeLow (clearIslands t) := rfl

protected theorem Holds.restoreBases (h : Holds Q t) : Holds Q (restoreBases t) :=
  .ite h.withAon.setBase.setBase.setBase.setBase h

protected theorem Holds.startPeerFilter (h : Holds Q t) : Holds Q (startPeerFilter t) := .ite h h.startTimer

protected theorem Holds.beginStarting (h : Holds OeLow t) : Holds OeLow (beginStarting t) :=
  h.lowWithDev.startTimer.startPeerFilter

theorem low_systemRestart (t : State) : Holds OeLow (systemRestart t) := (low_clearIslands _).beginStarting

protected theorem Holds.enterDead (h : Holds OeLow t) : Holds OeLow (enterDead t) := h.stopTimer.lowWithDev

protected theorem Holds.detectBanks {present v33} (h : Holds Q t) : Holds Q (detectBanks t present v33) :=
  h.foldl fun _ _ h => h.setFlag.setFlag

theorem low_powerOff (t : State) : Holds OeLow (powerOff t) := (low_clearIslands _).withRegs.setFlag.withTime.lowWithDev

protected theorem Holds.execPowerOnReset : HoldsNext (Guarded g) (execPowerOnReset t) := .next (low_powerOff t).of_low

protected theorem Holds.execPorstRelease {ok side testmode present v33} (h : Holds (Guarded g) t) :
    HoldsNext (Guarded g) (execPorstRelease ok side testmode present v33 t) := by
  refine .next ?_
  split
  next hoff =>
    have hl := (h.low_of_state (by simp [inService, hoff])).lowWithDev
      (x := { t.dev with side := side, testmode := testmode })
    exact (Holds.ite hl.lowWithDev (.ite hl.beginStarting.detectBanks hl.beginStarting.enterDead)).of_low
  next => exact h

protected theorem Holds.execSysrstAssert (h : Holds (Guarded g) t) : HoldsNext (Guarded g) (execSysrstAssert t) :=
  .next (.ite (h.withDev (by rfl)) (low_clearIslands _).lowWithDev.of_low)

protected theorem Holds.execSysrstRelease {ok present v33} (h : Holds (Guarded g) t) :
    HoldsNext (Guarded g) (execSysrstRelease ok present v33 t) :=
  have hl (v : State) := (low_lowerClaim v).beginStarting
  .next (.ite ((h.withDev (by rfl)).unless fun _ => .ite (hl _).detectBanks.of_low (hl _).enterDead.of_low) h)

protected theorem Holds.sameBanks {pre} (h : Holds Q t) : Holds Q (sameBanks pre t) :=
  h.foldl fun _ _ h => h.setFlag.setFlag

theorem low_restartKeepingBanks (t : State) : Holds OeLow (restartKeepingBanks t) := (low_systemRestart t).sameBanks

protected theorem Holds.restartKeepingBanks : Holds (Guarded g) (restartKeepingBanks t) :=
  (low_restartKeepingBanks t).of_low

protected theorem Holds.execDeviceRestart (h : Holds (Guarded g) t) : HoldsNext (Guarded g) (execDeviceRestart t) :=
  .next (.ite .restartKeepingBanks h)

protected theorem Holds.execDormantWake {changed wakeLow4} (h : Holds (Guarded g) t) :
    HoldsNext (Guarded g) (execDormantWake changed wakeLow4 t) :=
  .next (.ite (h.withAon.unless fun _ => .restartKeepingBanks) h)

protected theorem Holds.releaseMgtTags (h : Holds Q t) : Holds Q (releaseMgtTags t) :=
  h.withTxn.foldl fun _ _ h => h.stopTimer.startTimer

protected theorem Holds.managementRestart (h : Holds (Guarded g) t) : Holds (Guarded g) (managementRestart t) := by
  have hd : Holds (Guarded g) (t.withDev { t.dev with mgtRestart := true, dormantPending := false }) :=
    h.withDev (by rfl)
  exact hd.withMem.withOdw.portLinkLost.releaseMgtTags.when fun h => (h.withTwin (by rfl)).startTimer

protected theorem Holds.turnOffSlots (h : Holds Q t) : Holds Q (turnOffSlots t) := h.foldl fun _ _ h => h.warnSlot

protected theorem Holds.beginDormant (h : Holds (Guarded g) t) : Holds (Guarded g) (beginDormant t) :=
  .ite (h.withDev (by rfl)).withOdw.requestHandover ((h.withDev (by rfl)).withOdw.when (·.turnOffSlots))

protected theorem Holds.execDormantRequest (h : Holds (Guarded g) t) : HoldsNext (Guarded g) (execDormantRequest t) :=
  .next (.ite h <| .ite h.beginDormant <| .ite h.output h.output.beginDormant)

protected theorem Holds.continueDormant (h : Holds Q t) : Holds Q (continueDormant t) := .ite h.turnOffSlots h

protected theorem Holds.beginPowerDown (h : Holds (Guarded g) t) : Holds (Guarded g) (beginPowerDown t) :=
  (h.withDev (by rfl)).foldl fun _ _ h => h.startDrain

theorem low_enterDormant (t : State) (mask : BitVec 8) : Holds OeLow (enterDormant t mask) :=
  (low_clearIslands _).sameBanks.lowWithDev

/-! ### Fault reactions -/

protected theorem Holds.degrade (h : Holds (Guarded g) t) : Holds (Guarded g) (degrade t) :=
  h.when (·.enterService (.inr rfl))

protected theorem Holds.react {u code} (h : Holds (Guarded g) t) : Holds (Guarded g) (react t u code) :=
  .ite h.faultFence.degrade <| .ite h.faultFence.degrade.releaseClaim <|
    .ite h.withFlt.requestReset.degrade.setBitF h

protected theorem Holds.writePendingFatal (h : Holds Q t) : Holds Q (writePendingFatal t) :=
  .ite h.writeEventLog.setFlag h

protected theorem Holds.fatalFault {code unit info0 info1} :
    Holds (Guarded g) (fatalFault t code unit info0 info1) :=
  have hr {v} : Holds (Guarded g) (restartKeepingBanks v) := .restartKeepingBanks
  hr.when (·.withFlt.startTimer)

protected theorem Holds.reportFault {code unit cls kind info0 info1} (h : Holds (Guarded g) t) :
    Holds (Guarded g) (reportFault t code unit cls kind info0 info1) := by
  cases kind with
  | record => exact h.recordFault
  | unit => exact h.logFault.react
  | restart => exact .fatalFault
  | mgtRestart => exact h.logFault.managementRestart

protected theorem Holds.execFaultDetect {code unit info0 info1} (h : Holds (Guarded g) t) :
    HoldsNext (Guarded g) (execFaultDetect code unit info0 info1 t) := by
  dsimp only [execFaultDetect]
  split
  · split
    · exact .next h.reportFault
    · exact .fault
  · exact .next h

protected theorem Holds.execErrPulseEnd (h : Holds Q t) : HoldsNext Q (execErrPulseEnd t) :=
  .next (.ite h.withFlt.stopTimer h)

protected theorem Holds.injectFault {code unit} (h : Holds (Guarded g) t) :
    Holds (Guarded g) (injectFault t code unit) := by
  dsimp only [injectFault]
  split
  · split
    · exact h.reportFault
    · exact h
  · exact h

protected theorem Holds.armEcc {code unit} (h : Holds Q t) : Holds Q (armEcc t code unit) := h.withFlt

protected theorem Holds.injectGo {code unit ecc} (h : Holds (Guarded g) t) :
    Holds (Guarded g) (injectGo t code unit ecc) :=
  .ite h.setFlag.setF.setF.armEcc h.setFlag.setF.setF.injectFault

protected theorem Holds.execFaultInject {code unit} (h : Holds (Guarded g) t) :
    HoldsNext (Guarded g) (execFaultInject code unit t) :=
  .next (.ite h.injectGo h)

protected theorem Holds.execEccInject {code unit} (h : Holds (Guarded g) t) :
    HoldsNext (Guarded g) (execEccInject code unit t) :=
  .next (.ite h.injectGo h)

protected theorem Holds.reportWord {w} (h : Holds (Guarded g) t) : Holds (Guarded g) (reportWord t w) := by
  dsimp only [reportWord]
  split
  · exact h.withFresh.reportFault
  · exact h

protected theorem Holds.reportEcc (h : Holds (Guarded g) t) : Holds (Guarded g) (reportEcc t) :=
  h.withFlt.foldl fun _ _ h => h.reportWord

protected theorem Holds.idle (h : Holds (Guarded g) t) : Holds (Guarded g) (idle t) := h.tick.reportEcc

protected theorem Holds.reportHang {u done} (h : Holds (Guarded g) t) : Holds (Guarded g) (reportHang t u done) :=
  .ite h h.reportFault

protected theorem Holds.drained {u} (h : Holds (Guarded g) t) : Holds (Guarded g) (drained t u) :=
  .ite (h.withDrains.reportHang.when (·.resetUnit)) h

protected theorem Holds.endWindow {d} (h : Holds (Guarded g) t) : Holds (Guarded g) (endWindow t d) :=
  h.endRequests.stopTimer.withDrains.drained

protected theorem Holds.execDrainWindowEnd {unit island} (h : Holds (Guarded g) t) :
    HoldsNext (Guarded g) (execDrainWindowEnd unit island t) := by
  dsimp only [execDrainWindowEnd]
  split
  · exact .next (.ite h.endWindow h)
  · exact .next h

/-! ### Firmware update -/

protected theorem Holds.nvmPut {off bs} (h : Holds Q t) : Holds Q (nvmPut t off bs) := .ite h h.memWrite

protected theorem Holds.writeBoot {bank trial starts version} (h : Holds Q t) :
    Holds Q (writeBoot t bank trial starts version) :=
  h.nvmPut

protected theorem Holds.advanceOtp {i} (h : Holds Q t) : Holds Q (advanceOtp t i) := h

protected theorem Holds.invalidateStaging (h : Holds Q t) : Holds Q (invalidateStaging t) := h.nvmPut.nvmPut

protected theorem Holds.writeJournal {bank abandon done64} (h : Holds Q t) :
    Holds Q (writeJournal t bank abandon done64) :=
  h.nvmPut

protected theorem Holds.setUpd {state result} (h : Holds Q t) : Holds Q (setUpd t state result) := h.withUpd

protected theorem Holds.decryptImage {bank skip} (h : Holds Q t) : HoldsSome Q id (decryptImage t bank skip) :=
  .ite (.some h.nvmPut) .none

protected theorem Holds.journalPieces {bank first last} (h : Holds Q t) : Holds Q (journalPieces t bank first last) :=
  h.foldl fun _ _ h => h.writeJournal

protected theorem Holds.abandonActivation {bank result} (h : Holds Q t) : Holds Q (abandonActivation t bank result) :=
  h.writeJournal.invalidateStaging.withUpd.setUpd

protected theorem Holds.queueActivation {d bank} (h : Holds Q t) : Holds Q (queueActivation t d bank) :=
  h.setWord.setWord.setWord.setWord.setWord.setWord.setWords.setIv.writeDescriptorCtl

protected theorem Holds.startActivation (h : Holds Q t) : Holds Q (startActivation t) := by
  dsimp only [startActivation]
  split
  · split
    · exact h.withUpd.nvmPut.writeJournal.queueActivation.withUpd
    · exact h.withUpd.nvmPut.writeJournal
  · split
    · rename_i e
      exact (h.withUpd.nvmPut.writeJournal.decryptImage _ e).journalPieces.withUpd
    · exact h.withUpd.nvmPut.writeJournal.abandonActivation

protected theorem Holds.followActivation {d} (h : Holds Q t) : Holds Q (followActivation t d) :=
  .ite (.ite h.journalPieces.withUpd <| .ite h.abandonActivation h.withUpd) h

protected theorem Holds.execPass1Complete {d} (h : Holds Q t) : HoldsNext Q (execPass1Complete d t) :=
  .next (.ite h.endPass1.followActivation h)

protected theorem Holds.execDescriptorComplete {d} (h : Holds Q t) : HoldsNext Q (execDescriptorComplete d t) :=
  .next (.ite h.runDescriptor.followActivation h)

protected theorem Holds.finishActivation {bank} (h : Holds Q t) : Holds Q (finishActivation t bank).1 :=
  .iteFst h.writeBoot.withUpd.setUpd h.abandonActivation

protected theorem Holds.execActivationHashDone (h : Holds (Guarded g) t) :
    HoldsNext (Guarded g) (execActivationHashDone t) := by
  dsimp only [execActivationHashDone]
  split
  · split
    · rename_i e
      exact .next (.ite .restartKeepingBanks (h.finishActivation.of_fst e).managementRestart)
    · rename_i e
      exact .next (h.finishActivation.of_fst e)
  · exact .next h

protected theorem Holds.updBegin (h : Holds Q t) : Holds Q (updBegin t).1 :=
  .iteFst h <| .iteFst h h.invalidateStaging.withUpd

protected theorem Holds.updClose (h : Holds Q t) : Holds Q (updClose t).1 := .iteFst h <| .iteFst h h.nvmPut.withUpd

protected theorem Holds.updActivate (h : Holds Q t) : Holds Q (updActivate t).1 :=
  .iteFst h <| .iteFst h.setUpd <| .iteFst h h.startActivation

protected theorem Holds.updConfirm (h : Holds Q t) : Holds Q (updConfirm t).1 :=
  .iteFst h <| .iteFst h h.invalidateStaging.writeBoot.advanceOtp.withUpd

protected theorem Holds.updAbandon (h : Holds Q t) : Holds Q (updAbandon t).1 := .iteFst h.withUpd h

protected theorem Holds.updCommand {n} (h : Holds Q t) : Holds Q (updCommand t n).1 := by
  dsimp only [updCommand]
  split
  · exact h.updBegin
  · exact h.updClose
  · exact h.updActivate
  · exact h.updConfirm
  · exact h.updAbandon
  · exact h

protected theorem Holds.updPackage {ofs bs} (h : Holds Q t) : Holds Q (updPackage t ofs bs).1 :=
  .iteFst h <| .iteFst h <| .iteFst h <| .iteFst h h.nvmPut.withUpd

protected theorem Holds.updAnswer {r : State × Nat} (hr : Holds Q r.1) (h : Holds Q t) : Holds Q (updAnswer t r) :=
  .ite hr.output h.output

protected theorem Holds.execBegin (h : Holds Q t) : HoldsNext Q (execBegin t) := .next (h.updBegin.updAnswer h)

protected theorem Holds.execClose (h : Holds Q t) : HoldsNext Q (execClose t) := .next (h.updClose.updAnswer h)

protected theorem Holds.execActivate (h : Holds Q t) : HoldsNext Q (execActivate t) :=
  .next (h.updActivate.updAnswer h)

protected theorem Holds.execConfirm (h : Holds Q t) : HoldsNext Q (execConfirm t) := .next (h.updConfirm.updAnswer h)

protected theorem Holds.execAbandon (h : Holds Q t) : HoldsNext Q (execAbandon t) := .next (h.updAbandon.updAnswer h)

protected theorem Holds.execPackageWrite {ofs bs} (h : Holds Q t) : HoldsNext Q (execPackageWrite ofs bs t) :=
  .next (h.updPackage.updAnswer h)

protected theorem Holds.execVerifyComplete (h : Holds Q t) : HoldsNext Q (execVerifyComplete t) :=
  .next (.ite (.ite h.nvmPut.setUpd h.nvmPut.setUpd) h)

/-! ### Reads and writes of registers and windows -/

protected theorem Holds.addCb {key mask w} (h : Holds Q t) : Holds Q (addCb t key mask w) := .ite h h.withPendCb

protected theorem Holds.plainWrite {d key w} (h : Holds Q t) : Holds Q (plainWrite t d key w).1 :=
  h.setWord.addCb.withPendFb

protected theorem Holds.resetUnits {w} (h : Holds (Guarded g) t) : Holds (Guarded g) (resetUnits t w) :=
  h.foldl fun _ _ h => .ite h.requestReset h

protected theorem Holds.fenceUnits {w} (h : Holds (Guarded g) t) : Holds (Guarded g) (fenceUnits t w) :=
  h.foldl fun _ _ h => .ite h.liftFence <| .ite h h.fenceUnit

protected theorem Holds.holdCommits {hold} (h : Holds Q t) : Holds Q (holdCommits t hold) :=
  h.setFlag.unless (·.setF)

protected theorem Holds.discardCommits (h : Holds Q t) : Holds Q (discardCommits t) :=
  h.withPendCb.withPendMem.setF.setF

protected theorem Holds.requestFlips {w} (h : Holds Q t) : Holds Q (requestFlips t w).1 := .iteFst h h.setF.setF

protected theorem Holds.hookSYS {off w} (h : Holds (Guarded g) t) : HoldsSome (Guarded g) Prod.fst (hookSYS t off w) :=
  .ite (.withCode h.resetUnits) <| .ite (.withCode h.fenceUnits) <|
    .ite (.withCode (h.holdCommits.when (·.discardCommits))) <| .ite (.some h.requestFlips) .none

protected theorem Holds.hookPLZ {off w} (h : Holds Q t) : HoldsSome Q Prod.fst (hookPLZ t off w) :=
  .ite (.withCode h.writeLearnCtl) <| .ite (.withCode h) .none

protected theorem Holds.writePortCfg {d n key w} (h : Holds (Guarded g) t) :
    Holds (Guarded g) (writePortCfg t d n key w).1 :=
  h.setWord.addCb.withPendFb.unless (·.setPortEn)

protected theorem Holds.writeRingCtl {w} (h : Holds (Guarded g) t) : Holds (Guarded g) (writeRingCtl t w) :=
  .ite ((Holds.ite (.ite h <| .ite h.setWrap h.setFlag) <| .ite ((Holds.ite h <|
    .ite h.setWrap h.setFlag).setWrap) ((Holds.ite h <| .ite h.setWrap h.setFlag).setFlag)).setFlag) <|
    .ite (.ite h <| .ite h.setWrap h.setFlag) <| .ite ((Holds.ite h <|
    .ite h.setWrap h.setFlag).setWrap) ((Holds.ite h <| .ite h.setWrap h.setFlag).setFlag)

protected theorem Holds.hookRNG {d off key w} (h : Holds (Guarded g) t) :
    HoldsSome (Guarded g) Prod.fst (hookRNG t d off key w) := by
  dsimp only [hookRNG]
  split
  · exact .some h.writePortCfg
  · split
    · exact .withCode (.ite h.retrainPort h)
    · split
      · exact .withCode h.writeRingCtl
      · split
        · split
          · exact .withCode h
          · exact .none
        · exact .none

protected theorem Holds.hookACC {d off key w} (h : Holds Q t) : HoldsSome Q Prod.fst (hookACC t d off key w) :=
  .ite (.some h.changeMode.plainWrite) .none

protected theorem Holds.hookMQ {off w} (h : Holds Q t) : HoldsSome Q Prod.fst (hookMQ t off w) :=
  .ite (.ite (.some h.writeQueueCfg) <| .ite (.some h.writeQueueProd) <| .ite (.withCode h.writeQueueCtl) .none) .none

protected theorem Holds.hookBUS {d off key w} (h : Holds Q t) : HoldsSome Q Prod.fst (hookBUS t d off key w) :=
  .ite (.some h.writeBusCfg) <| .ite (.some h.writeBusFixed) <| .ite (.withCode (.ite h.recoverBus h)) <|
    .ite (.withCode h.writeStarve) <| .ite (.some h.writeTxReq) <| .ite (.some h.writeTxCan) .none

protected theorem Holds.hookARC {off w} (h : Holds Q t) : HoldsSome Q Prod.fst (hookARC t off w) :=
  .ite (.withCode h.restartGroup) <| .ite (.ite (.some h.writeEngineConfig) <|
    .ite (.withCode h.writeEngineCtl) .none) .none

protected theorem Holds.writeTrigger {d k o key w} (h : Holds Q t) : Holds Q (writeTrigger t d k o key w).1 :=
  .ite h.setWord.addCb.withPendFb.armTrigger (h.setWord.addCb.withPendFb.when (·.setFiring))

protected theorem Holds.hookTIM {d off key w} (h : Holds Q t) : HoldsSome Q Prod.fst (hookTIM t d off key w) :=
  .ite (.ite (.ite (.withCode h) <| .ite (.withCode h) .none) <| .ite (.some h.writeTbCtl) .none) <|
    .ite (.some h.writeTrigger) .none

protected theorem Holds.hookCIP {who d off key w} (h : Holds Q t) :
    HoldsSome Q Prod.fst (hookCIP t who d off key w) :=
  .ite (.some h.plainWrite) <| .ite (.withCode ((Holds.ite h.flushCache h).when (·.nextLgen))) <|
    .ite (.some h.writeKeyReg) <| .ite (.ite (.some h.writeDescriptorCtl) <| .ite (.withCode h) .none) .none

protected theorem Holds.hookPWR {d off key w} (h : Holds Q t) : HoldsSome Q Prod.fst (hookPWR t d off key w) :=
  .ite .none <| .ite (.withCode h.writeSlotCtl) <| .ite (.some h.setSlot.plainWrite) .none

protected theorem Holds.hookFLT {d off key w} (h : Holds (Guarded g) t) :
    HoldsSome (Guarded g) Prod.fst (hookFLT t d off key w) :=
  .ite (.withCode h) <| .ite (.ite (.withCode h) <| .withCode (h.setWord.addCb.withPendFb.when (·.injectGo))) .none

protected theorem Holds.pinsSet {g w} (h : Holds Q t) : Holds Q (pinsSet t g w) := h.setWord

protected theorem Holds.pinsClear {g w} (h : Holds Q t) : Holds Q (pinsClear t g w) := h.setWord

protected theorem Holds.pinsToggle {g w} (h : Holds Q t) : Holds Q (pinsToggle t g w) := h.setWord

protected theorem Holds.hookPIN {off w} (h : Holds Q t) : HoldsSome Q Prod.fst (hookPIN t off w) :=
  .ite (.withCode h.pinsSet) <| .ite (.withCode h.pinsClear) <| .ite (.withCode h.pinsToggle) .none

protected theorem Holds.hookWrite {who d u off key w} (h : Holds (Guarded g) t) :
    HoldsSome (Guarded g) Prod.fst (hookWrite t who d u off key w) :=
  .ite h.hookSYS <| .ite h.hookPLZ <| .ite h.hookRNG <| .ite h.hookACC <| .ite h.hookMQ <| .ite h.hookBUS <|
  .ite h.hookARC <| .ite h.hookTIM <| .ite h.hookCIP <|
  .ite (.ite (.some h.writeTwinCtl) (.ite (.some h.plainWrite.coldEnabled) .none)) <|
  .ite h.hookPWR <| .ite h.hookFLT <| .ite h.hookPIN .none

protected theorem Holds.readReg {u off} (h : Holds (Guarded g) t) : Holds (Guarded g) (readReg t u off).1 := by
  rw [readReg]
  refine .iteFst h (.iteFst h.eccTouch.reportEcc ?_)
  split
  · exact h
  · exact .iteFst h <| .iteFst h <| .iteFst h <| .iteFst h.setWords <| .iteFst h.setWord h

protected theorem Holds.writeReg {who u off w} (h : Holds (Guarded g) t) :
    Holds (Guarded g) (writeReg t who u off w).1 := by
  rw [writeReg]
  refine .iteFst h (.iteFst ?_ ?_)
  · split
    split
    · exact h
    · exact Holds.noteWrite h.memWrite
  · split
    · exact h
    · exact .iteFst h (Holds.noteWrite (h.hookWrite.getD h.plainWrite))

protected theorem Holds.readRegs {u off n} (h : Holds (Guarded g) t) : Holds (Guarded g) (readRegs t u off n).1 := by
  induction n generalizing t off with
  | zero => exact h
  | succ n ih => exact ih h.readReg

protected theorem Holds.writeRegs {who u off ws} (h : Holds (Guarded g) t) :
    Holds (Guarded g) (writeRegs t who u off ws).1 := by
  induction ws generalizing t off with
  | nil => exact h
  | cons w ws ih => exact ih h.writeReg

protected theorem Holds.readQueueWindow {q at_ len prefetch} (h : Holds Q t) :
    Holds Q (readQueueWindow t q at_ len prefetch).1 :=
  .iteFst (.iteFst h <| .iteFst h h.popRead) h

protected theorem Holds.writeQueueWindow {who q at_ bs} (h : Holds Q t) :
    Holds Q (writeQueueWindow t who q at_ bs).1 :=
  .iteFst h.pushBytes <| .iteFst (.iteFst h.pushHeader h) <| .iteFst h h

protected theorem Holds.readArcWindow {at_ len prefetch} (h : Holds (Guarded g) t) :
    Holds (Guarded g) (readArcWindow t at_ len prefetch).1 :=
  .iteFst h.eccTouch.reportEcc <| .iteFst h <| .iteFst (.iteFst h.rxPop h) h

protected theorem Holds.writeArcWindow {at_ bs} (h : Holds Q t) : Holds Q (writeArcWindow t at_ bs).1 := by
  dsimp only [writeArcWindow]
  exact .iteFst (h.writeProgram.when (·.twinNote)) <| .iteFst h.txPush h

protected theorem Holds.pendBytes {a bs} (h : Holds Q t) : Holds Q (pendBytes t a bs) := h.withPendMem

protected theorem Holds.writeMemWindow {w a at_ bs} (h : Holds Q t) : Holds Q (writeMemWindow t w a at_ bs).1 := by
  dsimp only [writeMemWindow]
  split
  · exact h
  · exact h
  · exact h
  · exact h
  · exact h
  · exact .iteFst h <| .iteFst h <| .iteFst h.memWrite h.pendBytes
  · exact h.memWrite
  · exact h.writeBusRam
  · exact h.memWrite

protected theorem Holds.readAt {u off len prefetch} (h : Holds (Guarded g) t) :
    Holds (Guarded g) (readAt t u off len prefetch).1 := by
  dsimp only [readAt]
  split
  · exact h
  · split
    · exact h
    · exact .iteFst h h.readRegs
    · exact .iteFst h h.readRegs
    · exact h.readQueueWindow
    · exact h.readArcWindow
    · exact h
    · exact h.eccTouch.reportEcc

protected theorem Holds.writeAt {who u off bs} (h : Holds (Guarded g) t) :
    Holds (Guarded g) (writeAt t who u off bs).1 := by
  dsimp only [writeAt]
  split
  · exact h
  · split
    · exact h
    · exact .iteFst h h.writeRegs
    · exact .iteFst h h.writeRegs
    · exact h.writeQueueWindow
    · exact h.writeArcWindow
    · split
      · split
        · exact h.when (·.twinNote)
        · exact h.writeMemWindow.when (·.twinNote)
      · exact h.writeMemWindow.when (·.twinNote)

/-! ### The object dictionary -/

protected theorem Holds.imageWrite {i ofs bs} (h : Holds (Guarded g) t) :
    Holds (Guarded g) (imageWrite t i ofs bs).1 := by
  dsimp only [imageWrite]
  split
  · exact .iteFst (.iteFst h h.writeRegs) <| .iteFst (.iteFst h h.memWrite.twinNote) h.writeAt
  · exact h

protected theorem Holds.loadRingKey {atStart} (h : Holds Q t) : Holds Q (loadRingKey t atStart) := by
  dsimp only [loadRingKey]
  split
  · exact .ite (.ite h.withCip.setF h.withCip.addCb) h
  · exact h

protected theorem Holds.writeRingKey {secure bs} (h : Holds Q t) : Holds Q (writeRingKey t secure bs).1 :=
  .iteFst h <| .iteFst h <| .iteFst h <| .iteFst h h.nvmPut.loadRingKey

protected theorem Holds.openRelay {p} (h : Holds (Guarded g) t) : Holds (Guarded g) (openRelay t p) :=
  h.withRing.declareBroken.startTimer.retrainPort

protected theorem Holds.closeRelay (h : Holds (Guarded g) t) : Holds (Guarded g) (closeRelay t) := by
  dsimp only [closeRelay]
  split
  · exact h.withRing.stopTimer.retrainPort
  · exact h

protected theorem Holds.writeRelay {v} (h : Holds (Guarded g) t) : Holds (Guarded g) (writeRelay t v).1 :=
  .iteFst h.closeRelay <| .iteFst h.closeRelay.openRelay h

protected theorem Holds.writeNodeId {v} (h : Holds (Guarded g) t) : Holds (Guarded g) (writeNodeId t v).1 :=
  .iteFst h <| .iteFst h <| .iteFst h (h.nvmPut.withDev (by rfl))

protected theorem Holds.writeDeviceCommand {v} (h : Holds Q t) : Holds Q (writeDeviceCommand t v).1 :=
  .iteFst h.withOdw <| .iteFst (.iteFst h h.withOdw) h

protected theorem Holds.holdValue {i sub bs} (h : Holds Q t) : Holds Q (holdValue t i sub bs) := h.withOdw

protected theorem Holds.takeUartRate (h : Holds Q t) : Holds Q (takeUartRate t) := h.withOdw

protected theorem Holds.keepPersistent {i sub ofs bs} (h : Holds Q t) : Holds Q (keepPersistent t i sub ofs bs) :=
  h.withOdw

protected theorem Holds.putValue {secure i sub bs} (h : Holds (Guarded g) t) :
    Holds (Guarded g) (putValue t secure i sub bs).1 := by
  dsimp only [putValue]
  split
  · exact h.writeNodeId
  · exact h.writeRingKey
  · exact h.updCommand
  · exact h.updPackage
  · exact h.writeRelay
  · exact h.writeDeviceCommand
  · split
    · exact .iteFst h.writeReg h
    · split
      · exact h.writeReg
      · exact .iteFst h h.holdValue

protected theorem Holds.writeMember {secure i sub ofs bs m} (h : Holds (Guarded g) t) :
    Holds (Guarded g) (writeMember t secure i sub ofs bs m).1 := by
  dsimp only [writeMember]
  exact .iteFst h.updPackage <| .iteFst h <| .iteFst h ((Holds.iteFst h.imageWrite h.putValue).when
    (·.keepPersistent))

protected theorem Holds.writeObjects {cls at_ secure bs} (h : Holds (Guarded g) t) :
    Holds (Guarded g) (writeObjects t cls at_ secure bs).1 := by
  dsimp only [writeObjects]
  split
  · exact h
  · refine Holds.takeUartRate (Holds.foldlFst h fun q x hq => ?_)
    split
    · exact hq.writeMember
    · exact hq
    · exact hq

protected theorem Holds.finishStore (h : Holds Q t) : Holds Q (finishStore t) :=
  .ite h.withOdw.withOdw h.withOdw.nvmPut.nvmPut.withOdw

protected theorem Holds.startStore (h : Holds Q t) : Holds Q (startStore t).1 :=
  .iteFst h <| .iteFst h.withOdw <| .iteFst h h.withOdw.twinNote

protected theorem Holds.restoreStore (h : Holds Q t) : Holds Q (restoreStore t).1 :=
  .iteFst h <| .iteFst h h.nvmPut.nvmPut

protected theorem Holds.loadCopy {r} (h : Holds Q t) : Holds Q (loadCopy t r) := h.keepPersistent

protected theorem Holds.loadCopies (h : Holds Q t) : Holds Q (loadCopies t) := by
  dsimp only [loadCopies]
  split
  · exact h.withOdw.withOdw
  · exact .ite h.withOdw.withOdw.withOdw ((h.withOdw.withOdw.foldl fun _ _ h => h.loadCopy).withOdw)

protected theorem Holds.applyCopy {p} (h : Holds (Guarded g) t) : Holds (Guarded g) (applyCopy t p) := by
  dsimp only [applyCopy]
  split
  · exact .ite h <| .ite h.imageWrite h.putValue
  · exact h

protected theorem Holds.loadSettings (h : Holds (Guarded g) t) : Holds (Guarded g) (loadSettings t) := by
  unfold loadSettings
  exact Holds.takeUartRate ((h.loadCopies.foldl fun _ _ h => h.applyCopy).foldl fun _ _ h => h.applyCopy)

/-! ### The boot path -/

protected theorem Holds.romConfirmed (h : Holds Q t) : Holds Q (romConfirmed t) := .ite h h.advanceOtp

protected theorem Holds.romActivation (h : Holds Q t) : Holds Q (romActivation t) := by
  dsimp only [romActivation]
  split
  · exact h
  · split
    · exact h
    · split
      · exact h.withUpd.finishActivation
      · split
        · rename_i e
          exact (h.withUpd.decryptImage _ e).journalPieces.withUpd.finishActivation
        · exact h.withUpd.abandonActivation

protected theorem Holds.romTrial (h : Holds Q t) : Holds Q (romTrial t) := by
  dsimp only [romTrial]
  split
  · exact .ite h <| .ite h.writeBoot <| .ite h.writeBoot.withUpd h
  · exact h

protected theorem Holds.romBank (h : Holds Q t) : Holds Q (romBank t).1 := .iteFst h <| .iteFst (.ite h.writeBoot h) h

protected theorem Holds.romSteps (h : Holds Q t) : Holds Q (romSteps t).1 :=
  h.romConfirmed.romActivation.romTrial.romBank

protected theorem Holds.loadImage {bank} (h : Holds (Guarded g) t) : Holds (Guarded g) (loadImage t bank) :=
  (h.withDev (by rfl)).withUpd

protected theorem Holds.loadLogSeqs (h : Holds Q t) : Holds Q (loadLogSeqs t) := by
  dsimp only [loadLogSeqs]
  split
  · split
    · exact h.withFlt.withCip
    · exact h.withCip
  · split
    · exact h.withFlt
    · exact h

protected theorem Holds.samplePower (h : Holds Q t) : Holds Q (samplePower t) := h.setFlag.setFlag

protected theorem Holds.unitsUp (h : Holds (Guarded g) t) : Holds (Guarded g) (unitsUp t) :=
  h.foldl fun _ _ h => h.unitBack

protected theorem Holds.startImage {bank} (h : Holds (Guarded g) t) : Holds (Guarded g) (startImage t bank) := by
  unfold startImage
  exact Holds.loadSettings <| Holds.unitsUp <| Holds.when
    ((h.withDev (by rfl)).restoreBases.withTime.samplePower.loadLogSeqs.writePendingFatal.loadImage.withDev
      (by rfl)).loadRingKey
      (·.startCip)

protected theorem Holds.enterRecovery (h : Holds OeLow t) : Holds (Guarded g) (enterRecovery t) :=
  (h.lowWithDev.restoreBases.withTime.samplePower.loadLogSeqs.writePendingFatal.when (·.startCip)).withUpd.of_low
    |>.unitsUp

protected theorem Holds.execRomBootComplete {ok} (h : Holds (Guarded g) t) :
    HoldsNext (Guarded g) (execRomBootComplete ok t) := by
  refine .next ?_
  split
  next hst =>
    have hl : Holds OeLow t := h.low_of_state (by simp [inService, hst.1])
    have hr := hl.romSteps
    refine .ite hl.enterDead.of_low ?_
    rcases e : romSteps t with ⟨u, _ | bank⟩
    · exact (hr.of_fst e).enterRecovery
    · exact (hr.of_fst e).of_low.startImage
  next => exact h

protected theorem Holds.execRingJoinEnable (h : Holds (Guarded g) t) : HoldsNext (Guarded g) (execRingJoinEnable t) :=
  .next (.ite (h.withDev (by rfl)).stopTimer.startRing h)

protected theorem Holds.execRingReady (h : Holds (Guarded g) t) : HoldsNext (Guarded g) (execRingReady t) :=
  .next (.ite (h.withDev (by rfl)).startRing h)

protected theorem Holds.startRole (h : Holds OeLow t) : Holds (Guarded false) (startRole t) :=
  .ite (h.lowSetRole.of_low.unless (·.startTimer)) h.lowSetRole.of_low.raiseClaim

protected theorem Holds.execFullService (h : Holds (Guarded false) t) :
    HoldsNext (Guarded false) (execFullService t) := by
  refine .next ?_
  split
  next hst => exact (h.low_of_state (by simp [inService, hst.1])).lowWithDev.zeroiseKeyRegs.startRole
  next => exact h

protected theorem Holds.reloadHeld (h : Holds (Guarded g) t) : Holds (Guarded g) (reloadHeld t) :=
  (h.withOdw.foldl fun _ _ h => h.applyCopy).takeUartRate

protected theorem Holds.endManagementRestart {bank} (h : Holds (Guarded g) t) :
    Holds (Guarded g) (endManagementRestart t bank) := by
  unfold endManagementRestart
  exact (h.withDev (by rfl)).loadImage.loadCopies.reloadHeld.unitBack.when (·.requestResync)

protected theorem Holds.execManagementRestartEnd (h : Holds (Guarded g) t) :
    HoldsNext (Guarded g) (execManagementRestartEnd t) := by
  refine .next (.ite ?_ h)
  have hr := h.romSteps
  rcases e : romSteps t with ⟨u, _ | bank⟩
  · exact (low_restartKeepingBanks u).enterRecovery
  · exact (hr.of_fst e).endManagementRestart

protected theorem Holds.execDormantEntryComplete (h : Holds (Guarded g) t) :
    HoldsNext (Guarded g) (execDormantEntryComplete t) :=
  .next (.ite h <| .ite h.beginPowerDown <| .ite h (low_enterDormant _ _).of_low)

/-! ### Requests at their target -/

protected theorem Holds.finishRequest {k r code data} (h : Holds Q t) : Holds Q (finishRequest t k r code data) :=
  .ite h.withTxn.completeRequest h

protected theorem Holds.markWaiting {k r} (h : Holds Q t) : Holds Q (markWaiting t k r) := h.withTxn

protected theorem Holds.startTransfer {k r n} (h : Holds Q t) : Holds Q (startTransfer t k r n) := by
  dsimp only [startTransfer]
  split
  · exact h.finishRequest
  · split
    · exact h.finishRequest
    · exact .ite h.finishRequest <| .ite h.finishRequest h.markWaiting.output
    · exact .ite h.finishRequest h.markWaiting.output
    · exact .ite h.finishRequest h.markWaiting.output

protected theorem Holds.execI2cTransferComplete {bus how data} (h : Holds Q t) :
    HoldsNext Q (execI2cTransferComplete bus how data t) := by
  dsimp only [execI2cTransferComplete]
  split
  · split
    · exact .next ((Holds.ite h h.addF).finishRequest)
    · exact .next ((Holds.ite h h.addF).incF.finishRequest)
    · exact .next ((Holds.ite h h.addF).incF.finishRequest)
    · exact .next ((Holds.ite h h.addF).addF.finishRequest)
  · exact .next h

protected theorem Holds.execI2cStretchTimeout {held} (h : Holds Q t) :
    HoldsNext Q (execI2cStretchTimeout held t) := by
  dsimp only [execI2cStretchTimeout]
  split
  · exact .next h.incF.output.finishRequest
  · exact .next h

protected theorem Holds.execMdioTransferComplete {bus driven data} (h : Holds Q t) :
    HoldsNext Q (execMdioTransferComplete bus driven data t) := by
  dsimp only [execMdioTransferComplete]
  split
  · exact .next (.ite h.finishRequest h.finishRequest)
  · exact .next h

protected theorem Holds.readTarget {r} (h : Holds (Guarded g) t) : Holds (Guarded g) (readTarget t r).1 := by
  rw [readTarget]
  generalize readObjects t _ _ _ = p
  obtain ⟨bs, c⟩ := p
  split
  next e =>
    split
    · exact (Holds.iteFst h h.readAt).of_fst e
    · exact h

protected theorem Holds.writeTarget {r} (h : Holds (Guarded g) t) : Holds (Guarded g) (writeTarget t r).1 :=
  .iteFst h.writeObjects h.writeAt

protected theorem Holds.performRead {k r} (h : Holds (Guarded g) t) : Holds (Guarded g) (performRead t k r) := by
  dsimp only [performRead]
  split
  · exact h.finishRequest
  · exact .ite h.startTransfer h.readTarget.finishRequest

protected theorem Holds.performWrite {k r} (h : Holds (Guarded g) t) : Holds (Guarded g) (performWrite t k r) := by
  dsimp only [performWrite]
  split
  · exact h.finishRequest
  · exact .ite h.startTransfer h.writeTarget.finishRequest

protected theorem Holds.performRmw {k r} (h : Holds (Guarded g) t) : Holds (Guarded g) (performRmw t k r) := by
  dsimp only [performRmw]
  split
  · exact h.finishRequest
  · split
    · split
      · rename_i e _ _ e2
        exact ((h.readAt.of_fst e).writeAt.of_fst e2).finishRequest
      · exact h.finishRequest
    · exact h.finishRequest

protected theorem Holds.execRd {k} (h : Holds (Guarded g) t) : HoldsNext (Guarded g) (execRd k t) := by
  dsimp only [execRd]
  split
  · exact .next h.performRead
  · exact .next h

protected theorem Holds.execWrPosted {k} (h : Holds (Guarded g) t) : HoldsNext (Guarded g) (execWrPosted k t) := by
  dsimp only [execWrPosted]
  split
  · exact .next h.performWrite
  · exact .next h

protected theorem Holds.execWrAck {k} (h : Holds (Guarded g) t) : HoldsNext (Guarded g) (execWrAck k t) := by
  dsimp only [execWrAck]
  split
  · exact .next h.performWrite
  · exact .next h

protected theorem Holds.execRmwSet {k} (h : Holds (Guarded g) t) : HoldsNext (Guarded g) (execRmwSet k t) := by
  dsimp only [execRmwSet]
  split
  · exact .next h.performRmw
  · exact .next h

protected theorem Holds.execRmwClr {k} (h : Holds (Guarded g) t) : HoldsNext (Guarded g) (execRmwClr k t) := by
  dsimp only [execRmwClr]
  split
  · exact .next h.performRmw
  · exact .next h

protected theorem Holds.execRmwSwap {k} (h : Holds (Guarded g) t) : HoldsNext (Guarded g) (execRmwSwap k t) := by
  dsimp only [execRmwSwap]
  split
  · exact .next h.performRmw
  · exact .next h

protected theorem Holds.execFence {k} (h : Holds Q t) : HoldsNext Q (execFence k t) := by
  dsimp only [execFence]
  split
  · exact .next (.ite (.ite h.finishRequest h.markWaiting) h)
  · exact .next h

protected theorem Holds.releaseFence {k r} (h : Holds Q t) : Holds Q (releaseFence t k r) :=
  .ite h.finishRequest h.setSeqRx.finishRequest

protected theorem Holds.execFenceRelease {k} (h : Holds Q t) : HoldsNext Q (execFenceRelease k t) := by
  dsimp only [execFenceRelease]
  split
  · exact .next (.ite h.releaseFence h)
  · exact .next h

/-! ### Deltas and snapshots -/

protected theorem Holds.replayMem {u off bs} (h : Holds (Guarded g) t) : Holds (Guarded g) (replayMem t u off bs) := by
  dsimp only [replayMem]
  split
  · exact .ite h.memWrite h.writeAt
  · exact .ite h.memWrite h

protected theorem Holds.replayReg {u off w} (h : Holds (Guarded g) t) : Holds (Guarded g) (replayReg t u off w) :=
  .ite h <| .ite h.memWrite h.writeReg

protected theorem Holds.applyBuffer {c b st attempts age ram} (h : Holds Q t) :
    Holds Q (applyBuffer t c b st attempts age ram) :=
  .ite ((h.memWrite.setBufState.setF.unless (·.setFlag)).setBitF.setBusCh) ((h.memWrite.setBufState.setF.unless
    (·.setFlag)).setBitF.setBusCh.setF)

protected theorem Holds.applyChannel {c tec recv st} (h : Holds Q t) : Holds Q (applyChannel t c tec recv st) :=
  h.setBusCh.setF.setF.setF

protected theorem Holds.applySlot {i st reason retries waitMs energy} (h : Holds Q t) :
    Holds Q (applySlot t i st reason retries waitMs energy) :=
  ((Holds.ite h h.changeSlot).setF.when (·.startTimer)).setF.setSlot

protected theorem Holds.applyMac {i bs} (h : Holds Q t) : Holds Q (applyMac t i bs) := h.memWrite.setF

protected theorem Holds.applyRecord {r} (h : Holds (Guarded g) t) : Holds (Guarded g) (applyRecord t r) := by
  cases r with
  | regWrite => exact h.replayReg
  | memWrite => exact h.replayMem
  | reqSeq => exact h.withTxn
  | mqPop => exact h.popQueue
  | mqRelease => exact h.releaseHeld
  | mqPush => exact .ite h.commitMsg h
  | txPush => exact h.pushWords.getD h
  | rxPop => exact h.fifoShift.setEngine
  | busBuffer => exact .ite h.applyBuffer h
  | busChannel => exact .ite h.applyChannel h
  | slot => exact .ite h.applySlot h
  | signal => exact h.memWrite
  | alive => exact h.setF
  | macEntry => exact h.applyMac
  | store => exact h.startStore
  | banks => exact h.setF
  | mqState => exact h.setQueue

protected theorem Holds.applyRecords {rs} (h : Holds (Guarded g) t) : Holds (Guarded g) (applyRecords t rs) :=
  h.foldl fun _ _ h => h.applyRecord

protected theorem Holds.applyDelta {cycle} (h : Holds (Guarded g) t) : Holds (Guarded g) (applyDelta t cycle) :=
  (h.withTwin (by rfl)).applyRecords.setF

protected theorem Holds.acceptDelta {seg} (h : Holds (Guarded g) t) : Holds (Guarded g) (acceptDelta t seg) :=
  .ite (h.sendTwin.setF.when (·.applyDelta.withTwin (by rfl))) h

protected theorem Holds.receiveSegment {seg} (h : Holds (Guarded g) t) : Holds (Guarded g) (receiveSegment t seg) := by
  refine .ite h (.ite ?_ (h.withTwin (by rfl)).acceptDelta)
  split
  next hr => exact (h.low_of_role (.inl hr)).lowSetRole.of_low
  next => exact h

protected theorem Holds.execDeltaSegmentReceive {seg} (h : Holds (Guarded g) t) :
    HoldsNext (Guarded g) (execDeltaSegmentReceive seg t) :=
  .next (.ite h.receiveSegment h)

protected theorem Holds.sendSegments {offset l} (h : Holds Q t) : Holds Q (sendSegments t offset l) := by
  induction l generalizing t offset with
  | nil => exact h
  | cons rs l ih => exact ih h.sendTwin

protected theorem Holds.startSnapshot (h : Holds Q t) : Holds Q (startSnapshot t) :=
  h.incF.setFlag.setFlag.sendSegments

protected theorem Holds.receiveTwinKa {role schema resync} (h : Holds (Guarded g) t) :
    Holds (Guarded g) (receiveTwinKa t role schema resync) := by
  unfold receiveTwinKa
  extract_lets _ _ _ s₁ s₂ s₃
  have h₁ : Holds (Guarded g) s₁ := h.withTwin (by rfl)
  have h₃ : Holds (Guarded g) s₃ := (h₁.startTimer.when (·.stopTimer)).checkPeerPin
  exact .ite (.ite h₃.startSnapshot (h₃.when (·.weaken.endResync))) (.ite h₃.setF (h₃.unless (·.coldTakeover)))

protected theorem Holds.execTwinKeepaliveReceive {role schema resync} (h : Holds (Guarded g) t) :
    HoldsNext (Guarded g) (execTwinKeepaliveReceive role schema resync t) :=
  .next (.ite h.receiveTwinKa h)

protected theorem Holds.markSnapshot (h : Holds (Guarded false) t) :
    Holds (Guarded false) (t.withTwin { t.twin with snapDone := true }) := fun e => by
  obtain ⟨hc, hs, hr, hp, -⟩ := h e
  exact ⟨hc, hs, hr, hp, nofun⟩

protected theorem Holds.receiveSnapshot {last recs} (h : Holds (Guarded false) t) :
    Holds (Guarded false) (receiveSnapshot t last recs) :=
  (Holds.ite h h.withTxn).setFlag.setFlag.setFlag.applyRecords.when (·.markSnapshot)

protected theorem Holds.execSnapshotSegmentReceive {_offset last recs} (h : Holds (Guarded false) t) :
    HoldsNext (Guarded false) (execSnapshotSegmentReceive _offset last recs t) :=
  .next (.ite h.receiveSnapshot h)

/-! ### The node-cycle boundary -/

protected theorem Holds.takeLength (h : Holds Q t) : Holds Q (takeLength t) := .ite h.withTime h

protected theorem Holds.openCycle (h : Holds Q t) : Holds Q (openCycle t) := h.takeLength.withTime

protected theorem Holds.loseDelta {n} (h : Holds OeLow t) : Holds OeLow (loseDelta t n) :=
  (h.withTwin (by rfl)).incF.unless (·.lowSetRole)

/-- A NotReady hub that a delta has made Active has no snapshot marked as through, and does not become Standby. -/
protected theorem Holds.takeDelta (h : Holds (Guarded g) t) : Holds (Guarded g) (takeDelta t) := by
  unfold takeDelta
  refine .ite h ?_
  split
  next hr =>
    have hl := h.low_of_role (.inl hr)
    exact .ite h (.ite h.applyDelta hl.loseDelta.of_low)
  next =>
    split
    next hr =>
      have hl := h.low_of_role (.inr hr)
      extract_lets s₁
      have h₁ : Holds (Guarded true) s₁ := .ite hl.of_low.applyDelta hl.of_low
      have hg : Holds (Guarded g) s₁ := .ite h.applyDelta h
      split
      next hd =>
        have hl₁ : Holds OeLow s₁ := Bool.eq_false_iff.2 fun e => by
          obtain ⟨-, -, -, -, hs⟩ := h₁ e
          exact Bool.noConfusion ((hs rfl).symm.trans (Bool.and_eq_true_iff.1 hd).1)
        exact hl₁.lowEndResync.lowSetRole.of_low
      next => exact hg
    next => exact h

protected theorem Holds.retuneAlpha {c} (h : Holds Q t) : Holds Q (retuneAlpha t c) :=
  .ite h <| .ite (.ite h.setF h) <| .ite (.ite h.setF h) h

protected theorem Holds.retuneAll (h : Holds Q t) : Holds Q (retuneAll t) :=
  (h.foldl fun _ _ h => h.retuneAlpha).withPlaza

protected theorem Holds.commitWord {p} (h : Holds Q t) : Holds Q (commitWord t p) := h.setWord

protected theorem Holds.afterCommit {pre l} (h : Holds (Guarded g) t) : Holds (Guarded g) (afterCommit pre t l) := by
  unfold afterCommit
  extract_lets changed s₁ s₂ s₃ s₄
  have h₁ : Holds (Guarded g) s₁ := h.foldl fun _ _ h => h.unless (·.slotEnChanged)
  have h₂ : Holds (Guarded g) s₂ := h₁.when (·.selectMaster)
  have h₃ : Holds (Guarded g) s₃ := h₂.unless (·.startTimer)
  have h₄ : Holds (Guarded g) s₄ := h₃.foldl fun _ _ h => by
    split
    · exact .ite h h.setF
    · exact h
  exact h₄.when fun h => h.foldl fun _ _ h => .ite h.setPortSt.enterCap h

protected theorem Holds.settleBuckets {l} (h : Holds Q t) : Holds Q (settleBuckets t l) :=
  (h.foldl fun _ _ h => .ite h.settleSub h).when (·.settleAdded.settleAdded)

protected theorem Holds.commitAll (h : Holds (Guarded g) t) : Holds (Guarded g) (commitAll t) :=
  (((Holds.ite h.setFlag h).settleBuckets.foldl fun _ _ h => h.commitWord).withPendCb.foldl fun _ _ h =>
    h.memWrite).withPendMem.afterCommit

protected theorem Holds.takeNodeId (h : Holds (Guarded g) t) : Holds (Guarded g) (takeNodeId t) := by
  dsimp only [takeNodeId]
  split
  · exact (h.withDev (by rfl)).unless (·.clearDupId.selectMaster)
  · exact h

protected theorem Holds.orderOne (h : Holds (Guarded g) t) : Holds (Guarded g) (orderOne t) :=
  .ite h.takeDelta.checkPeerPin.retuneAll.takeNodeId.incSat h.takeDelta.checkPeerPin.retuneAll.takeNodeId.commitAll

protected theorem Holds.orderTwo (h : Holds Q t) : Holds Q (orderTwo t) :=
  .ite h ((h.foldl fun _ _ h => .ite h.setBusCh h).setF.setF.setF.setF)

protected theorem Holds.sendDelta {cycle final tooBig recs} (h : Holds Q t) :
    Holds Q (sendDelta t cycle final tooBig recs) :=
  (h.withTwin (by rfl)).foldl fun _ _ h => h.sendTwin

protected theorem Holds.dropHandover (h : Holds (Guarded g) t) : Holds (Guarded g) (dropHandover t) :=
  .ite h <| .ite .leaveActive (h.withTwin (by rfl)).setFlag

protected theorem Holds.sendCycle (h : Holds Q t) : Holds Q (sendCycle t) :=
  .ite h (((h.setF.setF.setF.forgetChanged.withTwin (by rfl)).when (·.incF)).unless fun h => .ite h.sendDelta
    (h.withTwin (by rfl)).sendDelta)

protected theorem Holds.closeDelta (h : Holds (Guarded g) t) : Holds (Guarded g) (closeDelta t) :=
  .ite h ((Holds.ite h.incF h).dropHandover.sendCycle)

protected theorem Holds.orderFour (h : Holds (Guarded g) t) : Holds (Guarded g) (orderFour t) :=
  h.switchOver.withTwin (by rfl)

protected theorem Holds.orderSix (h : Holds Q t) : Holds Q (orderSix t) := h.cyclicTick.pollIssue.armCycleTriggers

protected theorem Holds.countHeartbeat (h : Holds Q t) : Holds Q (countHeartbeat t) :=
  h.setFlag.when (·.withTwin (by rfl))

protected theorem Holds.runBoundary {at_} (h : Holds (Guarded g) t) : Holds (Guarded g) (runBoundary t at_) :=
  h.withTime.orderOne.orderTwo.closeDelta.orderFour.shedEvaluate.countHeartbeat.continueDormant.openCycle
    |>.unwrapPorts.orderSix

protected theorem Holds.execNodeCycleBoundary (h : Holds (Guarded g) t) :
    HoldsNext (Guarded g) (execNodeCycleBoundary t) := by
  dsimp only [execNodeCycleBoundary]
  split
  · split
    · exact .next h.runBoundary
    · exact .next h
  · exact .next h

protected theorem Holds.commitFb {key mask} (h : Holds Q t) : Holds Q (commitFb t key mask) := by
  dsimp only [commitFb]
  split
  · exact h.setWord.withPendFb
  · exact h

protected theorem Holds.commitMac {p} (h : Holds Q t) : Holds Q (commitMac t p) :=
  h.commitFb.pauseMode.unless fun h => .ite h.portLinkLost h.portLinkFound

protected theorem Holds.commitPtp {p} (h : Holds Q t) : Holds Q (commitPtp t p) := h.commitFb.commitFb

protected theorem Holds.execFbCommit {unit inst} (h : Holds Q t) : HoldsNext Q (execFbCommit unit inst t) :=
  .next (.ite h.commitBus <| .ite h.commitMac <| .ite h.commitPtp h)

protected theorem Holds.execEpochDrainComplete {table} (h : Holds Q t) :
    HoldsNext Q (execEpochDrainComplete table t) :=
  .next (.ite h.setBitF h)

/-! ### Sundem -/

protected theorem Holds.answerRing {node side uid port r} (h : Holds Q t) :
    Holds Q (answerRing t node side uid port r) :=
  .ite h.addOnPort h.addFrame

protected theorem Holds.answerBus {c r} (h : Holds Q t) : Holds Q (answerBus t c r) := h.withFresh.memWrite.requestBuf

protected theorem Holds.deliver {r} (h : Holds Q t) : Holds Q (deliver t r) := by
  dsimp only [deliver]
  split
  · exact h.answerRing
  · exact h.answerBus
  · exact h.output
  · exact h.output
  · exact h.output

protected theorem Holds.answer {r} (h : Holds Q t) : Holds Q (answer t r) := .ite h.withOdw h.deliver.keepResponse

protected theorem Holds.serve {r opcode act} (h : Holds Q t) (ha : ∀ v cls, Holds Q v → Holds Q (act v cls).1) :
    Holds Q (serve t r opcode act) := by
  dsimp only [serve]
  split
  · exact h
  · exact h.withOdw
  · exact h.withOdw
  · exact h.answer
  · split
    · exact h.deliver
    · split
      next e => exact ((ha _ _ h).of_fst e).answer.takeUartRate
      next e => exact (ha _ _ h).of_fst e

protected theorem Holds.readValue {r m} (h : Holds (Guarded g) t) : Holds (Guarded g) (readValue t r m).1 := by
  dsimp only [readValue]
  split
  · exact .ite h h.withOdw
  · exact .ite h.withOdw h

protected theorem Holds.endSession {r} (h : Holds Q t) : Holds Q (endSession t r) := h.withOdw

protected theorem Holds.actRead {r cls} (h : Holds (Guarded g) t) : Holds (Guarded g) (actRead r t cls).1 := by
  dsimp only [actRead]
  split
  · exact h.endSession
  · split
    · exact h.readValue
    · exact h
    · exact h

protected theorem Holds.commitWrite {r cls ofs bs} (h : Holds (Guarded g) t) :
    Holds (Guarded g) (commitWrite t r cls ofs bs).1 := by
  dsimp only [commitWrite]
  split
  · exact h.writeMember
  · exact h
  · exact h

protected theorem Holds.writeSegment {r cls x} (h : Holds (Guarded g) t) :
    Holds (Guarded g) (writeSegment t r cls x).1 :=
  .iteFst h.endSession <| .iteFst h.withOdw h.endSession.commitWrite

protected theorem Holds.firstSegment {r cls} (h : Holds (Guarded g) t) :
    Holds (Guarded g) (firstSegment t r cls).1 := by
  dsimp only [firstSegment]
  split
  · split
    · exact h
    · exact .iteFst h h.withOdw
  · exact h.commitWrite

protected theorem Holds.actWrite {r cls} (h : Holds (Guarded g) t) : Holds (Guarded g) (actWrite r t cls).1 := by
  dsimp only [actWrite]
  split
  · exact h.endSession
  · split
    · exact h.writeSegment
    · exact h.firstSegment

protected theorem Holds.actDescribe {r cls} (h : Holds Q t) : Holds Q (actDescribe r t cls).1 := by
  dsimp only [actDescribe]
  split
  · exact h
  · exact .iteFst h h

protected theorem Holds.actStore {r _cls} (h : Holds Q t) : Holds Q (actStore r t _cls).1 := by
  dsimp only [actStore]
  exact h.startStore

protected theorem Holds.actRestore {r _cls} (h : Holds Q t) : Holds Q (actRestore r t _cls).1 := by
  dsimp only [actRestore]
  exact h.restoreStore

protected theorem Holds.actDiscover {r _cls} (h : Holds Q t) : Holds Q (actDiscover r t _cls).1 := h

protected theorem Holds.actAddr {isRead r cls} (h : Holds Q t) : Holds Q (actAddr isRead r t cls).1 :=
  .iteFst h <| .iteFst h h.withOdw.issueOrWait

protected theorem Holds.actUnknown {opcode r _cls} (h : Holds Q t) : Holds Q (actUnknown opcode r t _cls).1 := h

protected theorem Holds.execRead {r} (h : Holds (Guarded g) t) : HoldsNext (Guarded g) (execRead r t) :=
  .next (h.serve fun _ _ h => h.actRead)

protected theorem Holds.execWrite {r} (h : Holds (Guarded g) t) : HoldsNext (Guarded g) (execWrite r t) :=
  .next (h.serve fun _ _ h => h.actWrite)

protected theorem Holds.execDescribe {r} (h : Holds Q t) : HoldsNext Q (execDescribe r t) :=
  .next (h.serve fun _ _ h => h.actDescribe)

protected theorem Holds.execStore {r} (h : Holds Q t) : HoldsNext Q (execStore r t) :=
  .next (h.serve fun _ _ h => h.actStore)

protected theorem Holds.execRestore {r} (h : Holds Q t) : HoldsNext Q (execRestore r t) :=
  .next (h.serve fun _ _ h => h.actRestore)

protected theorem Holds.execDiscover {r} (h : Holds Q t) : HoldsNext Q (execDiscover r t) :=
  .next (h.serve fun _ _ h => h.actDiscover)

protected theorem Holds.execAddrRead {r} (h : Holds Q t) : HoldsNext Q (execAddrRead r t) :=
  .next (h.serve fun _ _ h => h.actAddr)

protected theorem Holds.execAddrWrite {r} (h : Holds Q t) : HoldsNext Q (execAddrWrite r t) :=
  .next (h.serve fun _ _ h => h.actAddr)

protected theorem Holds.execNodeIdWrite {r} (h : Holds (Guarded g) t) : HoldsNext (Guarded g) (execNodeIdWrite r t) :=
  .next (h.serve fun _ _ h => h.actWrite)

protected theorem Holds.execRingKeyLoad {r} (h : Holds (Guarded g) t) : HoldsNext (Guarded g) (execRingKeyLoad r t) :=
  .next (h.serve fun _ _ h => h.actWrite)

protected theorem Holds.execServiceUartRate {r} (h : Holds (Guarded g) t) :
    HoldsNext (Guarded g) (execServiceUartRate r t) :=
  .next (h.serve fun _ _ h => h.actWrite)

protected theorem Holds.execRecoveryRelay {r} (h : Holds (Guarded g) t) :
    HoldsNext (Guarded g) (execRecoveryRelay r t) :=
  .next (h.serve fun _ _ h => h.actWrite)

protected theorem Holds.execRecoveryRelayTimeout (h : Holds (Guarded g) t) :
    HoldsNext (Guarded g) (execRecoveryRelayTimeout t) :=
  .next (.ite h.closeRelay h)

protected theorem Holds.execDiscoverResponseDelay {i} (h : Holds Q t) :
    HoldsNext Q (execDiscoverResponseDelay i t) := by
  dsimp only [execDiscoverResponseDelay]
  split
  · exact .next (.ite h.withOdw.deliver.keepResponse h)
  · exact .next h

protected theorem Holds.execSessionTimeout {i} (h : Holds Q t) : HoldsNext Q (execSessionTimeout i t) := by
  dsimp only [execSessionTimeout]
  split
  · exact .next (.ite h.withOdw h)
  · exact .next h

protected theorem Holds.execKeptResponseExpiry (h : Holds Q t) : HoldsNext Q (execKeptResponseExpiry t) :=
  .next h.withOdw

protected theorem Holds.execStoreComplete (h : Holds Q t) : HoldsNext Q (execStoreComplete t) :=
  .next (.ite (.ite h.finishStore h.withOdw) h)

protected theorem Holds.execArpRequest {port senderMac senderIp targetIp} (h : Holds Q t) :
    HoldsNext Q (execArpRequest port senderMac senderIp targetIp t) :=
  .next (.ite h.output h)

protected theorem Holds.execSundemUnservedRequest {r why} (h : Holds (Guarded g) t) :
    HoldsNext (Guarded g) (execSundemUnservedRequest r why t) := by
  dsimp only [execSundemUnservedRequest]
  split
  · exact .next (.ite h (h.serve fun _ _ h => h.actUnknown))
  · exact .next (.ite h.withOdw h)
  · exact .next h
  · exact .next (.ite h.withOdw h)

/-! ### Commands that stand for one register or window write -/

protected theorem Holds.commandWrite {u off w} (h : Holds (Guarded g) t) :
    Holds (Guarded g) (commandWrite t u off w).1 := by
  dsimp only [commandWrite]
  split
  · exact h
  · split
    · exact h
    · split
      · exact h
      · split
        · exact h
        · split
          · exact h.writeReg
          · exact h.writeReg
          · exact h

protected theorem Holds.writeCommand {u off w} (h : Holds (Guarded g) t) :
    Holds (Guarded g) (writeCommand t u off w) := by
  dsimp only [writeCommand]
  exact h.commandWrite.output

protected theorem Holds.execRegisterWrite {u off w} (h : Holds (Guarded g) t) :
    HoldsNext (Guarded g) (execRegisterWrite u off w t) :=
  .next h.writeCommand

protected theorem Holds.execUnitReset {u} (h : Holds (Guarded g) t) : HoldsNext (Guarded g) (execUnitReset u t) :=
  .next h.writeCommand

protected theorem Holds.execUnitFenceSet {u} (h : Holds (Guarded g) t) : HoldsNext (Guarded g) (execUnitFenceSet u t) :=
  .next h.writeCommand

protected theorem Holds.execUnitFenceLift {u} (h : Holds (Guarded g) t) :
    HoldsNext (Guarded g) (execUnitFenceLift u t) :=
  .next h.writeCommand

protected theorem Holds.execLockUnit {u} (h : Holds (Guarded g) t) : HoldsNext (Guarded g) (execLockUnit u t) :=
  .next h.writeCommand

protected theorem Holds.execCommitHold {hold} (h : Holds (Guarded g) t) :
    HoldsNext (Guarded g) (execCommitHold hold t) :=
  .next h.writeCommand

protected theorem Holds.execCommitDiscard (h : Holds (Guarded g) t) : HoldsNext (Guarded g) (execCommitDiscard t) :=
  .next h.writeCommand

protected theorem Holds.execEpochFlipRequest {flips} (h : Holds (Guarded g) t) :
    HoldsNext (Guarded g) (execEpochFlipRequest flips t) :=
  .next h.writeCommand

protected theorem Holds.engineWrite {e off w} (h : Holds (Guarded g) t) : Holds (Guarded g) (engineWrite t e off w) :=
  .ite h.writeCommand h.output

protected theorem Holds.engineCommand {e bit} (h : Holds (Guarded g) t) : Holds (Guarded g) (engineCommand t e bit) :=
  h.engineWrite

protected theorem Holds.execEngineEnable {e} (h : Holds (Guarded g) t) : HoldsNext (Guarded g) (execEngineEnable e t) :=
  .next h.engineWrite

protected theorem Holds.execEngineDisable {e} (h : Holds (Guarded g) t) :
    HoldsNext (Guarded g) (execEngineDisable e t) :=
  .next h.engineWrite

protected theorem Holds.execHalt {e} (h : Holds (Guarded g) t) : HoldsNext (Guarded g) (execHalt e t) :=
  .next h.engineCommand

protected theorem Holds.execResume {e} (h : Holds (Guarded g) t) : HoldsNext (Guarded g) (execResume e t) :=
  .next h.engineCommand

protected theorem Holds.execRestart {e} (h : Holds (Guarded g) t) : HoldsNext (Guarded g) (execRestart e t) :=
  .next h.engineCommand

protected theorem Holds.execFlushTx {e} (h : Holds (Guarded g) t) : HoldsNext (Guarded g) (execFlushTx e t) :=
  .next h.engineCommand

protected theorem Holds.execFlushRx {e} (h : Holds (Guarded g) t) : HoldsNext (Guarded g) (execFlushRx e t) :=
  .next h.engineCommand

protected theorem Holds.execArcadeGroupRestart {n engines} (h : Holds (Guarded g) t) :
    HoldsNext (Guarded g) (execArcadeGroupRestart n engines t) :=
  .next (.ite h.writeCommand h.output)

protected theorem Holds.execProgramRowWrite {e row w} (h : Holds (Guarded g) t) :
    HoldsNext (Guarded g) (execProgramRowWrite e row w t) := by
  dsimp only [execProgramRowWrite]
  split
  · split
    · exact .next h.output
    · exact .next h.writeAt.output
  · exact .next h.output

protected theorem Holds.execEngineConfigWrite {e off w} (h : Holds (Guarded g) t) :
    HoldsNext (Guarded g) (execEngineConfigWrite e off w t) :=
  .next (.ite h.engineWrite h.output)

protected theorem Holds.execLoopBoundsWrite {e first last} (h : Holds (Guarded g) t) :
    HoldsNext (Guarded g) (execLoopBoundsWrite e first last t) :=
  .next h.engineWrite

protected theorem Holds.pinCommand {base group w} (h : Holds (Guarded g) t) :
    Holds (Guarded g) (pinCommand t base group w) :=
  .ite h.writeCommand h.output

protected theorem Holds.execPinSet {group w} (h : Holds (Guarded g) t) : HoldsNext (Guarded g) (execPinSet group w t) :=
  .next h.pinCommand

protected theorem Holds.execPinClear {group w} (h : Holds (Guarded g) t) :
    HoldsNext (Guarded g) (execPinClear group w t) :=
  .next h.pinCommand

protected theorem Holds.execPinToggle {group w} (h : Holds (Guarded g) t) :
    HoldsNext (Guarded g) (execPinToggle group w t) :=
  .next h.pinCommand

protected theorem Holds.baseCommand {base w} (h : Holds (Guarded g) t) : Holds (Guarded g) (baseCommand t base w) :=
  .ite h.writeCommand h.output

protected theorem Holds.execStep {base} (h : Holds (Guarded g) t) : HoldsNext (Guarded g) (execStep base t) :=
  .next h.baseCommand

protected theorem Holds.execArm {base} (h : Holds (Guarded g) t) : HoldsNext (Guarded g) (execArm base t) :=
  .next h.baseCommand

protected theorem Holds.execHandover (h : Holds (Guarded g) t) : HoldsNext (Guarded g) (execHandover t) :=
  .next h.writeCommand

protected theorem Holds.execResync (h : Holds (Guarded g) t) : HoldsNext (Guarded g) (execResync t) :=
  .next h.writeCommand

protected theorem Holds.execHb (h : Holds (Guarded g) t) : HoldsNext (Guarded g) (execHb t) := .next h.writeCommand

/-! ### Every command -/

protected theorem Holds.exec {i} (h : Holds (Guarded false) t) : HoldsNext (Guarded false) (exec i t) := by
  cases i with
  | powerOnReset => exact .execPowerOnReset
  | porstRelease => exact h.execPorstRelease
  | sysrstAssert => exact h.execSysrstAssert
  | sysrstRelease => exact h.execSysrstRelease
  | romBootComplete => exact h.execRomBootComplete
  | ringJoinEnable => exact h.execRingJoinEnable
  | ringReady => exact h.execRingReady
  | fullService => exact h.execFullService
  | deviceRestart => exact h.execDeviceRestart
  | dormantRequest => exact h.execDormantRequest
  | dormantEntryComplete => exact h.execDormantEntryComplete
  | dormantWake => exact h.execDormantWake
  | drainWindowEnd => exact h.execDrainWindowEnd
  | unitResetComplete => exact h.execUnitResetComplete
  | nodeCycleBoundary => exact h.execNodeCycleBoundary
  | heartbeatMissed => exact h.execHeartbeatMissed
  | boundaryWatchdog => exact h.execBoundaryWatchdog
  | fbCommit => exact h.execFbCommit
  | registerWrite => exact h.execRegisterWrite
  | rd => exact h.execRd
  | wrPosted => exact h.execWrPosted
  | wrAck => exact h.execWrAck
  | rmwSet => exact h.execRmwSet
  | rmwClr => exact h.execRmwClr
  | rmwSwap => exact h.execRmwSwap
  | fence => exact h.execFence
  | fenceRelease => exact h.execFenceRelease
  | txnIssue => exact h.execTxnIssue
  | tagGrant => exact h.execTagGrant
  | txnReqReceive => exact h.execTxnReqReceive
  | heldRequestAdmit => exact h.execHeldRequestAdmit
  | txnRspReceive => exact h.execTxnRspReceive
  | postFaultReceive => exact h.execPostFaultReceive
  | txnTimeout => exact h.execTxnTimeout
  | tagHoldoutEnd => exact h.execTagHoldoutEnd
  | i2cTransferComplete => exact h.execI2cTransferComplete
  | i2cStretchTimeout => exact h.execI2cStretchTimeout
  | mdioTransferComplete => exact h.execMdioTransferComplete
  | unitReset => exact h.execUnitReset
  | unitFenceSet => exact h.execUnitFenceSet
  | unitFenceLift => exact h.execUnitFenceLift
  | lockUnit => exact h.execLockUnit
  | commitHold => exact h.execCommitHold
  | commitDiscard => exact h.execCommitDiscard
  | epochFlipRequest => exact h.execEpochFlipRequest
  | epochDrainComplete => exact h.execEpochDrainComplete
  | ringPortEnable => exact h.execRingPortEnable
  | ringPortDisable => exact h.execRingPortDisable
  | retrain => exact h.execRetrain
  | markerReceive => exact h.execMarkerReceive
  | capabilityWordReceive => exact h.execCapabilityWordReceive
  | capTimeout => exact h.execCapTimeout
  | stepVerifyDone => exact h.execStepVerifyDone
  | stepFallback => exact h.execStepFallback
  | frCoeffRequest => exact h.execFrCoeffRequest
  | frTrainComplete => exact h.execFrTrainComplete
  | frTrainTimeout => exact h.execFrTrainTimeout
  | lossOfLock => exact h.execLossOfLock
  | relockTimeout => exact h.execRelockTimeout
  | relockDone => exact h.execRelockDone
  | laneModeChange => exact h.execLaneModeChange
  | accessLinkUp => exact h.execAccessLinkUp
  | accessLinkDown => exact h.execAccessLinkDown
  | flushDone => exact h.execFlushDone
  | holdExpiry => exact h.execHoldExpiry
  | ringFrameReceive => exact h.execRingFrameReceive
  | ringFrameAdd => exact h.execRingFrameAdd
  | announcementSend => exact h.execAnnouncementSend
  | announcementReceive => exact h.execAnnouncementReceive
  | reachTimeout => exact h.execReachTimeout
  | dupIdTimeout => exact h.execDupIdTimeout
  | keepaliveSend => exact h.execKeepaliveSend
  | keepaliveReceive => exact h.execKeepaliveReceive
  | keepaliveTick => exact h.execKeepaliveTick
  | maintenanceWrap => exact h.execMaintenanceWrap
  | wrapNoticeReceive => exact h.execWrapNoticeReceive
  | wrapHolddownExpiry => exact h.execWrapHolddownExpiry
  | healReady => exact h.execHealReady
  | heal => exact h.execHeal
  | frameAdmit => exact h.execFrameAdmit
  | egressSchedule => exact h.execEgressSchedule
  | residencyCheck => exact h.execResidencyCheck
  | accessFrameReceive => exact h.execAccessFrameReceive
  | ageingSweep => exact h.execAgeingSweep
  | learnFlush => exact h.execLearnFlush
  | pauseFrameReceive => exact h.execPauseFrameReceive
  | pauseExpiry => exact h.execPauseExpiry
  | pauseRefresh => exact h.execPauseRefresh
  | captureResume => exact h.execCaptureResume
  | junctionMessageReceive => exact h.execJunctionMessageReceive
  | listRun => exact h.execListRun
  | emissionHandover => exact h.execEmissionHandover
  | emitLateDiscard => exact h.execEmitLateDiscard
  | runLateDiscard => exact h.execRunLateDiscard
  | timedRunSkip => exact h.execTimedRunSkip
  | pushHdr => exact h.execPushHdr
  | pushData => exact h.execPushData
  | pushTimeout => exact h.execPushTimeout
  | pop => exact h.execPop
  | release => exact h.execRelease
  | abort => exact h.execAbort
  | queueFlush => exact h.execQueueFlush
  | queueEnable => exact h.execQueueEnable
  | queueDisable => exact h.execQueueDisable
  | messageProduce => exact h.execMessageProduce
  | mqArcadeDeliver => exact h.execMqArcadeDeliver
  | pollSampleComplete => exact h.execPollSampleComplete
  | busChannelEnable => exact h.execBusChannelEnable
  | busChannelDisable => exact h.execBusChannelDisable
  | busFrameReceive => exact h.execBusFrameReceive
  | txRequest => exact h.execTxRequest
  | txCancel => exact h.execTxCancel
  | busArbitration => exact h.execBusArbitration
  | txAttemptEnd => exact h.execTxAttemptEnd
  | busError => exact h.execBusError
  | recover => exact h.execRecover
  | busRecoveryComplete => exact h.execBusRecoveryComplete
  | bufferStarved => exact h.execBufferStarved
  | engineRowExecute => exact h.execEngineRowExecute
  | engineEnable => exact h.execEngineEnable
  | engineDisable => exact h.execEngineDisable
  | halt => exact h.execHalt
  | resume => exact h.execResume
  | restart => exact h.execRestart
  | arcadeGroupRestart => exact h.execArcadeGroupRestart
  | flushTx => exact h.execFlushTx
  | flushRx => exact h.execFlushRx
  | txPush => exact h.execTxPush
  | rxPop => exact h.execRxPop
  | programRowWrite => exact h.execProgramRowWrite
  | engineConfigWrite => exact h.execEngineConfigWrite
  | loopBoundsWrite => exact h.execLoopBoundsWrite
  | pinSet => exact h.execPinSet
  | pinClear => exact h.execPinClear
  | pinToggle => exact h.execPinToggle
  | step => exact h.execStep
  | arm => exact h.execArm
  | linkReportSend => exact h.execLinkReportSend
  | linkReportReceive => exact h.execLinkReportReceive
  | servoUpdate => exact h.execServoUpdate
  | upstreamReportTimeout => exact h.execUpstreamReportTimeout
  | tb1ReportSend => exact h.execTb1ReportSend
  | tb1ReportReceive => exact h.execTb1ReportReceive
  | triggerArm => exact h.execTriggerArm
  | triggerFire => exact h.execTriggerFire
  | captureEvent => exact h.execCaptureEvent
  | gcmEncrypt => exact h.execGcmEncrypt
  | gcmDecrypt => exact h.execGcmDecrypt
  | cbcEncrypt => exact h.execCbcEncrypt
  | cbcDecrypt => exact h.execCbcDecrypt
  | cfbEncrypt => exact h.execCfbEncrypt
  | cfbDecrypt => exact h.execCfbDecrypt
  | ctr => exact h.execCtr
  | cmacGenerate => exact h.execCmacGenerate
  | cmacVerify => exact h.execCmacVerify
  | unwrapRing => exact h.execUnwrapRing
  | descriptorStart => exact h.execDescriptorStart
  | pass1Complete => exact h.execPass1Complete
  | descriptorComplete => exact h.execDescriptorComplete
  | cacheFlush => exact h.execCacheFlush
  | lgenNext => exact h.execLgenNext
  | keyRegisterWrite => exact h.execKeyRegisterWrite
  | nonceReservationComplete => exact h.execNonceReservationComplete
  | entropyFail => exact h.execEntropyFail
  | twnPeerRise => exact h.execTwnPeerRise
  | twnPeerFall => exact h.execTwnPeerFall
  | peerLowQualified => exact h.execPeerLowQualified
  | twinKeepaliveSend => exact h.execTwinKeepaliveSend
  | twinKeepaliveReceive => exact h.execTwinKeepaliveReceive
  | twinLinkDown => exact h.execTwinLinkDown
  | deltaSegmentReceive => exact h.execDeltaSegmentReceive
  | deltaAckReceive => exact h.execDeltaAckReceive
  | snapshotSegmentReceive offset => exact h.execSnapshotSegmentReceive (_offset := offset)
  | departureSend => exact h.execDepartureSend
  | departureReceive => exact h.execDepartureReceive
  | handover => exact h.execHandover
  | handoverRelease => exact h.execHandoverRelease
  | resync => exact h.execResync
  | hb => exact h.execHb
  | soloWaitExpiry => exact h.execSoloWaitExpiry
  | slotEnable => exact h.execSlotEnable
  | slotDisable => exact h.execSlotDisable
  | seatDebounceDone => exact h.execSeatDebounceDone
  | seatLost => exact h.execSeatLost
  | powerUpStart => exact h.execPowerUpStart
  | prechargeComplete => exact h.execPrechargeComplete
  | prechargeTimeout => exact h.execPrechargeTimeout
  | rampEnd => exact h.execRampEnd
  | monitorTick => exact h.execMonitorTick
  | breaker => exact h.execBreaker
  | fast => exact h.execFast
  | tripResolve => exact h.execTripResolve
  | retryWaitExpiry => exact h.execRetryWaitExpiry
  | pgQualify => exact h.execPgQualify
  | retryCountReset => exact h.execRetryCountReset
  | vinStateChange => exact h.execVinStateChange
  | vinRestore => exact h.execVinRestore
  | warnedTurnOff => exact h.execWarnedTurnOff
  | budgetRestore => exact h.execBudgetRestore
  | on => exact h.execOn
  | off => exact h.execOff
  | pfailAssert => exact h.execPfailAssert
  | pfailRelease => exact h.execPfailRelease
  | vauxLow => exact h.execVauxLow
  | nvmInhibitLift => exact h.execNvmInhibitLift
  | meterSample => exact h.execMeterSample
  | faultDetect => exact h.execFaultDetect
  | errPulseEnd => exact h.execErrPulseEnd
  | faultInject => exact h.execFaultInject
  | eccInject => exact h.execEccInject
  | read => exact h.execRead
  | write => exact h.execWrite
  | describe => exact h.execDescribe
  | store => exact h.execStore
  | restore => exact h.execRestore
  | discover => exact h.execDiscover
  | discoverResponseDelay => exact h.execDiscoverResponseDelay
  | addrRead => exact h.execAddrRead
  | addrWrite => exact h.execAddrWrite
  | sessionTimeout => exact h.execSessionTimeout
  | keptResponseExpiry => exact h.execKeptResponseExpiry
  | arpRequest => exact h.execArpRequest
  | nodeIdWrite => exact h.execNodeIdWrite
  | ringKeyLoad => exact h.execRingKeyLoad
  | serviceUartRate => exact h.execServiceUartRate
  | recoveryRelay => exact h.execRecoveryRelay
  | recoveryRelayTimeout => exact h.execRecoveryRelayTimeout
  | begin => exact h.execBegin
  | close => exact h.execClose
  | activate => exact h.execActivate
  | confirm => exact h.execConfirm
  | abandon => exact h.execAbandon
  | packageWrite => exact h.execPackageWrite
  | verifyComplete => exact h.execVerifyComplete
  | activationHashDone => exact h.execActivationHashDone
  | managementRestartEnd => exact h.execManagementRestartEnd
  | badSof => exact h.execBadSof
  | bankSupplyLoss => exact h.execBankSupplyLoss
  | selfSeatChange => exact h.execSelfSeatChange
  | syncFiringLate => exact h.execSyncFiringLate
  | tb1ReportTimeout => exact h.execTb1ReportTimeout
  | storeComplete => exact h.execStoreComplete
  | busIntegrationComplete => exact h.execBusIntegrationComplete
  | sundemUnservedRequest => exact h.execSundemUnservedRequest

/-! ### Every step -/

protected theorem Holds.step (h : Holds (Guarded false) t) : HoldsNext (Guarded false) (step t) := by
  dsimp only [step]
  split
  · exact .next h.idle
  · exact h.withPending.exec

theorem outputsGated_iff (s : State) : outputsGated s ↔ Holds (Guarded false) s := by
  simp [outputsGated, Holds, Guarded, interlock, inService, acting]

end

/-- Settles O59: by `Holds.step`, which goes through the operations that every command is made of. -/
theorem stepKeepsOutputsGated : Obligations.StepKeepsOutputsGated :=
  fun s t hs e => (outputsGated_iff t).2 (((outputsGated_iff s).1 hs).step t e)

end Sys2Proof.Machine

/-! # Proofs: power-on reset, system reset and starts -/

namespace Sys2Proof.Machine

/-- Settles O60: the reset state lists no memory and holds no claim. -/
theorem resetMeetsInvariants : Obligations.ResetMeetsInvariants :=
  ⟨rfl, nofun, rfl, rfl, rfl, rfl⟩

/-! ### What a reset of the islands leaves -/

/-- Of every byte of window memory a restart leaves those of NVM alone. -/
theorem memByte_of_nvmOnly {s t : State} (h : t.mem = nvmOnly s.mem) (a : Nat) :
    memByte t a = if unitOfKey a = unitNVM then memByte s a else 0 := by
  rw [memByte, h, nvmOnly, assoc_filter a (fun k => decide (unitOfKey k = unitNVM))]
  by_cases hn : unitOfKey a = unitNVM
  · simp [hn, memByte]
  · simp [hn]

/-- No bit of LF_PENDING is set at reset. -/
theorem resetWord_lfPending (v : Variant) :
    bitsAt (resetWord v F.FLT_LOG_STAT_LF_PENDING.key).toNat F.FLT_LOG_STAT_LF_PENDING.lo
      F.FLT_LOG_STAT_LF_PENDING.width = 0 := by
  cases v <;> decide +kernel

/-- With no register listed, clearing LF_PENDING leaves every register at its reset word. -/
theorem regWord_powerOff (s : State) (k : Nat) : regWord (powerOff s) k = resetWord s.ident.variant k :=
  regWord_setF_self ((clearIslands (s.withAon State.reset.aon)).withRegs []) (f := F.FLT_LOG_STAT_LF_PENDING) (n := 0)
    (resetWord_lfPending s.ident.variant) k

/-- Settles O4: `powerOff` writes every part of the state, and lists no register and no memory but NVM. -/
theorem powerOnReset : Obligations.PowerOnReset := fun s =>
  ⟨powerOff s, rfl, rfl, rfl, rfl, regWord_powerOff s, memByte_of_nvmOnly rfl, rfl, rfl, rfl, rfl, rfl, rfl, rfl, rfl,
    rfl, rfl, rfl, rfl⟩

/-! ### System reset -/

/-- Whether a register is one of the last Fatal record, which a restart of the islands keeps (R365). -/
def inFatalRecord (k : Nat) : Bool :=
  decide ((F.FLT_LAST_FATAL_WORD 0).key ≤ k) && decide (k < (F.FLT_LAST_FATAL_WORD 8).key)

theorem inFatalRecord_iff (k : Nat) :
    inFatalRecord k = true ↔ (F.FLT_LAST_FATAL_WORD 0).key ≤ k ∧ k < (F.FLT_LAST_FATAL_WORD 8).key := by
  simp [inFatalRecord]

theorem regWord_clearIslands (s : State) {k : Nat} (hk : k ≠ F.FLT_LOG_STAT_LF_PENDING.key) :
    regWord (clearIslands s) k = if inFatalRecord k then regWord s k else resetWord s.ident.variant k := by
  refine (regWord_setF_other _ _ hk).trans ?_
  show (assoc k (s.regs.filter fun p => inFatalRecord p.1)).getD (resetWord s.ident.variant k) = _
  rw [assoc_filter]
  cases inFatalRecord k <;> rfl

theorem clearIslands_ident (s : State) : (clearIslands s).ident = s.ident := rfl

theorem clearIslands_aon (s : State) : (clearIslands s).aon = s.aon := rfl

theorem clearIslands_twin (s : State) : (clearIslands s).twin = Twin.reset := rfl

theorem flag_lfPending_clearIslands (s : State) :
    flag (clearIslands s) F.FLT_LOG_STAT_LF_PENDING = flag s F.FLT_LOG_STAT_LF_PENDING :=
  flag_setFlag_same _ _ _ (by decide) rfl

theorem saveBases_of_counting {s : State} (h : s.aon.counting = true) : saveBases s = s := if_pos h

theorem saveBases_of_idle {s : State} (h : s.aon.counting = false) :
    saveBases s = s.withAon { s.aon with
      entryAt := s.mono, counting := true, saved0 := s.tb 0, saved1 := s.tb 1, saved2 := s.tb 2, saved3 := s.tb 3 } :=
  if_neg (by simp [h])

/-- Saving the bases touches the AON island alone. -/
theorem saveBases_frame (s : State) : saveBases s = s.withAon (saveBases s).aon := by
  cases h : s.aon.counting
  · rw [saveBases_of_idle h]
    rfl
  · rw [saveBases_of_counting h]
    rfl

theorem saveBases_ident (s : State) : (saveBases s).ident = s.ident := by
  rw [saveBases_frame, State.withAon_ident]

theorem saveBases_mem (s : State) : (saveBases s).mem = s.mem := by
  rw [saveBases_frame, State.withAon_mem]

theorem saveBases_regs (s : State) : (saveBases s).regs = s.regs := by
  rw [saveBases_frame, State.withAon_regs]

theorem saveBases_time (s : State) : (saveBases s).time = s.time := by
  rw [saveBases_frame, State.withAon_time]

theorem regWord_saveBases (s : State) (k : Nat) : regWord (saveBases s) k = regWord s k :=
  regWord_congr (saveBases_regs s) (congrArg Ident.variant (saveBases_ident s)) k

theorem saveBases_counts (s : State) : (saveBases s).aon.counting = true := by
  cases h : s.aon.counting
  · rw [saveBases_of_idle h]
    rfl
  · rw [saveBases_of_counting h, h]

theorem exec_sysrstAssert {s : State} (hoff : s.dev.state ≠ .off) (hdead : s.dev.state ≠ .dead) :
    exec .sysrstAssert s = .next ((clearIslands (saveBases s)).withDev
      { (clearIslands (saveBases s)).dev with state := s.dev.state, sysrstLow := true }) :=
  congrArg Host.Outcome.next (if_neg (not_or.2 ⟨hdead, hoff⟩))

/-- Settles O5, by what saving the bases and clearing the islands each keep. -/
theorem systemReset : Obligations.SystemReset := by
  refine ⟨fun s hoff hdead => ⟨_, exec_sysrstAssert hoff hdead, rfl, rfl, rfl, ?words, ?pending, ?nvm, ?ident, ?bases,
    saveBases_counts s, fun h => ?kept, fun h => ?saved⟩, fun s h => congrArg Host.Outcome.next (if_pos h)⟩
  case words =>
    intro k
    by_cases hk : k = F.FLT_LOG_STAT_LF_PENDING.key
    · subst hk
      rw [if_neg (by decide), if_pos rfl]
    · rw [if_neg hk]
      refine (regWord_clearIslands (saveBases s) hk).trans ?_
      rw [saveBases_ident, regWord_saveBases]
      simp only [inFatalRecord_iff]
  case pending =>
    refine (flag_lfPending_clearIslands (saveBases s)).trans ?_
    rw [flag, getF_congr (regWord_saveBases s _), flag]
  case nvm =>
    intro a ha
    refine (memByte_of_nvmOnly (s := saveBases s) rfl a).trans ?_
    rw [if_pos ha, memByte, saveBases_mem, memByte]
  case ident => exact saveBases_ident s
  case bases =>
    show (saveBases s).time.bases = _
    rw [saveBases_time]
  case kept =>
    show (saveBases s).aon = _
    rw [saveBases_of_counting h]
  case saved =>
    show (saveBases s).aon.saved0 = _ ∧ (saveBases s).aon.saved1 = _ ∧ (saveBases s).aon.saved2 = _
      ∧ (saveBases s).aon.saved3 = _
    rw [saveBases_of_idle h]
    exact ⟨rfl, rfl, rfl, rfl⟩

/-! ### Starts -/

theorem beginStarting_frame (s : State) : beginStarting s
    = (s.withDev { s.dev with state := .starting, stage := .rom }).withTimers (beginStarting s).timers := by
  unfold beginStarting startPeerFilter
  split <;> rfl

theorem beginStarting_dev (s : State) : (beginStarting s).dev = { s.dev with state := .starting, stage := .rom } :=
  congrArg State.dev (beginStarting_frame s)

theorem beginStarting_ident (s : State) : (beginStarting s).ident = s.ident := by
  rw [beginStarting_frame]
  rfl

theorem beginStarting_mem (s : State) : (beginStarting s).mem = s.mem := by
  rw [beginStarting_frame]
  rfl

theorem beginStarting_aon (s : State) : (beginStarting s).aon = s.aon := by
  rw [beginStarting_frame]
  rfl

theorem beginStarting_twin (s : State) : (beginStarting s).twin = s.twin := by
  rw [beginStarting_frame]
  rfl

/-! ### The bank supplies -/

/-- What one element of a list brings about and no other undoes holds after the whole list. -/
theorem foldl_holds {α β : Type} {P : β → Prop} {f : β → α → β} {x : α} (hset : ∀ t, P (f t x))
    (hkeep : ∀ t y, P t → P (f t y)) {l : List α} {t : β} (h : x ∈ l ∨ P t) : P (l.foldl f t) := by
  induction l generalizing t with
  | nil => exact h.resolve_left (by simp)
  | cons y l ih =>
    refine ih ?_
    rcases h with h | h
    · rcases List.mem_cons.1 h with rfl | h
      · exact .inr (hset t)
      · exact .inl h
    · exact .inr (hkeep t y h)

/-- The two flags of one bank written. -/
def writeBank (x y : Nat → Bool) (t : State) (b : Nat) : State :=
  setFlag (setFlag t (F.PIN_BANK_STAT_PRESENT b) (x b)) (F.PIN_BANK_STAT_V33 b) (y b)

/-- Flags of banks are registers. -/
theorem writeBanks_frame (x y : Nat → Bool) (l : List Nat) (s : State) :
    l.foldl (writeBank x y) s = s.withRegs (l.foldl (writeBank x y) s).regs := by
  induction l generalizing s with
  | nil => rfl
  | cons b l ih =>
    rw [List.foldl_cons, ih]
    rfl

theorem detectBanks_eq (s : State) (present v33 : BitVec 6) :
    detectBanks s present v33 = (upTo 6).foldl (writeBank present.getLsbD v33.getLsbD) s := rfl

theorem detectBanks_frame (s : State) (present v33 : BitVec 6) :
    detectBanks s present v33 = s.withRegs (detectBanks s present v33).regs :=
  writeBanks_frame _ _ _ s

theorem sameBanks_frame (pre s : State) : sameBanks pre s = s.withRegs (sameBanks pre s).regs :=
  writeBanks_frame (fun b => flag pre (F.PIN_BANK_STAT_PRESENT b)) (fun b => flag pre (F.PIN_BANK_STAT_V33 b)) _ s

/-- The two flags of bank `b` tell what was detected. -/
def bankShown (x y : Nat → Bool) (b : Nat) (t : State) : Prop :=
  flag t (F.PIN_BANK_STAT_PRESENT b) = x b ∧ flag t (F.PIN_BANK_STAT_V33 b) = y b

theorem flag_setFlag_other (s : State) {f g : Fld} (b : Bool) (h : f.lo + f.width ≤ 32)
    (hd : g.key ≠ f.key ∨ g.lo + g.width ≤ f.lo ∨ f.lo + f.width ≤ g.lo) : flag (setFlag s f b) g = flag s g := by
  rw [flag, setFlag, getF_setF_other s f g _ h hd, flag]

theorem present_inWord (b : Nat) : (F.PIN_BANK_STAT_PRESENT b).lo + (F.PIN_BANK_STAT_PRESENT b).width ≤ 32 :=
  show 0 + 1 ≤ 32 by decide

theorem v33_inWord (b : Nat) : (F.PIN_BANK_STAT_V33 b).lo + (F.PIN_BANK_STAT_V33 b).width ≤ 32 :=
  show 1 + 1 ≤ 32 by decide

theorem bankShown_writeBank_same (x y : Nat → Bool) (b : Nat) (t : State) : bankShown x y b (writeBank x y t b) :=
  ⟨(flag_setFlag_other _ _ (v33_inWord b) (.inr (.inl (show 0 + 1 ≤ 1 by decide)))).trans
    (flag_setFlag_same _ _ _ (present_inWord b) rfl), flag_setFlag_same _ _ _ (v33_inWord b) rfl⟩

theorem bankShown_writeBank {x y : Nat → Bool} {b : Nat} {t : State} (h : bankShown x y b t) (c : Nat) :
    bankShown x y b (writeBank x y t c) := by
  by_cases hc : b = c
  · subst hc
    exact bankShown_writeBank_same x y b t
  · have hk : 0xE00000000 + 0x4 * b ≠ 0xE00000000 + 0x4 * c := by omega
    have hkeep {g : Fld} (hg : g.key = 0xE00000000 + 0x4 * b) : flag (writeBank x y t c) g = flag t g :=
      (flag_setFlag_other _ _ (v33_inWord c) (.inl (hg ▸ hk))).trans
        (flag_setFlag_other _ _ (present_inWord c) (.inl (hg ▸ hk)))
    obtain ⟨hp, hv⟩ := h
    exact ⟨(hkeep rfl).trans hp, (hkeep rfl).trans hv⟩

theorem bankShown_writeBanks {x y : Nat → Bool} {b : Nat} {l : List Nat} {t : State}
    (h : b ∈ l ∨ bankShown x y b t) : bankShown x y b (l.foldl (writeBank x y) t) :=
  foldl_holds (bankShown_writeBank_same x y b) (fun _ c ht => bankShown_writeBank ht c) h

/-- Detection shows every bank. -/
theorem bankShown_detectBanks (s : State) (present v33 : BitVec 6) {b : Nat} (hb : b < 6) :
    bankShown present.getLsbD v33.getLsbD b (detectBanks s present v33) := by
  rw [detectBanks_eq]
  exact bankShown_writeBanks (.inl (List.mem_range.2 hb))

/-! ### The starts by command -/

/-- A start whose ROM step 1 ends with `ok`: Starting with the banks detected, or Dead. -/
def startOrDead (ok : Bool) (present v33 : BitVec 6) (s : State) : State :=
  if ok then detectBanks (beginStarting s) present v33 else enterDead (beginStarting s)

section
variable (ok : Bool) (present v33 : BitVec 6) (s : State)

theorem startOrDead_true : startOrDead true present v33 s = detectBanks (beginStarting s) present v33 := rfl

theorem startOrDead_false : startOrDead false present v33 s = enterDead (beginStarting s) := rfl

theorem startOrDead_dev : (startOrDead ok present v33 s).dev
    = { s.dev with state := if ok then .starting else .dead, stage := if ok then .rom else .none } := by
  cases ok
  · show { (beginStarting s).dev with state := .dead, stage := .none } = _
    rw [beginStarting_dev]
    rfl
  · rw [startOrDead_true, detectBanks_frame, State.withRegs_dev, beginStarting_dev]
    rfl

theorem startOrDead_ident : (startOrDead ok present v33 s).ident = s.ident := by
  cases ok
  · rw [startOrDead_false, enterDead, State.withDev_ident, stopTimer, State.withTimers_ident, beginStarting_ident]
  · rw [startOrDead_true, detectBanks_frame, State.withRegs_ident, beginStarting_ident]

theorem startOrDead_mem : (startOrDead ok present v33 s).mem = s.mem := by
  cases ok
  · rw [startOrDead_false, enterDead, State.withDev_mem, stopTimer, State.withTimers_mem, beginStarting_mem]
  · rw [startOrDead_true, detectBanks_frame, State.withRegs_mem, beginStarting_mem]

end

theorem exec_porstRelease {s : State} (hoff : s.dev.state = .off) (hhigh : s.dev.sysrstLow = false)
    (ok side tm : Bool) (present v33 : BitVec 6) :
    exec (.porstRelease ok side tm present v33) s
      = .next (startOrDead ok present v33 (s.withDev { s.dev with side := side, testmode := tm })) :=
  congrArg Host.Outcome.next ((if_pos hoff).trans (if_neg (by simp [hhigh])))

theorem exec_porstRelease_held {s : State} (hoff : s.dev.state = .off) (hlow : s.dev.sysrstLow = true)
    (ok side tm : Bool) (present v33 : BitVec 6) :
    exec (.porstRelease ok side tm present v33) s
      = .next (s.withDev { s.dev with side := side, testmode := tm, state := .starting, stage := .none }) :=
  congrArg Host.Outcome.next ((if_pos hoff).trans (if_pos hlow))

theorem exec_sysrstRelease {s : State} (hlow : s.dev.sysrstLow = true) (hdead : s.dev.state ≠ .dead)
    (hoff : s.dev.state ≠ .off) (ok : Bool) (present v33 : BitVec 6) :
    exec (.sysrstRelease ok present v33) s
      = .next (startOrDead ok present v33 (lowerClaim (s.withDev { s.dev with sysrstLow := false }))) :=
  congrArg Host.Outcome.next ((if_pos hlow).trans (if_neg (not_or.2 ⟨hdead, hoff⟩)))

theorem exec_sysrstRelease_noted {s : State} (hlow : s.dev.sysrstLow = true)
    (hst : s.dev.state = .dead ∨ s.dev.state = .off) (ok : Bool) (present v33 : BitVec 6) :
    exec (.sysrstRelease ok present v33) s = .next (s.withDev { s.dev with sysrstLow := false }) :=
  congrArg Host.Outcome.next ((if_pos hlow).trans (if_pos hst))

/-! ### Restarts that no pin brings -/

theorem restartKeepingBanks_frame (s : State) : restartKeepingBanks s
    = (beginStarting (clearIslands (saveBases s))).withRegs (restartKeepingBanks s).regs :=
  sameBanks_frame s (systemRestart s)

theorem restartKeepingBanks_dev (s : State) :
    (restartKeepingBanks s).dev = { (clearIslands (saveBases s)).dev with state := .starting, stage := .rom } := by
  rw [restartKeepingBanks_frame, State.withRegs_dev, beginStarting_dev]

theorem restartKeepingBanks_ident (s : State) : (restartKeepingBanks s).ident = s.ident := by
  rw [restartKeepingBanks_frame, State.withRegs_ident, beginStarting_ident, clearIslands_ident, saveBases_ident]

theorem restartKeepingBanks_twin (s : State) : (restartKeepingBanks s).twin = Twin.reset := by
  rw [restartKeepingBanks_frame, State.withRegs_twin, beginStarting_twin, clearIslands_twin]

theorem saveBases_cause (s : State) : (saveBases s).aon.cause = s.aon.cause := by
  unfold saveBases
  split <;> rfl

theorem restartKeepingBanks_cause (s : State) : (restartKeepingBanks s).aon.cause = s.aon.cause := by
  rw [restartKeepingBanks_frame, State.withRegs_aon, beginStarting_aon, clearIslands_aon, saveBases_cause]

/-- The AON island with the cause of a wake. -/
def wokenBy (s : State) (changed : BitVec 8) (low : Bool) : State :=
  s.withAon { s.aon with cause := let hit := changed &&& (s.aon.mask ||| 0x10); if low then hit ||| 0x10 else hit }

theorem exec_dormantWake {s : State} {changed : BitVec 8} {low : Bool} (hst : s.dev.state = .dormant)
    (hhit : changed &&& (s.aon.mask ||| 0x10) ≠ 0 ∨ low = true) :
    exec (.dormantWake changed low) s = .next (if s.dev.sysrstLow then wokenBy s changed low
      else restartKeepingBanks (wokenBy s changed low)) :=
  congrArg Host.Outcome.next (if_pos ⟨hst, hhit⟩)

/-- Settles O6: each of the four is one of the two starts above, whose frames give the rest. -/
theorem startsBegin : Obligations.StartsBegin := by
  refine ⟨?porst, fun s ok side tm present v33 hoff hlow => exec_porstRelease_held hoff hlow ok side tm present v33,
    ?sysrst, fun s ok present v33 hlow hst => exec_sysrstRelease_noted hlow hst ok present v33, ?restart, ?wake⟩
  case porst =>
    intro s ok side tm present v33 hoff hhigh
    refine ⟨_, exec_porstRelease hoff hhigh ok side tm present v33, ?state, ?side, ?testmode, startOrDead_ident _ _ _ _,
      startOrDead_mem _ _ _ _, fun h => ⟨?stage, fun b hb => ?banks⟩⟩
    case banks =>
      subst h
      rw [startOrDead_true]
      exact bankShown_detectBanks _ present v33 hb
    all_goals rw [startOrDead_dev]
    case stage => exact if_pos h
    all_goals rfl
  case sysrst =>
    intro s ok present v33 hlow hdead hoff
    refine ⟨_, exec_sysrstRelease hlow hdead hoff ok present v33, ?enters, fun h => ?romRuns, ?high, ?sideKept,
      ?testmodeKept, startOrDead_ident _ _ _ _, startOrDead_mem _ _ _ _⟩
    all_goals rw [startOrDead_dev]
    case romRuns => exact if_pos h
    all_goals rfl
  case restart =>
    intro s hcmd
    refine ⟨_, congrArg Host.Outcome.next (if_pos hcmd), ?_, ?_, restartKeepingBanks_ident s,
      restartKeepingBanks_twin s⟩
    all_goals rw [restartKeepingBanks_dev]
  case wake =>
    intro s changed low hst hhit
    refine ⟨_, exec_dormantWake hst hhit, ?ident, ?cause, fun h => ?starts, fun h => ?waits⟩
    case ident =>
      split
      · rfl
      · exact restartKeepingBanks_ident _
    case cause =>
      split
      · rfl
      · exact restartKeepingBanks_cause _
    case starts =>
      rw [if_neg (by simp [h]), restartKeepingBanks_dev]
      exact ⟨rfl, rfl⟩
    case waits =>
      rw [if_pos h]
      exact ⟨rfl, rfl, rfl⟩

end Sys2Proof.Machine

/-! # Proofs: what stands around the units while they are fenced, drained and reset -/

namespace Sys2Proof.Machine

/-- From `s` to `t`, operations inside the units leave what stands around them: the die, the device state, the AON
island, the accepted device command, and the words of SYS below 0x118, which say what units are in reset or fenced
(R16). -/
structure Around (s t : State) : Prop where
  ident : t.ident = s.ident
  dev : t.dev = s.dev
  aon : t.aon = s.aon
  cmd : t.odw.pendingCmd = s.odw.pendingCmd
  word : ∀ k < 0x118, regWord t k = regWord s k

theorem Around.far {a n : Nat} (h : 0x118 ≤ a) : 0x118 ≤ a + n := Nat.le_add_right_of_le h

section
variable {s t u : State} {α β : Type}
/-! ### Choices, folds and answers -/

protected theorem Around.refl (s : State) : Around s s := ⟨rfl, rfl, rfl, rfl, fun _ _ => rfl⟩

protected theorem Around.ite {c : Prop} {_ : Decidable c} {a b : State} (ha : Around s a) (hb : Around s b) :
    Around s (if c then a else b) := by
  split
  · exact ha
  · exact hb

protected theorem Around.when {c : Prop} {_ : Decidable c} {a : State} (h : Around s t) (ha : Around s t → Around s a) :
    Around s (if c then a else t) := .ite (ha h) h

protected theorem Around.unless {c : Prop} {_ : Decidable c} {b : State} (h : Around s t)
    (hb : Around s t → Around s b) : Around s (if c then t else b) := .ite h (hb h)

protected theorem Around.iteSnd {c : Prop} {_ : Decidable c} {a b : β × State} (ha : Around s a.2) (hb : Around s b.2) :
    Around s (if c then a else b).2 := by
  split
  · exact ha
  · exact hb

protected theorem Around.of_snd {p : β × State} {b : β} (h : Around s p.2) (e : p = (b, u)) : Around s u := by
  subst e
  exact h

protected theorem Around.foldl {f : State → α → State} {l : List α} (h : Around s t)
    (hf : ∀ v x, Around s v → Around s (f v x)) : Around s (l.foldl f t) := by
  induction l generalizing t with
  | nil => exact h
  | cons x l ih => exact ih (hf t x h)

/-! ### Updates of one part of the state -/

protected theorem Around.withFresh {x} (h : Around s t) : Around s (t.withFresh x) :=
  ⟨h.ident, h.dev, h.aon, h.cmd, h.word⟩

protected theorem Around.withTimers {x} (h : Around s t) : Around s (t.withTimers x) :=
  ⟨h.ident, h.dev, h.aon, h.cmd, h.word⟩

protected theorem Around.withOuts {x} (h : Around s t) : Around s (t.withOuts x) :=
  ⟨h.ident, h.dev, h.aon, h.cmd, h.word⟩

protected theorem Around.withTime {x} (h : Around s t) : Around s (t.withTime x) :=
  ⟨h.ident, h.dev, h.aon, h.cmd, h.word⟩

protected theorem Around.withRing {x} (h : Around s t) : Around s (t.withRing x) :=
  ⟨h.ident, h.dev, h.aon, h.cmd, h.word⟩

protected theorem Around.withPlaza {x} (h : Around s t) : Around s (t.withPlaza x) :=
  ⟨h.ident, h.dev, h.aon, h.cmd, h.word⟩

protected theorem Around.withJct {x} (h : Around s t) : Around s (t.withJct x) := ⟨h.ident, h.dev, h.aon, h.cmd, h.word⟩

protected theorem Around.withQueues {x} (h : Around s t) : Around s (t.withQueues x) :=
  ⟨h.ident, h.dev, h.aon, h.cmd, h.word⟩

protected theorem Around.withEngines {x} (h : Around s t) : Around s (t.withEngines x) :=
  ⟨h.ident, h.dev, h.aon, h.cmd, h.word⟩

protected theorem Around.withTxn {x} (h : Around s t) : Around s (t.withTxn x) := ⟨h.ident, h.dev, h.aon, h.cmd, h.word⟩

protected theorem Around.withDrains {x} (h : Around s t) : Around s (t.withDrains x) :=
  ⟨h.ident, h.dev, h.aon, h.cmd, h.word⟩

protected theorem Around.withCip {x} (h : Around s t) : Around s (t.withCip x) := ⟨h.ident, h.dev, h.aon, h.cmd, h.word⟩

protected theorem Around.withTwin {x} (h : Around s t) : Around s (t.withTwin x) :=
  ⟨h.ident, h.dev, h.aon, h.cmd, h.word⟩

protected theorem Around.withPower {x} (h : Around s t) : Around s (t.withPower x) :=
  ⟨h.ident, h.dev, h.aon, h.cmd, h.word⟩

protected theorem Around.withFlt {x} (h : Around s t) : Around s (t.withFlt x) := ⟨h.ident, h.dev, h.aon, h.cmd, h.word⟩

protected theorem Around.withOdw {x} (h : Around s t) (e : x.pendingCmd = t.odw.pendingCmd) : Around s (t.withOdw x) :=
  ⟨h.ident, h.dev, h.aon, e.trans h.cmd, h.word⟩

/-! ### Shared operations -/

protected theorem Around.setWord {key w} (h : Around s t) (hk : 0x118 ≤ key) : Around s (setWord t key w) :=
  ⟨h.ident, h.dev, h.aon, h.cmd, fun k hlt => (regWord_setWord_other t w (by omega)).trans (h.word k hlt)⟩

protected theorem Around.setF {f n} (h : Around s t) (hf : 0x118 ≤ f.key) : Around s (setF t f n) := h.setWord hf

protected theorem Around.setFlag {f b} (h : Around s t) (hf : 0x118 ≤ f.key) : Around s (setFlag t f b) := h.setF hf

protected theorem Around.addF {f k} (h : Around s t) (hf : 0x118 ≤ f.key) : Around s (addF t f k) := h.setF hf

protected theorem Around.incF {f} (h : Around s t) (hf : 0x118 ≤ f.key) : Around s (incF t f) := h.addF hf

protected theorem Around.setBitF {f i b} (h : Around s t) (hf : 0x118 ≤ f.key) : Around s (setBitF t f i b) := h.setF hf

/-! The same for a field of one of several instances of a register. -/

protected theorem Around.setFAt {a m lo w n} (h : Around s t) (ha : 0x118 ≤ a) : Around s (setF t ⟨a + m, lo, w⟩ n) :=
  h.setF (far ha)

protected theorem Around.setFlagAt {a m lo w b} (h : Around s t) (ha : 0x118 ≤ a) :
    Around s (setFlag t ⟨a + m, lo, w⟩ b) :=
  h.setFAt ha

protected theorem Around.addFAt {a m lo w k} (h : Around s t) (ha : 0x118 ≤ a) : Around s (addF t ⟨a + m, lo, w⟩ k) :=
  h.setFAt ha

protected theorem Around.incFAt {a m lo w} (h : Around s t) (ha : 0x118 ≤ a) : Around s (incF t ⟨a + m, lo, w⟩) :=
  h.addFAt ha

protected theorem Around.setBitFAt {a m lo w i b} (h : Around s t) (ha : 0x118 ≤ a) :
    Around s (setBitF t ⟨a + m, lo, w⟩ i b) :=
  h.setFAt ha

protected theorem Around.memWrite {a bs} (h : Around s t) : Around s (memWrite t a bs) :=
  ⟨h.ident, h.dev, h.aon, h.cmd, h.word⟩

protected theorem Around.startTimer {id ticks} (h : Around s t) : Around s (startTimer t id ticks) := h.withTimers

protected theorem Around.stopTimer {id} (h : Around s t) : Around s (stopTimer t id) := h.withTimers

protected theorem Around.output {e} (h : Around s t) : Around s (output t e) := h.withOuts

protected theorem Around.setPortSt {n p} (h : Around s t) : Around s (setPortSt t n p) := by
  dsimp only [setPortSt]
  split <;> exact h.withRing

protected theorem Around.setQueue {n q} (h : Around s t) : Around s (setQueue t n q) := h.withQueues

protected theorem Around.setEngine {e x} (h : Around s t) : Around s (setEngine t e x) := h.withEngines

protected theorem Around.setSlot {n x} (h : Around s t) : Around s (setSlot t n x) := h.withPower

/-! ### Message queues -/

protected theorem Around.commitMsg {n prio producer bytes} (h : Around s t) :
    Around s (commitMsg t n prio producer bytes) :=
  h.setQueue.withFlt

protected theorem Around.produceCounted {n producer prio bytes} (h : Around s t) :
    Around s (produceCounted t n producer prio bytes) :=
  .ite h.commitMsg (h.incFAt (by decide))

protected theorem Around.rewindPush {n} (h : Around s t) : Around s (rewindPush t n) := by
  dsimp only [rewindPush]
  split
  · exact (h.setQueue.incF (by decide)).stopTimer
  · exact h

protected theorem Around.rewindAll (h : Around s t) : Around s (rewindAll t) := h.foldl fun _ _ h => h.rewindPush

/-! ### Fault records -/

protected theorem Around.writeEventLog {record} (h : Around s t) : Around s (writeEventLog t record) :=
  h.memWrite.withFlt

protected theorem Around.eventLog {record} (h : Around s t) : Around s (eventLog t record) := .ite h.writeEventLog h

protected theorem Around.errPulse {cls} (h : Around s t) : Around s (errPulse t cls) :=
  .ite (h.withFlt.startTimer.when (·.setFlag (by decide))) h

protected theorem Around.countFault {cls unit} (h : Around s t) : Around s (countFault t cls unit) :=
  (((h.incF (by decide)).incFAt (by decide)).incFAt (by decide))

protected theorem Around.storeRecord {cls record} (h : Around s t) : Around s (storeRecord t cls record) :=
  (h.memWrite.setF (by decide)).when (·.produceCounted)

protected theorem Around.logFault {code cls reaction unit info0 info1} (h : Around s t) :
    Around s (logFault t code cls reaction unit info0 info1) :=
  (Around.ite (h.countFault.incF (by decide)) ((h.countFault.storeRecord.when (·.withFlt)).when (·.eventLog))).errPulse

protected theorem Around.recordFault {code unit info0 info1} (h : Around s t) :
    Around s (recordFault t code unit info0 info1) := by
  dsimp only [recordFault]
  split
  · exact h.logFault
  · exact h

/-! ### Time bases -/

protected theorem Around.setTb0State {st} (h : Around s t) : Around s (setTb0State t st) :=
  (((Around.ite h.withTime h).setF (by decide)).setFlag (by decide))

protected theorem Around.enterHoldover (h : Around s t) : Around s (enterHoldover t) :=
  (Around.ite (h.setF (by decide)) h).setTb0State

/-! ### Plaza -/

protected theorem Around.setRefs {q l} (h : Around s t) : Around s (setRefs t q l) := h.withPlaza

protected theorem Around.writeCells {cs bytes} (h : Around s t) : Around s (writeCells t cs bytes) := by
  induction cs generalizing t bytes with
  | nil => exact h
  | cons c cs ih => exact ih h.memWrite

protected theorem Around.writeHeader {f} (h : Around s t) : Around s (writeHeader t f) := by
  dsimp only [writeHeader]
  split
  · exact h
  · exact .ite h h.memWrite

protected theorem Around.dropAt {q cls reason} (h : Around s t) : Around s (dropAt t q cls reason) :=
  (((h.incFAt (by decide)).incFAt (by decide)).setFAt (by decide)).when (·.withPlaza)

protected theorem Around.markFrame {q fid} (h : Around s t) : Around s (markFrame t q fid) :=
  ((h.incF (by decide)).incFAt (by decide)).withPlaza

protected theorem Around.pushRef {t' fid n} (h : Around s t) : Around s (pushRef t t' fid n) := h.setRefs

protected theorem Around.storeFrame {f t'} (h : Around s t) : Around s (storeFrame t f t') :=
  h.withFresh.withPlaza.pushRef.writeCells

protected theorem Around.offerQueue {f t'} (h : Around s t) : Around s (offerQueue t f t') := by
  dsimp only [offerQueue]
  split
  · exact h.dropAt
  · split
    · split
      · exact h.pushRef.markFrame
      · exact h.storeFrame.markFrame
    · split
      · exact h.pushRef
      · exact h.storeFrame

protected theorem Around.captureRecord {f q depth cause reason} (h : Around s t) :
    Around s (captureRecord t f q depth cause reason) :=
  .ite ((h.when (·.setFlag (by decide))).incF (by decide)) <|
    .ite (h.incF (by decide)) ((h.memWrite.setF (by decide)).incF (by decide)).withPlaza

protected theorem Around.sampleStep {f} (h : Around s t) : Around s (sampleStep t f).2 :=
  .iteSnd (.iteSnd h.withPlaza h.withPlaza) h

protected theorem Around.markSeen {fid} (h : Around s t) : Around s (markSeen t fid) := h.withPlaza

protected theorem Around.captureFrame {f ds} (h : Around s t) : Around s (captureFrame t f ds) := by
  dsimp only [captureFrame]
  split
  · split
    · exact (h.sampleStep.when (·.setF (by decide))).captureRecord.markSeen
    · split
      · exact (h.sampleStep.setF (by decide)).captureRecord.markSeen
      · split
        · exact h.sampleStep.captureRecord.markSeen
        · exact h.sampleStep
  · exact h

protected theorem Around.captureLoss {f q reason} (h : Around s t) : Around s (captureLoss t f q reason) :=
  .ite h.captureRecord.markSeen h

protected theorem Around.sendPause {p pfc prios quanta} (h : Around s t) : Around s (sendPause t p pfc prios quanta) :=
  h.output.incFAt (by decide)

protected theorem Around.pauseTotal {p} (h : Around s t) : Around s (pauseTotal t p) :=
  .ite (h.setFAt (by decide)).sendPause.startTimer <| .ite (h.setFAt (by decide)).sendPause.stopTimer h

protected theorem Around.pauseClass {p c} (h : Around s t) : Around s (pauseClass t p c) :=
  .ite (h.setBitFAt (by decide)).sendPause.startTimer <| .ite (h.setBitFAt (by decide)).sendPause.stopTimer h

protected theorem Around.stopPauses {p} (h : Around s t) : Around s (stopPauses t p) :=
  (h.setFAt (by decide)).foldl fun _ _ h => h.stopTimer

protected theorem Around.pauseCheck {p} (h : Around s t) : Around s (pauseCheck t p) :=
  .ite h <| .ite (h.foldl fun _ _ h => h.pauseClass) <| .ite h.pauseTotal <| .ite h h.stopPauses

protected theorem Around.storeAndOffer {f targets} (h : Around s t) : Around s (storeAndOffer t f targets) := by
  dsimp only [storeAndOffer]
  split
  · exact (h.withPlaza.foldl fun _ _ h => h.offerQueue).writeHeader.captureFrame.pauseCheck
  · exact (h.withPlaza.foldl fun _ _ h => h.offerQueue).captureFrame.pauseCheck

protected theorem Around.enqueueFrame {f targets} (h : Around s t) : Around s (enqueueFrame t f targets) :=
  .ite h.storeAndOffer h

protected theorem Around.removeRef {q r} (h : Around s t) : Around s (removeRef t q r) := by
  dsimp only [removeRef]
  split
  · exact h.setRefs
  · exact .ite h.setRefs.withPlaza.pauseCheck h.setRefs.writeHeader

protected theorem Around.discardRef {q r reason} (h : Around s t) : Around s (discardRef t q r reason) := by
  dsimp only [discardRef]
  split
  · exact h.captureLoss.removeRef.dropAt
  · exact h.removeRef.dropAt

protected theorem Around.discardQueue {q reason} (h : Around s t) : Around s (discardQueue t q reason) :=
  h.foldl fun _ _ h => h.discardRef

/-! ### Claim, outputs and role of the twin -/

protected theorem Around.lowerClaim (h : Around s t) : Around s (lowerClaim t) := h.withTwin

protected theorem Around.setRole {r} (h : Around s t) : Around s (setRole t r) := h.withTwin

protected theorem Around.leaveActive {r} (h : Around s t) : Around s (leaveActive t r) :=
  (h.lowerClaim.setRole.setFlag (by decide)).withTxn.withTwin

protected theorem Around.releaseClaim (h : Around s t) : Around s (releaseClaim t) :=
  .ite h <| .ite h.withTwin h.leaveActive

protected theorem Around.endResync (h : Around s t) : Around s (endResync t) :=
  ((h.setFlag (by decide)).setFlag (by decide)).withTwin

protected theorem Around.twinLinkLost (h : Around s t) : Around s (twinLinkLost t) :=
  .ite h.withTwin.stopTimer.endResync.setRole (h.withTwin.stopTimer.endResync.when (·.leaveActive))

protected theorem Around.releaseIfPeerReady (h : Around s t) : Around s (releaseIfPeerReady t) := .ite h.releaseClaim h

/-! ### The station logic of the Crossing -/

protected theorem Around.countWrapStrip {f} (h : Around s t) : Around s (countWrapStrip t f) :=
  .ite h (h.incF (by decide))

protected theorem Around.ringTarget {port k f sq} (h : Around s t) : Around s (ringTarget t port k f sq).2 :=
  .iteSnd h <| .iteSnd (.ite h (h.incF (by decide))) <| .iteSnd h h.countWrapStrip

protected theorem Around.enqueueRing {ts f inPort ptpStamp} (h : Around s t) :
    Around s (enqueueRing t ts f inPort ptpStamp) :=
  .ite h h.enqueueFrame

protected theorem Around.sendRing {port k f inPort ptpStamp} (h : Around s t) :
    Around s (sendRing t port k f inPort ptpStamp) := by
  dsimp only [sendRing]
  exact h.ringTarget.enqueueRing

protected theorem Around.nextSeq {node west} (h : Around s t) : Around s (nextSeq t node west).2 := h.withRing

protected theorem Around.addOnPort {port f} (h : Around s t) : Around s (addOnPort t port f) := h.withRing.sendRing

protected theorem Around.addPlan {port k f sq} (h : Around s t) : Around s (addPlan t port k f sq).2 := by
  dsimp only [addPlan]
  exact .iteSnd h <| .iteSnd (h.incF (by decide)) <| .iteSnd (h.incF (by decide)) <|
    .iteSnd h.withRing.ringTarget.ringTarget h.nextSeq.ringTarget

protected theorem Around.addFrameBy {port k f inPort ptpStamp} (h : Around s t) :
    Around s (addFrameBy t port k f inPort ptpStamp) := by
  dsimp only [addFrameBy]
  split
  · rename_i e
    exact (h.addPlan.of_snd e).enqueueRing
  · rename_i e
    exact h.addPlan.of_snd e

protected theorem Around.sendWrapNotice {port event} (h : Around s t) : Around s (sendWrapNotice t port event) :=
  .ite h <| .ite (h.withRing.addF (by decide)) h.withRing.addOnPort.addOnPort

protected theorem Around.relinkQueue {src dst} (h : Around s t) : Around s (relinkQueue t src dst) :=
  h.foldl fun _ _ h => by
    dsimp only
    split
    · exact .ite h.setRefs.setRefs h.removeRef.countWrapStrip
    · exact h

protected theorem Around.relinkPort {port} (h : Around s t) : Around s (relinkPort t port) :=
  ((h.foldl fun _ _ h => h.relinkQueue).foldl fun _ _ h => h.relinkQueue).relinkQueue

protected theorem Around.countSuspects {port} (h : Around s t) : Around s (countSuspects t port) :=
  h.setPortSt.addFAt (by decide)

protected theorem Around.loseHeal {port} (h : Around s t) : Around s (loseHeal t port) :=
  h.stopTimer.when (·.setPortSt.startTimer)

protected theorem Around.declareBroken {port} (h : Around s t) : Around s (declareBroken t port) :=
  have hbits : Around s (setBitF (setBitF (incF (countSuspects t port) _) _ _ _) _ _ _) :=
    ((h.countSuspects.incFAt (by decide)).setBitF (by decide)).setBitF (by decide)
  .ite h <| .ite h.loseHeal <|
    (hbits.setPortSt.stopTimer.startTimer.unless (·.relinkPort)).sendWrapNotice.recordFault.when (·.releaseIfPeerReady)

/-! ### The bridge -/

protected theorem Around.clearDynamic {a} (h : Around s t) : Around s (clearDynamic t a) := h.memWrite.setF (by decide)

/-! ### Port states and the lane table -/

protected theorem Around.loadEq {key lane idx} (h : Around s t) (hk : 0x118 ≤ key) : Around s (loadEq t key lane idx) :=
  (h.setWord hk).setWord (far hk)

protected theorem Around.setPortState {p st} (h : Around s t) : Around s (setPortState t p st) :=
  h.setFAt (by decide)

protected theorem Around.startFlush {p} (h : Around s t) : Around s (startFlush t p) :=
  (h.setPortState.stopTimer.foldl fun _ _ h => h.discardQueue).when fun h => h.foldl fun _ _ h => h.clearDynamic

protected theorem Around.portLinkLost {p} (h : Around s t) : Around s (portLinkLost t p) :=
  .ite h.startFlush <| .ite h.setPortState.stopTimer h

/-! ### Egress -/

protected theorem Around.settleAdded {port} (h : Around s t) : Around s (settleAdded t port) :=
  h.foldl fun _ _ h => h.withPlaza

/-! ### The cipher engine -/

protected theorem Around.finishDescriptor {d result} (h : Around s t) : Around s (finishDescriptor t d result) :=
  (Around.ite ((((h.setFAt (by decide)).setFAt (by decide)).setBitF (by decide)).incF (by decide))
    ((((h.setFAt (by decide)).setFAt (by decide)).setBitF (by decide)).when (·.incF (by decide)))).withCip

protected theorem Around.abortDescriptors (h : Around s t) : Around s (abortDescriptors t) :=
  h.foldl fun _ _ h => .ite h.finishDescriptor h

/-! ### Ring and twin lanes -/

protected theorem Around.setBuState {p st} (h : Around s t) : Around s (setBuState t p st) :=
  h.setFAt (by decide)

protected theorem Around.dropLock {p} (h : Around s t) : Around s (dropLock t p) := h.setPortSt

protected theorem Around.restartTx {p} (h : Around s t) : Around s (restartTx t p) := h.setPortSt

protected theorem Around.stopBringup {p} (h : Around s t) : Around s (stopBringup t p) :=
  h.foldl fun _ _ h => h.stopTimer

protected theorem Around.loadPortEq {p rate} (h : Around s t) : Around s (loadPortEq t p rate) :=
  have hkey (m) : 0x118 ≤ (F.RNG_LANE_EQ_TX_TAPS m).key := far (by decide)
  (h.loadEq (hkey _)).loadEq (hkey _)

protected theorem Around.leaveUp {p} (h : Around s t) : Around s (leaveUp t p) :=
  .ite (.ite h.twinLinkLost h.declareBroken) h

protected theorem Around.enterDown {p} (h : Around s t) : Around s (enterDown t p) :=
  ((h.leaveUp.stopBringup.setFlagAt (by decide)).setFlagAt (by decide)).setBuState.dropLock.setPortSt

protected theorem Around.settlePort {p} (h : Around s t) : Around s (settlePort t p) := .ite h.settleAdded h

protected theorem Around.enterCap {p} (h : Around s t) : Around s (enterCap t p) :=
  (((((h.leaveUp.stopBringup.settlePort.setBuState.setFAt (by decide)).setFlagAt (by decide)).setFlagAt
    (by decide)).setFlagAt (by decide)).dropLock.setFlagAt (by decide)).setPortSt.restartTx.loadPortEq.output.startTimer

/-! ### The transaction engine -/

protected theorem Around.keepResponse {r} (h : Around s t) : Around s (keepResponse t r) := h.withOdw (by rfl)

protected theorem Around.answerAddr {e code data} (h : Around s t) : Around s (answerAddr t e code data) := by
  dsimp only [answerAddr]
  split
  · exact .ite (h.withOdw (by rfl)).output.keepResponse h
  · exact h

protected theorem Around.completeTag {tag code data} (h : Around s t) : Around s (completeTag t tag code data) := by
  dsimp only [completeTag]
  split
  · exact (h.incF (by decide))
  · split
    · exact h.withTxn.stopTimer.withTxn
    · exact h.withTxn.stopTimer.output.answerAddr

protected theorem Around.logPostFault {tag initiator addr op code x ts} (h : Around s t) :
    Around s (logPostFault t tag initiator addr op code x ts) :=
  (((h.memWrite.setF (by decide)).incF (by decide)).when (·.incFAt (by decide))).when (·.produceCounted)

protected theorem Around.sendResponse {r code data} (h : Around s t) : Around s (sendResponse t r code data) :=
  (Around.ite h.withTxn h).withTxn.addFrameBy

protected theorem Around.sendPostFault {r code} (h : Around s t) : Around s (sendPostFault t r code) :=
  h.withTxn.withTxn.addFrameBy

protected theorem Around.completeLocal {r code data} (h : Around s t) : Around s (completeLocal t r code data) :=
  .ite h.completeTag (h.incF (by decide))

protected theorem Around.noteExecuted {r} (h : Around s t) : Around s (noteExecuted t r) :=
  .ite h (h.withTxn.when (·.withTwin))

protected theorem Around.completeRequest {r code data} (h : Around s t) : Around s (completeRequest t r code data) :=
  .ite (.ite (h.noteExecuted.unless (·.logPostFault)) h.noteExecuted.completeLocal) <|
    .ite (h.noteExecuted.unless (·.sendPostFault)) h.noteExecuted.sendResponse

/-! ### Routes and list runs of the Junction -/

protected theorem Around.stopJunction (h : Around s t) : Around s (stopJunction t) := h.withJct.addF (by decide)

/-! ### Arcade engines and pins -/

protected theorem Around.haltEngine {e} (h : Around s t) : Around s (haltEngine t e) := .ite h.setEngine h

protected theorem Around.stopEngines (h : Around s t) : Around s (stopEngines t) := h.foldl fun _ _ h => h.haltEngine

/-! ### Slot power -/

protected theorem Around.updatePfw {i} (h : Around s t) : Around s (updatePfw t i) :=
  h.setFlagAt (by decide)

protected theorem Around.slotEvent {i old} (h : Around s t) : Around s (slotEvent t i old) := .ite h.produceCounted h

protected theorem Around.slotPins {i new} (h : Around s t) : Around s (slotPins t i new) :=
  ((h.setFlagAt (by decide)).setFlagAt (by decide)).unless (·.setFlagAt (by decide))

protected theorem Around.pgTimers {i new} (h : Around s t) : Around s (pgTimers t i new) :=
  h.stopTimer.stopTimer.when (·.startTimer)

protected theorem Around.changeSlot {i new reason} (h : Around s t) : Around s (changeSlot t i new reason) :=
  have hstate : Around s (setF (setF t _ _) _ _) := (h.setFAt (by decide)).setFAt (by decide)
  (hstate.slotPins.pgTimers.when (·.setSlot)).stopTimer.stopTimer.stopTimer.updatePfw.slotEvent

protected theorem Around.updateShedPending (h : Around s t) : Around s (updateShedPending t) := h.setFlag (by decide)

protected theorem Around.dropPlan {i} (h : Around s t) : Around s (dropPlan t i) :=
  h.stopTimer.setSlot.updatePfw.updateShedPending

protected theorem Around.warnSlot {i reason} (h : Around s t) : Around s (warnSlot t i reason) := by
  dsimp only [warnSlot]
  split
  · exact h
  · exact h.setSlot.startTimer.updatePfw.updateShedPending

protected theorem Around.tripSlot {i reason} (h : Around s t) : Around s (tripSlot t i reason) := by
  unfold tripSlot
  exact (h.dropPlan.setSlot.changeSlot.addFAt (by decide)).recordFault

protected theorem Around.fencePower (h : Around s t) : Around s (fencePower t) :=
  h.foldl fun _ _ h => .ite h.tripSlot h

/-! ### Commands of the time unit -/

protected theorem Around.fenceTime (h : Around s t) : Around s (fenceTime t) := .ite h.enterHoldover h

/-! ### Twin control -/

protected theorem Around.requestHandover (h : Around s t) : Around s (requestHandover t) :=
  .ite (h.withTwin.setFlag (by decide)) (((h.setFlag (by decide)).setF (by decide)).setFlag (by decide))

/-! ### Fences and resets of units -/

protected theorem Around.startDrain {u reset} (h : Around s t) : Around s (startDrain t u reset) :=
  h.withTxn.foldl fun _ _ h => h.withDrains.startTimer

protected theorem Around.stopTransfer {r} (h : Around s t) : Around s (stopTransfer t r) := by
  dsimp only [stopTransfer]
  split
  · split
    · exact h.output
    · exact h
  · exact h

protected theorem Around.endRequests {rs code} (h : Around s t) : Around s (endRequests t rs code) :=
  h.foldl fun _ _ h => h.stopTransfer.withTxn.completeRequest

protected theorem Around.fenceEffects {u} (h : Around s t) : Around s (fenceEffects t u) :=
  .ite (h.declareBroken.declareBroken.foldl fun _ _ h => h.portLinkLost) <|
    .ite (h.foldl fun _ _ h => .ite h.enterDown h) <| .ite (h.foldl fun _ _ h => h.portLinkLost) <|
    .ite (h.stopJunction.foldl fun _ _ h => h.portLinkLost) <| .ite h.rewindAll <| .ite h.stopEngines <|
    .ite h.fenceTime <|
    .ite ((h.abortDescriptors.foldl fun _ _ h => h.portLinkLost).foldl fun _ _ h => .ite h.enterCap h) <|
    .ite (h.twinLinkLost.foldl fun _ _ h => h.portLinkLost) <| .ite h.fencePower <|
    .ite h.endRequests h

/-! ### Restarts -/

protected theorem Around.turnOffSlots (h : Around s t) : Around s (turnOffSlots t) := h.foldl fun _ _ h => h.warnSlot

end
end Sys2Proof.Machine

/-! # Proofs: fences, resets and drain windows of units -/

namespace Sys2Proof.Machine

/-! ### Bits of unit maps -/

theorem testBit_withBit (n u : Nat) (b : Bool) (v : Nat) :
    (withBit n u b).testBit v = if v = u then b else n.testBit v := by
  rw [withBit, testBit_insertBits]
  by_cases hv : v = u
  · subst hv
    rw [if_pos ⟨Nat.le_refl v, Nat.lt_succ_self v⟩, if_pos rfl, Nat.sub_self]
    cases b <;> rfl
  · rw [if_neg (by omega), if_neg hv]

/-- A word with one bit written. -/
theorem bitAt_ofNat_withBit (w : Word) {u : Nat} (hu : u < 32) (b : Bool) (v : Nat) :
    bitAt (BitVec.ofNat 32 (withBit w.toNat u b)).toNat v = if v = u then b else bitAt w.toNat v := by
  rw [bitAt, bitAt, BitVec.toNat_ofNat, Nat.testBit_mod_two_pow, testBit_withBit]
  by_cases hv : v < 32
  · rw [decide_eq_true hv, Bool.true_and]
  · rw [decide_eq_false hv, Bool.false_and, if_neg (by omega), BitVec.testBit_toNat,
      BitVec.getLsbD_of_ge _ _ (by omega)]

theorem unitBit_of_lt (n : Nat) {u : Nat} (hu : u < 17) (b : Bool) : unitBit n u b = withBit n u b := if_pos hu

theorem bitAt_unitBit (n : Nat) {u : Nat} (hu : u < 17) (b : Bool) (v : Nat) :
    bitAt (unitBit n u b) v = if v = u then b else bitAt n v := by
  rw [unitBit_of_lt n hu, bitAt, testBit_withBit, bitAt]

theorem bitAt_unitBit_zero {u v : Nat} (h : bitAt (unitBit 0 u true) v = true) : v = u := by
  by_cases hu : u < 17
  · rw [bitAt_unitBit 0 hu] at h
    by_contra hv
    simp [hv, bitAt] at h
  · simp [unitBit, hu, bitAt] at h

/-! ### Folds over the units -/

theorem foldl_eq_self {α β : Type} {f : β → α → β} {t : β} {l : List α} (h : ∀ x ∈ l, f t x = t) : l.foldl f t = t := by
  induction l with
  | nil => rfl
  | cons x l ih =>
    rw [List.foldl_cons, h x List.mem_cons_self]
    exact ih fun y hy => h y (List.mem_cons_of_mem x hy)

/-- Where the steps for all other units change nothing, the step for one unit is the whole fold. -/
theorem foldl_upTo_of_other {β : Type} {f : β → Nat → β} {t : β} {n u : Nat} (hu : u < n)
    (hbefore : ∀ v, v ≠ u → f t v = t) (hafter : ∀ v, v ≠ u → f (f t u) v = f t u) : (upTo n).foldl f t = f t u := by
  obtain ⟨l₁, l₂, hl⟩ := List.append_of_mem (List.mem_range.2 hu)
  have hnodup : (l₁ ++ u :: l₂).Nodup := hl ▸ List.nodup_range
  have h₁ : u ∉ l₁ := fun h => List.disjoint_of_nodup_append hnodup h List.mem_cons_self
  have h₂ : u ∉ l₂ := (List.nodup_cons.1 (List.nodup_append.1 hnodup).2.1).1
  rw [upTo, hl, List.foldl_append, List.foldl_cons, foldl_eq_self fun v hv => hbefore v fun e => h₁ (e ▸ hv),
    foldl_eq_self fun v hv => hafter v fun e => h₂ (e ▸ hv)]

/-! ### What fences a unit -/

theorem fenceCode_eq_none_iff (s : State) (u : Nat) : fenceCode s u = none ↔
    unitAbsent s.ident.variant u = false ∧ s.dev.state ≠ .dormant ∧ s.dev.unitsOut = true ∧ inReset s u = false
      ∧ softFenced s u = false ∧ faultFenced s u = false ∧ s.dev.powerDown.getLsbD u = false := by
  unfold fenceCode
  split_ifs with hAbsent hDormant hReset hFenced
  · simp [hAbsent]
  · simp [hDormant]
  · refine iff_of_false nofun fun ⟨_, _, hOut, hRst, _⟩ => ?_
    simp [hOut, hRst] at hReset
  · refine iff_of_false nofun fun ⟨_, _, _, _, hSoft, hFault, hDown⟩ => ?_
    simp [hSoft, hFault, hDown] at hFenced
  · simp_all

/-- A unit that neither is absent nor lies in a dormant part, and is in reset. -/
theorem fenceCode_of_inReset {s : State} {u : Nat} (ha : unitAbsent s.ident.variant u = false)
    (hd : s.dev.state ≠ .dormant) (hr : inReset s u = true) : fenceCode s u = some codeRESET_DURING := by
  simp [fenceCode, ha, hd, hr]

theorem fenceCode_of_softFenced {s : State} {u : Nat} (ha : unitAbsent s.ident.variant u = false)
    (hd : s.dev.state ≠ .dormant) (ho : s.dev.unitsOut = true) (hr : inReset s u = false) (hf : softFenced s u = true) :
    fenceCode s u = some codeFENCED := by
  simp [fenceCode, ha, hd, ho, hr, hf]

theorem canFence_iff (s : State) (u : Nat) : canFence s u = true ↔
    u ≤ 0x10 ∧ u ≠ unitSYS ∧ u ≠ unitFLT ∧ unitAbsent s.ident.variant u = false := by
  simp [canFence, and_assoc]

theorem lt_of_canFence {s : State} {u : Nat} (h : canFence s u = true) : u < 17 :=
  Nat.lt_succ_of_le ((canFence_iff s u).1 h).1

theorem fenceCode_of_around {s t : State} (h : Around s t) (u : Nat) : fenceCode t u = fenceCode s u :=
  fenceCode_congr (congrArg _ h.ident) h.dev (h.word _ (by decide)) (h.word _ (by decide)) (h.word _ (by decide))
    (h.word _ (by decide)) u

theorem softFenced_of_around {s t : State} (h : Around s t) (u : Nat) : softFenced t u = softFenced s u := by
  rw [softFenced, h.word _ (by decide), softFenced]

/-! ### The marks of a fence and of a reset -/

section
variable (s : State) {u : Nat} (b : Bool)

theorem softFenced_setFenceBit (hu : u < 17) (v : Nat) :
    softFenced (setFenceBit s u b) v = if v = u then b else softFenced s v := by
  rw [softFenced, setFenceBit, regWord_setWord_same, bitAt_ofNat_withBit _ (by omega), softFenced]

theorem inReset_setFenceBit (v : Nat) : inReset (setFenceBit s u b) v = inReset s v := by
  rw [inReset, bitF, getF, setFenceBit, regWord_setWord_other _ _ (by decide), regWord_setWord_other _ _ (by decide)]
  rfl

theorem faultFenced_setFenceBit (v : Nat) : faultFenced (setFenceBit s u b) v = faultFenced s v := by
  rw [faultFenced, bitF, getF, setFenceBit, regWord_setWord_other _ _ (by decide)]
  rfl

theorem inReset_setRstBit (hu : u < 17) : inReset (setRstBit s u true) u = true := by
  rw [inReset, setRstBit, regWord_setWord_same, bitAt_ofNat_withBit _ (by omega), if_pos rfl, Bool.true_or]

end

/-! ### Drain windows -/

/-- The drain window of one boundary of a unit that begins. -/
def openWindow (u : Nat) (reset : Bool) (t : State) (i : Nat) : State :=
  startTimer (t.withDrains ((t.drains.filter (fun d => !(d.unit = u && d.island = i))) ++ [⟨u, i, reset, none⟩]))
    (.drain u i) (4 * ticksUs)

theorem openWindow_drains (u : Nat) (reset : Bool) (t : State) (i : Nat) : (openWindow u reset t i).drains
    = (t.drains.filter (fun d => !(d.unit = u && d.island = i))) ++ [⟨u, i, reset, none⟩] := rfl

theorem startDrain_drains (s : State) (u : Nat) (reset : Bool) : (startDrain s u reset).drains
    = ((islandsOf s.ident.variant u).foldl (openWindow u reset) (s.withTxn { s.txn with
        reqs := s.txn.reqs.map fun r => if unitOfAddr r.addr = u then { r with inside := true } else r })).drains := rfl

/-- Every boundary of the unit has its window. -/
theorem mem_drains_startDrain {s : State} {u : Nat} {reset : Bool} {i : Nat} (hi : i ∈ islandsOf s.ident.variant u) :
    (⟨u, i, reset, none⟩ : Drain) ∈ (startDrain s u reset).drains := by
  rw [startDrain_drains]
  refine foldl_holds (P := fun t : State => (⟨u, i, reset, none⟩ : Drain) ∈ t.drains) (fun t => ?_)
    (fun t j h => ?_) (.inl hi)
  · simp [openWindow_drains]
  · by_cases hj : i = j
    · subst hj
      simp [openWindow_drains]
    · simp [openWindow_drains, h, hj]

/-- The windows of other units stay. -/
theorem mem_drains_startDrain_other {s : State} {u : Nat} {reset : Bool} {d : Drain} (hu : d.unit ≠ u)
    (hd : d ∈ s.drains) : d ∈ (startDrain s u reset).drains := by
  rw [startDrain_drains]
  refine List.foldlRecOn (motive := fun t : State => d ∈ t.drains) _ _ hd fun t h j _ => ?_
  simp [openWindow_drains, h, hu]

/-! ### Writes of SYS_UNIT_RST and SYS_UNIT_FENCE -/

theorem regAt_unitRst : (regAt (keyOf unitSYS 0x100)).map (fun p => (p.1.pres, p.2)) = some (.always, []) := by
  decide +kernel

theorem regAt_unitFence : (regAt (keyOf unitSYS 0x104)).map (fun p => (p.1.pres, p.2)) = some (.always, []) := by
  decide +kernel

theorem absentAt_sys (s : State) (off : Nat) : absentAt s unitSYS off = false := rfl

/-- A write command of a register of SYS that has an effect of its own. -/
theorem writeCommand_sys {s t : State} {off : Nat} {w : Nat} (hl : live s unitSYS = true) (ho : off < 0x10000)
    (ha : off % 4 = 0) (hr : (regAt (keyOf unitSYS off)).map (fun p => (p.1.pres, p.2)) = some (.always, []))
    (hk : hookSYS s off w = some (t, codeOK)) :
    writeCommand s unitSYS off w = answered t (.regWrite unitSYS off (BitVec.ofNat 32 w)) := by
  obtain ⟨⟨d, idx⟩, hreg, hp⟩ := Option.map_eq_some_iff.1 hr
  obtain ⟨hpres, hidx⟩ : d.pres = .always ∧ idx = [] := Prod.mk.inj hp
  have hi : hasInst s d.pres idx = true := by rw [hpres, hidx]; rfl
  exact writeCommand_of_hook hl (by decide) ho ha (absentAt_sys s off) rfl hreg hi hk

theorem exec_unitReset {s : State} (hl : live s unitSYS = true) (u : Nat) :
    ∃ r, exec (.unitReset u) s = .next (answered (resetUnits s (unitBit 0 u true)) r) :=
  ⟨_, congrArg Host.Outcome.next (writeCommand_sys hl (by decide) (by decide) regAt_unitRst rfl)⟩

/-- The fences after one unit's is set or lifted, which the commands write. -/
def fenceMap (s : State) (u : Nat) (b : Bool) : Nat := unitBit (regWord s F.SYS_UNIT_FENCE_FENCE.key).toNat u b

theorem exec_unitFenceSet {s : State} (hl : live s unitSYS = true) (u : Nat) :
    ∃ r, exec (.unitFenceSet u) s = .next (answered (fenceUnits s (fenceMap s u true)) r) :=
  ⟨_, congrArg Host.Outcome.next (writeCommand_sys hl (by decide) (by decide) regAt_unitFence rfl)⟩

theorem exec_unitFenceLift {s : State} (hl : live s unitSYS = true) (u : Nat) :
    ∃ r, exec (.unitFenceLift u) s = .next (answered (fenceUnits s (fenceMap s u false)) r) :=
  ⟨_, congrArg Host.Outcome.next (writeCommand_sys hl (by decide) (by decide) regAt_unitFence rfl)⟩

theorem answered_getLast? (s : State) (r : DeltaRec) : (answered s r).outs.getLast? = some (.code codeOK) := by
  rw [answered_outs, List.getLast?_concat]

theorem fenceCode_answered (s : State) (r : DeltaRec) (u : Nat) : fenceCode (answered s r) u = fenceCode s u := by
  rw [answered_frame]
  rfl

/-! ### UNIT_RESET -/

theorem requestReset_of_not_canFence {s : State} {u : Nat} (h : canFence s u = false) : requestReset s u = s :=
  if_neg (by simp [h])

/-- A unit whose reset is requested, before its drain windows begin. -/
def resetMarked (s : State) (u : Nat) : State :=
  if (fenceCode s u).isSome then setRstBit s u true else fenceEffects (setRstBit s u true) u

theorem requestReset_of_canFence {s : State} {u : Nat} (hc : canFence s u = true) (hr : inReset s u = false) :
    requestReset s u = startDrain (resetMarked s u) u true := if_pos (by simp [hc, hr])

theorem around_resetMarked (s : State) (u : Nat) : Around (setRstBit s u true) (resetMarked s u) :=
  .ite (.refl _) (Around.refl _).fenceEffects

/-- The units whose bits are not written are left alone. -/
theorem resetUnits_unitBit (s : State) {u : Nat} (hu : u < 17) :
    resetUnits s (unitBit 0 u true) = requestReset s u := by
  have hother (t : State) (v : Nat) (hv : v ≠ u) :
      (if bitAt (unitBit 0 u true) v then requestReset t v else t) = t := if_neg fun h => hv (bitAt_unitBit_zero h)
  have hself : (if bitAt (unitBit 0 u true) u then requestReset s u else s) = requestReset s u :=
    if_pos (by rw [bitAt_unitBit 0 hu, if_pos rfl])
  exact (foldl_upTo_of_other (f := fun t v => if bitAt (unitBit 0 u true) v then requestReset t v else t) hu (hother s)
    (hother _)).trans hself

theorem resetUnits_of_not_canFence {s : State} {u : Nat} (h : canFence s u = false) :
    resetUnits s (unitBit 0 u true) = s := by
  refine foldl_eq_self fun v _ => ?_
  split
  · rename_i hbit
    rw [bitAt_unitBit_zero hbit, requestReset_of_not_canFence h]
  · rfl

/-- Settles O16: RST is written with one bit, which begins the reset of that unit alone. -/
theorem unitFences : Obligations.UnitFences := by
  refine ⟨fun s u hl hc hr => ?begins, fun s u hl hc => ?refused, fun s u hl _ => ⟨?fenced, ?lifted⟩,
    fun s d hd hend => ?windowEnds, fun s u hu => congrArg Host.Outcome.next (if_pos hu)⟩
  case begins =>
    obtain ⟨r, hexec⟩ := exec_unitReset hl u
    refine ⟨_, hexec, answered_getLast? _ _, fun i hi => ?_⟩
    rw [answered_frame, resetUnits_unitBit s (lt_of_canFence hc), requestReset_of_canFence hc hr]
    refine mem_drains_startDrain ?_
    rwa [(around_resetMarked s u).ident]
  case refused =>
    obtain ⟨r, hexec⟩ := exec_unitReset hl u
    rw [hexec, resetUnits_of_not_canFence hc, answered_frame]
    exact ⟨_, rfl, rfl, rfl⟩
  case fenced =>
    obtain ⟨r, hexec⟩ := exec_unitFenceSet hl u
    exact ⟨_, hexec, answered_getLast? _ _⟩
  case lifted =>
    obtain ⟨r, hexec⟩ := exec_unitFenceLift hl u
    exact ⟨_, hexec, answered_getLast? _ _⟩
  case windowEnds =>
    refine congrArg Host.Outcome.next ?_
    rw [hd]
    exact if_pos hend

/-! ### UNIT_FENCE_SET -/

theorem liftFence_of_not_softFenced {s : State} {u : Nat} (h : softFenced s u = false) : liftFence s u = s :=
  if_neg (by simp [h])

/-- A unit that software fences, before its drain windows begin. -/
def fenceMarked (s : State) (u : Nat) : State := fenceEffects (setFenceBit s u true) u

theorem around_fenceMarked (s : State) (u : Nat) : Around (setFenceBit s u true) (fenceMarked s u) :=
  (Around.refl _).fenceEffects

theorem fenceUnit_of_live {s : State} {u : Nat} (hc : canFence s u = true) (hl : live s u = true) :
    fenceUnit s u = startDrain (fenceMarked s u) u false :=
  (if_pos hc).trans (if_neg (by simp [(live_iff s u).1 hl]))

theorem around_fenceUnit {s : State} {u : Nat} (hc : canFence s u = true) (hl : live s u = true) :
    Around (setFenceBit s u true) (fenceUnit s u) := by
  rw [fenceUnit_of_live hc hl]
  exact (around_fenceMarked s u).startDrain

theorem bitAt_fenceMap (s : State) {u : Nat} (hu : u < 17) (b : Bool) (v : Nat) :
    bitAt (fenceMap s u b) v = if v = u then b else softFenced s v := bitAt_unitBit _ hu b v

/-- One unit's turn in a write of the fence map. -/
def fenceStep (w : Nat) (t : State) (v : Nat) : State :=
  if !bitAt w v then liftFence t v else if softFenced t v then t else fenceUnit t v

theorem fenceUnits_eq (s : State) (w : Nat) : fenceUnits s w = (upTo 17).foldl (fenceStep w) s := rfl

/-- A unit whose bit is written as it stands is left alone. -/
theorem fenceStep_of_agrees {w : Nat} {t : State} {v : Nat} (h : bitAt w v = softFenced t v) : fenceStep w t v = t := by
  rw [fenceStep, h]
  cases hs : softFenced t v
  · exact liftFence_of_not_softFenced hs
  · rfl

/-- Setting the fence of a unit that runs fences that unit alone. -/
theorem fenceUnits_fenceMap {s : State} {u : Nat} (hc : canFence s u = true) (hl : live s u = true) :
    fenceUnits s (fenceMap s u true) = fenceUnit s u := by
  have hu := lt_of_canFence hc
  obtain ⟨_, _, _, _, hsoft, _⟩ := (fenceCode_eq_none_iff s u).1 ((live_iff s u).1 hl)
  have hself : fenceStep (fenceMap s u true) s u = fenceUnit s u := by simp [fenceStep, bitAt_fenceMap s hu, hsoft]
  rw [fenceUnits_eq, foldl_upTo_of_other hu (fun v hv => fenceStep_of_agrees ?before) fun v hv => ?after, hself]
  case before => rw [bitAt_fenceMap s hu, if_neg hv]
  case after =>
    rw [hself]
    refine fenceStep_of_agrees ?_
    rw [bitAt_fenceMap s hu, softFenced_of_around (around_fenceUnit hc hl), softFenced_setFenceBit s true hu]

/-! ### Codes of a unit in reset and of a fenced one -/

theorem fenceCode_requestReset {s : State} {u : Nat} (hc : canFence s u = true) (hl : live s u = true) :
    fenceCode (requestReset s u) u = some codeRESET_DURING := by
  obtain ⟨habsent, hdormant, _, hrst, _⟩ := (fenceCode_eq_none_iff s u).1 ((live_iff s u).1 hl)
  rw [requestReset_of_canFence hc hrst, fenceCode_of_around (around_resetMarked s u).startDrain]
  exact fenceCode_of_inReset habsent hdormant (inReset_setRstBit s (lt_of_canFence hc))

theorem fenceCode_fenceUnit {s : State} {u : Nat} (hc : canFence s u = true) (hl : live s u = true) :
    fenceCode (fenceUnit s u) u = some codeFENCED := by
  obtain ⟨habsent, hdormant, hout, hrst, _⟩ := (fenceCode_eq_none_iff s u).1 ((live_iff s u).1 hl)
  rw [fenceCode_of_around (around_fenceUnit hc hl)]
  refine fenceCode_of_softFenced habsent hdormant hout ((inReset_setFenceBit s true u).trans hrst) ?_
  rw [softFenced_setFenceBit s true (lt_of_canFence hc), if_pos rfl]

theorem live_of_faultFenced {s : State} {u : Nat} (h : faultFenced s u = true) : live s u = false := by
  rw [← Bool.not_eq_true, live_iff, fenceCode_eq_none_iff]
  exact fun ⟨_, _, _, _, _, hfault, _⟩ => Bool.false_ne_true (hfault.symm.trans h)

/-- A fence of the collector remains when software lifts its own (R84). -/
theorem liftFence_of_faultFenced {s : State} {u : Nat} (hf : faultFenced s u = true) (hc : canFence s u = true) :
    liftFence s u = if softFenced s u then setFenceBit s u false else s := by
  have hl : live (setFenceBit s u false) u = false := live_of_faultFenced ((faultFenced_setFenceBit s false u).trans hf)
  rw [liftFence, hc, Bool.true_and]
  simp only [hl, Bool.false_eq_true, if_false]

/-! ### The registers of a unit that is reset -/

theorem regWord_resetRegisters (s : State) {u k : Nat} (hu : u ≠ unitSYS) (hk : unitOfKey k = u)
    (hkept : keptRegister k = false) : regWord (resetRegisters s u) k = resetWord s.ident.variant k := by
  have hlock : k ≠ F.SYS_LOCK_LOCK.key := fun e => hu (hk.symm.trans (congrArg unitOfKey e))
  refine (regWord_setF_other _ _ hlock).trans ?_
  show (assoc k (s.regs.filter fun p => unitOfKey p.1 != u || keptRegister p.1)).getD _ = _
  rw [assoc_filter k fun k => unitOfKey k != u || keptRegister k, hk, hkept]
  simp

theorem bitF_setBitF_same (s : State) {f : Fld} {i : Nat} (b : Bool) (hf : f.lo + f.width ≤ 32) (hi : i < f.width) :
    bitF (setBitF s f i b) f i = b := by
  rw [bitF, setBitF, getF_setF_same s f _ hf, bitAt, Nat.testBit_mod_two_pow, testBit_withBit, if_pos rfl,
    decide_eq_true hi, Bool.true_and]

theorem mem_pendCb_resetRegisters {s : State} {u : Nat} {c : CbWrite} (h : c ∈ (resetRegisters s u).pendCb) :
    unitOfKey c.key ≠ u := bne_iff_ne.1 (List.mem_filter.1 h).2

/-- Settles O17: the marks of a reset and of a fence stand around the unit, where none of its operations reaches. -/
theorem fenceCodes : Obligations.FenceCodes := by
  refine ⟨fun s u hsys hc hl => ⟨?reset, ?fence⟩, fun s u hf hc hu => ?lifted, fun s u hu =>
    ⟨fun k => regWord_resetRegisters s hu, fun c => mem_pendCb_resetRegisters,
      fun hlt => bitF_setBitF_same _ false (by decide) hlt, rfl⟩⟩
  case reset =>
    obtain ⟨r, hexec⟩ := exec_unitReset hsys u
    refine ⟨_, hexec, ?_⟩
    rw [fenceCode_answered, resetUnits_unitBit s (lt_of_canFence hc), fenceCode_requestReset hc hl]
  case fence =>
    obtain ⟨r, hexec⟩ := exec_unitFenceSet hsys u
    refine ⟨_, hexec, ?_⟩
    rw [fenceCode_answered, fenceUnits_fenceMap hc hl, fenceCode_fenceUnit hc hl]
  case lifted =>
    rw [liftFence_of_faultFenced hf hc]
    cases hs : softFenced s u
    · exact ⟨live_of_faultFenced hf, hs⟩
    · exact ⟨live_of_faultFenced ((faultFenced_setFenceBit s false u).trans hf),
        (softFenced_setFenceBit s false hu u).trans (if_pos rfl)⟩

end Sys2Proof.Machine

/-! # Proofs: the entry into Dormant -/

namespace Sys2Proof.Machine

/-! ### The request -/

/-- The device state and the accepted command once the entry has begun. -/
def dormantMarked (s : State) : State :=
  (s.withDev { s.dev with dormantPending := true }).withOdw { s.odw with pendingCmd := 0 }

/-- Neither a handover nor the slots that turn off touch them. -/
theorem around_beginDormant (s : State) : Around (dormantMarked s) (beginDormant s) :=
  .ite (Around.refl _).requestHandover (.ite (Around.refl _).turnOffSlots (.refl _))

theorem beginDormant_kept (s : State) : (beginDormant s).dev = { s.dev with dormantPending := true }
    ∧ (beginDormant s).odw.pendingCmd = 0 ∧ (beginDormant s).ident = s.ident :=
  ⟨(around_beginDormant s).dev, (around_beginDormant s).cmd, (around_beginDormant s).ident⟩

section
variable {s : State} (hserve : inService s = true) (hhigh : s.dev.sysrstLow = false)
  (hidle : s.dev.dormantPending = false)
include hserve hhigh hidle

theorem dormantRequest_open : ¬((!inService s) = true ∨ s.dev.sysrstLow = true ∨ s.dev.dormantPending = true) := by
  simp [hserve, hhigh, hidle]

theorem exec_dormantRequest_accepted (hcmd : s.odw.pendingCmd = 2) :
    exec .dormantRequest s = .next (beginDormant s) :=
  congrArg Host.Outcome.next ((if_neg (dormantRequest_open hserve hhigh hidle)).trans (if_pos hcmd))

theorem exec_dormantRequest_refused (hcmd : s.odw.pendingCmd ≠ 2) (hr : dormantRefused s = true) :
    exec .dormantRequest s = .next (output s (.code codeREFUSED_BUSY)) :=
  congrArg Host.Outcome.next
    ((if_neg (dormantRequest_open hserve hhigh hidle)).trans ((if_neg hcmd).trans (if_pos hr)))

theorem exec_dormantRequest_begins (hcmd : s.odw.pendingCmd ≠ 2) (hr : dormantRefused s = false) :
    exec .dormantRequest s = .next (beginDormant (output s (.code codeOK))) :=
  congrArg Host.Outcome.next
    ((if_neg (dormantRequest_open hserve hhigh hidle)).trans ((if_neg hcmd).trans (if_neg (by simp [hr]))))

end

/-! ### The power-down of the units -/

theorem mem_drains_startDrains {us : List Nat} {u i : Nat} {t : State} (hu : u ∈ us)
    (hi : i ∈ islandsOf t.ident.variant u) :
    (⟨u, i, false, none⟩ : Drain) ∈ (us.foldl (fun t u => startDrain t u false) t).drains := by
  have hident (t : State) (v : Nat) : (startDrain t v false).ident = t.ident := (Around.refl t).startDrain.ident
  have hfold : (us.foldl (fun t u => startDrain t u false) t).ident = t.ident :=
    ((Around.refl t).foldl fun _ _ h => h.startDrain).ident
  refine foldl_holds (P := fun t : State => i ∈ islandsOf t.ident.variant u → (⟨u, i, false, none⟩ : Drain) ∈ t.drains)
    (x := u) (fun t h => ?opens) (fun t v h hi => ?stays) (.inl hu) (hfold ▸ hi)
  case opens => exact mem_drains_startDrain (hident t u ▸ h)
  case stays =>
    rw [hident] at hi
    by_cases hv : u = v
    · subst hv
      exact mem_drains_startDrain hi
    · exact mem_drains_startDrain_other hv (h hi)

theorem beginPowerDown_dev (s : State) : (beginPowerDown s).dev = { s.dev with powerDown := 0x1FFFE } :=
  ((Around.refl (s.withDev { s.dev with powerDown := 0x1FFFE })).foldl fun _ _ h => h.startDrain).dev

theorem mem_drains_beginPowerDown {s : State} {u i : Nat} (hlt : u < 17) (hsys : u ≠ unitSYS) (hl : live s u = true)
    (hi : i ∈ islandsOf s.ident.variant u) : (⟨u, i, false, none⟩ : Drain) ∈ (beginPowerDown s).drains :=
  mem_drains_startDrains (t := s.withDev _) (List.mem_filter.2 ⟨List.mem_range.2 hlt, by simp [hsys, hl]⟩) hi

/-! ### Dormant -/

theorem saveBases_mask (s : State) : (saveBases s).aon.mask = s.aon.mask := by
  unfold saveBases
  split <;> rfl

/-- The state that Dormant's islands are powered down from. -/
def basesSaved (s : State) (mask : BitVec 8) : State := saveBases (s.withAon { s.aon with mask := mask })

/-- The part powered down, with its banks as they stand. -/
def poweredDown (s : State) (mask : BitVec 8) : State :=
  let p := basesSaved s mask
  sameBanks p (clearIslands (endRequests p p.txn.reqs codeFENCED))

section
variable (s : State) (mask : BitVec 8)

theorem enterDormant_eq : enterDormant s mask
    = (poweredDown s mask).withDev { (poweredDown s mask).dev with state := .dormant } := rfl

theorem poweredDown_ident : (poweredDown s mask).ident = s.ident := by
  rw [poweredDown, sameBanks_frame, State.withRegs_ident, clearIslands_ident, (Around.refl _).endRequests.ident,
    basesSaved, saveBases_ident, State.withAon_ident]

theorem poweredDown_mask : (poweredDown s mask).aon.mask = mask := by
  rw [poweredDown, sameBanks_frame, State.withRegs_aon, clearIslands_aon, (Around.refl _).endRequests.aon, basesSaved,
    saveBases_mask, State.withAon_aon]

theorem poweredDown_twin : (poweredDown s mask).twin = Twin.reset := by
  rw [poweredDown, sameBanks_frame, State.withRegs_twin, clearIslands_twin]

end

theorem fenceCode_of_dormant {s : State} (h : s.dev.state = .dormant) (u : Nat) :
    fenceCode s u = if unitAbsent s.ident.variant u then some codeUNIT_ABSENT else some codeFENCED := by
  rw [fenceCode, if_pos h]

theorem windowsRun_of_no_requests {s : State} (h : s.txn.reqs = []) : windowsRun s = false := by
  simp [windowsRun, heldAt, h]

section
variable {s : State} (hpending : s.dev.dormantPending = true) (hstored : s.odw.storing = false)
  (hslots : acting s = true → (slotIds s).any (slotPowered s) = false)
include hpending hstored hslots

theorem dormantReady_of_done : dormantReady s = true := by
  rw [dormantReady, hpending, hstored]
  cases ha : acting s
  · rfl
  · rw [hslots ha]
    rfl

theorem exec_dormantEntryComplete_begins (hreqs : s.txn.reqs ≠ []) (hdown : poweringDown s = false) :
    exec .dormantEntryComplete s = .next (beginPowerDown s) :=
  have hready : ¬(!dormantReady s) = true := by simp [dormantReady_of_done hpending hstored hslots]
  congrArg Host.Outcome.next ((if_neg hready).trans (if_pos ⟨hreqs, hdown⟩))

theorem exec_dormantEntryComplete_enters
    (hdone : s.txn.reqs = [] ∨ (poweringDown s = true ∧ windowsRun s = false)) :
    exec .dormantEntryComplete s = .next (enterDormant s (wakeMask s)) := by
  have hready : ¬(!dormantReady s) = true := by simp [dormantReady_of_done hpending hstored hslots]
  have hbegun : ¬(s.txn.reqs ≠ [] ∧ poweringDown s = false) := by
    rintro ⟨hreqs, hdown⟩
    rcases hdone with h | ⟨h, _⟩
    · exact hreqs h
    · exact Bool.false_ne_true (hdown.symm.trans h)
  have hwindows : windowsRun s = false := hdone.elim windowsRun_of_no_requests And.right
  exact congrArg Host.Outcome.next ((if_neg hready).trans ((if_neg hbegun).trans (if_neg (by simp [hwindows]))))

end

/-- Settles O8: what begins the entry, opens the windows and powers the units down leaves the device state but for what
is said of it. -/
theorem dormantEntry : Obligations.DormantEntry := by
  refine ⟨fun s hserve hhigh hidle => exec_dormantRequest_refused hserve hhigh hidle,
    fun s hserve hhigh hidle hgo => ?begins, fun s hpending hstored hslots hreqs hdown =>
      ⟨_, exec_dormantEntryComplete_begins hpending hstored hslots hreqs hdown, beginPowerDown_dev s,
        fun u hlt hsys hl i hi => mem_drains_beginPowerDown hlt hsys hl hi⟩,
    fun s hpending hstored hslots hdone => ?enters⟩
  case begins =>
    by_cases hcmd : s.odw.pendingCmd = 2
    · exact ⟨_, exec_dormantRequest_accepted hserve hhigh hidle hcmd, beginDormant_kept s⟩
    · exact ⟨_, exec_dormantRequest_begins hserve hhigh hidle hcmd (hgo.resolve_left hcmd),
        beginDormant_kept (output s (.code codeOK))⟩
  case enters =>
    refine ⟨_, exec_dormantEntryComplete_enters hpending hstored hslots hdone, rfl, ?ident, ?mask, ?twin,
      fun u => ?code⟩
    case code =>
      rw [fenceCode_of_dormant rfl, enterDormant_eq, State.withDev_ident, poweredDown_ident]
    all_goals rw [enterDormant_eq]
    case ident => rw [State.withDev_ident, poweredDown_ident]
    case mask => rw [State.withDev_aon, poweredDown_mask]
    case twin => rw [State.withDev_twin, poweredDown_twin]

end Sys2Proof.Machine

/-! # Proofs: the node-cycle boundary -/

namespace Sys2Proof.Machine

theorem exec_nodeCycleBoundary_of_due {s : State} {at_ : Nat} (hout : s.dev.unitsOut = true) (hrun : basesRun s = true)
    (hdue : boundaryAt s = some at_) : exec .nodeCycleBoundary s = .next (runBoundary s at_) := by
  refine congrArg Host.Outcome.next ((if_pos (by simp [hout, hrun])).trans ?_)
  rw [hdue]

theorem exec_nodeCycleBoundary_of_none {s : State} (h : boundaryAt s = none) : exec .nodeCycleBoundary s = .next s := by
  refine congrArg Host.Outcome.next ?_
  rw [h]
  exact ite_self s

/-- Under a locked TB0 the boundary lies no earlier than the lock, and half a cycle after the one before. -/
theorem boundaryAt_of_locked {s : State} {at_ : Nat} (hlock : tb0Locked s = true) (h : boundaryAt s = some at_) :
    at_ ≤ s.mono ∧ s.time.lockedAt ≤ at_ ∧ cycleTicks s ≤ 2 * (at_ - s.time.lastBoundary) := by
  rw [boundaryAt, if_pos hlock] at h
  obtain ⟨hbounds, hat⟩ := Option.ite_none_right_eq_some.1 h
  obtain rfl := Option.some.inj hat
  exact ⟨Nat.sub_le _ _, hbounds⟩

/-- Before the lock whole cycles of the local oscillator are counted out. -/
theorem boundaryAt_of_unlocked {s : State} {at_ : Nat} (hlock : tb0Locked s = false) (h : boundaryAt s = some at_) :
    at_ = s.mono - (s.mono - s.time.lastBoundary) % max 1 (cycleTicks s)
      ∧ cycleTicks s ≤ s.mono - s.time.lastBoundary := by
  rw [boundaryAt, if_neg (by simp [hlock])] at h
  obtain ⟨hdue, hat⟩ := Option.ite_none_right_eq_some.1 h
  exact ⟨(Option.some.inj hat).symm, hdue⟩

/-- Of a time of at least one cycle, what is left of the last whole cycle leaves a cycle or more. -/
theorem le_sub_mod {d c : Nat} (hc : 0 < c) (h : c ≤ d) : c ≤ d - d % c := by
  have hdiv : 1 ≤ d / c := (Nat.one_le_div_iff hc).2 h
  calc c = c * 1 := (Nat.mul_one c).symm
    _ ≤ c * (d / c) := Nat.mul_le_mul_left c hdiv
    _ = d - d % c := (Nat.sub_eq_of_eq_add (Nat.div_add_mod d c).symm).symm

/-- No boundary makes a cycle shorter than half its length (R18). -/
theorem cycleTicks_le_of_boundaryAt {s : State} {at_ : Nat} (hpos : 0 < cycleTicks s)
    (h : boundaryAt s = some at_) : cycleTicks s ≤ 2 * (at_ - s.time.lastBoundary) ∧ at_ ≤ s.mono := by
  cases hlock : tb0Locked s
  · obtain ⟨rfl, hdue⟩ := boundaryAt_of_unlocked hlock h
    rw [Nat.max_eq_right hpos]
    have hwhole := le_sub_mod hpos hdue
    omega
  · obtain ⟨hmono, _, hhalf⟩ := boundaryAt_of_locked hlock h
    exact ⟨hhalf, hmono⟩

/-- A cycle length of the node is an even number of nanoseconds. -/
theorem cycleLen_eq {s : State} (h : s.time.cycleLen ∈ [5000, 10000, 20000, 25000, 50000, 100000]) :
    s.time.cycleLen = 2 * cycleTicks s ∧ 0 < cycleTicks s := by
  have hall : ∀ n ∈ [5000, 10000, 20000, 25000, 50000, 100000], n = 2 * (n / 2) ∧ 0 < n / 2 := by decide
  exact hall _ h

/-- Settles O13: a boundary that is due runs its orders in turn, and where it lies is arithmetic. -/
theorem boundaryOrder : Obligations.BoundaryOrder := by
  refine ⟨fun s at_ hout hrun hdue => exec_nodeCycleBoundary_of_due hout hrun hdue,
    fun s => exec_nodeCycleBoundary_of_none, fun s at_ hlen _ hdue => ?_⟩
  obtain ⟨hticks, hpos⟩ := cycleLen_eq hlen
  obtain ⟨hhalf, hmono⟩ := cycleTicks_le_of_boundaryAt hpos hdue
  refine ⟨?_, hmono, fun hlock => ?_⟩
  · omega
  · obtain ⟨_, hlocked, _⟩ := boundaryAt_of_locked hlock hdue
    exact hlocked

end Sys2Proof.Machine

/-! # Proofs: requests at their target, fences and the bridge -/

namespace Sys2Proof.Machine

/-- Settles O1: a step of a queue with a front is its second equation. -/
theorem stepRunsFrontCommand : Obligations.StepRunsFrontCommand := fun _ _ _ => rfl

/-! ### Codes of refusal -/

theorem ite_ne_some_ok {p : Prop} [Decidable p] {c : Nat} {o : Option Nat} (hc : c ≠ codeOK) (ho : o ≠ some codeOK) :
    (if p then some c else o) ≠ some codeOK := by
  split
  · exact fun h => hc (Option.some.inj h)
  · exact ho

theorem fenceCode_ne_ok (s : State) (u : Nat) : fenceCode s u ≠ some codeOK :=
  ite_ne_some_ok (by decide) <| ite_ne_some_ok (by decide) <| ite_ne_some_ok (by decide) <|
    ite_ne_some_ok (by decide) nofun

theorem unitCode_ne_ok (s : State) (r : Request) : unitCode s r ≠ some codeOK := by
  refine ite_ne_some_ok (by decide) ?_
  split
  · nofun
  · split
    next hf => exact hf ▸ fenceCode_ne_ok s _
    next => exact ite_ne_some_ok (by decide) nofun

/-- An access that is refused is refused with a code other than OK. -/
theorem accessCode_ne_ok {s : State} {r : Request} {n c : Nat} (h : accessCode s r n = some c) : c ≠ codeOK := by
  suffices hne : accessCode s r n ≠ some codeOK by
    rintro rfl
    exact hne h
  dsimp only [accessCode]
  split
  next hu => exact hu ▸ unitCode_ne_ok s r
  next => exact ite_ne_some_ok (by decide) <| ite_ne_some_ok (by decide) <| ite_ne_some_ok (by decide) <|
    ite_ne_some_ok (by decide) <| ite_ne_some_ok (by decide) nofun

/-- A completion without data delivers zeros. -/
theorem responseData_nil (op : TxnOp) (count : Nat) (wide : Bool) (code : Nat) :
    responseData op count wide code [] = List.replicate (responseLen op count wide) 0 := by
  simp [responseData, padTo]

/-! ### How a request ends -/

theorem noteExecuted_local {r : Request} (h : r.local_ = true) (s : State) : noteExecuted s r = s := by
  simp [noteExecuted, h]

theorem finishRequest_of_lt {s : State} {k : Nat} (h : k < s.txn.reqs.length) (r : Request) (code : Nat)
    (data : List Byte) : finishRequest s k r code data
      = completeRequest (s.withTxn { s.txn with reqs := s.txn.reqs.eraseIdx k }) r code data := if_pos h

section
variable {r : Request} (hop : r.op = .wrPosted)
include hop

/-- A posted write that succeeds ends silently (R41). -/
theorem completeRequest_posted_ok (s : State) (data : List Byte) :
    completeRequest s r codeOK data = noteExecuted s r := by
  simp [completeRequest, hop]

theorem completeRequest_posted_local (hl : r.local_ = true) {code : Nat} (hc : code ≠ codeOK) (s : State)
    (data : List Byte) : completeRequest s r code data
      = logPostFault s r.tag r.initiator r.addr (opCode r.op) code r.x r.ts := by
  simp [completeRequest, hop, hl, hc, noteExecuted_local hl]

theorem completeRequest_posted_ring (hl : r.local_ = false) {code : Nat} (hc : code ≠ codeOK) (s : State)
    (data : List Byte) : completeRequest s r code data = sendPostFault (noteExecuted s r) r code := by
  simp [completeRequest, hop, hl, hc]

end

theorem completeRequest_ring {r : Request} (hop : r.op ≠ .wrPosted) (hl : r.local_ = false) (s : State) (code : Nat)
    (data : List Byte) : completeRequest s r code data = sendResponse (noteExecuted s r) r code data := by
  simp [completeRequest, hop, hl]

/-! ### Reads, writes and read-modify-writes by command -/

section
variable {s : State} {k : Nat} {r : Request}

theorem lt_of_requestAt {op : TxnOp} (h : requestAt s k op = some r) : k < s.txn.reqs.length :=
  (List.getElem?_eq_some_iff.1 (requestAt_some h).1).1

theorem exec_rd (h : requestAt s k .rd = some r) : exec (.rd k) s = .next (performRead s k r) := by
  change Host.Outcome.next _ = _
  rw [h]

theorem exec_wrAck (h : requestAt s k .wrAck = some r) : exec (.wrAck k) s = .next (performWrite s k r) := by
  change Host.Outcome.next _ = _
  rw [h]

theorem exec_wrPosted (h : requestAt s k .wrPosted = some r) :
    exec (.wrPosted k) s = .next (performWrite s k r) := by
  change Host.Outcome.next _ = _
  rw [h]

theorem exec_rmw {i : Instr} {op : TxnOp}
    (hi : (i, op) ∈ [(Instr.rmwSet k, TxnOp.rmwSet), (.rmwClr k, .rmwClr), (.rmwSwap k, .rmwSwap)])
    (h : requestAt s k op = some r) : exec i s = .next (performRmw s k r) := by
  simp only [List.mem_cons, List.not_mem_nil, or_false, Prod.mk.injEq] at hi
  obtain ⟨rfl, rfl⟩ | ⟨rfl, rfl⟩ | ⟨rfl, rfl⟩ := hi
  all_goals
    change Host.Outcome.next _ = _
    rw [h]

theorem performRead_of_refused {c : Nat} (h : accessCode s r r.count = some c) :
    performRead s k r = finishRequest s k r c [] := by
  rw [performRead, h]

theorem performWrite_of_refused {c : Nat} (h : accessCode s r r.count = some c) :
    performWrite s k r = finishRequest s k r c [] := by
  rw [performWrite, h]

theorem performRmw_of_refused {c : Nat} (h : accessCode s r (if r.wide then 8 else 4) = some c) :
    performRmw s k r = finishRequest s k r c [] := by
  rw [performRmw, h]

/-- A write that no rule refuses and no bridge takes ends with what its target answers. -/
theorem performWrite_of_target (hacc : accessCode s r r.count = none)
    (hb : inBridge s (unitOfAddr r.addr) (offOfAddr r.addr) = false) :
    performWrite s k r = finishRequest (writeTarget s r).1 k r (writeTarget s r).2 [] := by
  rw [performWrite, hacc]
  exact if_neg (by simp [hb])

/-- A read-modify-write whose read succeeds ends with what its write answers; a refused write has done nothing. -/
theorem performRmw_of_read {t t' : State} {old : List Byte} {n c : Nat} (hn : n = if r.wide then 8 else 4)
    (hacc : accessCode s r n = none)
    (hread : readAt s (unitOfAddr r.addr) (offOfAddr r.addr) n false = (t, old, codeOK))
    (hwrite : writeAt t r.who (unitOfAddr r.addr) (offOfAddr r.addr)
      (leBytes n (rmwWord r.op (ofLe (padTo n old)) (ofLe (padTo n r.data)))) = (t', c)) :
    performRmw s k r = if c = codeOK then finishRequest t' k r codeOK old else finishRequest s k r c [] := by
  rw [performRmw, ← hn, hacc]
  cases c <;> simp [hread, hwrite, codeOK]

/-- The commands of reads and read-modify-writes end at once where the access is refused. -/
theorem exec_refused {c : Instr} {op : TxnOp} {code : Nat}
    (hc : (c, op) ∈ [(Instr.rd k, TxnOp.rd), (.rmwSet k, .rmwSet), (.rmwClr k, .rmwClr), (.rmwSwap k, .rmwSwap)])
    (hreq : requestAt s k op = some r)
    (hacc : accessCode s r (if op = .rd then r.count else if r.wide then 8 else 4) = some code) :
    exec c s = .next (finishRequest s k r code []) := by
  obtain hrd | hrmw := List.mem_cons.1 hc
  · cases hrd
    rw [exec_rd hreq, performRead_of_refused hacc]
  · have hop : op ≠ .rd := by
      rintro rfl
      simp at hrmw
    rw [if_neg hop] at hacc
    rw [exec_rmw hrmw hreq, performRmw_of_refused hacc]

end

/-- A read or read-modify-write responds with the bytes it asks for. -/
theorem responseLen_of_access {k count : Nat} {wide : Bool} {c : Instr} {op : TxnOp}
    (hc : (c, op) ∈ [(Instr.rd k, TxnOp.rd), (.rmwSet k, .rmwSet), (.rmwClr k, .rmwClr), (.rmwSwap k, .rmwSwap)]) :
    responseLen op count wide = (if op = .rd then count else if wide then 8 else 4) ∧ op ≠ .wrPosted := by
  simp only [List.mem_cons, List.not_mem_nil, or_false, Prod.mk.injEq] at hc
  obtain ⟨-, rfl⟩ | ⟨-, rfl⟩ | ⟨-, rfl⟩ | ⟨-, rfl⟩ := hc <;> exact ⟨rfl, by decide⟩

/-- Settles O19: the request ends at its initiator with no data, which reads as zeros. -/
theorem refusedAccessDeliversZeros : Obligations.RefusedAccessDeliversZeros := by
  intro s k r e op code n c hc hn hreq hl hacc he hop hcount hwide hser hpoll haddr
  subst hn
  obtain ⟨hlen, hposted⟩ := responseLen_of_access (count := r.count) (wide := r.wide) hc
  have hexec := exec_refused hc hreq hacc
  rw [finishRequest_local (lt_of_requestAt hreq) hl ((requestAt_some hreq).2 ▸ hposted) he hser hpoll haddr,
    responseData_nil, hop, hcount, hwide, hlen] at hexec
  exact ⟨_, hexec, rfl, rfl, rfl, rfl, rfl, rfl⟩

/-- Settles O21: the new word bit by bit, and how the two accesses end. -/
theorem readModifyWrite : Obligations.ReadModifyWrite := by
  refine ⟨fun old m i => ⟨Nat.testBit_or .., ?_, rfl⟩,
    fun s t t' k c r op old i hi hreq hacc hread hwrite => ?_⟩
  · rw [rmwWord, Nat.testBit_xor, Nat.testBit_and]
    cases old.testBit i <;> cases m.testBit i <;> rfl
  · obtain ⟨-, rfl⟩ := requestAt_some hreq
    rw [exec_rmw hi hreq, performRmw_of_read rfl hacc hread hwrite]

/-! ### Fences -/

section
variable {s : State} {k : Nat} {r : Request}

theorem exec_fence (hk : s.txn.reqs[k]? = some r) (hop : r.op = .fence) (hw : r.waiting = false)
    (hruns : txnRuns s = true) : exec (.fence k) s = .next (if unitOfAddr r.addr ≠ 0 ∨ offOfAddr r.addr ≠ 0 then
      finishRequest s k r codeADDR_ERROR [] else markWaiting s k r) := by
  change Host.Outcome.next _ = _
  rw [hk]
  exact congrArg Host.Outcome.next (if_pos ⟨hop, hw, hruns⟩)

theorem exec_fenceRelease_of_blocked (hk : s.txn.reqs[k]? = some r) (h : mayExecute s k r = false) :
    exec (.fenceRelease k) s = .next s := by
  change Host.Outcome.next _ = _
  rw [hk]
  exact congrArg Host.Outcome.next (if_neg (by simp [h]))

theorem exec_fenceRelease (hk : s.txn.reqs[k]? = some r) (hop : r.op = .fence) (hw : r.waiting = true)
    (hmay : mayExecute s k r = true) : exec (.fenceRelease k) s = .next (releaseFence s k r) := by
  change Host.Outcome.next _ = _
  rw [hk]
  exact congrArg Host.Outcome.next (if_pos ⟨hop, hw, hmay⟩)

/-- An earlier request of its source and side keeps a fence from being released (R58). -/
theorem mayExecute_fence_of_earlier {x : Request} (hop : r.op = .fence) (hx : x ∈ s.txn.reqs.take k)
    (hsrc : sameSource x r = true) : mayExecute s k r = false := by
  have hblocks : blocks x r = true := by simp [blocks, hsrc, hop]
  have hany : (s.txn.reqs.take k).any (fun x => blocks x r) = true := List.any_eq_true.2 ⟨x, hx, hblocks⟩
  rw [mayExecute, hany]
  exact Bool.and_false _

end

/-! ### Sequence numbers -/

/-- What is known of a source, found or new, bears its node and side. -/
theorem seqRxOf_key (s : State) (node : Nat) (side : Bool) :
    (seqRxOf s node side).node = node ∧ (seqRxOf s node side).side = side := by
  unfold seqRxOf
  cases h : s.txn.seqRx.find? (fun e => e.node = node && e.side = side) with
  | none => exact ⟨rfl, rfl⟩
  | some e => simpa using List.find?_some h

theorem seqRxOf_setSeqRx {e : SeqRx} {node : Nat} {side : Bool} (h : e.node = node ∧ e.side = side) (s : State) :
    seqRxOf (setSeqRx s e) node side = e := by
  simp [seqRxOf, setSeqRx, h.1, h.2]

/-- Settles O22: what a fence waits for, and how it ends. -/
theorem fences : Obligations.Fences := by
  refine ⟨fun s k r hk hop hw hruns => ?_,
    fun s k r x hk hop hx hsrc => exec_fenceRelease_of_blocked hk (mayExecute_fence_of_earlier hop hx hsrc),
    fun s k r hk hop hw hmay hl => ?_, fun s k r hk hop hw hmay hl => ⟨?_, ?_⟩⟩
  all_goals have hlt : k < s.txn.reqs.length := (List.getElem?_eq_some_iff.1 hk).1
  all_goals have hposted : r.op ≠ .wrPosted := by simp [hop]
  · rw [exec_fence hk hop hw hruns, finishRequest_of_lt hlt]
    rfl
  · rw [exec_fenceRelease hk hop hw hmay, releaseFence, if_pos hl, finishRequest_of_lt hlt]
    simp [completeRequest, hl, hposted, noteExecuted_local hl]
  · rw [exec_fenceRelease hk hop hw hmay, releaseFence, if_neg (by simp [hl])]
    dsimp only
    rw [finishRequest_of_lt (by exact hlt), completeRequest_ring hposted hl]
    rfl
  · exact congrArg SeqRx.loss (seqRxOf_setSeqRx (e := { seqRxOf s r.node r.side with loss := false })
      (seqRxOf_key s r.node r.side) s)

/-! ### The bridge -/

/-- What each end of an I2C transfer that runs leaves, the counters among it (R39, R68). -/
theorem exec_i2cTransferComplete {s : State} {bus k : Nat} {r : Request} (hbus : bus < 16)
    (hon : onBus s bus = some (k, r)) (lost : Nat) (data : List Byte) :
    let u := addF s F.I2B_ARB_CNT_COUNT (min 2 lost)
    exec (.i2cTransferComplete bus ⟨.done, lost⟩ data) s = .next (finishRequest u k r codeOK data)
    ∧ exec (.i2cTransferComplete bus ⟨.addrNack, lost⟩ data) s
      = .next (finishRequest (incF u F.I2B_NACK_CNT_COUNT) k r codeADDR_ERROR [])
    ∧ exec (.i2cTransferComplete bus ⟨.dataNack, lost⟩ data) s
      = .next (finishRequest (incF u F.I2B_NACK_CNT_COUNT) k r codeACCESS_DENIED [])
    ∧ exec (.i2cTransferComplete bus ⟨.arbLost3, lost⟩ data) s
      = .next (finishRequest (addF s F.I2B_ARB_CNT_COUNT 3) k r codeREFUSED_BUSY []) := by
  refine ⟨?_, ?_, ?_, ?_⟩
  all_goals
    change Host.Outcome.next _ = _
    rw [if_pos hbus, hon]
    rfl

theorem exec_i2cStretchTimeout {s : State} {bus k : Nat} {r : Request} (hbus : bus < 16)
    (hon : onBus s bus = some (k, r)) (heldUs : Nat) :
    exec (.i2cStretchTimeout ⟨bus, heldUs⟩) s = .next (if stretchLimit s bus < heldUs then
      finishRequest (output (incF s F.I2B_STRETCH_CNT_COUNT) (.i2cStop bus 9)) k r codeTIMEOUT [] else s) := by
  change Host.Outcome.next _ = _
  dsimp only
  by_cases hlong : stretchLimit s bus < heldUs
  · rw [if_pos ⟨hbus, hlong⟩, hon, if_pos hlong]
  · rw [if_neg (fun h => hlong h.2), if_neg hlong]

theorem exec_mdioTransferComplete {s : State} {bus k : Nat} {r : Request} (hbus : bus < 2)
    (hon : onBus s (16 + bus) = some (k, r)) (driven : Bool) (v : BitVec 16) :
    exec (.mdioTransferComplete bus driven v) s = .next (if r.op = .rd ∧ driven = false then
      finishRequest s k r codeADDR_ERROR [] else finishRequest s k r codeOK (beBytes 2 v.toNat)) := by
  change Host.Outcome.next _ = _
  rw [if_pos hbus, hon]

/-- Settles O27: the ends of a transfer, one by one. -/
theorem bridgeCodes : Obligations.BridgeCodes := by
  refine fun s bus k lost heldUs r data v => ⟨fun hbus hon => ?_, fun hbus hon => ⟨?_, ?_, ?_⟩⟩
  · obtain ⟨hdone, haddr, hdata, harb⟩ := exec_i2cTransferComplete hbus hon lost data
    exact ⟨⟨hdone, haddr, hdata⟩, harb, exec_i2cStretchTimeout hbus hon heldUs⟩
  · intro hrd
    rw [exec_mdioTransferComplete hbus hon, if_pos ⟨hrd, rfl⟩]
  · rw [exec_mdioTransferComplete hbus hon, if_neg (by simp)]
  · intro hwr driven
    rw [exec_mdioTransferComplete hbus hon, if_neg (fun h => hwr h.1)]

end Sys2Proof.Machine

/-! # Proofs: posted faults, responses and tags that time out -/

namespace Sys2Proof.Machine

/-! ### Counters -/

theorem getF_incF_same (s : State) {f : Fld} (h : f.lo + f.width ≤ 32) :
    getF (incF s f) f = (getF s f + 1) % 2 ^ f.width := getF_setF_same s f _ h

/-- A field of another register keeps its value. -/
theorem getF_setF_apart (s : State) {f g : Fld} (n : Nat) (h : g.key ≠ f.key) : getF (setF s f n) g = getF s g :=
  getF_congr (regWord_setF_other s n h)

theorem getF_incF_apart (s : State) {f g : Fld} (h : g.key ≠ f.key) : getF (incF s f) g = getF s g :=
  getF_setF_apart s _ h

theorem getF_ite_incF_apart (s : State) {f g : Fld} (c : Prop) [Decidable c] (h : g.key ≠ f.key) :
    getF (if c then incF s f else s) g = getF s g := by
  split
  · exact getF_incF_apart s h
  · rfl

@[simp] theorem getF_memWrite (s : State) (a : Nat) (bs : List Byte) (f : Fld) : getF (memWrite s a bs) f = getF s f :=
  rfl

/-! ### The posted-fault log (R57) -/

/-- Where entry `i` of the posted-fault log stands. -/
def faultEntryAt (i : Nat) : Nat := keyOf unitSYS (0x10000 + 16 * i)

/-- The 16 bytes of an entry of the posted-fault log. -/
def faultEntry (s : State) (tag initiator : Nat) (addr : BitVec 48) (op code : Nat) (x ts : Bool) : List Byte :=
  leBytes 4 (getF s F.SYS_PFL_TOTAL_TOTAL % 65536 + tag % 256 * 2 ^ 16 + initiator % 256 * 2 ^ 24)
    ++ leBytes 6 addr.toNat ++ leBytes 2 (code % 16 + op % 16 * 16 + bit01 x * 256 + bit01 ts * 512)
    ++ leBytes 4 (tb2Us s)

theorem faultEntry_length (s : State) (tag initiator : Nat) (addr : BitVec 48) (op code : Nat) (x ts : Bool) :
    (faultEntry s tag initiator addr op code x ts).length = 16 := by
  simp [faultEntry]

/-- An entry written, the index moved on, the total counted. -/
def faultStored (s : State) (entry : List Byte) : State :=
  incF (setF (memWrite s (faultEntryAt (getF s F.SYS_PFL_STAT_WR_IDX)) entry) F.SYS_PFL_STAT_WR_IDX
    (getF s F.SYS_PFL_STAT_WR_IDX + 1)) F.SYS_PFL_TOTAL_TOTAL

@[simp] theorem faultStored_txn (s : State) (entry : List Byte) : (faultStored s entry).txn = s.txn := rfl
@[simp] theorem faultStored_outs (s : State) (entry : List Byte) : (faultStored s entry).outs = s.outs := rfl
@[simp] theorem faultStored_mem (s : State) (entry : List Byte) : (faultStored s entry).mem
    = (memWrite s (faultEntryAt (getF s F.SYS_PFL_STAT_WR_IDX)) entry).mem := rfl
@[simp] theorem incF_txn (s : State) (f : Fld) : (incF s f).txn = s.txn := rfl
@[simp] theorem incF_outs (s : State) (f : Fld) : (incF s f).outs = s.outs := rfl
@[simp] theorem incF_mem (s : State) (f : Fld) : (incF s f).mem = s.mem := rfl

theorem getF_faultStored_apart (s : State) (entry : List Byte) {f : Fld}
    (hidx : f.key ≠ F.SYS_PFL_STAT_WR_IDX.key) (htot : f.key ≠ F.SYS_PFL_TOTAL_TOTAL.key) :
    getF (faultStored s entry) f = getF s f := by
  rw [faultStored, getF_incF_apart _ htot, getF_setF_apart _ _ hidx, getF_memWrite]

theorem getF_faultStored_total (s : State) (entry : List Byte) :
    getF (faultStored s entry) F.SYS_PFL_TOTAL_TOTAL = (getF s F.SYS_PFL_TOTAL_TOTAL + 1) % 2 ^ 32 := by
  rw [faultStored, getF_incF_same _ (by decide), getF_setF_apart _ _ (by decide), getF_memWrite,
    F.SYS_PFL_TOTAL_TOTAL]

theorem getF_faultStored_index (s : State) (entry : List Byte) :
    getF (faultStored s entry) F.SYS_PFL_STAT_WR_IDX = (getF s F.SYS_PFL_STAT_WR_IDX + 1) % 64 := by
  rw [faultStored, getF_incF_apart _ (by decide), getF_setF_same _ _ _ (by decide)]
  rfl

/-- The counts of the initiators lie above the log's other registers. -/
theorem countKey_ne (i : Nat) {k : Nat} (h : k < (F.SYS_PFL_CNT_COUNT 0).key) : (F.SYS_PFL_CNT_COUNT i).key ≠ k :=
  (Nat.lt_of_lt_of_le h (Nat.le_add_right _ _)).ne'

section
variable {s : State} (hq : flag s F.SYS_PFL_CFG_MQ_EN = false) (tag initiator : Nat) (addr : BitVec 48) (op code : Nat)
  (x ts : Bool)
include hq

/-- With no queue for its copy an entry is stored and counted, for its initiator too. -/
theorem logPostFault_of_quiet : logPostFault s tag initiator addr op code x ts
    = if 1 ≤ initiator ∧ initiator ≤ 4 then
        incF (faultStored s (faultEntry s tag initiator addr op code x ts)) (F.SYS_PFL_CNT_COUNT (initiator - 1))
      else faultStored s (faultEntry s tag initiator addr op code x ts) := by
  have hquiet : flag (if 1 ≤ initiator ∧ initiator ≤ 4 then
        incF (faultStored s (faultEntry s tag initiator addr op code x ts)) (F.SYS_PFL_CNT_COUNT (initiator - 1))
      else faultStored s (faultEntry s tag initiator addr op code x ts)) F.SYS_PFL_CFG_MQ_EN = false := by
    rw [flag, getF_ite_incF_apart _ _ (countKey_ne _ (by decide)).symm, getF_faultStored_apart _ _ (by decide) (by decide)]
    exact hq
  exact if_neg (Bool.eq_false_iff.1 hquiet)

theorem logPostFault_txn : (logPostFault s tag initiator addr op code x ts).txn = s.txn := by
  rw [logPostFault_of_quiet hq]
  split <;> simp

theorem logPostFault_outs : (logPostFault s tag initiator addr op code x ts).outs = s.outs := by
  rw [logPostFault_of_quiet hq]
  split <;> simp

theorem logPostFault_mem : (logPostFault s tag initiator addr op code x ts).mem
    = (memWrite s (faultEntryAt (getF s F.SYS_PFL_STAT_WR_IDX)) (faultEntry s tag initiator addr op code x ts)).mem := by
  rw [logPostFault_of_quiet hq]
  split <;> simp

theorem logPostFault_total : getF (logPostFault s tag initiator addr op code x ts) F.SYS_PFL_TOTAL_TOTAL
    = (getF s F.SYS_PFL_TOTAL_TOTAL + 1) % 2 ^ 32 := by
  rw [logPostFault_of_quiet hq, getF_ite_incF_apart _ _ (countKey_ne _ (by decide)).symm, getF_faultStored_total]

theorem logPostFault_index : getF (logPostFault s tag initiator addr op code x ts) F.SYS_PFL_STAT_WR_IDX
    = (getF s F.SYS_PFL_STAT_WR_IDX + 1) % 64 := by
  rw [logPostFault_of_quiet hq, getF_ite_incF_apart _ _ (countKey_ne _ (by decide)).symm, getF_faultStored_index]

/-- Each of the four local initiators has its own count. -/
theorem logPostFault_count {i : Nat} (hi : i < 4) :
    getF (logPostFault s tag initiator addr op code x ts) (F.SYS_PFL_CNT_COUNT i)
      = if initiator = i + 1 then (getF s (F.SYS_PFL_CNT_COUNT i) + 1) % 2 ^ 32
        else getF s (F.SYS_PFL_CNT_COUNT i) := by
  have hstored : getF (faultStored s (faultEntry s tag initiator addr op code x ts)) (F.SYS_PFL_CNT_COUNT i)
      = getF s (F.SYS_PFL_CNT_COUNT i) :=
    getF_faultStored_apart _ _ (countKey_ne i (by decide)) (countKey_ne i (by decide))
  rw [logPostFault_of_quiet hq]
  by_cases hmine : initiator = i + 1
  · subst hmine
    rw [if_pos ⟨by omega, by omega⟩, if_pos rfl, Nat.add_sub_cancel, getF_incF_same _ (by simp [F.SYS_PFL_CNT_COUNT]),
      hstored]
    simp only [F.SYS_PFL_CNT_COUNT]
  · rw [if_neg hmine, ← hstored]
    split
    · refine getF_incF_apart _ ?_
      simp only [F.SYS_PFL_CNT_COUNT]
      omega
    · rfl

/-- Memory outside the entry's 16 bytes holds. -/
theorem logPostFault_memKeptBut : memKeptBut (faultEntryAt (getF s F.SYS_PFL_STAT_WR_IDX)) 16 s
    (logPostFault s tag initiator addr op code x ts) := fun b hb =>
  (memByte_congr (logPostFault_mem hq tag initiator addr op code x ts) b).trans
    (memByte_memWrite_outside s _ b _ (by rwa [faultEntry_length]))

/-- Byte 2 of the entry is the tag. -/
theorem logPostFault_tag : memNat (logPostFault s tag initiator addr op code x ts)
    (faultEntryAt (getF s F.SYS_PFL_STAT_WR_IDX) + 2) 1 = tag % 256 := by
  rw [memNat, memRead, memRead, memByte_congr (logPostFault_mem hq tag initiator addr op code x ts),
    memByte_memWrite, faultEntry_length, if_pos ⟨by omega, by omega⟩, Nat.add_sub_cancel_left]
  simp only [faultEntry, leBytes, ofLe, List.cons_append, List.getD_cons_succ, List.getD_cons_zero,
    BitVec.toNat_ofNat]
  omega

end

/-- Settles O20: the write is its target's; what a posted one that fails leaves is the posted-fault log's entry. -/
theorem writesComplete : Obligations.WritesComplete := by
  refine ⟨fun s t k code r hreq hacc hbridge hwrite hlt => ?_, fun s t k r hreq hacc hbridge hwrite hlt => ?_,
    fun s k code r hreq hl hacc hq => ?_, fun s k code r hreq hl hacc => ?_⟩
  · rw [exec_wrAck hreq, performWrite_of_target hacc hbridge, hwrite, finishRequest_of_lt hlt]
  · rw [exec_wrPosted hreq, performWrite_of_target hacc hbridge, hwrite, finishRequest_of_lt hlt,
      completeRequest_posted_ok (requestAt_some hreq).2]
  · have hexec := exec_wrPosted hreq
    rw [performWrite_of_refused hacc, finishRequest_of_lt (lt_of_requestAt hreq),
      completeRequest_posted_local (requestAt_some hreq).2 hl (accessCode_ne_ok hacc)] at hexec
    have hq' : flag (s.withTxn { s.txn with reqs := s.txn.reqs.eraseIdx k }) F.SYS_PFL_CFG_MQ_EN = false := hq
    exact ⟨_, hexec, congrArg Txn.reqs (logPostFault_txn hq' ..), logPostFault_total hq' .., logPostFault_outs hq' ..,
      logPostFault_memKeptBut hq' _ _ _ _ _ _ _⟩
  · rw [exec_wrPosted hreq, performWrite_of_refused hacc, finishRequest_of_lt (lt_of_requestAt hreq),
      completeRequest_posted_ring (requestAt_some hreq).2 hl (accessCode_ne_ok hacc)]

/-! ### Responses and posted faults received -/

theorem trackResponse_cases (s : State) (node : Nat) (side : Bool) (n : BitVec 16) : ∃ e,
    trackResponse s node side n = setSeqRx s e ∨ trackResponse s node side n = incF (setSeqRx s e) F.SYS_TXN_LOSS_COUNT := by
  dsimp only [trackResponse]
  split
  · exact ⟨_, .inr rfl⟩
  · exact ⟨_, .inl rfl⟩

/-- A response number changes what is known of its source and counts a loss at most. -/
theorem trackResponse_frame (s : State) (node : Nat) (side : Bool) (n : BitVec 16) : trackResponse s node side n
    = { s with regs := (trackResponse s node side n).regs
               txn := { s.txn with seqRx := (trackResponse s node side n).txn.seqRx } } := by
  obtain ⟨e, h | h⟩ := trackResponse_cases s node side n <;> rw [h] <;> rfl

theorem getF_trackResponse (s : State) (node : Nat) (side : Bool) (n : BitVec 16) {f : Fld}
    (h : f.key ≠ F.SYS_TXN_LOSS_COUNT.key) : getF (trackResponse s node side n) f = getF s f := by
  obtain ⟨e, ht | ht⟩ := trackResponse_cases s node side n <;> rw [ht]
  · rfl
  · exact getF_incF_apart _ h

theorem takeHeld_of_find {s : State} {ty : BitVec 4} {l : LocalFrame}
    (h : s.ring.held.find? (fun x => x.frame.type = ty) = some l) :
    takeHeld s ty = some (l, s.withRing { s.ring with held := s.ring.held.erase l }) := by
  rw [takeHeld, h]

/-- The state in which a held frame has been taken and its response number noted. -/
def responseTaken (s : State) (l : LocalFrame) : State :=
  trackResponse (s.withRing { s.ring with held := s.ring.held.erase l }) l.frame.srcNode.toNat l.frame.side
    (BitVec.ofNat 16 (tsBits l.frame 16 16))

theorem responseTaken_frame (s : State) (l : LocalFrame) : responseTaken s l
    = { s with regs := (responseTaken s l).regs
               ring := { s.ring with held := s.ring.held.erase l }
               txn := { s.txn with seqRx := (responseTaken s l).txn.seqRx } } :=
  trackResponse_frame _ _ _ _

@[simp] theorem responseTaken_tags (s : State) (l : LocalFrame) : (responseTaken s l).txn.tags = s.txn.tags := by
  rw [responseTaken_frame]

@[simp] theorem responseTaken_outs (s : State) (l : LocalFrame) : (responseTaken s l).outs = s.outs := by
  rw [responseTaken_frame]

@[simp] theorem responseTaken_mem (s : State) (l : LocalFrame) : (responseTaken s l).mem = s.mem := by
  rw [responseTaken_frame]

@[simp] theorem responseTaken_odw (s : State) (l : LocalFrame) : (responseTaken s l).odw = s.odw := by
  rw [responseTaken_frame]

@[simp] theorem responseTaken_held (s : State) (l : LocalFrame) :
    (responseTaken s l).ring.held = s.ring.held.erase l := by
  rw [responseTaken_frame]

theorem getF_responseTaken (s : State) (l : LocalFrame) {f : Fld} (h : f.key ≠ F.SYS_TXN_LOSS_COUNT.key) :
    getF (responseTaken s l) f = getF s f := getF_trackResponse _ _ _ _ h

section
variable {s : State} {l : LocalFrame}

theorem exec_txnRspReceive (hheld : s.ring.held.find? (fun x => x.frame.type = tyTXN_RSP) = some l)
    (hruns : txnRuns s = true) (hside : forThisSide s l.frame = true) :
    exec .txnRspReceive s = .next (matchResponse (responseTaken s l) l.frame) := by
  change Host.Outcome.next _ = _
  rw [takeHeld_of_find hheld]
  exact congrArg Host.Outcome.next (if_pos ⟨hruns, hside⟩)

theorem exec_txnRspReceive_otherSide (hheld : s.ring.held.find? (fun x => x.frame.type = tyTXN_RSP) = some l)
    (hside : forThisSide s l.frame = false) :
    exec .txnRspReceive s = .next (s.withRing { s.ring with held := s.ring.held.erase l }) := by
  change Host.Outcome.next _ = _
  rw [takeHeld_of_find hheld]
  exact congrArg Host.Outcome.next (if_neg (fun h => Bool.false_ne_true (hside.symm.trans h.2)))

theorem exec_postFaultReceive (hheld : s.ring.held.find? (fun x => x.frame.type = tyPOST_FAULT) = some l)
    (hruns : txnRuns s = true) (hside : forThisSide s l.frame = true) :
    exec .postFaultReceive s = .next (logPostFault (responseTaken s l) (bitsAt l.frame.tsOrTxn.toNat 56 8)
      (bitsAt l.frame.tsOrTxn.toNat 48 8) (BitVec.ofNat 48 l.frame.tsOrTxn.toNat)
      (tsBits l.frame 40 1 + 2 * tsBits l.frame 37 3) (tsBits l.frame 44 4) (bitAt l.frame.typeSpecific.toNat 42)
      (bitAt l.frame.typeSpecific.toNat 41)) := by
  change Host.Outcome.next _ = _
  rw [takeHeld_of_find hheld]
  exact congrArg Host.Outcome.next (if_pos ⟨hruns, hside⟩)

end

/-- Whether a response names a tag entry: by tag, initiator and address (R50). -/
def answers (f : RingFrame) (x : TagEntry) : Bool :=
  x.tag = bitsAt f.tsOrTxn.toNat 56 8 && initiatorOf x.who = bitsAt f.tsOrTxn.toNat 48 8
    && x.addr.toNat = bitsAt f.tsOrTxn.toNat 0 48

theorem matchResponse_of_none {s : State} {f : RingFrame} (h : s.txn.tags.find? (answers f) = none) :
    matchResponse s f = incF s F.SYS_TXN_LATE_COUNT := by
  dsimp only [matchResponse]
  split
  next => rfl
  next e he => exact absurd (h.symm.trans he) nofun

theorem matchResponse_of_some {s : State} {f : RingFrame} {e : TagEntry} (h : s.txn.tags.find? (answers f) = some e)
    (hop : e.op ≠ .fence) : matchResponse s f = completeTag s e.tag (tsBits f 44 4) f.payload := by
  have htag : e.tag = bitsAt f.tsOrTxn.toNat 56 8 := by
    have hanswers := List.find?_some h
    simp only [answers, Bool.and_eq_true, decide_eq_true_eq] at hanswers
    exact hanswers.1.1
  dsimp only [matchResponse]
  split
  next hnone => exact absurd (h.symm.trans hnone) nofun
  next x hx =>
    obtain rfl := Option.some.inj (h.symm.trans hx)
    rw [if_neg hop, htag]

/-- An entry that alone bears its tag is the one found by it. -/
theorem find?_tag_of_unique {l : List TagEntry} {e : TagEntry} (he : e ∈ l) (hu : ∀ x ∈ l, x.tag = e.tag → x = e) :
    l.find? (fun x => x.tag = e.tag) = some e := by
  cases h : l.find? (fun x => x.tag = e.tag) with
  | none => exact absurd (decide_eq_true rfl) (List.find?_eq_none.1 h e he)
  | some x => exact congrArg some (hu x (List.mem_of_find?_eq_some h) (by simpa using List.find?_some h))

/-- Settles O25: what a response completes, what a late one counts, and what a posted fault leaves. -/
theorem responsesMatched : Obligations.ResponsesMatched := by
  refine ⟨fun s l e hheld hruns hside haddr hfind hu hop hpoll => ?_, fun s l hheld hruns hside hfind => ?_,
    fun s l => exec_txnRspReceive_otherSide, fun s l hheld hruns hside hq => ?_⟩
  · have hfound : (responseTaken s l).txn.tags.find? (answers l.frame) = some e := by
      rw [responseTaken_tags]
      exact hfind
    have htag : (responseTaken s l).txn.tags.find? (fun x => x.tag = e.tag) = some e := by
      rw [responseTaken_tags]
      exact find?_tag_of_unique (List.mem_of_find?_eq_some hfind) hu
    refine ⟨_, (exec_txnRspReceive hheld hruns hside).trans (congrArg Host.Outcome.next
      ((matchResponse_of_some hfound hop).trans (completeTag_done htag hpoll (by simpa using haddr)))), ?_, ?_, ?_⟩
    · exact responseTaken_held s l
    · exact congrArg _ (responseTaken_tags s l)
    · exact congrArg (· ++ _) (responseTaken_outs s l)
  · have hlate : (responseTaken s l).txn.tags.find? (answers l.frame) = none := by
      rw [responseTaken_tags]
      exact hfind
    refine ⟨_, (exec_txnRspReceive hheld hruns hside).trans (congrArg Host.Outcome.next (matchResponse_of_none hlate)),
      responseTaken_tags s l, responseTaken_outs s l, ?_⟩
    rw [getF_incF_same _ (by decide), getF_responseTaken _ _ (by decide), F.SYS_TXN_LATE_COUNT]
  · have hq' : flag (responseTaken s l) F.SYS_PFL_CFG_MQ_EN = false := by
      rw [flag, getF_responseTaken _ _ (by decide)]
      exact hq
    have hidx : getF (responseTaken s l) F.SYS_PFL_STAT_WR_IDX = getF s F.SYS_PFL_STAT_WR_IDX :=
      getF_responseTaken _ _ (by decide)
    refine ⟨_, exec_postFaultReceive hheld hruns hside, ?_, ?_, fun b hb => ?_, ?_, fun i hi => ?_⟩
    · rw [logPostFault_total hq', getF_responseTaken _ _ (by decide)]
    · rw [logPostFault_index hq', hidx]
    · rw [logPostFault_memKeptBut hq' _ _ _ _ _ _ _ b (by rwa [hidx]), memByte_congr (responseTaken_mem s l)]
    · have htag := logPostFault_tag hq' (bitsAt l.frame.tsOrTxn.toNat 56 8) (bitsAt l.frame.tsOrTxn.toNat 48 8)
        (BitVec.ofNat 48 l.frame.tsOrTxn.toNat) (tsBits l.frame 40 1 + 2 * tsBits l.frame 37 3) (tsBits l.frame 44 4)
        (bitAt l.frame.typeSpecific.toNat 42) (bitAt l.frame.typeSpecific.toNat 41)
      rw [hidx] at htag
      exact htag.trans (Nat.mod_mod _ _)
    · rw [logPostFault_count hq' _ _ _ _ _ _ _ hi, getF_responseTaken _ _ (countKey_ne i (by decide))]

/-! ### Tags that time out (R49) -/

/-- A tag number held out of use for one more timeout period. -/
def heldOut (s : State) (tag : Nat) : State :=
  startTimer (s.withTxn { s.txn with holdout := s.txn.holdout ++ [tag] }) (.holdout tag) (txnTimeoutTicks s)

theorem exec_txnTimeout {s : State} {e : TagEntry} (he : s.txn.tags.find? (fun x => x.tag = e.tag) = some e)
    (hdue : due s (.txn e.tag) = true) :
    exec (.txnTimeout e.tag) s = .next (heldOut (completeTag s e.tag codeTIMEOUT []) e.tag) := by
  have hany : s.txn.tags.any (fun x => x.tag = e.tag) = true :=
    List.any_eq_true.2 ⟨e, List.mem_of_find?_eq_some he, by simp⟩
  exact congrArg Host.Outcome.next (if_pos ⟨hdue, hany⟩)

theorem txnTimeoutTicks_congr {s t : State} (hr : t.regs = s.regs) (hv : t.ident.variant = s.ident.variant) :
    txnTimeoutTicks t = txnTimeoutTicks s := by
  rw [txnTimeoutTicks, txnTimeoutTicks, getF_congr (regWord_congr hr hv _)]

/-- Settles O26: the tag's request completes, the number is held out, and each command waits for its timer. -/
theorem tagTimeouts : Obligations.TagTimeouts := by
  refine ⟨fun s e he hdue hpoll haddr => ⟨_, exec_txnTimeout he hdue, ?_⟩, fun s tag hdue => ?_,
    fun s tag hdue => ⟨_, congrArg Host.Outcome.next (if_pos hdue), ?_, fun x hx hin => ?_, rfl⟩, fun s tag hdue => ?_⟩
  · rw [completeTag_done he hpoll haddr, responseData_nil, heldOut, lookup_startTimer, if_pos rfl,
      txnTimeoutTicks_congr (s := s) (by simp [output, stopTimer]) (by simp [output, stopTimer])]
    simp [startTimer, stopTimer, output]
  · exact congrArg Host.Outcome.next (if_neg (fun h => Bool.false_ne_true (hdue.symm.trans h.1)))
  · simp [stopTimer]
  · simpa [stopTimer, hx] using hin
  · exact congrArg Host.Outcome.next (if_neg (by simp [hdue]))

end Sys2Proof.Machine

/-! # Proofs: requests issued and requests from the ring -/

namespace Sys2Proof.Machine

/-! ### Issue (R29, R30, R47, R48) -/

theorem grantWaiting_of_none {s : State} (h : s.txn.waiting = []) : grantWaiting s = s := by
  rw [grantWaiting, h]
  rfl

/-- A request of 1 to 256 bytes by a local initiator is issued or waits. -/
theorem exec_txnIssue {s : State} {who : Origin} {t : TxnSpec} (hruns : txnRuns s = true)
    (hwho : who ∈ [Origin.mgt, .svc, .jct, .pol]) (hmin : 1 ≤ t.count) (hmax : t.count ≤ 256)
    (hdata : t.data.length ≤ 256) : exec (.txnIssue who t) s = .next (issueOrWait s who t) := by
  refine congrArg Host.Outcome.next (if_pos ⟨hruns, ?_, hmin, hmax, hdata⟩)
  simpa using hwho

theorem issueOrWait_of_issued {s u : State} {who : Origin} {t : TxnSpec} (hwait : s.txn.waiting = [])
    (h : tryIssue s who t none = some u) : issueOrWait s who t = u := by
  rw [issueOrWait, grantWaiting_of_none hwait]
  dsimp only
  rw [hwait, List.any_nil, if_neg Bool.false_ne_true, h]

/-- Who finds no tag waits or does without, behind those of its own that wait already. -/
theorem issueOrWait_of_waiting {s : State} {who : Origin} {t : TxnSpec}
    (h : (grantWaiting s).txn.waiting.any (fun w => w.1 = who) = true ∨ tryIssue (grantWaiting s) who t none = none) :
    issueOrWait s who t = if who = .mgt ∨ who = .svc then
      (grantWaiting s).withTxn { (grantWaiting s).txn with waiting := (grantWaiting s).txn.waiting ++ [(who, t)] }
      else grantWaiting s := by
  have hnone : (if (grantWaiting s).txn.waiting.any (fun w => w.1 = who) then none
      else tryIssue (grantWaiting s) who t none) = none := by
    rcases h with h | h
    · exact if_pos h
    · rw [h, ite_self]
  rw [issueOrWait]
  dsimp only
  rw [hnone]

theorem tryIssue_of_none {s : State} {who : Origin} (h : pickTag s who = none) (t : TxnSpec) (poll : Option Nat) :
    tryIssue s who t poll = none := by
  rw [tryIssue, h]

/-- A request as it is issued: only reads of the management complex and the service port prefetch. -/
def issuedSpec (who : Origin) (t : TxnSpec) : TxnSpec :=
  { t with prefetch := t.prefetch && (who = .mgt || who = .svc) && t.op = .rd }

/-- The entry of a tag given to a request. -/
def issuedTag (s : State) (who : Origin) (tag : Nat) (t : TxnSpec) : TagEntry :=
  ⟨tag, who, t.op, t.addr, t.count, t.wide, none, s.fresh + 1⟩

/-- The state in which a request that is answered has its tag. -/
def tagged (s : State) (who : Origin) (tag : Nat) (t : TxnSpec) : State :=
  startTimer ((s.withFresh (s.fresh + 1)).withTxn { s.txn with tags := s.txn.tags ++ [issuedTag s who tag t] })
    (.txn tag) (txnTimeoutTicks s)

section
variable {s : State} {who : Origin} {t : TxnSpec} {tag : Nat}

theorem tryIssue_answered (h : pickTag s who = some tag) (hop : t.op ≠ .wrPosted) :
    tryIssue s who t none = some (launch (tagged s who tag t) who tag (issuedSpec who t)) := by
  rw [tryIssue, h]
  exact if_neg hop

theorem tryIssue_posted (h : pickTag s who = some tag) (hop : t.op = .wrPosted) :
    tryIssue s who t none = some (launchPosted (s.withFresh (s.fresh + 1)) who tag (issuedSpec who t)) := by
  rw [tryIssue, h]
  exact if_pos hop

/-- No target has this address: node 255 is for posted writes only, and node 0 is this side of this hub. -/
abbrev Misdirected (s : State) (t : TxnSpec) : Prop :=
  (nodeOfAddr t.addr = 255 ∧ t.op ≠ .wrPosted) ∨ (nodeOfAddr t.addr = 0 ∧ t.x = true ∧ t.ts ≠ s.dev.side)

theorem launch_refused (h : Misdirected s t) :
    launch s who tag t = completeRequest s (localRequest s who tag t) codeADDR_ERROR [] := if_pos h

theorem launch_local (h255 : nodeOfAddr t.addr ≠ 255)
    (h0 : nodeOfAddr t.addr = 0 → t.x = true → t.ts = s.dev.side)
    (hself : targetsSelf s t = true) (hop : isReserved t.op = false) : launch s who tag t
      = s.withTxn { s.txn with reqs := s.txn.reqs ++ [localRequest s who tag t] } := by
  have hgo : ¬Misdirected s t := by
    rintro (⟨h, -⟩ | ⟨hnode, hx, hts⟩)
    · exact h255 h
    · exact hts (h0 hnode hx)
  exact (if_neg hgo).trans ((if_pos hself).trans (if_neg (by simp [hop])))

theorem launch_sent (hself : targetsSelf s t = false) (h255 : nodeOfAddr t.addr = 255 → t.op = .wrPosted) :
    launch s who tag t = sendRequest s who tag t := by
  have h0 : nodeOfAddr t.addr ≠ 0 := by
    intro h
    simp [targetsSelf, h] at hself
  have hgo : ¬Misdirected s t := by
    rintro (⟨h, hop⟩ | ⟨h, -⟩)
    · exact hop (h255 h)
    · exact h0 h
  exact (if_neg hgo).trans (if_neg (by simp [hself]))

/-- A posted write that has no frame takes no tag number (log entry 174). -/
theorem launchPosted_of_noFrame (h : (launch s who tag t).plaza.nextFid = s.plaza.nextFid) :
    launchPosted s who tag t = launch s who tag t := if_pos h

/-- A request refused at its issue completes with ADDR_ERROR and zeros, and its tag is free again. -/
theorem completeRequest_tagged (hfree : ∀ e ∈ s.txn.tags, e.tag ≠ tag) (hop : t.op ≠ .wrPosted)
    (haddr : s.odw.addr = []) (code : Nat) :
    completeRequest (tagged s who tag t) (localRequest (tagged s who tag t) who tag (issuedSpec who t)) code []
      = output (stopTimer ((tagged s who tag t).withTxn { s.txn with tags := s.txn.tags }) (.txn tag))
          (.done who tag code (List.replicate (responseLen t.op t.count t.wide) 0)) := by
  have hfind : (tagged s who tag t).txn.tags.find? (fun x => x.tag = tag) = some (issuedTag s who tag t) := by
    have hnone : s.txn.tags.find? (fun x => x.tag = tag) = none := List.find?_eq_none.2 (by simpa using hfree)
    simp [tagged, startTimer, issuedTag, hnone]
  have hkeep : (tagged s who tag t).txn.tags.filter (fun x => x.tag ≠ tag) = s.txn.tags := by
    simpa [tagged, startTimer, issuedTag] using hfree
  rw [completeRequest_local (by rfl) (by exact hop) hfind (by rfl)]
  refine (completeTag_done hfind rfl (by exact haddr)).trans ?_
  rw [hkeep, responseData_nil]
  rfl

end

/-- Settles O23: where a request goes by its node field, and who waits for a tag. -/
theorem issueByNodeField : Obligations.IssueByNodeField := by
  refine ⟨fun s who t tag hruns hwho hmin hmax hdata hwait htag haddr hfree hop hnode => ?refused,
    fun s who t tag hruns hwho hmin hmax hdata hwait htag hself h255 h0 hres => ?here,
    fun s who t tag hruns hwho hmin hmax hdata hwait htag hself h255 => ⟨fun hop => ?sent, fun hop => ?posted⟩,
    fun s who t hruns hwho hmin hmax hdata hwait htag => ?noTag,
    fun s who t hruns hwho hmin hmax hdata hbehind => ?behind, fun s u who t rest hruns hwait hissue => ?grant⟩
  case refused =>
    have hlaunch : launch (tagged s who tag t) who tag (issuedSpec who t) = _ :=
      launch_refused (hnode.imp (fun h => ⟨h, hop⟩) id)
    have hexec := exec_txnIssue hruns hwho hmin hmax hdata
    rw [issueOrWait_of_issued hwait (tryIssue_answered htag hop), hlaunch,
      completeRequest_tagged hfree hop haddr] at hexec
    exact ⟨_, hexec, rfl, rfl, rfl, rfl⟩
  case here =>
    have hexec := exec_txnIssue hruns hwho hmin hmax hdata
    by_cases hop : t.op = .wrPosted
    · have hlaunch : launch (s.withFresh (s.fresh + 1)) who tag (issuedSpec who t) = _ :=
        launch_local h255 h0 hself hres
      rw [issueOrWait_of_issued hwait (tryIssue_posted htag hop), launchPosted_of_noFrame (by rw [hlaunch]; rfl),
        hlaunch] at hexec
      exact ⟨_, _, hexec, rfl, rfl, rfl, rfl, rfl, rfl, rfl, rfl, rfl, rfl, fun h => absurd hop h, fun _ => rfl⟩
    · have hlaunch : launch (tagged s who tag t) who tag (issuedSpec who t) = _ := launch_local h255 h0 hself hres
      rw [issueOrWait_of_issued hwait (tryIssue_answered htag hop), hlaunch] at hexec
      exact ⟨_, _, hexec, rfl, rfl, rfl, rfl, rfl, rfl, rfl, rfl, rfl, rfl, fun _ => rfl, fun h => absurd h hop⟩
  case sent =>
    have hlaunch : launch (tagged s who tag t) who tag (issuedSpec who t) = _ := launch_sent hself h255
    rw [exec_txnIssue hruns hwho hmin hmax hdata, issueOrWait_of_issued hwait (tryIssue_answered htag hop), hlaunch]
    rfl
  case posted =>
    have hlaunch : launch (s.withFresh (s.fresh + 1)) who tag (issuedSpec who t) = _ := launch_sent hself h255
    rw [exec_txnIssue hruns hwho hmin hmax hdata, issueOrWait_of_issued hwait (tryIssue_posted htag hop), launchPosted,
      hlaunch]
    rfl
  case noTag =>
    rw [exec_txnIssue hruns hwho hmin hmax hdata, issueOrWait_of_waiting, grantWaiting_of_none hwait, hwait]
    · rfl
    · exact .inr (tryIssue_of_none ((grantWaiting_of_none hwait).symm ▸ htag) t none)
  case behind =>
    have hlocal : who = .mgt ∨ who = .svc := by simpa using hwho
    have hmem : who ∈ [Origin.mgt, .svc, .jct, .pol] := by
      obtain rfl | rfl := hlocal <;> decide
    rw [exec_txnIssue hruns hmem hmin hmax hdata, issueOrWait_of_waiting (.inl hbehind), if_pos hlocal]
  case grant =>
    refine congrArg Host.Outcome.next ((if_pos hruns).trans ?_)
    rw [hwait, grantTag, List.nil_append, hissue]

/-! ### Sequence numbers of requests (R54) -/

theorem compareSeq_ne_behind {exp : Option (BitVec 16)} {n : BitVec 16}
    (h : ∀ x, exp = some x → (n - x).toNat < 32768) : compareSeq exp n ≠ .behind := by
  cases exp with
  | none => nofun
  | some x =>
    rw [compareSeq, if_pos (h x rfl)]
    split <;> nofun

theorem compareSeq_eq_expected (exp : Option (BitVec 16)) (n : BitVec 16) :
    compareSeq exp n = .expected ↔ exp = some n := by
  cases exp with
  | none => exact ⟨nofun, nofun⟩
  | some x =>
    simp only [compareSeq, Option.some.injEq]
    split
    next h => exact ⟨fun _ => h.symm, fun _ => rfl⟩
    next h =>
      refine ⟨fun hexp => ?_, fun hx => absurd hx.symm h⟩
      split at hexp <;> cases hexp

/-- What is known of a source after a request number that came for the station itself and does not lie behind. -/
def seqTracked (e : SeqRx) (n : BitVec 16) : SeqRx :=
  { e with own := some (n + 1), loss := e.loss || decide (e.own ≠ some n) }

theorem trackRequest_cases (s : State) (node : Nat) (side bcast : Bool) (n : BitVec 16) : ∃ e,
    (trackRequest s node side bcast n).2 = setSeqRx s e
      ∨ (trackRequest s node side bcast n).2 = incF (setSeqRx s e) F.SYS_TXN_LOSS_COUNT :=
  ⟨_, (ite_eq_or_eq _ _ _).symm⟩

theorem trackRequest_frame (s : State) (node : Nat) (side bcast : Bool) (n : BitVec 16) :
    (trackRequest s node side bcast n).2
      = { s with regs := (trackRequest s node side bcast n).2.regs
                 txn := { s.txn with seqRx := (trackRequest s node side bcast n).2.txn.seqRx } } := by
  obtain ⟨e, h | h⟩ := trackRequest_cases s node side bcast n <;> rw [h] <;> rfl

theorem seqRxOf_trackRequest {s : State} {node : Nat} {side : Bool} {n : BitVec 16}
    (h : compareSeq (seqRxOf s node side).own n ≠ .behind) :
    seqRxOf (trackRequest s node side false n).2 node side = seqTracked (seqRxOf s node side) n := by
  have hloss : (compareSeq (seqRxOf s node side).own n != .expected) =
      decide ((seqRxOf s node side).own ≠ some n) := by
    rw [Bool.eq_iff_iff, bne_iff_ne, decide_eq_true_iff, ne_eq, ne_eq, compareSeq_eq_expected]
  have hset (t : State) : seqRxOf (setSeqRx t (seqTracked (seqRxOf s node side) n)) node side
      = seqTracked (seqRxOf s node side) n :=
    seqRxOf_setSeqRx (e := seqTracked (seqRxOf s node side) n) (seqRxOf_key s node side) t
  simp only [trackRequest, Bool.false_eq_true, if_false, h, hloss]
  split
  · exact hset s
  · exact hset s

/-! ### Requests taken from the receive buffer (R30, R52, R63, R64) -/

theorem refillRequests_frame (s : State) : refillRequests s = s.withRing (refillRequests s).ring := by
  refine List.foldlRecOn (motive := fun t => t = s.withRing t.ring) s.ring.waitReq _ rfl fun t ht x _ => ?_
  dsimp only
  split
  · rw [ht]
    rfl
  · exact ht

theorem refillRequests_of_none {s : State} (h : s.ring.waitReq = []) : refillRequests s = s := by
  rw [refillRequests, h]
  rfl

/-- The state in which the oldest request has left the receive buffer and one that waits has moved up. -/
def requestTaken (s : State) (rest : List LocalFrame) : State :=
  refillRequests (s.withRing { s.ring with heldReq := rest })

theorem requestTaken_frame (s : State) (rest : List LocalFrame) :
    requestTaken s rest = s.withRing (requestTaken s rest).ring := by
  rw [requestTaken, refillRequests_frame]
  rfl

/-- How the number of a request for the station itself compares with the one expected. -/
def requestOrder (s : State) (l : LocalFrame) : SeqVerdict :=
  compareSeq (seqRxOf s (requestOf l).node (requestOf l).side).own (requestSeq l)

/-- The state in which a request has been taken and its number noted. -/
def requestNoted (s : State) (l : LocalFrame) (rest : List LocalFrame) : State :=
  (trackRequest (requestTaken s rest) (requestOf l).node (requestOf l).side (l.frame.destNode = 255) (requestSeq l)).2

theorem requestNoted_frame (s : State) (l : LocalFrame) (rest : List LocalFrame) : requestNoted s l rest
    = { s with regs := (requestNoted s l rest).regs
               ring := (requestTaken s rest).ring
               txn := { s.txn with seqRx := (requestNoted s l rest).txn.seqRx } } := by
  obtain ⟨ring, htaken⟩ : ∃ ring, requestTaken s rest = s.withRing ring := ⟨_, requestTaken_frame s rest⟩
  rw [requestNoted, htaken]
  exact trackRequest_frame _ _ _ _ _

@[simp] theorem requestNoted_ring (s : State) (l : LocalFrame) (rest : List LocalFrame) :
    (requestNoted s l rest).ring = (requestTaken s rest).ring := by
  rw [requestNoted_frame]

@[simp] theorem requestNoted_reqs (s : State) (l : LocalFrame) (rest : List LocalFrame) :
    (requestNoted s l rest).txn.reqs = s.txn.reqs := by
  rw [requestNoted_frame]

@[simp] theorem requestNoted_plaza (s : State) (l : LocalFrame) (rest : List LocalFrame) :
    (requestNoted s l rest).plaza = s.plaza := by
  rw [requestNoted_frame]

@[simp] theorem requestNoted_outs (s : State) (l : LocalFrame) (rest : List LocalFrame) :
    (requestNoted s l rest).outs = s.outs := by
  rw [requestNoted_frame]

theorem executes_requestNoted (s : State) (l : LocalFrame) (rest : List LocalFrame) (r : Request) :
    executes (requestNoted s l rest) r = executes s r := by
  rw [requestNoted_frame]
  rfl

theorem openRing_requestNoted (s : State) (l : LocalFrame) (rest : List LocalFrame) :
    openRing (requestNoted s l rest) = openRing s := by
  rw [requestNoted_frame]
  rfl

theorem requestsHeld_requestNoted (s : State) (l : LocalFrame) (rest : List LocalFrame) :
    requestsHeld (requestNoted s l rest) = requestsHeld s := by
  rw [requestNoted_frame]
  rfl

theorem seqRxOf_requestTaken (s : State) (rest : List LocalFrame) (node : Nat) (side : Bool) :
    seqRxOf (requestTaken s rest) node side = seqRxOf s node side := by
  rw [requestTaken_frame]
  rfl

section
variable {s : State} {c : Instr} {l : LocalFrame} {rest : List LocalFrame}

theorem exec_admit (hc : c ∈ [Instr.txnReqReceive, .heldRequestAdmit]) :
    exec c s = .next (if txnRuns s then admitRequest s else s) := by
  simp only [List.mem_cons, List.not_mem_nil, or_false] at hc
  obtain rfl | rfl := hc <;> rfl

theorem exec_admit_of_room (hc : c ∈ [Instr.txnReqReceive, .heldRequestAdmit]) (hruns : txnRuns s = true)
    (hheld : s.ring.heldReq = l :: rest) (hroom : requestRoom s = true) :
    exec c s = .next (takeRequest (requestTaken s rest) l) := by
  rw [exec_admit hc, if_pos hruns, admitRequest, hheld]
  exact congrArg Host.Outcome.next (if_pos hroom)

theorem admitRequest_of_full (h : requestRoom s = false) : admitRequest s = s := by
  rw [admitRequest]
  split
  · rfl
  · exact if_neg (by simp [h])

/-- Of a request that another hub executes only the number is noted, and in shadow the request itself (R325). -/
theorem takeRequest_of_other (rest : List LocalFrame) (h : executes s (requestOf l) = false) :
    takeRequest (requestTaken s rest) l = requestNoted s l rest
      ∨ takeRequest (requestTaken s rest) l = (requestNoted s l rest).withTxn
        { (requestNoted s l rest).txn with recorded := (requestNoted s l rest).txn.recorded ++ [l] } := by
  have hother : (!executes (requestNoted s l rest) (requestOf l)) = true := by
    rw [executes_requestNoted, h]
    rfl
  dsimp only [takeRequest]
  rw [if_pos (by exact hother)]
  exact (ite_eq_or_eq _ _ _).symm

theorem takeRequest_of_own (rest : List LocalFrame) (hex : executes s (requestOf l) = true)
    (hdest : l.frame.destNode ≠ 255) (horder : requestOrder s l ≠ .behind) :
    takeRequest (requestTaken s rest) l = serveRequest (requestNoted s l rest) l := by
  have hother : ¬(!executes (requestNoted s l rest) (requestOf l)) = true := by
    rw [executes_requestNoted, hex]
    exact Bool.false_ne_true
  have hverdict : (trackRequest (requestTaken s rest) (requestOf l).node (requestOf l).side (l.frame.destNode = 255)
      (requestSeq l)).1 = requestOrder s l := by
    simp only [trackRequest, decide_eq_false hdest, Bool.false_eq_true, if_false, requestOrder, seqRxOf_requestTaken]
  dsimp only [takeRequest]
  rw [if_neg (by exact hother), hverdict, if_neg horder]
  rfl

theorem seqRxOf_requestNoted (rest : List LocalFrame) (hdest : l.frame.destNode ≠ 255)
    (horder : requestOrder s l ≠ .behind) :
    seqRxOf (requestNoted s l rest) (requestOf l).node (requestOf l).side
      = seqTracked (seqRxOf s (requestOf l).node (requestOf l).side) (requestSeq l) := by
  rw [requestNoted, decide_eq_false hdest, seqRxOf_trackRequest, seqRxOf_requestTaken]
  rw [seqRxOf_requestTaken]
  exact horder

theorem serveRequest_of_room (hclear : (requestOf l).clr = false ∨ openRing s = true)
    (hop : isReserved (requestOf l).op = false) (hunit : l.frame.destUnit.toNat = unitOfAddr (requestOf l).addr)
    (hroom : requestsHeld s < 128) :
    serveRequest s l = s.withTxn { s.txn with reqs := s.txn.reqs ++ [requestOf l] } := by
  have hopen : ¬((requestOf l).clr && !openRing s) = true := by
    obtain h | h := hclear <;> simp [h]
  exact (if_neg hopen).trans ((if_neg (by simp [hop, hunit])).trans (if_pos hroom))

theorem serveRequest_of_closed (hclr : (requestOf l).clr = true) (hopen : openRing s = false) :
    serveRequest s l = completeRequest s (requestOf l) codeACCESS_DENIED [] :=
  if_pos (by simp [hclr, hopen])

end

/-- Settles O24: what becomes of the oldest request held. -/
theorem ringRequestsTracked : Obligations.RingRequestsTracked := by
  refine ⟨fun s c l rest hc hruns hheld hroom hdest hex hop hunit hclear => ?enters,
    fun s c l rest hc hruns hheld hroom hex => ?other,
    fun s c l rest hc hruns hheld hroom hex hdest hclr hclosed hahead => ?closed, fun s c hc hfull => ?full⟩
  case full =>
    rw [exec_admit hc, admitRequest_of_full hfull, ite_self]
  case enters =>
    intro r n e hahead
    have horder : requestOrder s l ≠ .behind := by
      refine compareSeq_ne_behind fun x hx => ?_
      obtain hnone | ⟨y, hy, hlt⟩ := hahead
      · exact absurd (hnone.symm.trans hx) nofun
      · exact Option.some.inj (hy.symm.trans hx) ▸ hlt
    have hseq := seqRxOf_requestNoted rest hdest horder
    have hexec := exec_admit_of_room hc hruns hheld (by simp [requestRoom, hroom])
    rw [takeRequest_of_own rest hex hdest horder, serveRequest_of_room
      (hclear.imp id (openRing_requestNoted s l rest).trans) hop hunit (by rwa [requestsHeld_requestNoted])] at hexec
    refine ⟨_, hexec, requestNoted_ring s l rest, fun hnone => ?_, ?_, congrArg SeqRx.own hseq,
      congrArg SeqRx.loss hseq, requestNoted_outs s l rest⟩
    · refine (congrArg Ring.heldReq (requestNoted_ring s l rest)).trans ?_
      rw [requestTaken, refillRequests_of_none (by exact hnone)]
      rfl
    · exact congrArg (· ++ [requestOf l]) (requestNoted_reqs s l rest)
  case other =>
    have hexec := exec_admit_of_room hc hruns hheld hroom
    obtain h | h := takeRequest_of_other rest hex
    all_goals
      rw [h] at hexec
      exact ⟨_, hexec, requestNoted_ring s l rest, requestNoted_reqs s l rest, requestNoted_plaza s l rest,
        requestNoted_outs s l rest⟩
  case closed =>
    refine ⟨requestNoted s l rest, ?_, requestNoted_reqs s l rest⟩
    rw [exec_admit_of_room hc hruns hheld hroom, takeRequest_of_own rest hex hdest (compareSeq_ne_behind hahead),
      serveRequest_of_closed hclr ((openRing_requestNoted s l rest).trans hclosed)]

end Sys2Proof.Machine

/-! # Proofs: the table for received ring frames -/

namespace Sys2Proof.Machine

section
variable {s : State} {f : RingFrame}

/-- Of the hub's own frames only an announcement is looked at; each is stripped (R118 order 2). -/
theorem verdictOf_fromSelf (h : fromSelf s f = true) :
    verdictOf s f = ⟨isAnnouncement f, none, f.destNode ≠ 255, false⟩ := if_pos h

section
variable (hself : fromSelf s f = false)
include hself

theorem verdictOf_fromNode (h0 : s.dev.nodeId ≠ 0) (hdest : f.destNode.toNat = s.dev.nodeId)
    (hsrc : f.srcNode.toNat = s.dev.nodeId) : verdictOf s f = ⟨true, none, false, false⟩ :=
  (if_neg (by simp [hself])).trans (if_pos ⟨hdest, hsrc, h0⟩)

theorem verdictOf_forNode (h0 : s.dev.nodeId ≠ 0) (hdest : f.destNode.toNat = s.dev.nodeId)
    (hsrc : f.srcNode.toNat ≠ s.dev.nodeId) : verdictOf s f
      = if reservedType f || !twinOnRing s || f.copyDone || twinSegmentBroken s then ⟨true, none, false, false⟩
        else ⟨true, some { f with copyDone := true }, false, false⟩ :=
  (if_neg (by simp [hself])).trans ((if_neg fun h => hsrc h.2.1).trans (if_pos (.inl ⟨hdest, h0⟩)))

/-- A frame that is not for this hub goes by its type and whether it is a broadcast. -/
theorem verdictOf_passing (hdest : f.destNode.toNat ≠ s.dev.nodeId) (hun : forUnassigned s f = false) : verdictOf s f
      = if reservedType f then ⟨false, some f, false, false⟩
        else if f.destNode = 255 then
          ⟨true, if f.hopLimit.toNat ≤ 1 then none else some { f with hopLimit := f.hopLimit - 1 }, false, false⟩
        else ⟨false, if f.hopLimit.toNat ≤ 1 then none else some { f with hopLimit := f.hopLimit - 1 }, false,
          decide (f.hopLimit.toNat ≤ 1)⟩ := by
  have hmine : ¬((f.destNode.toNat = s.dev.nodeId ∧ s.dev.nodeId ≠ 0) ∨ forUnassigned s f = true) := by
    simp [hdest, hun]
  refine (if_neg (by simp [hself])).trans ((if_neg fun h => hdest h.1).trans ((if_neg hmine).trans ?_))
  by_cases hgone : f.hopLimit.toNat ≤ 1 <;> simp [hgone]

end

/-- A station with a node ID of its own takes no frame for node 0. -/
theorem forUnassigned_of_assigned (h0 : s.dev.nodeId ≠ 0) (hdup : flag s F.RNG_STAT_DUP_ID = false) :
    forUnassigned s f = false := by
  simp [forUnassigned, actsUnassigned, h0, hdup]

end

/-- Settles O32: the rows of the table in their order. -/
theorem frameTable : Obligations.FrameTable := by
  refine fun s f h0 h255 hdup => ⟨fun hself => ?own, fun hself hdest hsrc => verdictOf_fromNode hself h0 hdest hsrc,
    fun hself hdest hsrc hty => ?node, fun hself hall hty => ?broadcast, fun hself hdest hty => ?reserved,
    fun hself hdest hall hty => ?transit⟩
  case own => simp [verdictOf_fromSelf hself]
  case node =>
    have hstrip : (false || !twinOnRing s || f.copyDone || twinSegmentBroken s)
        = !(twinOnRing s && !f.copyDone && !twinSegmentBroken s) := by simp [Bool.or_assoc]
    rw [verdictOf_forNode hself h0 hdest hsrc, hty, hstrip]
    cases twinOnRing s && !f.copyDone && !twinSegmentBroken s <;> rfl
  all_goals have hun : forUnassigned s f = false := forUnassigned_of_assigned h0 hdup
  case broadcast =>
    have hdest : f.destNode.toNat ≠ s.dev.nodeId := by
      rw [hall]
      exact fun h => absurd (h ▸ h255) (by decide)
    rw [verdictOf_passing hself hdest hun, hty, if_neg Bool.false_ne_true, if_pos hall]
  case reserved => rw [verdictOf_passing hself hdest hun, hty, if_pos rfl]
  case transit => rw [verdictOf_passing hself hdest hun, hty, if_neg Bool.false_ne_true, if_neg hall]

end Sys2Proof.Machine

/-! # Proofs: announcements and the ring map -/

namespace Sys2Proof.Machine

/-! ### What the choice of the TB0 master and fault records leave alone -/

/-- From `s` to `t` the die, the Crossing's state, the transaction engine, the registers below those of the message queues
and the timers of reach stay: what the time unit and fault records do stands apart from the ring map. -/
structure Aside (s t : State) : Prop where
  ident : t.ident = s.ident
  ring : t.ring = s.ring
  txn : t.txn = s.txn
  word : ∀ k < keyOf unitMQ 0, regWord t k = regWord s k
  reach : ∀ node side west, lookupKey (.reach node side west) t.timers = lookupKey (.reach node side west) s.timers

section
variable {s t : State}

protected theorem Aside.refl (s : State) : Aside s s := ⟨rfl, rfl, rfl, fun _ _ => rfl, fun _ _ _ => rfl⟩

protected theorem Aside.ite {c : Prop} {_ : Decidable c} {a b : State} (ha : Aside s a) (hb : Aside s b) :
    Aside s (if c then a else b) := by
  split
  · exact ha
  · exact hb

protected theorem Aside.withMem {x} (h : Aside s t) : Aside s (t.withMem x) := ⟨h.ident, h.ring, h.txn, h.word, h.reach⟩

protected theorem Aside.withFlt {x} (h : Aside s t) : Aside s (t.withFlt x) := ⟨h.ident, h.ring, h.txn, h.word, h.reach⟩

protected theorem Aside.withTime {x} (h : Aside s t) : Aside s (t.withTime x) :=
  ⟨h.ident, h.ring, h.txn, h.word, h.reach⟩

protected theorem Aside.withQueues {x} (h : Aside s t) : Aside s (t.withQueues x) :=
  ⟨h.ident, h.ring, h.txn, h.word, h.reach⟩

protected theorem Aside.memWrite {a bs} (h : Aside s t) : Aside s (memWrite t a bs) := h.withMem.withFlt

protected theorem Aside.setF {f n} (h : Aside s t) (hf : keyOf unitMQ 0 ≤ f.key) : Aside s (setF t f n) :=
  ⟨h.ident, h.ring, h.txn,
    fun k hk => (regWord_setF_other t n (Nat.lt_of_lt_of_le hk hf).ne).trans (h.word k hk), h.reach⟩

protected theorem Aside.setFlag {f b} (h : Aside s t) (hf : keyOf unitMQ 0 ≤ f.key) : Aside s (setFlag t f b) := h.setF hf

protected theorem Aside.incF {f} (h : Aside s t) (hf : keyOf unitMQ 0 ≤ f.key) : Aside s (incF t f) := h.setF hf

/-- The same for a counter of one of several alike. -/
protected theorem Aside.incFAt {a m lo w} (h : Aside s t) (ha : keyOf unitMQ 0 ≤ a) : Aside s (incF t ⟨a + m, lo, w⟩) :=
  h.incF (Nat.le_add_right_of_le ha)

protected theorem Aside.startTimer {id n} (h : Aside s t) (hid : ∀ node side west, .reach node side west ≠ id) :
    Aside s (startTimer t id n) :=
  ⟨h.ident, h.ring, h.txn, h.word, fun node side west =>
    (lookup_startTimer t id _ n).trans ((if_neg (hid node side west)).trans (h.reach node side west))⟩

protected theorem Aside.stopTimer {id} (h : Aside s t) (hid : ∀ node side west, .reach node side west ≠ id) :
    Aside s (stopTimer t id) :=
  ⟨h.ident, h.ring, h.txn, h.word, fun node side west =>
    (lookup_stopTimer t id _).trans ((if_neg (hid node side west)).trans (h.reach node side west))⟩

/-! ### Fault records -/

protected theorem Aside.produceCounted {n producer prio bytes} (h : Aside s t) :
    Aside s (produceCounted t n producer prio bytes) := .ite h.withQueues.withFlt (h.incFAt (by decide))

protected theorem Aside.eventLog {record} (h : Aside s t) : Aside s (eventLog t record) := .ite h.memWrite.withFlt h

protected theorem Aside.errPulse {cls} (h : Aside s t) : Aside s (errPulse t cls) :=
  have hpulse : Aside s (startTimer (t.withFlt { t.flt with errPulse := true }) .errPulse (16 * ticksUs)) :=
    h.withFlt.startTimer nofun
  .ite (.ite (hpulse.setFlag (by decide)) hpulse) h

protected theorem Aside.countFault {cls unit} (h : Aside s t) : Aside s (countFault t cls unit) :=
  ((h.incF (by decide)).incFAt (by decide)).incFAt (by decide)

protected theorem Aside.storeRecord {cls record} (h : Aside s t) : Aside s (storeRecord t cls record) :=
  have hstored : Aside s (setF (memWrite t (keyOf unitFLT 0x00010000 + 32 * getF t F.FLT_LOG_STAT_WR_IDX) record)
      F.FLT_LOG_STAT_WR_IDX (getF t F.FLT_LOG_STAT_WR_IDX + 1)) := h.memWrite.setF (by decide)
  .ite hstored.produceCounted hstored

protected theorem Aside.logFault {code cls reaction unit info0 info1} (h : Aside s t) :
    Aside s (logFault t code cls reaction unit info0 info1) := by
  have hcount : Aside s (countFault t cls unit) := h.countFault
  refine Aside.errPulse (.ite (hcount.incF (by decide)) ?_)
  dsimp only
  split
  · exact .ite hcount.storeRecord.withFlt.eventLog hcount.storeRecord.withFlt
  · exact .ite hcount.storeRecord.eventLog hcount.storeRecord

theorem aside_recordFault (s : State) (code unit : Nat) (info0 info1 : Word) :
    Aside s (recordFault s code unit info0 info1) := by
  unfold recordFault
  split
  · exact (Aside.refl s).logFault
  · exact .refl s

/-! ### The choice of the TB0 master -/

protected theorem Aside.setTb0State {st} (h : Aside s t) : Aside s (setTb0State t st) :=
  ((Aside.ite h.withTime h).setF (by decide)).setFlag (by decide)

protected theorem Aside.enterHoldover (h : Aside s t) : Aside s (enterHoldover t) :=
  (Aside.ite (h.setF (by decide)) h).setTb0State

theorem aside_selectMaster (s : State) : Aside s (selectMaster s) := by
  have hs : Aside s s := .refl s
  unfold selectMaster
  refine .ite hs ?_
  split
  · exact (hs.setF (by decide)).setF (by decide)
  next n sd _ =>
    have hchosen : Aside s (setFlag (setF s F.TIM_TB0_SYNC_MASTER n) F.TIM_TB0_SYNC_MASTER_SIDE sd) :=
      (hs.setF (by decide)).setFlag (by decide)
    dsimp only
    refine .ite ((hchosen.setF (by decide)).setTb0State.stopTimer nofun) ?_
    have hup (e : RingEntry) (v : State) (hv : Aside s v) : Aside s (match upstreamTo v e with
        | some (p, h) => setF (setF v F.TIM_TB0_SYNC_UPSTREAM p) F.TIM_TB0_SYNC_HOPS h
        | none => v) := by
      split
      · exact (hv.setF (by decide)).setF (by decide)
      · exact hv
    split
    · exact .ite (hup _ _ hchosen).enterHoldover (hup _ _ hchosen)
    · exact .ite hchosen.enterHoldover hchosen

end

protected theorem Aside.findEntry {s t : State} (h : Aside s t) (node : Nat) (side : Bool) :
    findEntry t node side = findEntry s node side := by
  simp only [Machine.findEntry, h.ring]

protected theorem Aside.seqRxOf {s t : State} (h : Aside s t) (node : Nat) (side : Bool) :
    seqRxOf t node side = seqRxOf s node side := by
  simp only [Machine.seqRxOf, h.txn]

/-- DUP_ID stands among the registers that stay. -/
protected theorem Aside.dupId {s t : State} (h : Aside s t) : flag t F.RNG_STAT_DUP_ID = flag s F.RNG_STAT_DUP_ID := by
  simp only [flag, getF_congr (h.word F.RNG_STAT_DUP_ID.key (by decide))]

/-! ### Announcements (R114, R115, R117) -/

/-- The state in which a held frame has been taken. -/
def heldTaken (s : State) (l : LocalFrame) : State := s.withRing { s.ring with held := s.ring.held.erase l }

/-- The unit ID that an announcement carries. -/
def announcedUid (f : RingFrame) : BitVec 64 := BitVec.ofNat 64 (ofBe (f.payload.take 8))

section
variable {s : State} {l : LocalFrame}

theorem exec_announcementReceive (hheld : s.ring.held.find? (fun x => isAnnouncement x.frame) = some l)
    (hl : live s unitRNG = true) :
    exec .announcementReceive s = .next (receiveAnnouncement (heldTaken s l) l.port l.frame) := by
  change Host.Outcome.next _ = _
  rw [hheld]
  exact congrArg Host.Outcome.next (if_pos hl)

theorem receiveAnnouncement_duplicate {port : Nat} {f : RingFrame} (hsrc : f.srcNode ≠ 0)
    (hown : isOwn s f.srcNode.toNat f.side = true) (huid : announcedUid f ≠ s.ident.uid) :
    receiveAnnouncement s port f = selectMaster (duplicateSeen s (announcedUid f)) :=
  congrArg selectMaster (if_pos ⟨hsrc, hown, huid⟩)

theorem receiveAnnouncement_unassigned {port : Nat} {f : RingFrame} (hsrc : f.srcNode = 0)
    (hown : isOwn s 0 f.side = false) : receiveAnnouncement s port f = selectMaster s := by
  have hother : isOwn s f.srcNode.toNat f.side = false := by
    rw [hsrc]
    exact hown
  exact congrArg selectMaster ((if_neg fun h => h.1 hsrc).trans (if_pos ⟨hsrc, by simp [hother]⟩))

theorem receiveAnnouncement_entered {port : Nat} {f : RingFrame} (hsrc : f.srcNode ≠ 0)
    (hown : isOwn s f.srcNode.toNat f.side = false) :
    receiveAnnouncement s port f = selectMaster (enterAnnouncement s port f) :=
  congrArg selectMaster ((if_neg fun h => by simp [hown] at h).trans (if_neg fun h => hsrc h.1))

/-- A hub not yet in the map is entered at its end, and its reach is timed. -/
theorem enterAnnouncement_new {port : Nat} {f : RingFrame} (hown : isOwn s f.srcNode.toNat f.side = false)
    (hnew : findEntry s f.srcNode.toNat f.side = none) : enterAnnouncement s port f
      = startTimer (bumpMapGen (s.withRing { s.ring with
          map := s.ring.map ++ [announcedEntry s (newEntry f.srcNode.toNat f.side) port f] }))
          (.reach f.srcNode.toNat f.side (decide (port = 1))) (3 * ticksMs) := by
  rw [enterAnnouncement, hnew]
  exact if_neg (ne_true_of_eq_false hown)

end

/-- The first announcement of a hub that is not held down gives its entry reach in the direction it came from. -/
theorem announcedEntry_new {s : State} {node port : Nat} {side : Bool} {f : RingFrame} (hport : port < 2)
    (hfree : running s (.holddown node side (decide (port = 1))) = false) :
    (announcedEntry s (newEntry node side) port f).reachE = decide (port = 0)
    ∧ (announcedEntry s (newEntry node side) port f).reachW = decide (port = 1)
    ∧ (if port = 1 then (announcedEntry s (newEntry node side) port f).hopsW
        else (announcedEntry s (newEntry node side) port f).hopsE) = 255 - f.hopLimit.toNat := by
  obtain rfl | rfl : port = 0 ∨ port = 1 := by omega
  all_goals
    have hfree' := hfree
    simp only [Nat.zero_ne_one, decide_true, decide_false] at hfree'
    simp [announcedEntry, newEntry, hfree']

/-! ### DUP_ID (R117) -/

theorem flag_duplicateSeen (s : State) (uid : BitVec 64) : flag (duplicateSeen s uid) F.RNG_STAT_DUP_ID = true := by
  have hset : flag (startTimer (setFlag s F.RNG_STAT_DUP_ID true) .dupId (3 * ticksMs)) F.RNG_STAT_DUP_ID = true :=
    flag_setFlag_same s F.RNG_STAT_DUP_ID true (by decide) rfl
  dsimp only [duplicateSeen]
  split
  · exact hset
  · rw [(aside_recordFault _ _ _ _ _).dupId, hset]

theorem duplicateSeen_ring (s : State) (uid : BitVec 64) : (duplicateSeen s uid).ring = s.ring := by
  dsimp only [duplicateSeen]
  split
  · rfl
  · exact (aside_recordFault _ _ _ _ _).ring

/-! ### Reach (R115) -/

theorem findEntry_key {s : State} {node : Nat} {side : Bool} {e : RingEntry} (h : findEntry s node side = some e) :
    e.node = node ∧ e.side = side := by
  simpa using List.find?_some h

theorem findEntry_updateEntry {s : State} {node : Nat} {side : Bool} {o e : RingEntry}
    (h : findEntry s node side = some o) (hnode : e.node = node) (hside : e.side = side) :
    findEntry (updateEntry s e) node side = some e := by
  subst hnode hside
  have hkeys : (fun x : RingEntry => decide (x.node = e.node) && decide (x.side = e.side)) ∘
      (fun x => if x.node = e.node ∧ x.side = e.side then e else x)
      = fun x => decide (x.node = e.node) && decide (x.side = e.side) := by
    funext x
    rw [Function.comp_apply]
    split
    next hx => simp [hx]
    next => rfl
  refine List.find?_map.trans ?_
  rw [hkeys]
  exact (congrArg (Option.map _) h).trans (congrArg some (if_pos (findEntry_key h)))

/-- An entry whose hub is unreachable in one direction. -/
def unreached (west : Bool) (o : RingEntry) : RingEntry :=
  if west then { o with reachW := false } else { o with reachE := false }

theorem unreached_key (west : Bool) (o : RingEntry) : (unreached west o).node = o.node ∧ (unreached west o).side = o.side := by
  cases west <;> exact ⟨rfl, rfl⟩

theorem unreached_reach (west : Bool) (o : RingEntry) :
    (unreached west o).reachE = (if west then o.reachE else false)
      ∧ (unreached west o).reachW = (if west then false else o.reachW) := by
  cases west <;> exact ⟨rfl, rfl⟩

section
variable {s : State} {node : Nat} {side west : Bool} {o : RingEntry}

/-- What becomes of an entry that loses one direction: it stays where the other one reaches, else it goes. -/
theorem unreach_of_find (h : findEntry s node side = some o) : ∃ regs, unreach s node side west
    = if (unreached west o).reachE || (unreached west o).reachW then
        (if unreached west o = o then s.withRegs regs else bumpMapGen (updateEntry (s.withRegs regs) (unreached west o)))
      else bumpMapGen (removeEntry (s.withRegs regs) node side) := by
  obtain ⟨regs, hregs⟩ : ∃ regs, (if isOwn s node side then setFlag s (closureBit (bit01 west)) false else s)
      = s.withRegs regs := by
    split
    · exact ⟨_, rfl⟩
    · exact ⟨s.regs, rfl⟩
  refine ⟨regs, ?_⟩
  rw [unreach, h]
  dsimp only
  rw [hregs]
  rfl

theorem unreach_lost (h : findEntry s node side = some o) (hother : (if west then o.reachE else o.reachW) = false) :
    ∃ regs, unreach s node side west = bumpMapGen (removeEntry (s.withRegs regs) node side) := by
  obtain ⟨regs, hun⟩ := unreach_of_find (west := west) h
  refine ⟨regs, hun.trans (if_neg ?_)⟩
  cases west <;> simpa [unreached] using hother

theorem findEntry_unreach (h : findEntry s node side = some o) (hother : (if west then o.reachE else o.reachW) = true) :
    findEntry (unreach s node side west) node side = some (unreached west o) := by
  obtain ⟨regs, hun⟩ := unreach_of_find (west := west) h
  obtain ⟨hnode, hside⟩ := findEntry_key h
  obtain ⟨hunode, huside⟩ := unreached_key west o
  have hstays : ((unreached west o).reachE || (unreached west o).reachW) = true := by
    cases west <;> simpa [unreached] using hother
  rw [hun, if_pos hstays]
  split
  next hsame => exact h.trans (congrArg some hsame.symm)
  next => exact findEntry_updateEntry (s := s.withRegs regs) h (hunode.trans hnode) (huside.trans hside)

end

theorem findEntry_removeEntry (s : State) (node : Nat) (side : Bool) :
    findEntry (removeEntry s node side) node side = none := by
  simp only [findEntry, removeEntry, forgetSource, State.withTxn_ring, State.withRing_ring, List.find?_eq_none]
  intro x hx hkey
  have hgone := (List.mem_filter.1 hx).2
  rw [hkey] at hgone
  exact Bool.false_ne_true hgone

theorem c7Recs_removeEntry (s : State) (node : Nat) (side : Bool) :
    lookupKey (node, side) (removeEntry s node side).ring.c7Recs = none :=
  (lookupKey_removeKey _ _ _).trans (if_pos rfl)

/-- A hub whose entry is removed is taken to start its numbers again (log entry 199). -/
theorem seqRxOf_removeEntry (s : State) (node : Nat) (side : Bool) :
    (seqRxOf (removeEntry s node side) node side).own = none := by
  unfold seqRxOf
  cases h : (removeEntry s node side).txn.seqRx.find? (fun e => e.node = node && e.side = side) with
  | none => rfl
  | some e =>
    obtain ⟨x, -, rfl⟩ := List.mem_map.1 (List.mem_of_find?_eq_some h)
    have hkey := List.find?_some h
    dsimp only [Option.getD_some]
    split
    · rfl
    next hx =>
      rw [if_neg hx] at hkey
      exact absurd (by simpa using hkey) hx

theorem exec_reachTimeout {s : State} {node : Nat} {side west : Bool} (h : due s (.reach node side west) = true) :
    exec (.reachTimeout node side west) s
      = .next (selectMaster (unreach (stopTimer s (.reach node side west)) node side west)) :=
  congrArg Host.Outcome.next (if_pos h)

theorem exec_dupIdTimeout {s : State} (h : due s .dupId = true) :
    exec .dupIdTimeout s = .next (selectMaster (clearDupId s)) := congrArg Host.Outcome.next (if_pos h)

/-! ### Frames queued -/

/-- From `s` to `t` the ring map and the model's clock stay: what queues a frame leaves them. -/
structure MapKept (s t : State) : Prop where
  map : t.ring.map = s.ring.map
  mono : t.mono = s.mono

section
variable {s t u : State} {α : Type}

protected theorem MapKept.refl (s : State) : MapKept s s := ⟨rfl, rfl⟩

/-- An update beside the ring map and the clock. -/
protected theorem MapKept.same (h : MapKept s t) (hmap : u.ring.map = t.ring.map) (hmono : u.mono = t.mono) : MapKept s u :=
  ⟨hmap.trans h.map, hmono.trans h.mono⟩

protected theorem MapKept.ite {c : Prop} {_ : Decidable c} {a b : State} (ha : MapKept s a) (hb : MapKept s b) :
    MapKept s (if c then a else b) := by
  split
  · exact ha
  · exact hb

protected theorem MapKept.iteSnd {β : Type} {c : Prop} {_ : Decidable c} {a b : β × State} (ha : MapKept s a.2)
    (hb : MapKept s b.2) : MapKept s (if c then a else b).2 := by
  split
  · exact ha
  · exact hb

protected theorem MapKept.foldl {f : State → α → State} {l : List α} (h : MapKept s t)
    (hf : ∀ v x, MapKept s v → MapKept s (f v x)) : MapKept s (l.foldl f t) :=
  List.foldlRecOn l f h fun v hv x _ => hf v x hv

protected theorem MapKept.setF {f n} (h : MapKept s t) : MapKept s (setF t f n) := h.same rfl rfl

protected theorem MapKept.incF {f} (h : MapKept s t) : MapKept s (incF t f) := h.same rfl rfl

protected theorem MapKept.memWrite {a bs} (h : MapKept s t) : MapKept s (memWrite t a bs) := h.same rfl rfl

protected theorem MapKept.withPlaza {x} (h : MapKept s t) : MapKept s (t.withPlaza x) := h.same rfl rfl

protected theorem MapKept.writeCells {cs bytes} (h : MapKept s t) : MapKept s (writeCells t cs bytes) := by
  induction cs generalizing t bytes with
  | nil => exact h
  | cons c cs ih => exact ih h.memWrite

protected theorem MapKept.writeHeader {f} (h : MapKept s t) : MapKept s (writeHeader t f) := by
  dsimp only [writeHeader]
  split
  · exact h
  · exact .ite h h.memWrite

protected theorem MapKept.dropAt {q cls reason} (h : MapKept s t) : MapKept s (dropAt t q cls reason) :=
  .ite (h.same rfl rfl) (h.same rfl rfl)

protected theorem MapKept.pushRef {x fid n} (h : MapKept s t) : MapKept s (pushRef t x fid n) := h.withPlaza

protected theorem MapKept.markFrame {q fid} (h : MapKept s t) : MapKept s (markFrame t q fid) := h.same rfl rfl

protected theorem MapKept.storeFrame {f x} (h : MapKept s t) : MapKept s (storeFrame t f x) :=
  (MapKept.withPlaza (t := t.withFresh (t.fresh + 1)) (h.same rfl rfl)).pushRef.writeCells

protected theorem MapKept.offerQueue {f x} (h : MapKept s t) : MapKept s (offerQueue t f x) := by
  dsimp only [offerQueue]
  split
  · exact h.dropAt
  · split <;> split
    · exact h.pushRef.markFrame
    · exact h.storeFrame.markFrame
    · exact h.pushRef
    · exact h.storeFrame

protected theorem MapKept.captureRecord {f q depth cause reason} (h : MapKept s t) :
    MapKept s (captureRecord t f q depth cause reason) :=
  .ite (MapKept.incF (.ite h.setF h)) <| .ite h.incF (h.memWrite.setF.incF.withPlaza)

protected theorem MapKept.sampleStep {f} (h : MapKept s t) : MapKept s (sampleStep t f).2 :=
  .iteSnd (.iteSnd h.withPlaza h.withPlaza) h

protected theorem MapKept.captureFrame {f ds} (h : MapKept s t) : MapKept s (captureFrame t f ds) := by
  have hs : MapKept s (sampleStep t f).2 := h.sampleStep
  dsimp only [captureFrame]
  split
  · refine .ite (MapKept.captureRecord (.ite hs.setF hs)).withPlaza
      (.ite (MapKept.captureRecord (.ite hs.setF hs)).withPlaza ?_)
    split
    · exact hs.captureRecord.withPlaza
    · exact hs
  · exact h

protected theorem MapKept.pauseTotal {p} (h : MapKept s t) : MapKept s (pauseTotal t p) :=
  .ite (h.same rfl rfl) (.ite (h.same rfl rfl) h)

protected theorem MapKept.pauseClass {p c} (h : MapKept s t) : MapKept s (pauseClass t p c) :=
  .ite (h.same rfl rfl) (.ite (h.same rfl rfl) h)

protected theorem MapKept.pauseCheck {p} (h : MapKept s t) : MapKept s (pauseCheck t p) :=
  .ite h <| .ite (h.foldl fun _ _ h => h.pauseClass) <| .ite h.pauseTotal <| .ite h <|
    h.setF.foldl fun _ _ h => h.same rfl rfl

protected theorem MapKept.storeAndOffer {f targets} (h : MapKept s t) : MapKept s (storeAndOffer t f targets) := by
  dsimp only [storeAndOffer]
  split
  · exact (h.withPlaza.foldl fun _ _ h => h.offerQueue).writeHeader.captureFrame.pauseCheck
  · exact (h.withPlaza.foldl fun _ _ h => h.offerQueue).captureFrame.pauseCheck

protected theorem MapKept.ringTarget {port k f sq} (h : MapKept s t) : MapKept s (ringTarget t port k f sq).2 :=
  .iteSnd h <| .iteSnd (.ite h h.incF) <| .iteSnd h (.ite h h.incF)

protected theorem MapKept.addOnPort {port f} (h : MapKept s t) : MapKept s (addOnPort t port f) := by
  have hseq : MapKept s (nextSeq t f.destNode.toNat (port = 1)).2 := h.same rfl rfl
  exact .ite hseq.ringTarget (.ite hseq.ringTarget.storeAndOffer hseq.ringTarget)

protected theorem MapKept.addOwnOnPort {port f} (h : MapKept s t) : MapKept s (addOwnOnPort t port f) :=
  .ite h.incF <| .ite h h.addOnPort

end

theorem exec_announcementSend {s : State} (hl : live s unitRNG = true) (hready : s.dev.stage = .ringReady)
    (hdue : due s .announce = true) : exec .announcementSend s = .next (startTimer
      (addOwnOnPort (addOwnOnPort s 0 (announceFrame s)) 1 (announceFrame s)) .announce ticksMs) :=
  congrArg Host.Outcome.next (if_pos ⟨hl, hready, hdue⟩)

/-- Settles O36: what is entered, what lapses, and that the choice of the TB0 master after each leaves it so. -/
theorem ringMapUpkeep : Obligations.RingMapUpkeep := by
  refine ⟨fun s l hheld hl hport hsrc hown hnew hfree => ?entered, fun s l hheld hl hsrc hown => ?unassigned,
    fun s l hheld hl hsrc hown huid => ?duplicate, fun s node side west e hdue hfind hother => ?lost,
    fun s node side west e hdue hfind hother => ?kept, fun s hdue => ?cleared, fun s hl hready hdue => ?sent⟩
  case entered =>
    have hexec := exec_announcementReceive hheld hl
    rw [receiveAnnouncement_entered (s := heldTaken s l) hsrc hown, enterAnnouncement_new (s := heldTaken s l) hown hnew] at hexec
    obtain ⟨hE, hW, hhops⟩ := announcedEntry_new (s := heldTaken s l) (f := l.frame) hport hfree
    refine ⟨_, _, hexec, congrArg Ring.map (aside_selectMaster _).ring, rfl, rfl, hE, hW, hhops, rfl, ?_, ?_⟩
    · rw [(aside_selectMaster _).ring]
      rfl
    · rw [(aside_selectMaster _).reach, lookup_startTimer, if_pos rfl]
      rfl
  case unassigned =>
    rw [exec_announcementReceive hheld hl, receiveAnnouncement_unassigned (s := heldTaken s l) hsrc hown]
    rfl
  case duplicate =>
    have hexec := exec_announcementReceive hheld hl
    rw [receiveAnnouncement_duplicate (s := heldTaken s l) hsrc hown huid] at hexec
    refine ⟨_, hexec, (aside_selectMaster _).dupId.trans (flag_duplicateSeen _ _), ?_⟩
    rw [(aside_selectMaster _).ring, duplicateSeen_ring]
    rfl
  case lost =>
    obtain ⟨regs, hun⟩ := unreach_lost (s := stopTimer s (.reach node side west)) hfind hother
    have hexec := exec_reachTimeout hdue
    rw [hun] at hexec
    refine ⟨_, hexec, ?_, ?_, ?_⟩
    · exact ((aside_selectMaster _).findEntry node side).trans (findEntry_removeEntry _ node side)
    · rw [(aside_selectMaster _).ring]
      exact c7Recs_removeEntry _ node side
    · rw [(aside_selectMaster _).seqRxOf]
      exact seqRxOf_removeEntry _ node side
  case kept =>
    have hkept := findEntry_unreach (s := stopTimer s (.reach node side west)) hfind hother
    obtain ⟨hE, hW⟩ := unreached_reach west e
    exact ⟨_, _, exec_reachTimeout hdue, ((aside_selectMaster _).findEntry node side).trans hkept, hE, hW⟩
  case cleared =>
    exact ⟨_, exec_dupIdTimeout hdue, (aside_selectMaster _).dupId.trans
      (flag_setFlag_same _ F.RNG_STAT_DUP_ID false (by decide) rfl)⟩
  case sent =>
    have hqueued := (MapKept.refl s).addOwnOnPort (port := 0) (f := announceFrame s)
      |>.addOwnOnPort (port := 1) (f := announceFrame s)
    refine ⟨_, exec_announcementSend hl hready hdue, ?_, hqueued.map⟩
    rw [lookup_startTimer, if_pos rfl, hqueued.mono]

end Sys2Proof.Machine

/-! # Proofs: the lock, HOLD, DISCARD and the epoch flips -/

namespace Sys2Proof.Machine

/-! ### Fields and kept registers -/

/-- A field reads as written where it has room for the value. -/
theorem getF_setF_of_lt (s : State) {f : Fld} {n : Nat} (h : f.lo + f.width ≤ 32) (hn : n < 2 ^ f.width) :
    getF (setF s f n) f = n := (getF_setF_same s f n h).trans (Nat.mod_eq_of_lt hn)

/-- A bit of a field is a bit of its word. -/
theorem bitF_eq_getLsbD (s : State) {f : Fld} {i : Nat} (h : i < f.width) :
    bitF s f i = (regWord s f.key).getLsbD (f.lo + i) := by
  rw [bitF, bitAt, getF, testBit_bitsAt, decide_eq_true h, Bool.true_and, BitVec.testBit_toNat]

theorem flag_congr {s t : State} {f : Fld} (h : getF t f = getF s f) : flag t f = flag s f :=
  congrArg (fun n => decide (n = 1)) h

theorem bitF_setBitF_other (s : State) {f : Fld} {i j : Nat} (b : Bool) (hf : f.lo + f.width ≤ 32) (hj : j < f.width)
    (hne : j ≠ i) : bitF (setBitF s f i b) f j = bitF s f j := by
  rw [bitF, setBitF, getF_setF_same s f _ hf, bitAt, Nat.testBit_mod_two_pow, testBit_withBit, if_neg hne,
    decide_eq_true hj, Bool.true_and, bitF, bitAt]

theorem regsKept_refl (ks : List Nat) (s : State) : regsKept ks s s := fun _ _ => rfl

/-- A write of a field of one of the named registers. -/
theorem regsKept_setF {ks : List Nat} {s t : State} {f : Fld} (h : regsKept ks s t) (hf : f.key ∈ ks) (n : Nat) :
    regsKept ks s (setF t f n) := fun k hk =>
  (regWord_setF_other t n (ne_of_mem_of_not_mem hf hk).symm).trans (h k hk)

theorem regsKept_answered {ks : List Nat} {s t : State} (h : regsKept ks s t) (r : DeltaRec) :
    regsKept ks s (answered t r) := fun k hk => (regWord_answered t r k).trans (h k hk)

theorem memKept_of_mem {s t : State} (h : t.mem = s.mem) : memKept s t := memByte_congr h

@[simp] theorem answered_pendCb (s : State) (r : DeltaRec) : (answered s r).pendCb = s.pendCb := by
  rw [answered_frame]

@[simp] theorem answered_pendFb (s : State) (r : DeltaRec) : (answered s r).pendFb = s.pendFb := by
  rw [answered_frame]

@[simp] theorem answered_pendMem (s : State) (r : DeltaRec) : (answered s r).pendMem = s.pendMem := by
  rw [answered_frame]

/-! ### The flips requested -/

/-- The requested flips, and what the status shows of them. -/
def flipsPending (s : State) (n : Nat) : State := setF (setF s F.SYS_EPOCH_CMD_FLIP n) F.SYS_EPOCH_STAT_PENDING n

section
variable (s : State)

theorem getF_flip_flipsPending {n : Nat} (hn : n < 64) : getF (flipsPending s n) F.SYS_EPOCH_CMD_FLIP = n :=
  (getF_setF_apart _ n (by decide)).trans (getF_setF_of_lt s (by decide) hn)

theorem getF_pending_flipsPending {n : Nat} (hn : n < 64) : getF (flipsPending s n) F.SYS_EPOCH_STAT_PENDING = n :=
  getF_setF_of_lt _ (by decide) hn

/-- The fields beside FLIP and PENDING hold. -/
theorem getF_flipsPending_other (n : Nat) {f : Fld} (hcmd : f.key ≠ F.SYS_EPOCH_CMD_FLIP.key)
    (hstat : f.key ≠ F.SYS_EPOCH_STAT_PENDING.key ∨ f.lo + f.width ≤ 8 ∨ 14 ≤ f.lo) :
    getF (flipsPending s n) f = getF s f :=
  (getF_setF_other _ F.SYS_EPOCH_STAT_PENDING f n (by decide) hstat).trans (getF_setF_apart s n hcmd)

end

theorem regsKept_flipsPending {ks : List Nat} {s t : State} (h : regsKept ks s t)
    (hcmd : F.SYS_EPOCH_CMD_FLIP.key ∈ ks) (hstat : F.SYS_EPOCH_STAT_PENDING.key ∈ ks) (n : Nat) :
    regsKept ks s (flipsPending t n) :=
  regsKept_setF (regsKept_setF h hcmd n) hstat n

/-! ### LOCK_UNIT -/

/-- The register of the units' locks. -/
def lockReg : RegDef := ⟨"SYS_LOCK", 0x118, [], .always, [⟨"LOCK", 0, 17, .w1s, 0x0, .im⟩]⟩

theorem regAt_lock : regAt (keyOf unitSYS 0x118) = some (lockReg, []) := by decide +kernel

theorem toNat_ofNat_unitBit {u : Nat} (hu : u < 17) :
    (BitVec.ofNat 32 (unitBit 0 u true)).toNat = unitBit 0 u true := by
  refine Nat.mod_eq_of_lt (Nat.lt_pow_two_of_testBit _ fun i hi => ?_)
  by_contra h
  have := bitAt_unitBit_zero (Bool.eq_true_of_not_eq_false h)
  omega

/-- No field of the locks' register waits for a commit point. -/
theorem plainWrite_lockReg_frame (s : State) (w : Nat) : (plainWrite s lockReg F.SYS_LOCK_LOCK.key w).1
    = s.withRegs (plainWrite s lockReg F.SYS_LOCK_LOCK.key w).1.regs := rfl

/-- LOCK_UNIT is a write of the one register that has only W1S bits (R75). -/
theorem exec_lockUnit {s : State} (hl : live s unitSYS = true) {u : Nat} (hu : u < 17) :
    ∃ t, exec (.lockUnit u) s = .next t
      ∧ t = { s with regs := (plainWrite s lockReg F.SYS_LOCK_LOCK.key (unitBit 0 u true)).1.regs, twin := t.twin,
                     outs := t.outs } := by
  obtain ⟨t, hexec, ht⟩ := exec_registerWrite_of_plain (w := BitVec.ofNat 32 (unitBit 0 u true)) hl (by decide)
    (by decide) (by decide) (absentAt_sys s _) rfl regAt_lock rfl rfl
  have hcommand : exec (.lockUnit u) s = exec (.registerWrite unitSYS 0x118 (BitVec.ofNat 32 (unitBit 0 u true))) s :=
    congrArg (fun w => Host.Outcome.next (writeCommand s unitSYS 0x118 w)) (toNat_ofNat_unitBit hu).symm
  refine ⟨_, hcommand.trans hexec, ?_⟩
  have hframe := plainWrite_lockReg_frame s (unitBit 0 u true)
  rw [toNat_ofNat_unitBit hu] at ht
  rw [ht, show keyOf unitSYS 0x118 = F.SYS_LOCK_LOCK.key from rfl, hframe]
  rfl

theorem bitF_lock_plainWrite (s : State) {w v : Nat} (hv : v < 17) :
    bitF (plainWrite s lockReg F.SYS_LOCK_LOCK.key w).1 F.SYS_LOCK_LOCK v
      = (bitF s F.SYS_LOCK_LOCK v || bitAt w v) := by
  have hbit := getLsbD_plainWrite_field s (d := lockReg) (f := ⟨"LOCK", 0, 17, .w1s, 0x0, .im⟩)
    (List.pairwise_singleton _ _) List.mem_cons_self (by decide) hv F.SYS_LOCK_LOCK.key w
  rw [bitF_eq_getLsbD _ hv, bitF_eq_getLsbD _ hv]
  refine hbit.trans ?_
  simp [FieldDef.takesNow, bitAt, F.SYS_LOCK_LOCK]

/-! ### COMMIT_HOLD and COMMIT_DISCARD -/

theorem regAt_commitCtl : (regAt (keyOf unitSYS 0x200)).map (fun p => (p.1.pres, p.2)) = some (.always, []) := by
  decide +kernel

theorem exec_commitHold {s : State} (hl : live s unitSYS = true) (hold : Bool) :
    ∃ r, exec (.commitHold hold) s = .next (answered (holdCommits s hold) r) := by
  refine ⟨_, congrArg Host.Outcome.next (writeCommand_sys hl (by decide) (by decide) regAt_commitCtl ?_)⟩
  cases hold <;> rfl

theorem getF_hold (s : State) : getF s F.SYS_COMMIT_CTL_HOLD = bit01 (holding s) := by
  have hlt : getF s F.SYS_COMMIT_CTL_HOLD < 2 := getF_lt s F.SYS_COMMIT_CTL_HOLD
  simp only [holding, flag, bit01, decide_eq_true_eq]
  split <;> omega

/-- COMMIT_DISCARD writes HOLD as it stands. -/
theorem exec_commitDiscard {s : State} (hl : live s unitSYS = true) :
    ∃ r, exec .commitDiscard s = .next (answered (discardCommits (holdCommits s (holding s))) r) := by
  refine ⟨_, congrArg Host.Outcome.next (writeCommand_sys hl (by decide) (by decide) regAt_commitCtl ?_)⟩
  rw [getF_hold]
  cases holding s <;> rfl

section
variable (s : State) (hold : Bool)

theorem holdCommits_frame : holdCommits s hold = s.withRegs (holdCommits s hold).regs := by
  cases hold <;> rfl

theorem regsKept_holdCommits {ks : List Nat} (hctl : F.SYS_COMMIT_CTL_HOLD.key ∈ ks)
    (hstat : F.SYS_COMMIT_STAT_HELD_CYCLES.key ∈ ks) : regsKept ks s (holdCommits s hold) := by
  cases hold
  · exact regsKept_setF (regsKept_setF (regsKept_refl ks s) hctl 0) hstat 0
  · exact regsKept_setF (regsKept_refl ks s) hctl 1

/-- The fields of other registers hold. -/
theorem getF_holdCommits_apart {f : Fld} (hctl : f.key ≠ F.SYS_COMMIT_CTL_HOLD.key)
    (hstat : f.key ≠ F.SYS_COMMIT_STAT_HELD_CYCLES.key) : getF (holdCommits s hold) f = getF s f := by
  refine getF_congr (regsKept_holdCommits s hold (ks := [F.SYS_COMMIT_CTL_HOLD.key, F.SYS_COMMIT_STAT_HELD_CYCLES.key])
    List.mem_cons_self (List.mem_cons_of_mem _ List.mem_cons_self) _ ?_)
  simp [hctl, hstat]

theorem flag_hold_holdCommits : flag (holdCommits s hold) F.SYS_COMMIT_CTL_HOLD = hold := by
  have hset := flag_setFlag_same s F.SYS_COMMIT_CTL_HOLD hold (by decide) rfl
  cases hold
  · exact (flag_congr (getF_setF_apart _ 0 (by decide))).trans hset
  · exact hset

theorem getF_heldCycles_holdCommits : getF (holdCommits s hold) F.SYS_COMMIT_STAT_HELD_CYCLES
    = if hold then getF s F.SYS_COMMIT_STAT_HELD_CYCLES else 0 := by
  cases hold
  · exact getF_setF_of_lt _ (by decide) (by decide)
  · exact getF_setF_apart s 1 (by decide)

end

/-- DISCARD leaves no pending write, and no flip requested. -/
theorem discardCommits_eq (s : State) : discardCommits s = flipsPending ((s.withPendCb []).withPendMem []) 0 := rfl

theorem discardCommits_frame (s : State) :
    discardCommits s = { s with regs := (discardCommits s).regs, pendCb := [], pendMem := [] } := rfl

theorem regsKept_discardCommits {ks : List Nat} {s t : State} (h : regsKept ks s t)
    (hcmd : F.SYS_EPOCH_CMD_FLIP.key ∈ ks) (hstat : F.SYS_EPOCH_STAT_PENDING.key ∈ ks) :
    regsKept ks s (discardCommits t) := by
  rw [discardCommits_eq]
  exact regsKept_flipsPending h hcmd hstat 0

theorem getF_flip_discardCommits (s : State) : getF (discardCommits s) F.SYS_EPOCH_CMD_FLIP = 0 := by
  rw [discardCommits_eq, getF_flip_flipsPending _ (by decide)]

theorem getF_pending_discardCommits (s : State) : getF (discardCommits s) F.SYS_EPOCH_STAT_PENDING = 0 := by
  rw [discardCommits_eq, getF_pending_flipsPending _ (by decide)]

theorem getF_discardCommits_other (s : State) {f : Fld} (hcmd : f.key ≠ F.SYS_EPOCH_CMD_FLIP.key)
    (hstat : f.key ≠ F.SYS_EPOCH_STAT_PENDING.key ∨ f.lo + f.width ≤ 8 ∨ 14 ≤ f.lo) :
    getF (discardCommits s) f = getF s f := by
  rw [discardCommits_eq, getF_flipsPending_other _ 0 hcmd hstat]
  rfl

/-- The status beside PENDING holds where COMMIT_DISCARD writes HOLD as it stands. -/
theorem getF_stat_discarded (s : State) (f : Fld) (hk : f.key = F.SYS_EPOCH_STAT_PENDING.key)
    (hf : f.lo + f.width ≤ 8 ∨ 14 ≤ f.lo) : getF (discardCommits (holdCommits s (holding s))) f = getF s f :=
  (getF_discardCommits_other _ (hk ▸ by decide) (.inr hf)).trans
    (getF_holdCommits_apart s _ (hk ▸ by decide) (hk ▸ by decide))

theorem flag_hold_discarded (s : State) :
    flag (discardCommits (holdCommits s (holding s))) F.SYS_COMMIT_CTL_HOLD = holding s :=
  (flag_congr (getF_discardCommits_other _ (by decide) (by decide))).trans (flag_hold_holdCommits s _)

/-! ### EPOCH_FLIP_REQUEST -/

theorem regAt_epochCmd : (regAt (keyOf unitSYS 0x208)).map (fun p => (p.1.pres, p.2)) = some (.always, []) := by
  decide +kernel

theorem requestFlips_of_apart {s : State} {w : Nat} (hw : w < 64) (h : w &&& getF s F.SYS_EPOCH_STAT_DRAINING = 0) :
    requestFlips s w = (flipsPending s (getF s F.SYS_EPOCH_CMD_FLIP ||| w), codeOK) := by
  rw [requestFlips, Nat.mod_eq_of_lt hw, h]
  rfl

theorem requestFlips_of_draining {s : State} {w : Nat} (hw : w < 64)
    (h : w &&& getF s F.SYS_EPOCH_STAT_DRAINING ≠ 0) : requestFlips s w = (s, codeEPOCH_BUSY) := by
  rw [requestFlips, Nat.mod_eq_of_lt hw]
  exact if_pos (bne_iff_ne.2 h)

/-- A write command whose effect is refused answers the code alone. -/
theorem writeCommand_sys_refused {s : State} {off w c : Nat} (hl : live s unitSYS = true) (ho : off < 0x10000)
    (ha : off % 4 = 0) (hr : (regAt (keyOf unitSYS off)).map (fun p => (p.1.pres, p.2)) = some (.always, []))
    (hk : hookSYS s off w = some (s, c)) (hc : c ≠ codeOK) : writeCommand s unitSYS off w = output s (.code c) := by
  obtain ⟨⟨d, idx⟩, hreg, hp⟩ := Option.map_eq_some_iff.1 hr
  obtain ⟨hpres, hidx⟩ : d.pres = .always ∧ idx = [] := Prod.mk.inj hp
  have hi : hasInst s d.pres idx = true := by rw [hpres, hidx]; rfl
  have hhook : hookWrite s .mgt d unitSYS off (keyOf unitSYS off) w = some (s, c) := hk
  have hf : filterOffset unitSYS off = false := rfl
  have hwrite : commandWrite s unitSYS off w = (s, c) := by
    rw [commandWrite_eq_writeReg hl (by decide) ho ha]
    simp [writeReg, absentAt_sys, hf, hreg, hi, hhook, noteWrite, hc]
  rw [writeCommand, hwrite]

theorem exec_epochFlipRequest {s : State} (hl : live s unitSYS = true) {flips : BitVec 6}
    (h : flips.toNat &&& getF s F.SYS_EPOCH_STAT_DRAINING = 0) :
    ∃ r, exec (.epochFlipRequest flips) s
      = .next (answered (flipsPending s (getF s F.SYS_EPOCH_CMD_FLIP ||| flips.toNat)) r) :=
  ⟨_, congrArg Host.Outcome.next (writeCommand_sys hl (by decide) (by decide) regAt_epochCmd
    (congrArg some (requestFlips_of_apart flips.isLt h)))⟩

theorem exec_epochFlipRequest_busy {s : State} (hl : live s unitSYS = true) {flips : BitVec 6}
    (h : flips.toNat &&& getF s F.SYS_EPOCH_STAT_DRAINING ≠ 0) :
    exec (.epochFlipRequest flips) s = .next (output s (.code codeEPOCH_BUSY)) :=
  congrArg Host.Outcome.next (writeCommand_sys_refused hl (by decide) (by decide) regAt_epochCmd
    (congrArg some (requestFlips_of_draining flips.isLt h)) (by decide))

/-- Settles O12: LOCK_UNIT by the rule of W1S bits, the others by the effect that their register's write has. -/
theorem commitControl : Obligations.CommitControl := by
  refine ⟨fun s u hl hu => ?lock, fun s hold hl => ?hold, fun s hl => ?discard, fun s flips hl hfree => ?flip,
    fun s flips hl => exec_epochFlipRequest_busy hl⟩
  case lock =>
    obtain ⟨t, hexec, ht⟩ := exec_lockUnit hl hu
    refine ⟨t, hexec, ?_⟩
    rw [ht]
    refine ⟨fun k hk => regWord_plainWrite_other s lockReg _ (by simpa using hk), memKept_of_mem rfl, rfl, rfl,
      fun v hv => (bitF_lock_plainWrite s hv).trans ?_⟩
    rw [bitAt_unitBit 0 hu, bitAt, Nat.zero_testBit]
    by_cases hvu : v = u <;> simp [hvu]
  case hold =>
    obtain ⟨r, hexec⟩ := exec_commitHold hl hold
    have hframe := holdCommits_frame s hold
    refine ⟨_, hexec, regsKept_answered (regsKept_holdCommits s hold (by decide) (by decide)) r, memKept_of_mem ?_,
      ?_, ?_, ?_, (flag_answered _ r _).trans (flag_hold_holdCommits s hold),
      (getF_answered _ r _).trans (getF_heldCycles_holdCommits s hold)⟩
    · rw [answered_mem, hframe, State.withRegs_mem]
    · rw [answered_pendCb, hframe, State.withRegs_pendCb]
    · rw [answered_pendFb, hframe, State.withRegs_pendFb]
    · rw [answered_pendMem, hframe, State.withRegs_pendMem]
  case discard =>
    obtain ⟨r, hexec⟩ := exec_commitDiscard hl
    have hframe := holdCommits_frame s (holding s)
    have hkept := regsKept_holdCommits s (holding s) (ks := [F.SYS_COMMIT_CTL_HOLD.key,
      F.SYS_COMMIT_STAT_HELD_CYCLES.key, F.SYS_EPOCH_CMD_FLIP.key, F.SYS_EPOCH_STAT_PENDING.key])
      (by decide) (by decide)
    refine ⟨_, hexec, regsKept_answered (regsKept_discardCommits hkept (by decide) (by decide)) r, memKept_of_mem ?_,
      answered_pendCb _ r, answered_pendMem _ r, ?_, ?_⟩
    · rw [answered_mem, discardCommits_frame, hframe, State.withRegs_mem]
    · rw [answered_pendFb, discardCommits_frame, hframe, State.withRegs_pendFb]
    · simp only [getF_answered, flag_answered]
      exact ⟨getF_flip_discardCommits _, getF_pending_discardCommits _,
        getF_stat_discarded s F.SYS_EPOCH_STAT_ACTIVE rfl (by decide),
        getF_stat_discarded s F.SYS_EPOCH_STAT_DRAINING rfl (by decide), flag_hold_discarded s⟩
  case flip =>
    obtain ⟨r, hexec⟩ := exec_epochFlipRequest hl hfree
    have hall : getF s F.SYS_EPOCH_CMD_FLIP ||| flips.toNat < 64 :=
      Nat.or_lt_two_pow (n := 6) (getF_lt s F.SYS_EPOCH_CMD_FLIP) flips.isLt
    have hkept := regsKept_flipsPending (regsKept_refl [F.SYS_EPOCH_CMD_FLIP.key, F.SYS_EPOCH_STAT_PENDING.key] s)
      (by decide) (by decide) (getF s F.SYS_EPOCH_CMD_FLIP ||| flips.toNat)
    exact ⟨_, hexec, regsKept_answered hkept r, memKept_of_mem (answered_mem _ r), answered_pendCb _ r,
      (getF_answered _ r _).trans (getF_flip_flipsPending s hall),
      (getF_answered _ r _).trans (getF_pending_flipsPending s hall),
      (getF_answered _ r _).trans (getF_flipsPending_other s _ (by decide) (by decide)), answered_outs _ r⟩

end Sys2Proof.Machine

/-! # Proofs: the epoch flips at a boundary and the ends of their drains -/

namespace Sys2Proof.Machine

/-! ### The bus channels whose filter tables flip -/

/-- The boundary noted at channel `c`, if the flips `f` name its table. -/
def noteFlip (f at_ : Nat) (t : State) (c : Nat) : State :=
  if bitAt f (4 + c) then setBusCh t c { busCh t c with flipAt := at_ } else t

/-- The boundary noted at both channels. -/
def flipsNoted (s : State) (f : Nat) : State := [0, 1].foldl (noteFlip f s.time.lastBoundary) s

theorem noteFlip_frame (f at_ : Nat) (t : State) (c : Nat) :
    noteFlip f at_ t c = t.withBus (noteFlip f at_ t c).bus := by
  unfold noteFlip
  split <;> rfl

theorem flipAt_noteFlip_same {f c : Nat} (h : bitAt f (4 + c) = true) (at_ : Nat) (t : State) :
    (busCh (noteFlip f at_ t c) c).flipAt = at_ := by
  rw [noteFlip, if_pos h, busCh_setBusCh, if_pos rfl]

/-- A channel that has the boundary noted keeps it. -/
theorem flipAt_noteFlip {f c at_ : Nat} {t : State} (h : (busCh t c).flipAt = at_) (i : Nat) :
    (busCh (noteFlip f at_ t i) c).flipAt = at_ := by
  unfold noteFlip
  split
  · rw [busCh_setBusCh]
    split
    · rfl
    · exact h
  · exact h

theorem flipAt_flipsNoted (s : State) {f c : Nat} (hc : c < 2) (h : bitAt f (4 + c) = true) :
    (busCh (flipsNoted s f) c).flipAt = s.time.lastBoundary :=
  foldl_holds (P := fun t => (busCh t c).flipAt = s.time.lastBoundary) (flipAt_noteFlip_same h _)
    (fun _ i ht => flipAt_noteFlip ht i) (.inl (by simp; omega))

theorem flipsNoted_frame (s : State) (f : Nat) : flipsNoted s f = s.withBus (flipsNoted s f).bus := by
  have htwo : flipsNoted s f = noteFlip f s.time.lastBoundary (noteFlip f s.time.lastBoundary s 0) 1 := rfl
  rw [htwo, noteFlip_frame, noteFlip_frame]
  rfl

theorem regWord_flipsNoted (s : State) (f k : Nat) : regWord (flipsNoted s f) k = regWord s k := by
  rw [flipsNoted_frame]
  rfl

theorem getF_flipsNoted (s : State) (f : Nat) (g : Fld) : getF (flipsNoted s f) g = getF s g :=
  getF_congr (regWord_flipsNoted s f _)

/-! ### The second order of a boundary (R80) -/

/-- The banks of the tables of `f` exchanged, the former ones draining, no flip requested any more. -/
def banksFlipped (s : State) (f : Nat) : State :=
  let t := setF s F.SYS_EPOCH_STAT_ACTIVE (getF s F.SYS_EPOCH_STAT_ACTIVE ^^^ f)
  flipsPending (setF t F.SYS_EPOCH_STAT_DRAINING (getF t F.SYS_EPOCH_STAT_DRAINING ||| f)) 0

theorem orderTwo_of_holding {s : State} (h : holding s = true) : orderTwo s = s := if_pos (by simp [h])

theorem orderTwo_of_no_flip {s : State} (h : getF s F.SYS_EPOCH_CMD_FLIP = 0) : orderTwo s = s := if_pos (by simp [h])

theorem orderTwo_of_flips {s : State} (hh : holding s = false) (hf : getF s F.SYS_EPOCH_CMD_FLIP ≠ 0) :
    orderTwo s = banksFlipped (flipsNoted s (getF s F.SYS_EPOCH_CMD_FLIP)) (getF s F.SYS_EPOCH_CMD_FLIP) :=
  if_neg (by simp [hh, hf])

section
variable (s : State) {f : Nat}

theorem getF_active_banksFlipped (hf : f < 64) :
    getF (banksFlipped s f) F.SYS_EPOCH_STAT_ACTIVE = getF s F.SYS_EPOCH_STAT_ACTIVE ^^^ f := by
  rw [banksFlipped, getF_flipsPending_other _ 0 (by decide) (by decide),
    getF_setF_other _ _ _ _ (by decide) (by decide)]
  exact getF_setF_of_lt s (by decide) (Nat.xor_lt_two_pow (n := 6) (getF_lt s F.SYS_EPOCH_STAT_ACTIVE) hf)

theorem getF_draining_banksFlipped (hf : f < 64) :
    getF (banksFlipped s f) F.SYS_EPOCH_STAT_DRAINING = getF s F.SYS_EPOCH_STAT_DRAINING ||| f := by
  rw [banksFlipped, getF_flipsPending_other _ 0 (by decide) (by decide), getF_setF_other s _ F.SYS_EPOCH_STAT_DRAINING _
    (by decide) (by decide)]
  exact getF_setF_of_lt _ (by decide) (Nat.or_lt_two_pow (n := 6) (getF_lt s F.SYS_EPOCH_STAT_DRAINING) hf)

theorem getF_flip_banksFlipped (f : Nat) : getF (banksFlipped s f) F.SYS_EPOCH_CMD_FLIP = 0 :=
  getF_flip_flipsPending _ (by decide)

theorem getF_pending_banksFlipped (f : Nat) : getF (banksFlipped s f) F.SYS_EPOCH_STAT_PENDING = 0 :=
  getF_pending_flipsPending _ (by decide)

theorem regsKept_banksFlipped (f : Nat) :
    regsKept [F.SYS_EPOCH_CMD_FLIP.key, F.SYS_EPOCH_STAT_ACTIVE.key] s (banksFlipped s f) :=
  regsKept_flipsPending (regsKept_setF (regsKept_setF (regsKept_refl _ s) (by decide) _) (by decide) _) (by decide)
    (by decide) 0

theorem busCh_banksFlipped (f c : Nat) : busCh (banksFlipped s f) c = busCh s c := rfl

end

/-! ### The end of a drain -/

theorem exec_epochDrainComplete {s : State} {n : Nat} (hn : n < 6) (hd : bitF s F.SYS_EPOCH_STAT_DRAINING n = true)
    (he : bankDrained s n = true) :
    exec (.epochDrainComplete n) s = .next (setBitF s F.SYS_EPOCH_STAT_DRAINING n false) :=
  congrArg Host.Outcome.next (if_pos ⟨hn, hd, he⟩)

theorem exec_epochDrainComplete_early {s : State} {n : Nat} (h : bankDrained s n = false) :
    exec (.epochDrainComplete n) s = .next s :=
  congrArg Host.Outcome.next (if_neg fun ⟨_, _, he⟩ => Bool.false_ne_true (h.symm.trans he))

/-- Settles O15: without a request the second order has nothing to do, and each of its fields is written once. -/
theorem epochFlipAtBoundary : Obligations.EpochFlipAtBoundary := by
  refine ⟨fun s hh => ?flips, fun s => orderTwo_of_holding, fun s n hn hd he => ?drained,
    fun s n => exec_epochDrainComplete_early⟩
  case flips =>
    by_cases hf : getF s F.SYS_EPOCH_CMD_FLIP = 0
    · simp only [orderTwo_of_no_flip hf, hf, Nat.xor_zero, Nat.or_zero, Nat.zero_testBit]
      exact ⟨trivial, trivial, trivial, nofun, regsKept_refl _ s, nofun⟩
    · have hlt : getF s F.SYS_EPOCH_CMD_FLIP < 64 := getF_lt s F.SYS_EPOCH_CMD_FLIP
      rw [orderTwo_of_flips hh hf]
      generalize getF s F.SYS_EPOCH_CMD_FLIP = f at hlt
      refine ⟨?_, ?_, getF_flip_banksFlipped _ f, fun _ => getF_pending_banksFlipped _ f, fun k hk => ?_,
        fun c hc hbit => ?_⟩
      · rw [getF_active_banksFlipped _ hlt, getF_flipsNoted]
      · rw [getF_draining_banksFlipped _ hlt, getF_flipsNoted]
      · exact (regsKept_banksFlipped _ f k hk).trans (regWord_flipsNoted s f k)
      · rw [busCh_banksFlipped, flipAt_flipsNoted s hc hbit]
  case drained =>
    exact ⟨_, exec_epochDrainComplete hn hd he, bitF_setBitF_same s false (by decide) hn,
      fun m hm hne => bitF_setBitF_other s false (by decide) hm hne, getF_setF_other s _ _ _ (by decide) (by decide),
      rfl, regsKept_setF (regsKept_refl _ s) (by decide) _⟩

end Sys2Proof.Machine

/-! # Proofs: what the operations of the ring lanes write and leave alone -/

namespace Sys2Proof.Machine

/-! ### Fields and parts of the state through updates of other parts -/

@[simp] theorem getF_withTimers (s : State) (x : List (TimerId × Nat)) (f : Fld) : getF (s.withTimers x) f = getF s f := rfl
@[simp] theorem getF_withPlaza (s : State) (x : Plaza) (f : Fld) : getF (s.withPlaza x) f = getF s f := rfl
@[simp] theorem getF_withRing (s : State) (x : Ring) (f : Fld) : getF (s.withRing x) f = getF s f := rfl
@[simp] theorem getF_withPins (s : State) (x : Pins) (f : Fld) : getF (s.withPins x) f = getF s f := rfl
@[simp] theorem getF_startTimer (s : State) (id : TimerId) (n : Nat) (f : Fld) : getF (startTimer s id n) f = getF s f := rfl
@[simp] theorem getF_stopTimer (s : State) (id : TimerId) (f : Fld) : getF (stopTimer s id) f = getF s f := rfl
@[simp] theorem getF_output (s : State) (e : OutEvent) (f : Fld) : getF (output s e) f = getF s f := rfl

/-- A port's record stands in the Crossing's part alone. -/
theorem setPortSt_frame (s : State) (n : Nat) (x : PortSt) : setPortSt s n x = s.withRing (setPortSt s n x).ring := by
  unfold setPortSt
  split <;> rfl

theorem ensureTimer_frame (s : State) (id : TimerId) (n : Nat) :
    ensureTimer s id n = s.withTimers (ensureTimer s id n).timers := by
  unfold ensureTimer
  split <;> rfl

@[simp] theorem getF_setPortSt (s : State) (n : Nat) (x : PortSt) (f : Fld) : getF (setPortSt s n x) f = getF s f := by
  rw [setPortSt_frame]
  rfl

@[simp] theorem getF_ensureTimer (s : State) (id : TimerId) (n : Nat) (f : Fld) :
    getF (ensureTimer s id n) f = getF s f := by
  rw [ensureTimer_frame]
  rfl

@[simp] theorem portSt_setPortSt_same (s : State) (n : Nat) (x : PortSt) : portSt (setPortSt s n x) n = x := by
  match n with
  | 0 => rfl
  | 1 => rfl
  | _ + 2 => rfl

@[simp] theorem portSt_setF (s : State) (f : Fld) (n p : Nat) : portSt (setF s f n) p = portSt s p := rfl
@[simp] theorem portSt_setFlag (s : State) (f : Fld) (b : Bool) (p : Nat) : portSt (setFlag s f b) p = portSt s p := rfl
@[simp] theorem portSt_addF (s : State) (f : Fld) (k p : Nat) : portSt (addF s f k) p = portSt s p := rfl
@[simp] theorem portSt_incF (s : State) (f : Fld) (p : Nat) : portSt (incF s f) p = portSt s p := rfl
@[simp] theorem portSt_output (s : State) (e : OutEvent) (p : Nat) : portSt (output s e) p = portSt s p := rfl
@[simp] theorem portSt_startTimer (s : State) (id : TimerId) (n p : Nat) :
    portSt (startTimer s id n) p = portSt s p := rfl
@[simp] theorem portSt_stopTimer (s : State) (id : TimerId) (p : Nat) : portSt (stopTimer s id) p = portSt s p := rfl
@[simp] theorem portSt_withTimers (s : State) (x : List (TimerId × Nat)) (p : Nat) :
    portSt (s.withTimers x) p = portSt s p := rfl
@[simp] theorem portSt_withPins (s : State) (x : Pins) (p : Nat) : portSt (s.withPins x) p = portSt s p := rfl

@[simp] theorem portSt_ensureTimer (s : State) (id : TimerId) (n p : Nat) :
    portSt (ensureTimer s id n) p = portSt s p := by
  rw [ensureTimer_frame]
  rfl

/-- A field beside the one written, in the same register or in another. -/
theorem getF_setF_ne (s : State) {f g : Fld} (n : Nat) (hw : f.lo + f.width ≤ 32)
    (h : g.key = f.key → g.lo + g.width ≤ f.lo ∨ f.lo + f.width ≤ g.lo) : getF (setF s f n) g = getF s g := by
  by_cases hk : g.key = f.key
  · exact getF_setF_other s f g n hw (.inr (h hk))
  · exact getF_setF_apart s n hk

theorem port_lt_of_hasPort {s : State} {p : Nat} (h : hasPort s p = true) : p < 3 := by
  simp only [hasPort, Bool.or_eq_true, decide_eq_true_eq, Bool.and_eq_true] at h
  omega

end Sys2Proof.Machine

/-! # Proofs: what breaking a ring port leaves alone -/

namespace Sys2Proof.Machine

/-- From `s` to `t` the clock, the die, the device state and the registers of RNG below the key `hi` stay. -/
structure RngKept (hi : Nat) (s t : State) : Prop where
  mono : t.mono = s.mono
  ident : t.ident = s.ident
  dev : t.dev = s.dev
  word : ∀ k, keyOf unitRNG 0 ≤ k → k < hi → regWord t k = regWord s k

section
variable {hi : Nat} {s t u : State} {α : Type}

/-! ### Choices, folds and updates -/

protected theorem RngKept.refl (s : State) : RngKept hi s s := ⟨rfl, rfl, rfl, fun _ _ _ => rfl⟩

/-- An update beside the clock, the die, the device state and the registers. -/
protected theorem RngKept.same (h : RngKept hi s t) (hm : u.mono = t.mono) (hi' : u.ident = t.ident) (hd : u.dev = t.dev)
    (hr : u.regs = t.regs) : RngKept hi s u :=
  ⟨hm.trans h.mono, hi'.trans h.ident, hd.trans h.dev,
    fun k hlo hhi => (regWord_congr hr (congrArg Ident.variant hi') k).trans (h.word k hlo hhi)⟩

protected theorem RngKept.ite {c : Prop} {_ : Decidable c} {a b : State} (ha : RngKept hi s a) (hb : RngKept hi s b) :
    RngKept hi s (if c then a else b) := by
  split
  · exact ha
  · exact hb

/-- A step taken in one case only, from the state of the other case. -/
protected theorem RngKept.when {c : Prop} {_ : Decidable c} {a : State} (h : RngKept hi s t)
    (ha : RngKept hi s t → RngKept hi s a) : RngKept hi s (if c then a else t) := .ite (ha h) h

protected theorem RngKept.unless {c : Prop} {_ : Decidable c} {b : State} (h : RngKept hi s t)
    (hb : RngKept hi s t → RngKept hi s b) : RngKept hi s (if c then t else b) := .ite h (hb h)

protected theorem RngKept.iteSnd {β : Type} {c : Prop} {_ : Decidable c} {a b : β × State} (ha : RngKept hi s a.2)
    (hb : RngKept hi s b.2) : RngKept hi s (if c then a else b).2 := by
  split
  · exact ha
  · exact hb

protected theorem RngKept.foldl {f : State → α → State} {l : List α} (h : RngKept hi s t)
    (hf : ∀ v, ∀ x ∈ l, RngKept hi s v → RngKept hi s (f v x)) : RngKept hi s (l.foldl f t) :=
  List.foldlRecOn l f h fun v hv x hx => hf v x hx hv

protected theorem RngKept.setF {f n} (h : RngKept hi s t) (hf : f.key < keyOf unitRNG 0 ∨ hi ≤ f.key) :
    RngKept hi s (setF t f n) :=
  ⟨h.mono, h.ident, h.dev, fun k hlo hhi => (regWord_setF_other t n (by omega)).trans (h.word k hlo hhi)⟩

protected theorem RngKept.incF {f} (h : RngKept hi s t) (hf : f.key < keyOf unitRNG 0 ∨ hi ≤ f.key) :
    RngKept hi s (incF t f) := h.setF hf

/-- A register of Plaza. -/
protected theorem RngKept.setLow {f n} (h : RngKept hi s t) (hf : f.key < keyOf unitRNG 0) : RngKept hi s (setF t f n) :=
  h.setF (.inl hf)

protected theorem RngKept.incLow {f} (h : RngKept hi s t) (hf : f.key < keyOf unitRNG 0) : RngKept hi s (incF t f) :=
  h.setLow hf

protected theorem RngKept.memWrite {a bs} (h : RngKept hi s t) : RngKept hi s (memWrite t a bs) := h.same rfl rfl rfl rfl
protected theorem RngKept.withPlaza {x} (h : RngKept hi s t) : RngKept hi s (t.withPlaza x) := h.same rfl rfl rfl rfl
protected theorem RngKept.withFresh {x} (h : RngKept hi s t) : RngKept hi s (t.withFresh x) := h.same rfl rfl rfl rfl
protected theorem RngKept.withRing {x} (h : RngKept hi s t) : RngKept hi s (t.withRing x) := h.same rfl rfl rfl rfl
protected theorem RngKept.withFlt {x} (h : RngKept hi s t) : RngKept hi s (t.withFlt x) := h.same rfl rfl rfl rfl
protected theorem RngKept.withTwin {x} (h : RngKept hi s t) : RngKept hi s (t.withTwin x) := h.same rfl rfl rfl rfl
protected theorem RngKept.withTxn {x} (h : RngKept hi s t) : RngKept hi s (t.withTxn x) := h.same rfl rfl rfl rfl
protected theorem RngKept.output {e} (h : RngKept hi s t) : RngKept hi s (output t e) := h.same rfl rfl rfl rfl

protected theorem RngKept.startTimer {id n} (h : RngKept hi s t) : RngKept hi s (startTimer t id n) :=
  h.same rfl rfl rfl rfl

protected theorem RngKept.stopTimer {id} (h : RngKept hi s t) : RngKept hi s (stopTimer t id) := h.same rfl rfl rfl rfl

protected theorem RngKept.setPortSt {n x} (h : RngKept hi s t) : RngKept hi s (setPortSt t n x) := by
  rw [setPortSt_frame]
  exact h.withRing

/-! ### Plaza's queues and capture -/

protected theorem RngKept.writeCells {cs bytes} (h : RngKept hi s t) : RngKept hi s (writeCells t cs bytes) := by
  induction cs generalizing t bytes with
  | nil => exact h
  | cons c cs ih => exact ih h.memWrite

protected theorem RngKept.writeHeader {f} (h : RngKept hi s t) : RngKept hi s (writeHeader t f) := by
  dsimp only [writeHeader]
  split
  · exact h
  · exact .ite h h.memWrite

/-- The registers of a queue that exists, and the counter of a drop reason, are Plaza's. -/
theorem queueKeys_lt {q reason : Nat} (hq : q < 1024) (hr : reason < 16) :
    (dropCounter reason).key < keyOf unitRNG 0 ∧ (F.PLZ_Q_DROP_COUNT q).key < keyOf unitRNG 0
      ∧ (F.PLZ_Q_DEPTH_LAST_REASON q).key < keyOf unitRNG 0 ∧ (F.PLZ_Q_MARK_COUNT q).key < keyOf unitRNG 0 := by
  simp only [dropCounter, F.PLZ_DROP_POOL_COUNT, F.PLZ_Q_DROP_COUNT, F.PLZ_Q_DEPTH_LAST_REASON, F.PLZ_Q_MARK_COUNT, keyOf,
    unitRNG]
  omega

protected theorem RngKept.dropAt {q cls reason} (h : RngKept hi s t) (hq : q < 1024) (hr : reason < 16) :
    RngKept hi s (dropAt t q cls reason) := by
  obtain ⟨hdrop, hcount, hlast, -⟩ := queueKeys_lt hq hr
  exact .ite (((h.incLow hdrop).incLow hcount).setLow hlast).withPlaza (((h.incLow hdrop).incLow hcount).setLow hlast)

protected theorem RngKept.markFrame {q fid} (h : RngKept hi s t) (hq : q < 1024) : RngKept hi s (markFrame t q fid) := by
  obtain ⟨-, -, -, hmark⟩ := queueKeys_lt hq (show 0 < 16 by decide)
  exact ((h.incLow (by decide)).incLow hmark).withPlaza

protected theorem RngKept.pushRef {x fid n} (h : RngKept hi s t) : RngKept hi s (pushRef t x fid n) := h.withPlaza

protected theorem RngKept.storeFrame {f x} (h : RngKept hi s t) : RngKept hi s (storeFrame t f x) :=
  h.withFresh.withPlaza.pushRef.writeCells

theorem admitReason_lt (s : State) (q cls : Nat) : admitReason s q cls < 16 := by
  unfold admitReason
  dsimp only
  split_ifs <;> decide

theorem offerReason_lt (s : State) (f : PlzFrame) {x : Target} (hx : x.reason < 16) : offerReason s f x < 16 := by
  have hreason : (if x.reason ≠ 0 then x.reason else admitReason s x.queue f.cls) < 16 := by
    split
    · exact hx
    · exact admitReason_lt s _ _
  unfold offerReason
  dsimp only
  generalize (if x.reason ≠ 0 then x.reason else admitReason s x.queue f.cls) = r at hreason ⊢
  split
  · decide
  · exact hreason

protected theorem RngKept.offerQueue {f x} (h : RngKept hi s t) (hq : x.queue < 1024) (hr : x.reason < 16) :
    RngKept hi s (offerQueue t f x) := by
  dsimp only [offerQueue]
  split
  · exact h.dropAt hq (offerReason_lt t f hr)
  · split <;> split
    · exact h.pushRef.markFrame hq
    · exact h.storeFrame.markFrame hq
    · exact h.pushRef
    · exact h.storeFrame

protected theorem RngKept.captureRecord {f q depth cause reason} (h : RngKept hi s t) :
    RngKept hi s (captureRecord t f q depth cause reason) :=
  .ite (RngKept.incLow (.ite (h.setLow (by decide)) h) (by decide)) <| .ite (h.incLow (by decide)) <|
    ((h.memWrite.setLow (by decide)).incLow (by decide)).withPlaza

protected theorem RngKept.sampleStep {f} (h : RngKept hi s t) : RngKept hi s (sampleStep t f).2 :=
  .iteSnd (.iteSnd h.withPlaza h.withPlaza) h

protected theorem RngKept.captureFrame {f ds} (h : RngKept hi s t) : RngKept hi s (captureFrame t f ds) := by
  have hs : RngKept hi s (sampleStep t f).2 := h.sampleStep
  dsimp only [captureFrame]
  split
  · refine .ite (RngKept.captureRecord (.ite (hs.setLow (by decide)) hs)).withPlaza
      (.ite (RngKept.captureRecord (.ite (hs.setLow (by decide)) hs)).withPlaza ?_)
    split
    · exact hs.captureRecord.withPlaza
    · exact hs
  · exact h

theorem portStatKey_lt {p : Nat} (hp : ¬ 96 ≤ p) : (F.PLZ_PORT_STAT_XOFF_TX p).key < keyOf unitRNG 0 := by
  simp only [F.PLZ_PORT_STAT_XOFF_TX, keyOf, unitRNG]
  omega

/-! ### Registers of units above the Crossing -/

section
variable (hhi : hi ≤ keyOf unitACC 0)
include hhi

protected theorem RngKept.setHigh {f n} (h : RngKept hi s t) (hf : keyOf unitACC 0 ≤ f.key) : RngKept hi s (setF t f n) :=
  h.setF (.inr (hhi.trans hf))

protected theorem RngKept.incHigh {f} (h : RngKept hi s t) (hf : keyOf unitACC 0 ≤ f.key) : RngKept hi s (incF t f) :=
  h.setHigh hhi hf

/-- The same for a counter of one of several alike. -/
protected theorem RngKept.incHighAt {a m lo w} (h : RngKept hi s t) (ha : keyOf unitACC 0 ≤ a) :
    RngKept hi s (incF t ⟨a + m, lo, w⟩) := h.incHigh hhi (Nat.le_add_right_of_le ha)

protected theorem RngKept.sendPause {p pfc prios quanta} (h : RngKept hi s t) :
    RngKept hi s (sendPause t p pfc prios quanta) := h.output.incHighAt hhi (by decide)

protected theorem RngKept.pauseTotal {p} (h : RngKept hi s t) (hp : ¬ 96 ≤ p) : RngKept hi s (pauseTotal t p) :=
  .ite ((h.setLow (portStatKey_lt hp)).sendPause hhi).startTimer <|
    .ite ((h.setLow (portStatKey_lt hp)).sendPause hhi).stopTimer h

protected theorem RngKept.pauseClass {p c} (h : RngKept hi s t) (hp : ¬ 96 ≤ p) : RngKept hi s (pauseClass t p c) :=
  .ite (RngKept.sendPause hhi (h.setLow (portStatKey_lt hp))).startTimer <|
    .ite (RngKept.sendPause hhi (h.setLow (portStatKey_lt hp))).stopTimer h

protected theorem RngKept.pauseCheck {p} (h : RngKept hi s t) : RngKept hi s (pauseCheck t p) := by
  unfold pauseCheck
  split
  · exact h
  next hp =>
    exact .ite (h.foldl fun _ _ _ h => h.pauseClass hhi hp) <| .ite (h.pauseTotal hhi hp) <| .ite h <|
      (h.setLow (portStatKey_lt hp)).foldl fun _ _ _ h => h.stopTimer

protected theorem RngKept.storeAndOffer {f targets} (h : RngKept hi s t)
    (hts : ∀ x ∈ targets, x.queue < 1024 ∧ x.reason < 16) : RngKept hi s (storeAndOffer t f targets) := by
  dsimp only [storeAndOffer]
  split
  · exact (h.withPlaza.foldl fun _ x hx h => h.offerQueue (hts x hx).1 (hts x hx).2).writeHeader.captureFrame.pauseCheck hhi
  · exact (h.withPlaza.foldl fun _ x hx h => h.offerQueue (hts x hx).1 (hts x hx).2).captureFrame.pauseCheck hhi

protected theorem RngKept.removeRef {q r} (h : RngKept hi s t) : RngKept hi s (removeRef t q r) := by
  dsimp only [removeRef]
  split
  · exact h.withPlaza
  · exact .ite (h.withPlaza.withPlaza.pauseCheck hhi) h.withPlaza.writeHeader

/-! ### Fault records and the twin -/

protected theorem RngKept.produceCounted {n producer prio bytes} (h : RngKept hi s t) :
    RngKept hi s (produceCounted t n producer prio bytes) :=
  .ite (h.same rfl rfl rfl rfl) (h.incHighAt hhi (by decide))

protected theorem RngKept.storeRecord {cls record} (h : RngKept hi s t) : RngKept hi s (storeRecord t cls record) :=
  .ite (RngKept.produceCounted hhi (h.memWrite.setHigh hhi (by decide))) (h.memWrite.setHigh hhi (by decide))

protected theorem RngKept.errPulse {cls} (h : RngKept hi s t) : RngKept hi s (errPulse t cls) :=
  .ite (.ite (h.withFlt.startTimer.setHigh hhi (by decide)) h.withFlt.startTimer) h

protected theorem RngKept.countFault {cls unit} (h : RngKept hi s t) : RngKept hi s (countFault t cls unit) :=
  ((h.incHigh hhi (by decide)).incHighAt hhi (by decide)).incHighAt hhi (by decide)

protected theorem RngKept.logFault {code cls reaction unit info0 info1} (h : RngKept hi s t) :
    RngKept hi s (logFault t code cls reaction unit info0 info1) := by
  have hcount : RngKept hi s (countFault t cls unit) := h.countFault hhi
  have hstored (record : List Byte) : RngKept hi s (storeRecord (countFault t cls unit) cls record) :=
    hcount.storeRecord hhi
  refine RngKept.errPulse hhi (.ite (hcount.incHigh hhi (by decide)) ?_)
  dsimp only
  split
  · exact .ite (.ite (hstored _).withFlt.memWrite.withFlt (hstored _).withFlt) (hstored _).withFlt
  · exact .ite (.ite (hstored _).memWrite.withFlt (hstored _)) (hstored _)

protected theorem RngKept.recordFault {code unit info0 info1} (h : RngKept hi s t) :
    RngKept hi s (recordFault t code unit info0 info1) := by
  dsimp only [recordFault]
  split
  · exact h.logFault hhi
  · exact h

protected theorem RngKept.leaveActive {r} (h : RngKept hi s t) : RngKept hi s (leaveActive t r) :=
  (RngKept.setHigh hhi h.withTwin.withTwin (by decide)).withTxn.withTwin

protected theorem RngKept.releaseIfPeerReady (h : RngKept hi s t) : RngKept hi s (releaseIfPeerReady t) :=
  .ite (.ite h <| .ite h.withTwin (h.leaveActive hhi)) h

protected theorem RngKept.twinLinkLost (h : RngKept hi s t) : RngKept hi s (twinLinkLost t) :=
  have hended : RngKept hi s (endResync (stopTimer _ .twinKa)) :=
    ((h.withTwin.stopTimer.setHigh hhi (by decide)).setHigh hhi (by decide)).withTwin
  .ite hended.withTwin (.ite (hended.leaveActive hhi) hended)

end

/-! ### Breaks (R126, R127, R131) -/

/-- The registers of lanes and ports that a break leaves: those of RNG below its configuration. -/
def rngLanesEnd : Nat := F.RNG_CFG_HOP_LIMIT.key

theorem ringQueue_lt {port cls : Nat} (hp : port < 2) (hc : cls < 8) (k : RingKind) : ringQueue port cls k < 1024 := by
  cases k with
  | transit => simp only [ringQueue]; omega
  | added => simp only [ringQueue]; split <;> omega
  | response => simp only [ringQueue]; omega

/-- A frame without a sub-queue of its own goes to one of the fixed queues of a ring port. -/
theorem mem_ringTarget {s : State} {port : Nat} {k : RingKind} {f : RingFrame} {x : Target} (hp : port < 2)
    (hx : x ∈ (ringTarget s port k f 0).1) : x.queue < 1024 ∧ x.reason < 16 := by
  have hway {p : Nat} {w : Bool} (hp : p < 2)
      (hx : x ∈ [(⟨pickRingQueue s p f.cls.toNat 0 k, shadowType k f, 0, w, none⟩ : Target)]) :
      x.queue < 1024 ∧ x.reason < 16 := by
    rw [List.mem_singleton.1 hx]
    exact ⟨ringQueue_lt hp f.cls.isLt k, Nat.zero_lt_succ _⟩
  unfold ringTarget at hx
  split at hx
  · exact hway hp hx
  · split at hx
    · cases hx
    · split at hx
      · exact hway (by omega) hx
      · cases hx

section
variable {s t : State} {port : Nat}

protected theorem RngKept.ringTarget {k f sq} (h : RngKept rngLanesEnd s t) :
    RngKept rngLanesEnd s (ringTarget t port k f sq).2 :=
  .iteSnd h <| .iteSnd (.ite h (h.incF (by decide))) <| .iteSnd h (.ite h (h.incF (by decide)))

protected theorem RngKept.addOnPort {f} (h : RngKept rngLanesEnd s t) (hp : port < 2) :
    RngKept rngLanesEnd s (addOnPort t port f) :=
  have hseq : RngKept rngLanesEnd s (nextSeq t f.destNode.toNat (port = 1)).2 := h.withRing
  .ite hseq.ringTarget <|
    .ite (hseq.ringTarget.storeAndOffer (by decide) fun _ hx => mem_ringTarget hp hx) hseq.ringTarget

protected theorem RngKept.sendWrapNotice {event} (h : RngKept rngLanesEnd s t) :
    RngKept rngLanesEnd s (sendWrapNotice t port event) :=
  .ite h <| .ite (h.withRing.setF (by decide)) <| (h.withRing.addOnPort (by decide)).addOnPort (by decide)

protected theorem RngKept.relinkQueue {src dst} (h : RngKept rngLanesEnd s t) :
    RngKept rngLanesEnd s (relinkQueue t src dst) :=
  h.foldl fun v r _ hv => by
    dsimp only
    split
    · exact .ite hv.withPlaza.withPlaza (.ite (hv.removeRef (by decide)) ((hv.removeRef (by decide)).incF (by decide)))
    · exact hv

protected theorem RngKept.relinkPort (h : RngKept rngLanesEnd s t) : RngKept rngLanesEnd s (relinkPort t port) :=
  ((h.foldl fun _ _ _ h => h.relinkQueue).foldl fun _ _ _ h => h.relinkQueue).relinkQueue

protected theorem RngKept.declareBroken (h : RngKept rngLanesEnd s t) : RngKept rngLanesEnd s (declareBroken t port) := by
  have hfar {a m lo w n} {v : State} (hv : RngKept rngLanesEnd s v) (ha : rngLanesEnd ≤ a) :
      RngKept rngLanesEnd s (setF v ⟨a + m, lo, w⟩ n) := hv.setF (.inr (Nat.le_add_right_of_le ha))
  have hheal : RngKept rngLanesEnd s (loseHeal t port) := .ite h.stopTimer.setPortSt.startTimer h.stopTimer
  have hcount : RngKept rngLanesEnd s (incF (countSuspects t port) (F.RNG_PORT_BREAK_COUNT port)) :=
    hfar (hfar h.setPortSt (by decide)) (by decide)
  have hbits : RngKept rngLanesEnd s (setBitF (setBitF _ F.RNG_STAT_BROKEN port true) F.RNG_STAT_WRAP port true) :=
    (hcount.setF (by decide)).setF (by decide)
  exact .ite h <| .ite hheal <|
    ((hbits.setPortSt.stopTimer.startTimer.unless (·.relinkPort)).sendWrapNotice.recordFault (by decide)).when
      (·.releaseIfPeerReady (by decide))

end
end

/-- Leaving Up keeps what a break keeps. -/
theorem rngKept_leaveUp (s : State) (p : Nat) : RngKept rngLanesEnd s (leaveUp s p) :=
  .ite (.ite ((RngKept.refl s).twinLinkLost (by decide)) (RngKept.refl s).declareBroken) (.refl s)

theorem mono_leaveUp (s : State) (p : Nat) : (leaveUp s p).mono = s.mono := (rngKept_leaveUp s p).mono

theorem leaveUp_of_not_up {s : State} {p : Nat} (h : buState s p ≠ buUp) : leaveUp s p = s := if_neg h

end Sys2Proof.Machine

/-! # Proofs: bring-up of ring ports and the twin link -/

namespace Sys2Proof.Machine

/-! ### Registers that bring-up writes -/

theorem getF_setFlag_ne (s : State) {f g : Fld} (b : Bool) (hw : f.lo + f.width ≤ 32)
    (h : g.key = f.key → g.lo + g.width ≤ f.lo ∨ f.lo + f.width ≤ g.lo) : getF (setFlag s f b) g = getF s g :=
  getF_setF_ne s _ hw h

/-- The equalisation of a port's lanes stands above every other register of a port. -/
theorem getF_loadPortEq (s : State) (p rate : Nat) {f : Fld} (h : f.key < (F.RNG_LANE_EQ_TX_TAPS 0).key) :
    getF (loadPortEq s p rate) f = getF s f := by
  have hfar {key : Nat} (hk : (F.RNG_LANE_EQ_TX_TAPS 0).key ≤ key) (s : State) (w : Word) :
      getF (setWord s key w) f = getF s f :=
    getF_congr (regWord_setWord_other s w (Nat.lt_of_lt_of_le h hk).ne)
  have hlane (m : Nat) : (F.RNG_LANE_EQ_TX_TAPS 0).key ≤ (F.RNG_LANE_EQ_TX_TAPS m).key :=
    Nat.le_add_right _ _
  unfold loadPortEq loadEq
  dsimp only
  rw [hfar (Nat.le_add_right_of_le (hlane _)), hfar (hlane _), hfar (Nat.le_add_right_of_le (hlane _)), hfar (hlane _)]

theorem loadPortEq_frame (s : State) (p rate : Nat) :
    loadPortEq s p rate = s.withRegs (loadPortEq s p rate).regs := rfl

@[simp] theorem portSt_loadPortEq (s : State) (p rate q : Nat) : portSt (loadPortEq s p rate) q = portSt s q := rfl

theorem settlePort_frame (s : State) (p : Nat) : settlePort s p = s.withPlaza (settlePort s p).plaza := by
  unfold settlePort settleAdded
  split
  · exact List.foldlRecOn (motive := fun t => t = s.withPlaza t.plaza) _ _ rfl fun t ht c _ => by
      rw [ht]
      rfl
  · rfl

@[simp] theorem getF_settlePort (s : State) (p : Nat) (f : Fld) : getF (settlePort s p) f = getF s f := by
  rw [settlePort_frame]
  rfl

@[simp] theorem portSt_settlePort (s : State) (p q : Nat) : portSt (settlePort s p) q = portSt s q := by
  rw [settlePort_frame]
  rfl

theorem stopBringup_frame (s : State) (p : Nat) : stopBringup s p = s.withTimers (stopBringup s p).timers :=
  List.foldlRecOn (motive := fun t => t = s.withTimers t.timers) _ _ rfl fun t ht c _ => by
    rw [ht]
    rfl

@[simp] theorem getF_stopBringup (s : State) (p : Nat) (f : Fld) : getF (stopBringup s p) f = getF s f := by
  rw [stopBringup_frame, getF_withTimers]

@[simp] theorem portSt_stopBringup (s : State) (p q : Nat) : portSt (stopBringup s p) q = portSt s q := by
  rw [stopBringup_frame, portSt_withTimers]

@[simp] theorem getF_dropLock (s : State) (p : Nat) (f : Fld) : getF (dropLock s p) f = getF s f := getF_setPortSt s p _ f
@[simp] theorem getF_restartTx (s : State) (p : Nat) (f : Fld) : getF (restartTx s p) f = getF s f :=
  getF_setPortSt s p _ f

/-- A port without markers holds no word lock. -/
@[simp] theorem wordLock_dropLock (s : State) (p : Nat) : wordLock (dropLock s p) p = false := by
  simp [wordLock, dropLock, LaneRx.reset]

/-! ### The clock -/

@[simp] theorem mono_setF (s : State) (f : Fld) (n : Nat) : (setF s f n).mono = s.mono := rfl
@[simp] theorem mono_setFlag (s : State) (f : Fld) (b : Bool) : (setFlag s f b).mono = s.mono := rfl
@[simp] theorem mono_incF (s : State) (f : Fld) : (incF s f).mono = s.mono := rfl
@[simp] theorem mono_output (s : State) (e : OutEvent) : (output s e).mono = s.mono := rfl
@[simp] theorem mono_loadPortEq (s : State) (p rate : Nat) : (loadPortEq s p rate).mono = s.mono := rfl

@[simp] theorem mono_setPortSt (s : State) (n : Nat) (x : PortSt) : (setPortSt s n x).mono = s.mono := by
  rw [setPortSt_frame]
  rfl

@[simp] theorem mono_dropLock (s : State) (p : Nat) : (dropLock s p).mono = s.mono := mono_setPortSt s p _
@[simp] theorem mono_restartTx (s : State) (p : Nat) : (restartTx s p).mono = s.mono := mono_setPortSt s p _

@[simp] theorem mono_settlePort (s : State) (p : Nat) : (settlePort s p).mono = s.mono := by
  rw [settlePort_frame]
  rfl

@[simp] theorem mono_stopBringup (s : State) (p : Nat) : (stopBringup s p).mono = s.mono := by
  rw [stopBringup_frame, State.withTimers_mono]

section
variable {s : State} {p : Nat}

/-! ### Cap (R97) -/

/-- The registers and the port as Cap leaves them, but for the port's record and its equalisation. -/
def capShown (s : State) (p : Nat) : State :=
  let s := settlePort (stopBringup (leaveUp s p) p) p
  let s := setF (setBuState s p buCap) (F.RNG_PORT_STAT_RATE p) 0
  let s := setFlag (setFlag (setFlag s (F.RNG_PORT_STAT_ENC p) false) (F.RNG_PORT_STAT_FR p) false)
    (F.RNG_PORT_CTL_RETRAIN p) false
  setFlag (dropLock s p) (F.RNG_PORT_STAT_SWAPPED p) false

theorem enterCap_eq (s : State) (p : Nat) : ∃ x e, enterCap s p
    = startTimer (output (loadPortEq (restartTx (setPortSt (capShown s p) p x) p) p 0) e) (.cap p) (100 * ticksMs) :=
  ⟨_, _, rfl⟩

theorem getF_enterCap {f : Fld} (h : f.key < (F.RNG_LANE_EQ_TX_TAPS 0).key) :
    getF (enterCap s p) f = getF (capShown s p) f := by
  obtain ⟨x, e, heq⟩ := enterCap_eq s p
  rw [heq, getF_startTimer, getF_output, getF_loadPortEq _ _ _ h, getF_restartTx, getF_setPortSt]

/-- What Cap shows: the state, the lowest rate, and nothing asked for. -/
theorem capShown_shows : buState (capShown s p) p = buCap ∧ buRate (capShown s p) p = 0
    ∧ flag (capShown s p) (F.RNG_PORT_CTL_RETRAIN p) = false := by
  simp [buState, buRate, flag, capShown, setFlag, getF_setF_ne, getF_setF_same, setBuState, buCap,
    F.RNG_PORT_STAT_STATE, F.RNG_PORT_STAT_RATE, F.RNG_PORT_STAT_ENC,
    F.RNG_PORT_STAT_FR, F.RNG_PORT_STAT_SWAPPED, F.RNG_PORT_CTL_RETRAIN, bit01]

theorem getF_capShown_apart {f : Fld} (hstat : f.key ≠ (F.RNG_PORT_STAT_STATE p).key)
    (hctl : f.key ≠ (F.RNG_PORT_CTL_RETRAIN p).key) : getF (capShown s p) f = getF (leaveUp s p) f := by
  have hrate : f.key ≠ (F.RNG_PORT_STAT_RATE p).key := hstat
  have henc : f.key ≠ (F.RNG_PORT_STAT_ENC p).key := hstat
  have hfr : f.key ≠ (F.RNG_PORT_STAT_FR p).key := hstat
  have hswapped : f.key ≠ (F.RNG_PORT_STAT_SWAPPED p).key := hstat
  simp only [capShown, setFlag, setBuState, getF_setF_apart _ _ hstat, getF_setF_apart _ _ hrate, getF_setF_apart _ _ henc,
    getF_setF_apart _ _ hfr, getF_setF_apart _ _ hswapped, getF_setF_apart _ _ hctl, getF_dropLock, getF_settlePort,
    getF_stopBringup]

/-- The registers of a port stand below those of the lanes' equalisation. -/
theorem lt_lanes_of_port (hp : p < 3) {a : Nat} (ha : a < 0x200000080) : a + 0x40 * p < (F.RNG_LANE_EQ_TX_TAPS 0).key := by
  simp only [F.RNG_LANE_EQ_TX_TAPS]
  omega

theorem buState_enterCap (hp : p < 3) : buState (enterCap s p) p = buCap :=
  (getF_enterCap (lt_lanes_of_port hp (by decide))).trans capShown_shows.1

theorem buRate_enterCap (hp : p < 3) : buRate (enterCap s p) p = 0 :=
  (getF_enterCap (lt_lanes_of_port hp (by decide))).trans capShown_shows.2.1

theorem retrain_enterCap (hp : p < 3) : flag (enterCap s p) (F.RNG_PORT_CTL_RETRAIN p) = false :=
  (flag_congr (getF_enterCap (lt_lanes_of_port hp (by decide)))).trans capShown_shows.2.2

/-- A port's configuration and the record of its bring-up stay as a port that is not Up enters Cap. -/
theorem getF_enterCap_cfg (hp : p < 3) (h : buState s p ≠ buUp) {lo w : Nat} :
    getF (enterCap s p) ⟨(F.RNG_PORT_CFG_EN p).key, lo, w⟩ = getF s ⟨(F.RNG_PORT_CFG_EN p).key, lo, w⟩ := by
  rw [getF_enterCap (lt_lanes_of_port hp (by decide)), getF_capShown_apart, leaveUp_of_not_up h] <;>
    simp only [F.RNG_PORT_CFG_EN, F.RNG_PORT_STAT_STATE, F.RNG_PORT_CTL_RETRAIN] <;> omega

theorem reason_enterCap (hp : p < 3) (h : buState s p ≠ buUp) :
    getF (enterCap s p) (F.RNG_PORT_BRINGUP_REASON p) = getF s (F.RNG_PORT_BRINGUP_REASON p) := by
  rw [getF_enterCap (lt_lanes_of_port hp (by decide)), getF_capShown_apart, leaveUp_of_not_up h] <;>
    simp only [F.RNG_PORT_BRINGUP_REASON, F.RNG_PORT_STAT_STATE, F.RNG_PORT_CTL_RETRAIN] <;> omega

theorem mono_capShown : (capShown s p).mono = s.mono := by
  simp only [capShown, setBuState, mono_setF, mono_setFlag, mono_dropLock, mono_settlePort, mono_stopBringup, mono_leaveUp]

/-- Cap lasts 100 ms from its entry. -/
theorem capTimer_enterCap : lookupKey (.cap p) (enterCap s p).timers = some (s.mono + 100 * ticksMs) := by
  obtain ⟨x, e, heq⟩ := enterCap_eq s p
  rw [heq, lookup_startTimer, if_pos rfl, mono_output, mono_loadPortEq, mono_restartTx, mono_setPortSt, mono_capShown]

/-! ### Down (R97) -/

theorem enterDown_shows : buState (enterDown s p) p = buDown ∧ flag (enterDown s p) (F.RNG_PORT_STAT_ENC p) = false := by
  simp [buState, flag, enterDown, setFlag, getF_setF_ne, getF_setF_same, setBuState, buDown, F.RNG_PORT_STAT_STATE,
    F.RNG_PORT_STAT_ENC, F.RNG_PORT_STAT_FR, bit01]

/-! ### Up (R97, R301) -/

theorem getF_setWords_below (s : State) {key : Nat} (n v : Nat) {f : Fld} (h : f.key < key) :
    getF (setWords s key n v) f = getF s f := by
  induction n generalizing s key v with
  | zero => rfl
  | succ n ih =>
    rw [setWords, ih _ _ (by omega)]
    exact getF_congr (regWord_setWord_other s _ (by omega))

theorem getF_startCounter_below (s : State) (slot gen : Nat) {f : Fld} (h : f.key < keyOf unitCIP 0) :
    getF (startCounter s slot gen) f = getF s f := by
  have hfar {a m n v : Nat} (ha : keyOf unitCIP 0 ≤ a) (s : State) : getF (setWords s (a + m) n v) f = getF s f :=
    getF_setWords_below s n v (Nat.lt_of_lt_of_le h (Nat.le_add_right_of_le ha))
  have hset (t : State) (c l : Nat) : getF (setNlim (setNctr t slot c) slot l) f = getF t f :=
    (hfar (by decide) _).trans (hfar (by decide) _)
  unfold startCounter
  split
  · split <;> exact hset _ _ _
  · exact hset _ _ _

theorem getF_countUnder_below (s : State) (slot gen : Nat) {f : Fld} (h : f.key < keyOf unitCIP 0) :
    getF (countUnder s slot gen) f = getF s f := by
  unfold countUnder
  split
  · rfl
  · exact getF_startCounter_below _ slot gen h

@[simp] theorem getF_cacheSegment (s : State) (gen lower higher dir : Nat) (key : BitVec 256) (f : Fld) :
    getF (cacheSegment s gen lower higher dir key) f = getF s f := rfl

theorem getF_deriveSegment_below (s : State) (p : Nat) {f : Fld} (h : f.key < keyOf unitCIP 0) :
    getF (deriveSegment s p) f = getF s f := by
  have hcount : f.key ≠ F.CIP_DERIVE_COUNT.key := (Nat.lt_of_lt_of_le h (by decide)).ne
  unfold deriveSegment
  dsimp only
  split
  · rfl
  · simp only [addF, getF_setF_apart _ _ hcount, getF_cacheSegment, getF_setPortSt, getF_countUnder_below _ _ _ h]

theorem getF_goUp {f : Fld} (h : f.key < keyOf unitCIP 0) : getF (goUp s p) f
    = getF (setFlag (setBuState (stopBringup s p) p buUp) (F.RNG_PORT_STAT_ENC p)
        (portSt (stopBringup s p) p).encAgreed) f := by
  simp only [goUp]
  split <;> split <;> simp only [getF_startTimer, getF_setPortSt, getF_ensureTimer, getF_deriveSegment_below _ _ h]

/-- Up leaves the rate at which the port has come up. -/
theorem goUp_shows (hp : p < 3) : buState (goUp s p) p = buUp ∧ buRate (goUp s p) p = buRate s p := by
  have hkey {lo w : Nat} : (⟨(F.RNG_PORT_STAT_STATE p).key, lo, w⟩ : Fld).key < keyOf unitCIP 0 := by
    simp only [F.RNG_PORT_STAT_STATE, keyOf, unitCIP]
    omega
  have hstate : getF (goUp s p) (F.RNG_PORT_STAT_STATE p) = _ := getF_goUp hkey
  have hrate : getF (goUp s p) (F.RNG_PORT_STAT_RATE p) = _ := getF_goUp hkey
  rw [buState, buRate, hstate, hrate]
  generalize (portSt (stopBringup s p) p).encAgreed = b
  constructor <;> simp [buRate, setFlag, getF_setF_ne, getF_setF_same, setBuState, buUp, F.RNG_PORT_STAT_STATE,
    F.RNG_PORT_STAT_ENC, F.RNG_PORT_STAT_RATE]

/-! ### Errors and failures -/

/-- A failed attempt shows its reason, unless it has ended with one before. -/
theorem reason_failWith (s : State) (p rate : Nat) {reason : Nat} (h : reason < 16) :
    getF (failWith s p reason rate) (F.RNG_PORT_BRINGUP_REASON p)
      = if (portSt s p).ended then getF s (F.RNG_PORT_BRINGUP_REASON p) else reason := by
  unfold failWith
  split
  · rfl
  · rw [buReason, getF_setF_ne _ _ (show 4 + 2 ≤ 32 by decide) fun _ => .inl (show 0 + 4 ≤ 4 by decide)]
    exact getF_setF_of_lt s (show 0 + 4 ≤ 32 by decide) h

/-- The record of a failure stands in a register of its own. -/
theorem getF_failWith_apart (s : State) (p reason rate : Nat) {f : Fld} (h : f.key ≠ (F.RNG_PORT_BRINGUP_REASON p).key) :
    getF (failWith s p reason rate) f = getF s f := by
  have hrate : f.key ≠ (F.RNG_PORT_BRINGUP_REASON_RATE p).key := h
  unfold failWith
  split
  · rfl
  · rw [buReason, getF_setF_apart _ _ hrate, getF_setF_apart _ _ h]

theorem failWith_frame (s : State) (p reason rate : Nat) :
    failWith s p reason rate = s.withRegs (failWith s p reason rate).regs := by
  unfold failWith
  split <;> rfl

theorem buState_failWith (s : State) (p reason rate : Nat) : buState (failWith s p reason rate) p = buState s p :=
  getF_failWith_apart s p reason rate (by simp only [F.RNG_PORT_STAT_STATE, F.RNG_PORT_BRINGUP_REASON]; omega)

/-- A timeout that leads to a new Cap keeps the reason of the attempt that ends with it. -/
theorem enterCap_failed (hp : p < 3) (hup : buState s p ≠ buUp) {reason : Nat} (h : reason < 16) (rate : Nat) :
    buState (enterCap (failWith s p reason rate) p) p = buCap
      ∧ lookupKey (.cap p) (enterCap (failWith s p reason rate) p).timers = some (s.mono + 100 * ticksMs)
      ∧ getF (enterCap (failWith s p reason rate) p) (F.RNG_PORT_BRINGUP_REASON p)
        = if (portSt s p).ended then getF s (F.RNG_PORT_BRINGUP_REASON p) else reason := by
  refine ⟨buState_enterCap hp, ?_, ?_⟩
  · rw [capTimer_enterCap, failWith_frame]
    rfl
  · rw [reason_enterCap hp (by rwa [buState_failWith]), reason_failWith s p rate h]

end

/-! ### Commands -/

@[simp] theorem getF_noteReg (s : State) (u off w : Nat) (f : Fld) : getF (noteReg s u off w) f = getF s f := by
  rw [noteReg, twinNote_frame]
  rfl

@[simp] theorem getF_notePortCfg (s : State) (p : Nat) (f : Fld) : getF (notePortCfg s p) f = getF s f :=
  getF_noteReg s _ _ _ f

theorem timers_notePortCfg (s : State) (p : Nat) : (notePortCfg s p).timers = s.timers := by
  rw [notePortCfg, noteReg, twinNote_frame]

@[simp] theorem getF_showState (s : State) (p st : Nat) (f : Fld) : getF (showState s p st) f = getF s f :=
  getF_setPortSt s p _ f

@[simp] theorem regs_setPortSt (s : State) (n : Nat) (x : PortSt) : (setPortSt s n x).regs = s.regs := by
  rw [setPortSt_frame]
  rfl

@[simp] theorem regs_showState (s : State) (p st : Nat) : (showState s p st).regs = s.regs := regs_setPortSt s p _

@[simp] theorem portSt_showState (s : State) (p st : Nat) :
    portSt (showState s p st) p = { portSt s p with ownState := st } := portSt_setPortSt_same s p _

section
variable {s : State} {p : Nat}

theorem exec_ringPortEnable (hl : live s unitRNG = true) (hport : hasPort s p = true) :
    exec (.ringPortEnable p) s = .next (notePortCfg (startPort (setFlag s (F.RNG_PORT_CFG_EN p) true) p) p) :=
  congrArg Host.Outcome.next (if_pos ⟨hl, hport⟩)

theorem exec_ringPortDisable (hl : live s unitRNG = true) (hport : hasPort s p = true) :
    exec (.ringPortDisable p) s = .next (notePortCfg (setPortEn s p false) p) :=
  congrArg Host.Outcome.next (if_pos ⟨hl, hport⟩)

theorem exec_retrain (hl : live s unitRNG = true) (hport : hasPort s p = true) :
    exec (.retrain p) s = .next (noteReg (retrainPort s p) unitRNG (0x40 * p + 4) 1) :=
  congrArg Host.Outcome.next (if_pos ⟨hl, hport⟩)

theorem live_setEn (s : State) (p : Nat) (b : Bool) (u : Nat) : live (setFlag s (F.RNG_PORT_CFG_EN p) b) u = live s u := by
  have haround : Around s (setFlag s (F.RNG_PORT_CFG_EN p) b) := (Around.refl s).setFlagAt (by decide)
  rw [live, live, fenceCode_of_around haround u]

theorem buState_setEn (s : State) (p : Nat) (b : Bool) : buState (setFlag s (F.RNG_PORT_CFG_EN p) b) p = buState s p :=
  getF_setF_apart s _ (by simp only [F.RNG_PORT_STAT_STATE, F.RNG_PORT_CFG_EN]; omega)

/-- A Down port that is enabled while the hub lets its ring ports run enters Cap. -/
theorem startPort_enabled (hport : hasPort s p = true) (hdown : buState s p = buDown) (hallow : portsAllowed s = true) :
    startPort (setFlag s (F.RNG_PORT_CFG_EN p) true) p = enterCap (setFlag s (F.RNG_PORT_CFG_EN p) true) p := by
  refine if_pos ⟨hport, (buState_setEn s p true).trans hdown,
    flag_setFlag_same s _ true (show 8 + 1 ≤ 32 by decide) rfl, ?_⟩
  rw [portsAllowed, live_setEn]
  exact hallow

/-- A port that is disabled is Down, and has left its encryption behind where it was not Down before. -/
theorem setPortEn_off_shows : buState (setPortEn s p false) p = buDown
    ∧ (buState s p ≠ buDown → flag (setPortEn s p false) (F.RNG_PORT_STAT_ENC p) = false) := by
  have hoff : setPortEn s p false = if buState (setFlag s (F.RNG_PORT_CFG_EN p) false) p = buDown then
      setFlag s (F.RNG_PORT_CFG_EN p) false else enterDown (setFlag s (F.RNG_PORT_CFG_EN p) false) p := rfl
  rw [hoff, buState_setEn]
  split
  next h => exact ⟨(buState_setEn s p false).trans h, fun hne => absurd h hne⟩
  next => exact ⟨enterDown_shows.1, fun _ => enterDown_shows.2⟩

/-- RETRAIN waits in Down, and leads any other port to a new Cap. -/
theorem retrainPort_shows (hp : p < 3) : buState (retrainPort s p) p = (if buState s p = buDown then buDown else buCap)
    ∧ flag (retrainPort s p) (F.RNG_PORT_CTL_RETRAIN p) = decide (buState s p = buDown) := by
  unfold retrainPort
  split
  next h =>
    have hkey : (F.RNG_PORT_STAT_STATE p).key ≠ (F.RNG_PORT_CTL_RETRAIN p).key := by
      simp only [F.RNG_PORT_STAT_STATE, F.RNG_PORT_CTL_RETRAIN]
      omega
    rw [decide_eq_true h]
    exact ⟨(getF_setF_apart s _ hkey).trans h, flag_setFlag_same s _ true (show 0 + 1 ≤ 32 by decide) rfl⟩
  next h =>
    rw [decide_eq_false h]
    exact ⟨buState_enterCap hp, retrain_enterCap hp⟩

theorem loseLock_of_up (h : buState s p = buUp) : loseLock s p = startTimer (dropLock
    (setBuState (leaveUp (incF s (F.RNG_PORT_LOCK_LOSS_COUNT p)) p) p buRelock) p) (.relock p) (2 * ticksMs) := by
  have hup : buState (incF s (F.RNG_PORT_LOCK_LOSS_COUNT p)) p = buUp :=
    (getF_incF_apart s (by simp only [F.RNG_PORT_STAT_STATE, F.RNG_PORT_LOCK_LOSS_COUNT]; omega)).trans h
  exact if_pos hup

theorem wordLock_startTimer (s : State) (id : TimerId) (n p : Nat) : wordLock (startTimer s id n) p = wordLock s p := rfl

/-- A port that loses lock while Up has 2 ms to find it again. -/
theorem loseLock_shows (h : buState s p = buUp) : buState (loseLock s p) p = buRelock ∧ wordLock (loseLock s p) p = false
    ∧ lookupKey (.relock p) (loseLock s p).timers = some (s.mono + 2 * ticksMs) := by
  rw [loseLock_of_up h]
  refine ⟨?_, ?_, ?_⟩
  · rw [buState, getF_startTimer, getF_dropLock]
    exact getF_setF_of_lt _ (show 0 + 4 ≤ 32 by decide) (show 5 < 2 ^ 4 by decide)
  · rw [wordLock_startTimer, wordLock_dropLock]
  · rw [lookup_startTimer, if_pos rfl, mono_dropLock, setBuState, mono_setF, mono_leaveUp, mono_incF]

theorem setLos_eq (s : State) (p : Nat) (b : Bool) : ∃ pins, setLos s p b = s.withPins pins := by
  unfold setLos
  split
  · exact ⟨_, rfl⟩
  · exact ⟨s.pins, rfl⟩

theorem exec_lossOfLock {cause : LockCause} (hl : live s unitRNG = true) (hport : hasPort s p = true)
    (hup : buState s p = buUp) (hlos : cause = .los → p < 2) :
    ∃ pins, exec (.lossOfLock p cause) s = .next (loseLock (s.withPins pins) p) := by
  obtain ⟨pins, hpins⟩ : ∃ pins, (if cause = .los then setLos s p true else s) = s.withPins pins := by
    split
    · exact setLos_eq s p true
    · exact ⟨s.pins, rfl⟩
  have hstate : buState (s.withPins pins) p = buUp := hup
  refine ⟨pins, ?_⟩
  rw [← hpins] at hstate ⊢
  refine congrArg Host.Outcome.next ((if_pos ⟨hl, hport⟩).trans (if_pos ⟨?_, ?_, ?_⟩))
  · exact ne_of_eq_of_ne hstate (by decide)
  · exact ne_of_eq_of_ne hstate (by decide)
  · exact (em (cause = .los)).elim (fun h => .inr ⟨hlos h, hstate⟩) .inl

/-- The fallback leads to the rate before, which is to be verified again. -/
theorem fallBack_shows (hp : p < 3) : buState (fallBack s p) p = buState s p
    ∧ buRate (fallBack s p) p = (portSt s p).prevRate % 4
    ∧ getF (fallBack s p) (F.RNG_PORT_FALLBACK_COUNT p) = (getF s (F.RNG_PORT_FALLBACK_COUNT p) + 1) % 2 ^ 32
    ∧ (portSt (fallBack s p) p).falling = true ∧ (portSt (fallBack s p) p).verified = false := by
  obtain ⟨x, reason, rate, heq, hx⟩ : ∃ x reason rate, fallBack s p = showState (setPortSt (loadPortEq (restartTx (dropLock
      (setF (stopBringup (failWith (incF s (F.RNG_PORT_FALLBACK_COUNT p)) p reason rate) p) (F.RNG_PORT_STAT_RATE p)
        (portSt s p).prevRate) p) p) p (portSt s p).prevRate) p x) p 2 ∧ x.falling = true ∧ x.verified = false :=
    ⟨_, _, _, rfl, rfl, rfl⟩
  have hget {f : Fld} (hf : f.key < (F.RNG_LANE_EQ_TX_TAPS 0).key) : getF (fallBack s p) f = getF (setF (stopBringup
      (failWith (incF s (F.RNG_PORT_FALLBACK_COUNT p)) p reason rate) p) (F.RNG_PORT_STAT_RATE p) (portSt s p).prevRate) f := by
    rw [heq, getF_showState, getF_setPortSt, getF_loadPortEq _ _ _ hf, getF_restartTx, getF_dropLock]
  have hstate : (F.RNG_PORT_STAT_STATE p).key ≠ (F.RNG_PORT_FALLBACK_COUNT p).key := by
    simp only [F.RNG_PORT_STAT_STATE, F.RNG_PORT_FALLBACK_COUNT]
    omega
  have hrate : (F.RNG_PORT_FALLBACK_COUNT p).key ≠ (F.RNG_PORT_STAT_RATE p).key := hstate.symm
  have hreason : (F.RNG_PORT_FALLBACK_COUNT p).key ≠ (F.RNG_PORT_BRINGUP_REASON p).key := by
    simp only [F.RNG_PORT_BRINGUP_REASON, F.RNG_PORT_FALLBACK_COUNT]
    omega
  refine ⟨?_, ?_, ?_, ?_, ?_⟩
  · rw [buState, hget (lt_lanes_of_port hp (by decide)),
      getF_setF_ne _ _ (show 4 + 2 ≤ 32 by decide) fun _ => .inl (show 0 + 4 ≤ 4 by decide), getF_stopBringup]
    exact (buState_failWith _ p reason rate).trans (getF_incF_apart s hstate)
  · rw [buRate, hget (lt_lanes_of_port hp (by decide))]
    exact getF_setF_same _ _ _ (show 4 + 2 ≤ 32 by decide)
  · rw [hget (lt_lanes_of_port hp (by decide)), getF_setF_apart _ _ hrate, getF_stopBringup,
      getF_failWith_apart _ _ _ _ hreason]
    exact getF_incF_same s (show 0 + 32 ≤ 32 by decide)
  · rw [heq, portSt_showState, portSt_setPortSt_same]
    exact hx.1
  · rw [heq, portSt_showState, portSt_setPortSt_same]
    exact hx.2

/-- STEP_VERIFY_DONE shows STATE 3 and waits for the peer. -/
theorem exec_stepVerifyDone (hport : hasPort s p = true) (hstep : buState s p = buStep) (hdue : due s (.verify p) = true)
    (hrising : (portSt s p).falling = false) (hpeer : peerCapState s p < 3) : exec (.stepVerifyDone p) s
      = .next (showState (setPortSt (stopTimer s (.verify p)) p { portSt s p with verified := true }) p 3) := by
  refine congrArg Host.Outcome.next ((if_pos ⟨hport, hstep, hdue⟩).trans ((if_neg ?_).trans (if_neg ?_)))
  · rw [portSt_showState, portSt_setPortSt_same]
    exact Bool.eq_false_iff.1 hrising
  · rw [peerCapState, portSt_showState, portSt_setPortSt_same]
    exact Nat.not_le.2 hpeer

end

/-- Settles O28: what each command leads to, state by state. -/
theorem bringUpStates : Obligations.BringUpStates := by
  refine ⟨fun s p hl hport hdown hallow => ?_, fun s p hl hport => ?_, fun s p hl hport => ?_, fun s p hport hcap hdue => ?_,
    fun s p hport hst hdue => ?_, fun s p hl hport hst hdue => ?_, fun s p hl hp hst hdue => ?_, fun s p hdue => ?_,
    fun s p hp hst hdue => ?_, fun s p cause hl hport hup hlos => ?_, fun s p hport hst hdue => ?_,
    fun s p hport hst hdue hrising hpeer => ?_⟩
  · have hp := port_lt_of_hasPort hport
    have hnot : buState (setFlag s (F.RNG_PORT_CFG_EN p) true) p ≠ buUp := by
      rw [buState_setEn, hdown]
      decide
    rw [exec_ringPortEnable hl hport, startPort_enabled hport hdown hallow]
    refine ⟨_, rfl, ?_, ?_, ?_, ?_⟩
    · exact (getF_notePortCfg _ p _).trans (buState_enterCap hp)
    · exact (getF_notePortCfg _ p _).trans (buRate_enterCap hp)
    · refine (flag_congr ((getF_notePortCfg _ p _).trans (getF_enterCap_cfg hp hnot))).trans ?_
      exact flag_setFlag_same s _ true (show 8 + 1 ≤ 32 by decide) rfl
    · rw [timers_notePortCfg]
      exact capTimer_enterCap
  · refine ⟨_, exec_ringPortDisable hl hport, ?_, fun hne => ?_⟩
    · exact (getF_notePortCfg _ p _).trans setPortEn_off_shows.1
    · exact (flag_congr (getF_notePortCfg _ p _)).trans (setPortEn_off_shows.2 hne)
  · have hp := port_lt_of_hasPort hport
    refine ⟨_, exec_retrain hl hport, ?_, ?_⟩
    · exact (getF_noteReg _ _ _ _ _).trans (retrainPort_shows hp).1
    · exact (flag_congr (getF_noteReg _ _ _ _ _)).trans (retrainPort_shows hp).2
  · refine ⟨_, congrArg Host.Outcome.next (if_pos ⟨hport, hcap, hdue⟩), ?_⟩
    have hreason : (if wordLock s p then 5
        else if (portSt s p).lane0.lastCount.isSome || (portSt s p).lane1.lastCount.isSome then 2 else 1) < 16 := by
      split_ifs <;> decide
    obtain ⟨hst, htimer, -⟩ := enterCap_failed (port_lt_of_hasPort hport) (ne_of_eq_of_ne hcap (by decide)) hreason 0
    exact ⟨hst, htimer⟩
  · refine ⟨_, congrArg Host.Outcome.next (if_pos ⟨hport, hst, hdue⟩), ?_⟩
    obtain ⟨hcap, -, hreason⟩ :=
      enterCap_failed (port_lt_of_hasPort hport) (ne_of_eq_of_ne hst (by decide)) (show 1 < 16 by decide) (buRate s p)
    exact ⟨hcap, hreason⟩
  · obtain ⟨hup, hrate⟩ := goUp_shows (s := s) (port_lt_of_hasPort hport)
    exact ⟨_, congrArg Host.Outcome.next (if_pos ⟨hl, hport, hst, by rw [hdue]; rfl⟩), hup, hrate⟩
  · obtain ⟨hup, hrate⟩ := goUp_shows (s := s) (show p < 3 by omega)
    exact ⟨_, congrArg Host.Outcome.next (if_pos ⟨hl, hp, hst, hdue⟩), hup, hrate⟩
  · exact congrArg Host.Outcome.next (if_neg fun h => by simp [hdue] at h)
  · refine ⟨_, congrArg Host.Outcome.next (if_pos ⟨hp, hst, hdue⟩), ?_⟩
    obtain ⟨hcap, -, hreason⟩ :=
      enterCap_failed (show p < 3 by omega) (ne_of_eq_of_ne hst (by decide)) (show 8 < 16 by decide) 1
    exact ⟨hcap, hreason⟩
  · obtain ⟨pins, hexec⟩ := exec_lossOfLock hl hport hup hlos
    exact ⟨_, hexec, loseLock_shows (s := s.withPins pins) hup⟩
  · obtain ⟨hstate, hrest⟩ := fallBack_shows (s := s) (port_lt_of_hasPort hport)
    exact ⟨_, congrArg Host.Outcome.next (if_pos ⟨hport, hst, hdue⟩), hstate.trans hst, hrest⟩
  · refine ⟨_, exec_stepVerifyDone hport hst hdue hrising hpeer, ?_, ?_, ?_, ?_⟩
    · rw [portSt_showState, portSt_setPortSt_same]
    · rw [portSt_showState]
    · exact (getF_showState _ p 3 _).trans ((getF_setPortSt _ p _ _).trans hst)
    · rw [regs_showState, regs_setPortSt]
      rfl

end Sys2Proof.Machine

/-! # Proofs: capability words -/

namespace Sys2Proof.Machine

section
variable {s : State} {p : Nat}

/-! ### What a word tells of the peer (R107) -/

/-- The fields of the peer stand beside the port's state. -/
theorem buState_notePeer (s : State) (p w : Nat) : buState (notePeer s p w) p = buState s p := by
  simp [buState, notePeer, getF_setF_ne, setFlag, F.RNG_PORT_STAT_STATE, F.RNG_PORT_STAT_PEER_NODE,
    F.RNG_PORT_STAT_PEER_VERSION, F.RNG_PORT_STAT_PEER_SIDE]

theorem peerNode_notePeer (s : State) (p w : Nat) :
    getF (notePeer s p w) (F.RNG_PORT_STAT_PEER_NODE p) = bitsAt w 28 8 := by
  have hlt : bitsAt w 28 8 < 2 ^ 8 := Nat.mod_lt _ (by decide)
  simpa [notePeer, getF_setF_ne, getF_setF_same, setFlag, F.RNG_PORT_STAT_PEER_NODE, F.RNG_PORT_STAT_PEER_VERSION,
    F.RNG_PORT_STAT_PEER_SIDE] using hlt

theorem getF_notePeer_apart (s : State) (p w : Nat) {f : Fld} (h : f.key ≠ (F.RNG_PORT_STAT_STATE p).key) :
    getF (notePeer s p w) f = getF s f := by
  have hnode : f.key ≠ (F.RNG_PORT_STAT_PEER_NODE p).key := h
  have hversion : f.key ≠ (F.RNG_PORT_STAT_PEER_VERSION p).key := h
  have hside : f.key ≠ (F.RNG_PORT_STAT_PEER_SIDE p).key := h
  simp only [notePeer, setFlag, getF_setPortSt, getF_setF_apart _ _ hnode, getF_setF_apart _ _ hversion,
    getF_setF_apart _ _ hside]

theorem portSt_notePeer (s : State) (p w : Nat) :
    portSt (notePeer s p w) p = { portSt s p with peerCap := some (BitVec.ofNat 64 w) } := portSt_setPortSt_same _ p _

theorem ident_notePeer (s : State) (p w : Nat) : (notePeer s p w).ident = s.ident := by
  rw [notePeer, setPortSt_frame]
  rfl

theorem exec_capabilityWordReceive {w : BitVec 64} (hl : live s unitRNG = true) (hport : hasPort s p = true)
    (hlock : wordLock s p = true) (hcap : buState s p = buCap) (hword : bitsAt w.toNat 48 16 = 0xCA9B)
    (hcrc : crc8Ok w.toNat = true) :
    exec (.capabilityWordReceive p w) s = .next (capInCap (notePeer s p w.toNat) p w.toNat) :=
  congrArg Host.Outcome.next ((if_pos ⟨hl, hport, hlock, hword, .inl hcap⟩).trans <|
    (if_pos hcrc).trans (if_pos ((buState_notePeer s p w.toNat).trans hcap)))

/-! ### Attempts that end with a reason of their own (R94, R101) -/

theorem endAttemptWith_shows (s : State) (p rate : Nat) {reason : Nat} (h : reason < 16) :
    buState (endAttemptWith s p reason rate) p = buState s p
      ∧ getF (endAttemptWith s p reason rate) (F.RNG_PORT_BRINGUP_REASON p) = reason
      ∧ portSt (endAttemptWith s p reason rate) p = { portSt s p with ended := true } := by
  have hreason : (F.RNG_PORT_STAT_STATE p).key ≠ (F.RNG_PORT_BRINGUP_REASON p).key := by
    simp only [F.RNG_PORT_STAT_STATE, F.RNG_PORT_BRINGUP_REASON]
    omega
  have hrate : (F.RNG_PORT_STAT_STATE p).key ≠ (F.RNG_PORT_BRINGUP_REASON_RATE p).key := hreason
  refine ⟨?_, ?_, ?_⟩
  · rw [buState, endAttemptWith, getF_setPortSt, buReason, getF_setF_apart _ _ hrate, getF_setF_apart _ _ hreason]
    rfl
  · rw [endAttemptWith, getF_setPortSt, buReason,
      getF_setF_ne _ _ (show 4 + 2 ≤ 32 by decide) fun _ => .inl (show 0 + 4 ≤ 4 by decide)]
    exact getF_setF_of_lt s (show 0 + 4 ≤ 32 by decide) h
  · rw [endAttemptWith, portSt_setPortSt_same, buReason, portSt_setF, portSt_setF]

theorem ident_endAttemptWith (s : State) (p reason rate : Nat) :
    (endAttemptWith s p reason rate).ident = s.ident := by
  rw [endAttemptWith, setPortSt_frame]
  rfl

/-- A word of the wrong kind, or of a forerunner that is not allowed, ends the attempt and leaves the port in Cap. -/
theorem capInCap_mismatch {w : Nat} (h : bitAt w 38 ≠ decide (p = 2)
      ∨ bitsAt w 44 4 = 0 ∧ flag s (F.RNG_PORT_CFG_FR_ALLOW p) = false) :
    buState (capInCap s p w) p = buState s p
      ∧ getF (capInCap s p w) (F.RNG_PORT_BRINGUP_REASON p) = (if bitAt w 38 ≠ decide (p = 2) then 6 else 7)
      ∧ (portSt (capInCap s p w) p).ended = true ∧ (capInCap s p w).ident = s.ident := by
  unfold capInCap
  split
  next hkind =>
    obtain ⟨hstate, hreason, hport⟩ :=
      endAttemptWith_shows (setPortSt s p { portSt s p with ownState := 0 }) p 0 (show 6 < 16 by decide)
    exact ⟨hstate.trans (getF_setPortSt s p _ _), hreason, by rw [hport],
      by rw [ident_endAttemptWith, setPortSt_frame]; rfl⟩
  next hkind =>
    obtain ⟨hversion, hallow⟩ := h.resolve_left hkind
    obtain ⟨hstate, hreason, hport⟩ := endAttemptWith_shows s p 0 (show 7 < 16 by decide)
    rw [if_pos ⟨hversion, .inr hallow⟩]
    exact ⟨hstate, hreason, by rw [hport], ident_endAttemptWith s p 7 0⟩

/-- A port's record is read from the Crossing's part alone. -/
theorem portSt_congr {t u : State} (h : u.ring = t.ring) (p : Nat) : portSt u p = portSt t p := by
  unfold portSt
  rw [h]

/-- An attempt that has ended with a reason of its own begins anew after 100 ms, the reason standing. -/
theorem exec_capTimeout_of_ended (hport : hasPort s p = true) (hcap : buState s p = buCap) (hdue : due s (.cap p) = true)
    (hended : (portSt s p).ended = true) : ∃ t, exec (.capTimeout p) s = .next t ∧ buState t p = buCap
      ∧ lookupKey (.cap p) t.timers = some (s.mono + 100 * ticksMs)
      ∧ getF t (F.RNG_PORT_BRINGUP_REASON p) = getF s (F.RNG_PORT_BRINGUP_REASON p) := by
  have hfail (reason : Nat) : failWith s p reason 0 = s := if_pos hended
  have hp := port_lt_of_hasPort hport
  refine ⟨enterCap s p, congrArg Host.Outcome.next ((if_pos ⟨hport, hcap, hdue⟩).trans
    (congrArg (enterCap · p) (hfail _))), ?_⟩
  exact ⟨buState_enterCap hp, capTimer_enterCap, reason_enterCap hp (ne_of_eq_of_ne hcap (by decide))⟩

end

/-- Settles O29: the attempt ends with its reason, and what has ended begins anew. -/
theorem capabilityMismatch : Obligations.CapabilityMismatch := by
  intro s p w hl hport hlock hcap hword hcrc h
  have hkind : bitAt w.toNat 38 = w.getLsbD 38 := BitVec.testBit_toNat w
  have hallow : flag (notePeer s p w.toNat) (F.RNG_PORT_CFG_FR_ALLOW p) = flag s (F.RNG_PORT_CFG_FR_ALLOW p) :=
    flag_congr (getF_notePeer_apart s p _ (by simp only [F.RNG_PORT_CFG_FR_ALLOW, F.RNG_PORT_STAT_STATE]; omega))
  obtain ⟨hstate, hreason, hended, hown⟩ := capInCap_mismatch (s := notePeer s p w.toNat) (p := p) (w := w.toNat)
    (by rwa [hkind, hallow])
  rw [hkind] at hreason
  rw [buState_notePeer, hcap] at hstate
  refine ⟨_, exec_capabilityWordReceive hl hport hlock hcap hword hcrc, hstate, hreason,
    fun u hregs hring hident hdue => ?_⟩
  have hports : hasPort u p = true := by
    rw [hasPort, hident, hown, ident_notePeer]
    exact hport
  generalize capInCap (notePeer s p w.toNat) p w.toNat = t at *
  have hfield (f : Fld) : getF u f = getF t f := getF_congr (regWord_congr hregs (congrArg Ident.variant hident) _)
  rw [← hfield]
  exact exec_capTimeout_of_ended hports ((hfield _).trans hstate) hdue (by rwa [portSt_congr hring])

end Sys2Proof.Machine

/-! # Proofs: the line code -/

namespace Sys2Proof.Machine

/-! ### Scrambling (R88) -/

/-- The scrambler's state does not depend on the bits, so the receiver's runs through the same states. -/
theorem scramble_scramble (st : Nat) (bits : List Bool) : (scramble st (scramble st bits).1).1 = bits := by
  induction bits generalizing st with
  | nil => rfl
  | cons b bs ih => simp [scramble, ih]

/-! ### Bit stuffing (R89) -/

theorem Run.next_fst (r : Run) (b : Bool) : (r.next b).1 = b := by
  unfold Run.next
  split <;> rfl

theorem Run.next_snd_le {r : Run} (h : r.2 < 40) (b : Bool) : (r.next b).2 ≤ 40 := by
  unfold Run.next
  split
  · exact h
  · exact show 1 ≤ 40 by decide

/-- The receiver stands where the sender stood, so it takes out the bits that the sender put in. -/
theorem destuff_stuff {r : Run} (h : r.2 < 40) (bits : List Bool) :
    destuff r (stuff r bits).1 = (bits, 0, (stuff r bits).2) := by
  induction bits generalizing r with
  | nil => rfl
  | cons b bs ih =>
    have hr : r.2 ≠ 40 := h.ne
    by_cases hfull : (r.next b).2 = 40
    · have hrest := ih (r := (!b, 1)) (show 1 < 40 by decide)
      simp [stuff, destuff, hfull, hr, hrest, Run.next_fst, bit01]
    · have hrest := ih ((Run.next_snd_le h b).lt_of_ne hfull)
      simp [stuff, destuff, hfull, hr, hrest]

/-! ### The two lanes (R87) -/

theorem laneShare_cons_cons (a b : BitVec 64) (ws : List (BitVec 64)) {lane : Nat} (h : lane < 2) :
    laneShare lane (a :: b :: ws) = (if lane = 0 then a else b) :: laneShare lane ws := by
  have hparity (k : Nat) : (2 + k) % 2 = k % 2 := by omega
  obtain rfl | rfl : lane = 0 ∨ lane = 1 := by omega
  all_goals
    rw [laneShare, List.zipIdx_cons, List.zipIdx_cons, List.zipIdx_eq_map_add (l := ws)]
    simp [laneShare, List.filter_map, Function.comp_def, hparity]

theorem joinLanes_laneShare : ∀ ws : List (BitVec 64), joinLanes (laneShare 0 ws) (laneShare 1 ws) = ws
  | [] => rfl
  | [_] => rfl
  | a :: b :: ws => by
    rw [laneShare_cons_cons a b ws (by decide), laneShare_cons_cons a b ws (by decide)]
    simp [joinLanes, joinLanes_laneShare ws]

/-! ### Slots (R90) -/

/-- Where the frame has no place in the period it begins in the next one, and no period carries more than it may. -/
theorem placeFrame_in_free_slots {tx : LineTx} {n : Nat} (rate now : Nat) (hn : n ≤ periodFrames)
    (hused : tx.used ≤ periodFrames) :
    tx.next ≤ (placeFrame tx rate now n).1
      ∧ (placeFrame tx rate now n).1 + n ≤ (placeFrame tx rate now n).2.1.next
      ∧ (placeFrame tx rate now n).2.1.used ≤ periodFrames := by
  unfold placeFrame
  extract_lets at_ used room period first
  have hnext : tx.next ≤ at_ := le_max_left _ _
  have hfirst : at_ + (periodSlots - at_ % periodSlots) = first := by
    have hmod : at_ % periodSlots < periodSlots := Nat.mod_lt _ (by decide)
    have hdiv := Nat.div_add_mod' at_ periodSlots
    simp only [first, period, Nat.add_mul]
    omega
  have hroom : room ≤ periodSlots - at_ % periodSlots := min_le_left _ _
  have hfree : room ≤ periodFrames - used := min_le_right _ _
  have hbefore : used ≤ periodFrames := by
    simp only [used]
    split
    · exact hused
    · exact Nat.zero_le _
  split
  next hfits =>
    refine ⟨hnext, le_rfl, ?_⟩
    dsimp only
    split <;> omega
  next hfits =>
    refine ⟨?_, ?_, ?_⟩ <;> dsimp only
    · split <;> omega
    · split <;> omega
    · omega

end Sys2Proof.Machine

/-! # Proofs: markers and what else arrives on the lanes of a port -/

namespace Sys2Proof.Machine

/-! ### Errors that restart the verification (R99) -/

theorem verifyError_frame (s : State) (p : Nat) : verifyError s p = s.withTimers (verifyError s p).timers := by
  unfold verifyError
  split <;> rfl

@[simp] theorem getF_verifyError (s : State) (p : Nat) (f : Fld) : getF (verifyError s p) f = getF s f := by
  rw [verifyError_frame]
  rfl

@[simp] theorem portSt_verifyError (s : State) (p q : Nat) : portSt (verifyError s p) q = portSt s q := by
  rw [verifyError_frame]
  rfl

theorem regs_verifyError (s : State) (p : Nat) : (verifyError s p).regs = s.regs := by
  rw [verifyError_frame]
  rfl

/-- An Up port is not verifying. -/
theorem verifyError_of_up {s : State} {p : Nat} (h : buState s p = buUp) : verifyError s p = s := by
  have hverify : verifying s p = false := by
    rw [verifying, h]
    rfl
  rw [verifyError, hverify]
  rfl

@[simp] theorem getF_setLos (s : State) (p : Nat) (b : Bool) (f : Fld) : getF (setLos s p b) f = getF s f := by
  obtain ⟨pins, h⟩ := setLos_eq s p b
  rw [h, getF_withPins]

@[simp] theorem portSt_setLos (s : State) (p q : Nat) (b : Bool) : portSt (setLos s p b) q = portSt s q := by
  obtain ⟨pins, h⟩ := setLos_eq s p b
  rw [h, portSt_withPins]

/-! ### The two lanes of a port -/

@[simp] theorem getF_setLaneRx (s : State) (p lane : Nat) (l : LaneRx) (f : Fld) :
    getF (setLaneRx s p lane l) f = getF s f := getF_setPortSt s p _ f

/-- One lane of a port is found anew. -/
def withLane (q : PortSt) (lane : Nat) (l : LaneRx) : PortSt :=
  if lane = 0 then { q with lane0 := l } else { q with lane1 := l }

theorem portSt_setLaneRx (s : State) (p lane : Nat) (l : LaneRx) :
    portSt (setLaneRx s p lane l) p = withLane (portSt s p) lane l := portSt_setPortSt_same s p _

theorem withLane_withLane (q : PortSt) (lane : Nat) (l l' : LaneRx) :
    withLane (withLane q lane l) lane l' = withLane q lane l' := by
  unfold withLane
  split <;> rfl

theorem laneRx_of_portSt {s : State} {p lane : Nat} {q : PortSt} {l : LaneRx} (h : portSt s p = withLane q lane l) :
    laneRx s p lane = l := by
  rw [laneRx, h, withLane]
  split <;> rfl

/-- Two records with the same lanes. -/
def SameLanes (q r : PortSt) : Prop := q.lane0 = r.lane0 ∧ q.lane1 = r.lane1

theorem wordLock_of_sameLanes {s t : State} {p : Nat} (h : SameLanes (portSt t p) (portSt s p)) :
    wordLock t p = wordLock s p := by
  obtain ⟨h0, h1⟩ := h
  rw [wordLock, wordLock, h0, h1]

theorem countsDiffer_of_sameLanes {s t : State} {p : Nat} (h : SameLanes (portSt t p) (portSt s p)) :
    countsDiffer t p = countsDiffer s p := by
  obtain ⟨h0, h1⟩ := id h
  rw [countsDiffer, countsDiffer, wordLock_of_sameLanes h, h0, h1]

theorem laneRx_of_sameLanes {s t : State} {p : Nat} (h : SameLanes (portSt t p) (portSt s p)) (lane : Nat) :
    laneRx t p lane = laneRx s p lane := by
  obtain ⟨h0, h1⟩ := h
  rw [laneRx, laneRx, h0, h1]

/-- The end of a resynchronisation leaves the lanes as they are. -/
theorem sameLanes_resync (q : PortSt) (lane nextSof : Nat) : SameLanes (resync q lane nextSof) q := by
  unfold resync
  split
  · exact ⟨rfl, rfl⟩
  · split <;> exact ⟨rfl, rfl⟩

/-- A marker does not touch the run of line bits. -/
theorem laneAfter_withRun (l : LaneRx) (run : Run) (count : Nat) (at_ : Bool) :
    laneAfter { l with run := run } count at_ = { laneAfter l count at_ with run := run } := by
  unfold laneAfter
  dsimp only
  split
  · rfl
  · split <;> rfl

theorem laneAfter_shows (l : LaneRx) (count : Nat) (at_ : Bool) : (laneAfter l count at_).bad = 0
    ∧ (laneAfter l count at_).lastCount = some count
    ∧ (laneAfter l count at_).good = (if 3 ≤ l.good then l.good
      else if l.lastCount = some ((count + 4095) % 4096) ∧ at_ = true then l.good + 1 else 1) := by
  unfold laneAfter
  dsimp only
  split
  · exact ⟨rfl, rfl, rfl⟩
  · split <;> exact ⟨rfl, rfl, rfl⟩

section
variable {s : State} {p lane : Nat}

/-! ### Bits received (R89) -/

/-- The bits of a lane without the inserted ones, the violations, and the run they leave. -/
def received (s : State) (p lane : Nat) (line : List Bool) : List Bool × Nat × Run :=
  destuff (laneRx s p lane).run (line.map fun b => b != bitF s (F.RNG_PORT_CFG_RX_POL p) lane)

/-- What has been received leaves its run and counts its violations. -/
theorem receiveBits_shows (line : List Bool) :
    portSt (receiveBits s p lane line).2 p
        = withLane (portSt s p) lane { laneRx s p lane with run := (received s p lane line).2.2 }
      ∧ (receiveBits s p lane line).2.regs
        = (addF s (F.RNG_PORT_STUFF_ERR_COUNT p) (received s p lane line).2.1).regs
      ∧ (receiveBits s p lane line).2.ident = s.ident := by
  have heq : (receiveBits s p lane line).2 = if (received s p lane line).2.1 = 0 then
      setLaneRx (addF s (F.RNG_PORT_STUFF_ERR_COUNT p) (received s p lane line).2.1) p lane
        { laneRx s p lane with run := (received s p lane line).2.2 }
    else verifyError (setLaneRx (addF s (F.RNG_PORT_STUFF_ERR_COUNT p) (received s p lane line).2.1) p lane
        { laneRx s p lane with run := (received s p lane line).2.2 }) p := rfl
  have hregs (t : State) (l : LaneRx) : (setLaneRx t p lane l).regs = t.regs := regs_setPortSt t p _
  have hident (t : State) (l : LaneRx) : (setLaneRx t p lane l).ident = t.ident := by
    rw [setLaneRx, setPortSt_frame]
    rfl
  rw [heq]
  split
  · exact ⟨portSt_setLaneRx _ p lane _, hregs _ _, hident _ _⟩
  · rw [portSt_verifyError, regs_verifyError, verifyError_frame, State.withTimers_ident]
    exact ⟨portSt_setLaneRx _ p lane _, hregs _ _, hident _ _⟩

theorem regWord_receiveBits (line : List Bool) (k : Nat) : regWord (receiveBits s p lane line).2 k
    = regWord (addF s (F.RNG_PORT_STUFF_ERR_COUNT p) (received s p lane line).2.1) k := by
  obtain ⟨-, hregs, hident⟩ := receiveBits_shows (s := s) (p := p) (lane := lane) line
  exact regWord_congr hregs (congrArg Ident.variant hident) k

theorem getF_receiveBits (line : List Bool) (f : Fld) : getF (receiveBits s p lane line).2 f
    = getF (addF s (F.RNG_PORT_STUFF_ERR_COUNT p) (received s p lane line).2.1) f :=
  getF_congr (regWord_receiveBits line _)

theorem buState_receiveBits (line : List Bool) : buState (receiveBits s p lane line).2 p = buState s p :=
  (getF_receiveBits line _).trans (getF_setF_apart s _ (by simp only [F.RNG_PORT_STAT_STATE, F.RNG_PORT_STUFF_ERR_COUNT]; omega))

theorem stuffErr_receiveBits (line : List Bool) :
    getF (receiveBits s p lane line).2 (F.RNG_PORT_STUFF_ERR_COUNT p)
      = (getF s (F.RNG_PORT_STUFF_ERR_COUNT p) + (received s p lane line).2.1) % 2 ^ 32 :=
  (getF_receiveBits line _).trans (getF_setF_same s _ _ (show 0 + 32 ≤ 32 by decide))

theorem laneRx_receiveBits (line : List Bool) : laneRx (receiveBits s p lane line).2 p lane
    = { laneRx s p lane with run := (received s p lane line).2.2 } :=
  laneRx_of_portSt (receiveBits_shows line).1

/-! ### Good markers (R93 to R96) -/

/-- What a good marker leaves before lock and skew are looked at. -/
def markerNoted (s : State) (p lane w : Nat) (atSlot : Bool) : State :=
  let s := setLaneRx s p lane (laneAfter (laneRx s p lane) (bitsAt w 8 12) atSlot)
  let s := if bitsAt w 32 4 ≠ lane then setFlag s (F.RNG_PORT_STAT_SWAPPED p) true else s
  setPortSt s p (resync (portSt s p) lane (bitsAt w 20 12))

theorem sameLanes_markerNoted (w : Nat) (atSlot : Bool) : SameLanes (portSt (markerNoted s p lane w atSlot) p)
    (withLane (portSt s p) lane (laneAfter (laneRx s p lane) (bitsAt w 8 12) atSlot)) := by
  have hflag (t : State) : portSt (if bitsAt w 32 4 ≠ lane then setFlag t (F.RNG_PORT_STAT_SWAPPED p) true else t) p
      = portSt t p := by
    split <;> rfl
  rw [markerNoted, portSt_setPortSt_same, hflag, portSt_setLaneRx]
  exact sameLanes_resync _ _ _

theorem getF_markerNoted (w : Nat) (atSlot : Bool) {f : Fld}
    (h : f.key = (F.RNG_PORT_STAT_SWAPPED p).key → f.lo + f.width ≤ 8) :
    getF (markerNoted s p lane w atSlot) f = getF s f := by
  simp only [markerNoted, getF_setPortSt]
  split
  · rw [getF_setFlag_ne _ _ (show 8 + 1 ≤ 32 by decide) fun hk => .inl (h hk), getF_setLaneRx]
  · exact getF_setLaneRx ..

theorem buState_markerNoted (w : Nat) (atSlot : Bool) : buState (markerNoted s p lane w atSlot) p = buState s p :=
  getF_markerNoted w atSlot fun _ => (show 0 + 4 ≤ 8 by decide)

theorem stuffErr_markerNoted (w : Nat) (atSlot : Bool) :
    getF (markerNoted s p lane w atSlot) (F.RNG_PORT_STUFF_ERR_COUNT p) = getF s (F.RNG_PORT_STUFF_ERR_COUNT p) :=
  getF_markerNoted w atSlot fun hk => absurd hk (by simp only [F.RNG_PORT_STUFF_ERR_COUNT, F.RNG_PORT_STAT_SWAPPED]; omega)

theorem goodMarker_eq (w skew : Nat) (atSlot : Bool) : goodMarker s p lane w atSlot skew
    = (let m := markerNoted s p lane w atSlot
      if !wordLock m p then m
      else if countsDiffer m p then loseLock (verifyError m p) p
      else if 32 < skew then
        if buState m p = buUp then m else endAttemptWith (stopTimer (dropLock m p) (.verify p)) p 3 (buRate m p)
      else
        let v := setF m (F.RNG_PORT_BRINGUP_SKEW p) skew
        if verifying v p && !(portSt v p).ended then ensureTimer v (.verify p) ticksMs else v) := rfl

/-- Losing lock leaves the count of stuffing violations. -/
theorem stuffErr_loseLock (hp : p < 3) (t : State) :
    getF (loseLock t p) (F.RNG_PORT_STUFF_ERR_COUNT p) = getF t (F.RNG_PORT_STUFF_ERR_COUNT p) := by
  have hloss : getF (incF t (F.RNG_PORT_LOCK_LOSS_COUNT p)) (F.RNG_PORT_STUFF_ERR_COUNT p)
      = getF t (F.RNG_PORT_STUFF_ERR_COUNT p) :=
    getF_incF_apart t (by simp only [F.RNG_PORT_STUFF_ERR_COUNT, F.RNG_PORT_LOCK_LOSS_COUNT]; omega)
  have hbreak (u : State) : getF (leaveUp u p) (F.RNG_PORT_STUFF_ERR_COUNT p) = getF u (F.RNG_PORT_STUFF_ERR_COUNT p) :=
    getF_congr ((rngKept_leaveUp u p).word _
      (by simp only [F.RNG_PORT_STUFF_ERR_COUNT, keyOf, unitRNG]; omega)
      (by simp only [F.RNG_PORT_STUFF_ERR_COUNT, rngLanesEnd, F.RNG_CFG_HOP_LIMIT]; omega))
  have hstate : (F.RNG_PORT_STUFF_ERR_COUNT p).key ≠ (F.RNG_PORT_STAT_STATE p).key := by
    simp only [F.RNG_PORT_STUFF_ERR_COUNT, F.RNG_PORT_STAT_STATE]
    omega
  simp only [loseLock]
  split
  · rw [getF_startTimer, getF_dropLock, setBuState, getF_setF_apart _ _ hstate, hbreak, hloss]
  · split
    · rw [getF_stopTimer, getF_dropLock, hloss]
    · rw [getF_dropLock, hloss]

theorem stuffErr_endAttemptWith (t : State) (reason rate : Nat) :
    getF (endAttemptWith t p reason rate) (F.RNG_PORT_STUFF_ERR_COUNT p) = getF t (F.RNG_PORT_STUFF_ERR_COUNT p) := by
  have hreason : (F.RNG_PORT_STUFF_ERR_COUNT p).key ≠ (F.RNG_PORT_BRINGUP_REASON p).key := by
    simp only [F.RNG_PORT_STUFF_ERR_COUNT, F.RNG_PORT_BRINGUP_REASON]
    omega
  have hrate : (F.RNG_PORT_STUFF_ERR_COUNT p).key ≠ (F.RNG_PORT_BRINGUP_REASON_RATE p).key := hreason
  rw [endAttemptWith, getF_setPortSt, buReason, getF_setF_apart _ _ hrate, getF_setF_apart _ _ hreason]

theorem stuffErr_goodMarker (hp : p < 3) (w skew : Nat) (atSlot : Bool) :
    getF (goodMarker s p lane w atSlot skew) (F.RNG_PORT_STUFF_ERR_COUNT p) = getF s (F.RNG_PORT_STUFF_ERR_COUNT p) := by
  have hskew (t : State) : getF (setF t (F.RNG_PORT_BRINGUP_SKEW p) skew) (F.RNG_PORT_STUFF_ERR_COUNT p)
      = getF t (F.RNG_PORT_STUFF_ERR_COUNT p) :=
    getF_setF_apart t _ (by simp only [F.RNG_PORT_STUFF_ERR_COUNT, F.RNG_PORT_BRINGUP_SKEW]; omega)
  rw [goodMarker_eq, ← stuffErr_markerNoted (s := s) (p := p) (lane := lane) w atSlot]
  generalize markerNoted s p lane w atSlot = m
  dsimp only
  split
  · rfl
  split
  · rw [stuffErr_loseLock hp, getF_verifyError]
  split
  · split
    · rfl
    · rw [stuffErr_endAttemptWith, getF_stopTimer, getF_dropLock]
  · split
    · rw [getF_ensureTimer, hskew]
    · exact hskew _

/-- A marker that neither differs nor stands skewed leaves the port as it has noted it. -/
theorem portSt_goodMarker {w skew : Nat} {atSlot : Bool} (hcount : countsDiffer (markerNoted s p lane w atSlot) p = false)
    (hskew : skew ≤ 32 ∨ wordLock (markerNoted s p lane w atSlot) p = false) :
    portSt (goodMarker s p lane w atSlot skew) p = portSt (markerNoted s p lane w atSlot) p := by
  rw [goodMarker_eq]
  generalize markerNoted s p lane w atSlot = m at *
  dsimp only
  split
  · rfl
  next hlock =>
    have hle : ¬ 32 < skew := by
      have := hskew.resolve_right (by simpa using hlock)
      omega
    rw [if_neg (by rw [hcount]; decide), if_neg hle]
    split
    · rw [portSt_ensureTimer, portSt_setF]
    · rfl

/-- Differing counts lose the lock of an Up port. -/
theorem goodMarker_of_countsDiffer {w skew : Nat} {atSlot : Bool}
    (hcount : countsDiffer (markerNoted s p lane w atSlot) p = true) (hup : buState s p = buUp) :
    buState (goodMarker s p lane w atSlot skew) p = buRelock ∧ wordLock (goodMarker s p lane w atSlot skew) p = false := by
  have hstate := buState_markerNoted (s := s) (p := p) (lane := lane) w atSlot
  rw [hup] at hstate
  rw [goodMarker_eq]
  generalize markerNoted s p lane w atSlot = m at *
  have hlock : wordLock m p = true := by
    simp only [countsDiffer, Bool.and_eq_true] at hcount
    exact hcount.1.1
  have heq : loseLock (verifyError m p) p = loseLock m p := by rw [verifyError_of_up hstate]
  dsimp only
  rw [hlock, hcount, heq]
  obtain ⟨hrelock, hlost, -⟩ := loseLock_shows hstate
  exact ⟨hrelock, hlost⟩

/-- Too much skew ends a bring-up that is under way. -/
theorem goodMarker_of_skewed {w skew : Nat} {atSlot : Bool} (hcount : countsDiffer (markerNoted s p lane w atSlot) p = false)
    (hlock : wordLock (markerNoted s p lane w atSlot) p = true) (hskew : 32 < skew) (hup : buState s p ≠ buUp) :
    getF (goodMarker s p lane w atSlot skew) (F.RNG_PORT_BRINGUP_REASON p) = 3
      ∧ (portSt (goodMarker s p lane w atSlot skew) p).ended = true
      ∧ wordLock (goodMarker s p lane w atSlot skew) p = false := by
  have hstate := buState_markerNoted (s := s) (p := p) (lane := lane) w atSlot
  rw [goodMarker_eq]
  generalize markerNoted s p lane w atSlot = m at *
  dsimp only
  rw [hlock, hcount, if_neg (by decide), if_neg (by decide), if_pos hskew, if_neg (by rwa [hstate])]
  obtain ⟨-, hreason, hport⟩ :=
    endAttemptWith_shows (stopTimer (dropLock m p) (.verify p)) p (buRate m p) (show 3 < 16 by decide)
  refine ⟨hreason, by rw [hport], ?_⟩
  rw [← wordLock_dropLock m p]
  exact wordLock_of_sameLanes (by rw [hport]; exact ⟨rfl, rfl⟩)

/-! ### Markers received (R93, R95) -/

/-- Whether what stands at the end of a lane's bits is taken for a good marker. -/
def goodAt (s : State) (p lane : Nat) (line : List Bool) (at_ : Bool) : Prop :=
  64 ≤ (received s p lane line).1.length ∧ isMarker (lastWord (received s p lane line).1).toNat = true
    ∧ (at_ = true ∨ (laneRx s p lane).good < 3)

theorem exec_markerReceive {line : List Bool} {at_ : Bool} (skew : Nat) (hl : live s unitRNG = true)
    (hport : hasPort s p = true) (hlane : lane < 2) (hup : buState s p ≠ buDown) :
    exec (.markerReceive p lane line at_ skew) s
      = .next (if 64 ≤ (received s p lane line).1.length ∧ isMarker (lastWord (received s p lane line).1).toNat = true
            ∧ (at_ = true ∨ (laneRx (receiveBits s p lane line).2 p lane).good < 3) then
          goodMarker (setLos (receiveBits s p lane line).2 p false) p lane (lastWord (received s p lane line).1).toNat at_ skew
        else badMarker (receiveBits s p lane line).2 p lane) :=
  congrArg Host.Outcome.next (if_pos ⟨hl, hport, hlane, hup⟩)

theorem exec_markerReceive_good {line : List Bool} {at_ : Bool} (skew : Nat) (hl : live s unitRNG = true)
    (hport : hasPort s p = true) (hlane : lane < 2) (hup : buState s p ≠ buDown) (hgood : goodAt s p lane line at_) :
    exec (.markerReceive p lane line at_ skew) s
      = .next (goodMarker (setLos (receiveBits s p lane line).2 p false) p lane
          (lastWord (received s p lane line).1).toNat at_ skew) := by
  rw [exec_markerReceive skew hl hport hlane hup, laneRx_receiveBits]
  exact congrArg Host.Outcome.next (if_pos hgood)

theorem exec_markerReceive_bad {line : List Bool} {at_ : Bool} (skew : Nat) (hl : live s unitRNG = true)
    (hport : hasPort s p = true) (hlane : lane < 2) (hup : buState s p ≠ buDown) (hbad : ¬ goodAt s p lane line at_) :
    exec (.markerReceive p lane line at_ skew) s = .next (badMarker (receiveBits s p lane line).2 p lane) := by
  rw [exec_markerReceive skew hl hport hlane hup, laneRx_receiveBits]
  exact congrArg Host.Outcome.next (if_neg hbad)

/-- The lanes after a good marker are those the port had, with the one lane as the marker leaves it. -/
theorem sameLanes_received (line : List Bool) (w : Nat) (at_ : Bool) :
    SameLanes (portSt (markerNoted (setLos (receiveBits s p lane line).2 p false) p lane w at_) p)
      (portSt (setLaneRx s p lane
        { laneAfter (laneRx s p lane) (bitsAt w 8 12) at_ with run := (received s p lane line).2.2 }) p) := by
  have hlane : laneRx (setLos (receiveBits s p lane line).2 p false) p lane
      = { laneRx s p lane with run := (received s p lane line).2.2 } :=
    laneRx_of_portSt ((portSt_setLos _ p p false).trans (receiveBits_shows line).1)
  have h := sameLanes_markerNoted (s := setLos (receiveBits s p lane line).2 p false) (p := p) (lane := lane) w at_
  rwa [hlane, laneAfter_withRun, portSt_setLos, (receiveBits_shows line).1, withLane_withLane, ← portSt_setLaneRx] at h

/-- A bad marker on a lane without lock is counted, and the lane begins anew. -/
theorem badMarker_of_unlocked (h : (laneRx s p lane).good < 3) :
    badMarker s p lane = setLaneRx (verifyError (incF s (F.RNG_PORT_MKR_ERR_COUNT p)) p) p lane
      { LaneRx.reset with run := (laneRx s p lane).run } :=
  if_neg h.not_ge

/-- The registers that a bad marker on a lane without lock raises. -/
theorem badMarker_received_shows (line : List Bool) (h : (laneRx s p lane).good < 3) :
    let t := badMarker (receiveBits s p lane line).2 p lane
    laneRx t p lane = { LaneRx.reset with run := (received s p lane line).2.2 }
      ∧ getF t (F.RNG_PORT_MKR_ERR_COUNT p) = (getF s (F.RNG_PORT_MKR_ERR_COUNT p) + 1) % 2 ^ 32
      ∧ getF t (F.RNG_PORT_STUFF_ERR_COUNT p)
        = (getF s (F.RNG_PORT_STUFF_ERR_COUNT p) + (received s p lane line).2.1) % 2 ^ 32
      ∧ regsKept [(F.RNG_PORT_MKR_ERR_COUNT p).key, (F.RNG_PORT_STUFF_ERR_COUNT p).key] s t := by
  have hkeys : (F.RNG_PORT_MKR_ERR_COUNT p).key ≠ (F.RNG_PORT_STUFF_ERR_COUNT p).key := by
    simp only [F.RNG_PORT_MKR_ERR_COUNT, F.RNG_PORT_STUFF_ERR_COUNT]
    omega
  intro t
  have ht : t = setLaneRx (verifyError (incF (receiveBits s p lane line).2 (F.RNG_PORT_MKR_ERR_COUNT p)) p) p lane
      { LaneRx.reset with run := (received s p lane line).2.2 } := by
    have hbad := badMarker_of_unlocked (s := (receiveBits s p lane line).2) (p := p) (lane := lane)
      (by rwa [laneRx_receiveBits])
    rwa [laneRx_receiveBits] at hbad
  have hfield (f : Fld) : getF t f = getF (incF (receiveBits s p lane line).2 (F.RNG_PORT_MKR_ERR_COUNT p)) f := by
    rw [ht, getF_setLaneRx, getF_verifyError]
  refine ⟨?_, ?_, ?_, ?_⟩
  · rw [ht]
    exact laneRx_of_portSt (portSt_setLaneRx _ p lane _)
  · rw [hfield, getF_incF_same _ (show 0 + 32 ≤ 32 by decide), getF_receiveBits, addF, getF_setF_apart _ _ hkeys]
    rfl
  · rw [hfield, getF_incF_apart _ hkeys.symm, stuffErr_receiveBits]
  · intro k hk
    obtain ⟨hmkr, hstuff⟩ : k ≠ (F.RNG_PORT_MKR_ERR_COUNT p).key ∧ k ≠ (F.RNG_PORT_STUFF_ERR_COUNT p).key := by
      simpa using hk
    have hregs : regWord t k = regWord (incF (receiveBits s p lane line).2 (F.RNG_PORT_MKR_ERR_COUNT p)) k := by
      rw [ht, setLaneRx, setPortSt_frame, verifyError_frame]
      rfl
    rw [hregs, incF, addF, setF, regWord_setWord_other _ _ hmkr, regWord_receiveBits, addF, setF,
      regWord_setWord_other _ _ hstuff]

/-! ### A bad SOF (R96) -/

theorem exec_badSof {word : Nat} (hl : live s unitRNG = true) (hport : hasPort s p = true)
    (hstate : buState s p = buUp ∨ buState s p = buStep ∨ buState s p = buFrTrain)
    (hbad : wordAllowed (word % 2 ^ 64) = false) : exec (.badSof p word) s
      = .next (setPortSt (verifyError (incF s (F.RNG_PORT_SOF_ERR_COUNT p)) p) p
        { portSt s p with discarding := true, resumeAt := none }) := by
  rw [← portSt_incF s (F.RNG_PORT_SOF_ERR_COUNT p) p, ← portSt_verifyError _ p p]
  exact congrArg Host.Outcome.next (if_pos ⟨hl, hport, hstate, by rw [hbad]; rfl⟩)

/-! ### Capability words of a native peer (R97, R98) -/

/-- The first word of a peer that agrees takes the own state from 0 to 1. -/
theorem capInCap_first {w : Nat} (hkind : bitAt w 38 = decide (p = 2)) (hversion : bitsAt w 44 4 ≠ 0)
    (hended : (portSt s p).ended = false) (hown : (portSt s p).ownState = 0) (hpeer : bitsAt w 24 4 = 0) :
    capInCap s p w = startTimer (showState s p 1) (.cap p) (100 * ticksMs) := by
  unfold capInCap
  rw [if_neg (fun h => h hkind), if_neg (fun h => hversion h.1), hended, if_neg (by decide), if_neg hversion, hpeer, hown]
  simp

/-! ### Coefficient requests (R105) -/

theorem signed_unsignedOf {x : Int} (hlo : -32 ≤ x) (hhi : x < 32) : signed 6 (unsignedOf 6 x) = x := by
  have hmod : unsignedOf 6 x % 2 ^ 6 = (x % 64).toNat := by
    simp only [unsignedOf]
    omega
  rw [signed, hmod]
  split_ifs <;> omega

theorem unsignedOf_lt (x : Int) : unsignedOf 6 x < 64 := by
  simp only [unsignedOf]
  omega

theorem unsignedOf_of_lt {x : Int} (hlo : 0 ≤ x) (hhi : x < 64) : (unsignedOf 6 x : Int) = x := by
  simp only [unsignedOf]
  omega

/-- Taps within their fields are read as they were set. -/
theorem tapsOf_setTaps (s : State) (lane : Nat) {a m b : Int} (ha : -32 ≤ a ∧ a < 32) (hm : 0 ≤ m ∧ m < 64)
    (hb : -32 ≤ b ∧ b < 32) : tapsOf (setTaps s lane a m b) lane = (a, m, b) := by
  obtain ⟨hpre, hmain, hpost⟩ := And.intro (unsignedOf_lt a) (And.intro (unsignedOf_lt m) (unsignedOf_lt b))
  have hread : getF (setTaps s lane a m b) (F.RNG_LANE_EQ_TX_TAPS lane)
      = unsignedOf 6 a * 2 ^ 6 + unsignedOf 6 m * 2 ^ 12 + unsignedOf 6 b * 2 ^ 18 :=
    getF_setF_of_lt s (show 0 + 30 ≤ 32 by decide) (show _ < 2 ^ 30 by omega)
  have hsplit {x y z : Nat} (hx : x < 64) (hy : y < 64) (hz : z < 64) :
      bitsAt (x * 2 ^ 6 + y * 2 ^ 12 + z * 2 ^ 18) 6 6 = x ∧ bitsAt (x * 2 ^ 6 + y * 2 ^ 12 + z * 2 ^ 18) 12 6 = y
        ∧ bitsAt (x * 2 ^ 6 + y * 2 ^ 12 + z * 2 ^ 18) 18 6 = z := by
    simp only [bitsAt]
    omega
  obtain ⟨h6, h12, h18⟩ := hsplit hpre hmain hpost
  rw [tapsOf, hread, h6, h12, h18, signed_unsignedOf ha.1 ha.2, signed_unsignedOf hb.1 hb.2, unsignedOf_of_lt hm.1 hm.2]

theorem signed_bounds (n : Nat) : -32 ≤ signed 6 n ∧ signed 6 n < 32 := by
  rw [signed]
  split_ifs <;> omega

theorem tapsOf_bounds (s : State) (lane : Nat) : (-32 ≤ (tapsOf s lane).1 ∧ (tapsOf s lane).1 < 32)
    ∧ (0 ≤ (tapsOf s lane).2.1 ∧ (tapsOf s lane).2.1 < 64) ∧ -32 ≤ (tapsOf s lane).2.2 ∧ (tapsOf s lane).2.2 < 32 := by
  refine ⟨signed_bounds _, ?_, signed_bounds _⟩
  simp only [tapsOf, bitsAt]
  omega

/-- Taps with one of them moved. -/
def stepTap (taps : Int × Int × Int) (tap : FrTap) (d : Int) : Int × Int × Int :=
  match tap with
  | .pre1 => (taps.1 + d, taps.2.1, taps.2.2)
  | .main => (taps.1, taps.2.1 + d, taps.2.2)
  | .post1 => (taps.1, taps.2.1, taps.2.2 + d)

theorem moveTap_eq (s : State) (lane : Nat) (tap : FrTap) (up : Bool) : moveTap s lane tap up
    = (let taps := stepTap (tapsOf s lane) tap (if up then 1 else -1)
      if tapsOk tap taps.1 taps.2.1 taps.2.2 then (setTaps s lane taps.1 taps.2.1 taps.2.2, 0)
      else (s, if up then 2 else 1)) := by
  cases tap <;> rfl

/-- Taps within their ranges fit their fields: the one that moved by its range, the others as they were read. -/
theorem tapsOf_setTaps_stepTap (s t : State) (lane : Nat) (tap : FrTap) (d : Int) {taps : Int × Int × Int}
    (heq : taps = stepTap (tapsOf s lane) tap d) (hok : tapsOk tap taps.1 taps.2.1 taps.2.2 = true) :
    tapsOf (setTaps t lane taps.1 taps.2.1 taps.2.2) lane = taps := by
  obtain ⟨hpre, hmain, hpost⟩ := tapsOf_bounds s lane
  unfold tapsOk at hok
  rw [Bool.and_eq_true] at hok
  obtain ⟨hrange, -⟩ := hok
  subst heq
  cases tap with
  | pre1 =>
    obtain ⟨hlo, hhi⟩ := of_decide_eq_true hrange
    exact tapsOf_setTaps t lane ⟨le_trans (by decide) hlo, hhi.trans_lt (by decide)⟩ hmain hpost
  | main =>
    obtain ⟨hlo, hhi⟩ := of_decide_eq_true hrange
    exact tapsOf_setTaps t lane hpre ⟨le_trans (by decide) hlo, hhi.trans_lt (by decide)⟩ hpost
  | post1 =>
    obtain ⟨hlo, hhi⟩ := of_decide_eq_true hrange
    exact tapsOf_setTaps t lane hpre hmain ⟨le_trans (by decide) hlo, hhi.trans_lt (by decide)⟩

/-- A tap moves only to a place in its range, and all within their sum. -/
theorem moveTap_shows (s : State) (lane : Nat) (tap : FrTap) (up : Bool) :
    ((moveTap s lane tap up).2 ≠ 0 → (moveTap s lane tap up).1 = s)
      ∧ ((moveTap s lane tap up).2 = 0 → ∃ a m b, tapsOk tap a m b = true
        ∧ (moveTap s lane tap up).1 = setTaps s lane a m b ∧ tapsOf (setTaps s lane a m b) lane = (a, m, b)) := by
  rw [moveTap_eq]
  generalize (if up then (1 : Int) else -1) = d
  dsimp only
  split
  next hok => exact ⟨fun h => absurd rfl h, fun _ => ⟨_, _, _, hok, rfl, tapsOf_setTaps_stepTap s s lane tap _ rfl hok⟩⟩
  next => exact ⟨fun _ => rfl, fun h => by cases up <;> simp at h⟩

theorem coeffRequest_frame (s : State) (lane : Nat) (tap : FrTap) (req : FrReq) :
    (coeffRequest s lane tap req).1 = s ∨ ∃ a m b, (coeffRequest s lane tap req).1 = setTaps s lane a m b := by
  have hmove (up : Bool) : (moveTap s lane tap up).1 = s ∨ ∃ a m b, (moveTap s lane tap up).1 = setTaps s lane a m b := by
    obtain ⟨hkept, hmoved⟩ := moveTap_shows s lane tap up
    by_cases h : (moveTap s lane tap up).2 = 0
    · obtain ⟨a, m, b, -, heq, -⟩ := hmoved h
      exact .inr ⟨a, m, b, heq⟩
    · exact .inl (hkept h)
  cases req with
  | increment => exact hmove true
  | decrement => exact hmove false
  | hold => exact .inl rfl
  | preset => exact .inr ⟨_, _, _, rfl⟩
  | initialise => exact .inr ⟨_, _, _, rfl⟩

/-- An increment or a decrement is a move of the tap. -/
theorem coeffRequest_of_move {s : State} {lane : Nat} {tap : FrTap} {req : FrReq} (h : req = .increment ∨ req = .decrement) :
    ∃ up, coeffRequest s lane tap req = moveTap s lane tap up := by
  obtain rfl | rfl := h
  · exact ⟨true, rfl⟩
  · exact ⟨false, rfl⟩

theorem exec_frCoeffRequest (tap : FrTap) (req : FrReq) (hl : live s unitRNG = true) (hp : p < 2) (hlane : lane < 2)
    (hstate : buState s p = buFrTrain) : exec (.frCoeffRequest p lane tap req) s
      = .next (output (coeffRequest s (2 * p + lane) tap req).1
          (.frAnswer p lane (coeffRequest s (2 * p + lane) tap req).2)) :=
  congrArg Host.Outcome.next (if_pos ⟨hl, hp, hlane, hstate⟩)

/-! ### What the commands show -/

/-- A good marker in its place, or on a lane without lock. -/
theorem exec_markerReceive_good_shows {line : List Bool} {at_ : Bool} (skew : Nat) (hl : live s unitRNG = true)
    (hport : hasPort s p = true) (hlane : lane < 2) (hup : buState s p ≠ buDown) (hgood : goodAt s p lane line at_) :
    let count := bitsAt (lastWord (received s p lane line).1).toNat 8 12
    let l' := { laneAfter (laneRx s p lane) count at_ with run := (received s p lane line).2.2 }
    let u := setLaneRx s p lane l'
    ∃ t, exec (.markerReceive p lane line at_ skew) s = .next t
      ∧ getF t (F.RNG_PORT_STUFF_ERR_COUNT p)
        = (getF s (F.RNG_PORT_STUFF_ERR_COUNT p) + (received s p lane line).2.1) % 2 ^ 32
      ∧ (countsDiffer u p = false → (skew ≤ 32 ∨ wordLock u p = false) → laneRx t p lane = l')
      ∧ (countsDiffer u p = true → buState s p = buUp → buState t p = buRelock ∧ wordLock t p = false)
      ∧ (countsDiffer u p = false → wordLock u p = true → 32 < skew → buState s p ≠ buUp →
          getF t (F.RNG_PORT_BRINGUP_REASON p) = 3 ∧ (portSt t p).ended = true ∧ wordLock t p = false) := by
  intro count l' u
  have hsame : SameLanes _ (portSt u p) := sameLanes_received line (lastWord (received s p lane line).1).toNat at_
  have hlock := wordLock_of_sameLanes hsame
  have hdiffer := countsDiffer_of_sameLanes hsame
  have hstate : buState (setLos (receiveBits s p lane line).2 p false) p = buState s p :=
    (getF_setLos _ _ _ _).trans (buState_receiveBits line)
  refine ⟨_, exec_markerReceive_good skew hl hport hlane hup hgood, ?_, ?_, ?_, ?_⟩
  · rw [stuffErr_goodMarker (port_lt_of_hasPort hport), getF_setLos, stuffErr_receiveBits]
  · intro hcount hskew
    rw [← hdiffer] at hcount
    rw [← hlock] at hskew
    have hkept : SameLanes (portSt (goodMarker (setLos (receiveBits s p lane line).2 p false) p lane
        (lastWord (received s p lane line).1).toNat at_ skew) p) (portSt u p) := by rwa [portSt_goodMarker hcount hskew]
    exact (laneRx_of_sameLanes hkept lane).trans (laneRx_of_portSt (portSt_setLaneRx s p lane l'))
  · intro hcount hstuck
    exact goodMarker_of_countsDiffer (hdiffer.trans hcount) (hstate.trans hstuck)
  · intro hcount hheld hskew hnot
    exact goodMarker_of_skewed (hdiffer.trans hcount) (hlock.trans hheld) hskew (hstate.trans_ne hnot)

/-- The first capability word of a native peer in Cap. -/
theorem exec_capabilityWordReceive_first {w : BitVec 64} (hl : live s unitRNG = true) (hport : hasPort s p = true)
    (hlock : wordLock s p = true) (hcap : buState s p = buCap) (hended : (portSt s p).ended = false)
    (hword : bitsAt w.toNat 48 16 = 0xCA9B) (hcrc : crc8Ok w.toNat = true) (hkind : w.getLsbD 38 = decide (p = 2))
    (hversion : bitsAt w.toNat 44 4 ≠ 0) (hpeer : bitsAt w.toNat 24 4 = 0) (hown : (portSt s p).ownState = 0) :
    ∃ t, exec (.capabilityWordReceive p w) s = .next t ∧ (portSt t p).ownState = 1 ∧ (portSt t p).peerCap = some w
      ∧ buState t p = buCap ∧ getF t (F.RNG_PORT_STAT_PEER_NODE p) = bitsAt w.toNat 28 8 := by
  have hnoted := portSt_notePeer s p w.toNat
  have hfirst := capInCap_first (s := notePeer s p w.toNat) (p := p) (w := w.toNat)
    ((BitVec.testBit_toNat w).trans hkind) hversion (by rw [hnoted]; exact hended) (by rw [hnoted]; exact hown) hpeer
  have hshown := portSt_showState (notePeer s p w.toNat) p 1
  have hfield (f : Fld) : getF (startTimer (showState (notePeer s p w.toNat) p 1) (.cap p) (100 * ticksMs)) f
      = getF (notePeer s p w.toNat) f := (getF_startTimer ..).trans (getF_showState ..)
  rw [hnoted, BitVec.ofNat_toNat, BitVec.setWidth_eq] at hshown
  refine ⟨_, (exec_capabilityWordReceive hl hport hlock hcap hword hcrc).trans (congrArg _ hfirst), ?_, ?_, ?_, ?_⟩
  · rw [portSt_startTimer, hshown]
  · rw [portSt_startTimer, hshown]
  · exact (hfield _).trans ((buState_notePeer s p w.toNat).trans hcap)
  · exact (hfield _).trans (peerNode_notePeer s p w.toNat)

/-- A bad SOF touches its count, the port's record and the window of the verification. -/
theorem exec_badSof_shows {word : Nat} (hl : live s unitRNG = true) (hport : hasPort s p = true)
    (hstate : buState s p = buUp ∨ buState s p = buStep ∨ buState s p = buFrTrain)
    (hbad : wordAllowed (word % 2 ^ 64) = false) :
    ∃ t, exec (.badSof p word) s = .next t ∧ (portSt t p).discarding = true
      ∧ getF t (F.RNG_PORT_SOF_ERR_COUNT p) = (getF s (F.RNG_PORT_SOF_ERR_COUNT p) + 1) % 2 ^ 32
      ∧ regsKept [(F.RNG_PORT_SOF_ERR_COUNT p).key] s t ∧ t = { s with regs := t.regs, ring := t.ring, timers := t.timers }
      ∧ (buState s p = buUp → t.timers = s.timers) := by
  have hup (h : buState s p = buUp) : buState (incF s (F.RNG_PORT_SOF_ERR_COUNT p)) p = buUp :=
    (getF_incF_apart s (by simp only [F.RNG_PORT_STAT_STATE, F.RNG_PORT_SOF_ERR_COUNT]; omega)).trans h
  refine ⟨_, exec_badSof hl hport hstate hbad, ?_, ?_, ?_, ?_, ?_⟩
  · rw [portSt_setPortSt_same]
  · rw [getF_setPortSt, getF_verifyError]
    exact getF_incF_same s (show 0 + 32 ≤ 32 by decide)
  · intro k hk
    rw [setPortSt_frame, verifyError_frame]
    exact regWord_setWord_other s _ (by simpa using hk)
  · rw [setPortSt_frame, verifyError_frame]
    rfl
  · intro h
    rw [setPortSt_frame, verifyError_of_up (hup h)]
    rfl

/-- The taps after a coefficient request, and its answer. -/
theorem exec_frCoeffRequest_shows (tap : FrTap) (req : FrReq) (hl : live s unitRNG = true) (hp : p < 2) (hlane : lane < 2)
    (hstate : buState s p = buFrTrain) :
    ∃ t status, exec (.frCoeffRequest p lane tap req) s = .next t
      ∧ t.outs = s.outs ++ [.frAnswer p lane status] ∧ regsKept [(F.RNG_LANE_EQ_TX_TAPS (2 * p + lane)).key] s t
      ∧ t = { s with regs := t.regs, outs := t.outs } ∧ (req = .hold → t.regs = s.regs ∧ status = 0)
      ∧ ((req = .increment ∨ req = .decrement) → status ≠ 0 → t.regs = s.regs)
      ∧ ((req = .increment ∨ req = .decrement) → status = 0 →
          tapsOk tap (tapsOf t (2 * p + lane)).1 (tapsOf t (2 * p + lane)).2.1 (tapsOf t (2 * p + lane)).2.2 = true) := by
  have hframe := coeffRequest_frame s (2 * p + lane) tap req
  refine ⟨_, (coeffRequest s (2 * p + lane) tap req).2, exec_frCoeffRequest tap req hl hp hlane hstate, ?_, ?_, ?_, ?_, ?_, ?_⟩
  · obtain h | ⟨a, m, b, h⟩ := hframe <;> rw [h] <;> rfl
  · intro k hk
    obtain h | ⟨a, m, b, h⟩ := hframe <;> rw [h]
    · rfl
    · exact regWord_setWord_other s _ (by simpa using hk)
  · obtain h | ⟨a, m, b, h⟩ := hframe <;> rw [h] <;> rfl
  · rintro rfl
    exact ⟨rfl, rfl⟩
  · intro hreq hstatus
    obtain ⟨up, hmove⟩ := coeffRequest_of_move (s := s) (lane := 2 * p + lane) (tap := tap) hreq
    rw [hmove] at hstatus ⊢
    rw [(moveTap_shows s (2 * p + lane) tap up).1 hstatus]
    rfl
  · intro hreq hstatus
    obtain ⟨up, hmove⟩ := coeffRequest_of_move (s := s) (lane := 2 * p + lane) (tap := tap) hreq
    rw [hmove] at hstatus ⊢
    obtain ⟨a, m, b, hok, hset, htaps⟩ := (moveTap_shows s (2 * p + lane) tap up).2 hstatus
    have hread (e : OutEvent) : tapsOf (output (moveTap s (2 * p + lane) tap up).1 e) (2 * p + lane) = (a, m, b) := by
      rw [hset]
      exact htaps
    rw [hread]
    exact hok

end

/-- Settles O30: the line code is undone by induction on what it carries; a command changes what its rule names of one port. -/
theorem markersAndWords : Obligations.MarkersAndWords := by
  refine ⟨scramble_scramble, fun r bits h => destuff_stuff h bits, joinLanes_laneShare,
    fun tx rate now n hn hused => placeFrame_in_free_slots rate now hn hused, ?_, ?_,
    fun s p w hl hport hlock hcap hended hword hcrc hkind hversion hpeer hown =>
      exec_capabilityWordReceive_first hl hport hlock hcap hended hword hcrc hkind hversion hpeer hown,
    fun s p word hl hport hstate hbad => exec_badSof_shows hl hport (by simpa using hstate) hbad,
    fun s p lane tap req hl hp hlane hstate => exec_frCoeffRequest_shows tap req hl hp hlane hstate⟩
  · intro s p lane skew line at_ hl hport hlane hup l d w count l' u hlen hmarker hat
    obtain ⟨t, hexec, hstuff, hkept, hlost, hskewed⟩ :=
      exec_markerReceive_good_shows skew hl hport hlane hup ⟨hlen, hmarker, hat⟩
    exact ⟨t, hexec, hstuff, fun hcount hskew => ⟨hkept hcount hskew, laneAfter_shows l count at_⟩, hlost, hskewed⟩
  · intro s p lane skew line at_ hl hport hlane hup l d hgood hbad
    have hnot : ¬ goodAt s p lane line at_ := by
      rintro ⟨hlen, hmarker, -⟩
      obtain h | h := hbad
      · exact absurd hlen h.not_ge
      · exact Bool.false_ne_true (h.symm.trans hmarker)
    exact ⟨_, exec_markerReceive_bad skew hl hport hlane hup hnot, badMarker_received_shows line hgood⟩

end Sys2Proof.Machine

/-! # Proofs: access lanes -/

namespace Sys2Proof.Machine

/-- A queue whose number no hub has: its count of drops would stand where the map holds the mode of access lane 0. -/
def strayQueue : Nat := 0x7FFFE800

/-- A hub in Service with access lane 0 in mode 1, and a frame in such a queue. -/
def strayQueued : State :=
  (setF (State.reset.withDev { Dev.reset with state := .service, stage := .ringReady, unitsOut := true })
    (F.ACC_LANE_CFG_MODE 0) 1).withPlaza { Plaza.reset with queues := [(strayQueue, [⟨0, 1, false, false, none⟩])] }

/-- The drop counter of that queue and the lane's mode are one word. -/
theorem strayQueue_counts_mode : (F.PLZ_Q_DROP_COUNT strayQueue).key = (F.ACC_LANE_CFG_MODE 0).key := by decide

/-- The command meets what the statement asks of it. -/
theorem strayQueued_asks : live strayQueued unitACC = true ∧ 0 < strayQueued.ident.variant.accLanes := by decide +kernel

/-- The flush of the lane's port counts a drop in that queue, on top of the mode just written. -/
theorem laneMode_strayQueued : laneMode (changeMode strayQueued 0 2) 0 = 3 := by decide +kernel

theorem exec_laneModeChange {s : State} {lane : Nat} {mode : BitVec 3} (hl : live s unitACC = true) :
    exec (.laneModeChange lane mode) s = .next (noteReg (changeMode s lane mode.toNat) unitACC (0x10 * lane)
      (regWord (changeMode s lane mode.toNat) (F.ACC_LANE_CFG_MODE lane).key).toNat) :=
  congrArg Host.Outcome.next (if_pos hl)

/-- Refutes O31: the second clause fails in a state that holds a queue with a number beyond the 1,024 of the register map. The
statement does not ask that queues are those of the map, and the drops that a flush counts in that queue are counted in the
mode of lane 0: written 2, it is 3 after the command. -/
theorem not_accessLinks : ¬ Obligations.AccessLinks := by
  intro h
  obtain ⟨-, hmode, -⟩ := h
  obtain ⟨hl, hlane⟩ := strayQueued_asks
  obtain ⟨t, ht, hread⟩ := hmode strayQueued 0 2 hl hlane
  rw [exec_laneModeChange hl] at ht
  injection ht with ht
  rw [← ht, laneMode, getF_noteReg] at hread
  exact absurd (laneMode_strayQueued.symm.trans hread) (by decide)

end Sys2Proof.Machine

/-! # Proofs: the words of a frame -/

namespace Sys2Proof.Machine

open Sys2Proof.Laws

/-! ### Bytes and numbers -/

theorem leBytes_ofLe (bs : List Byte) : leBytes bs.length (ofLe bs) = bs := by
  induction bs with
  | nil => rfl
  | cons b bs ih =>
    have hb := b.isLt
    have hlow : BitVec.ofNat 8 (b.toNat + 256 * ofLe bs) = b :=
      BitVec.eq_of_toNat_eq (by rw [BitVec.toNat_ofNat]; omega)
    have hhigh : (b.toNat + 256 * ofLe bs) / 256 = ofLe bs := by omega
    rw [List.length_cons, leBytes, ofLe, hlow, hhigh, ih]

theorem ofLe_lt (bs : List Byte) : ofLe bs < 256 ^ bs.length := by
  have h := ofLe_leBytes bs.length (ofLe bs)
  rw [leBytes_ofLe] at h
  rw [h]
  exact Nat.mod_lt _ (Nat.pow_pos (by decide))

theorem beBytes_ofBe (bs : List Byte) : beBytes bs.length (ofBe bs) = bs := by
  rw [beBytes, ofBe, ← List.length_reverse, leBytes_ofLe, List.reverse_reverse]

theorem ofBe_beBytes (n v : Nat) : ofBe (beBytes n v) = v % 256 ^ n := by
  rw [ofBe, beBytes, List.reverse_reverse, ofLe_leBytes]

@[simp] theorem beBytes_length (n v : Nat) : (beBytes n v).length = n := by
  rw [beBytes, List.length_reverse, leBytes_length]

@[simp] theorem padTo_length (n : Nat) (l : List Byte) : (padTo n l).length = n := by
  rw [padTo, List.length_take, List.length_append, List.length_replicate]
  omega

theorem padTo_append_zeros {n : Nat} {l : List Byte} (k : Nat) (h : l.length = n) : padTo n (l ++ List.replicate k 0) = l := by
  rw [padTo, List.append_assoc, ← h, List.take_left]

/-! ### Checks stay within their width (R92, R111) -/

theorem crcShiftUp_lt {width poly : Nat} (hpoly : poly < 2 ^ width) (n : Nat) {c : Nat} (h : c < 2 ^ width) :
    crcShiftUp width poly n c < 2 ^ width := by
  induction n generalizing c with
  | zero => exact h
  | succ n ih =>
    have hshift : c * 2 % 2 ^ width < 2 ^ width := Nat.mod_lt _ (Nat.two_pow_pos width)
    rw [crcShiftUp]
    split
    · exact ih (Nat.xor_lt_two_pow hshift hpoly)
    · exact ih hshift

theorem crcShiftDown_lt {poly : Nat} (hpoly : poly < 2 ^ 32) (n : Nat) {c : Nat} (h : c < 2 ^ 32) :
    crcShiftDown poly n c < 2 ^ 32 := by
  induction n generalizing c with
  | zero => exact h
  | succ n ih =>
    have hshift : c / 2 < 2 ^ 32 := by omega
    rw [crcShiftDown]
    split
    · exact ih (Nat.xor_lt_two_pow hshift hpoly)
    · exact ih hshift

theorem crc16_lt (bs : List Byte) : crc16 bs < 2 ^ 16 :=
  List.foldlRecOn (motive := fun c => c < 2 ^ 16) bs _ (show 0xFFFF < 2 ^ 16 by decide) fun _ hc b _ =>
    crcShiftUp_lt (by decide) 8 (Nat.xor_lt_two_pow hc (by have := b.isLt; omega))

theorem crc32_lt (bs : List Byte) : crc32 bs < 2 ^ 32 := by
  refine Nat.xor_lt_two_pow ?_ (by decide)
  exact List.foldlRecOn (motive := fun c => c < 2 ^ 32) bs _ (show 0xFFFFFFFF < 2 ^ 32 by decide) fun _ hc b _ =>
    crcShiftDown_lt (by decide) 8 (Nat.xor_lt_two_pow hc (by have := b.isLt; omega))

/-! ### Bytes through words (R92) -/

theorem wordBytes_ofBe {bs : List Byte} (h : bs.length = 8) : wordBytes (BitVec.ofNat 64 (ofBe bs)).toNat = bs := by
  have hlt : ofBe bs < 2 ^ 64 := by
    have hle := ofLe_lt bs.reverse
    rwa [List.length_reverse, h] at hle
  rw [BitVec.toNat_ofNat, Nat.mod_eq_of_lt hlt, wordBytes, ← h, beBytes_ofBe]

theorem wordsOfBytes_nil (fuel : Nat) : wordsOfBytes fuel [] = [] := by
  cases fuel <;> rfl

/-- Words give back the bytes they were made of, with zeros at the end. -/
theorem bytesOfStream_wordsOfBytes {fuel : Nat} {bs : List Byte} (h : bs.length ≤ 8 * fuel) :
    ∃ k, bytesOfStream (wordsOfBytes fuel bs) = bs ++ List.replicate k 0 := by
  induction fuel generalizing bs with
  | zero =>
    obtain rfl : bs = [] := List.eq_nil_of_length_eq_zero (by omega)
    exact ⟨0, rfl⟩
  | succ fuel ih =>
    cases bs with
    | nil => exact ⟨0, rfl⟩
    | cons b bs =>
      generalize hl : b :: bs = l at *
      have hwords : bytesOfStream (wordsOfBytes (fuel + 1) l) = padTo 8 l ++ bytesOfStream (wordsOfBytes fuel (l.drop 8)) := by
        subst hl
        rw [wordsOfBytes, bytesOfStream, List.flatMap_cons, wordBytes_ofBe (padTo_length ..), bytesOfStream]
        exact List.cons_ne_nil _ _
      rw [hwords]
      by_cases hlong : 8 ≤ l.length
      · obtain ⟨k, hk⟩ := ih (bs := l.drop 8) (by rw [List.length_drop]; omega)
        refine ⟨k, ?_⟩
        rw [hk, padTo, List.take_append_of_le_length hlong, ← List.append_assoc, List.take_append_drop]
      · have hpad : padTo 8 l = l ++ List.replicate (8 - l.length) 0 := by
          rw [padTo, List.take_append, List.take_of_length_le (by omega), List.take_replicate]
          congr 2
          omega
        refine ⟨8 - l.length, ?_⟩
        rw [List.drop_eq_nil_of_le (by omega), wordsOfBytes_nil, hpad, bytesOfStream, List.flatMap_nil, List.append_nil]

theorem bytesOfStream_length (ws : List (BitVec 64)) : (bytesOfStream ws).length = 8 * ws.length := by
  induction ws with
  | nil => rfl
  | cons w ws ih =>
    rw [bytesOfStream, List.flatMap_cons, List.length_append, ← bytesOfStream, ih, wordBytes, beBytes_length,
      List.length_cons]
    omega

theorem sofLength_sofWord {n : Nat} (h : n < 65536) : sofLength (sofWord n).toNat = n := by
  have hcrc := crc16_lt (beBytes 2 n)
  rw [sofLength, sofWord, bitsAt, BitVec.toNat_ofNat, Nat.shiftRight_eq_div_pow]
  omega

/-- The words of a frame are received as its bytes, none missing. -/
theorem rxBytes_frameWords {bs : List Byte} (h : bs.length < 65536) :
    rxBytes (frameWords bs) = bs ∧ rxShort (frameWords bs) = false := by
  obtain ⟨k, hk⟩ := bytesOfStream_wordsOfBytes (fuel := bs.length / 8 + 1) (bs := bs) (by omega)
  have hsof : sofLength ((frameWords bs).headD 0).toNat = bs.length := sofLength_sofWord h
  have hlen := bytesOfStream_length (wordsOfBytes (bs.length / 8 + 1) bs)
  rw [hk, List.length_append, List.length_replicate] at hlen
  constructor
  · rw [rxBytes, hsof]
    change padTo _ (bytesOfStream (wordsOfBytes _ _)) = _
    rw [hk]
    exact padTo_append_zeros k rfl
  · rw [rxShort, hsof, decide_eq_false_iff_not]
    change ¬ 8 * (wordsOfBytes (bs.length / 8 + 1) bs).length < bs.length
    omega

/-! ### The header (R109) -/

theorem ringHeader_length (f : RingFrame) : (ringHeader f).length = 24 := by
  simp [ringHeader]

/-- The second byte of a frame's header. -/
def headerFlagByte (f : RingFrame) : Byte :=
  BitVec.ofNat 8 (128 * bit01 f.epoch + 64 * bit01 f.enc + 32 * bit01 f.copyDone + 16 * bit01 f.side
    + 8 * bit01 f.wrapped + 4 * bit01 f.clr)

theorem headerFlagByte_bits (f : RingFrame) :
    bitAt (headerFlagByte f).toNat 7 = f.epoch ∧ bitAt (headerFlagByte f).toNat 6 = f.enc
      ∧ bitAt (headerFlagByte f).toNat 5 = f.copyDone ∧ bitAt (headerFlagByte f).toNat 4 = f.side
      ∧ bitAt (headerFlagByte f).toNat 3 = f.wrapped ∧ bitAt (headerFlagByte f).toNat 2 = f.clr := by
  have hbits (a b c d e g : Bool) :
      let n := (BitVec.ofNat 8 (128 * bit01 a + 64 * bit01 b + 32 * bit01 c + 16 * bit01 d + 8 * bit01 e + 4 * bit01 g)).toNat
      bitAt n 7 = a ∧ bitAt n 6 = b ∧ bitAt n 5 = c ∧ bitAt n 4 = d ∧ bitAt n 3 = e ∧ bitAt n 2 = g := by
    revert a b c d e g
    decide
  exact hbits _ _ _ _ _ _

/-- Its first byte: type, class and mark. -/
def headerKindByte (f : RingFrame) : Byte := BitVec.ofNat 8 (f.type.toNat * 16 + f.cls.toNat * 2 + bit01 f.cm)

theorem headerKindByte_parts (f : RingFrame) :
    BitVec.ofNat 4 ((headerKindByte f).toNat / 16) = f.type ∧ BitVec.ofNat 3 ((headerKindByte f).toNat / 2) = f.cls
      ∧ bitAt (headerKindByte f).toNat 0 = f.cm := by
  have htype := f.type.isLt
  have hcls := f.cls.isLt
  have hcm : bit01 f.cm = 0 ∨ bit01 f.cm = 1 := by cases f.cm <;> decide
  have hbyte : (headerKindByte f).toNat = f.type.toNat * 16 + f.cls.toNat * 2 + bit01 f.cm := by
    rw [headerKindByte, BitVec.toNat_ofNat]
    omega
  rw [hbyte]
  refine ⟨BitVec.eq_of_toNat_eq ?_, BitVec.eq_of_toNat_eq ?_, ?_⟩
  · rw [BitVec.toNat_ofNat]
    omega
  · rw [BitVec.toNat_ofNat]
    omega
  · rw [bitAt, Nat.testBit_zero]
    cases f.cm <;> simp only [bit01] at hcm ⊢ <;> simp <;> omega

theorem ofNat_ofBe_beBytes (n : Nat) {w : Nat} (hw : 256 ^ n = 2 ^ w) (v : BitVec w) :
    BitVec.ofNat w (ofBe (beBytes n v.toNat)) = v := by
  rw [ofBe_beBytes, hw, Nat.mod_eq_of_lt v.isLt, BitVec.ofNat_toNat, BitVec.setWidth_eq]

/-- A frame is read from its header and what stands behind it. -/
theorem ringOfBytes_header (f : RingFrame) (rest : List Byte) :
    ringOfBytes (ringHeader f ++ rest) = { f with payload := rest } := by
  obtain ⟨htype, hcls, hcm⟩ := headerKindByte_parts f
  obtain ⟨hepoch, henc, hdone, hside, hwrapped, hclr⟩ := headerFlagByte_bits f
  have hseq := ofNat_ofBe_beBytes 2 (by decide) f.seq
  have hspec := ofNat_ofBe_beBytes 6 (by decide) f.typeSpecific
  have hts := ofNat_ofBe_beBytes 8 (by decide) f.tsOrTxn
  have hread : ringOfBytes (ringHeader f ++ rest) = {
      type := BitVec.ofNat 4 ((headerKindByte f).toNat / 16)
      cls := BitVec.ofNat 3 ((headerKindByte f).toNat / 2)
      cm := bitAt (headerKindByte f).toNat 0
      epoch := bitAt (headerFlagByte f).toNat 7
      enc := bitAt (headerFlagByte f).toNat 6
      copyDone := bitAt (headerFlagByte f).toNat 5
      side := bitAt (headerFlagByte f).toNat 4
      wrapped := bitAt (headerFlagByte f).toNat 3
      clr := bitAt (headerFlagByte f).toNat 2
      destNode := f.destNode
      srcNode := f.srcNode
      seq := BitVec.ofNat 16 (ofBe (beBytes 2 f.seq.toNat))
      hopLimit := f.hopLimit
      destUnit := f.destUnit
      typeSpecific := BitVec.ofNat 48 (ofBe (beBytes 6 f.typeSpecific.toNat))
      tsOrTxn := BitVec.ofNat 64 (ofBe (beBytes 8 f.tsOrTxn.toNat))
      payload := rest } := rfl
  rw [hread, htype, hcls, hcm, hepoch, henc, hdone, hside, hwrapped, hclr, hseq, hspec, hts]

/-! ### Frames in clear (R109, R111, R112) -/

theorem fcsBytes_length (body : List Byte) (stomp : Bool) : (fcsBytes body stomp).length = 4 := leBytes_length ..

/-- A frame in clear goes out as it is. -/
theorem frameBytes_of_clear (s : State) (p : Nat) {f : RingFrame} (stomp : Bool) (h : f.enc = false) :
    frameBytes s p f stomp = (ringHeader f ++ f.payload) ++ fcsBytes (ringHeader f ++ f.payload) stomp := by
  unfold frameBytes
  dsimp only
  split
  · rw [h]
    rfl
  · rfl

theorem ofLe_fcsBytes (body : List Byte) (stomp : Bool) :
    ofLe (fcsBytes body stomp) = crc32 body ^^^ (if stomp then 0xFFFFFFFF else 0) := by
  rw [fcsBytes, ofLe_leBytes]
  exact Nat.mod_eq_of_lt (Nat.xor_lt_two_pow (crc32_lt body) (by split <;> decide))

/-- The cause found in the bytes of a frame in clear: the stomp, if it is one. -/
theorem rxCause_of_clear (q : Nat) {f : RingFrame} (stomp : Bool) (henc : f.enc = false) (hlen : f.payload.length ≤ 9216) :
    rxCause q ((ringHeader f ++ f.payload) ++ fcsBytes (ringHeader f ++ f.payload) stomp) false true
      = if stomp then some (F.RNG_PORT_STOMPED_COUNT q) else none := by
  have hbody : (ringHeader f ++ f.payload).length = 24 + f.payload.length := by rw [List.length_append, ringHeader_length]
  have hfcs := ofLe_fcsBytes (ringHeader f ++ f.payload) stomp
  have hfour := fcsBytes_length (ringHeader f ++ f.payload) stomp
  have hread : (ringOfBytes ((ringHeader f ++ f.payload) ++ fcsBytes (ringHeader f ++ f.payload) stomp)).enc = false := by
    rw [List.append_assoc, ringOfBytes_header]
    exact henc
  have hlength : ofBe ((((ringHeader f ++ f.payload) ++ fcsBytes (ringHeader f ++ f.payload) stomp).drop 8).take 2)
      = f.payload.length := by
    have hslice : (((ringHeader f ++ f.payload) ++ fcsBytes (ringHeader f ++ f.payload) stomp).drop 8).take 2
        = beBytes 2 f.payload.length := rfl
    rw [hslice, ofBe_beBytes]
    omega
  rw [rxCause, hread, hlength]
  generalize ringHeader f ++ f.payload = body at *
  generalize fcsBytes body stomp = fcs at *
  have hsub : (body ++ fcs).length - 4 = body.length := by rw [List.length_append, hfour]; omega
  simp only [hsub, List.drop_left, List.take_left, hfcs]
  cases stomp with
  | true => simp
  | false =>
    have hdiffer : crc32 body ≠ crc32 body ^^^ 0xFFFFFFFF := fun h =>
      absurd (Nat.xor_right_inj.mp ((Nat.xor_zero _).trans h)) (by decide)
    have hfits : ¬ ((body ++ fcs).length ≠ 28 + f.payload.length + 16 * bit01 false ∨ 9216 < f.payload.length) := by
      rw [List.length_append, hbody, hfour, bit01]
      simp only [Bool.false_eq_true, if_false]
      omega
    rw [if_neg hfits]
    simp [hdiffer]

/-- What is read on a segment in clear. -/
theorem readWords_of_clear {t : State} {q : Nat} {ws : List (BitVec 64)} (h : flag t (F.RNG_PORT_STAT_ENC q) = false) :
    readWords t q ws = ⟨{ ringOfBytes (rxBytes ws) with
        payload := ((rxBytes ws).drop 24).take ((rxBytes ws).length - 28 - 16 * bit01 (ringOfBytes (rxBytes ws)).enc) },
      rxCause q (rxBytes ws) (rxShort ws) (!(ringOfBytes (rxBytes ws)).enc),
      ofBe ((((rxBytes ws).drop 24).take
        ((rxBytes ws).length - 28 - 16 * bit01 (ringOfBytes (rxBytes ws)).enc)).take 8)⟩ := by
  simp only [readWords, h]
  rfl

/-- A frame sent in clear is read as it was, and as stomped if it was sent so. -/
theorem readWords_frameWords (s : State) {t : State} (p : Nat) {q : Nat} {f : RingFrame} (stomp : Bool)
    (henc : f.enc = false) (hlen : f.payload.length ≤ 9216) (hclear : flag t (F.RNG_PORT_STAT_ENC q) = false) :
    (readWords t q (frameWords (frameBytes s p f stomp))).frame = f
      ∧ (readWords t q (frameWords (frameBytes s p f stomp))).cause
        = if stomp then some (F.RNG_PORT_STOMPED_COUNT q) else none := by
  have hcause := rxCause_of_clear q stomp henc hlen
  have hfour := fcsBytes_length (ringHeader f ++ f.payload) stomp
  rw [frameBytes_of_clear s p stomp henc]
  generalize fcsBytes (ringHeader f ++ f.payload) stomp = fcs at *
  have hbytes : ((ringHeader f ++ f.payload) ++ fcs).length = 28 + f.payload.length := by
    rw [List.length_append, List.length_append, ringHeader_length, hfour]
    omega
  obtain ⟨hrx, hshort⟩ := rxBytes_frameWords (bs := (ringHeader f ++ f.payload) ++ fcs) (by omega)
  have hframe : ringOfBytes ((ringHeader f ++ f.payload) ++ fcs) = { f with payload := f.payload ++ fcs } := by
    rw [List.append_assoc, ringOfBytes_header]
  have htext : (((ringHeader f ++ f.payload) ++ fcs).drop 24).take (28 + f.payload.length - 28 - 16 * bit01 f.enc)
      = f.payload := by
    have hcount : 28 + f.payload.length - 28 - 16 * bit01 f.enc = f.payload.length := by
      rw [henc, bit01]
      simp
    rw [hcount, List.append_assoc, ← ringHeader_length f, List.drop_left, List.take_left]
  rw [readWords_of_clear hclear, hrx, hshort, hframe, hbytes, htext]
  refine ⟨rfl, ?_⟩
  rw [← hcause, henc, Bool.not_false]

end Sys2Proof.Machine

/-! # Proofs: frames received on a ring port -/

namespace Sys2Proof.Machine

/-! ### A frame taken from the line -/

/-- What taking a frame leaves of a state: all but the port's record and the count of blocks that waited. -/
structure FrameTaken (s u : State) : Prop where
  dev : u.dev = s.dev
  ident : u.ident = s.ident
  plaza : u.plaza = s.plaza
  outs : u.outs = s.outs
  mem : u.mem = s.mem
  jct : u.jct = s.jct
  regs : regsKept [F.CIP_RING_WAIT_COUNT.key] s u
  map : u.ring.map = s.ring.map
  held : u.ring.held = s.ring.held
  heldReq : u.ring.heldReq = s.ring.heldReq
  waitReq : u.ring.waitReq = s.ring.waitReq
  relayPort : u.ring.relayPort = s.ring.relayPort

section
variable {s u : State} {p : Nat}

theorem FrameTaken.word (h : FrameTaken s u) {k : Nat} (hk : k ≠ F.CIP_RING_WAIT_COUNT.key) : regWord u k = regWord s k :=
  h.regs k (by simpa using hk)

protected theorem FrameTaken.getF (h : FrameTaken s u) {f : Fld} (hk : f.key ≠ F.CIP_RING_WAIT_COUNT.key) : getF u f = getF s f :=
  getF_congr (h.word hk)

/-- A counter raised in a state where a frame has been taken. -/
theorem FrameTaken.regsKept_incF (h : FrameTaken s u) (f : Fld) :
    regsKept [f.key, F.CIP_RING_WAIT_COUNT.key] s (incF u f) :=
  regsKept_setF (fun k hk => h.regs k fun hmem => hk (List.mem_cons_of_mem _ hmem)) List.mem_cons_self _

theorem frameTaken_countWaits (s : State) (f : RingFrame) : FrameTaken s (countWaits s f) := by
  unfold countWaits
  split
  · exact ⟨rfl, rfl, rfl, rfl, rfl, rfl, regsKept_setF (regsKept_refl _ _) List.mem_cons_self _, rfl, rfl, rfl, rfl, rfl⟩
  · exact ⟨rfl, rfl, rfl, rfl, rfl, rfl, regsKept_refl _ _, rfl, rfl, rfl, rfl, rfl⟩

/-- A port's record stands beside the map, the frames held and the relay. -/
theorem setPortSt_ring (s : State) (n : Nat) (x : PortSt) : ∃ a b c,
    setPortSt s n x = s.withRing { s.ring with port0 := a, port1 := b, port2 := c } := by
  match n with
  | 0 => exact ⟨_, _, _, rfl⟩
  | 1 => exact ⟨_, _, _, rfl⟩
  | _ + 2 => exact ⟨_, _, _, rfl⟩

protected theorem FrameTaken.setPortSt (h : FrameTaken s u) (n : Nat) (x : PortSt) : FrameTaken s (setPortSt u n x) := by
  obtain ⟨a, b, c, heq⟩ := setPortSt_ring u n x
  rw [heq]
  exact { h with }

/-- The state in which a frame other than a keepalive is carried or discarded (R126, R132). -/
def afterTaking (s : State) (p : Nat) (r : RxFrame) : State :=
  let s := countWaits s r.frame
  setPortSt s p { portSt s p with
    kaSeen := (portSt s p).kaSeen || !flag s (F.RNG_PORT_STAT_ENC p)
    rxExpect := if flag s (F.RNG_PORT_STAT_ENC p) then (portSt s p).rxExpect + 1 else (portSt s p).rxExpect }

theorem frameTaken_afterTaking (s : State) (p : Nat) (r : RxFrame) : FrameTaken s (afterTaking s p r) :=
  (frameTaken_countWaits s r.frame).setPortSt p _

/-- The frame as it is carried on: marked as having been in clear where its segment was. -/
def carried (s : State) (p : Nat) (g : RingFrame) : RingFrame := { g with clr := g.clr || !flag s (F.RNG_PORT_STAT_ENC p) }

theorem port_lt_of_takesFrame {ws : List (BitVec 64)} {at_ : Option Nat} (h : takesFrame s p ws at_ = true) : p < 2 := by
  simp only [takesFrame, Bool.and_eq_true, decide_eq_true_eq] at h
  exact h.1.1.1.1.2

theorem exec_ringFrameReceive {ws : List (BitVec 64)} {at_ : Option Nat} (h : takesFrame s p ws at_ = true)
    (hka : isKeepalive (readWords s p ws).frame = false) : exec (.ringFrameReceive p ws at_) s
      = .next (let u := afterTaking s p (readWords s p ws)
        match (readWords s p ws).cause with
        | some c => if broken u p then incF u c else badFrame u p (carried s p (readWords s p ws).frame) c
        | none => if broken u p then relayIn u p (carried s p (readWords s p ws).frame)
          else carryFrame u p (carried s p (readWords s p ws).frame)) := by
  have henc : flag (countWaits s (readWords s p ws).frame) (F.RNG_PORT_STAT_ENC p) = flag s (F.RNG_PORT_STAT_ENC p) := by
    refine flag_congr ((frameTaken_countWaits s _).getF ?_)
    simp only [F.RNG_PORT_STAT_ENC, F.CIP_RING_WAIT_COUNT]
    have := port_lt_of_takesFrame h
    omega
  have hcarried : carried s p (readWords s p ws).frame
      = carried (countWaits s (readWords s p ws).frame) p (readWords s p ws).frame := by
    rw [carried, carried, henc]
  rw [hcarried]
  exact congrArg Host.Outcome.next ((if_pos h).trans (if_neg (by rw [hka]; decide)))

theorem key_broken_apart : F.RNG_STAT_BROKEN.key ≠ F.CIP_RING_WAIT_COUNT.key := by decide

theorem broken_congr {t : State} (h : regWord t F.RNG_STAT_BROKEN.key = regWord s F.RNG_STAT_BROKEN.key) (port : Nat) :
    broken t port = broken s port := by
  rw [broken, broken, bitF, bitF, getF_congr h]

theorem forwardsTransit_congr {t : State} (h : t.dev = s.dev) : forwardsTransit t = forwardsTransit s := by
  rw [forwardsTransit, forwardsTransit, stationRuns, stationRuns, h]

/-! ### The verdict (R118) -/

/-- The verdict looks at the station, the map and its status alone. -/
theorem verdictOf_congr {t : State} (f : RingFrame) (hdev : t.dev = s.dev) (hident : t.ident = s.ident)
    (hmap : t.ring.map = s.ring.map) (hstat : regWord t F.RNG_STAT_BROKEN.key = regWord s F.RNG_STAT_BROKEN.key) :
    verdictOf t f = verdictOf s f := by
  have hbroken : getF t F.RNG_STAT_BROKEN = getF s F.RNG_STAT_BROKEN := getF_congr hstat
  have hdup : flag t F.RNG_STAT_DUP_ID = flag s F.RNG_STAT_DUP_ID := flag_congr (getF_congr hstat)
  have hself : fromSelf t f = fromSelf s f := by rw [fromSelf, fromSelf, hdev, hident]
  have hun : forUnassigned t f = forUnassigned s f := by
    rw [forUnassigned, forUnassigned, actsUnassigned, actsUnassigned, hdev, hident, hdup]
  have htwin : twinOnRing t = twinOnRing s := by rw [twinOnRing, twinOnRing, hdev, hmap]
  have hseg : twinSegmentBroken t = twinSegmentBroken s := by
    rw [twinSegmentBroken, twinSegmentBroken, broken, broken, bitF, bitF, hdev, hbroken]
  unfold verdictOf
  rw [hself, hun, htwin, hseg, hdev]

theorem FrameTaken.verdictOf_eq (h : FrameTaken s u) (f : RingFrame) : verdictOf u f = verdictOf s f :=
  verdictOf_congr f h.dev h.ident h.map (h.word key_broken_apart)

/-- A frame goes on with the payload it came with. -/
theorem payload_of_forward {f g : RingFrame} (h : (verdictOf s f).forward = some g) : g.payload = f.payload := by
  unfold verdictOf at h
  dsimp only at h
  split at h
  · cases h
  split at h
  · cases h
  split at h
  · split at h <;> cases h
    rfl
  split at h
  · cases h
    rfl
  split at h
  · dsimp only at h
    split at h <;> cases h
    rfl
  · dsimp only at h
    split at h <;> cases h
    rfl

/-! ### Causes (R111 to R113) -/

/-- What is wrong with a frame is counted in a counter of its port, apart from the registers that its carriage looks at. -/
theorem cause_counter {ws : List (BitVec 64)} {c : Fld} (hp : p < 2) (h : (readWords s p ws).cause = some c) :
    ∃ a, c = ⟨a, 0, 32⟩ ∧ 0x20000001C ≤ a ∧ a < 0x200000500 ∧ a ≠ F.RNG_STAT_BROKEN.key := by
  have hread : ∃ bytes short ok, (readWords s p ws).cause = rxCause p bytes short ok := by
    unfold readWords
    extract_lets bytes raw text tag f counter short
    split
    · split
      · extract_lets key head
        split <;> exact ⟨_, _, _, rfl⟩
      · exact ⟨_, _, _, rfl⟩
    · exact ⟨_, _, _, rfl⟩
  have hkeys {a : Nat} (ha : a = 0x20000001C ∨ 0x200000448 ≤ a ∧ a ≤ 0x200000454) :
      0x20000001C ≤ a + 0x40 * p ∧ a + 0x40 * p < 0x200000500 ∧ a + 0x40 * p ≠ F.RNG_STAT_BROKEN.key := by
    simp only [F.RNG_STAT_BROKEN]
    omega
  obtain ⟨bytes, short, ok, hread⟩ := hread
  rw [hread] at h
  unfold rxCause at h
  dsimp only at h
  split at h
  · cases h
    exact ⟨_, rfl, hkeys (by decide)⟩
  split at h
  · cases h
    exact ⟨_, rfl, hkeys (by decide)⟩
  split at h
  · cases h
    exact ⟨_, rfl, hkeys (by decide)⟩
  split at h
  · cases h
    exact ⟨_, rfl, hkeys (by decide)⟩
  split at h
  · cases h
    exact ⟨_, rfl, hkeys (by decide)⟩
  · cases h

/-! ### Bad frames (R113, R143) -/

/-- The queues of the ring that a bad frame was on its way to. -/
def badPlaces (p : Nat) (f : RingFrame) (v : Verdict) (s : State) : (PlzFrame × List Target) × State :=
  match v.forward with
  | some g =>
    let (ts, s) := if forwardsTransit s then ringTarget s (1 - p) .transit g 0 else ([], s)
    ((ringStored s g (96 + p) 0, ts), s)
  | none => ((ringStored s f (96 + p) 0, []), s)

/-- The copies of a bad frame that were on their way to this hub's own ports, cut off where they have begun. -/
def cutLocal (s : State) (p : Nat) (f : RingFrame) : State :=
  let x := { newFrame s (.eth f.payload) (96 + p) f.cls.toNat (tsBits f 28 12) 0 f.cm with bad := true }
  let (ts, t) := localPlaces s x f
  if ts.any (leavesEarly t x) then cutOff t x ts else s

theorem badFrame_eq (s : State) (p : Nat) (f : RingFrame) (c : Fld) : badFrame s p f c
    = (let v := verdictOf (incF s c) f
      let t := loseFrame (incF s c) (ringStored (incF s c) f (96 + p) 0) (badPlaces p f v)
      if v.copy && f.type = tyDATA && vlanRing t (tsBits f 28 12) then cutLocal t p f else t) := rfl

/-- A frame of one cell does not leave before its end. -/
theorem leavesEarly_of_small {f : PlzFrame} (h : (storedBytes f.body).length + 32 ≤ 256) (t : Target) :
    leavesEarly s f t = false := by
  have hcells : ¬ 2 ≤ cellsFor (storedBytes f.body).length := by
    rw [cellsFor]
    omega
  simp [leavesEarly, hcells]

theorem any_leavesEarly_of_small {f : PlzFrame} (h : (storedBytes f.body).length + 32 ≤ 256) (ts : List Target) :
    ts.any (leavesEarly s f) = false :=
  List.any_eq_false.mpr fun t _ => by simp [leavesEarly_of_small h t]

/-- A lost frame with its counters and its capture, before its copies are looked for. -/
def lostFrame (s : State) (f : PlzFrame) : State := captureFrame (dropIngress s 6) f [(1023, 0, 6)]

theorem loseFrame_eq (s : State) (f : PlzFrame) (places : State → (PlzFrame × List Target) × State) : loseFrame s f places
    = if (places (lostFrame s f)).1.2.any (leavesEarly (places (lostFrame s f)).2 (places (lostFrame s f)).1.1) then
        cutOff (places (lostFrame s f)).2 (places (lostFrame s f)).1.1 (places (lostFrame s f)).1.2
      else lostFrame s f := rfl

theorem storedBytes_ringStored (s : State) (f : RingFrame) (i n : Nat) :
    (storedBytes (ringStored s f i n).body).length = 24 + f.payload.length := by
  have hbody : (ringStored s f i n).body = .ring f := rfl
  rw [hbody, storedBytes, List.length_append, ringHeader_length]

/-- A bad frame of one cell is counted and captured, and nothing else. -/
theorem badFrame_of_small {f : RingFrame} (c : Fld) (h : 24 + f.payload.length + 32 ≤ 256) :
    badFrame s p f c = lostFrame (incF s c) (ringStored (incF s c) f (96 + p) 0) := by
  have hplaces (w : State) : (badPlaces p f (verdictOf (incF s c) f) w).1.2.any
      (leavesEarly (badPlaces p f (verdictOf (incF s c) f) w).2 (badPlaces p f (verdictOf (incF s c) f) w).1.1) = false := by
    unfold badPlaces
    split
    next g hg =>
      refine any_leavesEarly_of_small (f := ringStored _ g (96 + p) 0) ?_ _
      rw [storedBytes_ringStored, payload_of_forward hg]
      exact h
    next => rfl
  have hlocal (w : State) : cutLocal w p f = w := by
    have hnone (t : State) (ts : List Target) {x : PlzFrame} (hx : x.body = .eth f.payload) :
        ts.any (leavesEarly t x) = false :=
      any_leavesEarly_of_small (by rw [hx]; exact show f.payload.length + 32 ≤ 256 by omega) ts
    unfold cutLocal
    dsimp only
    rw [hnone _ _ rfl, if_neg Bool.false_ne_true]
  have hlost : loseFrame (incF s c) (ringStored (incF s c) f (96 + p) 0) (badPlaces p f (verdictOf (incF s c) f))
      = lostFrame (incF s c) (ringStored (incF s c) f (96 + p) 0) := by
    rw [loseFrame_eq, hplaces, if_neg Bool.false_ne_true]
  rw [badFrame_eq]
  dsimp only
  rw [hlost, hlocal, ite_self]

/-- The copy of a bad frame that has begun to leave on the ring is cut off. -/
theorem badFrame_of_leaving {f h : RingFrame} {c : Fld} {w : State} {x : Target}
    (hw : lostFrame (incF s c) (ringStored (incF s c) f (96 + p) 0) = w)
    (hforward : (verdictOf (incF s c) f).forward = some h) (hcopy : (verdictOf (incF s c) f).copy = false ∨ f.type ≠ tyDATA)
    (htransit : forwardsTransit w = true) (htarget : ringTarget w (1 - p) .transit h 0 = ([x], w))
    (hearly : leavesEarly w (ringStored w h (96 + p) 0) x = true) :
    badFrame s p f c = cutOff w (ringStored w h (96 + p) 0) [x] := by
  have hplaces : badPlaces p f (verdictOf (incF s c) f) w = ((ringStored w h (96 + p) 0, [x]), w) := by
    unfold badPlaces
    rw [hforward]
    dsimp only
    rw [htransit, if_pos rfl, htarget]
  have hlocal (v : State) : ((verdictOf (incF s c) f).copy && f.type = tyDATA && vlanRing v (tsBits f 28 12)) = false := by
    obtain hnone | htype := hcopy
    · rw [hnone]
      rfl
    · simp [htype]
  rw [badFrame_eq]
  dsimp only
  rw [hlocal, if_neg (by decide), loseFrame_eq, hw, hplaces, List.any_cons, hearly]
  rfl

/-- A frame is stored under the epoch of its ingress and the time, whatever the counters show. -/
theorem ringStored_incF (s : State) {c : Fld} (h : F.SYS_EPOCH_STAT_ACTIVE.key ≠ c.key) (f : RingFrame) (i n : Nat) :
    ringStored (incF s c) f i n = ringStored s f i n := by
  have hepoch (b : Nat) : bitF (incF s c) F.SYS_EPOCH_STAT_ACTIVE b = bitF s F.SYS_EPOCH_STAT_ACTIVE b := by
    rw [bitF, bitF, getF_incF_apart s h]
  unfold ringStored newFrame
  rw [hepoch, hepoch]
  rfl

/-- A transit frame leaves by a port that is not broken, from its queue there. -/
theorem ringTarget_transit {q : Nat} (h : broken s q = false) (f : RingFrame) :
    ringTarget s q .transit f 0 = ([⟨ringQueue q f.cls.toNat .transit, false, 0, false, none⟩], s) := by
  have hpick : pickRingQueue s q f.cls.toNat 0 .transit = ringQueue q f.cls.toNat .transit := if_neg (by omega)
  unfold ringTarget
  dsimp only
  rw [h, hpick]
  rfl

/-! ### Frames carried (R118, R420) -/

/-- A passing frame at its last hop leaves the ring, counted. -/
theorem carryFrame_expired {f : RingFrame} (hself : fromSelf s f = false)
    (hverdict : verdictOf s f = ⟨false, none, false, true⟩) :
    carryFrame s p f = incF s F.RNG_HOP_EXPIRED_COUNT := by
  have hself' : fromSelf (incF s F.RNG_HOP_EXPIRED_COUNT) f = false := hself
  unfold carryFrame
  dsimp only
  rw [hverdict]
  simp [hself']

theorem relayIn_of_no_relay {f : RingFrame} (h : s.ring.relayPort ≠ some p) : relayIn s p f = s := if_neg fun hr => h hr.1

/-! ### Frames received (RING_FRAME_RECEIVE) -/

theorem broken_afterTaking (s : State) (p : Nat) (r : RxFrame) : broken (afterTaking s p r) p = broken s p :=
  broken_congr ((frameTaken_afterTaking s p r).word key_broken_apart) p

section
variable {ws : List (BitVec 64)} {at_ : Option Nat} (htakes : takesFrame s p ws at_ = true)
  (hka : isKeepalive (readWords s p ws).frame = false)
include htakes hka

theorem exec_ringFrameReceive_bad {c : Fld} (hcause : (readWords s p ws).cause = some c) :
    exec (.ringFrameReceive p ws at_) s = .next (if broken s p then incF (afterTaking s p (readWords s p ws)) c
      else badFrame (afterTaking s p (readWords s p ws)) p (carried s p (readWords s p ws).frame) c) := by
  rw [exec_ringFrameReceive htakes hka, hcause, ← broken_afterTaking s p (readWords s p ws)]

theorem exec_ringFrameReceive_good (hcause : (readWords s p ws).cause = none) :
    exec (.ringFrameReceive p ws at_) s = .next (if broken s p then
        relayIn (afterTaking s p (readWords s p ws)) p (carried s p (readWords s p ws).frame)
      else carryFrame (afterTaking s p (readWords s p ws)) p (carried s p (readWords s p ws).frame)) := by
  rw [exec_ringFrameReceive htakes hka, hcause, ← broken_afterTaking s p (readWords s p ws)]

/-- A bad frame at a broken port is counted by its cause. -/
theorem bad_at_broken_port {c : Fld} (hcause : (readWords s p ws).cause = some c) (hbroken : broken s p = true) :
    ∃ t, exec (.ringFrameReceive p ws at_) s = .next t ∧ regsKept [c.key, F.CIP_RING_WAIT_COUNT.key] s t
      ∧ t.plaza = s.plaza ∧ t.outs = s.outs ∧ memKept s t ∧ getF t c = (getF s c + 1) % 2 ^ 32 := by
  have htaken := frameTaken_afterTaking s p (readWords s p ws)
  obtain ⟨a, rfl, hlo, hhi, -⟩ := cause_counter (port_lt_of_takesFrame htakes) hcause
  have hwait : a ≠ F.CIP_RING_WAIT_COUNT.key := (Nat.lt_trans hhi (by decide)).ne
  refine ⟨_, (exec_ringFrameReceive_bad htakes hka hcause).trans (congrArg _ (if_pos hbroken)), htaken.regsKept_incF _,
    htaken.plaza, htaken.outs, memKept_of_mem htaken.mem, ?_⟩
  rw [getF_incF_same _ (show 0 + 32 ≤ 32 by decide), htaken.getF hwait]

/-- A bad frame elsewhere is counted by its cause and as dropped, then captured; what it leaves behind depends on how much of it
had left. -/
theorem bad_at_whole_port {c : Fld} (hcause : (readWords s p ws).cause = some c) (hbroken : broken s p = false) :
    let f := carried s p (readWords s p ws).frame
    ∃ u : State, regsKept [c.key, (dropCounter 6).key, F.CIP_RING_WAIT_COUNT.key] s u ∧ u.plaza = s.plaza ∧ u.outs = s.outs
      ∧ memKept s u ∧ getF u c = (getF s c + 1) % 2 ^ 32
      ∧ getF u (dropCounter 6) = (getF s (dropCounter 6) + 1) % 2 ^ 32
      ∧ (let w := captureFrame u (ringStored u f (96 + p) 0) [(1023, 0, 6)]
        (24 + f.payload.length + 32 ≤ 256 → exec (.ringFrameReceive p ws at_) s = .next w)
        ∧ ∀ h, (verdictOf s f).forward = some h → ((verdictOf s f).copy = false ∨ f.type ≠ tyDATA) →
          forwardsTransit s = true → broken s (1 - p) = false →
          let x : Target := ⟨ringQueue (1 - p) h.cls.toNat .transit, false, 0, false, none⟩
          leavesEarly w (ringStored w h (96 + p) 0) x = true →
          exec (.ringFrameReceive p ws at_) s = .next (cutOff w (ringStored w h (96 + p) 0) [x])) := by
  intro f
  have htaken := frameTaken_afterTaking s p (readWords s p ws)
  have hexec := (exec_ringFrameReceive_bad htakes hka hcause).trans
    (congrArg _ (if_neg (by rw [hbroken]; exact Bool.false_ne_true)))
  generalize afterTaking s p (readWords s p ws) = v at htaken hexec
  obtain ⟨a, rfl, hlo, hhi, hstat⟩ := cause_counter (port_lt_of_takesFrame htakes) hcause
  have hwait : a ≠ F.CIP_RING_WAIT_COUNT.key := (Nat.lt_trans hhi (by decide)).ne
  have hdrop : a ≠ (dropCounter 6).key := (Nat.lt_of_lt_of_le (by decide) hlo).ne'
  have hstored : ringStored (dropIngress (incF v ⟨a, 0, 32⟩) 6) f (96 + p) 0 = ringStored (incF v ⟨a, 0, 32⟩) f (96 + p) 0 :=
    ringStored_incF _ (by decide) f _ _
  have hword {k : Nat} (ha : k ≠ a) (hd : k ≠ (dropCounter 6).key) (hk : k ≠ F.CIP_RING_WAIT_COUNT.key) :
      regWord (dropIngress (incF v ⟨a, 0, 32⟩) 6) k = regWord s k :=
    ((regWord_setWord_other _ _ hd).trans (regWord_setWord_other _ _ ha)).trans (htaken.word hk)
  refine ⟨dropIngress (incF v ⟨a, 0, 32⟩) 6, ?_, htaken.plaza, htaken.outs, memKept_of_mem htaken.mem, ?_, ?_, ?_, ?_⟩
  · intro k hk
    simp only [List.mem_cons, List.not_mem_nil, or_false, not_or] at hk
    obtain ⟨ha, hd, hk⟩ := hk
    exact hword ha hd hk
  · rw [dropIngress, getF_incF_apart _ hdrop, getF_incF_same _ (show 0 + 32 ≤ 32 by decide), htaken.getF hwait]
  · rw [dropIngress, getF_incF_same _ (show 0 + 32 ≤ 32 by decide), getF_incF_apart _ hdrop.symm, htaken.getF (by decide)]
    rfl
  · intro hsmall
    rw [hstored, hexec, badFrame_of_small _ hsmall]
    rfl
  · intro h hforward hcopy htransit hother x hearly
    rw [hstored] at hearly ⊢
    have hkept : RngKept (keyOf unitACC 0) (dropIngress (incF v ⟨a, 0, 32⟩) 6) (lostFrame (incF v ⟨a, 0, 32⟩)
        (ringStored (incF v ⟨a, 0, 32⟩) f (96 + p) 0)) := (RngKept.refl _).captureFrame
    have hverdict : verdictOf (incF v ⟨a, 0, 32⟩) f = verdictOf s f :=
      verdictOf_congr f htaken.dev htaken.ident htaken.map
        ((regWord_setWord_other _ _ hstat.symm).trans (htaken.word key_broken_apart))
    refine hexec.trans (congrArg _ (badFrame_of_leaving (h := h) rfl ?_ ?_ ?_ (ringTarget_transit ?_ h) hearly))
    · rw [hverdict, hforward]
    · rwa [hverdict]
    · exact (forwardsTransit_congr (hkept.dev.trans htaken.dev)).trans htransit
    · exact (broken_congr ((hkept.word _ (by decide) (by decide)).trans
        (hword hstat.symm (by decide) key_broken_apart)) _).trans hother

/-- At a broken port without a relay a good frame is discarded. -/
theorem good_at_broken_port (hcause : (readWords s p ws).cause = none) (hbroken : broken s p = true)
    (hrelay : s.ring.relayPort ≠ some p) :
    ∃ t, exec (.ringFrameReceive p ws at_) s = .next t ∧ regsKept [F.CIP_RING_WAIT_COUNT.key] s t ∧ t.plaza = s.plaza
      ∧ t.outs = s.outs ∧ t.mem = s.mem ∧ t.jct = s.jct ∧ t.ring.held = s.ring.held ∧ t.ring.heldReq = s.ring.heldReq
      ∧ t.ring.waitReq = s.ring.waitReq := by
  have htaken := frameTaken_afterTaking s p (readWords s p ws)
  refine ⟨_, ?_, htaken.regs, htaken.plaza, htaken.outs, htaken.mem, htaken.jct, htaken.held, htaken.heldReq, htaken.waitReq⟩
  rw [exec_ringFrameReceive_good htakes hka hcause, if_pos hbroken, relayIn_of_no_relay (by rwa [htaken.relayPort])]

/-- A good frame for another node leaves the ring when its hop limit has run out. -/
theorem good_at_last_hop (hcause : (readWords s p ws).cause = none) (hbroken : broken s p = false)
    (hself : fromSelf s (readWords s p ws).frame = false) (hun : forUnassigned s (readWords s p ws).frame = false)
    (htype : reservedType (readWords s p ws).frame = false) (hdest : (readWords s p ws).frame.destNode.toNat ≠ s.dev.nodeId)
    (hall : (readWords s p ws).frame.destNode ≠ 255) (hhop : (readWords s p ws).frame.hopLimit.toNat ≤ 1) :
    ∃ t, exec (.ringFrameReceive p ws at_) s = .next t
      ∧ regsKept [F.RNG_HOP_EXPIRED_COUNT.key, F.CIP_RING_WAIT_COUNT.key] s t ∧ t.plaza = s.plaza ∧ t.outs = s.outs
      ∧ t.mem = s.mem ∧ getF t F.RNG_HOP_EXPIRED_COUNT = (getF s F.RNG_HOP_EXPIRED_COUNT + 1) % 2 ^ 32 := by
  have htaken := frameTaken_afterTaking s p (readWords s p ws)
  have hexec := (exec_ringFrameReceive_good htakes hka hcause).trans
    (congrArg _ (if_neg (by rw [hbroken]; exact Bool.false_ne_true)))
  have hverdict : verdictOf s (carried s p (readWords s p ws).frame) = ⟨false, none, false, true⟩ := by
    have hpassing := verdictOf_passing (f := carried s p (readWords s p ws).frame) hself hdest hun
    have htype' : reservedType (carried s p (readWords s p ws).frame) = false := htype
    have hall' : (carried s p (readWords s p ws).frame).destNode ≠ 255 := hall
    have hhop' : (carried s p (readWords s p ws).frame).hopLimit.toNat ≤ 1 := hhop
    rw [hpassing, htype', if_neg Bool.false_ne_true, if_neg hall', if_pos hhop', decide_eq_true hhop']
  generalize afterTaking s p (readWords s p ws) = u at htaken hexec
  have hself' : fromSelf u (carried s p (readWords s p ws).frame) = false := by
    rw [fromSelf, htaken.dev, htaken.ident]
    exact hself
  refine ⟨incF u F.RNG_HOP_EXPIRED_COUNT, ?_, htaken.regsKept_incF _, htaken.plaza, htaken.outs, htaken.mem, ?_⟩
  · rw [hexec, carryFrame_expired hself' ((htaken.verdictOf_eq _).trans hverdict)]
  · rw [getF_incF_same _ (by decide), htaken.getF (by decide)]
    rfl

end

/-- A keepalive is received as KEEPALIVE_RECEIVE has it. -/
theorem exec_ringFrameReceive_keepalive {ws : List (BitVec 64)} (at_ : Option Nat)
    (h : isKeepalive (readWords s p ws).frame = true) :
    exec (.ringFrameReceive p ws at_) s = exec (.keepaliveReceive p ws at_ 0) s := by
  have hring : exec (.ringFrameReceive p ws at_) s = .next (if takesFrame s p ws at_ then
      receiveRing (countWaits s (readWords s p ws).frame) p (readWords s p ws) else s) := rfl
  have hkeepalive : exec (.keepaliveReceive p ws at_ 0) s = .next (if takesFrame s p ws at_ then
      if isKeepalive (readWords s p ws).frame then
        receiveKeepalive (countWaits s (readWords s p ws).frame) p (readWords s p ws) 0 else s
      else s) := rfl
  rw [hring, hkeepalive, if_pos h, receiveRing, if_pos h]

end

/-- Settles O33: what a frame's words give, then what becomes of a frame by its cause, its port and its verdict. -/
theorem framesReceived : Obligations.FramesReceived := by
  refine ⟨fun s t p q f stomp henc hlen hclear => readWords_frameWords s p stomp henc hlen hclear,
    fun s p ws at_ h => congrArg Host.Outcome.next (if_neg (by rw [h]; exact Bool.false_ne_true)),
    fun s p ws at_ c htakes hka hcause hbroken => bad_at_broken_port htakes hka hcause hbroken,
    fun s p ws at_ c htakes hka hcause hbroken => bad_at_whole_port htakes hka hcause hbroken,
    fun s p ws at_ h => exec_ringFrameReceive_keepalive at_ h,
    fun s p ws at_ htakes hka hcause hbroken hrelay => good_at_broken_port htakes hka hcause hbroken hrelay,
    fun s p ws at_ htakes hka hcause hbroken _ hself hun htype hdest hall hhop =>
      good_at_last_hop htakes hka hcause hbroken hself hun htype hdest hall hhop, ?_⟩
  intro s p ws at_ htakes f hka hcause hbroken
  have htaken := frameTaken_afterTaking s p (readWords s p ws)
  exact ⟨_, htaken.regs, htaken.plaza, htaken.map, htaken.outs, (exec_ringFrameReceive_good htakes hka hcause).trans
    (congrArg _ (if_neg (by rw [hbroken]; exact Bool.false_ne_true)))⟩

end Sys2Proof.Machine

/-! # Proofs: frames added to the ring -/

namespace Sys2Proof.Machine

section
variable {s : State} {f : RingFrame} {port : Nat}

/-! ### Directions and queues (R119, R123, R127) -/

/-- The direction that the hops alone give. -/
def hopsChoice (s : State) (node : Nat) : Nat :=
  match hopsTo s node false, hopsTo s node true with
  | some e, some w => if w < e then 1 else if e < w then 0 else getF s F.RNG_CFG_TIE_WEST
  | some _, none => 0
  | none, some _ => 1
  | none, none => 0

/-- What the destination map says of the direction to a node. -/
def mappedDir (s : State) (node : Nat) : Nat := if node = 0 then 0 else getF s (F.RNG_DMAP_DIR (dmapBank s) node)

theorem directionTo_eq (s : State) (node : Nat) : directionTo s node
    = if node = 255 then 0
      else if node = s.dev.nodeId then bit01 s.dev.side
      else if mappedDir s node = 1 then 0
      else if mappedDir s node = 2 then 1
      else hopsChoice s node := rfl

theorem hopsChoice_lt (s : State) (node : Nat) : hopsChoice s node < 2 := by
  have htie : getF s F.RNG_CFG_TIE_WEST < 2 := getF_lt s _
  unfold hopsChoice
  repeat' split
  all_goals omega

/-- A direction is one of the two ring ports. -/
theorem directionTo_lt (s : State) (node : Nat) : directionTo s node < 2 := by
  have hhops := hopsChoice_lt s node
  have hside : bit01 s.dev.side < 2 := by cases s.dev.side <;> decide
  rw [directionTo_eq]
  split_ifs <;> omega

theorem pickRingQueue_zero (s : State) (port cls : Nat) (k : RingKind) : pickRingQueue s port cls 0 k = ringQueue port cls k :=
  if_neg (by omega)

/-- Where a frame that may be wrapped goes from a port: its queue there, or the other port's where that one is broken. -/
def wayBy (s : State) (f : RingFrame) (port : Nat) : Target :=
  ⟨ringQueue (if broken s port then 1 - port else port) f.cls.toNat .added, shadowType .added f, 0, broken s port, none⟩

/-- From a state with the same registers, a frame with the type and class of `f` that may be wrapped goes that way. -/
theorem ringTarget_added {t : State} {g : RingFrame} (hregs : t.regs = s.regs) (hident : t.ident = s.ident)
    (htype : g.type = f.type) (hcls : g.cls = f.cls) (hport : port < 2) (hone : broken s 0 = false ∨ broken s 1 = false)
    (hwrap : wrapAllowed g = true) : ringTarget t port .added g 0 = ([wayBy s f port], t) := by
  have hbroken (p : Nat) : broken t p = broken s p :=
    broken_congr (regWord_congr hregs (congrArg Ident.variant hident) _) p
  unfold ringTarget wayBy
  simp only [pickRingQueue_zero, shadowType, htype, hcls, hbroken]
  cases hb : broken s port with
  | false => rfl
  | true =>
    have hother : broken s (1 - port) = false := by
      obtain rfl | rfl : port = 0 ∨ port = 1 := by omega
      · exact hone.resolve_left (by rw [hb]; decide)
      · exact hone.resolve_right (by rw [hb]; decide)
    rw [hother, hwrap]
    rfl

/-- The header of an added frame, under number `n`. -/
def addedHeader (s : State) (f : RingFrame) (n : BitVec 16) : RingFrame :=
  { stampSource s f with hopLimit := hopLimitFor s f.destNode.toNat, seq := n }

/-- The header of an added frame of class 7. -/
def class7Header (s : State) (f : RingFrame) : RingFrame := { addedHeader s f s.ring.c7Seq with cm := false }

/-- The state in which a number of class 7 has been taken. -/
def class7Taken (s : State) : State := s.withRing { s.ring with c7Seq := s.ring.c7Seq + 1 }

theorem wrapAllowed_addedHeader (hann : isAnnouncement f = false) (n : BitVec 16) :
    wrapAllowed (addedHeader s f n) = true := by
  have hann' : isAnnouncement (addedHeader s f n) = false := hann
  rw [wrapAllowed, hann']
  rfl

theorem wrapAllowed_class7Header (hann : isAnnouncement f = false) : wrapAllowed (class7Header s f) = true :=
  wrapAllowed_addedHeader (s := s) hann s.ring.c7Seq

/-! ### RING_FRAME_ADD (R116, R120 to R122) -/

theorem exec_ringFrameAdd (s : State) (f : RingFrame) : exec (.ringFrameAdd f) s
    = .next (match addPlan s (directionTo s f.destNode.toNat) .added f 0 with
      | (some (g, ts), t) => enqueueRing t ts g 98 0
      | (none, t) => t) := rfl

/-- A frame for which there is no plan is not added. -/
theorem exec_ringFrameAdd_of_none {t : State}
    (h : addPlan s (directionTo s f.destNode.toNat) .added f 0 = (none, t)) : exec (.ringFrameAdd f) s = .next t := by
  rw [exec_ringFrameAdd, h]

theorem exec_ringFrameAdd_of_some {t : State} {g : RingFrame} {ts : List Target}
    (h : addPlan s (directionTo s f.destNode.toNat) .added f 0 = (some (g, ts), t)) :
    exec (.ringFrameAdd f) s = .next (enqueueRing t ts g 98 0) := by
  rw [exec_ringFrameAdd, h]

theorem addPlan_of_unassigned (hun : actsUnassigned s = true) (hmay : mayAddUnassigned f = false) (port : Nat) (k : RingKind)
    (sq : Nat) : addPlan s port k f sq = (none, s) :=
  if_pos (by rw [hun, hmay]; exact Bool.or_true _)

section
variable (hl : live s unitRNG = true) (hun : actsUnassigned s = false)
include hl hun

theorem addPlan_of_assigned (port : Nat) (k : RingKind) (sq : Nat) : addPlan s port k f sq
    = if blockedNode s f.destNode.toNat then (none, incF s F.RNG_BLOCKED_COUNT)
      else if broken s 0 && broken s 1 then (none, incF s F.RNG_ADD_DROP_COUNT)
      else if f.cls.toNat = 7 then
        let (east, t) := ringTarget (class7Taken s) 0 k (class7Header s f) sq
        let (west, t) := ringTarget t 1 k (class7Header s f) sq
        (some (class7Header s f, east ++ west), t)
      else
        let (n, t) := nextSeq s f.destNode.toNat (port = 1)
        let (ts, t) := ringTarget t port k (addedHeader s f n) sq
        (some (addedHeader s f n, ts), t) :=
  if_neg (by rw [hl, hun]; exact Bool.false_ne_true)

theorem addPlan_of_blocked (hblock : blockedNode s f.destNode.toNat = true) (port : Nat) (k : RingKind) (sq : Nat) :
    addPlan s port k f sq = (none, incF s F.RNG_BLOCKED_COUNT) :=
  (addPlan_of_assigned hl hun port k sq).trans (if_pos hblock)

section
variable (hopen : blockedNode s f.destNode.toNat = false)
include hopen

theorem addPlan_of_isolated (hE : broken s 0 = true) (hW : broken s 1 = true) (port : Nat) (k : RingKind) (sq : Nat) :
    addPlan s port k f sq = (none, incF s F.RNG_ADD_DROP_COUNT) := by
  rw [addPlan_of_assigned hl hun, hopen, hE, hW]
  rfl

variable (hone : broken s 0 = false ∨ broken s 1 = false) (hann : isAnnouncement f = false)
include hone hann

/-- A frame of class 0 to 6 goes by one port, under the next number of its destination and direction. -/
theorem addPlan_one_way (hcls : f.cls ≠ 7) (hport : port < 2) : addPlan s port .added f 0
    = (some (addedHeader s f (nextSeq s f.destNode.toNat (port = 1)).1, [wayBy s f port]),
        (nextSeq s f.destNode.toNat (port = 1)).2) := by
  have hnot : ¬ f.cls.toNat = 7 := fun h => hcls (BitVec.eq_of_toNat_eq h)
  have hboth : (broken s 0 && broken s 1) = false := by obtain h | h := hone <;> simp [h]
  have htarget (n : BitVec 16) := ringTarget_added (s := s) (f := f) (g := addedHeader s f n)
    (t := (nextSeq s f.destNode.toNat (port = 1)).2) rfl rfl rfl rfl hport hone (wrapAllowed_addedHeader (s := s) hann n)
  rw [addPlan_of_assigned hl hun, hopen, hboth, if_neg Bool.false_ne_true, if_neg Bool.false_ne_true, if_neg hnot]
  dsimp only
  rw [htarget]

/-- A frame of class 7 goes both ways under one number. -/
theorem addPlan_both_ways (hcls : f.cls = 7) (port : Nat) : addPlan s port .added f 0
    = (some (class7Header s f, [wayBy s f 0, wayBy s f 1]), class7Taken s) := by
  have hseven : f.cls.toNat = 7 := congrArg BitVec.toNat hcls
  have hboth : (broken s 0 && broken s 1) = false := by obtain h | h := hone <;> simp [h]
  have htarget {p : Nat} (hp : p < 2) := ringTarget_added (s := s) (f := f) (g := class7Header s f)
    (t := class7Taken s) rfl rfl rfl rfl hp hone (wrapAllowed_class7Header (s := s) hann)
  rw [addPlan_of_assigned hl hun, hopen, hboth, if_neg Bool.false_ne_true, if_neg Bool.false_ne_true, if_pos hseven,
    htarget (by decide)]
  dsimp only
  rw [htarget (by decide)]
  rfl

end
end

theorem blockedNode_of_flag (hdest : f.destNode ≠ 0) (hblock : flag s (F.RNG_DMAP_BLOCK (dmapBank s) f.destNode.toNat) = true) :
    blockedNode s f.destNode.toNat = true := by
  have hne : f.destNode.toNat ≠ 0 := fun h => hdest (BitVec.eq_of_toNat_eq h)
  rw [blockedNode, hblock, Bool.and_true]
  exact bne_iff_ne.mpr hne

end

/-! ### The choice by hops (R119) -/

/-- Where no entry of the destination map names a direction, the hops decide. -/
theorem directionTo_by_hops {s : State} {node : Nat} (hlt : node < 255) (hother : node ≠ s.dev.nodeId)
    (hfree : node = 0 ∨ getF s (F.RNG_DMAP_DIR (dmapBank s) node) = 0) : directionTo s node = hopsChoice s node := by
  have hdir : mappedDir s node = 0 := by
    unfold mappedDir
    split
    · rfl
    next hne => exact hfree.resolve_left hne
  rw [directionTo_eq, if_neg (by omega), if_neg hother, hdir, if_neg (by decide), if_neg (by decide)]

/-- Settles O34: what becomes of a frame at each gate of the plan, and the direction by the hops either way. -/
theorem addedFrames : Obligations.AddedFrames := by
  refine ⟨fun s f hl hun hdest hblock => exec_ringFrameAdd_of_none
      (addPlan_of_blocked hl hun (blockedNode_of_flag hdest hblock) _ _ _),
    fun s f hl hun hopen hE hW => exec_ringFrameAdd_of_none (addPlan_of_isolated hl hun hopen hE hW _ _ _),
    fun s f hun hmay => exec_ringFrameAdd_of_none (addPlan_of_unassigned hun hmay _ _ _),
    fun s f hl hun hopen hone hann hcls => ?oneWay, fun s f hl hun hopen hone hann hcls => ?bothWays,
    fun s node hlt hother hfree => ?direction⟩
  case oneWay =>
    have hplan := addPlan_one_way hl hun hopen hone hann hcls (directionTo_lt s f.destNode.toNat)
    exact ⟨(nextSeq s f.destNode.toNat (directionTo s f.destNode.toNat = 1)).2, rfl, rfl,
      (lookupKey_replaceKey _ _ _ _).trans (if_pos rfl), exec_ringFrameAdd_of_some hplan⟩
  case bothWays =>
    have hseven : f.cls.toNat = 7 := congrArg BitVec.toNat hcls
    have hexec := exec_ringFrameAdd_of_some (addPlan_both_ways hl hun hopen hone hann hcls (directionTo s f.destNode.toNat))
    rw [wayBy, wayBy, hseven] at hexec
    exact ⟨class7Taken s, class7Header s f, rfl, rfl, rfl, rfl, rfl, rfl, rfl, hexec⟩
  case direction =>
    rw [directionTo_by_hops hlt hother hfree, hopsChoice]
    refine ⟨fun e w he hw => ?_, fun hw => ?_, fun he hw => ?_⟩
    · rw [he, hw]
    · rw [hw]
      cases hopsTo s node false <;> rfl
    · obtain ⟨w, hw⟩ := Option.ne_none_iff_exists'.mp hw
      rw [he, hw]

end Sys2Proof.Machine

/-! # Proofs: the record of class-7 numbers -/

namespace Sys2Proof.Machine

/-! ### Where a number stands (R122) -/

section
variable {h n : BitVec 16} {bits : BitVec 64}

theorem class7Check_ahead (hpos : 0 < (n - h).toNat) (hlt : (n - h).toNat < 32768) :
    class7Check (some (h, bits)) n = (0, some (n, bits <<< (n - h).toNat ||| 1)) :=
  if_neg (by omega)

theorem class7Check_window (hback : (h - n).toNat < 64) : class7Check (some (h, bits)) n
    = if bits.getLsbD (h - n).toNat then (1, some (h, bits))
      else (0, some (h, bits ||| BitVec.ofNat 64 (2 ^ (h - n).toNat))) := by
  have hbehind : (n - h).toNat = 0 ∨ 32768 ≤ (n - h).toNat := by bv_omega
  exact (if_pos hbehind).trans (if_neg (by omega))

theorem class7Check_old (hlo : 64 ≤ (h - n).toNat) (hhi : (h - n).toNat ≤ 32768) :
    class7Check (some (h, bits)) n = (2, some (h, bits)) := by
  have hbehind : (n - h).toNat = 0 ∨ 32768 ≤ (n - h).toNat := by bv_omega
  exact (if_pos hbehind).trans (if_pos hlo)

/-- A number is ahead of the highest, among the 64 up to it, or older. -/
theorem class7_place (h n : BitVec 16) : (0 < (n - h).toNat ∧ (n - h).toNat < 32768) ∨ (h - n).toNat < 64
    ∨ (64 ≤ (h - n).toNat ∧ (h - n).toNat ≤ 32768) := by
  bv_omega

/-- What a bit set in a record leaves of every bit. -/
theorem getLsbD_or_twoPow (bits : BitVec 64) {b i : Nat} (hb : b < 64) :
    (bits ||| BitVec.ofNat 64 (2 ^ b)).getLsbD i = (bits.getLsbD i || decide (i = b)) := by
  rw [BitVec.getLsbD_or, BitVec.getLsbD_ofNat, Nat.testBit_two_pow]
  congr 1
  by_cases hi : i = b
  · simp [hi, hb]
  · simp [hi, Ne.symm hi]

/-- A number whose bit is set is a duplicate. -/
theorem class7Check_recorded (hback : (h - n).toNat < 64) (hbit : bits.getLsbD (h - n).toNat = true) :
    class7Check (some (h, bits)) n = (1, some (h, bits)) := by
  rw [class7Check_window hback, if_pos hbit]

/-- A number among the 64 whose bit is clear is accepted, and its bit is set. -/
theorem class7Check_fresh (hback : (h - n).toNat < 64) (hbit : bits.getLsbD (h - n).toNat = false) :
    class7Check (some (h, bits)) n = (0, some (h, bits ||| BitVec.ofNat 64 (2 ^ (h - n).toNat))) := by
  rw [class7Check_window hback, hbit, if_neg Bool.false_ne_true]

/-- The highest number is a duplicate once its bit is set. -/
theorem class7Check_highest (hbit : bits.getLsbD 0 = true) : (class7Check (some (n, bits)) n).1 = 1 := by
  have hback : (n - n).toNat = 0 := by simp
  rw [class7Check_recorded (by omega) (by rw [hback, hbit])]

end

/-- A number just accepted is a duplicate when it comes again. -/
theorem class7Check_again (rec : Option (BitVec 16 × BitVec 64)) {n : BitVec 16} (hacc : (class7Check rec n).1 = 0) :
    (class7Check (class7Check rec n).2 n).1 = 1 := by
  match rec with
  | none => exact class7Check_highest (by decide)
  | some (h, bits) =>
    obtain ⟨hpos, hlt⟩ | hback | ⟨hlo, hhi⟩ := class7_place h n
    · rw [class7Check_ahead hpos hlt]
      exact class7Check_highest (by simp)
    · cases hbit : bits.getLsbD (h - n).toNat with
      | true =>
        rw [class7Check_recorded hback hbit] at hacc
        cases hacc
      | false =>
        rw [class7Check_fresh hback hbit, class7Check_recorded hback]
        rw [getLsbD_or_twoPow _ hback, decide_eq_true rfl, Bool.or_true]
    · rw [class7Check_old hlo hhi] at hacc
      cases hacc

/-- Accepting one of the 64 numbers leaves the outcome of every other one. -/
theorem class7Check_other {h n m : BitVec 16} (bits : BitVec 64) (hn : (h - n).toNat < 64) (hm : (h - m).toNat < 64)
    (hne : m ≠ n) : (class7Check (class7Check (some (h, bits)) n).2 m).1 = (class7Check (some (h, bits)) m).1 := by
  cases hbit : bits.getLsbD (h - n).toNat with
  | true => rw [class7Check_recorded hn hbit]
  | false =>
    have hapart : (h - m).toNat ≠ (h - n).toNat := fun heq => hne (sub_right_injective (BitVec.eq_of_toNat_eq heq))
    rw [class7Check_fresh hn hbit, class7Check_window hm, class7Check_window hm, getLsbD_or_twoPow _ hn,
      decide_eq_false hapart, Bool.or_false]
    split <;> rfl

/-- There is a record of a source hub once one of its numbers has been looked at. -/
theorem class7Check_isSome (rec : Option (BitVec 16 × BitVec 64)) (n : BitVec 16) :
    ∃ r, (class7Check rec n).2 = some r := by
  match rec with
  | none => exact ⟨_, rfl⟩
  | some (h, bits) =>
    obtain ⟨hpos, hlt⟩ | hback | ⟨hlo, hhi⟩ := class7_place h n
    · exact ⟨_, by rw [class7Check_ahead hpos hlt]⟩
    · rw [class7Check_window hback]
      split <;> exact ⟨_, rfl⟩
    · exact ⟨_, by rw [class7Check_old hlo hhi]⟩

theorem lookupKey_recordClass7 (s : State) (f : RingFrame) :
    lookupKey (f.srcNode.toNat, f.side) (recordClass7 s f).2.ring.c7Recs
      = (class7Check (lookupKey (f.srcNode.toNat, f.side) s.ring.c7Recs) f.seq).2 := by
  obtain ⟨r, hr⟩ := class7Check_isSome (lookupKey (f.srcNode.toNat, f.side) s.ring.c7Recs) f.seq
  dsimp only [recordClass7]
  rw [hr]
  exact (lookupKey_replaceKey _ _ _ _).trans (if_pos rfl)

/-- Settles O35: by where a number stands to the highest of the record, and by what one set bit does to the others. -/
theorem class7Record : Obligations.Class7Record := by
  refine ⟨fun rec n => class7Check_again rec, fun h n bits hpos hlt => ?_, fun h n bits hback => ?_,
    fun h n bits hlo hhi => by rw [class7Check_old hlo hhi], fun h n m bits hn hm hne => class7Check_other bits hn hm hne,
    fun s f => ⟨rfl, lookupKey_recordClass7 s f⟩⟩
  · rw [class7Check_ahead hpos hlt]
    exact ⟨rfl, _, rfl⟩
  · cases hbit : bits.getLsbD (h - n).toNat with
    | true => simp [class7Check_recorded hback hbit]
    | false => simp [class7Check_fresh hback hbit]

end Sys2Proof.Machine

/-! # Proofs: a ring port declared broken -/

namespace Sys2Proof.Machine

section
variable {s t : State}

/-! ### Plaza's operations leave the Crossing's part alone -/

theorem ring_foldl {α : Type} {f : State → α → State} (hf : ∀ v x, (f v x).ring = v.ring) (l : List α) (s : State) :
    (l.foldl f s).ring = s.ring :=
  List.foldlRecOn (motive := fun t => t.ring = s.ring) l f rfl fun v hv x _ => (hf v x).trans hv

/-- A choice between two states that both leave it alone. -/
theorem ring_ite {c : Prop} [Decidable c] {a b : State} (ha : a.ring = s.ring) (hb : b.ring = s.ring) :
    (if c then a else b).ring = s.ring := by
  split
  · exact ha
  · exact hb

@[simp] theorem ring_setF (s : State) (f : Fld) (n : Nat) : (setF s f n).ring = s.ring := rfl
@[simp] theorem ring_incF (s : State) (f : Fld) : (incF s f).ring = s.ring := rfl
@[simp] theorem ring_memWrite (s : State) (a : Nat) (bs : List Byte) : (memWrite s a bs).ring = s.ring := rfl

@[simp] theorem ring_writeCells (s : State) (cs : List Nat) (bytes : List Byte) : (writeCells s cs bytes).ring = s.ring := by
  induction cs generalizing s bytes with
  | nil => rfl
  | cons c cs ih => exact ih (memWrite s (cellAddr c) (bytes.take 256)) _

@[simp] theorem ring_writeHeader (s : State) (f : PlzFrame) : (writeHeader s f).ring = s.ring := by
  dsimp only [writeHeader]
  split
  · rfl
  split
  · rfl
  · exact ring_memWrite _ _ _

theorem ring_dropAt (s : State) (q cls reason : Nat) : (dropAt s q cls reason).ring = s.ring := ring_ite rfl rfl

theorem ring_storeFrame (s : State) (f : PlzFrame) (x : Target) : (storeFrame s f x).ring = s.ring :=
  ring_writeCells _ _ _

theorem ring_offerQueue (s : State) (f : PlzFrame) (x : Target) : (offerQueue s f x).ring = s.ring := by
  dsimp only [offerQueue]
  split
  · exact ring_dropAt s _ _ _
  · split <;> split
    · rfl
    · exact ring_storeFrame s f x
    · rfl
    · exact ring_storeFrame s f x

theorem ring_captureRecord (s : State) (f : PlzFrame) (q depth cause reason : Nat) :
    (captureRecord s f q depth cause reason).ring = s.ring := by
  unfold captureRecord
  extract_lets wr busy stops
  split
  · rw [ring_incF]
    exact ring_ite rfl rfl
  split
  · rfl
  · rw [State.withPlaza_ring, ring_incF, ring_setF, ring_memWrite]

theorem ring_sampleStep (s : State) (f : PlzFrame) : (sampleStep s f).2.ring = s.ring := by
  dsimp only [sampleStep]
  split
  · split <;> rfl
  · rfl

theorem ring_captureFrame (s : State) (f : PlzFrame) (ds : List Decision) : (captureFrame s f ds).ring = s.ring := by
  have hrecord (v : State) (hv : v.ring = s.ring) (q depth cause reason : Nat) :
      (markSeen (captureRecord v f q depth cause reason) f.fid).ring = s.ring :=
    (ring_captureRecord v f q depth cause reason).trans hv
  have hs := ring_sampleStep s f
  have hleft : (if 0 < getF (sampleStep s f).2 F.PLZ_CAP_STAT_TRIG_LEFT then setF (sampleStep s f).2 F.PLZ_CAP_STAT_TRIG_LEFT
      (getF (sampleStep s f).2 F.PLZ_CAP_STAT_TRIG_LEFT - 1) else (sampleStep s f).2).ring = s.ring := ring_ite hs hs
  dsimp only [captureFrame]
  refine ring_ite (ring_ite (hrecord _ hleft _ _ _ _) (ring_ite (hrecord _ hleft _ _ _ _) ?_)) rfl
  split
  · exact hrecord _ hs _ _ _ _
  · exact hs

theorem ring_pauseTotal (s : State) (p : Nat) : (pauseTotal s p).ring = s.ring := ring_ite rfl (ring_ite rfl rfl)

theorem ring_pauseClass (s : State) (p c : Nat) : (pauseClass s p c).ring = s.ring := ring_ite rfl (ring_ite rfl rfl)

theorem ring_pauseCheck (s : State) (p : Nat) : (pauseCheck s p).ring = s.ring :=
  ring_ite rfl <| ring_ite (ring_foldl (fun v c => ring_pauseClass v p c) _ s) <| ring_ite (ring_pauseTotal s p) <|
    ring_ite rfl (ring_foldl (f := fun t c => stopTimer t (.pauseTx p c)) (fun _ _ => rfl) _ _)

theorem ring_storeAndOffer (s : State) (f : PlzFrame) (ts : List Target) : (storeAndOffer s f ts).ring = s.ring := by
  dsimp only [storeAndOffer]
  rw [ring_pauseCheck, ring_captureFrame]
  split
  · rw [ring_writeHeader]
    exact ring_foldl (fun v x => ring_offerQueue v _ x) _ _
  · exact ring_foldl (fun v x => ring_offerQueue v _ x) _ _

theorem ring_enqueueRing (s : State) (ts : List Target) (f : RingFrame) (inPort stamp : Nat) :
    (enqueueRing s ts f inPort stamp).ring = s.ring :=
  ring_ite rfl (ring_ite (ring_storeAndOffer s _ ts) rfl)

theorem ring_removeRef (s : State) (q : Nat) (r : QRef) : (removeRef s q r).ring = s.ring := by
  dsimp only [removeRef]
  split
  · rfl
  · exact ring_ite (ring_pauseCheck _ _) (ring_writeHeader _ _)

theorem ring_ringTarget (s : State) (port : Nat) (k : RingKind) (f : RingFrame) (sq : Nat) :
    (ringTarget s port k f sq).2.ring = s.ring := by
  dsimp only [ringTarget]
  split
  · rfl
  split
  · exact ring_ite rfl rfl
  split
  · rfl
  · exact ring_ite rfl rfl

theorem ring_sendRing (s : State) (port : Nat) (k : RingKind) (f : RingFrame) (inPort stamp : Nat) :
    (sendRing s port k f inPort stamp).ring = s.ring :=
  (ring_enqueueRing _ _ _ _ _).trans (ring_ringTarget _ _ _ _ _)

theorem ring_relinkQueue (s : State) (src dst : Nat) : (relinkQueue s src dst).ring = s.ring := by
  refine ring_foldl (fun v r => ?_) _ s
  split
  · exact ring_ite rfl (ring_ite (ring_removeRef v src r) (ring_removeRef v src r))
  · rfl

theorem ring_relinkPort (s : State) (port : Nat) : (relinkPort s port).ring = s.ring :=
  (ring_relinkQueue _ _ _).trans <| (ring_foldl (fun v _ => ring_relinkQueue v _ _) _ _).trans <|
    ring_foldl (fun v _ => ring_relinkQueue v _ _) _ s

/-! ### The ports' records through a break (R127) -/

theorem portSt_withRing {r : Ring} (h0 : r.port0 = s.ring.port0) (h1 : r.port1 = s.ring.port1) (h2 : r.port2 = s.ring.port2)
    (p : Nat) : portSt (s.withRing r) p = portSt s p := by
  match p with
  | 0 => exact h0
  | 1 => exact h1
  | _ + 2 => exact h2

theorem portSt_addOnPort (s : State) (port : Nat) (f : RingFrame) (p : Nat) : portSt (addOnPort s port f) p = portSt s p :=
  (portSt_congr (ring_sendRing _ _ _ _ _ _) p).trans (portSt_withRing rfl rfl rfl p)

theorem portSt_sendWrapNotice (s : State) (port event p : Nat) : portSt (sendWrapNotice s port event) p = portSt s p := by
  dsimp only [sendWrapNotice]
  split
  · rfl
  split
  · exact portSt_withRing rfl rfl rfl p
  · rw [portSt_addOnPort, portSt_addOnPort]
    exact portSt_withRing rfl rfl rfl p

theorem ring_leaveActive (s : State) (r : Role) : (leaveActive s r).ring = s.ring := by
  simp only [leaveActive, setRole, lowerClaim, setFlag, State.withTwin_ring, State.withTxn_ring, ring_setF]

theorem ring_releaseIfPeerReady (s : State) : (releaseIfPeerReady s).ring = s.ring := by
  unfold releaseIfPeerReady releaseClaim
  split
  · split
    · rfl
    · exact ring_ite (State.withTwin_ring _ _) (ring_leaveActive s .notReady)
  · rfl

/-! ### The Crossing's status and control through a break -/

/-- The registers of the Crossing that a break writes only before it tells of it: those below its counters of frames. -/
def ringCountersFrom : Nat := F.RNG_HOP_EXPIRED_COUNT.key

section
variable {port : Nat}

theorem rngKept_ringTarget {k : RingKind} {f : RingFrame} {sq : Nat} (h : RngKept ringCountersFrom s t) :
    RngKept ringCountersFrom s (ringTarget t port k f sq).2 :=
  .iteSnd h <| .iteSnd (.ite h (h.incF (by decide))) <| .iteSnd h (.ite h (h.incF (by decide)))

theorem rngKept_addOnPort {f : RingFrame} (h : RngKept ringCountersFrom s t) (hp : port < 2) :
    RngKept ringCountersFrom s (addOnPort t port f) :=
  have hseq : RngKept ringCountersFrom s (nextSeq t f.destNode.toNat (port = 1)).2 := h.withRing
  .ite (rngKept_ringTarget hseq) <|
    .ite ((rngKept_ringTarget hseq).storeAndOffer (by decide) fun _ hx => mem_ringTarget hp hx) (rngKept_ringTarget hseq)

theorem rngKept_sendWrapNotice {event : Nat} (h : RngKept ringCountersFrom s t) :
    RngKept ringCountersFrom s (sendWrapNotice t port event) :=
  .ite h <| .ite (h.withRing.setF (by decide)) <| rngKept_addOnPort (rngKept_addOnPort h.withRing (by decide)) (by decide)

theorem rngKept_relinkQueue {src dst : Nat} (h : RngKept ringCountersFrom s t) :
    RngKept ringCountersFrom s (relinkQueue t src dst) :=
  h.foldl fun v r _ hv => by
    dsimp only
    split
    · exact .ite hv.withPlaza.withPlaza (.ite (hv.removeRef (by decide)) ((hv.removeRef (by decide)).incF (by decide)))
    · exact hv

theorem rngKept_relinkPort (h : RngKept ringCountersFrom s t) : RngKept ringCountersFrom s (relinkPort t port) :=
  rngKept_relinkQueue ((h.foldl fun _ _ _ h => rngKept_relinkQueue h).foldl fun _ _ _ h => rngKept_relinkQueue h)

end

/-! ### DECLARE_BROKEN in two halves (R126, R127, R131) -/

/-- The break as the port's record and the Crossing's registers show it. -/
def breakMarked (s : State) (port : Nat) : State :=
  let s := incF (countSuspects s port) (F.RNG_PORT_BREAK_COUNT port)
  let s := setBitF (setBitF s F.RNG_STAT_BROKEN port true) F.RNG_STAT_WRAP port true
  let s := setPortSt s port { portSt s port with portState := 1, healReady := false }
  startTimer (stopTimer s (.healHold port)) (.ka port) 0

/-- What follows from a break: the queues relinked, the notices, the fault record and a release of the claim. -/
def breakSpread (s : State) (port : Nat) : State :=
  let s := if broken s (1 - port) then s else relinkPort s port
  let s := sendWrapNotice s port 0
  let s := recordFault s fltRngWrap unitRNG (BitVec.ofNat 32 port) (regWord s (F.RNG_PORT_BRINGUP_REASON port).key)
  if broken s (1 - port) && flag s F.TWN_ESSENTIAL_RING_ISOLATED then releaseIfPeerReady s else s

variable {port : Nat}

theorem declareBroken_of_whole (hport : port < 2) (hwhole : broken s port = false) :
    declareBroken s port = breakSpread (breakMarked s port) port :=
  (if_neg (by omega)).trans (if_neg (ne_true_of_eq_false hwhole))

theorem declareBroken_of_broken (hport : port < 2) (hbroken : broken s port = true) :
    declareBroken s port = loseHeal s port :=
  (if_neg (by omega)).trans (if_pos hbroken)

theorem rngKept_breakSpread (s : State) (port : Nat) : RngKept ringCountersFrom s (breakSpread s port) :=
  ((rngKept_sendWrapNotice ((RngKept.refl s).unless rngKept_relinkPort)).recordFault (by decide)).when
    (·.releaseIfPeerReady (by decide))

theorem portSt_breakSpread (s : State) (port p : Nat) : portSt (breakSpread s port) p = portSt s p := by
  have hrelink : (if broken s (1 - port) then s else relinkPort s port).ring = s.ring := ring_ite rfl (ring_relinkPort s port)
  have hnotice := (portSt_sendWrapNotice _ port 0 p).trans (portSt_congr hrelink p)
  have hfault {u : State} (code unit : Nat) (i j : Word) : portSt (recordFault u code unit i j) p = portSt u p :=
    portSt_congr (aside_recordFault u code unit i j).ring p
  unfold breakSpread
  extract_lets relinked noticed reported
  have hreported : portSt reported p = portSt s p := (hfault _ _ _ _).trans hnotice
  exact (portSt_congr (ring_ite (ring_releaseIfPeerReady reported) rfl) p).trans hreported

theorem bitF_congr {f : Fld} (h : getF t f = getF s f) (i : Nat) : bitF t f i = bitF s f i := by
  rw [bitF, bitF, h]

theorem broken_breakMarked (s : State) (hport : port < 2) : broken (breakMarked s port) port = true := by
  have hmarked : broken (breakMarked s port) port = bitF (setBitF (setBitF (incF (countSuspects s port)
      (F.RNG_PORT_BREAK_COUNT port)) F.RNG_STAT_BROKEN port true) F.RNG_STAT_WRAP port true) F.RNG_STAT_BROKEN port :=
    bitF_congr (getF_setPortSt _ _ _ _) port
  exact hmarked.trans <| (bitF_congr (getF_setF_other _ F.RNG_STAT_WRAP F.RNG_STAT_BROKEN _ (by decide) (by decide)) port).trans
    (bitF_setBitF_same _ true (by decide) hport)

theorem portState_breakMarked (s : State) (port : Nat) : (portSt (breakMarked s port) port).portState = 1 := by
  simp [breakMarked]

/-- Breaking a port leaves the Crossing's control register. -/
theorem regWord_ctl_breakMarked (s : State) (port : Nat) :
    regWord (breakMarked s port) F.RNG_CTL_WRAP_E.key = regWord s F.RNG_CTL_WRAP_E.key := by
  have hframe {u : State} (n : Nat) (x : PortSt) (k : Nat) : regWord (setPortSt u n x) k = regWord u k := by
    rw [setPortSt_frame]
    rfl
  have hsuspect : F.RNG_CTL_WRAP_E.key ≠ (F.RNG_PORT_SUSPECT_COUNT port).key := (Nat.lt_of_lt_of_le (by decide)
    (Nat.le_add_right 0x200000458 (0x40 * port))).ne
  have hbreak : F.RNG_CTL_WRAP_E.key ≠ (F.RNG_PORT_BREAK_COUNT port).key := (Nat.lt_of_lt_of_le (by decide)
    (Nat.le_add_right 0x200000444 (0x40 * port))).ne
  calc regWord (breakMarked s port) F.RNG_CTL_WRAP_E.key
      = regWord (setPortSt (setBitF (setBitF (incF (countSuspects s port) (F.RNG_PORT_BREAK_COUNT port)) F.RNG_STAT_BROKEN
          port true) F.RNG_STAT_WRAP port true) port _) F.RNG_CTL_WRAP_E.key := rfl
    _ = regWord (incF (countSuspects s port) (F.RNG_PORT_BREAK_COUNT port)) F.RNG_CTL_WRAP_E.key := by
      rw [hframe]
      exact (regWord_setF_other _ _ (by decide)).trans (regWord_setF_other _ _ (by decide))
    _ = regWord s F.RNG_CTL_WRAP_E.key :=
      (regWord_setF_other _ _ hbreak).trans ((regWord_setF_other _ _ hsuspect).trans (hframe _ _ _))

theorem broken_loseHeal (s : State) (port p : Nat) : broken (loseHeal s port) p = broken s p := by
  refine bitF_congr ?_ p
  dsimp only [loseHeal]
  split
  · exact (getF_startTimer _ _ _ _).trans (getF_setPortSt _ _ _ _)
  · rfl

/-- Once declared broken a ring port is broken. -/
theorem broken_declareBroken (s : State) (hport : port < 2) : broken (declareBroken s port) port = true := by
  cases h : broken s port with
  | true => rw [declareBroken_of_broken hport h, broken_loseHeal, h]
  | false =>
    rw [declareBroken_of_whole hport h, broken_congr ((rngKept_breakSpread _ port).word _ (by decide) (by decide)),
      broken_breakMarked s hport]

/-- A port newly broken shows PORT_STATE 1, and the control register stands. -/
theorem declareBroken_shows (hport : port < 2) (hwhole : broken s port = false) :
    (portSt (declareBroken s port) port).portState = 1
      ∧ regWord (declareBroken s port) F.RNG_CTL_WRAP_E.key = regWord s F.RNG_CTL_WRAP_E.key := by
  rw [declareBroken_of_whole hport hwhole, portSt_breakSpread, portState_breakMarked]
  exact ⟨rfl, ((rngKept_breakSpread _ port).word _ (by decide) (by decide)).trans (regWord_ctl_breakMarked s port)⟩

end

end Sys2Proof.Machine

/-! # Proofs: segment keepalives -/

namespace Sys2Proof.Machine

section
variable {s : State} {p : Nat}

/-! ### Keepalives sent (R125) -/

@[simp] theorem outs_setPortSt (s : State) (n : Nat) (x : PortSt) : (setPortSt s n x).outs = s.outs := by
  rw [setPortSt_frame]
  rfl

@[simp] theorem portSt_withOuts (s : State) (x : List OutEvent) (p : Nat) : portSt (s.withOuts x) p = portSt s p := rfl

/-- What is sent on a port goes out from a slot on, with the two markers it runs through, if it does. -/
theorem sendWords_shows (s : State) (p : Nat) (ws : List (BitVec 64)) (event : Nat → OutEvent) : ∃ slot tx marks,
    sendWords s p ws event = (setPortSt s p { portSt s p with tx := tx }).withOuts (s.outs ++ event slot :: marks)
      ∧ ∀ e ∈ marks, ∃ lane w, e = .marker p lane w := by
  unfold sendWords
  dsimp only
  generalize placeFrame (portSt s p).tx (getF s (F.RNG_PORT_STAT_RATE p)) s.mono ws.length = placed
  obtain ⟨slot, tx, cross⟩ := placed
  dsimp only
  cases cross with
  | none => exact ⟨slot, tx, [], by rw [output, outs_setPortSt], fun _ he => nomatch he⟩
  | some cross =>
    obtain ⟨period, rest⟩ := cross
    refine ⟨slot, tx, [.marker p 0 (markerWord 0 rest period), .marker p 1 (markerWord 1 rest period)], ?_, by simp⟩
    simp only [output, State.withOuts_outs, outs_setPortSt, List.append_assoc, List.singleton_append]
    rfl

theorem countWaits_of_clear {f : RingFrame} (h : f.enc = false) : countWaits s f = s := by
  rw [countWaits, h, Bool.false_and]
  exact if_neg Bool.false_ne_true

theorem sealNonce_of_clear (h : flag s (F.RNG_PORT_STAT_ENC p) = false) : sealNonce s p = (true, s) :=
  if_pos (by rw [h]; rfl)

theorem keepaliveFrame_enc (s : State) (p counter : Nat) :
    (keepaliveFrame s p counter).enc = flag s (F.RNG_PORT_STAT_ENC p) := rfl

/-- A keepalive is of subtype 0 and shows the port's PORT_STATE. -/
theorem keepaliveFrame_shows (s : State) (p counter : Nat) : tsBits (keepaliveFrame s p counter) 44 4 = 0
    ∧ tsBits (keepaliveFrame s p counter) 40 4 = (portSt s p).portState % 16 := by
  have hspec : (keepaliveFrame s p counter).typeSpecific.toNat = (portSt s p).portState % 16 * 2 ^ 40 % 2 ^ 48 :=
    BitVec.toNat_ofNat _ _
  simp only [tsBits, hspec, bitsAt, Nat.shiftRight_eq_div_pow]
  omega

theorem exec_keepaliveSend_of_clear (hl : live s unitRNG = true) (hruns : stationRuns s = true) (hp : p < 2)
    (hup : buState s p = buUp) (hdue : due s (.ka p) = true) (hclear : flag s (F.RNG_PORT_STAT_ENC p) = false) :
    exec (.keepaliveSend p) s = .next (startTimer
      (emitRing (setPortSt s p { portSt s p with kaSeq := (portSt s p).kaSeq + 1 }) p (keepaliveFrame s p (nctr s p)) false)
      (.ka p) ticksUs) := by
  refine congrArg Host.Outcome.next ((if_pos ⟨hl, hruns, hp, hup, hdue⟩).trans ?_)
  rw [sealNonce_of_clear hclear]

/-- A frame in clear goes out as its header, its payload and its CRC. -/
theorem emitRing_of_clear (s : State) (p : Nat) {f : RingFrame} (stomp : Bool) (h : f.enc = false) :
    emitRing s p f stomp
      = sendWords s p (frameWords (ringHeader f ++ f.payload ++ fcsBytes (ringHeader f ++ f.payload) stomp)) (fun slot =>
          .ring p f stomp slot (frameWords (ringHeader f ++ f.payload ++ fcsBytes (ringHeader f ++ f.payload) stomp))) := by
  unfold emitRing
  rw [countWaits_of_clear h, frameBytes_of_clear s p stomp h]

/-! ### Keepalives received (R126, R130, R133) -/

theorem setPortSt_setPortSt (s : State) (n : Nat) (x y : PortSt) : setPortSt (setPortSt s n x) n y = setPortSt s n y := by
  match n with
  | 0 => rfl
  | 1 => rfl
  | _ + 2 => rfl

theorem broken_setPortSt (s : State) (n : Nat) (x : PortSt) (q : Nat) : broken (setPortSt s n x) q = broken s q :=
  bitF_congr (getF_setPortSt s n x _) q

theorem flag_setPortSt (s : State) (n : Nat) (x : PortSt) (f : Fld) : flag (setPortSt s n x) f = flag s f :=
  flag_congr (getF_setPortSt s n x f)

/-- The port's record after the part of an accepted keepalive that is its own: seen, the peer's state, the delay sample. -/
def keepaliveNoted (s : State) (p : Nat) (f : RingFrame) (rx : Int) : PortSt :=
  let x := { portSt s p with kaSeen := true, peerState := tsBits f 40 4 }
  if flag s (F.RNG_PORT_STAT_FR p) then x
  else { x with sumA := x.sumA + delaySample f.tsOrTxn.toNat rx, numA := x.numA + 1 }

theorem keepaliveNoted_shows (s : State) (p : Nat) (f : RingFrame) (rx : Int) : (keepaliveNoted s p f rx).kaSeen = true
    ∧ (keepaliveNoted s p f rx).peerState = tsBits f 40 4 ∧ (keepaliveNoted s p f rx).portState = (portSt s p).portState
    ∧ (keepaliveNoted s p f rx).rxExpect = (portSt s p).rxExpect := by
  dsimp only [keepaliveNoted]
  split <;> exact ⟨rfl, rfl, rfl, rfl⟩

/-- The port broken where its peer shows 1 and it does not. -/
def peerHeard (s : State) (p : Nat) (x : PortSt) : State :=
  if x.peerState = 1 && x.portState = 0 then declareBroken (setPortSt s p x) p else setPortSt s p x

/-- The wait of R130 begun at a broken port, unless it is over or may not begin. -/
def healTimed (s : State) (p : Nat) : State :=
  if broken s p && !(portSt s p).healReady && !heldBroken s p then ensureTimer s (.healHold p) (healHoldTicks s) else s

theorem acceptKeepalive_eq (s : State) (p : Nat) (f : RingFrame) (rx : Int) :
    acceptKeepalive s p f rx = checkHeal (healTimed (peerHeard s p (keepaliveNoted s p f rx)) p) p := rfl

theorem broken_healTimed (s : State) (p q : Nat) : broken (healTimed s p) q = broken s q := by
  unfold healTimed
  split
  · exact bitF_congr (getF_ensureTimer s _ _ _) q
  · rfl

theorem healTimed_of_whole (h : broken s p = false) : healTimed s p = s := by
  rw [healTimed, h, Bool.false_and, Bool.false_and]
  exact if_neg Bool.false_ne_true

theorem broken_checkHeal (s : State) (p q : Nat) : broken (checkHeal s p) q = broken s q := broken_setPortSt s p _ q

/-- Where the port is whole and the peer does not show 1, a keepalive changes the port's record alone. -/
theorem acceptKeepalive_of_whole {f : RingFrame} (hwhole : broken s p = false) (hpeer : tsBits f 40 4 ≠ 1) (rx : Int) :
    acceptKeepalive s p f rx = setPortSt s p { keepaliveNoted s p f rx with unwrapReq := false } := by
  have hnoted : (keepaliveNoted s p f rx).peerState ≠ 1 := by
    rw [(keepaliveNoted_shows s p f rx).2.1]
    exact hpeer
  have hheard : peerHeard s p (keepaliveNoted s p f rx) = setPortSt s p (keepaliveNoted s p f rx) :=
    if_neg (by simp [hnoted])
  have hbroken : broken (setPortSt s p (keepaliveNoted s p f rx)) p = false := by rw [broken_setPortSt, hwhole]
  rw [acceptKeepalive_eq, hheard, healTimed_of_whole hbroken, checkHeal]
  dsimp only
  rw [hbroken, setPortSt_setPortSt, portSt_setPortSt_same]
  rfl

/-- A peer that shows 1 breaks the port. -/
theorem broken_acceptKeepalive {f : RingFrame} (hp : p < 2) (hpeer : tsBits f 40 4 = 1) (hstate : (portSt s p).portState = 0)
    (rx : Int) : broken (acceptKeepalive s p f rx) p = true := by
  obtain ⟨-, hnoted, hown, -⟩ := keepaliveNoted_shows s p f rx
  have hheard : peerHeard s p (keepaliveNoted s p f rx) = declareBroken (setPortSt s p (keepaliveNoted s p f rx)) p :=
    if_pos (by simp [hnoted, hpeer, hown, hstate])
  rw [acceptKeepalive_eq, broken_checkHeal, broken_healTimed, hheard, broken_declareBroken _ hp]

section
variable {ws : List (BitVec 64)} {at_ : Option Nat}

theorem exec_keepaliveReceive (phase : Nat) (htakes : takesFrame s p ws at_ = true)
    (hka : isKeepalive (readWords s p ws).frame = true) : exec (.keepaliveReceive p ws at_ phase) s
      = .next (receiveKeepalive (countWaits s (readWords s p ws).frame) p (readWords s p ws) phase) :=
  congrArg Host.Outcome.next ((if_pos htakes).trans (if_pos hka))

/-- What is good on a segment in clear does not say that it is encrypted. -/
theorem enc_of_good (hclear : flag s (F.RNG_PORT_STAT_ENC p) = false) (hgood : (readWords s p ws).cause = none) :
    (readWords s p ws).frame.enc = false := by
  rw [readWords_of_clear hclear] at hgood ⊢
  dsimp only at hgood ⊢
  cases henc : (ringOfBytes (rxBytes ws)).enc with
  | false => rfl
  | true =>
    unfold rxCause at hgood
    dsimp only at hgood
    split_ifs at hgood
    simp [henc] at *

theorem receiveKeepalive_of_clear {r : RxFrame} (phase : Nat) (hclear : flag s (F.RNG_PORT_STAT_ENC p) = false)
    (hgood : r.cause = none) : receiveKeepalive s p r phase = acceptKeepalive s p r.frame (sofStamp s phase) := by
  unfold receiveKeepalive
  rw [hclear, hgood]
  rfl

theorem receiveKeepalive_rejected {r : RxFrame} (phase : Nat) (henc : flag s (F.RNG_PORT_STAT_ENC p) = true)
    (hbad : r.cause = some (F.RNG_PORT_TAG_FAIL_COUNT p) ∨ r.cause = none ∧ r.counter < (portSt s p).rxExpect) :
    receiveKeepalive s p r phase = incF s (F.RNG_PORT_KA_REJECT_COUNT p) := by
  refine if_pos ?_
  obtain htag | ⟨hgood, hold⟩ := hbad
  · simp [henc, htag]
  · simp [henc, hgood, hold]

/-- The state in which a keepalive's counter has been taken: what it leaves out is counted. -/
def counterTaken (s : State) (p counter : Nat) : State :=
  setPortSt (if (portSt s p).rxExpect < counter then incF s (F.RNG_PORT_NONCE_RESYNC_COUNT p) else s) p
    { portSt s p with rxExpect := counter + 1 }

theorem receiveKeepalive_of_sealed {r : RxFrame} (phase : Nat) (henc : flag s (F.RNG_PORT_STAT_ENC p) = true)
    (hgood : r.cause = none) (hnew : (portSt s p).rxExpect ≤ r.counter) : ∃ rx, receiveKeepalive s p r phase
      = acceptKeepalive (counterTaken s p r.counter) p r.frame rx := by
  refine ⟨sofStamp (if (portSt s p).rxExpect < r.counter then incF s (F.RNG_PORT_NONCE_RESYNC_COUNT p) else s) phase, ?_⟩
  refine Eq.trans (if_neg (c := (_ : Bool) = true) ?_) ?_
  · simp [hgood, Nat.not_lt.mpr hnew]
  · rw [hgood]
    exact if_pos henc

end

/-! ### Ticks (R126) -/

/-- The tick's timer started anew. -/
def tickTimed (s : State) (p : Nat) : State :=
  startTimer s (.kaTick p) ((if flag s (F.RNG_PORT_STAT_FR p) then 10 else 1) * ticksUs)

/-- A tick missed: counted, and the wait of a broken port ended. -/
def tickMissed (s : State) (p : Nat) : State :=
  stopTimer (incF (setPortSt (tickTimed s p) p { portSt s p with kaMissed := (portSt s p).kaMissed + 1 })
    (F.RNG_PORT_KA_MISS_COUNT p)) (.healHold p)

section
variable (hl : live s unitRNG = true) (hruns : stationRuns s = true) (hp : p < 2) (hup : buState s p = buUp)
  (hdue : due s (.kaTick p) = true)
include hl hruns hp hup hdue

theorem exec_keepaliveTick_of_seen {w : Bool}
    (hseen : (portSt s p).kaSeen = true ∨ (w = true ∧ flag s (F.RNG_PORT_STAT_ENC p) = false)) : exec (.keepaliveTick p w) s
      = .next (setPortSt (tickTimed s p) p { portSt s p with kaSeen := false, kaMissed := 0 }) := by
  refine congrArg Host.Outcome.next ((if_pos ⟨hl, hruns, hp, hup, hdue⟩).trans (if_pos ?_))
  obtain hseen | ⟨rfl, hclear⟩ := hseen
  · simp [hseen]
  · simp [hclear]

theorem exec_keepaliveTick_of_unseen (hunseen : (portSt s p).kaSeen = false) : exec (.keepaliveTick p false) s
    = .next (if kaMissLimit (tickMissed s p) ≤ (portSt s p).kaMissed + 1 then declareBroken (tickMissed s p) p
      else tickMissed s p) :=
  congrArg Host.Outcome.next ((if_pos ⟨hl, hruns, hp, hup, hdue⟩).trans
    (if_neg (by rw [hunseen]; exact Bool.false_ne_true)))

end

/-- A register of the Crossing before its ports' counters stands through a missed tick. -/
theorem regWord_tickMissed (s : State) (p : Nat) {k : Nat} (hk : k ≠ (F.RNG_PORT_KA_MISS_COUNT p).key) :
    regWord (tickMissed s p) k = regWord s k := by
  have hport (u : State) (x : PortSt) : regWord (setPortSt u p x) k = regWord u k := by
    rw [setPortSt_frame]
    rfl
  have htimer (u : State) (x : List (TimerId × Nat)) : regWord (u.withTimers x) k = regWord u k := rfl
  rw [tickMissed, stopTimer, htimer, incF, addF, regWord_setF_other _ _ hk, hport, tickTimed, startTimer, htimer]

theorem kaMissKey_ne (p : Nat) {k : Nat} (hk : k < 0x200000440) : k ≠ (F.RNG_PORT_KA_MISS_COUNT p).key :=
  (Nat.lt_of_lt_of_le hk (Nat.le_add_right _ _)).ne

theorem kaMissLimit_tickMissed (s : State) (p : Nat) : kaMissLimit (tickMissed s p) = kaMissLimit s := by
  rw [kaMissLimit, kaMissLimit, getF_congr (regWord_tickMissed s p (kaMissKey_ne p (by decide)))]

theorem mem_setPortSt (s : State) (n : Nat) (x : PortSt) : (setPortSt s n x).mem = s.mem := by
  rw [setPortSt_frame]
  rfl

theorem tickMissed_mem (s : State) (p : Nat) : (tickMissed s p).mem = s.mem := by
  rw [tickMissed, stopTimer, State.withTimers_mem, incF_mem, mem_setPortSt, tickTimed, startTimer, State.withTimers_mem]

theorem broken_tickMissed (s : State) (p q : Nat) : broken (tickMissed s p) q = broken s q :=
  broken_congr (regWord_tickMissed s p (kaMissKey_ne p (by decide))) q

theorem kaMissed_tickMissed (s : State) (p : Nat) : (portSt (tickMissed s p) p).kaMissed = (portSt s p).kaMissed + 1 := by
  rw [tickMissed, portSt_stopTimer, portSt_incF, portSt_setPortSt_same]

/-! ### A keepalive sent, received and missed (R125, R126, R132, R133) -/

theorem keepalive_sent_in_clear (hl : live s unitRNG = true) (hruns : stationRuns s = true) (hp : p < 2)
    (hup : buState s p = buUp) (hdue : due s (.ka p) = true) (hclear : flag s (F.RNG_PORT_STAT_ENC p) = false) :
    ∃ t f slot marks, exec (.keepaliveSend p) s = .next t
      ∧ t.outs = s.outs ++ .ring p f false slot
          (frameWords (ringHeader f ++ f.payload ++ fcsBytes (ringHeader f ++ f.payload) false)) :: marks
      ∧ (∀ e ∈ marks, ∃ lane w, e = .marker p lane w) ∧ f.type = tyKEEPALIVE
      ∧ tsBits f 44 4 = 0 ∧ tsBits f 40 4 = (portSt s p).portState % 16 ∧ f.hopLimit = 1 ∧ f.cls = 6
      ∧ f.seq = (portSt s p).kaSeq ∧ (portSt t p).kaSeq = (portSt s p).kaSeq + 1
      ∧ lookupKey (.ka p) t.timers = some (s.mono + ticksUs) := by
  obtain ⟨hsub, hshown⟩ := keepaliveFrame_shows s p (nctr s p)
  have hexec := exec_keepaliveSend_of_clear hl hruns hp hup hdue hclear
  rw [emitRing_of_clear _ p false ((keepaliveFrame_enc s p _).trans hclear)] at hexec
  have hnumbered : (setPortSt s p { portSt s p with kaSeq := (portSt s p).kaSeq + 1 }).outs = s.outs := outs_setPortSt _ _ _
  have hseq := congrArg PortSt.kaSeq (portSt_setPortSt_same s p { portSt s p with kaSeq := (portSt s p).kaSeq + 1 })
  have hmono := mono_setPortSt s p { portSt s p with kaSeq := (portSt s p).kaSeq + 1 }
  generalize setPortSt s p { portSt s p with kaSeq := (portSt s p).kaSeq + 1 } = u at hexec hnumbered hseq hmono
  obtain ⟨slot, tx, marks, hsent, hmarks⟩ := sendWords_shows u p _ _
  rw [hsent] at hexec
  refine ⟨_, keepaliveFrame s p (nctr s p), slot, marks, hexec, ?_, hmarks, rfl, hsub, hshown, rfl, rfl, rfl, ?_, ?_⟩
  · rw [← hnumbered]
    rfl
  · rw [portSt_startTimer, portSt_withOuts, portSt_setPortSt_same]
    exact hseq
  · rw [lookup_startTimer, if_pos rfl, State.withOuts_mono, mono_setPortSt, hmono]

/-- A received keepalive on a segment in clear. -/
theorem keepalive_received_in_clear {ws : List (BitVec 64)} {at_ : Option Nat} (phase : Nat)
    (htakes : takesFrame s p ws at_ = true) (hka : isKeepalive (readWords s p ws).frame = true)
    (hgood : (readWords s p ws).cause = none) (hclear : flag s (F.RNG_PORT_STAT_ENC p) = false) :
    exec (.keepaliveReceive p ws at_ phase) s = .next (acceptKeepalive s p (readWords s p ws).frame (sofStamp s phase)) := by
  rw [exec_keepaliveReceive phase htakes hka, countWaits_of_clear (enc_of_good hclear hgood),
    receiveKeepalive_of_clear phase hclear hgood]

theorem keepalive_shown_in_clear {ws : List (BitVec 64)} {at_ : Option Nat} (phase : Nat)
    (htakes : takesFrame s p ws at_ = true) (hka : isKeepalive (readWords s p ws).frame = true)
    (hgood : (readWords s p ws).cause = none) (hclear : flag s (F.RNG_PORT_STAT_ENC p) = false)
    (hwhole : broken s p = false) (hpeer : tsBits (readWords s p ws).frame 40 4 ≠ 1) :
    ∃ t, exec (.keepaliveReceive p ws at_ phase) s = .next t ∧ (portSt t p).kaSeen = true
      ∧ (portSt t p).peerState = tsBits (readWords s p ws).frame 40 4 ∧ t = { s with ring := t.ring } := by
  have hexec := keepalive_received_in_clear phase htakes hka hgood hclear
  rw [acceptKeepalive_of_whole hwhole hpeer] at hexec
  obtain ⟨hseen, hshown, -, -⟩ := keepaliveNoted_shows s p (readWords s p ws).frame (sofStamp s phase)
  refine ⟨_, hexec, ?_, ?_, setPortSt_frame s p _⟩
  · rw [portSt_setPortSt_same]
    exact hseen
  · rw [portSt_setPortSt_same]
    exact hshown

/-- Where a frame has been taken, a flag of the port's status register is as it was. -/
theorem FrameTaken.enc {u : State} (h : FrameTaken s u) (hp : p < 2) :
    flag u (F.RNG_PORT_STAT_ENC p) = flag s (F.RNG_PORT_STAT_ENC p) := by
  refine flag_congr (h.getF ?_)
  simp only [F.RNG_PORT_STAT_ENC, F.CIP_RING_WAIT_COUNT]
  omega

theorem portSt_countWaits (s : State) (f : RingFrame) (p : Nat) : portSt (countWaits s f) p = portSt s p := by
  unfold countWaits
  split
  · rfl
  · rfl

theorem broken_countWaits (s : State) (f : RingFrame) (p : Nat) : broken (countWaits s f) p = broken s p :=
  broken_congr ((frameTaken_countWaits s f).word key_broken_apart) p

theorem keepalive_rejected {ws : List (BitVec 64)} {at_ : Option Nat} (phase : Nat)
    (htakes : takesFrame s p ws at_ = true) (hka : isKeepalive (readWords s p ws).frame = true)
    (henc : flag s (F.RNG_PORT_STAT_ENC p) = true)
    (hbad : (readWords s p ws).cause = some (F.RNG_PORT_TAG_FAIL_COUNT p)
      ∨ (readWords s p ws).cause = none ∧ (readWords s p ws).counter < (portSt s p).rxExpect) :
    exec (.keepaliveReceive p ws at_ phase) s
      = .next (incF (countWaits s (readWords s p ws).frame) (F.RNG_PORT_KA_REJECT_COUNT p)) := by
  have htaken := frameTaken_countWaits s (readWords s p ws).frame
  rw [exec_keepaliveReceive phase htakes hka, receiveKeepalive_rejected phase]
  · rw [htaken.enc (port_lt_of_takesFrame htakes), henc]
  · rwa [portSt_countWaits]

theorem broken_counterTaken (s : State) (p counter : Nat) (hp : p < 2) :
    broken (counterTaken s p counter) p = broken s p := by
  rw [counterTaken, broken_setPortSt]
  split
  · refine broken_congr (regWord_setF_other s _ ?_) p
    simp only [F.RNG_STAT_BROKEN, F.RNG_PORT_NONCE_RESYNC_COUNT]
    omega
  · rfl

theorem counterTaken_mem (s : State) (p counter : Nat) : (counterTaken s p counter).mem = s.mem := by
  rw [counterTaken, mem_setPortSt]
  split
  · exact incF_mem s _
  · rfl

theorem rxExpect_counterTaken (s : State) (p counter : Nat) :
    (portSt (counterTaken s p counter) p).rxExpect = counter + 1 := by
  rw [counterTaken, portSt_setPortSt_same]

theorem keepalive_sealed_taken {ws : List (BitVec 64)} {at_ : Option Nat} (phase : Nat)
    (htakes : takesFrame s p ws at_ = true) (hka : isKeepalive (readWords s p ws).frame = true)
    (henc : flag s (F.RNG_PORT_STAT_ENC p) = true) (hgood : (readWords s p ws).cause = none)
    (hnew : (portSt s p).rxExpect ≤ (readWords s p ws).counter) (hwhole : broken s p = false)
    (hpeer : tsBits (readWords s p ws).frame 40 4 ≠ 1) :
    ∃ t, exec (.keepaliveReceive p ws at_ phase) s = .next t ∧ (portSt t p).kaSeen = true
      ∧ (portSt t p).rxExpect = (readWords s p ws).counter + 1 ∧ memKept s t := by
  have hp := port_lt_of_takesFrame htakes
  have htaken := frameTaken_countWaits s (readWords s p ws).frame
  have hexec := exec_keepaliveReceive phase htakes hka
  rw [← portSt_countWaits s (readWords s p ws).frame] at hnew
  rw [← broken_countWaits s (readWords s p ws).frame] at hwhole
  obtain ⟨rx, hsealed⟩ := receiveKeepalive_of_sealed phase ((htaken.enc hp).trans henc) hgood hnew
  rw [hsealed, acceptKeepalive_of_whole ((broken_counterTaken _ p _ hp).trans hwhole) hpeer] at hexec
  obtain ⟨hseen, -, -, hexpect⟩ := keepaliveNoted_shows (counterTaken (countWaits s (readWords s p ws).frame) p
    (readWords s p ws).counter) p (readWords s p ws).frame rx
  refine ⟨_, hexec, ?_, ?_, memKept_of_mem ?_⟩
  · rw [portSt_setPortSt_same]
    exact hseen
  · rw [portSt_setPortSt_same]
    exact hexpect.trans (rxExpect_counterTaken _ p _)
  · rw [mem_setPortSt, counterTaken_mem, htaken.mem]

section
variable (hl : live s unitRNG = true) (hruns : stationRuns s = true) (hp : p < 2) (hup : buState s p = buUp)
  (hdue : due s (.kaTick p) = true)
include hl hruns hp hup hdue

theorem tick_seen {w : Bool}
    (hseen : (portSt s p).kaSeen = true ∨ (w = true ∧ flag s (F.RNG_PORT_STAT_ENC p) = false)) :
    ∃ t, exec (.keepaliveTick p w) s = .next t ∧ (portSt t p).kaMissed = 0 ∧ (portSt t p).kaSeen = false
      ∧ t = { s with ring := t.ring, timers := t.timers } := by
  refine ⟨_, exec_keepaliveTick_of_seen hl hruns hp hup hdue hseen, ?_, ?_, ?_⟩
  · rw [portSt_setPortSt_same]
  · rw [portSt_setPortSt_same]
  · rw [setPortSt_frame]
    rfl

theorem tick_missed (hunseen : (portSt s p).kaSeen = false) (hfew : (portSt s p).kaMissed + 1 < kaMissLimit s) :
    ∃ t, exec (.keepaliveTick p false) s = .next t ∧ (portSt t p).kaMissed = (portSt s p).kaMissed + 1
      ∧ broken t p = broken s p ∧ regsKept [(F.RNG_PORT_KA_MISS_COUNT p).key] s t ∧ memKept s t := by
  have hexec := exec_keepaliveTick_of_unseen hl hruns hp hup hdue hunseen
  rw [kaMissLimit_tickMissed, if_neg (Nat.not_le.mpr hfew)] at hexec
  exact ⟨_, hexec, kaMissed_tickMissed s p, broken_tickMissed s p p,
    fun k hk => regWord_tickMissed s p (by simpa using hk), memKept_of_mem (tickMissed_mem s p)⟩

theorem tick_breaks (hunseen : (portSt s p).kaSeen = false) (hmany : kaMissLimit s ≤ (portSt s p).kaMissed + 1) :
    ∃ t, exec (.keepaliveTick p false) s = .next t ∧ broken t p = true := by
  have hexec := exec_keepaliveTick_of_unseen hl hruns hp hup hdue hunseen
  rw [kaMissLimit_tickMissed, if_pos hmany] at hexec
  exact ⟨_, hexec, broken_declareBroken _ hp⟩

end

end

/-- Settles O37: a keepalive in clear goes out as its words, one received is noted at its port or, sealed wrongly, only
counted, and a tick adds to the run of missed ones or clears it. -/
theorem keepalives : Obligations.Keepalives := by
  refine ⟨fun s p hl hruns hp hup hdue hclear => keepalive_sent_in_clear hl hruns hp hup hdue hclear, ?_, ?_, ?_, ?_, ?_⟩
  · intro s p phase ws at_ htakes r hka hgood hclear
    refine ⟨fun hwhole hpeer => keepalive_shown_in_clear phase htakes hka hgood hclear hwhole hpeer, fun hpeer hstate => ?_⟩
    exact ⟨_, keepalive_received_in_clear phase htakes hka hgood hclear,
      broken_acceptKeepalive (port_lt_of_takesFrame htakes) hpeer hstate _⟩
  · intro s p phase ws at_ htakes r hka henc
    exact ⟨fun hbad => keepalive_rejected phase htakes hka henc hbad,
      fun hgood hnew hwhole hpeer => keepalive_sealed_taken phase htakes hka henc hgood hnew hwhole hpeer⟩
  · exact fun s p w hl hruns hp hup hdue hseen => tick_seen hl hruns hp hup hdue hseen
  · exact fun s p hl hruns hp hup hdue hunseen hfew => tick_missed hl hruns hp hup hdue hunseen hfew
  · exact fun s p hl hruns hp hup hdue hunseen hmany => tick_breaks hl hruns hp hup hdue hunseen hmany

end Sys2Proof.Machine

/-! # Proofs: wraps and heals -/

namespace Sys2Proof.Machine

section
variable {s t : State} {p : Nat}

/-! ### MAINTENANCE_WRAP and HEAL (R126, R130) -/

theorem noteRingCtl_frame (s : State) : noteRingCtl s = s.withTwin (noteRingCtl s).twin := twinNote_frame s _

theorem portSt_noteRingCtl (s : State) (p : Nat) : portSt (noteRingCtl s) p = portSt s p := by
  rw [noteRingCtl_frame]
  rfl

/-- The bit of RNG_CTL that keeps a port wrapped. -/
def wrapBit (p : Nat) : Fld := if p = 0 then F.RNG_CTL_WRAP_E else F.RNG_CTL_WRAP_W

theorem wrapBit_shape (p : Nat) : (wrapBit p).key = F.RNG_CTL_WRAP_E.key ∧ (wrapBit p).lo + (wrapBit p).width ≤ 32
    ∧ (wrapBit p).width = 1 := by
  unfold wrapBit
  split <;> decide

theorem setWrap_shows (hp : p < 2) (hwhole : broken s p = false) : broken (setWrap s p) p = true
    ∧ (portSt (setWrap s p) p).portState = 1 ∧ flag (setWrap s p) (wrapBit p) = true := by
  obtain ⟨hkey, hlo, hwidth⟩ := wrapBit_shape p
  have hset : broken (setFlag s (wrapBit p) true) p = false := by
    refine (broken_congr (regWord_setF_other s _ ?_) p).trans hwhole
    rw [hkey]
    decide
  obtain ⟨hstate, hword⟩ := declareBroken_shows hp hset
  refine ⟨broken_declareBroken _ hp, hstate, ?_⟩
  rw [← hkey] at hword
  exact (flag_congr (getF_congr hword)).trans (flag_setFlag_same s (wrapBit p) true hlo hwidth)

theorem maintenanceWrap_shows (hl : live s unitRNG = true) (hp : p < 2) (hwhole : broken s p = false) :
    ∃ t, exec (.maintenanceWrap p) s = .next t ∧ broken t p = true ∧ (portSt t p).portState = 1
      ∧ flag t (wrapBit p) = true := by
  obtain ⟨hbroken, hstate, hflag⟩ := setWrap_shows hp hwhole
  refine ⟨noteRingCtl (setWrap s p), congrArg Host.Outcome.next (if_pos ⟨hl, hp⟩), ?_, ?_, ?_⟩
  · exact (bitF_congr (getF_noteReg _ _ _ _ _) p).trans hbroken
  · rwa [portSt_noteRingCtl]
  · exact (flag_congr (getF_noteReg _ _ _ _ _)).trans hflag

theorem heal_shows (hl : live s unitRNG = true) : ∃ t, exec .heal s = .next t ∧ flag t F.RNG_CTL_HEAL = true
    ∧ regsKept [F.RNG_CTL_HEAL.key] s t ∧ memKept s t := by
  refine ⟨noteRingCtl (setFlag s F.RNG_CTL_HEAL true), congrArg Host.Outcome.next (if_pos hl), ?_, ?_, ?_⟩
  · exact (flag_congr (getF_noteReg _ _ _ _ _)).trans (flag_setFlag_same s F.RNG_CTL_HEAL true (by decide) rfl)
  · rw [noteRingCtl_frame]
    exact regsKept_setF (regsKept_refl _ _) List.mem_cons_self _
  · rw [noteRingCtl_frame]
    exact memKept_of_mem rfl

/-! ### HEAL_READY (R130) -/

theorem healReady_shows (hl : live s unitRNG = true) (hruns : stationRuns s = true) (hp : p < 2)
    (hbroken : broken s p = true) (hup : buState s p = buUp) (hdue : due s (.healHold p) = true)
    (hheld : heldBroken s p = false) : ∃ t, exec (.healReady p) s = .next t
      ∧ (portSt t p).portState = 2 ∧ (portSt t p).unwrapReq = decide ((portSt s p).peerState = 2)
      ∧ due t (.ka p) = true ∧ t = { s with ring := t.ring, timers := t.timers } := by
  have hexec : exec (.healReady p) s = .next (checkHeal (startTimer (setPortSt (stopTimer s (.healHold p)) p
      { portSt s p with portState := 2, healReady := true }) (.ka p) 0) p) :=
    congrArg Host.Outcome.next (if_pos ⟨hl, hruns, hp, hbroken, hup, hdue, by rw [hheld]; rfl⟩)
  have hready (x : PortSt) : broken (startTimer (setPortSt (stopTimer s (.healHold p)) p x) (.ka p) 0) p = true :=
    (broken_setPortSt _ p x p).trans hbroken
  refine ⟨_, hexec, ?_, ?_, ?_, ?_⟩
  · rw [checkHeal, portSt_setPortSt_same, portSt_startTimer, portSt_setPortSt_same]
  · rw [checkHeal, portSt_setPortSt_same, portSt_startTimer, portSt_setPortSt_same, hready]
    simp
  · rw [checkHeal, setPortSt_frame]
    exact due_startTimer_same _ (.ka p) 0
  · rw [checkHeal, setPortSt_frame, setPortSt_frame (stopTimer s (.healHold p))]
    rfl

/-! ### Hold-downs (R129; log entry 71) -/

theorem running_holdDown (s : State) (key cause : Nat × Bool × Bool) (id : TimerId) :
    running (holdDown s key cause) id = (decide (id = .holddown key.1 key.2.1 key.2.2) || running s id) :=
  running_startTimer s _ id _

theorem wrapHolddownExpiry_shows {node : Nat} {side west : Bool} (hdue : due s (.holddown node side west) = true) :
    ∃ t, exec (.wrapHolddownExpiry node side west) s = .next t ∧ running t (.holddown node side west) = false
      ∧ t = { s with timers := t.timers, ring := t.ring } ∧ t.ring.map = s.ring.map := by
  refine ⟨_, congrArg Host.Outcome.next (if_pos hdue), ?_, rfl, rfl⟩
  rw [running_stopTimer]
  simp

/-- What stands in a list filtered by its keys. -/
theorem lookupKey_filter {κ α : Type} [DecidableEq κ] (q : κ → Bool) (k : κ) (l : List (κ × α)) :
    lookupKey k (l.filter (fun x => q x.1)) = if q k then lookupKey k l else none := by
  rw [lookupKey, lookupKey, List.find?_filter]
  by_cases hq : q k = true
  · have hsame : (fun x : κ × α => decide (q x.1 = true ∧ decide (x.1 = k) = true)) = fun x => decide (x.1 = k) := by
      funext x
      by_cases hx : x.1 = k <;> simp [hx, hq]
    rw [if_pos hq, hsame]
  · have hnone : (fun x : κ × α => decide (q x.1 = true ∧ decide (x.1 = k) = true)) = fun _ => false := by
      funext x
      by_cases hx : x.1 = k <;> simp [hx, hq]
    rw [if_neg hq, hnone]
    simp

/-- Whether a timer stands when the hold-downs of a cause end. -/
def outlasts (s : State) (cause : Nat × Bool × Bool) : TimerId → Bool
  | .holddown n d w => !(s.ring.heldDown.filter (fun x => x.2 = cause)).any (fun x => x.1 = (n, d, w))
  | _ => true

theorem running_endHolds (s : State) (cause : Nat × Bool × Bool) (id : TimerId) :
    running (endHolds s cause) id = (outlasts s cause id && running s id) := by
  have hfilter : (fun x : TimerId × Nat => outlasts s cause x.1) = fun x => match x.1 with
      | .holddown n d w => !(s.ring.heldDown.filter (fun x => x.2 = cause)).any (fun x => x.1 = (n, d, w))
      | _ => true := by
    funext x
    obtain ⟨id, _⟩ := x
    cases id <;> rfl
  have htimers : (endHolds s cause).timers = s.timers.filter (fun x => outlasts s cause x.1) := by
    rw [hfilter]
    rfl
  rw [running, htimers, lookupKey_filter, running]
  cases outlasts s cause id <;> rfl

theorem outlasts_holddown (s : State) (cause : Nat × Bool × Bool) (n : Nat) (d w : Bool) :
    outlasts s cause (.holddown n d w) = true ↔ ((n, d, w), cause) ∉ s.ring.heldDown := by
  simp only [outlasts, Bool.not_eq_true', List.any_eq_false, List.mem_filter, decide_eq_true_eq]
  refine ⟨fun h hmem => h _ ⟨hmem, rfl⟩ rfl, fun h x hx heq => h ?_⟩
  obtain ⟨hmem, rfl⟩ := hx
  rwa [← heq]

theorem receiveWrap_of_end {f : RingFrame} (h : tsBits f 45 2 = 1) :
    receiveWrap s f = endHolds s (f.srcNode.toNat, f.side, decide (tsBits f 47 1 = 1)) := if_pos h

/-! ### The choice of the TB0 master starts and stops no other timer than its own -/

theorem timers_setTb0State (s : State) (st : Nat) : (setTb0State s st).timers = s.timers := by
  unfold setTb0State
  dsimp only
  split <;> rfl

theorem timers_enterHoldover (s : State) : (enterHoldover s).timers = s.timers := by
  refine (timers_setTb0State _ _).trans ?_
  split <;> rfl

/-- A choice between two states with the same timers. -/
theorem timers_ite {c : Prop} [Decidable c] {a b : State} {l : List (TimerId × Nat)} (ha : a.timers = l) (hb : b.timers = l) :
    (if c then a else b).timers = l := by
  split
  · exact ha
  · exact hb

theorem timers_selectMaster (s : State) :
    (selectMaster s).timers = s.timers ∨ (selectMaster s).timers = removeKey .upstream s.timers := by
  unfold selectMaster
  split
  · exact .inl rfl
  split
  · exact .inl rfl
  next n sd _ =>
    dsimp only
    split
    · exact .inr (congrArg (removeKey _) (timers_setTb0State _ _))
    have hup (e : RingEntry) (v : State) : (match upstreamTo v e with
        | some (p, h) => setF (setF v F.TIM_TB0_SYNC_UPSTREAM p) F.TIM_TB0_SYNC_HOPS h
        | none => v).timers = v.timers := by
      split <;> rfl
    left
    split
    · exact timers_ite ((timers_enterHoldover _).trans (hup _ _)) (hup _ _)
    · exact timers_ite (timers_enterHoldover _) rfl

theorem running_selectMaster (s : State) {id : TimerId} (h : id ≠ .upstream) :
    running (selectMaster s) id = running s id := by
  unfold running
  obtain h' | h' := timers_selectMaster s
  · rw [h']
  · rw [h', lookupKey_removeKey, if_neg h]

theorem wrapNotice_ends_holds {l : LocalFrame} (hheld : s.ring.held.find? (fun x => x.frame.type = tyWRAP) = some l)
    (hl : live s unitRNG = true) (hend : tsBits l.frame 45 2 = 1) : ∃ t, exec .wrapNoticeReceive s = .next t
      ∧ t.ring.map = s.ring.map
      ∧ ∀ node side west, running t (.holddown node side west) = true ↔ running s (.holddown node side west) = true
          ∧ ((node, side, west), (l.frame.srcNode.toNat, l.frame.side, decide (tsBits l.frame 47 1 = 1)))
            ∉ s.ring.heldDown := by
  have hexec : exec .wrapNoticeReceive s = .next (selectMaster (receiveWrap (heldTaken s l) l.frame)) := by
    change Host.Outcome.next _ = _
    rw [takeHeld_of_find hheld]
    exact congrArg Host.Outcome.next (if_pos hl)
  rw [receiveWrap_of_end hend] at hexec
  refine ⟨_, hexec, ?_, fun node side west => ?_⟩
  · rw [(aside_selectMaster _).ring]
    rfl
  · rw [running_selectMaster _ (show TimerId.holddown node side west ≠ .upstream from nofun), running_endHolds,
      Bool.and_eq_true, outlasts_holddown, And.comm]
    rfl

/-! ### The map's entries (R115) -/

theorem findEntry_congr (h : t.ring.map = s.ring.map) (node : Nat) (side : Bool) :
    findEntry t node side = findEntry s node side := by
  rw [findEntry, findEntry, h]

/-- The hub an entry is of. -/
def hubOf (e : RingEntry) : Nat × Bool := (e.node, e.side)

/-- Where each hub has one entry, a list splits at one of them. -/
theorem split_at_hub {l : List RingEntry} {e : RingEntry} (hnodup : (l.map hubOf).Nodup) (he : e ∈ l) :
    ∃ l₁ l₂, l = l₁ ++ e :: l₂ ∧ (∀ x ∈ l₁, hubOf x ≠ hubOf e) ∧ ∀ x ∈ l₂, hubOf x ≠ hubOf e := by
  obtain ⟨l₁, l₂, rfl⟩ := List.append_of_mem he
  rw [List.map_append, List.map_cons, List.nodup_append, List.nodup_cons] at hnodup
  obtain ⟨-, ⟨hafter, -⟩, hbefore⟩ := hnodup
  exact ⟨l₁, l₂, rfl, fun x hx => hbefore _ (List.mem_map_of_mem hx) _ List.mem_cons_self,
    fun x hx heq => hafter (heq ▸ List.mem_map_of_mem hx)⟩

theorem findEntry_of_mem {e : RingEntry} (hnodup : (s.ring.map.map hubOf).Nodup) (he : e ∈ s.ring.map) :
    findEntry s e.node e.side = some e := by
  obtain ⟨l₁, l₂, hsplit, hbefore, -⟩ := split_at_hub hnodup he
  have hnone : l₁.find? (fun x => decide (x.node = e.node) && decide (x.side = e.side)) = none := by
    refine List.find?_eq_none.mpr fun x hx hkey => hbefore x hx ?_
    simp only [Bool.and_eq_true, decide_eq_true_eq] at hkey
    exact Prod.ext hkey.1 hkey.2
  rw [findEntry, hsplit, List.find?_append, hnone]
  simp

section
variable {node : Nat} {side : Bool}

theorem findEntry_updateEntry_other {e : RingEntry} (h : hubOf e ≠ (node, side)) :
    findEntry (updateEntry s e) node side = findEntry s node side := by
  have hkeys : (fun x : RingEntry => decide (x.node = node) && decide (x.side = side)) ∘
      (fun x => if x.node = e.node ∧ x.side = e.side then e else x)
      = fun x => decide (x.node = node) && decide (x.side = side) := by
    funext x
    rw [Function.comp_apply]
    split
    next hx => rw [hx.1, hx.2]
    next => rfl
  refine List.find?_map.trans ?_
  rw [hkeys]
  cases hfind : findEntry s node side with
  | none => exact congrArg (Option.map _) hfind
  | some y =>
    refine (congrArg (Option.map _) hfind).trans (congrArg some (if_neg fun hy => h ?_))
    obtain ⟨hnode, hside⟩ := findEntry_key hfind
    exact Prod.ext (hy.1.symm.trans hnode) (hy.2.symm.trans hside)

theorem findEntry_removeEntry_other {n : Nat} {d : Bool} (h : (n, d) ≠ (node, side)) :
    findEntry (removeEntry s n d) node side = findEntry s node side := by
  refine List.find?_filter.trans (congrArg (List.find? · s.ring.map) (funext fun x => ?_))
  by_cases hx : x.node = node ∧ x.side = side
  · obtain ⟨rfl, rfl⟩ := hx
    have hkept : ¬(x.node = n ∧ x.side = d) := fun hx => h (Prod.ext hx.1.symm hx.2.symm)
    simp [← Bool.decide_and, hkept]
  · have hkey : (decide (x.node = node) && decide (x.side = side)) = false := by rw [← Bool.decide_and, decide_eq_false hx]
    simp [hkey]

theorem findEntry_unreach_other {n : Nat} {d west : Bool} (h : (n, d) ≠ (node, side)) :
    findEntry (unreach s n d west) node side = findEntry s node side := by
  cases hfind : findEntry s n d with
  | none =>
    rw [unreach, hfind]
  | some o =>
    obtain ⟨regs, hun⟩ := unreach_of_find (west := west) hfind
    obtain ⟨hnode, hside⟩ := findEntry_key hfind
    obtain ⟨hunode, huside⟩ := unreached_key west o
    have hhub : hubOf (unreached west o) = (n, d) := Prod.ext (hunode.trans hnode) (huside.trans hside)
    rw [hun]
    split
    · split
      · rfl
      · exact findEntry_updateEntry_other (s := s.withRegs regs) (hhub ▸ h)
    · exact findEntry_removeEntry_other (s := s.withRegs regs) h

theorem timers_unreach (s : State) (n : Nat) (d west : Bool) : (unreach s n d west).timers = s.timers := by
  cases hfind : findEntry s n d with
  | none => rw [unreach, hfind]
  | some o =>
    obtain ⟨regs, hun⟩ := unreach_of_find (west := west) hfind
    rw [hun]
    split
    · split <;> rfl
    · rfl

/-- Whether a hub is reached in some direction. -/
def reached (e : RingEntry) : Bool := e.reachE || e.reachW

theorem findEntry_unreach_same {west : Bool} {o : RingEntry} (h : findEntry s node side = some o) :
    findEntry (unreach s node side west) node side
      = if reached (unreached west o) then some (unreached west o) else none := by
  have hreached : reached (unreached west o) = if west then o.reachE else o.reachW := by
    cases west <;> simp [reached, unreached]
  rw [hreached]
  by_cases hother : (if west then o.reachE else o.reachW) = true
  · rw [if_pos hother, findEntry_unreach h hother]
  · obtain ⟨regs, hun⟩ := unreach_lost (west := west) h (Bool.eq_false_iff.mpr hother)
    rw [if_neg hother, hun]
    exact findEntry_removeEntry (s.withRegs regs) node side

/-! ### One entry under a WRAP notice (R129) -/

theorem unreached_of_unreached {west : Bool} {o : RingEntry} (h : (if west then o.reachW else o.reachE) = false) :
    unreached west o = o := by
  cases west with
  | false => exact (congrArg (fun r => { o with reachE := r }) h).symm
  | true => exact (congrArg (fun r => { o with reachW := r }) h).symm

/-- An entry that a notice clears in one direction, or not. -/
def clearedIn (west c : Bool) (o : RingEntry) : RingEntry := if c then unreached west o else o

theorem clearedIn_shows (west c : Bool) (o : RingEntry) :
    (clearedIn west c o).reachE = (o.reachE && (west || !c)) ∧ (clearedIn west c o).reachW = (o.reachW && (!west || !c))
      ∧ (clearedIn west c o).hopsE = o.hopsE ∧ (clearedIn west c o).hopsW = o.hopsW := by
  cases west <;> cases c <;> simp [clearedIn, unreached]

/-- A direction of an entry cleared, where the notice clears it and the hub is reached there. -/
theorem findEntry_cleared {west c r : Bool} {o : RingEntry} (h : findEntry s node side = some o) (hreached : reached o = true)
    (hr : r = if west then o.reachW else o.reachE) :
    findEntry (if c && r then unreach s node side west else s) node side
      = if reached (clearedIn west c o) then some (clearedIn west c o) else none := by
  subst hr
  cases c with
  | false => simp [clearedIn, hreached, h]
  | true =>
    cases hdir : (if west then o.reachW else o.reachE) with
    | true => exact (congrArg (findEntry · node side) (if_pos rfl)).trans (findEntry_unreach_same h)
    | false =>
      have hsame : unreached west o = o := unreached_of_unreached hdir
      simp [clearedIn, hsame, hreached, h]

end

variable {w e : RingEntry} {west : Bool}

/-- The state in which the directions that a notice clears of an entry are held down. -/
def wrapHeld (s : State) (w : RingEntry) (west : Bool) (e : RingEntry) : State :=
  let s := if (wrapClears w west e).1 then holdDown s (e.node, e.side, false) (w.node, w.side, west) else s
  if (wrapClears w west e).2 then holdDown s (e.node, e.side, true) (w.node, w.side, west) else s

/-- The state in which an entry has then lost what it had to the East. -/
def wrapClearedEast (s : State) (w : RingEntry) (west : Bool) (e : RingEntry) : State :=
  if (wrapClears w west e).1 && e.reachE then unreach (wrapHeld s w west e) e.node e.side false else wrapHeld s w west e

theorem applyWrap_eq (s : State) (w : RingEntry) (west : Bool) (e : RingEntry) : applyWrap s w west e
    = if (wrapClears w west e).2 && e.reachW then unreach (wrapClearedEast s w west e) e.node e.side true
      else wrapClearedEast s w west e := rfl

theorem map_wrapHeld (s : State) (w : RingEntry) (west : Bool) (e : RingEntry) :
    (wrapHeld s w west e).ring.map = s.ring.map := by
  dsimp only [wrapHeld]
  split <;> split <;> rfl

theorem timers_applyWrap (s : State) (w : RingEntry) (west : Bool) (e : RingEntry) :
    (applyWrap s w west e).timers = (wrapHeld s w west e).timers := by
  have heast : (wrapClearedEast s w west e).timers = (wrapHeld s w west e).timers := by
    unfold wrapClearedEast
    split
    · exact timers_unreach _ _ _ _
    · rfl
  rw [applyWrap_eq]
  split
  · exact (timers_unreach _ _ _ _).trans heast
  · exact heast

theorem running_applyWrap (s : State) (w : RingEntry) (west : Bool) (e : RingEntry) (id : TimerId) :
    running (applyWrap s w west e) id = running (wrapHeld s w west e) id := by
  rw [running, running, timers_applyWrap]

theorem running_wrapHeld_of_running {id : TimerId} (h : running s id = true) : running (wrapHeld s w west e) id = true := by
  dsimp only [wrapHeld]
  split <;> split <;> simp only [running_holdDown, h, Bool.or_true]

theorem running_wrapHeld_east (h : (wrapClears w west e).1 = true) :
    running (wrapHeld s w west e) (.holddown e.node e.side false) = true := by
  dsimp only [wrapHeld]
  rw [if_pos h]
  split <;> simp [running_holdDown]

theorem findEntry_applyWrap_other {node : Nat} {side : Bool} (h : hubOf e ≠ (node, side)) :
    findEntry (applyWrap s w west e) node side = findEntry s node side := by
  have hheld := findEntry_congr (map_wrapHeld s w west e) node side
  have heast : findEntry (wrapClearedEast s w west e) node side = findEntry s node side := by
    unfold wrapClearedEast
    split
    · exact (findEntry_unreach_other h).trans hheld
    · exact hheld
  rw [applyWrap_eq]
  split
  · exact (findEntry_unreach_other h).trans heast
  · exact heast

/-- What a notice leaves of an entry. -/
def wrapLeft (w : RingEntry) (west : Bool) (e : RingEntry) : RingEntry :=
  clearedIn true (wrapClears w west e).2 (clearedIn false (wrapClears w west e).1 e)

theorem wrapLeft_shows (w : RingEntry) (west : Bool) (e : RingEntry) :
    (wrapLeft w west e).reachE = (e.reachE && !(wrapClears w west e).1)
      ∧ (wrapLeft w west e).reachW = (e.reachW && !(wrapClears w west e).2)
      ∧ (wrapLeft w west e).hopsE = e.hopsE ∧ (wrapLeft w west e).hopsW = e.hopsW := by
  simp [wrapLeft, clearedIn_shows]

theorem findEntry_applyWrap_same (h : findEntry s e.node e.side = some e) (hreached : reached e = true) :
    findEntry (applyWrap s w west e) e.node e.side
      = if reached (wrapLeft w west e) then some (wrapLeft w west e) else none := by
  have hheld := (findEntry_congr (map_wrapHeld s w west e) e.node e.side).trans h
  obtain ⟨heastE, heastW, -, -⟩ := clearedIn_shows false (wrapClears w west e).1 e
  have heast : findEntry (wrapClearedEast s w west e) e.node e.side = _ :=
    findEntry_cleared (west := false) hheld hreached rfl
  rw [applyWrap_eq]
  cases hleft : reached (clearedIn false (wrapClears w west e).1 e) with
  | true =>
    rw [hleft, if_pos rfl] at heast
    exact findEntry_cleared (west := true) heast hleft (by simp [heastW])
  | false =>
    rw [hleft, if_neg Bool.false_ne_true] at heast
    obtain ⟨hE, hW⟩ : (clearedIn false (wrapClears w west e).1 e).reachE = false
        ∧ (clearedIn false (wrapClears w west e).1 e).reachW = false := by simpa [reached] using hleft
    have hnoW : e.reachW = false := by simpa [heastW] using hW
    obtain ⟨hleftE, hleftW, -, -⟩ := clearedIn_shows true (wrapClears w west e).2
      (clearedIn false (wrapClears w west e).1 e)
    have hgone : reached (wrapLeft w west e) = false := by simp [reached, wrapLeft, hleftE, hleftW, hE, hW]
    rw [hnoW, Bool.and_false, if_neg Bool.false_ne_true, heast, hgone, if_neg Bool.false_ne_true]

/-! ### All entries under a WRAP notice -/

theorem findEntry_foldl_applyWrap_other {node : Nat} {side : Bool} (l : List RingEntry) (s : State)
    (h : ∀ x ∈ l, hubOf x ≠ (node, side)) :
    findEntry (l.foldl (fun t x => applyWrap t w west x) s) node side = findEntry s node side :=
  List.foldlRecOn (motive := fun t => findEntry t node side = findEntry s node side) l _ rfl
    fun _ hv x hx => (findEntry_applyWrap_other (h x hx)).trans hv

theorem running_foldl_applyWrap {id : TimerId} (l : List RingEntry) (h : running s id = true) :
    running (l.foldl (fun t x => applyWrap t w west x) s) id = true :=
  List.foldlRecOn (motive := fun t => running t id = true) l _ h
    fun _ hv x _ => (running_applyWrap _ w west x id).trans (running_wrapHeld_of_running hv)

/-- A notice that goes through a list in which each hub stands once does to an entry what it does to it alone. -/
theorem foldl_applyWrap_shows {l : List RingEntry} (hnodup : (l.map hubOf).Nodup) (he : e ∈ l)
    (h : findEntry s e.node e.side = some e) (hreached : reached e = true) :
    findEntry (l.foldl (fun t x => applyWrap t w west x) s) e.node e.side
        = (if reached (wrapLeft w west e) then some (wrapLeft w west e) else none)
      ∧ ((wrapClears w west e).1 = true →
        running (l.foldl (fun t x => applyWrap t w west x) s) (.holddown e.node e.side false) = true) := by
  obtain ⟨l₁, l₂, rfl, hbefore, hafter⟩ := split_at_hub hnodup he
  rw [List.foldl_append, List.foldl_cons]
  have hfound := (findEntry_foldl_applyWrap_other (w := w) (west := west) l₁ s hbefore).trans h
  refine ⟨(findEntry_foldl_applyWrap_other l₂ _ hafter).trans (findEntry_applyWrap_same hfound hreached),
    fun hclears => ?_⟩
  exact running_foldl_applyWrap l₂ ((running_applyWrap _ w west e _).trans (running_wrapHeld_east hclears))

/-- Whether a notice is for its hub's port West. -/
def namesWest (f : RingFrame) : Bool := decide (tsBits f 47 1 = 1)

theorem receiveWrap_of_begin {f : RingFrame} (hbegin : tsBits f 45 2 ≠ 1)
    (hfind : findEntry s f.srcNode.toNat f.side = some w) : receiveWrap s f
      = (s.ring.map.filter (fun e => !isOwn s e.node e.side)).foldl
          (fun t e => applyWrap t w (namesWest f) e) s := by
  refine (if_neg hbegin).trans ?_
  rw [hfind]
  rfl

/-- The rule of R129, by the bit of the notice that names its port. -/
theorem wrapClears_iff (w e : RingEntry) (f : RingFrame) :
    ((wrapClears w (namesWest f) e).1 = true
        ↔ if tsBits f 47 1 = 0 then w.hopsE < e.hopsE else w.hopsE ≤ e.hopsE)
      ∧ ((wrapClears w (namesWest f) e).2 = true
        ↔ if tsBits f 47 1 = 0 then w.hopsW ≤ e.hopsW else w.hopsW < e.hopsW) := by
  have hbit : tsBits f 47 1 < 2 := Nat.mod_lt _ (by decide)
  obtain h | h : tsBits f 47 1 = 0 ∨ tsBits f 47 1 = 1 := by omega
  · simp [wrapClears, namesWest, h]
  · simp [wrapClears, namesWest, h]

/-- What a WRAP notice of event 0 leaves of another hub's entry. -/
theorem wrapNotice_clears {f : RingFrame} (hbegin : tsBits f 45 2 ≠ 1)
    (hfind : findEntry s f.srcNode.toNat f.side = some w) (hnodup : (s.ring.map.map hubOf).Nodup)
    (he : e ∈ s.ring.map) (hother : isOwn s e.node e.side = false) (hreached : reached e = true) :
    findEntry (receiveWrap s f) e.node e.side
        = (if reached (wrapLeft w (namesWest f) e) then some (wrapLeft w (namesWest f) e) else none)
      ∧ ((wrapClears w (namesWest f) e).1 = true →
        running (receiveWrap s f) (.holddown e.node e.side false) = true) := by
  rw [receiveWrap_of_begin hbegin hfind]
  exact foldl_applyWrap_shows (hnodup.sublist (List.filter_sublist.map hubOf))
    (List.mem_filter.mpr ⟨he, by rw [hother]; rfl⟩) (findEntry_of_mem hnodup he) hreached

end

/-- Settles O38: a wrap breaks its port, a notice clears and holds down or ends its hold-downs, entry by entry, and a heal
waits for both sides. -/
theorem wrapsAndHeals : Obligations.WrapsAndHeals := by
  refine ⟨fun s p hl hp hwhole => maintenanceWrap_shows hl hp hwhole,
    fun s l hheld hl hend => wrapNotice_ends_holds hheld hl hend, ?clears,
    fun s node side west hdue => wrapHolddownExpiry_shows hdue,
    fun s p hl hruns hp hbroken hup hdue hheld => healReady_shows hl hruns hp hbroken hup hdue hheld,
    fun s hl => heal_shows hl⟩
  case clears =>
    intro s f w hbegin hfind hnodup e he hother hsome east clearE clearW keepE keepW
    have hreached : reached e = true := by simpa [reached] using hsome
    obtain ⟨hE, hW⟩ := wrapClears_iff w e f
    obtain ⟨hentry, hheld⟩ := wrapNotice_clears hbegin hfind hnodup he hother hreached
    obtain ⟨hleftE, hleftW, hhopsE, hhopsW⟩ := wrapLeft_shows w (namesWest f) e
    have hkeepE : (wrapLeft w (namesWest f) e).reachE = true ↔ keepE := by
      rw [hleftE, Bool.and_eq_true, Bool.not_eq_true', ← Bool.not_eq_true, hE]
    have hkeepW : (wrapLeft w (namesWest f) e).reachW = true ↔ keepW := by
      rw [hleftW, Bool.and_eq_true, Bool.not_eq_true', ← Bool.not_eq_true, hW]
    have hstays : reached (wrapLeft w (namesWest f) e) = true ↔ keepE ∨ keepW := by
      rw [reached, Bool.or_eq_true, hkeepE, hkeepW]
    refine ⟨fun hkeep => ⟨_, hentry.trans (if_pos (hstays.mpr hkeep)), hkeepE, hkeepW, hhopsE, hhopsW⟩,
      fun hnotE hnotW => hentry.trans (if_neg fun h => (hstays.mp h).elim hnotE hnotW), fun hclear => hheld (hE.mpr hclear)⟩

end Sys2Proof.Machine

/-! # Proofs: comparators and captures -/

namespace Sys2Proof.Machine

/-! ### Registers kept -/

/-- A field of a register that keeps its word. -/
theorem getF_of_regsKept {ks : List Nat} {s t : State} {f : Fld} (h : regsKept ks s t) (hf : f.key ∉ ks) :
    getF t f = getF s f := getF_congr (h _ hf)

/-- What leaves the words around the units alone leaves them running. -/
theorem live_of_around {s t : State} (h : Around s t) (u : Nat) : live t u = live s u := by
  rw [live, live, fenceCode_of_around h u]

/-! ### Values of several words -/

theorem regWord_setWords_outside (s : State) {key n k : Nat} (v : Nat) (h : k < key ∨ key + 4 * n ≤ k) :
    regWord (setWords s key n v) k = regWord s k := by
  induction n generalizing s key v with
  | zero => rfl
  | succ n ih => rw [setWords, ih _ _ (by omega), regWord_setWord_other _ _ (by omega)]

/-- Each word of a value that is written over several. -/
theorem regWord_setWords_at (s : State) (key v : Nat) {n i : Nat} (h : i < n) :
    regWord (setWords s key n v) (key + 4 * i) = BitVec.ofNat 32 (v / 2 ^ (32 * i)) := by
  induction n generalizing s key v i with
  | zero => exact absurd h (Nat.not_lt_zero i)
  | succ n ih =>
    rw [setWords]
    cases i with
    | zero => simp [regWord_setWords_outside]
    | succ i =>
      rw [show key + 4 * (i + 1) = key + 4 + 4 * i by omega, ih _ _ _ (Nat.lt_of_succ_lt_succ h),
        Nat.div_div_eq_div_mul, ← Nat.pow_add, show 32 + 32 * i = 32 * (i + 1) by omega]

theorem getWords_congr {s t : State} {key n : Nat} (h : ∀ k, key ≤ k → k < key + 4 * n → regWord t k = regWord s k) :
    getWords t key n = getWords s key n := by
  induction n generalizing key with
  | zero => rfl
  | succ n ih =>
    rw [getWords, getWords, h key (Nat.le_refl _) (by omega), ih fun k hlo hhi => h k (by omega) (by omega)]

/-- The first words of a value that is written over several. -/
theorem getWords_setWords (s : State) (key v : Nat) {m n : Nat} (h : m ≤ n) :
    getWords (setWords s key n v) key m = v % 2 ^ (32 * m) := by
  induction m generalizing s key v n with
  | zero => rw [getWords, Nat.mul_zero, Nat.pow_zero, Nat.mod_one]
  | succ m ih =>
    obtain ⟨n, rfl⟩ := Nat.exists_eq_add_one_of_ne_zero (Nat.ne_zero_of_lt h)
    have hfirst := regWord_setWords_at s key v (Nat.succ_pos n)
    rw [Nat.mul_zero, Nat.add_zero, Nat.pow_zero, Nat.div_one] at hfirst
    rw [getWords, hfirst, setWords, ih _ _ _ (Nat.le_of_succ_le_succ h), BitVec.toNat_ofNat,
      show 32 * (m + 1) = 32 + 32 * m by omega, Nat.pow_add, Nat.mod_mul]

/-! ### The firing times of a comparator (R286) -/

section
variable {s : State} {k : Nat}

theorem assoc_trgNext_setFiring (s : State) (k : Nat) (t : Option Nat) :
    assoc k (setFiring s k t).time.trgNext = t := by
  cases t with
  | none => exact (assoc_erase k k _).trans (if_pos rfl)
  | some n => exact assoc_put_same k n _

/-- A periodic comparator fires in steps from its first time, after the present one. -/
theorem trgAfter_spec (cmp now : Nat) {per : Nat} (h : 0 < per) :
    now < trgAfter cmp per now ∧ cmp ≤ trgAfter cmp per now ∧ (trgAfter cmp per now - cmp) % per = 0 := by
  unfold trgAfter
  split
  case isTrue hlt => simp [hlt]
  case isFalse hge =>
    refine ⟨?_, Nat.le_add_right _ _, by simp⟩
    have hnext : now - cmp < ((now - cmp) / per + 1) * per := Nat.lt_mul_of_div_lt (Nat.lt_succ_self _) h
    omega

theorem trgStep_pos (s : State) (k : Nat) : 0 < trgStep s k := by
  unfold trgStep
  split
  · decide
  · omega

/-! ### Arming (R286) -/

theorem exec_triggerArm (hl : live s unitTIM = true) (hk : k < 64) : exec (.triggerArm k) s = .next (armTrigger s k) :=
  congrArg Host.Outcome.next (if_pos ⟨hl, hk⟩)

/-- Comparator `k` shown as armed. -/
def armedShown (s : State) (k : Nat) : State := setFlag s (F.TIM_TRG_STAT_ARMED k) true

/-- A comparator armed for whatever time shows it. -/
theorem flag_armed_setFiring (s : State) (k : Nat) (t : Option Nat) :
    flag (setFiring (armedShown s k) k t) (F.TIM_TRG_STAT_ARMED k) = true :=
  flag_setFlag_same s (F.TIM_TRG_STAT_ARMED k) true (show 0 + 1 ≤ 32 by decide) rfl

theorem regsKept_armedShown (s : State) (k : Nat) : regsKept [(F.TIM_TRG_STAT_ARMED k).key] s (armedShown s k) :=
  regsKept_setF (regsKept_refl _ s) List.mem_cons_self _

theorem trgPeriod_armedShown (s : State) (k : Nat) : trgPeriod (armedShown s k) k = trgPeriod s k := by
  have hfar (f : Fld) (h : f.key ≠ (F.TIM_TRG_STAT_ARMED k).key) : getF (armedShown s k) f = getF s f :=
    getF_setF_apart s _ h
  rw [trgPeriod, hfar _ (by simp [F.TIM_TRG_PER_NS_PER, F.TIM_TRG_STAT_ARMED]),
    hfar _ (by simp [F.TIM_TRG_PER_SUB_PER, F.TIM_TRG_STAT_ARMED]), trgPeriod]

theorem trgStep_armedShown (s : State) (k : Nat) : trgStep (armedShown s k) k = trgStep s k := by
  rw [trgStep, trgPeriod_armedShown, trgStep]

theorem armTrigger_of_disabled (h : trgEnabled s k = false) :
    armTrigger s k = setFlag s (F.TIM_TRG_STAT_ARMED k) false := by
  simp [armTrigger, h]

theorem armTrigger_of_oneShot (h : trgEnabled s k = true) (hmode : getF s (F.TIM_TRG_CFG_MODE k) = 0) : armTrigger s k
    = if trgCmp s k ≤ s.tb (getF s (F.TIM_TRG_CFG_BASE k)) then
        setFlag (setFiring (armedShown s k) k (some (trgCmp s k))) (F.TIM_TRG_STAT_LATE k) true
      else setFiring (armedShown s k) k (some (trgCmp s k)) := by
  simp [armTrigger, h, hmode, armedShown]

theorem armTrigger_of_periodic (h : trgEnabled s k = true) (hmode : getF s (F.TIM_TRG_CFG_MODE k) = 1) : armTrigger s k
    = setFiring (armedShown s k) k (some (trgAfter (trgCmp s k) (trgStep s k) (s.tb (getF s (F.TIM_TRG_CFG_BASE k))))) := by
  rw [← trgStep_armedShown]
  simp [armTrigger, h, hmode, armedShown]

theorem armTrigger_of_cycleRelative (h : trgEnabled s k = true) (hmode : getF s (F.TIM_TRG_CFG_MODE k) = 2) :
    armTrigger s k = setFiring (armedShown s k) k
      ((cycleFiring (armedShown s k) k).filter (fun t => decide (tickTime s.mono < t))) := by
  simp only [armTrigger, h, hmode, armedShown, Bool.not_true, Bool.false_eq_true, if_false, OfNat.ofNat_ne_zero,
    OfNat.ofNat_ne_one]
  rfl

/-- The firing time of the running cycle, where it lies ahead. -/
theorem filter_cycleFiring (s : State) (k : Nat) :
    (cycleFiring (armedShown s k) k).filter (fun t => decide (tickTime s.mono < t))
      = if trgPeriod s k < s.time.cycleLen * 2 ^ 32
            ∧ tickTime s.mono < tickTime s.time.lastBoundary + trgPeriod s k then
          some (tickTime s.time.lastBoundary + trgPeriod s k) else none := by
  rw [cycleFiring, trgPeriod_armedShown, show (armedShown s k).time = s.time from rfl]
  by_cases hin : trgPeriod s k < s.time.cycleLen * 2 ^ 32
  · rw [if_pos hin, Option.filter_some]
    simp only [hin, decide_eq_true_eq, true_and]
  · rw [if_neg hin, if_neg fun h => hin h.1, Option.filter_none]

/-- A one-shot is armed for its time, and LATE if that is past. -/
theorem armTrigger_oneShot_shows (h : trgEnabled s k = true) (hmode : getF s (F.TIM_TRG_CFG_MODE k) = 0) :
    flag (armTrigger s k) (F.TIM_TRG_STAT_ARMED k) = true ∧ assoc k (armTrigger s k).time.trgNext = some (trgCmp s k)
      ∧ (trgCmp s k ≤ s.tb (getF s (F.TIM_TRG_CFG_BASE k)) → flag (armTrigger s k) (F.TIM_TRG_STAT_LATE k) = true)
      ∧ regsKept [(F.TIM_TRG_STAT_ARMED k).key] s (armTrigger s k) ∧ (armTrigger s k).time.bases = s.time.bases := by
  have hkept : regsKept [(F.TIM_TRG_STAT_ARMED k).key] s (setFiring (armedShown s k) k (some (trgCmp s k))) :=
    regsKept_armedShown s k
  rw [armTrigger_of_oneShot h hmode]
  split
  case isTrue =>
    exact ⟨(flag_setFlag_other _ _ (show 1 + 1 ≤ 32 by decide) (.inr (.inl (show 0 + 1 ≤ 1 by decide)))).trans
        (flag_armed_setFiring s k _), assoc_trgNext_setFiring (armedShown s k) k (some (trgCmp s k)),
      fun _ => flag_setFlag_same _ _ true (show 1 + 1 ≤ 32 by decide) rfl,
      regsKept_setF hkept (f := F.TIM_TRG_STAT_LATE k) List.mem_cons_self _, rfl⟩
  case isFalse hahead =>
    exact ⟨flag_armed_setFiring s k _, assoc_trgNext_setFiring _ k _, fun hpast => absurd hpast hahead, hkept, rfl⟩

/-! ### Firing (R286, R288) -/

/-- What the captures are owed stands in the time unit's part alone. -/
theorem oweCaptures_frame (s : State) (k : Nat) :
    ∃ owed, oweCaptures s k = s.withTime { s.time with capOwed := owed } := by
  refine List.foldlRecOn (motive := fun t => ∃ owed, t = s.withTime { s.time with capOwed := owed }) _ _
    ⟨s.time.capOwed, rfl⟩ fun t ht c _ => ?_
  obtain ⟨owed, rfl⟩ := ht
  split
  · exact ⟨_, rfl⟩
  · exact ⟨owed, rfl⟩

/-- A firing disarms a one-shot. -/
theorem fireTrigger_of_oneShot (hmode : getF s (F.TIM_TRG_CFG_MODE k) = 0) :
    flag (fireTrigger s k) (F.TIM_TRG_STAT_ARMED k) = false ∧ assoc k (fireTrigger s k).time.trgNext = none := by
  have hfired : fireTrigger s k = setFlag ((incF s (F.TIM_TRG_STAT_FIRED k)).withTime
      { s.time with trgNext := erase k s.time.trgNext }) (F.TIM_TRG_STAT_ARMED k) false := if_pos hmode
  rw [hfired]
  exact ⟨flag_setFlag_same _ _ false (show 0 + 1 ≤ 32 by decide) rfl, (assoc_erase k k _).trans (if_pos rfl)⟩

theorem fireTrigger_frame (s : State) (k : Nat) :
    fireTrigger s k = { s with regs := (fireTrigger s k).regs, time := (fireTrigger s k).time } := by
  unfold fireTrigger
  dsimp only
  split_ifs <;> rfl

/-- Besides its count and its MISSED counter a firing leaves every register. -/
theorem regsKept_fireTrigger (s : State) (k : Nat) :
    regsKept [(F.TIM_TRG_STAT_FIRED k).key, (F.TIM_TRG_MISSED_COUNT k).key] s (fireTrigger s k) := by
  have hcounted : regsKept [(F.TIM_TRG_STAT_FIRED k).key, (F.TIM_TRG_MISSED_COUNT k).key] s
      (incF s (F.TIM_TRG_STAT_FIRED k)) := regsKept_setF (regsKept_refl _ s) List.mem_cons_self _
  unfold fireTrigger
  dsimp only
  split_ifs
  · exact regsKept_setF (f := F.TIM_TRG_STAT_ARMED k) hcounted List.mem_cons_self _
  · exact regsKept_setF (f := F.TIM_TRG_MISSED_COUNT k) hcounted (List.mem_cons_of_mem _ List.mem_cons_self) _
  · exact hcounted

theorem getF_fired_fireTrigger (s : State) (k : Nat) : getF (fireTrigger s k) (F.TIM_TRG_STAT_FIRED k)
    = (getF s (F.TIM_TRG_STAT_FIRED k) + 1) % 2 ^ 16 := by
  have hcounted : getF (incF s (F.TIM_TRG_STAT_FIRED k)) (F.TIM_TRG_STAT_FIRED k)
      = (getF s (F.TIM_TRG_STAT_FIRED k) + 1) % 2 ^ 16 := getF_incF_same s (show 16 + 16 ≤ 32 by decide)
  unfold fireTrigger
  dsimp only
  split_ifs
  · exact (getF_setF_other _ (F.TIM_TRG_STAT_ARMED k) (F.TIM_TRG_STAT_FIRED k) _ (show 0 + 1 ≤ 32 by decide)
      (.inr (.inr (show 0 + 1 ≤ 16 by decide)))).trans hcounted
  · exact (getF_setF_apart _ _ (by simp [F.TIM_TRG_STAT_FIRED, F.TIM_TRG_MISSED_COUNT])).trans hcounted
  · exact hcounted

/-- Comparator `k` after its firing, before its output: the captures it drives are owed their times. -/
def fired (s : State) (k : Nat) : State := fireTrigger (oweCaptures s k) k

theorem exec_triggerFire (hk : k < 64) (hdue : trgDue s k = true) (codes : List (BitVec 16)) :
    exec (.triggerFire k codes) s = .next (triggerOutput (fired s k) k codes) :=
  congrArg Host.Outcome.next (if_pos ⟨hk, hdue⟩)

theorem fired_frame (s : State) (k : Nat) : fired s k = { s with regs := (fired s k).regs, time := (fired s k).time } := by
  obtain ⟨owed, howed⟩ := oweCaptures_frame s k
  rw [fired, howed, fireTrigger_frame]
  rfl

theorem regsKept_fired (s : State) (k : Nat) :
    regsKept [(F.TIM_TRG_STAT_FIRED k).key, (F.TIM_TRG_MISSED_COUNT k).key] s (fired s k) := by
  obtain ⟨owed, howed⟩ := oweCaptures_frame s k
  rw [fired, howed]
  exact regsKept_fireTrigger _ k

/-- The registers of other units, and those of the comparators' configuration, hold. -/
theorem getF_fired_apart (s : State) (k : Nat) {f : Fld} (hstat : f.key ≠ (F.TIM_TRG_STAT_FIRED k).key)
    (hmissed : f.key ≠ (F.TIM_TRG_MISSED_COUNT k).key) : getF (fired s k) f = getF s f :=
  getF_of_regsKept (regsKept_fired s k) (by simp [hstat, hmissed])

theorem getF_out_fired (s : State) (k : Nat) : getF (fired s k) (F.TIM_TRG_CFG_OUT k) = getF s (F.TIM_TRG_CFG_OUT k) :=
  getF_fired_apart s k (by simp [F.TIM_TRG_CFG_OUT, F.TIM_TRG_STAT_FIRED])
    (by simp [F.TIM_TRG_CFG_OUT, F.TIM_TRG_MISSED_COUNT])

/-- Registers of units below the time unit. -/
theorem getF_fired_below (s : State) (k : Nat) {f : Fld} (h : f.key < keyOf unitTIM 0) : getF (fired s k) f = getF s f :=
  getF_fired_apart s k (by simp only [F.TIM_TRG_STAT_FIRED, keyOf, unitTIM] at *; omega)
    (by simp only [F.TIM_TRG_MISSED_COUNT, keyOf, unitTIM] at *; omega)

/-- The registers of the pins. -/
theorem getF_fired_pins (s : State) (hk : k < 64) {f : Fld} (h : keyOf unitPIN 0 ≤ f.key) :
    getF (fired s k) f = getF s f :=
  getF_fired_apart s k (by simp only [F.TIM_TRG_STAT_FIRED, keyOf, unitPIN] at *; omega)
    (by simp only [F.TIM_TRG_MISSED_COUNT, keyOf, unitPIN] at *; omega)

theorem live_fired (s : State) (k u : Nat) : live (fired s k) u = live s u := by
  have hframe := fired_frame s k
  refine live_of_around ⟨?_, ?_, ?_, ?_, fun w hw => regsKept_fired s k w ?_⟩ u
  · rw [hframe]
  · rw [hframe]
  · rw [hframe]
  · rw [hframe]
  · simp only [F.TIM_TRG_STAT_FIRED, F.TIM_TRG_MISSED_COUNT, List.mem_cons, List.not_mem_nil, or_false]
    omega

/-- A firing counts, and disarms a one-shot. -/
theorem fired_shows (s : State) (k : Nat) :
    (fired s k).mem = s.mem ∧ (fired s k).outs = s.outs
      ∧ getF (fired s k) (F.TIM_TRG_STAT_FIRED k) = (getF s (F.TIM_TRG_STAT_FIRED k) + 1) % 2 ^ 16
      ∧ (getF s (F.TIM_TRG_CFG_MODE k) = 0 → flag (fired s k) (F.TIM_TRG_STAT_ARMED k) = false
        ∧ assoc k (fired s k).time.trgNext = none)
      ∧ regsKept [(F.TIM_TRG_STAT_FIRED k).key, (F.TIM_TRG_MISSED_COUNT k).key] s (fired s k) := by
  obtain ⟨owed, howed⟩ := oweCaptures_frame s k
  refine ⟨by rw [fired_frame], by rw [fired_frame], ?_, fun hmode => ?_, regsKept_fired s k⟩
  · rw [fired, howed]
    exact getF_fired_fireTrigger _ k
  · rw [fired, howed]
    exact fireTrigger_of_oneShot hmode

/-! ### The output of a firing (R168, R287) -/

theorem triggerOutput_of_none (h : getF s (F.TIM_TRG_CFG_OUT k) = 0) (codes : List (BitVec 16)) :
    triggerOutput s k codes = s := by
  simp [triggerOutput, h]

theorem triggerOutput_of_capture (h : getF s (F.TIM_TRG_CFG_OUT k) = 7) (codes : List (BitVec 16)) :
    triggerOutput s k codes = captureTrigger s := by
  simp [triggerOutput, h]

theorem triggerOutput_of_pin {out : Nat} (h : getF s (F.TIM_TRG_CFG_OUT k) = out) (hout : out = 3 ∨ out = 4 ∨ out = 5)
    (codes : List (BitVec 16)) : triggerOutput s k codes = triggerPin s (getF s (F.TIM_TRG_CFG_GIO k)) out := by
  obtain rfl | rfl | rfl := hout <;> simp [triggerOutput, h]

/-- A capture trigger loads what is left to capture. -/
theorem getF_trigLeft_captureTrigger (hl : live s unitPLZ = true) (hen : flag s F.PLZ_CAP_CFG_EN = true)
    (hcount : getF s F.PLZ_CAP_CFG_TRIG_COUNT ≠ 0) :
    getF (captureTrigger s) F.PLZ_CAP_STAT_TRIG_LEFT = getF s F.PLZ_CAP_CFG_TRIG_COUNT % 2 ^ 12 := by
  rw [captureTrigger, if_pos (by simp [hl, hen, hcount])]
  exact getF_setF_same s F.PLZ_CAP_STAT_TRIG_LEFT _ (by decide)

/-- A pin is set, cleared or toggled unless an engine owns it. -/
theorem bitF_triggerPin {g : Nat} (out : Nat) (hl : live s unitPIN = true) (hg : g < 192) :
    bitF (triggerPin s g out) (F.PIN_OUT_PINS (g / 32)) (g % 32)
      = if flag s (F.PIN_GIO_CFG_OWNER g) then bitF s (F.PIN_OUT_PINS (g / 32)) (g % 32)
        else if out = 3 then true else if out = 4 then false else !bitF s (F.PIN_OUT_PINS (g / 32)) (g % 32) := by
  rw [triggerPin]
  by_cases howner : flag s (F.PIN_GIO_CFG_OWNER g) = true
  · simp [howner]
  · rw [if_pos ⟨hl, hg, by simpa using howner⟩, if_neg howner]
    exact bitF_setBitF_same s _ (show 0 + 32 ≤ 32 by decide) (Nat.mod_lt _ (by decide))

end

/-! ### Captures (R288, R289) -/

section
variable {s : State} {k : Nat}

/-- Where slot `i` of capture unit `k` stands. -/
def captureSlot (k i : Nat) : Nat := (F.TIM_CAP_SLOT_TIME k i 0).key

/-- A capture entered in its slot. -/
def captureEntered (s : State) (k t : Nat) (rising : Bool) : State :=
  setWords (setF (incF s (F.TIM_CAP_STAT_SEQ k)) (F.TIM_CAP_STAT_WR k) (getF s (F.TIM_CAP_STAT_WR k) + 1))
    (captureSlot k (getF s (F.TIM_CAP_STAT_WR k))) 4
    (tripleOf t + 2 ^ 96 * (bit01 rising + 65536 * ((getF s (F.TIM_CAP_STAT_SEQ k) + 1) % 2 ^ 16)))

/-- A capture entered and reported, where its unit reports captures. -/
def captureNoted (s : State) (k t seq : Nat) (rising : Bool) : State :=
  if flag s (F.TIM_CAP_CFG_NOTE k) then
    produceCounted s (getF s F.TIM_NOTE_CFG_QUEUE) 0x07 (getF s F.TIM_NOTE_CFG_PRIO)
      (leBytes 4 (4 * bit01 rising + 256 * k + 65536 * seq) ++ leBytes 12 (tripleOf t))
  else s

theorem captureSlot_eq (k i : Nat) : (F.TIM_CAP_STAT_WR k).key - 0x1C + 0x40 + 0x10 * i = captureSlot k i := by
  simp only [F.TIM_CAP_STAT_WR, captureSlot, F.TIM_CAP_SLOT_TIME]
  omega

theorem getF_seq_counted (s : State) (k : Nat) : getF (incF s (F.TIM_CAP_STAT_SEQ k)) (F.TIM_CAP_STAT_SEQ k)
    = (getF s (F.TIM_CAP_STAT_SEQ k) + 1) % 2 ^ 16 := getF_incF_same s (show 16 + 16 ≤ 32 by decide)

theorem storeCapture_of_noWindow (hwin : flag s (F.TIM_CAP_CFG_WIN_EN k) = false) (t : Nat) (rising : Bool) :
    storeCapture s k t rising
      = captureNoted (captureEntered s k t rising) k t ((getF s (F.TIM_CAP_STAT_SEQ k) + 1) % 2 ^ 16) rising := by
  rw [captureEntered, ← getF_seq_counted, ← captureSlot_eq]
  simp only [storeCapture, hwin, Bool.false_eq_true, false_and, if_false]
  rfl

theorem storeCapture_of_closed (hwin : flag s (F.TIM_CAP_CFG_WIN_EN k) = true) {t : Nat}
    (hclosed : ofTriple (getWords s (F.TIM_CAP_CLOSE_TIME k 0).key 3) / 2 ^ 24 ≤ t / 2 ^ 24) (rising : Bool) :
    storeCapture s k t rising = incF s (F.TIM_CAP_OUTWIN_COUNT k) := if_pos ⟨hwin, .inr hclosed⟩

theorem exec_captureEvent_gio (hl : live s unitTIM = true) (hk : k < 64) (hen : flag s (F.TIM_CAP_CFG_EN k) = true)
    (hsrc : flag s (F.TIM_CAP_CFG_SRC k) = false) (pad : Bool) : exec (.captureEvent k pad) s = .next (captureGio s k pad) :=
  congrArg Host.Outcome.next ((if_pos ⟨hl, hk, hen⟩).trans (if_neg (by simp [hsrc])))

theorem captureNoted_frame (s : State) (k t seq : Nat) (rising : Bool) : captureNoted s k t seq rising
    = { s with regs := (captureNoted s k t seq rising).regs, queues := (captureNoted s k t seq rising).queues,
               flt := (captureNoted s k t seq rising).flt } := by
  unfold captureNoted produceCounted
  split_ifs <;> rfl

/-- A report leaves the registers of the time unit. -/
theorem regWord_captureNoted (s : State) (k t seq : Nat) (rising : Bool) {w : Nat} (h : keyOf unitTIM 0 ≤ w) :
    regWord (captureNoted s k t seq rising) w = regWord s w := by
  have hqueue := getF_lt s F.TIM_NOTE_CFG_QUEUE
  unfold captureNoted produceCounted
  split_ifs
  · rfl
  · refine regWord_setF_other s _ ?_
    simp only [F.MQ_Q_NOCRED_COUNT, F.TIM_NOTE_CFG_QUEUE, keyOf, unitTIM] at *
    omega
  · rfl

theorem tripleOf_lt (t : Nat) : tripleOf t < 2 ^ 96 := by
  simp only [tripleOf, nsPerSec]
  omega

/-- The registers of the capture's state lie before its slots. -/
theorem getF_stat_captureEntered (s : State) (k t : Nat) (rising : Bool) {f : Fld} (h : f.key = (F.TIM_CAP_STAT_WR k).key) :
    getF (captureEntered s k t rising) f = getF (setF (incF s (F.TIM_CAP_STAT_SEQ k)) (F.TIM_CAP_STAT_WR k)
      (getF s (F.TIM_CAP_STAT_WR k) + 1)) f := by
  refine getF_setWords_below _ _ _ ?_
  rw [h]
  simp only [captureSlot, F.TIM_CAP_STAT_WR, F.TIM_CAP_SLOT_TIME]
  omega

/-- The fourth word of a slot is its tag: the edge, and the capture's number. -/
theorem regWord_tag_captureEntered (s : State) (k t : Nat) (rising : Bool) :
    regWord (captureEntered s k t rising) (F.TIM_CAP_SLOT_TAG_RISE k (getF s (F.TIM_CAP_STAT_WR k))).key
      = BitVec.ofNat 32 (bit01 rising + 65536 * ((getF s (F.TIM_CAP_STAT_SEQ k) + 1) % 2 ^ 16)) := by
  have htag (i : Nat) : (F.TIM_CAP_SLOT_TAG_RISE k i).key = captureSlot k i + 4 * 3 := by
    simp only [F.TIM_CAP_SLOT_TAG_RISE, captureSlot, F.TIM_CAP_SLOT_TIME]
    omega
  rw [htag, captureEntered, regWord_setWords_at _ _ _ (by decide), Nat.add_mul_div_left _ _ (by decide),
    Nat.div_eq_of_lt (tripleOf_lt t), Nat.zero_add]

/-- A capture raises SEQ and WR and stores its time and its tag. -/
theorem captureEntered_shows (s : State) (k t : Nat) (rising : Bool) :
    getF (captureEntered s k t rising) (F.TIM_CAP_STAT_SEQ k) = (getF s (F.TIM_CAP_STAT_SEQ k) + 1) % 2 ^ 16
      ∧ getF (captureEntered s k t rising) (F.TIM_CAP_STAT_WR k) = (getF s (F.TIM_CAP_STAT_WR k) + 1) % 4
      ∧ getWords (captureEntered s k t rising) (captureSlot k (getF s (F.TIM_CAP_STAT_WR k))) 3 = tripleOf t
      ∧ flag (captureEntered s k t rising) (F.TIM_CAP_SLOT_TAG_RISE k (getF s (F.TIM_CAP_STAT_WR k))) = rising
      ∧ getF (captureEntered s k t rising) (F.TIM_CAP_SLOT_TAG_SEQ k (getF s (F.TIM_CAP_STAT_WR k)))
        = (getF s (F.TIM_CAP_STAT_SEQ k) + 1) % 2 ^ 16 := by
  have hstat (f : Fld) (h : f.key = (F.TIM_CAP_STAT_WR k).key) := getF_stat_captureEntered s k t rising h
  have hword := regWord_tag_captureEntered s k t rising
  have hbit : bit01 rising < 2 := by cases rising <;> decide
  have hrise : getF (captureEntered s k t rising) (F.TIM_CAP_SLOT_TAG_RISE k (getF s (F.TIM_CAP_STAT_WR k)))
      = bit01 rising := by
    rw [getF, hword, BitVec.toNat_ofNat]
    simp only [F.TIM_CAP_SLOT_TAG_RISE, bitsAt, Nat.shiftRight_zero]
    omega
  refine ⟨?_, ?_, ?_, ?_, ?_⟩
  · rw [hstat (F.TIM_CAP_STAT_SEQ k) rfl, getF_setF_other _ _ _ _ (show 0 + 2 ≤ 32 by decide)
      (.inr (.inr (show 0 + 2 ≤ 16 by decide))), getF_seq_counted]
  · rw [hstat _ rfl]
    exact getF_setF_same _ (F.TIM_CAP_STAT_WR k) _ (show 0 + 2 ≤ 32 by decide)
  · rw [captureEntered, getWords_setWords _ _ _ (by decide), Nat.add_mul_mod_self_left, Nat.mod_eq_of_lt (tripleOf_lt t)]
  · rw [flag, hrise]
    cases rising <;> rfl
  · rw [getF, show (F.TIM_CAP_SLOT_TAG_SEQ k (getF s (F.TIM_CAP_STAT_WR k))).key
        = (F.TIM_CAP_SLOT_TAG_RISE k (getF s (F.TIM_CAP_STAT_WR k))).key from rfl, hword, BitVec.toNat_ofNat]
    simp only [F.TIM_CAP_SLOT_TAG_SEQ, bitsAt, Nat.shiftRight_eq_div_pow]
    omega

/-- A capture outside a window, with its report or without. -/
theorem storeCapture_shows (hwin : flag s (F.TIM_CAP_CFG_WIN_EN k) = false) (t : Nat) (rising : Bool) :
    getF (storeCapture s k t rising) (F.TIM_CAP_STAT_SEQ k) = (getF s (F.TIM_CAP_STAT_SEQ k) + 1) % 2 ^ 16
      ∧ getF (storeCapture s k t rising) (F.TIM_CAP_STAT_WR k) = (getF s (F.TIM_CAP_STAT_WR k) + 1) % 4
      ∧ getWords (storeCapture s k t rising) (captureSlot k (getF s (F.TIM_CAP_STAT_WR k))) 3 = tripleOf t
      ∧ flag (storeCapture s k t rising) (F.TIM_CAP_SLOT_TAG_RISE k (getF s (F.TIM_CAP_STAT_WR k))) = rising
      ∧ getF (storeCapture s k t rising) (F.TIM_CAP_SLOT_TAG_SEQ k (getF s (F.TIM_CAP_STAT_WR k)))
        = (getF s (F.TIM_CAP_STAT_SEQ k) + 1) % 2 ^ 16
      ∧ (storeCapture s k t rising).time = s.time ∧ (storeCapture s k t rising).mem = s.mem := by
  obtain ⟨hseq, hwr, htime, hrise, hnumber⟩ := captureEntered_shows s k t rising
  have hentered : captureEntered s k t rising = { s with regs := (captureEntered s k t rising).regs } := by
    rw [captureEntered, setWords_frame]
    rfl
  have hword {w : Nat} (h : keyOf unitTIM 0 ≤ w) :
      regWord (storeCapture s k t rising) w = regWord (captureEntered s k t rising) w := by
    rw [storeCapture_of_noWindow hwin]
    exact regWord_captureNoted _ _ _ _ _ h
  have hstat : keyOf unitTIM 0 ≤ (F.TIM_CAP_STAT_WR k).key := Nat.le_add_right_of_le (by decide)
  have hslot (i : Nat) : keyOf unitTIM 0 ≤ captureSlot k i := by
    simp only [captureSlot, F.TIM_CAP_SLOT_TIME, keyOf, unitTIM]
    omega
  have htag (i : Nat) : keyOf unitTIM 0 ≤ (F.TIM_CAP_SLOT_TAG_RISE k i).key := by
    simp only [F.TIM_CAP_SLOT_TAG_RISE, keyOf, unitTIM]
    omega
  refine ⟨(getF_congr (f := F.TIM_CAP_STAT_SEQ k) (hword hstat)).trans hseq, (getF_congr (hword hstat)).trans hwr,
    (getWords_congr fun w hlo _ => hword ((hslot _).trans hlo)).trans htime,
    (flag_congr (getF_congr (hword (htag _)))).trans hrise,
    (getF_congr (f := F.TIM_CAP_SLOT_TAG_SEQ k _) (hword (htag _))).trans hnumber, ?_, ?_⟩
  · rw [storeCapture_of_noWindow hwin, captureNoted_frame, hentered]
  · rw [storeCapture_of_noWindow hwin, captureNoted_frame, hentered]

end

/-- Settles O47: a comparator is armed by its mode, a firing is the comparator's own and then its output, and a capture that
no window shuts out is entered in the next slot. -/
theorem triggersAndCaptures : Obligations.TriggersAndCaptures := by
  refine ⟨fun s k hl hk => ⟨fun hoff => ?disabled, fun hon hmode => ?oneShot, fun hon hmode => ?periodic,
      fun hon hmode => ?cycleRelative⟩,
    fun s k codes hk hdue => ⟨exec_triggerFire hk hdue codes, fun hout => ?noOutput, fun hout hlive hen hcount => ?capture,
      fun g hout hgio hg hlive => ?pin⟩, ?captures⟩
  case disabled =>
    refine ⟨_, (exec_triggerArm hl hk).trans (congrArg _ (armTrigger_of_disabled hoff)),
      flag_setFlag_same s _ false (show 0 + 1 ≤ 32 by decide) rfl, rfl,
      regsKept_setF (regsKept_refl _ s) List.mem_cons_self _, rfl⟩
  case oneShot => exact ⟨_, exec_triggerArm hl hk, armTrigger_oneShot_shows hon hmode⟩
  case periodic =>
    exact ⟨_, _, (exec_triggerArm hl hk).trans (congrArg _ (armTrigger_of_periodic hon hmode)),
      flag_armed_setFiring s k _, assoc_trgNext_setFiring _ k _, trgAfter_spec _ _ (trgStep_pos s k)⟩
  case cycleRelative =>
    exact ⟨_, (exec_triggerArm hl hk).trans (congrArg _ (armTrigger_of_cycleRelative hon hmode)),
      flag_armed_setFiring s k _, (assoc_trgNext_setFiring _ k _).trans (filter_cycleFiring s k)⟩
  case noOutput =>
    refine ⟨fired s k, ?_, fired_shows s k⟩
    rw [exec_triggerFire hk hdue, triggerOutput_of_none ((getF_out_fired s k).trans hout)]
  case capture =>
    refine ⟨_, exec_triggerFire hk hdue codes, ?_⟩
    have hcfg : getF (fired s k) F.PLZ_CAP_CFG_TRIG_COUNT = getF s F.PLZ_CAP_CFG_TRIG_COUNT := getF_fired_below s k (by decide)
    rw [triggerOutput_of_capture ((getF_out_fired s k).trans hout), getF_trigLeft_captureTrigger
      ((live_fired s k _).trans hlive) ((flag_congr (getF_fired_below s k (by decide))).trans hen) (hcfg ▸ hcount), hcfg]
  case pin =>
    refine ⟨_, exec_triggerFire hk hdue codes, ?_⟩
    have hcfg : getF (fired s k) (F.TIM_TRG_CFG_GIO k) = g := (getF_fired_apart s k
      (by simp [F.TIM_TRG_CFG_GIO, F.TIM_TRG_STAT_FIRED]) (by simp [F.TIM_TRG_CFG_GIO, F.TIM_TRG_MISSED_COUNT])).trans hgio
    have howner : flag (fired s k) (F.PIN_GIO_CFG_OWNER g) = flag s (F.PIN_GIO_CFG_OWNER g) :=
      flag_congr (getF_fired_pins s hk (Nat.le_add_right_of_le (by decide)))
    have hpins (i : Nat) : bitF (fired s k) (F.PIN_OUT_PINS (g / 32)) i = bitF s (F.PIN_OUT_PINS (g / 32)) i :=
      bitF_congr (getF_fired_pins s hk (Nat.le_add_right_of_le (by decide))) i
    rw [triggerOutput_of_pin (getF_out_fired s k) hout, hcfg, bitF_triggerPin _ ((live_fired s k _).trans hlive) hg,
      howner, hpins]
  case captures =>
    intro s k pad hl hk hen hsrc g rising t0 i
    have hexec := exec_captureEvent_gio hl hk hen hsrc pad
    refine ⟨fun hnone => hexec.trans (congrArg _ (if_neg fun h => ?_)),
      fun hg hedge hwin => ⟨_, hexec.trans (congrArg _ (if_pos ⟨hg, hedge⟩)), storeCapture_shows hwin t0 rising⟩,
      fun hg hedge hwin hclosed =>
        hexec.trans (congrArg _ ((if_pos ⟨hg, hedge⟩).trans (storeCapture_of_closed hwin hclosed rising)))⟩
    obtain ⟨hg, hedge⟩ := h
    exact hnone.elim (Nat.not_le.mpr hg) fun hnot => absurd (hedge.symm.trans hnot) (by decide)

end Sys2Proof.Machine

/-! # Proofs: frames admitted to Plaza's queues -/

namespace Sys2Proof.Machine

/-! ### References and cells (R140 to R142) -/

section
variable {s : State}

theorem queueRefs_setRefs (s : State) (q k : Nat) (l : List QRef) :
    queueRefs (setRefs s q l) k = if k = q then l else queueRefs s k := by
  simp only [queueRefs, setRefs, State.withPlaza, assoc_put]
  split <;> rfl

/-- Cells are written in window memory alone. -/
theorem writeCells_frame (s : State) (cs : List Nat) (bytes : List Byte) :
    writeCells s cs bytes = { s with mem := (writeCells s cs bytes).mem, flt := (writeCells s cs bytes).flt } := by
  induction cs generalizing s bytes with
  | nil => rfl
  | cons c cs ih =>
    rw [writeCells, ih]
    rfl

theorem memByte_writeCells_outside {cs : List Nat} (bytes : List Byte) {b : Nat}
    (h : ∀ c ∈ cs, b < cellAddr c ∨ cellAddr c + 256 ≤ b) : memByte (writeCells s cs bytes) b = memByte s b := by
  induction cs generalizing s bytes with
  | nil => rfl
  | cons c cs ih =>
    rw [writeCells, ih _ fun d hd => h d (List.mem_cons_of_mem c hd)]
    refine memByte_memWrite_outside s _ b _ ?_
    have hc := h c List.mem_cons_self
    have hlen := List.length_take_le 256 bytes
    omega

theorem internalHeader_length (f : PlzFrame) (refs : Nat) : (internalHeader f refs).length = 32 := by
  simp [internalHeader]

theorem writeHeader_frame (s : State) (f : PlzFrame) :
    writeHeader s f = { s with mem := (writeHeader s f).mem, flt := (writeHeader s f).flt } := by
  dsimp only [writeHeader]
  split
  · rfl
  · split <;> rfl

/-- The internal header stands in the frame's first cell. -/
theorem memByte_writeHeader_outside {f : PlzFrame} {b : Nat} (h : ∀ c ∈ f.cells, b < cellAddr c ∨ cellAddr c + 256 ≤ b) :
    memByte (writeHeader s f) b = memByte s b := by
  dsimp only [writeHeader]
  split
  case h_1 => rfl
  case h_2 c cs hcells =>
    split
    · rfl
    · refine memByte_memWrite_outside s _ b _ ?_
      have hc := h c (hcells ▸ List.mem_cons_self)
      rw [internalHeader_length]
      omega

theorem pickCells_length_le (s : State) (n : Nat) : (pickCells s n).length ≤ n := List.length_take_le _ _

/-- The cells picked are held by no frame. -/
theorem pickCells_free {n c : Nat} (hc : c ∈ pickCells s n) {g : PlzFrame} (hg : g ∈ s.plaza.frames) : c ∉ g.cells := by
  intro hheld
  have hused := (List.mem_filter.1 (List.mem_of_mem_take hc)).2
  simp only [Bool.not_eq_true', List.contains_eq_mem, decide_eq_false_iff_not] at hused
  exact hused (List.mem_flatMap_of_mem hg hheld)

/-! ### Drops (R153) -/

/-- The registers that tell of a drop. -/
def dropKeys (q reason : Nat) : List Nat :=
  [(dropCounter reason).key, (F.PLZ_Q_DROP_COUNT q).key, (F.PLZ_Q_DEPTH_LAST_REASON q).key]

/-- A drop as its registers show it. -/
def dropShown (s : State) (q reason : Nat) : State :=
  setF (incF (incF s (dropCounter reason)) (F.PLZ_Q_DROP_COUNT q)) (F.PLZ_Q_DEPTH_LAST_REASON q) reason

theorem State.withPlaza_self (s : State) : s = s.withPlaza s.plaza := rfl

@[simp] theorem regWord_withPlaza (s : State) (x : Plaza) (k : Nat) : regWord (s.withPlaza x) k = regWord s k := rfl

/-- Beside its registers a drop leaves at most a note of it for R149. -/
theorem dropAt_eq (s : State) (q cls reason : Nat) :
    ∃ drops, dropAt s q cls reason = (dropShown s q reason).withPlaza { s.plaza with poolDrops := drops } := by
  by_cases h : reason = 1
  · exact ⟨_, if_pos h⟩
  · exact ⟨s.plaza.poolDrops, (if_neg h).trans (State.withPlaza_self _)⟩

theorem regWord_dropAt (s : State) (q cls reason k : Nat) :
    regWord (dropAt s q cls reason) k = regWord (dropShown s q reason) k := by
  obtain ⟨drops, hdrops⟩ := dropAt_eq s q cls reason
  rw [hdrops]
  exact regWord_withPlaza _ _ k

/-- A drop leaves the stored frames, the queues and window memory. -/
theorem dropAt_shows (s : State) (q cls reason : Nat) :
    (dropAt s q cls reason).plaza.frames = s.plaza.frames ∧ (dropAt s q cls reason).plaza.queues = s.plaza.queues
      ∧ (dropAt s q cls reason).plaza.nextFid = s.plaza.nextFid ∧ (dropAt s q cls reason).mem = s.mem := by
  obtain ⟨drops, hdrops⟩ := dropAt_eq s q cls reason
  rw [hdrops]
  exact ⟨rfl, rfl, rfl, rfl⟩

theorem regsKept_dropAt (s : State) (q cls reason : Nat) : regsKept (dropKeys q reason) s (dropAt s q cls reason) := by
  intro k hk
  rw [regWord_dropAt]
  exact regsKept_setF (regsKept_setF (regsKept_setF (regsKept_refl _ s) (by simp [dropKeys]) _) (by simp [dropKeys]) _)
    (by simp [dropKeys]) _ k hk

/-- The counter of a drop reason lies below the registers of the queues. -/
theorem dropKeys_ne (q : Nat) {reason : Nat} (hr : reason < 16) :
    (dropCounter reason).key ≠ (F.PLZ_Q_DROP_COUNT q).key ∧ (dropCounter reason).key ≠ (F.PLZ_Q_DEPTH_LAST_REASON q).key
      ∧ (F.PLZ_Q_DROP_COUNT q).key ≠ (F.PLZ_Q_DEPTH_LAST_REASON q).key := by
  simp only [dropCounter, F.PLZ_DROP_POOL_COUNT, F.PLZ_Q_DROP_COUNT, F.PLZ_Q_DEPTH_LAST_REASON]
  omega

/-- A drop is counted for its reason and at its queue, which keeps the reason. -/
theorem dropAt_counts (s : State) (q cls : Nat) {reason : Nat} (hr : reason < 16) :
    getF (dropAt s q cls reason) (dropCounter reason) = (getF s (dropCounter reason) + 1) % 2 ^ 32
      ∧ getF (dropAt s q cls reason) (F.PLZ_Q_DROP_COUNT q) = (getF s (F.PLZ_Q_DROP_COUNT q) + 1) % 2 ^ 32
      ∧ getF (dropAt s q cls reason) (F.PLZ_Q_DEPTH_LAST_REASON q) = reason := by
  obtain ⟨hcount, hlast, hqueue⟩ := dropKeys_ne q hr
  have hshown (f : Fld) : getF (dropAt s q cls reason) f = getF (dropShown s q reason) f :=
    getF_congr (regWord_dropAt s q cls reason f.key)
  refine ⟨?_, ?_, ?_⟩
  · rw [hshown, dropShown, getF_setF_apart _ _ hlast, getF_incF_apart _ hcount]
    exact getF_incF_same s (show 0 + 32 ≤ 32 by decide)
  · rw [hshown, dropShown, getF_setF_apart _ _ hqueue, getF_incF_same _ (show 0 + 32 ≤ 32 by decide),
      getF_incF_apart _ hcount.symm]
    rfl
  · rw [hshown]
    exact getF_setF_of_lt _ (show 17 + 4 ≤ 32 by decide) hr

/-! ### A frame stored (R141, R142, R148, R151) -/

/-- The cells that a frame needs. -/
def cellsOf (f : PlzFrame) : Nat := cellsFor (storedBytes f.body).length

/-- Frame `f` as the queue `q` that takes it first stores it: in free cells, and marked as R151 says. -/
def storedFrame (s : State) (f : PlzFrame) (q : Nat) : PlzFrame :=
  { f with cells := pickCells s (cellsOf f), cm := f.cm || marksAt s q f.cls }

theorem offerQueue_of_reason {f : PlzFrame} {x : Target} {reason : Nat} (h : offerReason s f x = reason) (hr : reason ≠ 0) :
    offerQueue s f x = dropAt s x.queue f.cls reason := by
  rw [offerQueue, h]
  exact if_pos hr

theorem offerQueue_of_new {f : PlzFrame} {x : Target} (hnew : frameOf s f.fid = none) (h : offerReason s f x = 0) :
    offerQueue s f x = if marksAt s x.queue f.cls then markFrame (storeFrame s f x) x.queue f.fid else storeFrame s f x := by
  rw [offerQueue, h, hnew]
  rfl

theorem storeFrame_plaza (s : State) (f : PlzFrame) (x : Target) : (storeFrame s f x).plaza
    = { s.plaza with
        frames := s.plaza.frames ++ [{ f with cells := pickCells s (cellsOf f) }]
        queues := put x.queue (queueRefs s x.queue ++ [⟨f.fid, cellsOf f, x.shadow, x.wrapped, x.hdr⟩]) s.plaza.queues } := by
  unfold storeFrame
  dsimp only
  rw [writeCells_frame]
  rfl

theorem regWord_storeFrame (s : State) (f : PlzFrame) (x : Target) (k : Nat) :
    regWord (storeFrame s f x) k = regWord s k := by
  unfold storeFrame
  dsimp only
  rw [writeCells_frame]
  rfl

theorem memByte_storeFrame_outside {f : PlzFrame} (x : Target) {b : Nat}
    (h : ∀ c ∈ pickCells s (cellsOf f), b < cellAddr c ∨ cellAddr c + 256 ≤ b) :
    memByte (storeFrame s f x) b = memByte s b := memByte_writeCells_outside _ h

theorem frameOf_congr {s t : State} (h : t.plaza.frames = s.plaza.frames) (fid : Nat) : frameOf t fid = frameOf s fid := by
  rw [frameOf, h, frameOf]

theorem ne_of_frameOf_none {fid : Nat} (hnew : frameOf s fid = none) {g : PlzFrame} (hg : g ∈ s.plaza.frames) :
    g.fid ≠ fid := by
  simpa using List.find?_eq_none.1 hnew g hg

/-- A frame taken under a number not in use joins the stored frames, as its queue marks it. -/
theorem frames_offerQueue_of_new {f : PlzFrame} {x : Target} (hnew : frameOf s f.fid = none)
    (h : offerReason s f x = 0) (hcm : f.cm = false) :
    (offerQueue s f x).plaza.frames = s.plaza.frames ++ [storedFrame s f x.queue] := by
  rw [offerQueue_of_new hnew h]
  cases hmarks : marksAt s x.queue f.cls with
  | true =>
    have hold : s.plaza.frames.map (fun g => if g.fid = f.fid then { g with cm := true } else g) = s.plaza.frames :=
      (List.map_congr_left fun g hg => if_neg (ne_of_frameOf_none hnew hg)).trans (List.map_id' _)
    have hmarked : (markFrame (storeFrame s f x) x.queue f.fid).plaza.frames
        = (storeFrame s f x).plaza.frames.map (fun g => if g.fid = f.fid then { g with cm := true } else g) := rfl
    rw [if_pos rfl, hmarked, storeFrame_plaza, List.map_append, hold]
    simp [storedFrame, hmarks]
  | false =>
    rw [if_neg (by decide), storeFrame_plaza]
    simp [storedFrame, hmarks, hcm]

@[simp] theorem markFrame_mem (s : State) (q fid : Nat) : (markFrame s q fid).mem = s.mem := rfl
@[simp] theorem markFrame_queues (s : State) (q fid : Nat) : (markFrame s q fid).plaza.queues = s.plaza.queues := rfl

theorem queueRefs_congr {s t : State} (h : t.plaza.queues = s.plaza.queues) (k : Nat) : queueRefs t k = queueRefs s k := by
  rw [queueRefs, h, queueRefs]

theorem queueRefs_offerQueue_of_new {f : PlzFrame} {x : Target} (hnew : frameOf s f.fid = none)
    (h : offerReason s f x = 0) (k : Nat) : queueRefs (offerQueue s f x) k
      = if k = x.queue then queueRefs s x.queue ++ [⟨f.fid, cellsOf f, x.shadow, x.wrapped, x.hdr⟩] else queueRefs s k := by
  have hstored : queueRefs (offerQueue s f x) k = queueRefs (storeFrame s f x) k := by
    rw [offerQueue_of_new hnew h]
    split
    · exact queueRefs_congr (markFrame_queues _ _ _) k
    · rfl
  rw [hstored, queueRefs, storeFrame_plaza, assoc_put]
  split <;> rfl

/-- The registers that tell of a mark. -/
def markKeys (q : Nat) : List Nat := [F.PLZ_MARKED_COUNT.key, (F.PLZ_Q_MARK_COUNT q).key]

theorem regsKept_offerQueue_of_new {f : PlzFrame} {x : Target} (hnew : frameOf s f.fid = none)
    (h : offerReason s f x = 0) : regsKept (markKeys x.queue) s (offerQueue s f x) := by
  have hstored : regsKept (markKeys x.queue) s (storeFrame s f x) := fun k _ => regWord_storeFrame s f x k
  rw [offerQueue_of_new hnew h]
  split
  · intro k hk
    refine (regWord_withPlaza _ _ k).trans ?_
    exact regsKept_setF (f := F.PLZ_Q_MARK_COUNT x.queue)
      (regsKept_setF (f := F.PLZ_MARKED_COUNT) hstored (by simp [markKeys]) _) (by simp [markKeys]) _ k hk
  · exact hstored

theorem memByte_offerQueue_outside {f : PlzFrame} {x : Target} (hnew : frameOf s f.fid = none)
    (h : offerReason s f x = 0) {b : Nat} (hb : ∀ c ∈ pickCells s (cellsOf f), b < cellAddr c ∨ cellAddr c + 256 ≤ b) :
    memByte (offerQueue s f x) b = memByte s b := by
  rw [offerQueue_of_new hnew h]
  split
  · exact (memByte_congr (markFrame_mem _ _ _) b).trans (memByte_storeFrame_outside x hb)
  · exact memByte_storeFrame_outside x hb

/-! ### A frame offered to one queue (R141) -/

/-- The frame number taken. -/
def numbered (s : State) : State := s.withPlaza { s.plaza with nextFid := s.plaza.nextFid + 1 }

/-- Frame `f` with the next frame number, on its way to queue `q` alone. -/
def bound (s : State) (f : PlzFrame) (q : Nat) : PlzFrame :=
  { f with fid := s.plaza.nextFid, ct := eligibleEarly s f.inPort (queuePort s q), outPort := queuePort s q }

/-- What follows when frame `f` has been offered: the header of a stored frame is brought up to date, the decision is
captured, and the port's flow control is looked after. -/
def settled (s : State) (f : PlzFrame) (d : Decision) : State :=
  let s := match frameOf s f.fid with
    | some g => writeHeader s g
    | none => s
  pauseCheck (captureFrame s ((frameOf s f.fid).getD f) [d]) f.inPort

theorem settled_of_lost {f : PlzFrame} (h : frameOf s f.fid = none) (d : Decision) :
    settled s f d = pauseCheck (captureFrame s f [d]) f.inPort := by
  simp only [settled, h, Option.getD_none]

theorem frameOf_writeHeader (s : State) (f : PlzFrame) (fid : Nat) : frameOf (writeHeader s f) fid = frameOf s fid := by
  refine frameOf_congr ?_ fid
  rw [writeHeader_frame]

theorem settled_of_stored {f g : PlzFrame} (h : frameOf s f.fid = some g) (d : Decision) :
    settled s f d = pauseCheck (captureFrame (writeHeader s g) g [d]) f.inPort := by
  simp only [settled, h, frameOf_writeHeader, Option.getD_some]

theorem storeAndOffer_single (s : State) (f : PlzFrame) (x : Target) : storeAndOffer s f [x]
    = settled (offerQueue (numbered s) (bound s f x.queue) x) (bound s f x.queue)
        (x.queue, queueDepth s x.queue, offerReason (numbered s) (bound s f x.queue) x) := by
  have hearly : [x].any (fun t => eligibleEarly s f.inPort (queuePort s t.queue))
      = eligibleEarly s f.inPort (queuePort s x.queue) := by
    rw [List.any_cons, List.any_nil, Bool.or_false]
  unfold storeAndOffer
  rw [hearly]
  rfl

/-! ### FRAME_ADMIT -/

/-- The class of a frame admitted to a queue. -/
def admitClass (s : State) (q : Nat) : Nat := if q < 832 then q % 8 else getF s (F.PLZ_SQ_CFG_CLASS (q - 832))

/-- The frame that FRAME_ADMIT offers to its queue. -/
def admittedFrame (s : State) (q inPort : Nat) (bs : List Byte) : PlzFrame :=
  bound s (newFrame s (.eth bs) inPort (admitClass s q) 0 0 false) q

/-- The queue to which FRAME_ADMIT offers its frame. -/
def admitTarget (s : State) (q : Nat) : Target := plainTarget q (decide (queuePort s q < 96)) 0

/-- The queue that FRAME_ADMIT names, with the frame offered. -/
def admitOffered (s : State) (q inPort : Nat) (bs : List Byte) : State :=
  offerQueue (numbered s) (admittedFrame s q inPort bs) (admitTarget s q)

section
variable {q inPort : Nat} {bs : List Byte}

theorem exec_frameAdmit (hl : live s unitPLZ = true) (hq : q < 1024) (hp : inPort < 104) {reason : Nat}
    (hreason : offerReason (numbered s) (admittedFrame s q inPort bs) (admitTarget s q) = reason) :
    exec (.frameAdmit q inPort bs) s
      = .next (settled (admitOffered s q inPort bs) (admittedFrame s q inPort bs) (q, queueDepth s q, reason)) := by
  have hoffer : execFrameAdmit q inPort bs s = .next (storeAndOffer s
      (newFrame s (.eth bs) inPort (admitClass s q) 0 0 false) [admitTarget s q]) :=
    congrArg Host.Outcome.next ((if_pos ⟨hl, hq, hp⟩).trans (if_pos hl))
  refine hoffer.trans ?_
  rw [storeAndOffer_single, ← hreason]
  rfl

/-- R148, and no cells for a frame that is not stored yet. -/
theorem offerReason_admitted (hnew : frameOf s s.plaza.nextFid = none) :
    offerReason (numbered s) (admittedFrame s q inPort bs) (admitTarget s q)
      = if admitReason s q (admitClass s q) = 0 ∧ cellsFit s q (admitClass s q) (cellsFor bs.length) = false then 2
        else admitReason s q (admitClass s q) := by
  have hfree : frameOf (numbered s) (admittedFrame s q inPort bs).fid = none := hnew
  rw [offerReason, hfree]
  simp only [true_and]
  rfl

theorem offerReason_admitted_lost (hnew : frameOf s s.plaza.nextFid = none)
    (h : admitReason s q (admitClass s q) ≠ 0 ∨ cellsFit s q (admitClass s q) (cellsFor bs.length) = false) :
    offerReason (numbered s) (admittedFrame s q inPort bs) (admitTarget s q)
      = if admitReason s q (admitClass s q) ≠ 0 then admitReason s q (admitClass s q) else 2 := by
  rw [offerReason_admitted hnew]
  by_cases hr : admitReason s q (admitClass s q) = 0
  · rw [if_pos ⟨hr, h.resolve_left (not_not.mpr hr)⟩, if_neg (not_not.mpr hr)]
  · rw [if_neg fun hboth => hr hboth.1, if_pos hr]

theorem offerReason_admitted_taken (hnew : frameOf s s.plaza.nextFid = none) (hr : admitReason s q (admitClass s q) = 0)
    (hfit : cellsFit s q (admitClass s q) (cellsFor bs.length) = true) :
    offerReason (numbered s) (admittedFrame s q inPort bs) (admitTarget s q) = 0 := by
  rw [offerReason_admitted hnew, if_neg (by simp [hfit]), hr]

/-- A frame that its queue loses is counted there and captured. -/
theorem frameAdmit_lost (hl : live s unitPLZ = true) (hq : q < 1024) (hp : inPort < 104)
    (hnew : frameOf s s.plaza.nextFid = none) {d : Nat} (hd0 : d ≠ 0) (hd : d < 16)
    (hreason : offerReason (numbered s) (admittedFrame s q inPort bs) (admitTarget s q) = d) :
    ∃ u : State, exec (.frameAdmit q inPort bs) s
        = .next (pauseCheck (captureFrame u (admittedFrame s q inPort bs) [(q, queueDepth s q, d)]) inPort)
      ∧ regsKept [(dropCounter d).key, (F.PLZ_Q_DROP_COUNT q).key, (F.PLZ_Q_DEPTH_LAST_REASON q).key] s u ∧ memKept s u
      ∧ u.plaza.frames = s.plaza.frames ∧ u.plaza.queues = s.plaza.queues ∧ u.plaza.nextFid = s.plaza.nextFid + 1
      ∧ getF u (dropCounter d) = (getF s (dropCounter d) + 1) % 2 ^ 32
      ∧ getF u (F.PLZ_Q_DROP_COUNT q) = (getF s (F.PLZ_Q_DROP_COUNT q) + 1) % 2 ^ 32
      ∧ getF u (F.PLZ_Q_DEPTH_LAST_REASON q) = d := by
  have hlost : admitOffered s q inPort bs = dropAt (numbered s) q (admitClass s q) d := offerQueue_of_reason hreason hd0
  obtain ⟨hframes, hqueues, hnext, hmem⟩ := dropAt_shows (numbered s) q (admitClass s q) d
  have hgone : frameOf (dropAt (numbered s) q (admitClass s q) d) (admittedFrame s q inPort bs).fid = none :=
    (frameOf_congr hframes _).trans hnew
  refine ⟨dropAt (numbered s) q (admitClass s q) d, ?_, regsKept_dropAt (numbered s) q (admitClass s q) d,
    memKept_of_mem hmem, hframes, hqueues, hnext, dropAt_counts (numbered s) q (admitClass s q) hd⟩
  rw [exec_frameAdmit hl hq hp hreason, hlost, settled_of_lost hgone]
  rfl

/-- A frame that its queue takes is stored in cells that no frame holds, and the queue refers to it. -/
theorem frameAdmit_taken (hl : live s unitPLZ = true) (hq : q < 1024) (hp : inPort < 104)
    (hnew : frameOf s s.plaza.nextFid = none)
    (hreason : offerReason (numbered s) (admittedFrame s q inPort bs) (admitTarget s q) = 0) :
    ∃ (u : State) (f : PlzFrame),
      exec (.frameAdmit q inPort bs) s = .next (pauseCheck (captureFrame u f [(q, queueDepth s q, 0)]) inPort)
      ∧ u.plaza.frames = s.plaza.frames ++ [f] ∧ f.fid = s.plaza.nextFid ∧ f.body = .eth bs ∧ f.inPort = inPort
      ∧ f.cls = admitClass s q ∧ f.cm = marksAt s q (admitClass s q) ∧ f.cells.length ≤ cellsFor bs.length
      ∧ (∀ c ∈ f.cells, ∀ h ∈ s.plaza.frames, c ∉ h.cells)
      ∧ queueRefs u q
        = queueRefs s q ++ [⟨f.fid, cellsFor bs.length, decide (queuePort s q < 96), false, none⟩]
      ∧ (∀ k, k ≠ q → queueRefs u k = queueRefs s k)
      ∧ regsKept [F.PLZ_MARKED_COUNT.key, (F.PLZ_Q_MARK_COUNT q).key] s u
      ∧ ∀ b, (∀ c ∈ f.cells, b < cellAddr c ∨ cellAddr c + 256 ≤ b) → memByte u b = memByte s b := by
  have hfree : frameOf (numbered s) (admittedFrame s q inPort bs).fid = none := hnew
  have hframes := frames_offerQueue_of_new hfree hreason rfl
  have hrefs := queueRefs_offerQueue_of_new hfree hreason
  have hfound : frameOf (admitOffered s q inPort bs) (admittedFrame s q inPort bs).fid
      = some (storedFrame (numbered s) (admittedFrame s q inPort bs) q) := by
    rw [frameOf, admitOffered, hframes, List.find?_append, ← frameOf, hfree, Option.none_or, List.find?_cons_of_pos]
    · rfl
    · exact decide_eq_true rfl
  have hplaza : (writeHeader (admitOffered s q inPort bs)
      (storedFrame (numbered s) (admittedFrame s q inPort bs) q)).plaza = (admitOffered s q inPort bs).plaza := by
    rw [writeHeader_frame]
  refine ⟨writeHeader (admitOffered s q inPort bs) (storedFrame (numbered s) (admittedFrame s q inPort bs) q),
    storedFrame (numbered s) (admittedFrame s q inPort bs) q, ?_, ?_, rfl, rfl, rfl, rfl, ?_,
    pickCells_length_le _ _, fun c hc g hg => pickCells_free hc (s := numbered s) hg, ?_, fun k hk => ?_, fun k hk => ?_,
    fun b hb => ?_⟩
  · rw [exec_frameAdmit hl hq hp hreason, settled_of_stored hfound]
    rfl
  · rw [hplaza]
    exact hframes
  · exact Bool.false_or _
  · rw [queueRefs, hplaza]
    exact (hrefs q).trans (if_pos rfl)
  · rw [queueRefs, hplaza]
    exact (hrefs k).trans (if_neg hk)
  · rw [writeHeader_frame]
    exact regsKept_offerQueue_of_new hfree hreason k hk
  · rw [memByte_writeHeader_outside hb]
    exact memByte_offerQueue_outside hfree hreason hb

end

end

end Sys2Proof.Machine

/-! # Proofs: frames received on access ports, and received pauses -/

namespace Sys2Proof.Machine

/-! ### Counts -/

/-- From `s` to `u` only registers of `ks` change. -/
structure RegsOnly (ks : List Nat) (s u : State) : Prop where
  frame : u = { s with regs := u.regs }
  kept : regsKept ks s u

section
variable {ks : List Nat} {s u : State} {f : Fld}

protected theorem RegsOnly.refl (s : State) : RegsOnly ks s s := ⟨rfl, regsKept_refl ks s⟩

protected theorem RegsOnly.setF (h : RegsOnly ks s u) (hf : f.key ∈ ks) (n : Nat) : RegsOnly ks s (setF u f n) :=
  ⟨by rw [setF_frame, h.frame], regsKept_setF h.kept hf n⟩

protected theorem RegsOnly.incF (h : RegsOnly ks s u) (hf : f.key ∈ ks) : RegsOnly ks s (incF u f) := h.setF hf _

protected theorem RegsOnly.incFWhen (h : RegsOnly ks s u) (hf : f.key ∈ ks) (c : Bool) :
    RegsOnly ks s (if c then incF u f else u) := by
  split
  · exact h.incF hf
  · exact h

protected theorem RegsOnly.mem (h : RegsOnly ks s u) : u.mem = s.mem := by rw [h.frame]
protected theorem RegsOnly.plaza (h : RegsOnly ks s u) : u.plaza = s.plaza := by rw [h.frame]
protected theorem RegsOnly.mono (h : RegsOnly ks s u) : u.mono = s.mono := by rw [h.frame]
protected theorem RegsOnly.outs (h : RegsOnly ks s u) : u.outs = s.outs := by rw [h.frame]
protected theorem RegsOnly.memKept (h : RegsOnly ks s u) : memKept s u := memKept_of_mem h.mem

protected theorem RegsOnly.getF (h : RegsOnly ks s u) (hf : f.key ∉ ks) : getF u f = getF s f :=
  getF_of_regsKept h.kept hf

/-- Registers beside those that tell of resets and fences leave the units running. -/
protected theorem RegsOnly.live (h : RegsOnly ks s u) (hks : ∀ k ∈ ks, 0x118 ≤ k) (n : Nat) : live u n = live s n := by
  refine live_of_around ⟨?_, ?_, ?_, ?_, fun k hk => h.kept k fun hmem => Nat.not_le.2 hk (hks k hmem)⟩ n
  all_goals rw [h.frame]

/-- A counter raised where a condition holds. -/
theorem getF_incFWhen (s : State) (hf : f.lo + f.width ≤ 32) (c : Bool) :
    getF (if c then incF s f else s) f = (getF s f + bit01 c) % 2 ^ f.width := by
  cases c with
  | true => exact getF_incF_same s hf
  | false => exact (Nat.mod_eq_of_lt (getF_lt s f)).symm

/-! ### The class of a frame received (R157) -/

/-- The class, the VLAN and the refusal of a frame follow from two of its port's registers and from window memory. -/
theorem classifyAccess_of_regsOnly (h : RegsOnly ks s u) {p : Nat} (hvlan : (F.ACC_MAC_VLAN_PVID p).key ∉ ks)
    (hmap : (F.ACC_MAC_PCPMAP_MAP p).key ∉ ks) (tag : Option (Nat × Nat)) :
    classifyAccess u p tag = classifyAccess s p tag := by
  have hmember (vid : Nat) : vlanMember u vid p = vlanMember s vid p := by
    rw [h.frame]
    rfl
  have hpvid : getF u (F.ACC_MAC_VLAN_PVID p) = getF s (F.ACC_MAC_VLAN_PVID p) := h.getF hvlan
  have hpcp : getF u (F.ACC_MAC_VLAN_DEF_PCP p) = getF s (F.ACC_MAC_VLAN_DEF_PCP p) := h.getF hvlan
  have htagged : flag u (F.ACC_MAC_VLAN_ACCEPT_TAGGED p) = flag s (F.ACC_MAC_VLAN_ACCEPT_TAGGED p) :=
    flag_congr (h.getF hvlan)
  have huntagged : flag u (F.ACC_MAC_VLAN_ACCEPT_UNTAGGED p) = flag s (F.ACC_MAC_VLAN_ACCEPT_UNTAGGED p) :=
    flag_congr (h.getF hvlan)
  have hfilter : flag u (F.ACC_MAC_VLAN_INGRESS_FILTER p) = flag s (F.ACC_MAC_VLAN_INGRESS_FILTER p) :=
    flag_congr (h.getF hvlan)
  simp only [classifyAccess, hpvid, hpcp, htagged, huntagged, hfilter, h.getF hmap, hmember]

/-- A port that takes no untagged frames refuses one. -/
theorem refused_of_untagged {p : Nat} (h : flag s (F.ACC_MAC_VLAN_ACCEPT_UNTAGGED p) = false) :
    (classifyAccess s p none).refused = true := by
  simp [classifyAccess, h]

theorem splitTag_length_le (bs : List Byte) : (splitTag bs).2.length ≤ bs.length := by
  unfold splitTag
  split
  · simp only [List.length_append, List.length_take, List.length_drop]
    omega
  · exact Nat.le_refl _

end

/-! ### Bad frames (R143, R153, R172) -/

section
variable {s : State} {p codeErrs : Nat} {bs : List Byte}

/-- The errors of the lane's code counted (R108). -/
def laneCounted (s : State) (p codeErrs : Nat) : State := addF s (F.ACC_LANE_ERR_COUNT (p / 4)) codeErrs

theorem maxLen_laneCounted (s : State) (p codeErrs : Nat) : maxLen (laneCounted s p codeErrs) p = maxLen s p := by
  rw [maxLen, laneCounted, addF, getF_setF_apart, maxLen]
  simp only [F.ACC_MAC_CFG_MAX_LEN, F.ACC_LANE_ERR_COUNT]
  omega

/-- Whether a frame's length is one that its port does not take. -/
def badLength (s : State) (p : Nat) (bs : List Byte) : Bool := decide (bs.length + 4 < 64 ∨ maxLen s p < bs.length + 4)

/-- What the MAC counts of a bad frame: its length, or else its FCS. -/
def badCounted (s : State) (p codeErrs : Nat) (len fcsOk : Bool) : State :=
  let s := laneCounted s p codeErrs
  let s := if len then incF s (F.ACC_MAC_RX_LEN_ERR_COUNT p) else s
  if !len && !fcsOk then incF s (F.ACC_MAC_RX_FCS_ERR_COUNT p) else s

/-- The registers in which a bad frame is counted. -/
def badKeys (p : Nat) : List Nat := [(F.ACC_MAC_RX_LEN_ERR_COUNT p).key, (F.ACC_MAC_RX_FCS_ERR_COUNT p).key,
  (dropCounter 6).key, (F.ACC_LANE_ERR_COUNT (p / 4)).key]

theorem badCounted_regsOnly (s : State) (p codeErrs : Nat) (len fcsOk : Bool) :
    RegsOnly (badKeys p) s (badCounted s p codeErrs len fcsOk) := by
  have hlane : RegsOnly (badKeys p) s (laneCounted s p codeErrs) := (RegsOnly.refl s).setF (by simp [badKeys]) _
  exact (hlane.incFWhen (f := F.ACC_MAC_RX_LEN_ERR_COUNT p) (by simp [badKeys]) len).incFWhen
    (f := F.ACC_MAC_RX_FCS_ERR_COUNT p) (by simp [badKeys]) (!len && !fcsOk)

theorem le_of_mem_badKeys {k : Nat} (h : k ∈ badKeys p) : 0x118 ≤ k := by
  simp only [badKeys, F.ACC_MAC_RX_LEN_ERR_COUNT, F.ACC_MAC_RX_FCS_ERR_COUNT, dropCounter, F.PLZ_DROP_POOL_COUNT,
    F.ACC_LANE_ERR_COUNT, List.mem_cons, List.not_mem_nil, or_false] at h
  omega

theorem classifyAccess_badCounted (s : State) (p codeErrs : Nat) (len fcsOk : Bool) (tag : Option (Nat × Nat)) :
    classifyAccess (badCounted s p codeErrs len fcsOk) p tag = classifyAccess s p tag := by
  refine classifyAccess_of_regsOnly (badCounted_regsOnly s p codeErrs len fcsOk) ?_ ?_ tag
  all_goals
    simp only [badKeys, F.ACC_MAC_VLAN_PVID, F.ACC_MAC_PCPMAP_MAP, F.ACC_MAC_RX_LEN_ERR_COUNT, F.ACC_MAC_RX_FCS_ERR_COUNT,
      dropCounter, F.PLZ_DROP_POOL_COUNT, F.ACC_LANE_ERR_COUNT, List.mem_cons, List.not_mem_nil, or_false]
    omega

/-- A bad frame in its four counters. -/
theorem dropIngress_badCounted_counts (s : State) (p codeErrs : Nat) (len fcsOk : Bool) :
    let u := dropIngress (badCounted s p codeErrs len fcsOk) 6
    getF u (F.ACC_MAC_RX_LEN_ERR_COUNT p) = (getF s (F.ACC_MAC_RX_LEN_ERR_COUNT p) + bit01 len) % 2 ^ 32
      ∧ getF u (F.ACC_MAC_RX_FCS_ERR_COUNT p) = (getF s (F.ACC_MAC_RX_FCS_ERR_COUNT p) + bit01 (!len && !fcsOk)) % 2 ^ 32
      ∧ getF u (dropCounter 6) = (getF s (dropCounter 6) + 1) % 2 ^ 32
      ∧ getF u (F.ACC_LANE_ERR_COUNT (p / 4)) = (getF s (F.ACC_LANE_ERR_COUNT (p / 4)) + codeErrs) % 2 ^ 32 := by
  have hlenFcs : (F.ACC_MAC_RX_LEN_ERR_COUNT p).key ≠ (F.ACC_MAC_RX_FCS_ERR_COUNT p).key := by
    simp only [F.ACC_MAC_RX_LEN_ERR_COUNT, F.ACC_MAC_RX_FCS_ERR_COUNT]
    omega
  have hlane {n : Nat} : (F.ACC_LANE_ERR_COUNT n).key ≠ (dropCounter 6).key := by
    simp only [F.ACC_LANE_ERR_COUNT, dropCounter, F.PLZ_DROP_POOL_COUNT]
    omega
  have hlaneLen : (F.ACC_LANE_ERR_COUNT (p / 4)).key ≠ (F.ACC_MAC_RX_LEN_ERR_COUNT p).key := by
    simp only [F.ACC_LANE_ERR_COUNT, F.ACC_MAC_RX_LEN_ERR_COUNT]
    omega
  have hlaneFcs : (F.ACC_LANE_ERR_COUNT (p / 4)).key ≠ (F.ACC_MAC_RX_FCS_ERR_COUNT p).key := by
    simp only [F.ACC_LANE_ERR_COUNT, F.ACC_MAC_RX_FCS_ERR_COUNT]
    omega
  have hdropLen : (F.ACC_MAC_RX_LEN_ERR_COUNT p).key ≠ (dropCounter 6).key := by
    simp only [F.ACC_MAC_RX_LEN_ERR_COUNT, dropCounter, F.PLZ_DROP_POOL_COUNT]
    omega
  have hdropFcs : (F.ACC_MAC_RX_FCS_ERR_COUNT p).key ≠ (dropCounter 6).key := by
    simp only [F.ACC_MAC_RX_FCS_ERR_COUNT, dropCounter, F.PLZ_DROP_POOL_COUNT]
    omega
  simp only [dropIngress, badCounted]
  refine ⟨?_, ?_, ?_, ?_⟩
  · rw [getF_incF_apart _ hdropLen, getF_ite_incF_apart _ _ hlenFcs, getF_incFWhen _ (show 0 + 32 ≤ 32 by decide),
      laneCounted, addF, getF_setF_apart _ _ hlaneLen.symm]
    rfl
  · rw [getF_incF_apart _ hdropFcs, getF_incFWhen _ (show 0 + 32 ≤ 32 by decide), getF_ite_incF_apart _ _ hlenFcs.symm,
      laneCounted, addF, getF_setF_apart _ _ hlaneFcs.symm]
    rfl
  · rw [getF_incF_same _ (show 0 + 32 ≤ 32 by decide), getF_ite_incF_apart _ _ hdropFcs.symm,
      getF_ite_incF_apart _ _ hdropLen.symm, laneCounted, addF, getF_setF_apart _ _ hlane.symm]
    rfl
  · rw [getF_incF_apart _ hlane, getF_ite_incF_apart _ _ hlaneFcs, getF_ite_incF_apart _ _ hlaneLen]
    exact getF_setF_same s _ _ (show 0 + 32 ≤ 32 by decide)

/-- A frame as its access port takes it, without its tag. -/
def accessFrame (s : State) (p : Nat) (bs : List Byte) : PlzFrame :=
  newFrame s (.eth (splitTag bs).2) p (classifyAccess s p (splitTag bs).1).cls (classifyAccess s p (splitTag bs).1).vid 0 false

theorem badAccess_eq (hl : live s unitPLZ = true) : badAccess s p bs
    = loseFrame s (accessFrame s p bs) (accessPlaces (accessFrame s p bs) (splitTag bs).2
        (classifyAccess s p (splitTag bs).1).refused) := if_pos hl

/-- Finding the places of a frame leaves its bytes. -/
theorem accessPlaces_body (f : PlzFrame) (bs : List Byte) (refused : Bool) (s : State) :
    (accessPlaces f bs refused s).1.1.body = f.body := by
  unfold accessPlaces
  split
  · rfl
  · dsimp only
    split <;> rfl

theorem exec_accessFrameReceive (hl : live s unitPLZ = true) (hup : linkUp s p = true) (fcsOk trunc : Bool) :
    exec (.accessFrameReceive p bs fcsOk ⟨trunc, codeErrs⟩) s
      = .next (receiveAccess (laneCounted s p codeErrs) p bs fcsOk trunc) :=
  congrArg Host.Outcome.next (if_pos ⟨hl, hup⟩)

/-- A frame with a bad length, a bad FCS or a missing end is counted and lost. -/
theorem receiveAccess_bad {fcsOk trunc : Bool} (h : badLength s p bs = true ∨ fcsOk = false ∨ trunc = true) :
    receiveAccess (laneCounted s p codeErrs) p bs fcsOk trunc
      = badAccess (badCounted s p codeErrs (badLength s p bs) fcsOk) p bs := by
  unfold receiveAccess
  rw [maxLen_laneCounted]
  by_cases hlen : bs.length + 4 < 64 ∨ maxLen s p < bs.length + 4
  · have hbad : badLength s p bs = true := decide_eq_true hlen
    rw [if_pos hlen, hbad]
    rfl
  · have hgood : badLength s p bs = false := decide_eq_false hlen
    rw [if_neg hlen, hgood]
    cases fcsOk with
    | false => rfl
    | true =>
      obtain rfl : trunc = true := by simpa [hgood] using h
      rfl

/-- A bad frame counted is captured, and its copies are cut off where they have begun. -/
theorem badAccess_badCounted (hl : live s unitPLZ = true) (len fcsOk : Bool) :
    let w := badCounted s p codeErrs len fcsOk
    badAccess w p bs = loseFrame w (accessFrame w p bs) (accessPlaces (accessFrame w p bs) (splitTag bs).2
      (classifyAccess s p (splitTag bs).1).refused) := by
  intro w
  have hlive := ((badCounted_regsOnly s p codeErrs len fcsOk).live (fun _ h => le_of_mem_badKeys h) unitPLZ).trans hl
  rw [badAccess_eq hlive, classifyAccess_badCounted]

/-- A bad frame of one cell has no copy that is leaving already. -/
theorem loseFrame_of_small (w : State) (hsmall : bs.length + 32 ≤ 256) (refused : Bool) :
    loseFrame w (accessFrame w p bs) (accessPlaces (accessFrame w p bs) (splitTag bs).2 refused)
      = lostFrame w (accessFrame w p bs) := by
  have hstored {f : PlzFrame} (hbody : f.body = .eth (splitTag bs).2) : (storedBytes f.body).length + 32 ≤ 256 := by
    rw [hbody]
    exact (Nat.add_le_add_right (splitTag_length_le bs) 32).trans hsmall
  rw [loseFrame_eq, any_leavesEarly_of_small (hstored (accessPlaces_body _ _ _ _))]
  exact if_neg (by decide)

/-- What of a bad frame was leaving already is cut off; the frame itself is counted and captured. -/
theorem exec_accessFrameReceive_bad (hl : live s unitPLZ = true) (hup : linkUp s p = true) {fcsOk trunc : Bool}
    (h : badLength s p bs = true ∨ fcsOk = false ∨ trunc = true) :
    let w := badCounted s p codeErrs (badLength s p bs) fcsOk
    let v := lostFrame w (accessFrame w p bs)
    let x := accessPlaces (accessFrame w p bs) (splitTag bs).2 (classifyAccess s p (splitTag bs).1).refused v
    exec (.accessFrameReceive p bs fcsOk ⟨trunc, codeErrs⟩) s
        = .next (if x.1.2.any (leavesEarly x.2 x.1.1) then cutOff x.2 x.1.1 x.1.2 else v)
      ∧ (bs.length + 32 ≤ 256 → exec (.accessFrameReceive p bs fcsOk ⟨trunc, codeErrs⟩) s = .next v) := by
  intro w v x
  have hexec : exec (.accessFrameReceive p bs fcsOk ⟨trunc, codeErrs⟩) s = .next (loseFrame w (accessFrame w p bs)
      (accessPlaces (accessFrame w p bs) (splitTag bs).2 (classifyAccess s p (splitTag bs).1).refused)) := by
    rw [exec_accessFrameReceive hl hup, receiveAccess_bad h, badAccess_badCounted hl]
  exact ⟨hexec.trans (congrArg _ (loseFrame_eq _ _ _)),
    fun hsmall => hexec.trans (congrArg _ (loseFrame_of_small w hsmall _))⟩

/-! ### Good frames (R157, R172) -/

/-- A good frame as the MAC counts it. -/
def goodCounted (s : State) (p codeErrs : Nat) (bs : List Byte) : State := countGood (laneCounted s p codeErrs) p bs

/-- The registers in which a good frame is counted. -/
def goodKeys (p : Nat) : List Nat := [(F.ACC_MAC_RX_FRAMES_COUNT p).key, (F.ACC_MAC_RX_OCTETS_COUNT p).key,
  (F.ACC_LANE_ERR_COUNT (p / 4)).key]

theorem goodCounted_regsOnly (s : State) (p codeErrs : Nat) (bs : List Byte) :
    RegsOnly (goodKeys p) s (goodCounted s p codeErrs bs) := by
  have hlane : RegsOnly (goodKeys p) s (laneCounted s p codeErrs) := (RegsOnly.refl s).setF (by simp [goodKeys]) _
  exact (hlane.incF (f := F.ACC_MAC_RX_FRAMES_COUNT p) (by simp [goodKeys])).setF (by simp [goodKeys]) _

theorem getF_frames_goodCounted (s : State) (p codeErrs : Nat) (bs : List Byte) :
    getF (goodCounted s p codeErrs bs) (F.ACC_MAC_RX_FRAMES_COUNT p)
      = (getF s (F.ACC_MAC_RX_FRAMES_COUNT p) + 1) % 2 ^ 32 := by
  have hoctets : (F.ACC_MAC_RX_FRAMES_COUNT p).key ≠ (F.ACC_MAC_RX_OCTETS_COUNT p).key := by
    simp only [F.ACC_MAC_RX_FRAMES_COUNT, F.ACC_MAC_RX_OCTETS_COUNT]
    omega
  have hlane : (F.ACC_MAC_RX_FRAMES_COUNT p).key ≠ (F.ACC_LANE_ERR_COUNT (p / 4)).key := by
    simp only [F.ACC_MAC_RX_FRAMES_COUNT, F.ACC_LANE_ERR_COUNT]
    omega
  rw [goodCounted, countGood, addF, getF_setF_apart _ _ hoctets, getF_incF_same _ (show 0 + 32 ≤ 32 by decide),
    laneCounted, addF, getF_setF_apart _ _ hlane]
  rfl

/-- A good frame is counted and bridged. -/
theorem exec_accessFrameReceive_good (hl : live s unitPLZ = true) (hup : linkUp s p = true) (hmin : 64 ≤ bs.length + 4)
    (hmax : bs.length + 4 ≤ maxLen s p) (hpause : isPause bs = false) :
    exec (.accessFrameReceive p bs true ⟨false, codeErrs⟩) s
      = .next (bridgeAccess (goodCounted s p codeErrs bs) p (splitTag bs).1 (splitTag bs).2) := by
  have hlen : ¬ (bs.length + 4 < 64 ∨ maxLen (laneCounted s p codeErrs) p < bs.length + 4) := by
    rw [maxLen_laneCounted]
    omega
  rw [exec_accessFrameReceive hl hup, receiveAccess, if_neg hlen, hpause]
  rfl

/-- A refused frame is counted, captured and not bridged. -/
theorem bridgeAccess_of_refused {tag : Option (Nat × Nat)} (h : (classifyAccess s p tag).refused = true) :
    ∃ (u : State) (f : PlzFrame), bridgeAccess s p tag bs = captureFrame u f [(1023, 0, 7)]
      ∧ u.plaza.frames = s.plaza.frames ∧ u.plaza.queues = s.plaza.queues ∧ u.mem = s.mem
      ∧ getF u (F.ACC_MAC_RX_VLAN_DROP_COUNT p) = (getF s (F.ACC_MAC_RX_VLAN_DROP_COUNT p) + 1) % 2 ^ 32 := by
  refine ⟨_, _, if_pos h, rfl, rfl, rfl, ?_⟩
  have hdrop : (F.ACC_MAC_RX_VLAN_DROP_COUNT p).key ≠ (dropCounter 7).key := by
    simp only [F.ACC_MAC_RX_VLAN_DROP_COUNT, dropCounter, F.PLZ_DROP_POOL_COUNT]
    omega
  rw [getF_incF_same _ (show 0 + 32 ≤ 32 by decide), dropIngress, getF_incF_apart _ hdrop, getF_withPlaza]
  rfl

theorem vlanDropKey_ne (p : Nat) : (F.ACC_MAC_RX_VLAN_DROP_COUNT p).key ∉ goodKeys p := by
  simp only [goodKeys, F.ACC_MAC_RX_VLAN_DROP_COUNT, F.ACC_MAC_RX_FRAMES_COUNT, F.ACC_MAC_RX_OCTETS_COUNT,
    F.ACC_LANE_ERR_COUNT, List.mem_cons, List.not_mem_nil, or_false]
  omega

theorem refused_goodCounted (htag : (splitTag bs).1 = none) (hflag : flag s (F.ACC_MAC_VLAN_ACCEPT_UNTAGGED p) = false) :
    (classifyAccess (goodCounted s p codeErrs bs) p (splitTag bs).1).refused = true := by
  rw [htag]
  refine refused_of_untagged ((flag_congr ((goodCounted_regsOnly s p codeErrs bs).getF ?_)).trans hflag)
  simp only [goodKeys, F.ACC_MAC_VLAN_ACCEPT_UNTAGGED, F.ACC_MAC_RX_FRAMES_COUNT, F.ACC_MAC_RX_OCTETS_COUNT,
    F.ACC_LANE_ERR_COUNT, List.mem_cons, List.not_mem_nil, or_false]
  omega

end

/-! ### Pauses received (R155) -/

section
variable {s t : State} {p : Nat} {bs : List Byte}

/-- A PAUSE or PFC frame as the MAC counts it. -/
def pauseCounted (s : State) (p : Nat) (bs : List Byte) : State := incF (countGood s p bs) (F.ACC_MAC_RX_PAUSE_COUNT p)

/-- The registers in which a PAUSE or PFC frame is counted. -/
def pauseKeys (p : Nat) : List Nat :=
  [(F.ACC_MAC_RX_PAUSE_COUNT p).key, (F.ACC_MAC_RX_FRAMES_COUNT p).key, (F.ACC_MAC_RX_OCTETS_COUNT p).key]

/-- From `s` to `t` classes of port `p` below class 7 are paused or released. -/
structure Paused (p : Nat) (s t : State) : Prop where
  frame : t = { s with regs := t.regs, timers := t.timers }
  kept : regsKept [(F.PLZ_PORT_STAT_XOFF_RX p).key] s t
  class7 : bitF t (F.PLZ_PORT_STAT_XOFF_RX p) 7 = bitF s (F.PLZ_PORT_STAT_XOFF_RX p) 7

theorem bitF_xoff_other (s : State) (p : Nat) {c j : Nat} (b : Bool) (hj : j < 8) (hne : j ≠ c) :
    bitF (setBitF s (F.PLZ_PORT_STAT_XOFF_RX p) c b) (F.PLZ_PORT_STAT_XOFF_RX p) j = bitF s (F.PLZ_PORT_STAT_XOFF_RX p) j :=
  bitF_setBitF_other s b (show 2 + 8 ≤ 32 by decide) hj hne

protected theorem Paused.mem (h : Paused p s t) : t.mem = s.mem := by rw [h.frame]
protected theorem Paused.plaza (h : Paused p s t) : t.plaza = s.plaza := by rw [h.frame]
protected theorem Paused.outs (h : Paused p s t) : t.outs = s.outs := by rw [h.frame]

protected theorem Paused.refl (p : Nat) (s : State) : Paused p s s := ⟨rfl, regsKept_refl _ s, rfl⟩

/-- One class stopped or released, by whichever timer. -/
protected theorem Paused.setBit (h : Paused p s t) {c : Nat} (hc : c ≠ 7) (b : Bool) (l : List (TimerId × Nat)) :
    Paused p s ((setBitF t (F.PLZ_PORT_STAT_XOFF_RX p) c b).withTimers l) :=
  ⟨by rw [h.frame]; rfl, regsKept_setF h.kept List.mem_cons_self _,
    (bitF_xoff_other t p b (by decide) hc.symm).trans h.class7⟩

protected theorem Paused.pauseRx (h : Paused p s t) (c quanta : Nat) : Paused p s (pauseRx t p c quanta) := by
  unfold Machine.pauseRx
  split_ifs with hc
  · exact h
  · exact h.setBit hc false _
  · exact h.setBit hc true _

protected theorem Paused.foldl {α : Type} {f : State → α → State} (hf : ∀ v x, Paused p s v → Paused p s (f v x))
    (l : List α) (h : Paused p s t) : Paused p s (l.foldl f t) := List.foldlRecOn l f h fun v hv x _ => hf v x hv

/-- A quantum follows from the speed of the port's link. -/
theorem quantaTicks_congr (h : getF t (F.ACC_LANE_STAT_SPEED (p / 4)) = getF s (F.ACC_LANE_STAT_SPEED (p / 4))) (q : Nat) :
    quantaTicks t p q = quantaTicks s p q := by
  rw [quantaTicks, quantumTenths, h, quantaTicks, quantumTenths]

theorem Paused.quantaTicks (h : Paused p s t) (q : Nat) : quantaTicks t p q = quantaTicks s p q := by
  refine quantaTicks_congr (getF_of_regsKept h.kept ?_) q
  simp only [F.ACC_LANE_STAT_SPEED, F.PLZ_PORT_STAT_XOFF_RX, List.mem_singleton]
  omega

/-- What the step for one element establishes, and the steps for the others keep, holds after the fold. -/
theorem foldl_establishes {α β : Type} {P I : β → Prop} {f : β → α → β} {l : List α} {c : α} {v : β} (hc : c ∈ l)
    (hI : ∀ v x, I v → I (f v x)) (hset : ∀ v, I v → P (f v c)) (hkeep : ∀ v x, x ≠ c → I v → P v → P (f v x))
    (hv : I v) : P (l.foldl f v) := by
  obtain ⟨l₁, l₂, rfl⟩ := List.append_of_mem hc
  rw [List.foldl_append, List.foldl_cons]
  have hfirst : I (l₁.foldl f v) := List.foldlRecOn l₁ f hv fun v hv x _ => hI v x hv
  refine (List.foldlRecOn (motive := fun v => I v ∧ P v) l₂ f ⟨hI _ c hfirst, hset _ hfirst⟩ fun v hv x _ => ?_).2
  refine ⟨hI v x hv.1, ?_⟩
  by_cases hx : x = c
  · exact hx ▸ hset v hv.1
  · exact hkeep v x hx hv.1 hv.2

/-- Class `c` is stopped for `quanta`, or released at 0. -/
def pausedFor (p c quanta : Nat) (s t : State) : Prop :=
  bitF t (F.PLZ_PORT_STAT_XOFF_RX p) c = decide (quanta ≠ 0)
    ∧ lookupKey (.pause p c) t.timers = if quanta = 0 then none else some (s.mono + quantaTicks s p quanta)

theorem pauseRx_pausedFor (h : Paused p s t) {c : Nat} (hc : c < 7) (quanta : Nat) :
    pausedFor p c quanta s (pauseRx t p c quanta) := by
  have hset (b : Bool) : bitF (setBitF t (F.PLZ_PORT_STAT_XOFF_RX p) c b) (F.PLZ_PORT_STAT_XOFF_RX p) c = b :=
    bitF_setBitF_same t b (show 2 + 8 ≤ 32 by decide) (Nat.lt_succ_of_lt hc)
  have hmono : t.mono = s.mono := by rw [h.frame]
  rw [Machine.pauseRx, if_neg (Nat.ne_of_lt hc)]
  by_cases hq : quanta = 0
  · rw [if_pos hq]
    refine ⟨(hset false).trans (by simp [hq]), ?_⟩
    rw [lookup_stopTimer, if_pos rfl, if_pos hq]
  · rw [if_neg hq]
    refine ⟨(hset true).trans (by simp [hq]), ?_⟩
    rw [lookup_startTimer, if_pos rfl, if_neg hq, h.quantaTicks]
    exact congrArg (fun n => some (n + _)) hmono

/-- What is asked of another class leaves a class as it is. -/
theorem pausedFor_pauseRx_other {c x quanta : Nat} (hc : c < 7) (hx : x ≠ c) (n : Nat) (h : pausedFor p c quanta s t) :
    pausedFor p c quanta s (pauseRx t p x n) := by
  have hother : TimerId.pause p c ≠ .pause p x := fun e => hx (TimerId.pause.inj e).2.symm
  have hbit (b : Bool) := bitF_xoff_other t p b (Nat.lt_succ_of_lt hc) (Ne.symm hx)
  obtain ⟨hshown, htimer⟩ := h
  unfold Machine.pauseRx
  split_ifs
  · exact ⟨hshown, htimer⟩
  · exact ⟨(hbit false).trans hshown, (lookup_stopTimer _ _ _).trans ((if_neg hother).trans htimer)⟩
  · exact ⟨(hbit true).trans hshown, (lookup_startTimer _ _ _ _).trans ((if_neg hother).trans htimer)⟩

theorem paused_receivePause (s : State) (p : Nat) (bs : List Byte) :
    Paused p (pauseCounted s p bs) (receivePause s p bs) := by
  unfold receivePause
  dsimp only
  split_ifs
  · exact .foldl (fun v c hv => hv.pauseRx c _) _ (.refl p _)
  · refine .foldl (fun v n hv => ?_) _ (.refl p _)
    split
    · exact hv.pauseRx _ _
    · exact hv
  · exact .refl p _

theorem pauseCounted_regsOnly (s : State) (p : Nat) (bs : List Byte) : RegsOnly (pauseKeys p) s (pauseCounted s p bs) := by
  have hframes : RegsOnly (pauseKeys p) s (incF s (F.ACC_MAC_RX_FRAMES_COUNT p)) :=
    (RegsOnly.refl s).incF (by simp [pauseKeys])
  have hgood : RegsOnly (pauseKeys p) s (countGood s p bs) := hframes.setF (by simp [pauseKeys]) _
  exact hgood.incF (by simp [pauseKeys])

/-- A PAUSE frame received while RX_PAUSE is in force stops or releases classes 0 to 6. -/
theorem receivePause_pausedFor (hop : beAt bs 14 2 = 1) (hpfc : flag s (F.ACC_MAC_CFG_PFC_EN p) = false)
    (hrx : flag s (F.ACC_MAC_CFG_RX_PAUSE_EN p) = true) {c : Nat} (hc : c < 7) :
    pausedFor p c (beAt bs 16 2) s (receivePause s p bs) := by
  have hcfg : (F.ACC_MAC_CFG_PFC_EN p).key ∉ pauseKeys p := by
    simp only [pauseKeys, F.ACC_MAC_CFG_PFC_EN, F.ACC_MAC_RX_PAUSE_COUNT, F.ACC_MAC_RX_FRAMES_COUNT,
      F.ACC_MAC_RX_OCTETS_COUNT, List.mem_cons, List.not_mem_nil, or_false]
    omega
  have hcounted := pauseCounted_regsOnly s p bs
  have hfold : receivePause s p bs
      = (upTo 7).foldl (fun t c => pauseRx t p c (beAt bs 16 2)) (pauseCounted s p bs) :=
    if_pos ⟨hop, (flag_congr (hcounted.getF hcfg)).trans hpfc,
      (flag_congr (f := F.ACC_MAC_CFG_RX_PAUSE_EN p) (hcounted.getF hcfg)).trans hrx⟩
  have hticks : quantaTicks (pauseCounted s p bs) p (beAt bs 16 2) = quantaTicks s p (beAt bs 16 2) := by
    refine quantaTicks_congr (hcounted.getF ?_) _
    simp only [pauseKeys, F.ACC_LANE_STAT_SPEED, F.ACC_MAC_RX_PAUSE_COUNT, F.ACC_MAC_RX_FRAMES_COUNT,
      F.ACC_MAC_RX_OCTETS_COUNT, List.mem_cons, List.not_mem_nil, or_false]
    omega
  have hpaused : pausedFor p c (beAt bs 16 2) (pauseCounted s p bs) (receivePause s p bs) := by
    rw [hfold]
    exact foldl_establishes (I := Paused p (pauseCounted s p bs)) (List.mem_range.2 hc) (fun v x hv => hv.pauseRx x _)
      (fun v hv => pauseRx_pausedFor hv hc _) (fun v x hx _ hv => pausedFor_pauseRx_other hc hx _ hv) (.refl p _)
  rwa [pausedFor, hticks, hcounted.mono] at hpaused

/-- A PAUSE or PFC frame is counted as one and as a good frame. -/
theorem pauseCounted_counts (s : State) (p : Nat) (bs : List Byte) :
    getF (pauseCounted s p bs) (F.ACC_MAC_RX_PAUSE_COUNT p) = (getF s (F.ACC_MAC_RX_PAUSE_COUNT p) + 1) % 2 ^ 32
      ∧ getF (pauseCounted s p bs) (F.ACC_MAC_RX_FRAMES_COUNT p) = (getF s (F.ACC_MAC_RX_FRAMES_COUNT p) + 1) % 2 ^ 32 := by
  have hkeys : (F.ACC_MAC_RX_FRAMES_COUNT p).key ≠ (F.ACC_MAC_RX_OCTETS_COUNT p).key
      ∧ (F.ACC_MAC_RX_FRAMES_COUNT p).key ≠ (F.ACC_MAC_RX_PAUSE_COUNT p).key
      ∧ (F.ACC_MAC_RX_PAUSE_COUNT p).key ≠ (F.ACC_MAC_RX_OCTETS_COUNT p).key := by
    simp only [F.ACC_MAC_RX_FRAMES_COUNT, F.ACC_MAC_RX_OCTETS_COUNT, F.ACC_MAC_RX_PAUSE_COUNT]
    omega
  obtain ⟨hoctets, hpause, hpauseOctets⟩ := hkeys
  constructor
  · rw [pauseCounted, getF_incF_same _ (show 0 + 32 ≤ 32 by decide), countGood, addF, getF_setF_apart _ _ hpauseOctets,
      getF_incF_apart _ hpause.symm]
    rfl
  · rw [pauseCounted, getF_incF_apart _ hpause, countGood, addF, getF_setF_apart _ _ hoctets]
    exact getF_incF_same s (show 0 + 32 ≤ 32 by decide)

/-- The classes a port has stopped, and what it counts of pauses, stand in registers of their own. -/
theorem xoffKey_ne (p : Nat) : (F.PLZ_PORT_STAT_XOFF_RX p).key ∉ pauseKeys p := by
  simp only [pauseKeys, F.PLZ_PORT_STAT_XOFF_RX, F.ACC_MAC_RX_PAUSE_COUNT, F.ACC_MAC_RX_FRAMES_COUNT,
    F.ACC_MAC_RX_OCTETS_COUNT, List.mem_cons, List.not_mem_nil, or_false]
  omega

/-- What a received PAUSE or PFC frame leaves of the state, whatever it asks. -/
theorem receivePause_shows (s : State) (p : Nat) (bs : List Byte) :
    memKept s (receivePause s p bs) ∧ (receivePause s p bs).plaza = s.plaza ∧ (receivePause s p bs).outs = s.outs
      ∧ regsKept ((F.PLZ_PORT_STAT_XOFF_RX p).key :: pauseKeys p) s (receivePause s p bs)
      ∧ getF (receivePause s p bs) (F.ACC_MAC_RX_PAUSE_COUNT p) = (getF s (F.ACC_MAC_RX_PAUSE_COUNT p) + 1) % 2 ^ 32
      ∧ getF (receivePause s p bs) (F.ACC_MAC_RX_FRAMES_COUNT p) = (getF s (F.ACC_MAC_RX_FRAMES_COUNT p) + 1) % 2 ^ 32
      ∧ bitF (receivePause s p bs) (F.PLZ_PORT_STAT_XOFF_RX p) 7 = bitF s (F.PLZ_PORT_STAT_XOFF_RX p) 7 := by
  have hpaused := paused_receivePause s p bs
  have hcounted := pauseCounted_regsOnly s p bs
  obtain ⟨hpauses, hframes⟩ := pauseCounted_counts s p bs
  have hkept {f : Fld} (hf : f.key ∈ pauseKeys p) : getF (receivePause s p bs) f = getF (pauseCounted s p bs) f :=
    getF_of_regsKept hpaused.kept fun h => xoffKey_ne p (List.mem_singleton.1 h ▸ hf)
  refine ⟨memKept_of_mem (hpaused.mem.trans hcounted.mem), hpaused.plaza.trans hcounted.plaza,
    hpaused.outs.trans hcounted.outs, fun k hk => ?_, (hkept (by simp [pauseKeys])).trans hpauses,
    (hkept (by simp [pauseKeys])).trans hframes, hpaused.class7.trans (bitF_congr (hcounted.getF (xoffKey_ne p)) 7)⟩
  have hxoff : k ∉ [(F.PLZ_PORT_STAT_XOFF_RX p).key] := fun h => hk (List.mem_singleton.1 h ▸ List.mem_cons_self)
  exact (hpaused.kept k hxoff).trans (hcounted.kept k fun h => hk (List.mem_cons_of_mem _ h))

theorem exec_pauseFrameReceive (hup : linkUp s p = true) (hpause : isPause bs = true) :
    exec (.pauseFrameReceive p bs) s = .next (receivePause s p bs) :=
  congrArg Host.Outcome.next (if_pos (by rw [hup, hpause]; rfl))

/-! ### PAUSE_EXPIRY (R155) -/

/-- A class released as its pause ends. -/
theorem pauseExpiry_shows {c : Nat} (hdue : due s (.pause p c) = true) :
    ∃ t, exec (.pauseExpiry p c) s = .next t ∧ bitF t (F.PLZ_PORT_STAT_XOFF_RX p) c = false
      ∧ running t (.pause p c) = false ∧ regsKept [(F.PLZ_PORT_STAT_XOFF_RX p).key] s t
      ∧ t = { s with regs := t.regs, timers := t.timers } := by
  refine ⟨_, congrArg Host.Outcome.next (if_pos hdue), ?_, ?_,
    regsKept_setF (regsKept_refl _ s) List.mem_cons_self _, rfl⟩
  · have hbit : bitF (setBitF s (F.PLZ_PORT_STAT_XOFF_RX p) c false) (F.PLZ_PORT_STAT_XOFF_RX p) c = false := by
      rw [bitF, setBitF, getF_setF_same s _ _ (show 2 + 8 ≤ 32 by decide), bitAt, Nat.testBit_mod_two_pow,
        testBit_withBit, if_pos rfl, Bool.and_false]
    exact hbit
  · rw [running_stopTimer, decide_eq_true rfl]
    rfl

/-! ### PAUSE_REFRESH (R155) -/

/-- The same as `foldl_upTo_of_other`, asked of the steps of the fold alone. -/
theorem foldl_upTo_of_lone {β : Type} {f : β → Nat → β} {t : β} {n u : Nat} (hu : u < n)
    (hbefore : ∀ v < n, v ≠ u → f t v = t) (hafter : ∀ v < n, v ≠ u → f (f t u) v = f t u) :
    (upTo n).foldl f t = f t u := by
  have hguard (x : β) : (upTo n).foldl f x = (upTo n).foldl (fun y v => if v < n then f y v else y) x :=
    List.foldl_ext _ _ x fun y v hv => (if_pos (List.mem_range.1 hv)).symm
  rw [hguard, foldl_upTo_of_other hu, if_pos hu]
  · intro v hv
    split
    case isTrue hlt => exact hbefore v hlt hv
    case isFalse => rfl
  · intro v hv
    rw [if_pos hu]
    split
    case isTrue hlt => exact hafter v hlt hv
    case isFalse => rfl

/-- What PAUSE_REFRESH does for one class. -/
def refreshDue (p : Nat) (t : State) (c : Nat) : State := if due t (.pauseTx p c) then refreshPause t p c else t

/-- The frame that repeats what a port asks for class `c`, or at 8 for all. -/
def pauseAgain (s : State) (p c : Nat) : OutEvent :=
  if c = 8 then .pauseFrame p false 0 0xFFFF else .pauseFrame p true (BitVec.ofNat 8 (prioritiesOf s p c)) 0xFFFF

/-- A PAUSE or PFC repeated: sent, counted, and due again. -/
def pauseResent (s : State) (p c : Nat) : State :=
  incF (output s (pauseAgain s p c)) (F.ACC_MAC_TX_PAUSE_COUNT p)

theorem refreshPause_of_wanted {c : Nat} (h : pauseWanted s p c = true) : refreshPause s p c
    = startTimer (pauseResent s p c) (.pauseTx p c) (quantaTicks (pauseResent s p c) p 32768) := by
  rw [refreshPause, h, if_neg (by decide)]
  by_cases hc : c = 8
  · subst hc
    rfl
  · have hall : ¬ c = pauseAll := hc
    simp only [if_neg hall, pauseResent, pauseAgain, if_neg hc]
    rfl

theorem refreshPause_of_unwanted {c : Nat} (h : pauseWanted s p c = false) :
    refreshPause s p c = stopTimer s (.pauseTx p c) := by
  rw [refreshPause, h]
  rfl

theorem quantaTicks_pauseResent (s : State) (p c q : Nat) : quantaTicks (pauseResent s p c) p q = quantaTicks s p q := by
  refine quantaTicks_congr ((getF_incF_apart _ ?_).trans (getF_output _ _ _)) q
  simp only [F.ACC_LANE_STAT_SPEED, F.ACC_MAC_TX_PAUSE_COUNT]
  omega

/-- A class refreshed leaves the timers of the others. -/
theorem due_refreshPause_other {c k : Nat} (h : k ≠ c) : due (refreshPause s p c) (.pauseTx p k) = due s (.pauseTx p k) := by
  have hother : TimerId.pauseTx p k ≠ .pauseTx p c := fun e => h (TimerId.pauseTx.inj e).2
  cases hw : pauseWanted s p c with
  | true =>
    rw [refreshPause_of_wanted hw, due_startTimer_other _ _ hother]
    rfl
  | false =>
    rw [refreshPause_of_unwanted hw, due, lookup_stopTimer, if_neg hother]
    rfl

/-- PAUSE_REFRESH of a port with one class due. -/
theorem exec_pauseRefresh_lone {c : Nat} (hc : c < 9) (hdue : due s (.pauseTx p c) = true)
    (hothers : ∀ k < 9, k ≠ c → due s (.pauseTx p k) = false) : exec (.pauseRefresh p) s = .next (refreshPause s p c) := by
  have hself : refreshDue p s c = refreshPause s p c := if_pos hdue
  have hidle {t : State} {k : Nat} (h : due t (.pauseTx p k) = false) : refreshDue p t k = t := if_neg (by simp [h])
  have hfold : (upTo 9).foldl (refreshDue p) s = refreshDue p s c := by
    refine foldl_upTo_of_lone hc (fun k hk hne => hidle (hothers k hk hne)) fun k hk hne => ?_
    rw [hself]
    exact hidle ((due_refreshPause_other hne).trans (hothers k hk hne))
  exact congrArg Host.Outcome.next (hfold.trans hself)

theorem exec_pauseRefresh_idle (h : ∀ c < 9, due s (.pauseTx p c) = false) : exec (.pauseRefresh p) s = .next s := by
  have hfold : (upTo 9).foldl (refreshDue p) s = s :=
    foldl_eq_self fun c hc => if_neg (by simp [h c (List.mem_range.1 hc)])
  exact congrArg Host.Outcome.next hfold

/-- What repeating a PAUSE or PFC leaves. -/
theorem refreshPause_shows {c : Nat} (h : pauseWanted s p c = true) :
    (refreshPause s p c).outs = s.outs ++ [pauseAgain s p c]
      ∧ lookupKey (.pauseTx p c) (refreshPause s p c).timers = some (s.mono + quantaTicks s p 32768)
      ∧ regsKept [(F.ACC_MAC_TX_PAUSE_COUNT p).key] s (refreshPause s p c) ∧ memKept s (refreshPause s p c)
      ∧ getF (refreshPause s p c) (F.ACC_MAC_TX_PAUSE_COUNT p) = (getF s (F.ACC_MAC_TX_PAUSE_COUNT p) + 1) % 2 ^ 32 := by
  rw [refreshPause_of_wanted h, quantaTicks_pauseResent]
  refine ⟨rfl, (lookup_startTimer _ _ _ _).trans (if_pos rfl),
    regsKept_setF (t := output s (pauseAgain s p c)) (regsKept_refl _ s) List.mem_cons_self _, fun _ => rfl, ?_⟩
  exact getF_incF_same (output s (pauseAgain s p c)) (show 0 + 32 ≤ 32 by decide)

end

/-- Settles O39: what a queue takes or loses, what a port's MAC counts, and what a pause stops, each by its own operation. -/
theorem plazaAdmission : Obligations.PlazaAdmission := by
  refine ⟨?lost, ?taken, ?bad, ?good, ?untagged, ?pause, fun s p c hdue => pauseExpiry_shows hdue, ?refresh,
    fun s p h => exec_pauseRefresh_idle h⟩
  case lost =>
    intro s q inPort bs hl hq hp cls g r d hnew h
    have hreason : offerReason (numbered s) (admittedFrame s q inPort bs) (admitTarget s q) = d :=
      offerReason_admitted_lost hnew h
    have hd : d ≠ 0 ∧ d < 16 := by
      change (if r ≠ 0 then r else 2) ≠ 0 ∧ (if r ≠ 0 then r else 2) < 16
      split
      case isTrue hr => exact ⟨hr, admitReason_lt s q cls⟩
      case isFalse => decide
    exact frameAdmit_lost hl hq hp hnew hd.1 hd.2 hreason
  case taken =>
    intro s q inPort bs hl hq hp cls n hnew hr hfit
    exact frameAdmit_taken hl hq hp hnew (offerReason_admitted_taken hnew hr hfit)
  case bad =>
    intro s p codeErrs bs fcsOk trunc hl hup len h
    have honly := (badCounted_regsOnly s p codeErrs len fcsOk).incF (f := dropCounter 6) (by simp [badKeys])
    obtain ⟨hlen, hfcs, hdrop, hlane⟩ := dropIngress_badCounted_counts s p codeErrs len fcsOk
    exact ⟨dropIngress (badCounted s p codeErrs len fcsOk) 6, accessFrame (badCounted s p codeErrs len fcsOk) p bs,
      honly.kept, honly.plaza, honly.memKept, hlen, hfcs, hdrop, hlane, exec_accessFrameReceive_bad hl hup h⟩
  case good =>
    intro s p codeErrs bs hl hup hmin hmax hpause
    have honly := goodCounted_regsOnly s p codeErrs bs
    exact ⟨_, exec_accessFrameReceive_good hl hup hmin hmax hpause, honly.kept, honly.plaza, honly.memKept,
      getF_frames_goodCounted s p codeErrs bs⟩
  case untagged =>
    intro s p codeErrs bs hl hup hmin hmax hpause htag hflag
    have honly := goodCounted_regsOnly s p codeErrs bs
    obtain ⟨u, f, hbridge, hframes, hqueues, hmem, hcount⟩ :=
      bridgeAccess_of_refused (bs := (splitTag bs).2) (refused_goodCounted (codeErrs := codeErrs) htag hflag)
    refine ⟨u, f, (exec_accessFrameReceive_good hl hup hmin hmax hpause).trans (congrArg _ hbridge),
      hframes.trans (congrArg _ honly.plaza), hqueues.trans (congrArg _ honly.plaza),
      memKept_of_mem (hmem.trans honly.mem), ?_⟩
    rw [hcount, honly.getF (vlanDropKey_ne p)]
  case pause =>
    intro s p bs hup hpause
    obtain ⟨hmem, hplaza, houts, hregs, hpauses, hframes, hclass7⟩ := receivePause_shows s p bs
    refine ⟨_, exec_pauseFrameReceive hup hpause, hmem, hplaza, houts, ?_, hpauses, hframes, hclass7,
      fun hop hpfc hrx c hc => ?_⟩
    · exact fun k hk => hregs k fun hmem => hk (by simp only [pauseKeys, List.mem_cons] at hmem ⊢; tauto)
    · exact receivePause_pausedFor hop hpfc hrx hc
  case refresh =>
    intro s p c hc hdue hothers
    have hexec := exec_pauseRefresh_lone hc hdue hothers
    exact ⟨fun hw => ⟨_, hexec, refreshPause_shows hw⟩, fun hw => hexec.trans (congrArg _ (refreshPause_of_unwanted hw))⟩

end Sys2Proof.Machine

/-! # Proofs: messages, list runs and emissions of the Junction -/

namespace Sys2Proof.Machine

/-! ### Pipelines and what a command takes out of the Junction -/

section
variable (s : State) (x : Pipeline)

theorem pipeOf_setPipe {p k : Nat} (hp : p < 4) (hk : k < 4) :
    pipeOf (setPipe s p x) k = if k = p then x else pipeOf s k := by
  interval_cases p <;> interval_cases k <;> rfl

theorem setPipe_frame (p : Nat) : setPipe s p x = s.withJct (setPipe s p x).jct := by
  unfold setPipe
  split <;> rfl

theorem setPipe_inbox (p : Nat) : (setPipe s p x).jct.inbox = s.jct.inbox := by
  unfold setPipe
  split <;> rfl

theorem setPipe_emissions (p : Nat) : (setPipe s p x).jct.emissions = s.jct.emissions := by
  unfold setPipe
  split <;> rfl

theorem setPipe_mem (p : Nat) : (setPipe s p x).mem = s.mem := by rw [setPipe_frame, State.withJct_mem]

theorem regWord_setPipe (p k : Nat) : regWord (setPipe s p x) k = regWord s k := by
  rw [setPipe_frame]
  rfl

theorem getF_setPipe (p : Nat) (f : Fld) : getF (setPipe s p x) f = getF s f := getF_congr (regWord_setPipe s x p _)

end

theorem pipeOf_congr {s t : State} (h : t.jct = s.jct) (p : Nat) : pipeOf t p = pipeOf s p := by
  simp only [pipeOf, h]

/-- The state in which the messages `rest` are left of those offered. -/
def withInbox (s : State) (rest : List JctMsg) : State := s.withJct { s.jct with inbox := rest }

theorem pipeOf_withInbox (s : State) (rest : List JctMsg) (p : Nat) : pipeOf (withInbox s rest) p = pipeOf s p := rfl

protected theorem RegsOnly.jct {ks : List Nat} {s u : State} (h : RegsOnly ks s u) : u.jct = s.jct := by rw [h.frame]

theorem incF_regsOnly (s : State) (f : Fld) : RegsOnly [f.key] s (incF s f) :=
  (RegsOnly.refl s).incF List.mem_cons_self

/-! ### Messages looked up (R178) -/

theorem exec_junctionMessageReceive_off {s : State} {m : JctMsg} {rest : List JctMsg} (hl : live s unitJCT = true)
    (hin : s.jct.inbox = m :: rest) (hoff : flag s F.JCT_CFG_EN = false) :
    exec .junctionMessageReceive s = .next (withInbox s rest) := by
  change execJunctionMessageReceive s = _
  rw [execJunctionMessageReceive, if_pos hl, hin]
  exact congrArg _ (if_neg (ne_true_of_eq_false hoff))

theorem exec_junctionMessageReceive_on {s : State} {m : JctMsg} {rest : List JctMsg} (hl : live s unitJCT = true)
    (hin : s.jct.inbox = m :: rest) (hon : flag s F.JCT_CFG_EN = true) :
    exec .junctionMessageReceive s = .next (acceptMsg (withInbox s rest) m) := by
  change execJunctionMessageReceive s = _
  rw [execJunctionMessageReceive, if_pos hl, hin]
  exact congrArg _ (if_pos hon)

theorem activeBank_incF_rx (s : State) (n : Nat) : activeBank (incF s F.JCT_RX_COUNT) n = activeBank s n :=
  congrArg (bitAt · n) (getF_incF_apart s (by decide))

/-- A key reads by the banks and window memory, which no count of messages touches. -/
theorem readKey_incF_rx (s : State) (k : Nat) : readKey (incF s F.JCT_RX_COUNT) k = readKey s k := by
  rw [readKey, activeBank_incF_rx]
  rfl

theorem makeRun_incF_rx (s : State) (k first kind : Nat) (m : JctMsg) :
    makeRun (incF s F.JCT_RX_COUNT) k first kind m = makeRun s k first kind m := by
  rw [makeRun, activeBank_incF_rx, activeBank_incF_rx]
  rfl

section
variable {s : State} {m : JctMsg} {k : Nat} (hecc : s.flt.eccWords = [])
include hecc

theorem acceptMsg_of_no_key (hkey : lookupMsg s m = none) : acceptMsg s m = incF s F.JCT_RX_NOKEY_COUNT := by
  simp only [acceptMsg, eccTouch_clean s _ _ hecc, hkey]

theorem acceptMsg_of_room (hkey : lookupMsg s m = some k) (hroom : (pipeOf s (k % 4)).received.length < 64) :
    acceptMsg s m = setPipe (incF s F.JCT_RX_COUNT) (k % 4) { pipeOf s (k % 4) with
      received := (pipeOf s (k % 4)).received ++ [makeRun s k (readKey s k).2.2.1 m.kind m] } := by
  simp only [acceptMsg, eccTouch_clean s _ _ hecc, hkey, readKey_incF_rx, makeRun_incF_rx]
  exact if_neg (Nat.not_le.2 hroom)

theorem acceptMsg_of_full (hkey : lookupMsg s m = some k) (hfull : 64 ≤ (pipeOf s (k % 4)).received.length) :
    acceptMsg s m = incF (incF s F.JCT_RX_COUNT) F.JCT_RX_LATE_COUNT := by
  simp only [acceptMsg, eccTouch_clean s _ _ hecc, hkey]
  exact if_pos hfull

end

/-! ### List runs (R179, R188) -/

section
variable {s u : State} {p : Nat} (hl : live s unitJCT = true) (hp : p < 4)
include hl hp

theorem exec_listRun_of_none (hrun : takeRun (discardLate (skipTimed s p) p) p = (none, u)) :
    exec (.listRun p) s = .next u := by
  change execListRun p s = _
  rw [execListRun, if_pos ⟨hl, hp⟩, hrun]

theorem exec_listRun_of_some {r : JctRun} (hrun : takeRun (discardLate (skipTimed s p) p) p = (some r, u)) :
    exec (.listRun p) s = .next (runList u r r.first [] 64) := by
  change execListRun p s = _
  rw [execListRun, if_pos ⟨hl, hp⟩, hrun]

end

theorem routeError_lt (s : State) (run : JctRun) (r : Route) (bufs : Buffers) : routeError s run r bufs < 8 := by
  unfold routeError
  dsimp only
  split_ifs <;> decide

section
variable {s : State} {run : JctRun} {route : Nat} {bufs : Buffers}

theorem stepRoute_of_not_valid (hv : (readRoute s run.routeBank route).valid = false) :
    stepRoute s run route bufs = ⟨s, bufs, false⟩ := if_pos (by rw [hv]; rfl)

section
variable (hecc : s.flt.eccWords = [])
include hecc

/-- A list whose first route is the last ends with it. -/
theorem runList_of_last (hlast : (readRoute s run.routeBank route).last = true) (fuel : Nat) :
    runList s run route bufs (fuel + 1) = (stepRoute s run route bufs).state := by
  simp only [runList, eccTouch_clean s _ _ hecc, hlast, Bool.or_true, if_true]

theorem stepRoute_of_error (hv : (readRoute s run.routeBank route).valid = true)
    (he : routeError (incF s F.JCT_STEPS_COUNT) run (readRoute s run.routeBank route) bufs ≠ 0) :
    stepRoute s run route bufs = ⟨noteRouteError (incF s F.JCT_STEPS_COUNT) route
      (routeError (incF s F.JCT_STEPS_COUNT) run (readRoute s run.routeBank route) bufs), bufs, false⟩ := by
  simp only [stepRoute, hv, touchAll_clean s _ hecc, Bool.not_true, Bool.false_eq_true, if_false]

theorem stepRoute_of_no_error (hv : (readRoute s run.routeBank route).valid = true)
    (he : routeError (incF s F.JCT_STEPS_COUNT) run (readRoute s run.routeBank route) bufs = 0) :
    stepRoute s run route bufs
      = doRoute (incF s F.JCT_STEPS_COUNT) run route (readRoute s run.routeBank route) bufs := by
  simp only [stepRoute, hv, touchAll_clean s _ hecc, Bool.not_true, Bool.false_eq_true, if_false, he]

end

end

section
variable (s : State) (route : Nat)

/-- A route error is counted and recorded in two registers. -/
theorem noteRouteError_regsOnly (code : Nat) :
    RegsOnly [F.JCT_ROUTE_ERR_COUNT.key, F.JCT_ERR_INFO_CODE.key] s (noteRouteError s route code) :=
  (((RegsOnly.refl s).incF (by decide)).setF (by decide) _).setF (by decide) _

theorem getF_code_noteRouteError {code : Nat} (hcode : code < 16) :
    getF (noteRouteError s route code) F.JCT_ERR_INFO_CODE = code :=
  (getF_setF_same _ _ _ (by decide)).trans (Nat.mod_eq_of_lt hcode)

theorem getF_route_noteRouteError (code : Nat) :
    getF (noteRouteError s route code) F.JCT_ERR_INFO_ROUTE = route % 2 ^ 14 :=
  (getF_setF_other _ _ _ _ (by decide) (by decide)).trans (getF_setF_same _ _ _ (by decide))

theorem getF_count_noteRouteError (code : Nat) :
    getF (noteRouteError s route code) F.JCT_ROUTE_ERR_COUNT = (getF s F.JCT_ROUTE_ERR_COUNT + 1) % 2 ^ 32 := by
  rw [noteRouteError, getF_setF_apart _ _ (by decide), getF_setF_apart _ _ (by decide)]
  exact getF_incF_same s (by decide)

end

/-! ### Emissions (R193, R194) -/

section
variable {s : State} {e : Emission} {i : Nat}

theorem exec_emissionHandover_in_time (hl : live s unitJCT = true) (he : s.jct.emissions[i]? = some e)
    (hlate : emissionLate s e = false) :
    exec (.emissionHandover i) s = .next (handOver (incF (takeEmission s i) F.JCT_EMIT_COUNT) e) := by
  change execEmissionHandover i s = _
  simp [execEmissionHandover, he, hl, hlate]

theorem exec_emissionHandover_late (hl : live s unitJCT = true) (he : s.jct.emissions[i]? = some e)
    (hlate : emissionLate s e = true) :
    exec (.emissionHandover i) s = .next (incF (takeEmission s i) F.JCT_EMIT_LATE_COUNT) := by
  change execEmissionHandover i s = _
  simp [execEmissionHandover, he, hl, hlate]

theorem exec_emitLateDiscard_late (he : s.jct.emissions[i]? = some e) (hlate : emissionLate s e = true) :
    exec (.emitLateDiscard i) s = .next (incF (takeEmission s i) F.JCT_EMIT_LATE_COUNT) := by
  change execEmitLateDiscard i s = _
  simp [execEmitLateDiscard, he, hlate]

/-- An emission to a message queue that has the credit is committed there under producer 4 (R194, R203). -/
theorem handOver_to_queue (hsink : e.sink = 5) (hmay : mayProduce s e.dest 4 e.bytes.length = true) :
    handOver s e = commitMsg s e.dest (bitsAt e.arg.toNat 0 3) 4 e.bytes := by
  simp only [handOver, hsink, hmay, if_true]

end

/-- What a producer may write follows from its unit, the registers of the queues and their contents. -/
theorem mayProduce_congr {s t : State} (hl : live t unitMQ = live s unitMQ)
    (hregs : ∀ k, 0x500001000 ≤ k → regWord t k = regWord s k) (hq : t.queues = s.queues) (n producer len : Nat) :
    mayProduce t n producer len = mayProduce s n producer len := by
  have hf : ∀ f : Fld, 0x500001000 ≤ f.key → getF t f = getF s f := fun f hk => getF_congr (hregs _ hk)
  have hen : flag t (F.MQ_Q_CFG_EN n) = flag s (F.MQ_Q_CFG_EN n) := flag_congr (hf _ (Nat.le_add_right _ _))
  have hslot : producerSlot t n producer = producerSlot s n producer := by
    unfold producerSlot
    congr 1
    funext k
    have hle : 0x500001000 ≤ 0x500001004 + 0x20 * n + 0x4 * k := by omega
    rw [flag_congr (hf (F.MQ_Q_PROD_VALID n k) hle), hf (F.MQ_Q_PROD_PRODUCER n k) hle]
  have hcredit : creditOf t n producer = creditOf s n producer := by
    have hle : ∀ k, 0x500001000 ≤ 0x500001004 + 0x20 * n + 0x4 * k := by omega
    simp only [creditOf, hslot, queueOf, hq, hf (F.MQ_Q_PROD_CREDIT n _) (hle _)]
  simp only [mayProduce, hl, hen, hslot, hcredit]

/-- A count of emissions leaves what a producer may write. -/
theorem mayProduce_emitted (s : State) (i n producer len : Nat) :
    mayProduce (incF (takeEmission s i) F.JCT_EMIT_COUNT) n producer len = mayProduce s n producer len := by
  have honly := incF_regsOnly (takeEmission s i) F.JCT_EMIT_COUNT
  refine mayProduce_congr (s := s) (honly.live (by decide) unitMQ) (fun k hk => honly.kept k ?_) ?_ n producer len
  · intro hmem
    rw [List.mem_singleton.1 hmem] at hk
    exact absurd hk (by decide)
  · rw [honly.frame]
    rfl

theorem queueOf_commitMsg (s : State) (n prio producer : Nat) (bytes : List Byte) :
    queueOf (commitMsg s n prio producer bytes) n = { queueOf s n with
      msgs := (queueOf s n).msgs ++ [⟨prio, producer, (queueOf s n).serial + 1, bytes⟩],
      serial := (queueOf s n).serial + 1 } :=
  (queueOf_setQueue s n n _).trans (if_pos rfl)

/-! ### Runs discarded and skipped (R190) -/

theorem exec_runLateDiscard {s : State} {p : Nat} (hl : live s unitJCT = true) (hp : p < 4) :
    exec (.runLateDiscard p) s = .next (discardLate s p) := congrArg Host.Outcome.next (if_pos ⟨hl, hp⟩)

theorem exec_timedRunSkip {s : State} {p : Nat} (hl : live s unitJCT = true) (hp : p < 4) :
    exec (.timedRunSkip p) s = .next (skipTimed s p) := congrArg Host.Outcome.next (if_pos ⟨hl, hp⟩)

/-- Overtaken runs, each counted at its key. -/
def countOvertaken (runs : List JctRun) (s : State) : State :=
  runs.foldl (fun t r => incF t (F.JCT_OVR_COUNT r.key)) s

/-- The timed runs of pipeline `p` whose cycle is over, taken out of it. -/
def overtakenTaken (s : State) (p : Nat) : State :=
  setPipe s p { pipeOf s p with timed := (pipeOf s p).timed.filter (fun r => r.cycle = s.time.cycleNo) }

theorem skipTimed_eq (s : State) (p : Nat) :
    skipTimed s p = countOvertaken ((pipeOf s p).timed.filter (fun r => r.cycle ≠ s.time.cycleNo)) (overtakenTaken s p) :=
  rfl

theorem countOvertaken_frame (runs : List JctRun) (s : State) :
    countOvertaken runs s = { s with regs := (countOvertaken runs s).regs } := by
  induction runs generalizing s with
  | nil => rfl
  | cons r runs ih =>
    change countOvertaken runs (incF s _) = { s with regs := (countOvertaken runs (incF s _)).regs }
    rw [ih, incF_frame]

/-- The keys' counters stand in words of their own. -/
theorem getF_incF_ovr (s : State) (j k : Nat) :
    getF (incF s (F.JCT_OVR_COUNT j)) (F.JCT_OVR_COUNT k)
      = (getF s (F.JCT_OVR_COUNT k) + if j = k then 1 else 0) % 2 ^ 32 := by
  by_cases hjk : j = k
  · subst hjk
    rw [if_pos rfl]
    exact getF_incF_same s (show 0 + 32 ≤ 32 by decide)
  · have hkey : (F.JCT_OVR_COUNT k).key ≠ (F.JCT_OVR_COUNT j).key := by
      change 0x400001000 + 0x4 * k ≠ 0x400001000 + 0x4 * j
      omega
    rw [if_neg hjk, getF_incF_apart s hkey]
    exact (Nat.mod_eq_of_lt (getF_lt s (F.JCT_OVR_COUNT k))).symm

theorem getF_countOvertaken (runs : List JctRun) (s : State) (k : Nat) :
    getF (countOvertaken runs s) (F.JCT_OVR_COUNT k)
      = (getF s (F.JCT_OVR_COUNT k) + (runs.filter (fun r => decide (r.key = k))).length) % 2 ^ 32 := by
  induction runs generalizing s with
  | nil => exact (Nat.mod_eq_of_lt (getF_lt s (F.JCT_OVR_COUNT k))).symm
  | cons r runs ih =>
    change getF (countOvertaken runs (incF s _)) _ = _
    rw [ih, getF_incF_ovr, Nat.mod_add_mod, List.filter_cons]
    by_cases hk : r.key = k
    · simp only [hk, if_true, decide_true, List.length_cons, Nat.add_assoc, Nat.add_comm 1]
    · simp only [hk, if_false, decide_false, Bool.false_eq_true, Nat.add_zero]

/-! ### The statement about runs and emissions -/

section
variable {s : State} {m : JctMsg} {rest : List JctMsg} {k p i : Nat} {e : Emission}

/-- What a message without a key leaves. -/
theorem junctionMessageReceive_no_key (hl : live s unitJCT = true) (hin : s.jct.inbox = m :: rest)
    (hon : flag s F.JCT_CFG_EN = true) (hecc : s.flt.eccWords = []) (hkey : lookupMsg s m = none) :
    ∃ t, exec .junctionMessageReceive s = .next t ∧ t.jct = { s.jct with inbox := rest } ∧ t.mem = s.mem
      ∧ regsKept [F.JCT_RX_NOKEY_COUNT.key] s t
      ∧ getF t F.JCT_RX_NOKEY_COUNT = (getF s F.JCT_RX_NOKEY_COUNT + 1) % 2 ^ 32 := by
  have honly := incF_regsOnly (withInbox s rest) F.JCT_RX_NOKEY_COUNT
  refine ⟨_, (exec_junctionMessageReceive_on hl hin hon).trans
    (congrArg _ (acceptMsg_of_no_key (s := withInbox s rest) hecc hkey)), honly.jct, honly.mem, honly.kept, ?_⟩
  exact getF_incF_same (withInbox s rest) (by decide)

/-- What a message whose key matches leaves where its pipeline has room. -/
theorem junctionMessageReceive_queued (hl : live s unitJCT = true) (hin : s.jct.inbox = m :: rest)
    (hon : flag s F.JCT_CFG_EN = true) (hecc : s.flt.eccWords = []) (hkey : lookupMsg s m = some k)
    (hroom : (pipeOf s (k % 4)).received.length < 64) :
    ∃ t run, exec .junctionMessageReceive s = .next t ∧ t.jct.inbox = rest ∧ t.jct.emissions = s.jct.emissions
      ∧ (∀ p, p < 4 → pipeOf t p = if p = k % 4 then { pipeOf s p with received := (pipeOf s p).received ++ [run] }
          else pipeOf s p)
      ∧ run.key = k ∧ run.first = (readKey s k).2.2.1 ∧ run.kind = m.kind ∧ run.msg = m ∧ run.queuedAt = s.mono
      ∧ run.routeBank = activeBank s 2 ∧ run.tplBank = activeBank s 3
      ∧ regsKept [F.JCT_RX_COUNT.key] s t ∧ t.mem = s.mem
      ∧ getF t F.JCT_RX_COUNT = (getF s F.JCT_RX_COUNT + 1) % 2 ^ 32 := by
  have hk : k % 4 < 4 := Nat.mod_lt _ (by decide)
  have honly := incF_regsOnly (withInbox s rest) F.JCT_RX_COUNT
  refine ⟨_, makeRun s k (readKey s k).2.2.1 m.kind m, (exec_junctionMessageReceive_on hl hin hon).trans
    (congrArg _ (acceptMsg_of_room (s := withInbox s rest) hecc hkey hroom)), ?_, ?_, fun p hp => ?_, rfl, rfl, rfl, rfl,
    rfl, rfl, rfl, fun j hj => ?_, ?_, ?_⟩
  · rw [setPipe_inbox, honly.jct]
    rfl
  · rw [setPipe_emissions, honly.jct]
    rfl
  · rw [pipeOf_setPipe _ _ hk hp, pipeOf_congr honly.jct, pipeOf_withInbox, pipeOf_withInbox]
    split
    · next h =>
      subst h
      rfl
    · rfl
  · rw [regWord_setPipe]
    exact honly.kept j hj
  · rw [setPipe_mem]
    exact honly.mem
  · rw [getF_setPipe]
    exact getF_incF_same (withInbox s rest) (by decide)

/-- What a message whose key matches leaves where 64 runs wait. -/
theorem junctionMessageReceive_late (hl : live s unitJCT = true) (hin : s.jct.inbox = m :: rest)
    (hon : flag s F.JCT_CFG_EN = true) (hecc : s.flt.eccWords = []) (hkey : lookupMsg s m = some k)
    (hfull : 64 ≤ (pipeOf s (k % 4)).received.length) :
    ∃ t, exec .junctionMessageReceive s = .next t ∧ t.jct = { s.jct with inbox := rest } ∧ t.mem = s.mem
      ∧ getF t F.JCT_RX_LATE_COUNT = (getF s F.JCT_RX_LATE_COUNT + 1) % 2 ^ 32
      ∧ regsKept [F.JCT_RX_COUNT.key, F.JCT_RX_LATE_COUNT.key] s t := by
  have honly : RegsOnly [F.JCT_RX_COUNT.key, F.JCT_RX_LATE_COUNT.key] (withInbox s rest)
      (incF (incF (withInbox s rest) F.JCT_RX_COUNT) F.JCT_RX_LATE_COUNT) :=
    ((RegsOnly.refl _).incF (by decide)).incF (by decide)
  refine ⟨_, (exec_junctionMessageReceive_on hl hin hon).trans
    (congrArg _ (acceptMsg_of_full (s := withInbox s rest) hecc hkey hfull)), honly.jct, honly.mem, ?_, honly.kept⟩
  refine (getF_incF_same _ (by decide)).trans ?_
  rw [getF_incF_apart _ (by decide)]
  rfl

/-- What a run's one route leaves that is valid and met with an error. -/
theorem runList_error {u : State} {r : JctRun} (hecc : u.flt.eccWords = [])
    (hlast : (readRoute u r.routeBank r.first).last = true) (hv : (readRoute u r.routeBank r.first).valid = true) {code : Nat}
    (hcode : routeError (incF u F.JCT_STEPS_COUNT) r (readRoute u r.routeBank r.first) [] = code) (hne : code ≠ 0) :
    runList u r r.first [] 64 = noteRouteError (incF u F.JCT_STEPS_COUNT) r.first code := by
  subst hcode
  rw [runList_of_last hecc hlast, stepRoute_of_error hecc hv hne]

/-- What an emission handed over to a message queue with credit leaves. -/
theorem emissionHandover_to_queue (he : s.jct.emissions[i]? = some e) (hl : live s unitJCT = true)
    (hlate : emissionLate s e = false) (hsink : e.sink = 5) (hmay : mayProduce s e.dest 4 e.bytes.length = true) :
    ∃ t, exec (.emissionHandover i) s = .next t ∧ t.jct.emissions = s.jct.emissions.eraseIdx i
      ∧ (queueOf t e.dest).msgs = (queueOf s e.dest).msgs
        ++ [⟨bitsAt e.arg.toNat 0 3, 4, (queueOf s e.dest).serial + 1, e.bytes⟩]
      ∧ regsKept [F.JCT_EMIT_COUNT.key] s t ∧ getF t F.JCT_EMIT_COUNT = (getF s F.JCT_EMIT_COUNT + 1) % 2 ^ 32 := by
  have honly := incF_regsOnly (takeEmission s i) F.JCT_EMIT_COUNT
  refine ⟨_, (exec_emissionHandover_in_time hl he hlate).trans
    (congrArg _ (handOver_to_queue hsink ((mayProduce_emitted s i _ _ _).trans hmay))), rfl, ?_, honly.kept, ?_⟩
  · rw [queueOf_commitMsg]
    rfl
  · exact getF_incF_same (takeEmission s i) (by decide)

/-- What the discard of a late emission leaves, by either of its two commands. -/
theorem emitLateDiscard_late (he : s.jct.emissions[i]? = some e) (hlate : emissionLate s e = true) :
    ∃ t, exec (.emitLateDiscard i) s = .next t ∧ t.jct = { s.jct with emissions := s.jct.emissions.eraseIdx i }
      ∧ t.queues = s.queues ∧ t.mem = s.mem ∧ regsKept [F.JCT_EMIT_LATE_COUNT.key] s t
      ∧ getF t F.JCT_EMIT_LATE_COUNT = (getF s F.JCT_EMIT_LATE_COUNT + 1) % 2 ^ 32
      ∧ (live s unitJCT = true → exec (.emissionHandover i) s = .next t) := by
  have honly := incF_regsOnly (takeEmission s i) F.JCT_EMIT_LATE_COUNT
  exact ⟨_, exec_emitLateDiscard_late he hlate, honly.jct, rfl, honly.mem, honly.kept,
    getF_incF_same (takeEmission s i) (by decide), fun hl => exec_emissionHandover_late hl he hlate⟩

/-- What the discard of late received runs leaves. -/
theorem runLateDiscard_shows (hl : live s unitJCT = true) (hp : p < 4) : ∃ t, exec (.runLateDiscard p) s = .next t
    ∧ (pipeOf t p).received = (pipeOf s p).received.filter (fun r => !runLate s r)
    ∧ (pipeOf t p).timed = (pipeOf s p).timed ∧ (∀ k, k < 4 → k ≠ p → pipeOf t k = pipeOf s k)
    ∧ t.jct.inbox = s.jct.inbox ∧ t.jct.emissions = s.jct.emissions ∧ t.mem = s.mem
    ∧ regsKept [F.JCT_RX_LATE_COUNT.key] s t ∧ getF t F.JCT_RX_LATE_COUNT
      = (getF s F.JCT_RX_LATE_COUNT + ((pipeOf s p).received.filter (runLate s)).length) % 2 ^ 32 := by
  have hpipe : ∀ k < 4, pipeOf (discardLate s p) k = if k = p then { pipeOf s p with
      received := (pipeOf s p).received.filter (fun r => !runLate s r) } else pipeOf s k :=
    fun k hk => pipeOf_setPipe s _ hp hk
  refine ⟨_, exec_runLateDiscard hl hp, ?_, ?_, fun k hk hne => ?_, setPipe_inbox s _ p, setPipe_emissions s _ p,
    setPipe_mem s _ p, fun k hk => ?_, ?_⟩
  · rw [hpipe p hp, if_pos rfl]
  · rw [hpipe p hp, if_pos rfl]
  · rw [hpipe k hk, if_neg hne]
  · exact (regsKept_setF (regsKept_refl _ _) List.mem_cons_self _ k hk).trans (regWord_setPipe s _ p k)
  · refine (getF_setF_same _ _ _ (by decide)).trans ?_
    rw [getF_setPipe]
    rfl

/-- What the skip of overtaken timed runs leaves. -/
theorem timedRunSkip_shows (hl : live s unitJCT = true) (hp : p < 4) : ∃ t, exec (.timedRunSkip p) s = .next t
    ∧ (pipeOf t p).timed = (pipeOf s p).timed.filter (fun r => r.cycle = s.time.cycleNo)
    ∧ (pipeOf t p).received = (pipeOf s p).received ∧ (∀ k, k < 4 → k ≠ p → pipeOf t k = pipeOf s k) ∧ t.mem = s.mem
    ∧ ∀ k, getF t (F.JCT_OVR_COUNT k) = (getF s (F.JCT_OVR_COUNT k) + ((pipeOf s p).timed.filter (fun r =>
        decide (r.cycle ≠ s.time.cycleNo) && decide (r.key = k))).length) % 2 ^ 32 := by
  have hframe := countOvertaken_frame ((pipeOf s p).timed.filter (fun r => r.cycle ≠ s.time.cycleNo)) (overtakenTaken s p)
  have hpipe : ∀ k < 4, pipeOf (skipTimed s p) k = if k = p then { pipeOf s p with
      timed := (pipeOf s p).timed.filter (fun r => r.cycle = s.time.cycleNo) } else pipeOf s k := by
    intro k hk
    rw [skipTimed_eq, hframe]
    exact pipeOf_setPipe s _ hp hk
  refine ⟨_, exec_timedRunSkip hl hp, ?_, ?_, fun k hk hne => ?_, ?_, fun k => ?_⟩
  · rw [hpipe p hp, if_pos rfl]
  · rw [hpipe p hp, if_pos rfl]
  · rw [hpipe k hk, if_neg hne]
  · rw [skipTimed_eq, hframe]
    exact setPipe_mem s _ p
  · rw [skipTimed_eq, getF_countOvertaken, overtakenTaken, getF_setPipe, List.filter_filter]
    simp only [Bool.and_comm]

end

/-- Settles O41: what each command takes out of the Junction, and which counter or queue it reaches. -/
theorem junctionRuns : Obligations.JunctionRuns := by
  refine ⟨fun _ _ _ => exec_junctionMessageReceive_off, fun _ _ _ => junctionMessageReceive_no_key,
    fun _ _ _ _ => junctionMessageReceive_queued, fun _ _ _ _ => junctionMessageReceive_late,
    fun _ _ _ => exec_listRun_of_none, fun s u p r hl hp hrun hecc hlast => ?run,
    fun _ _ _ he hl => exec_emissionHandover_in_time hl he, fun _ _ _ => emissionHandover_to_queue,
    fun _ _ _ => emitLateDiscard_late, fun _ _ => runLateDiscard_shows, fun _ _ => timedRunSkip_shows⟩
  case run =>
    have hexec : exec (.listRun p) s = .next (runList u r r.first [] 64) := exec_listRun_of_some hl hp hrun
    refine ⟨fun hv => ?skipped, fun code hv hcode hne => ?error, fun hv hzero => ?done⟩
    case skipped => rw [hexec, runList_of_last hecc hlast, stepRoute_of_not_valid hv]
    case error =>
      have honly := noteRouteError_regsOnly (incF u F.JCT_STEPS_COUNT) r.first code
      refine ⟨_, hexec.trans (congrArg _ (runList_error hecc hlast hv hcode hne)), honly.mem, honly.jct,
        getF_code_noteRouteError _ _ ?_, getF_route_noteRouteError _ _ _, ?_, ?_⟩
      · exact Nat.lt_trans (hcode ▸ routeError_lt _ _ _ _) (by decide)
      · rw [honly.getF (by decide)]
        exact getF_incF_same u (by decide)
      · rw [getF_count_noteRouteError, getF_incF_apart u (by decide)]
    case done => rw [hexec, runList_of_last hecc hlast, stepRoute_of_no_error hecc hv hzero]

end Sys2Proof.Machine
